-- ==== Sys2Proof/Word.lean ====
section
/-! DEFINITION. The word types of the block: bytes, byte strings and sparse tables. The manual's quantities are
counts, indices and byte strings; a register field is a natural number below 2 to the power of its width. -/

namespace Sys2Proof

/-- A byte held in memory. -/
abbrev Byte := BitVec 8

/-- A string of byte values, lowest address first. Each element is taken modulo 256. -/
abbrev Bytes := List Nat

/-- A sparse table from a number to a record; a key that is absent stands for the table's default record. -/
abbrev Tab (α : Type) := List (Nat × α)

end Sys2Proof
end

