-- ==== Sys2Proof/Syntax.lean ====
section
/-! DEFINITION. The commands of the block: one constructor per row of spec/opcode_table.json, with the operands that
come from outside: what is written or read, what a packet or a descriptor says, what a sensor or a decoder reports.
The order in which commands stand in the queue is the order in which the block decides them (R21, log entry 8). -/

namespace Sys2Proof

/-- What a word read through a basin port belongs to (Table 13-5): a command of a ring or a link, a block in a lane
queue, a block read from a position, or none of these. -/
inductive WordUse where
  | other
  | ringCmd (r seq : Nat)
  | linkCmd (l tag : Nat)
  | block (id : Nat)
  | position (pba : Nat)
  deriving DecidableEq, Repr

/-- Consecutive samples of one spot, wedge windows included: the rail bit at which S0 stood when the first was taken, and the
values at the converter's input in ADC codes (R206). -/
structure SpotRun where
  spot : Nat
  start : Int
  x : List Int
  deriving DecidableEq, Repr

/-- One pass of a data spot over a block: the samples of the spots of the pickup since the last postamble bit of its last block, up
to 7 channel bits past the last postamble bit of this one, which stand at the head of the next run again; the reference Eref for each 32 channel bits of the data-period stream (R230); and the 18-bit band
fields of S0 at the wedges before the row's first preamble bit, latest first (R55, R284). -/
structure SpotRead where
  runs : List SpotRun := []
  ref : List Nat := []
  fields : List Nat := []
  deriving DecidableEq, Repr

/-- What a pickup answered to the reads of R95: the word at register 0x04 and its 64-bit identity. `resent` tells how often the
read of register 0x04, and then those of IDENT0 to IDENT3, went out again before a good response came: 4 when none of R94's four
attempts got one. -/
structure PickupAnswer where
  pickup : Nat
  contract : Nat
  ident : Nat
  resent : List Nat := []
  deriving DecidableEq, Repr

/-- A block that the scan of a load decoded (R71, R247): its pickup and lane, whether it passed, its frames without a sync and with
one off its place, and the corrections of its codewords, none where one was not accepted. -/
structure ScanRead where
  pickup : Nat
  lane : Nat
  passed : Bool
  fly : Nat
  shifted : Nat
  words : List (Option Nat)
  deriving DecidableEq, Repr

/-- A catalogue position as one copy reads it (R71): no block with a good CRC, BLANK (R226), or the 65,536 user bytes. -/
inductive CatBlock where
  | failed
  | blank
  | good (user : Bytes)
  deriving DecidableEq, Repr

/-- A recorded user or spare row that a load finds on a layer of a surface (R73): per lane the EPOCH of its header, and
whether its CRC is good. -/
structure FoundRow where
  surface : Nat
  layer : Nat
  row : Nat
  lanes : List (Nat × Nat × Bool)
  deriving DecidableEq, Repr

/-- What the device reads in a MEDIA_LOAD: the pickups' answers (R95), the 96-bit format words of a surface and layer in
successive revolutions (R49), the catalogue row by row in append order with the seven lanes of the copies on surfaces 0, 9, 18
and 27 (R71), and the rows recorded (R73). -/
structure LoadRead where
  answers : List PickupAnswer := []
  /-- The blocks that the load decoded, in order. -/
  reads : List ScanRead := []
  formats : List (Nat × Nat × List Nat) := []
  catalogue : List (List (List CatBlock)) := []
  rows : List FoundRow := []
  deriving DecidableEq, Repr

/-- What a loop engine latches from a pickup at edge 0 (R107): the 14-bit codes of FE and TPP and of the TLE conversion
completed, the RF envelope of S0 in mVppd, the part of a mark interval run since the last good mark in 1/65,536 (R178),
and the measured coil currents of the four axes in units of full scale, Q2.29. -/
structure ServoIn where
  fe : Int := 0
  tpp : Int := 0
  tle : Int := 0
  env : Nat := 0
  rail : Nat := 0
  coils : List Int := []
  deriving DecidableEq, Repr

/-- What a loop engine latches from a spindle at edge 0 (R172 to R177): the 12-bit codes of the three shunts and of the
switch node, the reading of SPCMD (in µV, in 10^−6 of the period, or the mean period in REFCLK edges), and the
observer's angle and phase error in 2^−16 turn and speed in rpm. -/
structure SpindleIn where
  u : Int := 0
  v : Int := 0
  w : Int := 0
  bus : Nat := 0
  pin : Nat := 0
  angle : Nat := 0
  error : Nat := 0
  speed : Int := 0
  deriving DecidableEq, Repr

/-- The alignment block that a receive pair of a Spring link carries (R348, R350): its sync header, 2 for a control block and 1
for a data block as clause 49 writes them, its 64 payload bits, and the delay in blocks at which it arrived. -/
structure AlignSeen where
  sync : Nat
  word : Nat
  skew : Nat
  deriving DecidableEq, Repr

/-- A command of the block. -/
inductive Instr where
  -- Power
  /-- POWER_ON_RESET_END: Power-on reset ends (R515); the level of SPI_VSEL at that edge (R546). -/
  | powerOnResetEnd (spiVselHigh : Bool)
  /-- VIN_BROWNOUT: VIN has been below 5.5 V for more than 10 µs (R516). -/
  | vinBrownout
  /-- CONVERTER_OUT_OF_REGULATION: An internal rail leaves regulation (R557). -/
  | converterOutOfRegulation
  /-- VIN_RISE: VIN passes 5.5 V (R516, R557). -/
  | vinRise
  /-- PERST_N_ASSERT: PERST_n falls (R517). -/
  | perstNAssert
  /-- PERST_N_RELEASE: PERST_n rises (R517); the two slot headers the boot ROM reads from the flash (R521). -/
  | perstNRelease (slotA slotB : Bytes)
  /-- GLOBAL_RESET: A write of 1 to GLOBAL.RESET (R528); the two slot headers. -/
  | globalReset (slotA slotB : Bytes)
  /-- FUNCTION_LEVEL_RESET: A function-level reset (R529). -/
  | functionLevelReset
  /-- EXTEST_LOAD: EXTEST is loaded on the test access port (R549). -/
  | extestLoad
  /-- TEST_LOGIC_RESET: The test access port enters Test-Logic-Reset (R549); the two slot headers the boot ROM reads when that starts a reset. -/
  | testLogicReset (slotA slotB : Bytes)
  /-- TIME_LO_READ: A read of GLOBAL.TIME_LO (R16). -/
  | timeLoRead
  /-- VCORE_LEVEL_WRITE: A write of GLOBAL.VCORE.LEVEL (R23). -/
  | vcoreLevelWrite (level : Fin 256)
  /-- VCORE_SETTLED: VCORE has been at its level for 20 µs (R23). -/
  | vcoreSettled
  /-- SNAP_TAKE: A write of 1 to GLOBAL.SNAP.TAKE (R41). -/
  | snapTake
  /-- SNAP_DONE: All snapshot registers hold the copy (R41). -/
  | snapDone
  /-- PACE_UPDATE: The pace of the six dies is updated (R31): the ring counts of dies 0 to 5. -/
  | paceUpdate (counts : List Nat)
  /-- REGISTER_WRITE: A host write of a 32-bit value at a BAR0 offset. -/
  | registerWrite (addr value : Nat)
  /-- BOOT_SLOT_HASHED: The chosen slot's body has been read and hashed (R521): its bytes, and what the pickups answered (R95). -/
  | bootSlotHashed (body : Bytes) (answers : List PickupAnswer)
  -- BasinMem
  /-- BASIN_SPD_READ: SPD of the eight slots (channel m slot j at place 2m + j): the row of Table 13-1, 5 any other organisation, 6 an SPD that does not answer, none an empty slot. -/
  | basinSpdRead (slots : List (Option Nat))
  /-- BASIN_TRAIN_STEP: A training step ends on a subchannel unit (R422). -/
  | basinTrainStep (u : Fin 8) (slot : Fin 2) (ok : Bool)
  /-- BASIN_UNIT_INITIALISED: The next unit has its last word written (R423). -/
  | basinUnitInitialised
  /-- BASIN_PORT_READ: A port presents a word read (R434), and what the word belongs to. -/
  | basinPortRead (port : Fin 8) (word : Nat) (use : WordUse)
  /-- BASIN_PORT_WRITE: A port presents a whole-word write (R435). -/
  | basinPortWrite (port : Fin 8) (word : Nat) (data : Bytes)
  /-- WRITE_AGE_EXPIRY: The oldest queued write of a channel is older than WAGE (R432). -/
  | writeAgeExpiry (m : Fin 4)
  /-- BASIN_COMMAND_ISSUE: Channel m issues its next command (R431); for a read, the error patterns that the DRAM added to symbols, and the bits by which the row addressed differs from the one asked for. -/
  | basinCommandIssue (m : Fin 4) (error : List (Nat × Nat)) (address : Nat)
  /-- SOFT_REPAIR_DONE: A soft repair ends (R442). -/
  | softRepairDone (m : Fin 4)
  /-- BASIN_REFRESH: A refresh interval boundary of channel m (R440). -/
  | basinRefresh (m : Fin 4)
  /-- DIMM_TEMP_READ: A DIMM sensor is read, in 0.25 °C (R420). -/
  | dimmTempRead (m : Fin 4) (slot : Fin 2) (temp : Int)
  /-- PATROL_READ: The patrol reads its next word (R443). -/
  | patrolRead
  /-- BASIN_UNIT_WAIT_SERVED: Units have become free for the oldest work waiting (R579). -/
  | basinUnitWaitServed
  /-- IMPORT_SIZE_WRITE: A write of SERVICE.IMPORT.SIZE (R574). -/
  | importSizeWrite (size : Nat)
  /-- BAR2_WRITE: A BAR2 write arrives (R310). -/
  | bar2Write (addr : Nat) (data : Bytes)
  /-- BAR2_READ: A BAR2 read arrives (R310). -/
  | bar2Read (addr len : Nat)
  -- TrackCache
  /-- CACHE_ACCESS: A cache user (0 service cores, 1 parity engine, 2 map lookups) accesses 1 to 64 bytes (R452) for some use, asks for a prefetch of a region, or both; an SRAM finding of Table 14-3 (0 one bit, 1 two bits in data, 2 two bits in the tag) and its way. -/
  | cacheAccess (user : Fin 3) (use : WordUse) (write : Bool) (addr len : Nat) (data : Bytes) (prefetch : Option Nat) (sram : Option (Nat × Nat))
  /-- CACHE_FILL_COMPLETE: The four words of a missing line have arrived (R452). -/
  | cacheFillComplete (line : Nat)
  /-- PREFETCH_FILL_COMPLETE: The 512 words of a prefetched region have arrived (R467). -/
  | prefetchFillComplete (entry : Fin 64)
  /-- CACHE_ENABLE_WRITE: A write of CACHE.CTRL.EN (R472). -/
  | cacheEnableWrite (en : Bool)
  /-- LOCKMASK_WRITE: A write of CACHE.LOCKMASK (R461). -/
  | lockmaskWrite (mask : Fin 65536)
  /-- CACHE_MAINT_COMPLETE: Every covered line of the oldest CACHE_MAINT has been acted on (R455). -/
  | cacheMaintComplete
  /-- CLEAN: CACHE_MAINT OP 0; an SRAM finding of Table 14-3 it meets: kind, set, way, word. -/
  | clean (r : Fin 256) (cookie mode wayMask addr length : Nat) (sram : Option (Nat × Nat × Nat × Nat))
  /-- INVALIDATE: CACHE_MAINT OP 1; an SRAM finding of Table 14-3 it meets: kind, set, way, word. -/
  | invalidate (r : Fin 256) (cookie mode wayMask addr length : Nat) (sram : Option (Nat × Nat × Nat × Nat))
  /-- CLEAN_AND_INVALIDATE: CACHE_MAINT OP 2; an SRAM finding of Table 14-3 it meets: kind, set, way, word. -/
  | cleanAndInvalidate (r : Fin 256) (cookie mode wayMask addr length : Nat) (sram : Option (Nat × Nat × Nat × Nat))
  /-- LOCK_FILL: CACHE_MAINT OP 3; an SRAM finding of Table 14-3 it meets: kind, set, way, word. -/
  | lockFill (r : Fin 256) (cookie mode wayMask addr length : Nat) (sram : Option (Nat × Nat × Nat × Nat))
  -- Host
  /-- WELLHEAD_WRITE: A 32-bit write to BAR4 (R315). -/
  | wellheadWrite (offset value : Nat)
  /-- INDEX_WORD_READ: An index word read returns (R313): 0 to 255 tail of a submission ring, 256 to 511 head of a completion ring, 512 to 575 head of an event ring. -/
  | indexWordRead (sel : Fin 576) (value : Nat)
  /-- HOST_POLL: The poll timer expires (R317). -/
  | hostPoll
  /-- FULL_RING_REREAD: 10 µs pass with a completion or event ring full (R322, R484). -/
  | fullRingReread (sel : Fin 576)
  /-- RING_ENABLE: A write of the EN field of a ring (R314). -/
  | ringEnable (sel : Fin 576) (en : Bool)
  /-- COMMAND_COMPLETION: The oldest completion waiting for completion ring c is posted (R321). -/
  | commandCompletion (c : Fin 256)
  /-- COALESCE_TIMER: COAL_US pass since the first entry not signalled (R323). -/
  | coalesceTimer (c : Fin 256)
  /-- HOST_READ_COMPLETION: Data a RECORD or BLOCK_WRITE fetches from host memory arrives, or the read returns an error (R330). -/
  | hostReadCompletion (r : Fin 256) (seq : Nat) (data : Bytes) (ok : Bool)
  /-- FENCE: FENCE: bit 0 DONE, bit 1 MEDIA, bit 2 EVENT (R36). -/
  | fence (r : Fin 256) (cookie : Nat) (scope : Fin 8)
  /-- FENCE_SATISFIED: Every scope of the oldest fence of ring r is satisfied (R36). -/
  | fenceSatisfied (r : Fin 256)
  /-- QUEUE_RESET: QUEUE_RESET (R338) and the tail word it reads in step 2. -/
  | queueReset (r : Fin 256) (cookie target tail : Nat)
  /-- QUEUE_RESET_MARKER: No aborted command of ring t will write or post further (R339). -/
  | queueResetMarker (t : Fin 256)
  /-- DEFERRED_LOG_READ: CATALOG_READ of a deferred log: of a Spring link, or of the ring itself (R344, R409). -/
  | deferredLogRead (r : Fin 256) (cookie : Nat) (link : Option (Fin 8)) (buf len : Nat)
  /-- UNKNOWN_OPCODE: A descriptor whose OPCODE is not in Table 10-5 (R324). -/
  | unknownOpcode (r : Fin 256) (cookie : Nat) (opcode : Fin 256)
  -- Takes
  /-- RECORD: RECORD; the addresses and lengths of its scatter list, empty for a contiguous buffer. -/
  | record (r : Fin 256) (cookie : Nat) (fua : Bool) (take offset length addr : Nat) (sgl : List (Nat × Nat)) (hostTime : Nat)
  /-- RETRIEVE: RETRIEVE; its scatter list as in RECORD. -/
  | retrieve (r : Fin 256) (cookie take offset length addr : Nat) (sgl : List (Nat × Nat))
  /-- FLUSH: FLUSH. -/
  | flush (r : Fin 256) (cookie : Nat)
  /-- TAKE_OPEN: TAKE_OPEN. -/
  | takeOpen (r : Fin 256) (cookie take hostTime volume : Nat) (label : Bytes)
  /-- TAKE_CLOSE: TAKE_CLOSE. -/
  | takeClose (r : Fin 256) (cookie take hostTime buf len : Nat)
  /-- TAKE_QUERY: TAKE_QUERY. -/
  | takeQuery (r : Fin 256) (cookie take buf len : Nat)
  /-- CATALOG_READ: CATALOG_READ of records. -/
  | catalogRead (r : Fin 256) (cookie select first max buf len : Nat)
  /-- BLOCK_WRITE: BLOCK_WRITE. -/
  | blockWrite (r : Fin 256) (cookie : Nat) (fua : Bool) (pba addr hostTime : Nat)
  /-- BLOCK_READ: BLOCK_READ. -/
  | blockRead (r : Fin 256) (cookie pba options addr hdrAddr : Nat)
  /-- PEER_EXPORT: PEER_EXPORT. -/
  | peerExport (r : Fin 256) (cookie take offset length addr window : Nat)
  /-- STRIPE_COMMIT: A range of a take is committed: every block complete, or STRIPE_WAIT has passed (R390). -/
  | stripeCommit (take range : Nat)
  /-- CATALOG_ROW_TIMER: 60 s since the oldest record not yet on the medium was appended (R583). -/
  | catalogRowTimer
  /-- ALLOC_RECORD_TIMER: 60 s with a surface writing (R272). -/
  | allocRecordTimer
  -- Media
  /-- MEDIA_LOAD: MEDIA_LOAD, and what the device reads in it. -/
  | mediaLoad (r : Fin 256) (cookie mask : Nat) (read : LoadRead)
  /-- MEDIA_UNLOAD: MEDIA_UNLOAD. -/
  | mediaUnload (r : Fin 256) (cookie : Nat)
  /-- SPINDLE_SET: SPINDLE_SET. -/
  | spindleSet (r : Fin 256) (cookie : Nat) (wait : Bool) (mask target accel : Nat)
  /-- TRACE_READ: TRACE_READ. -/
  | traceRead (r : Fin 256) (cookie engine buf : Nat)
  /-- CALIB_MEASURE: CALIB_MEASURE. -/
  | calibMeasure (r : Fin 256) (cookie item index buf len : Nat)
  /-- SELF_TEST: SELF_TEST. -/
  | selfTest (r : Fin 256) (cookie kind buf len : Nat)
  /-- SELFTEST_ITEM_DONE: The running self-test item ends (R414). -/
  | selftestItemDone (result firstFail duration value : Nat)
  /-- SELFTEST_SUSPENDED: A command needs what the item uses (R413). -/
  | selftestSuspended
  /-- SELFTEST_RESUMED: 500 ms pass with no command using it (R413). -/
  | selftestResumed
  /-- SCRUB_READ: The next stripe has been scrubbed (R410): every block of it has been decoded, or has left the ladder. -/
  | scrubRead
  /-- CALIB_MEASURE_START: The start condition of a waiting measurement holds: the oldest such starts (R505). -/
  | calibMeasureStart
  /-- CALIB_MEASURE_END: A running measurement ends: its item and index, the values of Table 16-3 measured per element, and the figures of an ADC with the selection in force and with the proposal, or the residual and the samples used of a loop (R509). -/
  | calibMeasureEnd (item : Fin 7) (index : Nat) (elements : List (List Int)) (figSel figProp : Int)
  /-- CALIB_COMMIT: A write of 1 to CALIB.COMMIT (R511). -/
  | calibCommit
  /-- ATTEST: ATTEST. -/
  | attest (r : Fin 256) (cookie : Nat) (nonce : Bytes) (buf len : Nat)
  /-- VERIFY: FW_LOAD ACTION 1: the image in host memory, header and body. -/
  | verify (r : Fin 256) (cookie addr len : Nat) (image : Bytes)
  /-- PROGRAM: FW_LOAD ACTION 2, or a reserved ACTION. -/
  | program (r : Fin 256) (cookie action addr len : Nat) (image : Bytes)
  /-- FW_PROGRAM_END: The programmed slot has been read back (R525): what it holds, header and body. -/
  | fwProgramEnd (back : Bytes)
  -- Spring
  /-- BLOCK_LOCK_GAIN: A lane gains block lock. -/
  | blockLockGain (l : Fin 8) (lane : Fin 4)
  /-- BLOCK_LOCK_LOSS: A lane loses block lock. -/
  | blockLockLoss (l : Fin 8) (lane : Fin 4)
  /-- ALIGNMENT_FOUND: Alignment blocks have arrived on the four receive pairs, as each carries them (R350). -/
  | alignmentFound (l : Fin 8) (pairs : List AlignSeen)
  /-- LACK: A LACK arrives (R354). -/
  | lack (l : Fin 8) (ackSeq : Nat)
  /-- LNAK: An LNAK arrives: SEQUENCE, or GRANT_EXPIRED (Table 11-2). -/
  | lnak (l : Fin 8) (expired : Bool) (ackSeq : Nat)
  /-- PACKET_DISCARD: A packet arrives whose CRC, LENGTH or SEQ makes the device discard it, or whose type its sender may not send: its bytes (R351 to R353). -/
  | packetDiscard (l : Fin 8) (frame : Bytes)
  /-- WRITE: CMD WRITE. -/
  | springWrite (l : Fin 8) (seq tag : Nat) (fua : Bool) (cookie take offset length hostTime : Nat)
  /-- READ: CMD READ. -/
  | springRead (l : Fin 8) (seq tag cookie take offset length : Nat)
  /-- LOG: CMD LOG. -/
  | springLog (l : Fin 8) (seq tag cookie length : Nat)
  /-- UNKNOWN_OP: CMD with an OP outside Table 11-3. -/
  | unknownOp (l : Fin 8) (seq tag op cookie : Nat)
  /-- UNSUPPORTED_PACKET_TYPE: A packet with a TYPE outside Table 11-2. -/
  | unsupportedPacketType (l : Fin 8) (seq ptype : Nat)
  /-- DATA: DATA from the sender (R364). -/
  | springData (l : Fin 8) (seq tag grant offset : Nat) (payload : Bytes)
  /-- QRST: A QRST request from the sender (R373). -/
  | qrst (l : Fin 8) (seq : Nat)
  /-- CREDIT: Credits returned by the sender (R360). -/
  | credit (l : Fin 8) (seq count : Nat)
  /-- CREDIT_GRANT: The device grants credits (R359). -/
  | creditGrant (l : Fin 8) (count : Nat)
  /-- XRDY: The device grants the next piece of a WRITE (R363). -/
  | xrdy (l : Fin 8) (tag length : Nat)
  /-- XRDY_TIMEOUT: A grant expires (R365). -/
  | xrdyTimeout (l : Fin 8) (grant : Nat)
  /-- LACK_SEND: The device acknowledges (R354). -/
  | lackSend (l : Fin 8)
  /-- REPLAY_TIMEOUT: 20 µs without a LACK that advances (R355). -/
  | replayTimeout (l : Fin 8)
  /-- DOWN_TIMEOUT: RETRAIN has lasted DOWN_TMO (R356). -/
  | downTimeout (l : Fin 8)
  /-- LINK_DISABLE: A write of 0 to CTRL.EN, or SPMOD_PRS_n rises (R581). -/
  | linkDisable (l : Fin 8) (byRegister : Bool)
  /-- LINK_ENABLE: A write of 1 to CTRL.EN. -/
  | linkEnable (l : Fin 8)
  /-- MODULE_PRESENT: SPMOD_PRS_n falls. -/
  | modulePresent (l : Fin 8)
  /-- SPRING_QRESET: A write of 1 to SPRING[l].QRESET (R373). -/
  | springQreset (l : Fin 8)
  /-- QRST_REPORT: The aborted commands of link l are quiet (R374). -/
  | qrstReport (l : Fin 8)
  /-- STAT: The next waiting packet of link l is sent when the replay buffer has room (R355). -/
  | springStat (l : Fin 8)
  /-- GRANT_BUDGET_PERIOD: 100 µs of the sharing of R378. -/
  | grantBudgetPeriod
  /-- DEFICIT_SECOND: A second of device time ends (R381). -/
  | deficitSecond
  -- Record
  /-- ROW_ALLOCATE: A row write is allocated (R250): 0 user row, 1 row of a BLOCK_WRITE, 2 spare row, 3 catalogue row; the predicted device time of its first preamble bit (R253). -/
  | rowAllocate (p : Fin 32) (L : Fin 4) (kind : Fin 4) (time : Nat)
  /-- ROW_START: The first preamble bit of the allocated row is emitted (R256). -/
  | rowStart (p : Fin 32)
  /-- ROW_WRITTEN: The last postamble bit of the row in progress is emitted (R263). -/
  | rowWritten (p : Fin 32)
  /-- FETCH_DEADLINE: A block of the allocated row is not staged 20 µs before its first bit (R254). -/
  | fetchDeadline (p : Fin 32)
  /-- MORDANT_CHECK: The verify read of a written block of lane k = lane + 1 is decoded (R241, R264), from the samples of the spots of the pickup since the last block checked there. -/
  | mordantCheck (p : Fin 32) (lane : Fin 7) (runs : List SpotRun)
  /-- OPC_START: A pending OPC of a layer starts (R276). -/
  | opcStart (p : Fin 32) (L : Fin 4)
  /-- OPC_REQ: A write of 1 to PICKUP[p].OPC.REQ (R275). -/
  | opcReq (p : Fin 32)
  /-- OPC_BAND_DONE: The present test band ends (R276): whether marks were found on it, and per lane 1 to 7 the verify spot's samples in the data periods of sectors 0 to 10, and its timing errors at transitions, in 2^−16 channel bit, in sectors 11 to 15. -/
  | opcBandDone (p : Fin 32) (L : Fin 4) (marked : Bool) (samples errors : List (List (List Int)))
  /-- REALLOC_WAIT_EXPIRY: The oldest queued copy has waited REALLOC_WAIT (R295). -/
  | reallocWaitExpiry (p : Fin 32) (L : Fin 4)
  -- Channel
  /-- BLOCK_DECODED: Decoding of a block read at level 0 completes (R241), from the pass over it. -/
  | blockDecoded (pba : Nat) (read : SpotRead)
  /-- LADDER_REREAD_END: The re-read of the row of a ladder block ends (R282): the pass over each block of the row. -/
  | ladderRereadEnd (pba : Nat) (reads : List (Nat × SpotRead))
  /-- LADDER_LEVEL_DECODED: The decode of the present ladder level completes (R281). -/
  | ladderLevelDecoded (pba : Nat)
  /-- RAIL_WAIT_EXPIRY: MTO has stayed unlocked for RAIL_WAIT (R280). -/
  | railWaitExpiry (pba : Nat)
  /-- LADDER_PLACE_FREE: A ladder place is free for the oldest block waiting (R290). -/
  | ladderPlaceFree
  /-- DESKEW_CHECK_END: Deskew verification over 16 wedges, or acquisition over 64, ends for a spot (R208). -/
  | deskewCheckEnd (p : Fin 32) (s : Fin 16)
  /-- DESKEW_SHIFT: A spot has found the mark at the same nonzero offset in 16 consecutive wedges (R211). -/
  | deskewShift (p : Fin 32) (s : Fin 16)
  /-- DROPOUT: Eight samples of low envelope on a spot (R230): the rail position of the first, the 39 ADC codes up to the eighth, oldest first, and the 8,192 envelopes over which Eref runs. -/
  | dropout (p : Fin 32) (s : Fin 16) (start : Nat) (codes : List Int) (refs : List Nat)
  /-- DROPOUT_END: Eight samples at or above the level (R230): the rail position of the last low one before them, and the 39 ADC codes up to the eighth. -/
  | dropoutEnd (p : Fin 32) (s : Fin 16) (stop : Nat) (codes : List Int)
  /-- SCOUT_DEFECT: The scout's level has differed for SCOUT.LEN samples (R231): the lane-4 rail position of the first of them, and the levels of the last 4,096 + SCOUT.LEN samples, oldest first. -/
  | scoutDefect (p : Fin 32) (start : Nat) (levels : List Nat)
  /-- SCOUT_DEFECT_END: The scout's level has been within the limit for SCOUT.LEN samples (R231): the lane-4 rail position of the last differing one, and the levels as at SCOUT_DEFECT. -/
  | scoutDefectEnd (p : Fin 32) (stop : Nat) (levels : List Nat)
  /-- RAIL_ADDRESS_MARK: The 40 bits of a rail address mark (Table 02-6), decoded within ±2 channel bits of its predicted position or not (R18, R52). -/
  | railAddressMark (p : Fin 32) (near : Bool) (word : Nat)
  /-- MTO_LOCK: Eight consecutive good marks (R18). -/
  | mtoLock (p : Fin 32)
  /-- MTO_UNLOCK: Four consecutive missed marks (R19). -/
  | mtoUnlock (p : Fin 32)
  -- Loop
  /-- LOOP_SAMPLE: Edge 0 of a sample period (R105): the inputs latched from the four pickups and the two spindles of engine e. -/
  | loopSample (e : Fin 8) (pickups : List ServoIn) (spindles : List SpindleIn)
  /-- LOOP_OUTPUT: Edge 200 of a sample period (R106); whether the program has completed. -/
  | loopOutput (e : Fin 8) (complete : Bool)
  /-- BANK_SWAP: A write of LOOP[e].BANK.SWAP (R118). -/
  | bankSwap (e : Fin 8) (mask : Nat)
  /-- AXIS_MODE_WRITE: A write of AX[a].MODE (R116). -/
  | axisModeWrite (e : Fin 8) (a : Fin 16) (mode : Fin 4)
  /-- FF_CLEAR: A write of 1 to FF.CLEAR (R131). -/
  | ffClear (e : Fin 8) (a : Fin 16)
  /-- RRO_WRITE: A write of a feed-forward table entry (R131). -/
  | rroWrite (e : Fin 8) (a : Fin 16) (w : Fin 384) (value : Nat)
  /-- WEDGE: A spot finds the servo address mark of a wedge (R56, R126): its 10-bit index field, the burst amplitudes A, B, C and D, and the offset in channel bits at which the mark stood (R208, R211). -/
  | wedge (p : Fin 32) (sp : Fin 16) (index a b c d : Nat) (offset : Int)
  /-- WEDGE_TIMER_EXPIRY: The wedge timer of a spot expires without a servo address mark (R126). -/
  | wedgeTimerExpiry (p : Fin 32) (sp : Fin 16)
  /-- WEDGE_STALE: A lane has missed four wedges (R127). -/
  | wedgeStale (p : Fin 32) (lane : Fin 7)
  /-- FOCUS_SEARCH: 2.0 ms after the frame that wrote SA for L0 the focus sweep starts (R132). -/
  | focusSearch (p : Fin 32)
  /-- FOCUS_SWEEP_END: A sweep ramp ends without capture (R132). -/
  | focusSweepEnd (p : Fin 32)
  /-- FOCUS_LOSS: Focus is lost (R133). -/
  | focusLoss (p : Fin 32)
  /-- TRACK_LOSS: Tracking is lost (R133). -/
  | trackLoss (p : Fin 32)
  /-- LAYER_JUMP_START: A layer jump starts: SA is written for the next layer (R135). -/
  | layerJumpStart (p : Fin 32) (layer : Fin 4)
  /-- LAYER_JUMP_KICK: 2.0 ms after the SA frame the kick begins (R136). -/
  | layerJumpKick (p : Fin 32)
  /-- LAYER_JUMP_COAST: After KICK_N samples the coast begins (R136). -/
  | layerJumpCoast (p : Fin 32)
  /-- LAYER_JUMP_BRAKE: BRAKE_THR or COAST_MAX starts the brake (R136). -/
  | layerJumpBrake (p : Fin 32)
  /-- LAYER_JUMP_CAPTURE: After BRAKE_N samples the capture window begins (R137). -/
  | layerJumpCapture (p : Fin 32)
  /-- LAYER_JUMP_WINDOW_END: The capture window ends; tracking, tilt and yaw close (R137). -/
  | layerJumpWindowEnd (p : Fin 32)
  /-- LAYER_JUMP_CONFIRM: A rail address mark gives the layer, or 2.0 ms pass without one (R137). -/
  | layerJumpConfirm (p : Fin 32) (layer : Option (Fin 4))
  /-- TRACE_ARM: A write of 1 to TRACE.ARM (R139). -/
  | traceArm (e : Fin 8)
  /-- TRACE_ARMED: The pre-trigger records are filled (R139). -/
  | traceArmed (e : Fin 8)
  /-- TRACE_FORCE: A write of 1 to TRACE.FORCE (R140). -/
  | traceForce (e : Fin 8)
  /-- TRACE_DONE: The last record of a trace is stored (R139). -/
  | traceDone (e : Fin 8)
  -- Sled
  /-- SLED_IDLE_CURRENT: P has been constant for 100 ms (R149). -/
  | sledIdleCurrent (p : Fin 32)
  /-- SEEK_START: A seek starts toward the target band and angle index on a layer (R155). -/
  | seekStart (p : Fin 32) (band : Fin 65536) (angle : Fin 3072) (layer : Fin 4)
  /-- SEEK_PROFILE_END: The profile of a seek has ended: tracking closes in the first sample near a groove (R155). -/
  | seekProfileEnd (p : Fin 32)
  /-- SEEK_LANDING: Tracking has been CLOSED for 16 samples, and a wedge gives the 18-bit band field of S0 at an angle index (R55, R155, R156). -/
  | seekLanding (p : Fin 32) (field : Nat) (angle : Fin 3072)
  /-- SEEK_TIMEOUT: SEEK.TMO expires (R158). -/
  | seekTimeout (p : Fin 32)
  /-- GOTO: A write of SLED[p].GOTO. -/
  | sledGoto (p : Fin 32) (target : Int)
  /-- SLED_STOP: A write of 1 to SLED[p].STOP (R160). -/
  | sledStop (p : Fin 32)
  /-- STOP_RAMP_END: A ramped stop ends (R160). -/
  | stopRampEnd (p : Fin 32)
  /-- SLED_HOME: A write of 1 to SLED[p].HOME (R164). -/
  | sledHome (p : Fin 32)
  /-- HOMING_START: Homing starts (R165). -/
  | homingStart (p : Fin 32)
  /-- HOMING_PATTERN_SEEN: Eight chevron frames are seen (R165): the times at which S0 crosses the lead and the trail arm of each and of the frame after, in 1/256 sample. -/
  | homingPatternSeen (p : Fin 32) (frames : List (Nat × Nat))
  /-- HOMING_SETTLE_END: 20 ms at rest have passed, and a radius read starts (R165). -/
  | homingSettleEnd (p : Fin 32)
  /-- HOMING_RADIUS_READ: A radius read over 384 frames completes (R48, R165): the crossing times of those frames and of the one after, in 1/256 sample. -/
  | homingRadiusRead (p : Fin 32) (frames : List (Nat × Nat))
  /-- HOME_N_LOW: HOME_n is accepted low (R167). -/
  | homeNLow (p : Fin 32)
  /-- HOMING_SWITCH_SEARCH_END: The search from the switch ends (R168). -/
  | homingSwitchSearchEnd (p : Fin 32)
  /-- HOMING_TRAVEL_END: HOME_TRAVEL is reached without pattern or switch (R166). -/
  | homingTravelEnd (p : Fin 32)
  /-- HOMING_READ_TIMEOUT: A radius read does not complete in time (R166). -/
  | homingReadTimeout (p : Fin 32)
  /-- COIL_OVERCURRENT: A coil bridge trips (R555): 0 to 3 the actuator axes, 4 and 5 the sled coils A and B, 6 both. -/
  | coilOvercurrent (p : Fin 32) (coil : Fin 7)
  -- Spindle
  /-- SPINDLE_START: A start begins (R193). -/
  | spindleStart (n : Fin 16)
  /-- CATCH_END: The catch measurement ends (R193): the time in REFCLK edges between like zero crossings of a line-to-line back-EMF (0: none), whether the phases follow as U, V, W (R170), and the electrical angle in 2^−16 turn. -/
  | catchEnd (n : Fin 16) (period : Nat) (uvw : Bool) (angle : Nat)
  /-- BRAKE_END: Braking ends (R193). -/
  | brakeEnd (n : Fin 16)
  /-- ALIGN_END: Alignment ends (R193). -/
  | alignEnd (n : Fin 16)
  /-- RUN_ENTRY: The ramp hands over to RUN (R193). -/
  | runEntry (n : Fin 16)
  /-- OBSLOCK_SET: 64 samples of small error set OBSLOCK (R177). -/
  | obslockSet (n : Fin 16)
  /-- OBSLOCK_CLEAR: 16 samples of large error clear OBSLOCK (R177). -/
  | obslockClear (n : Fin 16)
  /-- START_TIMEOUT: No OBSLOCK within 2 s (R194). -/
  | startTimeout (n : Fin 16)
  /-- WAIT_END: The wait between attempts ends (R194). -/
  | waitEnd (n : Fin 16)
  /-- SPINDLE_AT_SPEED: The speed has been at target (R195). -/
  | spindleAtSpeed (n : Fin 16)
  /-- SPEED_CEILING: The reference meets the voltage ceiling (R192). -/
  | speedCeiling (n : Fin 16)
  /-- OFFSET_LEARNED: 256 current samples with both sources locked have passed: the offset of a side is learned (R179). -/
  | offsetLearned (n : Fin 16) (side : Fin 2)
  /-- ANGLE_MISMATCH: 100 ms pass with media angle available and no handover (R180). -/
  | angleMismatch (n : Fin 16)
  /-- SPINDLE_STOPPED: A stop ends (R196). -/
  | spindleStopped (n : Fin 16)
  /-- SPINDLE_EN_WRITE: A write of CTRL.EN (R198). -/
  | spindleEnWrite (n : Fin 16) (en : Bool)
  /-- CMDSRC_WRITE: A write of CMDSRC (R187). -/
  | cmdsrcWrite (n : Fin 16) (src : Fin 4)
  /-- CLASS_WRITE: A write of SPINDLE.CLASS (R190). -/
  | classWrite (cls : Fin 2)
  /-- PIN_CMD_LOST: The pin command is lost (R187). -/
  | pinCmdLost (n : Fin 16)
  /-- GATE_FAULT: A shunt current in mA above OC_LIMIT (R201): its phase, 0 U to 2 W. -/
  | gateFault (n : Fin 16) (phase : Fin 3) (current : Nat)
  /-- REPLACE_TIMEOUT: The spindle has been out of RUN for REPLACE_TMO (R394). -/
  | replaceTimeout (n : Fin 16)
  -- Pickup
  /-- PICKUP_BUS_FRAME: A frame is exchanged on the bus of pickup p: the 40 bits that the pickup sends (R90, R92). -/
  | pickupBusFrame (p : Fin 32) (response : Nat)
  /-- PICKUP_BUS_POLL: A cyclic read falls due (R92): 0 STATUS, 1 MONITOR, 2 TEMP. -/
  | pickupBusPoll (p : Fin 32) (kind : Fin 3)
  /-- LDOFF_N_FALL: LDOFF_n has been low for 50 ns (R99). -/
  | ldoffNFall
  /-- LDOFF_N_RISE: LDOFF_n rises (R101). -/
  | ldoffNRise
  /-- LASER_MASK_WRITE: A write of LASER.MASK (R101). -/
  | laserMaskWrite (p : Fin 32) (mask : Fin 65536)
  -- Events
  /-- EVENT_POST: The pending occurrences of a source are posted (R484). -/
  | eventPost (s : Fin 2048)
  /-- HOLDOFF_EXPIRY: The hold-off interval of a vector ends (R486). -/
  | holdoffExpiry (v : Fin 2048)
  /-- ROUTE_WRITE: A write of EVENT.SRC[s].ROUTE (R482). -/
  | routeWrite (s : Fin 2048) (value : Nat)
  /-- DIE_SENSOR_READ: The eight die sensors are read, 1/16 °C (R489). -/
  | dieSensorRead (temps : List Int)
  /-- AMBIENT_READ: An ambient thermistor is converted (R488): its resistance in Ω. -/
  | ambientRead (n : Fin 16) (resistance : Nat)
  /-- WRITE_RELEASE: Every reading has stayed inside its reopening band for REOPEN (R491). -/
  | writeRelease (p : Fin 32)
  /-- HOLDMAX_EXPIRY: A hold has lasted HOLDMAX (R492). -/
  | holdmaxExpiry (p : Fin 32)
  /-- RATE_CHECK: 100 ms: each sensor's rate is compared with its limit (R493). -/
  | rateCheck
  /-- GRACE_EXPIRY: GRACE has passed in REQUESTED (R495). -/
  | graceExpiry
  /-- THROTTLE_STEP: A STEP_S in ENFORCED ends (R496). -/
  | throttleStep
  /-- THROTTLE_RELEASE: CLEAR_S has passed with no trigger (R494). -/
  | throttleRelease
  deriving DecidableEq, Repr

end Sys2Proof
end

