-- ==== Sys2Proof/WellFormed.lean ====
section
/-! DEFINITION. What a command of the queue must be to be one that the outside can send: each operand within the bytes
or bits that the manual's tables give its field. The meanings take every operand, well formed or not; a statement
assumes well-formedness where it reads an operand's bytes. -/

namespace Sys2Proof

/-- v fits n bits. -/
def fits (n v : Nat) : Bool := decide (v < 2 ^ n)

/-- Every element is a byte value. -/
def Bytes.wf (b : Bytes) : Bool := b.all fun x => decide (x < 256)

/-- A string of exactly n byte values. -/
def Bytes.wfLen (n : Nat) (b : Bytes) : Bool := Bytes.wf b && decide (b.length = n)

/-- A scatter list: 64-bit addresses and 32-bit lengths (Table 10-4). -/
def sglWf (l : List (Nat × Nat)) : Bool := l.all fun e => fits 64 e.1 && fits 32 e.2

/-- The pickups' answers: number, 16-bit word of register 0x04, 64-bit identity, and resends of the five reads (R94 to R96). -/
def answersWf (l : List PickupAnswer) : Bool := l.all fun e =>
  decide (e.pickup < 32) && fits 16 e.contract && fits 64 e.ident && decide (e.resent.length ≤ 5)
    && e.resent.all fun n => decide (n ≤ 4)

/-- A catalogue block holds 65,536 user bytes. -/
def CatBlock.wf : CatBlock → Bool
  | .good b => Bytes.wfLen 65536 b
  | _ => true

/-- A block of a scan: a lane of a pickup, at most 496 frames, and 304 codewords of at most 32 corrections. -/
def ScanRead.wf (x : ScanRead) : Bool :=
  decide (x.pickup < 32 ∧ 1 ≤ x.lane ∧ x.lane ≤ 7 ∧ x.fly + x.shifted ≤ 496 ∧ x.words.length ≤ 304)
    && x.words.all fun w => decide (w.getD 0 ≤ 32)

/-- What a load reads: format words of 96 bits, four copies of seven lanes, lanes 1 to 7. -/
def LoadRead.wf (x : LoadRead) : Bool :=
  answersWf x.answers && x.reads.all ScanRead.wf && (x.formats.all fun f => decide (f.1 < 32) && decide (f.2.1 < 4) && f.2.2.all (fits 96)) &&
    (x.catalogue.all fun r => decide (r.length = 4) && r.all fun c => decide (c.length = 7) && c.all CatBlock.wf) &&
    (x.rows.all fun f => decide (f.surface < 32) && decide (f.layer < 4) && f.lanes.all fun e => decide (1 ≤ e.1 ∧ e.1 ≤ 7))

/-- What a basin word read belongs to: numbers of rings, links and tags. -/
def WordUse.wf : WordUse → Bool
  | .other => true
  | .ringCmd r seq => decide (r < 256) && fits 32 seq
  | .linkCmd l tag => decide (l < 8) && decide (tag < 1024)
  | .block _ => true
  | .position pba => fits 32 pba

/-- The operands of the command fit the fields that the manual's tables give them. -/
def Instr.wf : Instr → Bool
  -- Power
  | .powerOnResetEnd _ => true
  | .vinBrownout => true
  | .converterOutOfRegulation => true
  | .vinRise => true
  | .perstNAssert => true
  | .perstNRelease a b => Bytes.wf a && Bytes.wf b
  | .globalReset a b => Bytes.wf a && Bytes.wf b
  | .functionLevelReset => true
  | .extestLoad => true
  | .testLogicReset a b => Bytes.wf a && Bytes.wf b
  | .timeLoRead => true
  | .vcoreLevelWrite _ => true
  | .vcoreSettled => true
  | .snapTake => true
  | .snapDone => true
  | .paceUpdate counts => decide (counts.length = 6)
  | .registerWrite addr value => decide (addr % 4 = 0) && fits 23 addr && fits 32 value
  | .bootSlotHashed body answers => Bytes.wf body && answersWf answers
  -- BasinMem
  | .basinSpdRead slots => decide (slots.length = 8)
  | .basinTrainStep _ _ _ => true
  | .basinUnitInitialised => true
  | .basinPortRead _ _ use => use.wf
  | .basinPortWrite _ _ data => Bytes.wfLen 64 data
  | .writeAgeExpiry _ => true
  | .basinCommandIssue _ error _ => error.all fun e => decide (e.2 < 256)
  | .softRepairDone _ => true
  | .basinRefresh _ => true
  | .dimmTempRead _ _ _ => true
  | .patrolRead => true
  | .basinUnitWaitServed => true
  | .importSizeWrite _ => true
  | .bar2Write _ data => Bytes.wf data
  | .bar2Read _ _ => true
  -- TrackCache
  | .cacheAccess _ use _ _ _ data _ _ => use.wf && Bytes.wf data
  | .cacheFillComplete _ => true
  | .prefetchFillComplete _ => true
  | .cacheEnableWrite _ => true
  | .lockmaskWrite _ => true
  | .cacheMaintComplete => true
  | .clean _ cookie mode ways addr len _ => fits 32 cookie && fits 8 mode && fits 32 ways && fits 64 addr && fits 64 len
  | .invalidate _ cookie mode ways addr len _ =>
    fits 32 cookie && fits 8 mode && fits 32 ways && fits 64 addr && fits 64 len
  | .cleanAndInvalidate _ cookie mode ways addr len _ =>
    fits 32 cookie && fits 8 mode && fits 32 ways && fits 64 addr && fits 64 len
  | .lockFill _ cookie mode ways addr len _ =>
    fits 32 cookie && fits 8 mode && fits 32 ways && fits 64 addr && fits 64 len
  -- Host
  | .wellheadWrite _ value => fits 32 value
  | .indexWordRead _ value => fits 32 value
  | .hostPoll => true
  | .fullRingReread _ => true
  | .ringEnable _ _ => true
  | .commandCompletion _ => true
  | .coalesceTimer _ => true
  | .hostReadCompletion _ seq data _ => fits 32 seq && Bytes.wf data
  | .fence _ cookie _ => fits 32 cookie
  | .fenceSatisfied _ => true
  | .queueReset _ cookie target tail => fits 32 cookie && fits 8 target && fits 32 tail
  | .queueResetMarker _ => true
  | .deferredLogRead _ cookie _ buf len => fits 32 cookie && fits 64 buf && fits 32 len
  | .unknownOpcode _ cookie _ => fits 32 cookie
  -- Takes
  | .record _ cookie _ take offset length addr sgl time =>
    fits 32 cookie && fits 64 take && fits 64 offset && fits 32 length && fits 64 addr && sglWf sgl && fits 64 time
  | .retrieve _ cookie take offset length addr sgl =>
    fits 32 cookie && fits 64 take && fits 64 offset && fits 32 length && fits 64 addr && sglWf sgl
  | .flush _ cookie => fits 32 cookie
  | .takeOpen _ cookie take time volume label =>
    fits 32 cookie && fits 64 take && fits 64 time && fits 64 volume && Bytes.wfLen 32 label
  | .takeClose _ cookie take time buf len => fits 32 cookie && fits 64 take && fits 64 time && fits 64 buf && fits 32 len
  | .takeQuery _ cookie take buf len => fits 32 cookie && fits 64 take && fits 64 buf && fits 32 len
  | .catalogRead _ cookie select first max buf len =>
    fits 32 cookie && fits 16 select && fits 64 first && fits 32 max && fits 64 buf && fits 32 len
  | .blockWrite _ cookie _ pba addr time => fits 32 cookie && fits 32 pba && fits 64 addr && fits 64 time
  | .blockRead _ cookie pba options addr hdr => fits 32 cookie && fits 32 pba && fits 8 options && fits 64 addr && fits 64 hdr
  | .peerExport _ cookie take offset length addr window =>
    fits 32 cookie && fits 64 take && fits 64 offset && fits 64 length && fits 64 addr && fits 32 window
  | .stripeCommit _ _ => true
  | .catalogRowTimer => true
  | .allocRecordTimer => true
  -- Media
  | .mediaLoad _ cookie mask read => fits 32 cookie && fits 32 mask && read.wf
  | .mediaUnload _ cookie => fits 32 cookie
  | .spindleSet _ cookie _ mask target accel => fits 32 cookie && fits 16 mask && fits 16 target && fits 16 accel
  | .traceRead _ cookie engine buf => fits 32 cookie && fits 8 engine && fits 64 buf
  | .calibMeasure _ cookie item index buf len => fits 32 cookie && fits 16 item && fits 16 index && fits 64 buf && fits 32 len
  | .selfTest _ cookie kind buf len => fits 32 cookie && fits 8 kind && fits 64 buf && fits 32 len
  | .selftestItemDone result first dur value => fits 8 result && fits 32 first && fits 32 dur && fits 32 value
  | .selftestSuspended => true
  | .selftestResumed => true
  | .scrubRead => true
  | .calibMeasureStart => true
  | .calibMeasureEnd _ _ _ _ _ => true
  | .calibCommit => true
  | .attest _ cookie nonce buf len => fits 32 cookie && Bytes.wfLen 32 nonce && fits 64 buf && fits 32 len
  | .verify _ cookie addr len image =>
    fits 32 cookie && fits 64 addr && fits 32 len && Bytes.wfLen len image
  | .program _ cookie action addr len image =>
    fits 32 cookie && fits 8 action && fits 64 addr && fits 32 len && Bytes.wfLen len image
  | .fwProgramEnd back => Bytes.wf back
  -- Spring
  | .blockLockGain _ _ => true
  | .blockLockLoss _ _ => true
  | .alignmentFound _ pairs => pairs.length == 4 && pairs.all fun a => fits 2 a.sync && fits 64 a.word && fits 32 a.skew
  | .lack _ ack => fits 16 ack
  | .lnak _ _ ack => fits 16 ack
  | .packetDiscard _ frame => Bytes.wf frame
  | .springWrite _ seq tag _ cookie take offset length time =>
    fits 16 seq && fits 16 tag && fits 32 cookie && fits 64 take && fits 64 offset && fits 32 length && fits 64 time
  | .springRead _ seq tag cookie take offset length =>
    fits 16 seq && fits 16 tag && fits 32 cookie && fits 64 take && fits 64 offset && fits 32 length
  | .springLog _ seq tag cookie length => fits 16 seq && fits 16 tag && fits 32 cookie && fits 32 length
  | .unknownOp _ seq tag op cookie => fits 16 seq && fits 16 tag && fits 8 op && fits 32 cookie
  | .unsupportedPacketType _ seq ptype => fits 16 seq && fits 4 ptype
  | .springData _ seq tag grant offset payload =>
    fits 16 seq && fits 16 tag && fits 16 grant && fits 64 offset && Bytes.wf payload
  | .qrst _ seq => fits 16 seq
  | .credit _ seq count => fits 16 seq && fits 32 count
  | .creditGrant _ count => fits 32 count
  | .xrdy _ tag length => fits 10 tag && fits 32 length
  | .xrdyTimeout _ grant => fits 16 grant
  | .lackSend _ => true
  | .replayTimeout _ => true
  | .downTimeout _ => true
  | .linkDisable _ _ => true
  | .linkEnable _ => true
  | .modulePresent _ => true
  | .springQreset _ => true
  | .qrstReport _ => true
  | .springStat _ => true
  | .grantBudgetPeriod => true
  | .deficitSecond => true
  -- Record
  | .rowAllocate _ _ _ time => fits 64 time
  | .rowStart _ => true
  | .rowWritten _ => true
  | .fetchDeadline _ => true
  | .mordantCheck _ _ _ => true
  | .opcStart _ _ => true
  | .opcReq _ => true
  | .opcBandDone _ _ _ _ _ => true
  | .reallocWaitExpiry _ _ => true
  -- Channel
  | .blockDecoded pba _ => fits 32 pba
  | .ladderRereadEnd pba reads => fits 32 pba && reads.all fun r => fits 32 r.1
  | .ladderLevelDecoded pba => fits 32 pba
  | .railWaitExpiry pba => fits 32 pba
  | .ladderPlaceFree => true
  | .deskewCheckEnd _ _ => true
  | .deskewShift _ _ => true
  | .dropout _ _ _ codes refs => decide (codes.length = 39 ∧ refs.length = 8192)
  | .dropoutEnd _ _ _ codes => decide (codes.length = 39)
  | .scoutDefect _ _ levels => decide (4104 ≤ levels.length)
  | .scoutDefectEnd _ _ levels => decide (4104 ≤ levels.length)
  | .railAddressMark _ _ word => fits 40 word
  | .mtoLock _ => true
  | .mtoUnlock _ => true
  -- Loop
  | .loopSample _ pickups spindles => decide (pickups.length = 4) && decide (spindles.length = 2)
  | .loopOutput _ _ => true
  | .bankSwap _ mask => fits 16 mask
  | .axisModeWrite _ _ _ => true
  | .ffClear _ _ => true
  | .rroWrite _ _ _ value => fits 16 value
  | .wedge _ _ index a b c d _ => fits 10 index && fits 16 a && fits 16 b && fits 16 c && fits 16 d
  | .wedgeTimerExpiry _ _ => true
  | .wedgeStale _ _ => true
  | .focusSearch _ => true
  | .focusSweepEnd _ => true
  | .focusLoss _ => true
  | .trackLoss _ => true
  | .layerJumpStart _ _ => true
  | .layerJumpKick _ => true
  | .layerJumpCoast _ => true
  | .layerJumpBrake _ => true
  | .layerJumpCapture _ => true
  | .layerJumpWindowEnd _ => true
  | .layerJumpConfirm _ _ => true
  | .traceArm _ => true
  | .traceArmed _ => true
  | .traceForce _ => true
  | .traceDone _ => true
  -- Sled
  | .sledIdleCurrent _ => true
  | .seekStart _ _ _ _ => true
  | .seekProfileEnd _ => true
  | .seekLanding _ field _ => fits 18 field
  | .seekTimeout _ => true
  | .sledGoto _ target => decide (-(2 ^ 31 : Int) ≤ target ∧ target < 2 ^ 31)
  | .sledStop _ => true
  | .stopRampEnd _ => true
  | .sledHome _ => true
  | .homingStart _ => true
  | .homingPatternSeen _ frames => frames.length == 9
  | .homingSettleEnd _ => true
  | .homingRadiusRead _ frames => frames.length == 385
  | .homeNLow _ => true
  | .homingSwitchSearchEnd _ => true
  | .homingTravelEnd _ => true
  | .homingReadTimeout _ => true
  | .coilOvercurrent _ _ => true
  -- Spindle
  | .spindleStart _ => true
  | .catchEnd _ _ _ angle => decide (angle < 65536)
  | .brakeEnd _ => true
  | .alignEnd _ => true
  | .runEntry _ => true
  | .obslockSet _ => true
  | .obslockClear _ => true
  | .startTimeout _ => true
  | .waitEnd _ => true
  | .spindleAtSpeed _ => true
  | .speedCeiling _ => true
  | .offsetLearned _ _ => true
  | .angleMismatch _ => true
  | .spindleStopped _ => true
  | .spindleEnWrite _ _ => true
  | .cmdsrcWrite _ _ => true
  | .classWrite _ => true
  | .pinCmdLost _ => true
  | .gateFault _ _ current => fits 32 current
  | .replaceTimeout _ => true
  -- Pickup
  | .pickupBusFrame _ response => fits 40 response
  | .pickupBusPoll _ _ => true
  | .ldoffNFall => true
  | .ldoffNRise => true
  | .laserMaskWrite _ _ => true
  -- Events
  | .eventPost _ => true
  | .holdoffExpiry _ => true
  | .routeWrite _ value => fits 32 value
  | .dieSensorRead temps => decide (temps.length = 8)
  | .ambientRead _ _ => true
  | .writeRelease _ => true
  | .holdmaxExpiry _ => true
  | .rateCheck => true
  | .graceExpiry => true
  | .throttleStep => true
  | .throttleRelease => true

end Sys2Proof
end

