-- ==== Sys2Proof/Decode.lean ====
section
/-! DEFINITION. The words of commands. The block has no instruction encoding: the opcode table gives no row any bits,
so no word spells a command. -/

namespace Sys2Proof

/-- The command that a word spells by the table's bits: the table gives bits to no row, so no word spells one. -/
def decodeTableWord (_nbits _w : Nat) : Option Instr := none

end Sys2Proof
end

