-- ==== Sys2Proof/Config.lean ====
section
/-! DEFINITION. What one device fixes and the manual does not: factory fuses, the identity key, and the free
values (log entry 2). None of these has a body, so no proof can rest on a
value of one. -/

namespace Sys2Proof

/-- Log entry 2: the free value of index n. The manual gives an effect but no value; the step reads
`Dev.freeTick`, applies this constant to it, and advances the counter. -/
opaque Config.freeValue : Nat → Nat

/-- The factory fuses, keyed by the BAR0 address of the field that shows them (R504, R533, R538). -/
opaque Config.fuse : Nat → Nat

/-- The fused SHA-256 of the vendor public key (R519), as 32 bytes. -/
opaque Config.vendorKeyHash : Bytes

/-- Host address of BAR2 as configuration space holds it (R416). -/
opaque Config.bar2Base : Nat

/-- The private identity key, made at the factory (R532). -/
opaque Config.identityKey : Nat

/-- The secret number of the n-th signature, which FIPS 186-4 asks for and the manual does not describe (R405, R534). -/
opaque Config.signNonce : Nat → Nat

/-- The level the detector decides at sample t of a pass when both levels have paths of equal metric (R220); the pass is
told by the free counter. -/
opaque Config.detectorTie : Nat → Nat → Bool

/-- The same for a tentative decision (R213). -/
opaque Config.tentativeTie : Nat → Nat → Bool

/-- What the timing detector's accumulator adds for one FIR output sample, its target and the target's slope (R210). -/
opaque Config.timingError : Int → Int → Int → Int

/-- The timing error of that sample in 2^−16 channel bit (R244). -/
opaque Config.edgeError : Int → Int → Int → Int

/-- The target that a MEDIA_LOAD gives to a spindle under CMDSRC RING: the manual states no value. -/
opaque Config.loadSpeed : Nat

/-- The bound that host software keeps the basin aggregate to, in 0.1 GB/s (R26). -/
opaque Config.hubBound : Nat

/-- SEQ of the first record of a volume: the manual says only that each record adds 1 (Table 02-14, R71). -/
opaque Config.firstSeq : BitVec 64

/-- Code of a direction of rotation in a SPINDLE_START_FAIL entry: forward (true) or backward (R194, Table 06-6). -/
opaque Config.directionCode : Bool → Nat

end Sys2Proof
end

