-- ==== Sys2Proof/Machine/Crc.lean ====
section
/-! DEFINITION. The 32-bit cyclic redundancy checks of the manual: CRC-32C (R65, R513) and CRC-32 (R351). -/

namespace Sys2Proof.Machine

/-! ### Cyclic redundancy checks -/

/-- One bit of a reflected CRC of any width. -/
def crcReflBit (poly crc : Nat) : Nat := if crc % 2 = 1 then (crc / 2) ^^^ poly else crc / 2

/-- n bits. -/
def crcReflBits (poly : Nat) : Nat → Nat → Nat
  | 0, crc => crc
  | n + 1, crc => crcReflBits poly n (crcReflBit poly crc)

/-- A reflected 32-bit CRC over a byte string, started at all ones and inverted at the end. -/
def crcRefl32 (poly : Nat) (b : Bytes) : Nat :=
  (b.foldl (fun crc x => crcReflBits poly 8 (crc ^^^ (x % 256))) 0xFFFFFFFF) ^^^ 0xFFFFFFFF

/-- R65: CRC-32C, polynomial 0x1EDC_6F41 reflected. -/
def crc32c (b : Bytes) : Nat := crcRefl32 0x82F63B78 b

/-- R351: CRC-32, polynomial 0x04C1_1DB7 reflected. -/
def crc32 (b : Bytes) : Nat := crcRefl32 0xEDB88320 b

end Sys2Proof.Machine
end

