-- ==== Sys2Proof/Machine/Sha256.lean ====
section
/-! DEFINITION. SHA-256 (FIPS 180-4), which R404, R405, R519, R520 and R534 name. -/

namespace Sys2Proof.Machine

/-- Big-endian value of a byte list. -/
def ofBe (b : Bytes) : Nat := b.foldl (fun v x => 256 * v + x % 256) 0

/-- The n bytes of a value, the most significant first. -/
def be (n v : Nat) : Bytes := (List.range n).map fun i => v / 256 ^ (n - 1 - i) % 256

/-- A rotation of a 32-bit word to the right. -/
def rotr (n x : Nat) : Nat := x / 2 ^ n + x % 2 ^ n * 2 ^ (32 - n)

/-- The eight 32-bit words of a 256-bit number, the most significant first. -/
def eightWords (v : Nat) : List Nat := (List.range 8).map fun i => v / 2 ^ (224 - 32 * i) % 2 ^ 32

/-- The round constants, the first 32 bits of the fractional parts of the cube roots of the first 64 primes: eight rounds a
number, the earlier round in the higher bits. -/
def shaK : List Nat :=
  [0x428a2f9871374491b5c0fbcfe9b5dba53956c25b59f111f1923f82a4ab1c5ed5,
   0xd807aa9812835b01243185be550c7dc372be5d7480deb1fe9bdc06a7c19bf174,
   0xe49b69c1efbe47860fc19dc6240ca1cc2de92c6f4a7484aa5cb0a9dc76f988da,
   0x983e5152a831c66db00327c8bf597fc7c6e00bf3d5a7914706ca635114292967,
   0x27b70a852e1b21384d2c6dfc53380d13650a7354766a0abb81c2c92e92722c85,
   0xa2bfe8a1a81a664bc24b8b70c76c51a3d192e819d6990624f40e3585106aa070,
   0x19a4c1161e376c082748774c34b0bcb5391c0cb34ed8aa4a5b9cca4f682e6ff3,
   0x748f82ee78a5636f84c878148cc7020890befffaa4506cebbef9a3f7c67178f2].flatMap eightWords

/-- The initial hash value: the same of the square roots of the first eight primes. -/
def shaInit : List Nat := eightWords 0x6a09e667bb67ae853c6ef372a54ff53a510e527f9b05688c1f83d9ab5be0cd19

/-- The message schedule: n further words, the newest first. -/
def shaSchedule : Nat → List Nat → List Nat
  | 0, w => w
  | n + 1, w =>
    let x := w.getD 1 0
    let y := w.getD 14 0
    let s1 := rotr 17 x ^^^ rotr 19 x ^^^ (x / 2 ^ 10)
    let s0 := rotr 7 y ^^^ rotr 18 y ^^^ (y / 2 ^ 3)
    shaSchedule n ((s1 + w.getD 6 0 + s0 + w.getD 15 0) % 2 ^ 32 :: w)

/-- One round on the working variables a to h, with K + W of the round. -/
def shaRound : List Nat → Nat → List Nat
  | [a, b, c, d, e, f, g, h], kw =>
    let t1 := h + (rotr 6 e ^^^ rotr 11 e ^^^ rotr 25 e) + ((e &&& f) ^^^ ((2 ^ 32 - 1 - e) &&& g)) + kw
    let t2 := (rotr 2 a ^^^ rotr 13 a ^^^ rotr 22 a) + ((a &&& b) ^^^ (a &&& c) ^^^ (b &&& c))
    [(t1 + t2) % 2 ^ 32, a, b, c, (d + t1) % 2 ^ 32, e, f, g]
  | v, _ => v

/-- The 16 big-endian words of a 64-byte block. -/
def shaWords (b : Bytes) : List Nat := (List.range 16).map fun i => ofBe ((b.drop (4 * i)).take 4)

/-- The hash value after one block. -/
def shaBlock (h : List Nat) (b : Bytes) : List Nat :=
  let w := (shaSchedule 48 (shaWords b).reverse).reverse
  let v := (List.zipWith (· + ·) shaK w).foldl shaRound h
  List.zipWith (fun x y => (x + y) % 2 ^ 32) h v

/-- The hash value after n blocks. -/
def shaBlocks : Nat → Bytes → List Nat → List Nat
  | 0, _, h => h
  | n + 1, b, h => shaBlocks n (b.drop 64) (shaBlock h (b.take 64))

/-- The message with its padding: a one bit, zeros, and the length in bits in 8 bytes. -/
def shaPadded (b : Bytes) : Bytes :=
  b ++ [0x80] ++ List.replicate ((119 - b.length % 64) % 64) 0 ++ be 8 (8 * b.length)

/-- SHA-256, as 32 bytes. -/
def sha256 (b : Bytes) : Bytes :=
  let m := shaPadded b
  (shaBlocks (m.length / 64) m shaInit).flatMap (be 4)

end Sys2Proof.Machine
end

