-- ==== Sys2Proof/Machine/Ecdsa.lean ====
section
/-! DEFINITION. ECDSA over the curve P-256 of FIPS 186-4 (R405, R519, R532, R534), with points in Jacobian coordinates. -/

namespace Sys2Proof.Machine

/-- The field's prime and the order of the base point. -/
def p256p : Nat := 0xFFFFFFFF00000001000000000000000000000000FFFFFFFFFFFFFFFFFFFFFFFF
def p256n : Nat := 0xFFFFFFFF00000000FFFFFFFFFFFFFFFFBCE6FAADA7179E84F3B9CAC2FC632551

/-- The curve's constant b. -/
def p256b : Nat := 0x5AC635D8AA3A93E7B3EBBD55769886BC651D06B0CC53B0F63BCE3C3E27D2604B

/-- x^e modulo m, over the low bits of e that the first argument counts. -/
def powMod : Nat → Nat → Nat → Nat → Nat
  | 0, _, _, m => 1 % m
  | k + 1, x, e, m => (if e % 2 = 1 then x else 1) * powMod k (x * x % m) (e / 2) m % m

/-- The inverse modulo a prime. -/
def invMod (x m : Nat) : Nat := powMod 256 (x % m) (m - 2) m

/-- A point x = X ÷ Z², y = Y ÷ Z³; Z = 0 is the point at infinity. -/
structure Point where
  x : Nat
  y : Nat
  z : Nat
  deriving DecidableEq, Repr

/-- The base point. -/
def p256g : Point :=
  ⟨0x6B17D1F2E12C4247F8BCE6E563A440F277037D812DEB33A0F4A13945D898C296,
   0x4FE342E2FE1A7F9B8EE7EB4A7C0F9E162BCE33576B315ECECBB6406837BF51F5, 1⟩

/-- a − b in the field. -/
def subP (a b : Nat) : Nat := (a + p256p - b % p256p) % p256p

/-- Twice a point. -/
def Point.double (q : Point) : Point :=
  let d := q.z * q.z % p256p
  let g := q.y * q.y % p256p
  let b := q.x * g % p256p
  let a := 3 * subP q.x d * (q.x + d) % p256p
  let x := subP (a * a) (8 * b)
  ⟨x, subP (a * subP (4 * b) x) (8 * g * g), 2 * q.y * q.z % p256p⟩

/-- The sum of two points. -/
def Point.add (q r : Point) : Point :=
  if q.z = 0 then r
  else if r.z = 0 then q
  else
    let qz := q.z * q.z % p256p
    let rz := r.z * r.z % p256p
    let u := q.x * rz % p256p
    let s := q.y * rz * r.z % p256p
    let h := subP (r.x * qz) u
    let t := subP (r.y * qz * q.z) s
    if h = 0 then (if t = 0 then q.double else ⟨1, 1, 0⟩)
    else
      let h2 := h * h % p256p
      let h3 := h2 * h % p256p
      let x := subP (t * t) (h3 + 2 * u * h2)
      ⟨x, subP (t * subP (u * h2) x) (s * h3), h * q.z * r.z % p256p⟩

/-- The multiple of a point by the low bits of e that the first argument counts. -/
def Point.mul : Nat → Nat → Point → Point
  | 0, _, _ => ⟨1, 1, 0⟩
  | k + 1, e, q =>
    let rest := Point.mul k (e / 2) q.double
    if e % 2 = 1 then q.add rest else rest

/-- The affine coordinates of a point. -/
def Point.affine (q : Point) : Nat × Nat :=
  let i := invMod q.z p256p
  (q.x * (i * i % p256p) % p256p, q.y * (i * i % p256p * i % p256p) % p256p)

/-- Verification: a public key (x then y), the digest, and r then s, each 32 bytes big-endian. -/
def ecdsaVerify (key digest signature : Bytes) : Bool :=
  let x := ofBe (key.take 32)
  let y := ofBe ((key.drop 32).take 32)
  let r := ofBe (signature.take 32)
  let s := ofBe ((signature.drop 32).take 32)
  let w := invMod s p256n
  let q := (Point.mul 256 (ofBe digest * w % p256n) p256g).add (Point.mul 256 (r * w % p256n) ⟨x, y, 1⟩)
  decide (x < p256p ∧ y < p256p ∧ y * y % p256p = (x * x * x + subP p256b (3 * x)) % p256p) && decide (0 < r ∧ r < p256n)
    && decide (0 < s ∧ s < p256n) && q.z != 0 && q.affine.1 % p256n == r

/-- The public key of a private key: x then y, big-endian. -/
def ecdsaPublic (d : Nat) : Bytes :=
  let q := (Point.mul 256 d p256g).affine
  be 32 q.1 ++ be 32 q.2

/-- A signature over a digest with private key d and secret number k: r then s, big-endian. -/
def ecdsaSign (d k : Nat) (digest : Bytes) : Bytes :=
  let r := (Point.mul 256 k p256g).affine.1 % p256n
  be 32 r ++ be 32 (invMod k p256n * (ofBe digest + r * d) % p256n)

/-- The private key of the device: a number from 1 to n − 1 (R532, log entry 98). -/
def identityKey : Nat := 1 + Config.identityKey % (p256n - 1)

/-- What the identity key signs: the SHA-256 of the body, with the secret number that the counter value gives (R405, R534,
log entry 98). -/
def identitySign (t : Nat) (body : Bytes) : Bytes :=
  ecdsaSign identityKey (1 + Config.signNonce t % (p256n - 1)) (sha256 body)

end Sys2Proof.Machine
end

