-- ==== Sys2Proof/Machine/RegMap.lean ====
section
/-! DEFINITION. The set-up register map (chapter 18, R536 to R543): one `Row` per field row of Tables 18-2
to 18-16, with its address, strides, bit range, access type and reset value. A `Fld` is one instance of a
row: the row and its index values, in the order of the row's `dims`. -/

namespace Sys2Proof.Machine

/-- The field rows of the register map. A row stands for all its index values. -/
inductive Row where
  | glBoot | glVcoreSettled | glPace | glVcoreLevel | glTimeLo | glTimeHi | glDevnum | glReset | glSnapTake 
  | glSnapDone | glPaceDie | hPoll | hLinkSpeed | hLinkWidth | sqBaseLo | sqBaseHi | sqTailLo | sqTailHi 
  | sqEn | sqPoll | sqSize | sqCq | sqWeight | sqConsumed | sqCompleted | sqAborted | sqInflight | sqSnapConsumed 
  | sqSnapCompleted | sqSnapAborted | sqSnapInflight | sqDeferCount | sqDeferLost | cqBaseLo | cqBaseHi 
  | cqHeadLo | cqHeadHi | cqEn | cqSize | cqVector | cqCoalCnt | cqCoalUs | cqPosted | eqBaseLo | eqBaseHi 
  | eqHeadLo | eqHeadHi | eqEn | eqSize | lnEn | lnState | lnLaneMap | lnLaneInv | lnQreset | lnSlots 
  | lnReturnTmo | lnXrdyTmo | lnDownTmo | lnGrantWindow | lnWeight | lnMinshare | lnCreditGranted | lnCreditConsumed 
  | lnCreditReturned | lnCreditOutstanding | lnTagIssued | lnTagStatted | lnTagReset | lnTagOpen | lnSnapCreditGranted 
  | lnSnapCreditConsumed | lnSnapCreditReturned | lnSnapCreditOutstanding | lnSnapTagIssued | lnSnapTagStatted 
  | lnSnapTagReset | lnSnapTagOpen | lnCrcErr | lnReplays | lnRetrains | lnDeferCount | lnDeferLost | lnDeficit 
  | sprSlotsTotal | sprHostWeight | sprHostMinshare | bsReady | bsConfigErr | bsTrainErr | bsInitDone 
  | bsOrg | bsDpc | bsTs | bsTsHot | bsRefMode | bsRefDouble | bsWmarkHigh | bsWmarkLow | bsWage | bsQosmode 
  | bsFillhigh | bsFill | bsUnitsInstalled | bsUnitsFree | bsUnitsReserved | bsUnitsHeld | bsSnapFree 
  | bsSnapReserved | bsSnapHeld | bsSnapInstalled | bsPprCeThr | bsPprRowMax | bsPprCount | bsPatrolHours 
  | bsPatrolCursorLo | bsPatrolCursorHi | bsPortPrio | bsPortLtarget | bsPortLate | bsCe | bsUe | ccEn 
  | ccFused | ccCleared | ccLockmask | ccPfEn | ccPfSeq | ccPfReady | ccRepairRows | ccRepairCols | ccHit 
  | ccMiss | ccWb | ccPfReq | ccPfUsed | ccPfDrop | ccLockMissed | ccCe | ccUeClean | ccUeDirty | ccUeTag 
  | pkMtoLock | pkLaserMask | pkMonSel | pkReadPwr | pkWritePwr | pkSaTrim | pkWstbLatency | pkPresent 
  | pkFail | pkAlarm | pkIdentLo | pkIdentHi | pkTemp | pkMonitor | wsDttop0 | wsDttop1 | wsTtop | wsTmp 
  | wsTlp | wsTcl | baseDttop0 | baseDttop1 | baseTtop | baseTmp | baseTlp | baseTcl | wsPwr | wsValid 
  | rcBoost | rcPeak | rcAgcTarget | rcMuAcq | rcMuTrk | rcGain | rcClips | rcDeskew | rcDeskewStatus 
  | rcKt | rcFirScale | rcFirAdapt | rcFirMu | rcItiEn | rcItiMu | rcConfThr | rcConfCnt | rcFlagEn | rcDropThr 
  | rcDropMargin | rcDropHold | rcScoutThr | rcScoutLen | rcScoutMargin | rcSlopeWin | rcScoutCount | rcFirTap 
  | rcFirSaved | rcItiIn | rcItiOut | rcEye | rcSamMean | rcSamSnr | rcDcr | rcHist | rcQClear | rcLaneBlocks 
  | rcLaneFails | rcLaneFlywheels | rcLaneSyncShifted | wgTrkLim | wgFocLim | wgOpen | wgTrips | pkAbandon 
  | rowAlloc | rowWritten | rowAbandoned | rowInprog | rowSnapAlloc | rowSnapWritten | rowSnapAbandoned 
  | rowSnapInprog | rowNext | rowSpareNext | wrLaneDis | opcReq | opcBetaTgt | opcTempDelta | opcPcenter 
  | opcTempLast | opcStatus | opcBandIn | opcBandOut | mordChecked | mordFailed | mordLastMaxCw | mordLastTotal 
  | mordLastFly | mordLastCause | recovOk | recovFail | recovRevs | recovQueued | defectDead | defectAbandoned 
  | defectReallocFrom | axMode | axState | axClamp | axOutsat | axClampSeen | axOutsatSeen | axOpenOut 
  | axInteg | axFfEn | axFfLearn | axFfClear | axFfMu | cfOffset | cfGain | cfShift | cfB0 | cfB1 | cfB2 
  | cfA1 | cfA2 | cfKp | cfKi | cfKd | cfIlim | cfOlim | axRro | bankActive | bankSwap | bankPending 
  | lpOverrun | wdKw | wdClim | wdC | wdLaneErr | wdStale | wdMissed | fcEnvThr | fcSearchAmp | fcSearchT 
  | jpKickAmp | jpBrakeAmp | jpKickN | jpBrakeN | jpCoastMax | jpBrakeThr | jpCaptN | jpCaptTol | trSel 
  | trDecim | trKind | trDir | trTrigSel | trLevel | trClampmask | trEvsrc | trPretrig | trArm | trForce 
  | trState | slMode | slStopmode | slStop | slHome | slState | slCoarse | slFault | slGoto | slPos | slOrigin 
  | slScale | slIrun | slIhold | slTabsel | slFollowGain | slJerk | slAccel | slSpeed | slHomeAccel | slHomeSpeed 
  | slHomeTravel | slLimitIn | slLimitOut | slSeekTmo | slSeekRetry | slCorrMax | slLeadMax | slSlipMax 
  | slLastBand | slLastDelta | slTableA | slTableB | spClass | spReplaceTmo | spEn | spCmdsrc | spAnglesrc 
  | spTarget | spAccel | spSpeed | spState | spSource | spObslock | spLearned | spAtspeed | spVlimit 
  | spFault | spOffset | spHandoverTol | spMotorRs | spMotorLs | spMotorLambda | spCurKp | spCurKi | spSpdKp 
  | spSpdKi | spImax | spFwVth | spFwKfw | spFwIdmin | spAlignI | spRampAccel | spRampEnd | spStartRetry 
  | spLossAttempts | spDeadtime | spIsrc | spIsnk | spRshunt | spOcLimit | spVbus | spVbusMax | spPinValue 
  | thDie | thAmb | thR25 | thB | thAmbEn | thHold | thHyst | thReopen | thHoldmax | thJhot | thGrace 
  | thClearS | thStepS | thThrFrac | thThrMin | thThrState | thThrF | thThrB0 | calSel | calPend | calFactory 
  | calCommit | calCommits | calSelCrc | calBusy | evRing | evVector | evMask | evOccurred | evPosted 
  | evPending | evSnapOccurred | evSnapPosted | evSnapPending | evSeq | evHoldoff | svGeometry | svVolIdLo 
  | svVolIdHi | svLoadedIdLo | svLoadedIdHi | svHostTimeLo | svHostTimeHi | svStripeWait | svTakeOpen 
  | svTakeCount | svStripesLo | svStripesHi | svScrubEn | svScrubRate | svWeakCw | svMigratePpm | svCursorLo 
  | svCursorHi | svPasses | svStState | svStItem | svImportBase | svImportSize | svImportReady | mdMaxcw 
  | mdMaxtot | mdMaxfly | mdRetry | mdSickCnt | rvMaxlevel | rvReallocLevel | rvRailRetry | rvL1MuDelta 
  | rvMaxActive | rvActive | rvRailWait | rvL2DropThr | rvL2Widen | rvL2ConfAdd | rvL3Viol | rvSoftRevs 
  | rvReallocWait | rvSpareLow | scCustkey | scKeyhash | scSlot | scKey | scSlotStatus | scSequence | scFwDigest 
  | scIdPub | scSerialLo | scSerialHi | scChainLen | scChain
  deriving DecidableEq, Repr

/-- Access types of R6. -/
inductive Access where
  | ro | rw | wo | w1c | w1p
  deriving DecidableEq, Repr

/-- One index of a field row: how many values it takes, and what one step adds to the address and to the
lowest bit (R536). -/
structure Dim where
  count : Nat
  addr : Nat
  lsb : Nat
  deriving DecidableEq, Repr

/-- One field row: Tables 18-2 to 18-16. -/
structure RowSpec where
  base : Nat
  dims : List Dim
  lsb : Nat
  width : Nat
  /-- The Reset column, where it does not depend on the index: where the column is a dash, the value of log entry 3. -/
  reset : Nat
  access : Access
  /-- The field has a command of its own in the operation table, so a REGISTER_WRITE leaves it to that command. -/
  own : Bool
  /-- R539: two's complement within the bit range. -/
  signed : Bool
  deriving DecidableEq, Repr

/-- One field of the register map: a row and its index values. -/
structure Fld where
  row : Row
  ix : List Nat
  deriving DecidableEq, Repr

/-- Tables 18-2 to 18-16, row by row: the place, width and access type of each field. -/
def Row.spec : Row → RowSpec
  -- Table 18-2
  | .glBoot => ⟨0x0, [], 0, 2, 0, .ro, false, false⟩
  | .glVcoreSettled => ⟨0x0, [], 2, 1, 1, .ro, false, false⟩
  | .glPace => ⟨0x0, [], 16, 16, 0, .ro, false, false⟩
  | .glVcoreLevel => ⟨0x4, [], 0, 8, 20, .rw, true, false⟩
  | .glTimeLo => ⟨0x8, [], 0, 32, 0, .ro, false, false⟩
  | .glTimeHi => ⟨0xc, [], 0, 32, 0, .ro, false, false⟩
  | .glDevnum => ⟨0x10, [], 0, 12, 0, .rw, false, false⟩
  | .glReset => ⟨0x14, [], 0, 1, 0, .w1p, true, false⟩
  | .glSnapTake => ⟨0x18, [], 0, 1, 0, .w1p, true, false⟩
  | .glSnapDone => ⟨0x18, [], 1, 1, 0, .ro, false, false⟩
  | .glPaceDie => ⟨0x20, [⟨6, 0x4, 0⟩], 0, 16, 0, .ro, false, false⟩
  -- Table 18-3
  | .hPoll => ⟨0x100000, [], 0, 10, 50, .rw, false, false⟩
  | .hLinkSpeed => ⟨0x100004, [], 0, 3, 5, .ro, false, false⟩
  | .hLinkWidth => ⟨0x100004, [], 4, 5, 16, .ro, false, false⟩
  | .sqBaseLo => ⟨0x110000, [⟨256, 0x40, 0⟩], 0, 32, 0, .rw, false, false⟩
  | .sqBaseHi => ⟨0x110004, [⟨256, 0x40, 0⟩], 0, 32, 0, .rw, false, false⟩
  | .sqTailLo => ⟨0x110008, [⟨256, 0x40, 0⟩], 0, 32, 0, .rw, false, false⟩
  | .sqTailHi => ⟨0x11000c, [⟨256, 0x40, 0⟩], 0, 32, 0, .rw, false, false⟩
  | .sqEn => ⟨0x110010, [⟨256, 0x40, 0⟩], 0, 1, 0, .rw, true, false⟩
  | .sqPoll => ⟨0x110010, [⟨256, 0x40, 0⟩], 1, 1, 1, .rw, false, false⟩
  | .sqSize => ⟨0x110010, [⟨256, 0x40, 0⟩], 4, 5, 4, .rw, false, false⟩
  | .sqCq => ⟨0x110010, [⟨256, 0x40, 0⟩], 16, 8, 0, .rw, false, false⟩
  | .sqWeight => ⟨0x110010, [⟨256, 0x40, 0⟩], 24, 8, 8, .rw, false, false⟩
  | .sqConsumed => ⟨0x110014, [⟨256, 0x40, 0⟩], 0, 32, 0, .ro, false, false⟩
  | .sqCompleted => ⟨0x110018, [⟨256, 0x40, 0⟩], 0, 32, 0, .ro, false, false⟩
  | .sqAborted => ⟨0x11001c, [⟨256, 0x40, 0⟩], 0, 32, 0, .ro, false, false⟩
  | .sqInflight => ⟨0x110020, [⟨256, 0x40, 0⟩], 0, 13, 0, .ro, false, false⟩
  | .sqSnapConsumed => ⟨0x110024, [⟨256, 0x40, 0⟩], 0, 32, 0, .ro, false, false⟩
  | .sqSnapCompleted => ⟨0x110028, [⟨256, 0x40, 0⟩], 0, 32, 0, .ro, false, false⟩
  | .sqSnapAborted => ⟨0x11002c, [⟨256, 0x40, 0⟩], 0, 32, 0, .ro, false, false⟩
  | .sqSnapInflight => ⟨0x110030, [⟨256, 0x40, 0⟩], 0, 32, 0, .ro, false, false⟩
  | .sqDeferCount => ⟨0x110034, [⟨256, 0x40, 0⟩], 0, 9, 0, .ro, false, false⟩
  | .sqDeferLost => ⟨0x110038, [⟨256, 0x40, 0⟩], 0, 32, 0, .ro, false, false⟩
  | .cqBaseLo => ⟨0x114000, [⟨256, 0x20, 0⟩], 0, 32, 0, .rw, false, false⟩
  | .cqBaseHi => ⟨0x114004, [⟨256, 0x20, 0⟩], 0, 32, 0, .rw, false, false⟩
  | .cqHeadLo => ⟨0x114008, [⟨256, 0x20, 0⟩], 0, 32, 0, .rw, false, false⟩
  | .cqHeadHi => ⟨0x11400c, [⟨256, 0x20, 0⟩], 0, 32, 0, .rw, false, false⟩
  | .cqEn => ⟨0x114010, [⟨256, 0x20, 0⟩], 0, 1, 0, .rw, true, false⟩
  | .cqSize => ⟨0x114010, [⟨256, 0x20, 0⟩], 4, 5, 4, .rw, false, false⟩
  | .cqVector => ⟨0x114010, [⟨256, 0x20, 0⟩], 16, 11, 0, .rw, false, false⟩
  | .cqCoalCnt => ⟨0x114014, [⟨256, 0x20, 0⟩], 0, 8, 1, .rw, false, false⟩
  | .cqCoalUs => ⟨0x114014, [⟨256, 0x20, 0⟩], 16, 10, 0, .rw, false, false⟩
  | .cqPosted => ⟨0x114018, [⟨256, 0x20, 0⟩], 0, 32, 0, .ro, false, false⟩
  | .eqBaseLo => ⟨0x116000, [⟨64, 0x20, 0⟩], 0, 32, 0, .rw, false, false⟩
  | .eqBaseHi => ⟨0x116004, [⟨64, 0x20, 0⟩], 0, 32, 0, .rw, false, false⟩
  | .eqHeadLo => ⟨0x116008, [⟨64, 0x20, 0⟩], 0, 32, 0, .rw, false, false⟩
  | .eqHeadHi => ⟨0x11600c, [⟨64, 0x20, 0⟩], 0, 32, 0, .rw, false, false⟩
  | .eqEn => ⟨0x116010, [⟨64, 0x20, 0⟩], 0, 1, 0, .rw, true, false⟩
  | .eqSize => ⟨0x116010, [⟨64, 0x20, 0⟩], 4, 5, 4, .rw, false, false⟩
  -- Table 18-4
  | .lnEn => ⟨0x200000, [⟨8, 0x10000, 0⟩], 0, 1, 0, .rw, true, false⟩
  | .lnState => ⟨0x200004, [⟨8, 0x10000, 0⟩], 0, 3, 0, .ro, false, false⟩
  | .lnLaneMap => ⟨0x200004, [⟨8, 0x10000, 0⟩], 8, 8, 228, .ro, false, false⟩
  | .lnLaneInv => ⟨0x200004, [⟨8, 0x10000, 0⟩], 16, 4, 0, .ro, false, false⟩
  | .lnQreset => ⟨0x200008, [⟨8, 0x10000, 0⟩], 0, 1, 0, .w1p, true, false⟩
  | .lnSlots => ⟨0x20000c, [⟨8, 0x10000, 0⟩], 0, 11, 256, .rw, false, false⟩
  | .lnReturnTmo => ⟨0x200010, [⟨8, 0x10000, 0⟩], 0, 16, 1000, .rw, false, false⟩
  | .lnXrdyTmo => ⟨0x200014, [⟨8, 0x10000, 0⟩], 0, 16, 500, .rw, false, false⟩
  | .lnDownTmo => ⟨0x200018, [⟨8, 0x10000, 0⟩], 0, 14, 100, .rw, false, false⟩
  | .lnGrantWindow => ⟨0x20001c, [⟨8, 0x10000, 0⟩], 0, 9, 16, .rw, false, false⟩
  | .lnWeight => ⟨0x200020, [⟨8, 0x10000, 0⟩], 0, 8, 1, .rw, false, false⟩
  | .lnMinshare => ⟨0x200020, [⟨8, 0x10000, 0⟩], 16, 9, 0, .rw, false, false⟩
  | .lnCreditGranted => ⟨0x200040, [⟨8, 0x10000, 0⟩], 0, 32, 0, .ro, false, false⟩
  | .lnCreditConsumed => ⟨0x200044, [⟨8, 0x10000, 0⟩], 0, 32, 0, .ro, false, false⟩
  | .lnCreditReturned => ⟨0x200048, [⟨8, 0x10000, 0⟩], 0, 32, 0, .ro, false, false⟩
  | .lnCreditOutstanding => ⟨0x20004c, [⟨8, 0x10000, 0⟩], 0, 32, 0, .ro, false, false⟩
  | .lnTagIssued => ⟨0x200050, [⟨8, 0x10000, 0⟩], 0, 32, 0, .ro, false, false⟩
  | .lnTagStatted => ⟨0x200054, [⟨8, 0x10000, 0⟩], 0, 32, 0, .ro, false, false⟩
  | .lnTagReset => ⟨0x200058, [⟨8, 0x10000, 0⟩], 0, 32, 0, .ro, false, false⟩
  | .lnTagOpen => ⟨0x20005c, [⟨8, 0x10000, 0⟩], 0, 32, 0, .ro, false, false⟩
  | .lnSnapCreditGranted => ⟨0x200060, [⟨8, 0x10000, 0⟩], 0, 32, 0, .ro, false, false⟩
  | .lnSnapCreditConsumed => ⟨0x200064, [⟨8, 0x10000, 0⟩], 0, 32, 0, .ro, false, false⟩
  | .lnSnapCreditReturned => ⟨0x200068, [⟨8, 0x10000, 0⟩], 0, 32, 0, .ro, false, false⟩
  | .lnSnapCreditOutstanding => ⟨0x20006c, [⟨8, 0x10000, 0⟩], 0, 32, 0, .ro, false, false⟩
  | .lnSnapTagIssued => ⟨0x200070, [⟨8, 0x10000, 0⟩], 0, 32, 0, .ro, false, false⟩
  | .lnSnapTagStatted => ⟨0x200074, [⟨8, 0x10000, 0⟩], 0, 32, 0, .ro, false, false⟩
  | .lnSnapTagReset => ⟨0x200078, [⟨8, 0x10000, 0⟩], 0, 32, 0, .ro, false, false⟩
  | .lnSnapTagOpen => ⟨0x20007c, [⟨8, 0x10000, 0⟩], 0, 32, 0, .ro, false, false⟩
  | .lnCrcErr => ⟨0x200080, [⟨8, 0x10000, 0⟩], 0, 32, 0, .ro, false, false⟩
  | .lnReplays => ⟨0x200084, [⟨8, 0x10000, 0⟩], 0, 32, 0, .ro, false, false⟩
  | .lnRetrains => ⟨0x200088, [⟨8, 0x10000, 0⟩], 0, 32, 0, .ro, false, false⟩
  | .lnDeferCount => ⟨0x20008c, [⟨8, 0x10000, 0⟩], 0, 9, 0, .ro, false, false⟩
  | .lnDeferLost => ⟨0x200090, [⟨8, 0x10000, 0⟩], 0, 32, 0, .ro, false, false⟩
  | .lnDeficit => ⟨0x200094, [⟨8, 0x10000, 0⟩], 0, 32, 0, .ro, false, false⟩
  | .sprSlotsTotal => ⟨0x280000, [], 0, 13, 4096, .rw, false, false⟩
  | .sprHostWeight => ⟨0x280004, [], 0, 8, 4, .rw, false, false⟩
  | .sprHostMinshare => ⟨0x280004, [], 16, 9, 0, .rw, false, false⟩
  -- Table 18-5
  | .bsReady => ⟨0x300000, [], 0, 1, 0, .ro, false, false⟩
  | .bsConfigErr => ⟨0x300000, [], 1, 1, 0, .ro, false, false⟩
  | .bsTrainErr => ⟨0x300000, [], 2, 1, 0, .ro, false, false⟩
  | .bsInitDone => ⟨0x300000, [], 3, 1, 0, .ro, false, false⟩
  | .bsOrg => ⟨0x300004, [], 0, 3, 0, .ro, false, false⟩
  | .bsDpc => ⟨0x300004, [], 4, 2, 1, .ro, false, false⟩
  | .bsTs => ⟨0x300010, [⟨4, 0x8, 0⟩, ⟨2, 0x4, 0⟩], 0, 16, 0, .ro, false, true⟩
  | .bsTsHot => ⟨0x300030, [], 0, 7, 95, .rw, false, false⟩
  | .bsRefMode => ⟨0x300034, [], 0, 1, 0, .rw, false, false⟩
  | .bsRefDouble => ⟨0x300034, [], 8, 4, 0, .ro, false, false⟩
  | .bsWmarkHigh => ⟨0x300038, [], 0, 7, 48, .rw, false, false⟩
  | .bsWmarkLow => ⟨0x300038, [], 8, 7, 16, .rw, false, false⟩
  | .bsWage => ⟨0x30003c, [], 0, 10, 10, .rw, false, false⟩
  | .bsQosmode => ⟨0x300040, [], 0, 1, 0, .rw, false, false⟩
  | .bsFillhigh => ⟨0x300044, [], 0, 7, 90, .rw, false, false⟩
  | .bsFill => ⟨0x300044, [], 16, 10, 0, .ro, false, false⟩
  | .bsUnitsInstalled => ⟨0x300050, [], 0, 21, 0, .ro, false, false⟩
  | .bsUnitsFree => ⟨0x300054, [], 0, 21, 0, .ro, false, false⟩
  | .bsUnitsReserved => ⟨0x300058, [], 0, 21, 0, .ro, false, false⟩
  | .bsUnitsHeld => ⟨0x30005c, [], 0, 21, 0, .ro, false, false⟩
  | .bsSnapFree => ⟨0x300060, [], 0, 21, 0, .ro, false, false⟩
  | .bsSnapReserved => ⟨0x300064, [], 0, 21, 0, .ro, false, false⟩
  | .bsSnapHeld => ⟨0x300068, [], 0, 21, 0, .ro, false, false⟩
  | .bsSnapInstalled => ⟨0x30006c, [], 0, 21, 0, .ro, false, false⟩
  | .bsPprCeThr => ⟨0x300080, [], 0, 8, 4, .rw, false, false⟩
  | .bsPprRowMax => ⟨0x300080, [], 8, 8, 2, .rw, false, false⟩
  | .bsPprCount => ⟨0x300084, [], 0, 32, 0, .ro, false, false⟩
  | .bsPatrolHours => ⟨0x300088, [], 0, 8, 24, .rw, false, false⟩
  | .bsPatrolCursorLo => ⟨0x30008c, [], 0, 32, 0, .ro, false, false⟩
  | .bsPatrolCursorHi => ⟨0x300090, [], 0, 2, 0, .ro, false, false⟩
  | .bsPortPrio => ⟨0x300100, [⟨8, 0x10, 0⟩], 0, 3, 0, .rw, false, false⟩
  | .bsPortLtarget => ⟨0x300104, [⟨8, 0x10, 0⟩], 0, 16, 1000, .rw, false, false⟩
  | .bsPortLate => ⟨0x300108, [⟨8, 0x10, 0⟩], 0, 32, 0, .ro, false, false⟩
  | .bsCe => ⟨0x300200, [⟨8, 0x40, 0⟩, ⟨10, 0x4, 0⟩], 0, 32, 0, .ro, false, false⟩
  | .bsUe => ⟨0x300400, [⟨8, 0x4, 0⟩], 0, 32, 0, .ro, false, false⟩
  -- Table 18-6
  | .ccEn => ⟨0x340000, [], 0, 1, 0, .rw, true, false⟩
  | .ccFused => ⟨0x340004, [], 0, 1, 0, .ro, false, false⟩
  | .ccCleared => ⟨0x340004, [], 1, 1, 0, .ro, false, false⟩
  | .ccLockmask => ⟨0x340008, [], 0, 12, 0, .rw, true, false⟩
  | .ccPfEn => ⟨0x34000c, [], 0, 1, 1, .rw, false, false⟩
  | .ccPfSeq => ⟨0x34000c, [], 1, 1, 1, .rw, false, false⟩
  | .ccPfReady => ⟨0x34000c, [], 8, 7, 0, .ro, false, false⟩
  | .ccRepairRows => ⟨0x340010, [], 0, 8, 0, .ro, false, false⟩
  | .ccRepairCols => ⟨0x340010, [], 8, 8, 0, .ro, false, false⟩
  | .ccHit => ⟨0x340020, [], 0, 32, 0, .ro, false, false⟩
  | .ccMiss => ⟨0x340024, [], 0, 32, 0, .ro, false, false⟩
  | .ccWb => ⟨0x340028, [], 0, 32, 0, .ro, false, false⟩
  | .ccPfReq => ⟨0x34002c, [], 0, 32, 0, .ro, false, false⟩
  | .ccPfUsed => ⟨0x340030, [], 0, 32, 0, .ro, false, false⟩
  | .ccPfDrop => ⟨0x340034, [], 0, 32, 0, .ro, false, false⟩
  | .ccLockMissed => ⟨0x340038, [], 0, 32, 0, .ro, false, false⟩
  | .ccCe => ⟨0x34003c, [], 0, 32, 0, .ro, false, false⟩
  | .ccUeClean => ⟨0x340040, [], 0, 32, 0, .ro, false, false⟩
  | .ccUeDirty => ⟨0x340044, [], 0, 32, 0, .ro, false, false⟩
  | .ccUeTag => ⟨0x340048, [], 0, 32, 0, .ro, false, false⟩
  -- Table 18-7
  | .pkMtoLock => ⟨0x400000, [⟨32, 0x4000, 0⟩], 0, 1, 0, .ro, false, false⟩
  | .pkLaserMask => ⟨0x400004, [⟨32, 0x4000, 0⟩], 0, 16, 0, .rw, true, false⟩
  | .pkMonSel => ⟨0x400008, [⟨32, 0x4000, 0⟩], 0, 4, 0, .rw, false, false⟩
  | .pkReadPwr => ⟨0x400040, [⟨32, 0x4000, 0⟩, ⟨16, 0x4, 0⟩], 0, 16, 0, .rw, false, false⟩
  | .pkWritePwr => ⟨0x400080, [⟨32, 0x4000, 0⟩, ⟨7, 0x4, 0⟩], 0, 16, 0, .rw, false, false⟩
  | .pkSaTrim => ⟨0x4000a0, [⟨32, 0x4000, 0⟩, ⟨4, 0x4, 0⟩], 0, 12, 0, .rw, false, true⟩
  | .pkWstbLatency => ⟨0x4000c0, [⟨32, 0x4000, 0⟩, ⟨7, 0x4, 0⟩], 0, 12, 0, .rw, false, false⟩
  | .pkPresent => ⟨0x400100, [⟨32, 0x4000, 0⟩], 0, 1, 0, .ro, false, false⟩
  | .pkFail => ⟨0x400100, [⟨32, 0x4000, 0⟩], 1, 1, 0, .w1c, false, false⟩
  | .pkAlarm => ⟨0x400100, [⟨32, 0x4000, 0⟩], 2, 1, 0, .ro, false, false⟩
  | .pkIdentLo => ⟨0x400104, [⟨32, 0x4000, 0⟩], 0, 32, 0, .ro, false, false⟩
  | .pkIdentHi => ⟨0x400108, [⟨32, 0x4000, 0⟩], 0, 32, 0, .ro, false, false⟩
  | .pkTemp => ⟨0x40010c, [⟨32, 0x4000, 0⟩], 0, 16, 0, .ro, false, true⟩
  | .pkMonitor => ⟨0x400140, [⟨32, 0x4000, 0⟩, ⟨16, 0x4, 0⟩], 0, 16, 0, .ro, false, false⟩
  | .wsDttop0 => ⟨0x400200, [⟨32, 0x4000, 0⟩, ⟨4, 0x200, 0⟩, ⟨8, 0x40, 0⟩, ⟨4, 0, 8⟩], 0, 5, 0, .rw, false, true⟩
  | .wsDttop1 => ⟨0x400204, [⟨32, 0x4000, 0⟩, ⟨4, 0x200, 0⟩, ⟨8, 0x40, 0⟩, ⟨4, 0, 8⟩], 0, 5, 0, .rw, false, true⟩
  | .wsTtop => ⟨0x400208, [⟨32, 0x4000, 0⟩, ⟨4, 0x200, 0⟩, ⟨8, 0x40, 0⟩, ⟨3, 0, 8⟩], 0, 6, 0, .rw, false, false⟩
  | .wsTmp => ⟨0x400208, [⟨32, 0x4000, 0⟩, ⟨4, 0x200, 0⟩, ⟨8, 0x40, 0⟩], 24, 5, 0, .rw, false, false⟩
  | .wsTlp => ⟨0x40020c, [⟨32, 0x4000, 0⟩, ⟨4, 0x200, 0⟩, ⟨8, 0x40, 0⟩, ⟨3, 0, 8⟩], 0, 6, 0, .rw, false, false⟩
  | .wsTcl => ⟨0x400210, [⟨32, 0x4000, 0⟩, ⟨4, 0x200, 0⟩, ⟨8, 0x40, 0⟩, ⟨4, 0, 8⟩], 0, 6, 0, .rw, false, false⟩
  | .baseDttop0 => ⟨0x400a00, [⟨32, 0x4000, 0⟩, ⟨4, 0x40, 0⟩, ⟨4, 0, 8⟩], 0, 5, 0, .rw, false, true⟩
  | .baseDttop1 => ⟨0x400a04, [⟨32, 0x4000, 0⟩, ⟨4, 0x40, 0⟩, ⟨4, 0, 8⟩], 0, 5, 0, .rw, false, true⟩
  | .baseTtop => ⟨0x400a08, [⟨32, 0x4000, 0⟩, ⟨4, 0x40, 0⟩, ⟨3, 0, 8⟩], 0, 6, 0, .rw, false, false⟩
  | .baseTmp => ⟨0x400a08, [⟨32, 0x4000, 0⟩, ⟨4, 0x40, 0⟩], 24, 5, 0, .rw, false, false⟩
  | .baseTlp => ⟨0x400a0c, [⟨32, 0x4000, 0⟩, ⟨4, 0x40, 0⟩, ⟨3, 0, 8⟩], 0, 6, 0, .rw, false, false⟩
  | .baseTcl => ⟨0x400a10, [⟨32, 0x4000, 0⟩, ⟨4, 0x40, 0⟩, ⟨4, 0, 8⟩], 0, 6, 0, .rw, false, false⟩
  | .wsPwr => ⟨0x400214, [⟨32, 0x4000, 0⟩, ⟨4, 0x200, 0⟩, ⟨8, 0x40, 0⟩, ⟨7, 0x4, 0⟩], 0, 15, 0, .rw, false, false⟩
  | .wsValid => ⟨0x400230, [⟨32, 0x4000, 0⟩, ⟨4, 0x200, 0⟩, ⟨8, 0x40, 0⟩], 0, 1, 0, .rw, false, false⟩
  | .rcBoost => ⟨0x401000, [⟨32, 0x4000, 0⟩, ⟨8, 0x4, 0⟩], 0, 5, 8, .rw, false, false⟩
  | .rcPeak => ⟨0x401000, [⟨32, 0x4000, 0⟩, ⟨8, 0x4, 0⟩], 16, 10, 0, .rw, false, false⟩
  | .rcAgcTarget => ⟨0x401020, [⟨32, 0x4000, 0⟩], 0, 8, 192, .rw, false, false⟩
  | .rcMuAcq => ⟨0x401020, [⟨32, 0x4000, 0⟩], 8, 4, 4, .rw, false, false⟩
  | .rcMuTrk => ⟨0x401020, [⟨32, 0x4000, 0⟩], 12, 4, 9, .rw, false, false⟩
  | .rcGain => ⟨0x401040, [⟨32, 0x4000, 0⟩, ⟨16, 0x4, 0⟩], 0, 9, 0, .ro, false, true⟩
  | .rcClips => ⟨0x401080, [⟨32, 0x4000, 0⟩, ⟨16, 0x4, 0⟩], 0, 32, 0, .ro, false, false⟩
  | .rcDeskew => ⟨0x4010c0, [⟨32, 0x4000, 0⟩, ⟨16, 0x4, 0⟩], 0, 12, 0, .rw, false, true⟩
  | .rcDeskewStatus => ⟨0x4010c0, [⟨32, 0x4000, 0⟩, ⟨16, 0x4, 0⟩], 16, 2, 0, .ro, false, false⟩
  | .rcKt => ⟨0x401100, [⟨32, 0x4000, 0⟩], 0, 4, 8, .rw, false, false⟩
  | .rcFirScale => ⟨0x401100, [⟨32, 0x4000, 0⟩], 8, 6, 16, .rw, false, false⟩
  | .rcFirAdapt => ⟨0x401100, [⟨32, 0x4000, 0⟩], 16, 1, 1, .rw, false, false⟩
  | .rcFirMu => ⟨0x401100, [⟨32, 0x4000, 0⟩], 24, 5, 12, .rw, false, false⟩
  | .rcItiEn => ⟨0x401104, [⟨32, 0x4000, 0⟩], 0, 1, 1, .rw, false, false⟩
  | .rcItiMu => ⟨0x401104, [⟨32, 0x4000, 0⟩], 8, 5, 13, .rw, false, false⟩
  | .rcConfThr => ⟨0x401108, [⟨32, 0x4000, 0⟩], 0, 6, 10, .rw, false, false⟩
  | .rcConfCnt => ⟨0x401108, [⟨32, 0x4000, 0⟩], 8, 4, 3, .rw, false, false⟩
  | .rcFlagEn => ⟨0x40110c, [⟨32, 0x4000, 0⟩], 0, 4, 15, .rw, false, false⟩
  | .rcDropThr => ⟨0x401110, [⟨32, 0x4000, 0⟩], 0, 8, 128, .rw, false, false⟩
  | .rcDropMargin => ⟨0x401110, [⟨32, 0x4000, 0⟩], 8, 8, 48, .rw, false, false⟩
  | .rcDropHold => ⟨0x401110, [⟨32, 0x4000, 0⟩], 16, 10, 256, .rw, false, false⟩
  | .rcScoutThr => ⟨0x401114, [⟨32, 0x4000, 0⟩], 0, 8, 32, .rw, false, false⟩
  | .rcScoutLen => ⟨0x401114, [⟨32, 0x4000, 0⟩], 8, 8, 32, .rw, false, false⟩
  | .rcScoutMargin => ⟨0x401114, [⟨32, 0x4000, 0⟩], 16, 10, 96, .rw, false, false⟩
  | .rcSlopeWin => ⟨0x401118, [⟨32, 0x4000, 0⟩], 0, 16, 2000, .rw, false, false⟩
  | .rcScoutCount => ⟨0x401118, [⟨32, 0x4000, 0⟩], 16, 9, 0, .ro, false, false⟩
  | .rcFirTap => ⟨0x401200, [⟨32, 0x4000, 0⟩, ⟨16, 0x40, 0⟩, ⟨15, 0x4, 0⟩], 0, 12, 0, .rw, false, true⟩
  | .rcFirSaved => ⟨0x401600, [⟨32, 0x4000, 0⟩, ⟨16, 0x100, 0⟩, ⟨4, 0x40, 0⟩, ⟨15, 0x4, 0⟩], 0, 12, 0, .rw, false, true⟩
  | .rcItiIn => ⟨0x402600, [⟨32, 0x4000, 0⟩, ⟨7, 0x20, 0⟩, ⟨3, 0x4, 0⟩], 0, 10, 0, .rw, false, true⟩
  | .rcItiOut => ⟨0x402610, [⟨32, 0x4000, 0⟩, ⟨7, 0x20, 0⟩, ⟨3, 0x4, 0⟩], 0, 10, 0, .rw, false, true⟩
  | .rcEye => ⟨0x402800, [⟨32, 0x4000, 0⟩, ⟨16, 0x100, 0⟩], 0, 10, 0, .ro, false, false⟩
  | .rcSamMean => ⟨0x402800, [⟨32, 0x4000, 0⟩, ⟨16, 0x100, 0⟩], 16, 10, 0, .ro, false, false⟩
  | .rcSamSnr => ⟨0x402804, [⟨32, 0x4000, 0⟩, ⟨16, 0x100, 0⟩], 0, 16, 0, .ro, false, true⟩
  | .rcDcr => ⟨0x402808, [⟨32, 0x4000, 0⟩, ⟨16, 0x100, 0⟩], 0, 20, 0, .ro, false, false⟩
  | .rcHist => ⟨0x402810, [⟨32, 0x4000, 0⟩, ⟨16, 0x100, 0⟩, ⟨34, 0x4, 0⟩], 0, 32, 0, .ro, false, false⟩
  | .rcQClear => ⟨0x403800, [⟨32, 0x4000, 0⟩], 0, 1, 0, .w1p, false, false⟩
  | .rcLaneBlocks => ⟨0x403810, [⟨32, 0x4000, 0⟩, ⟨7, 0x10, 0⟩], 0, 32, 0, .ro, false, false⟩
  | .rcLaneFails => ⟨0x403814, [⟨32, 0x4000, 0⟩, ⟨7, 0x10, 0⟩], 0, 32, 0, .ro, false, false⟩
  | .rcLaneFlywheels => ⟨0x403818, [⟨32, 0x4000, 0⟩, ⟨7, 0x10, 0⟩], 0, 32, 0, .ro, false, false⟩
  | .rcLaneSyncShifted => ⟨0x40381c, [⟨32, 0x4000, 0⟩, ⟨7, 0x10, 0⟩], 0, 32, 0, .ro, false, false⟩
  | .wgTrkLim => ⟨0x403900, [⟨32, 0x4000, 0⟩], 0, 8, 24, .rw, false, false⟩
  | .wgFocLim => ⟨0x403900, [⟨32, 0x4000, 0⟩], 8, 8, 40, .rw, false, false⟩
  | .wgOpen => ⟨0x403900, [⟨32, 0x4000, 0⟩], 16, 1, 1, .ro, false, false⟩
  | .wgTrips => ⟨0x403904, [⟨32, 0x4000, 0⟩], 0, 32, 0, .ro, false, false⟩
  | .pkAbandon => ⟨0x403910, [⟨32, 0x4000, 0⟩, ⟨10, 0x4, 0⟩], 0, 32, 0, .ro, false, false⟩
  | .rowAlloc => ⟨0x403940, [⟨32, 0x4000, 0⟩], 0, 32, 0, .ro, false, false⟩
  | .rowWritten => ⟨0x403944, [⟨32, 0x4000, 0⟩], 0, 32, 0, .ro, false, false⟩
  | .rowAbandoned => ⟨0x403948, [⟨32, 0x4000, 0⟩], 0, 32, 0, .ro, false, false⟩
  | .rowInprog => ⟨0x40394c, [⟨32, 0x4000, 0⟩], 0, 32, 0, .ro, false, false⟩
  | .rowSnapAlloc => ⟨0x403950, [⟨32, 0x4000, 0⟩], 0, 32, 0, .ro, false, false⟩
  | .rowSnapWritten => ⟨0x403954, [⟨32, 0x4000, 0⟩], 0, 32, 0, .ro, false, false⟩
  | .rowSnapAbandoned => ⟨0x403958, [⟨32, 0x4000, 0⟩], 0, 32, 0, .ro, false, false⟩
  | .rowSnapInprog => ⟨0x40395c, [⟨32, 0x4000, 0⟩], 0, 32, 0, .ro, false, false⟩
  | .rowNext => ⟨0x403960, [⟨32, 0x4000, 0⟩, ⟨4, 0x4, 0⟩], 0, 17, 0, .ro, false, false⟩
  | .rowSpareNext => ⟨0x403970, [⟨32, 0x4000, 0⟩, ⟨4, 0x4, 0⟩], 0, 17, 0x18060, .ro, false, false⟩
  | .wrLaneDis => ⟨0x403980, [⟨32, 0x4000, 0⟩, ⟨7, 0, 1⟩], 1, 1, 0, .w1c, false, false⟩
  | .opcReq => ⟨0x403990, [⟨32, 0x4000, 0⟩], 0, 1, 0, .w1p, true, false⟩
  | .opcBetaTgt => ⟨0x403994, [⟨32, 0x4000, 0⟩], 0, 10, 10, .rw, false, true⟩
  | .opcTempDelta => ⟨0x403994, [⟨32, 0x4000, 0⟩], 16, 8, 50, .rw, false, false⟩
  | .opcPcenter => ⟨0x4039a0, [⟨32, 0x4000, 0⟩, ⟨4, 0x4, 0⟩], 0, 15, 9000, .rw, false, false⟩
  | .opcTempLast => ⟨0x4039b0, [⟨32, 0x4000, 0⟩, ⟨4, 0x4, 0⟩], 0, 16, 0, .ro, false, true⟩
  | .opcStatus => ⟨0x4039c0, [⟨32, 0x4000, 0⟩, ⟨4, 0x4, 0⟩], 0, 3, 0, .ro, false, false⟩
  | .opcBandIn => ⟨0x4039d0, [⟨32, 0x4000, 0⟩, ⟨4, 0x4, 0⟩], 0, 16, 0, .ro, false, false⟩
  | .opcBandOut => ⟨0x4039d0, [⟨32, 0x4000, 0⟩, ⟨4, 0x4, 0⟩], 16, 16, 0, .ro, false, false⟩
  | .mordChecked => ⟨0x403a00, [⟨32, 0x4000, 0⟩, ⟨7, 0x4, 0⟩], 0, 32, 0, .ro, false, false⟩
  | .mordFailed => ⟨0x403a20, [⟨32, 0x4000, 0⟩, ⟨7, 0x4, 0⟩], 0, 32, 0, .ro, false, false⟩
  | .mordLastMaxCw => ⟨0x403a40, [⟨32, 0x4000, 0⟩, ⟨7, 0x4, 0⟩], 0, 6, 0, .ro, false, false⟩
  | .mordLastTotal => ⟨0x403a40, [⟨32, 0x4000, 0⟩, ⟨7, 0x4, 0⟩], 8, 14, 0, .ro, false, false⟩
  | .mordLastFly => ⟨0x403a40, [⟨32, 0x4000, 0⟩, ⟨7, 0x4, 0⟩], 22, 4, 0, .ro, false, false⟩
  | .mordLastCause => ⟨0x403a40, [⟨32, 0x4000, 0⟩, ⟨7, 0x4, 0⟩], 28, 4, 0, .ro, false, false⟩
  | .recovOk => ⟨0x403a80, [⟨32, 0x4000, 0⟩, ⟨6, 0x4, 0⟩], 0, 32, 0, .ro, false, false⟩
  | .recovFail => ⟨0x403a98, [⟨32, 0x4000, 0⟩], 0, 32, 0, .ro, false, false⟩
  | .recovRevs => ⟨0x403a9c, [⟨32, 0x4000, 0⟩], 0, 32, 0, .ro, false, false⟩
  | .recovQueued => ⟨0x403aa0, [⟨32, 0x4000, 0⟩], 0, 5, 0, .ro, false, false⟩
  | .defectDead => ⟨0x403ab0, [⟨32, 0x4000, 0⟩], 0, 32, 0, .ro, false, false⟩
  | .defectAbandoned => ⟨0x403ab4, [⟨32, 0x4000, 0⟩], 0, 32, 0, .ro, false, false⟩
  | .defectReallocFrom => ⟨0x403ab8, [⟨32, 0x4000, 0⟩], 0, 32, 0, .ro, false, false⟩
  -- Table 18-8
  | .axMode => ⟨0x500000, [⟨8, 0x10000, 0⟩, ⟨16, 0x400, 0⟩], 0, 2, 0, .rw, true, false⟩
  | .axState => ⟨0x500000, [⟨8, 0x10000, 0⟩, ⟨16, 0x400, 0⟩], 8, 3, 0, .ro, false, false⟩
  | .axClamp => ⟨0x500000, [⟨8, 0x10000, 0⟩, ⟨16, 0x400, 0⟩], 16, 1, 0, .ro, false, false⟩
  | .axOutsat => ⟨0x500000, [⟨8, 0x10000, 0⟩, ⟨16, 0x400, 0⟩], 17, 1, 0, .ro, false, false⟩
  | .axClampSeen => ⟨0x500000, [⟨8, 0x10000, 0⟩, ⟨16, 0x400, 0⟩], 18, 1, 0, .w1c, false, false⟩
  | .axOutsatSeen => ⟨0x500000, [⟨8, 0x10000, 0⟩, ⟨16, 0x400, 0⟩], 19, 1, 0, .w1c, false, false⟩
  | .axOpenOut => ⟨0x500004, [⟨8, 0x10000, 0⟩, ⟨16, 0x400, 0⟩], 0, 32, 0, .rw, false, true⟩
  | .axInteg => ⟨0x500008, [⟨8, 0x10000, 0⟩, ⟨16, 0x400, 0⟩], 0, 32, 0, .ro, false, true⟩
  | .axFfEn => ⟨0x50000c, [⟨8, 0x10000, 0⟩, ⟨16, 0x400, 0⟩], 0, 1, 0, .rw, false, false⟩
  | .axFfLearn => ⟨0x50000c, [⟨8, 0x10000, 0⟩, ⟨16, 0x400, 0⟩], 1, 1, 0, .rw, false, false⟩
  | .axFfClear => ⟨0x50000c, [⟨8, 0x10000, 0⟩, ⟨16, 0x400, 0⟩], 2, 1, 0, .w1p, true, false⟩
  | .axFfMu => ⟨0x50000c, [⟨8, 0x10000, 0⟩, ⟨16, 0x400, 0⟩], 8, 4, 6, .rw, false, false⟩
  | .cfOffset => ⟨0x500100, [⟨8, 0x10000, 0⟩, ⟨16, 0x400, 0⟩, ⟨2, 0x100, 0⟩], 0, 32, 0, .rw, false, true⟩
  | .cfGain => ⟨0x500104, [⟨8, 0x10000, 0⟩, ⟨16, 0x400, 0⟩, ⟨2, 0x100, 0⟩], 0, 32, 0x20000000, .rw, false, true⟩
  | .cfShift => ⟨0x500108, [⟨8, 0x10000, 0⟩, ⟨16, 0x400, 0⟩, ⟨2, 0x100, 0⟩], 0, 3, 0, .rw, false, false⟩
  | .cfB0 => ⟨0x500110, [⟨8, 0x10000, 0⟩, ⟨16, 0x400, 0⟩, ⟨2, 0x100, 0⟩, ⟨6, 0x14, 0⟩], 0, 32, 0x20000000, .rw, false, true⟩
  | .cfB1 => ⟨0x500114, [⟨8, 0x10000, 0⟩, ⟨16, 0x400, 0⟩, ⟨2, 0x100, 0⟩, ⟨6, 0x14, 0⟩], 0, 32, 0, .rw, false, true⟩
  | .cfB2 => ⟨0x500118, [⟨8, 0x10000, 0⟩, ⟨16, 0x400, 0⟩, ⟨2, 0x100, 0⟩, ⟨6, 0x14, 0⟩], 0, 32, 0, .rw, false, true⟩
  | .cfA1 => ⟨0x50011c, [⟨8, 0x10000, 0⟩, ⟨16, 0x400, 0⟩, ⟨2, 0x100, 0⟩, ⟨6, 0x14, 0⟩], 0, 32, 0, .rw, false, true⟩
  | .cfA2 => ⟨0x500120, [⟨8, 0x10000, 0⟩, ⟨16, 0x400, 0⟩, ⟨2, 0x100, 0⟩, ⟨6, 0x14, 0⟩], 0, 32, 0, .rw, false, true⟩
  | .cfKp => ⟨0x500188, [⟨8, 0x10000, 0⟩, ⟨16, 0x400, 0⟩, ⟨2, 0x100, 0⟩], 0, 32, 0, .rw, false, true⟩
  | .cfKi => ⟨0x50018c, [⟨8, 0x10000, 0⟩, ⟨16, 0x400, 0⟩, ⟨2, 0x100, 0⟩], 0, 32, 0, .rw, false, true⟩
  | .cfKd => ⟨0x500190, [⟨8, 0x10000, 0⟩, ⟨16, 0x400, 0⟩, ⟨2, 0x100, 0⟩], 0, 32, 0, .rw, false, true⟩
  | .cfIlim => ⟨0x500194, [⟨8, 0x10000, 0⟩, ⟨16, 0x400, 0⟩, ⟨2, 0x100, 0⟩], 0, 32, 0, .rw, false, true⟩
  | .cfOlim => ⟨0x500198, [⟨8, 0x10000, 0⟩, ⟨16, 0x400, 0⟩, ⟨2, 0x100, 0⟩], 0, 32, 0, .rw, false, true⟩
  | .axRro => ⟨0x504000, [⟨8, 0x10000, 0⟩, ⟨16, 0x800, 0⟩, ⟨384, 0x4, 0⟩], 0, 32, 0, .rw, true, true⟩
  | .bankActive => ⟨0x50c000, [⟨8, 0x10000, 0⟩, ⟨16, 0, 1⟩], 0, 1, 0, .ro, false, false⟩
  | .bankSwap => ⟨0x50c004, [⟨8, 0x10000, 0⟩, ⟨16, 0, 1⟩], 0, 1, 0, .w1p, true, false⟩
  | .bankPending => ⟨0x50c008, [⟨8, 0x10000, 0⟩, ⟨16, 0, 1⟩], 0, 1, 0, .ro, false, false⟩
  | .lpOverrun => ⟨0x50c00c, [⟨8, 0x10000, 0⟩], 0, 1, 0, .w1c, false, false⟩
  | .wdKw => ⟨0x50c100, [⟨8, 0x10000, 0⟩, ⟨4, 0x100, 0⟩], 0, 32, 0x2000000, .rw, false, true⟩
  | .wdClim => ⟨0x50c104, [⟨8, 0x10000, 0⟩, ⟨4, 0x100, 0⟩], 0, 32, 0x10000000, .rw, false, true⟩
  | .wdC => ⟨0x50c108, [⟨8, 0x10000, 0⟩, ⟨4, 0x100, 0⟩], 0, 32, 0, .ro, false, true⟩
  | .wdLaneErr => ⟨0x50c110, [⟨8, 0x10000, 0⟩, ⟨4, 0x100, 0⟩, ⟨7, 0x4, 0⟩], 0, 16, 0, .ro, false, true⟩
  | .wdStale => ⟨0x50c130, [⟨8, 0x10000, 0⟩, ⟨4, 0x100, 0⟩, ⟨7, 0, 1⟩], 1, 1, 0, .ro, false, false⟩
  | .wdMissed => ⟨0x50c134, [⟨8, 0x10000, 0⟩, ⟨4, 0x100, 0⟩], 0, 32, 0, .ro, false, false⟩
  | .fcEnvThr => ⟨0x50c140, [⟨8, 0x10000, 0⟩, ⟨4, 0x100, 0⟩], 0, 9, 60, .rw, false, false⟩
  | .fcSearchAmp => ⟨0x50c144, [⟨8, 0x10000, 0⟩, ⟨4, 0x100, 0⟩], 0, 32, 0x18000000, .rw, false, true⟩
  | .fcSearchT => ⟨0x50c148, [⟨8, 0x10000, 0⟩, ⟨4, 0x100, 0⟩], 0, 10, 100, .rw, false, false⟩
  | .jpKickAmp => ⟨0x50c150, [⟨8, 0x10000, 0⟩, ⟨4, 0x100, 0⟩], 0, 32, 0x8000000, .rw, false, true⟩
  | .jpBrakeAmp => ⟨0x50c154, [⟨8, 0x10000, 0⟩, ⟨4, 0x100, 0⟩], 0, 32, 0x8000000, .rw, false, true⟩
  | .jpKickN => ⟨0x50c158, [⟨8, 0x10000, 0⟩, ⟨4, 0x100, 0⟩], 0, 12, 120, .rw, false, false⟩
  | .jpBrakeN => ⟨0x50c158, [⟨8, 0x10000, 0⟩, ⟨4, 0x100, 0⟩], 16, 12, 120, .rw, false, false⟩
  | .jpCoastMax => ⟨0x50c15c, [⟨8, 0x10000, 0⟩, ⟨4, 0x100, 0⟩], 0, 12, 160, .rw, false, false⟩
  | .jpBrakeThr => ⟨0x50c160, [⟨8, 0x10000, 0⟩, ⟨4, 0x100, 0⟩], 0, 32, 0xccccccd, .rw, false, true⟩
  | .jpCaptN => ⟨0x50c164, [⟨8, 0x10000, 0⟩, ⟨4, 0x100, 0⟩], 0, 12, 200, .rw, false, false⟩
  | .jpCaptTol => ⟨0x50c164, [⟨8, 0x10000, 0⟩, ⟨4, 0x100, 0⟩], 16, 8, 40, .rw, false, false⟩
  | .trSel => ⟨0x50c800, [⟨8, 0x10000, 0⟩, ⟨16, 0x4, 0⟩], 0, 16, 0, .rw, false, false⟩
  | .trDecim => ⟨0x50c840, [⟨8, 0x10000, 0⟩], 0, 17, 1, .rw, false, false⟩
  | .trKind => ⟨0x50c844, [⟨8, 0x10000, 0⟩], 0, 3, 4, .rw, false, false⟩
  | .trDir => ⟨0x50c844, [⟨8, 0x10000, 0⟩], 4, 1, 0, .rw, false, false⟩
  | .trTrigSel => ⟨0x50c844, [⟨8, 0x10000, 0⟩], 16, 16, 0, .rw, false, false⟩
  | .trLevel => ⟨0x50c848, [⟨8, 0x10000, 0⟩], 0, 16, 0, .rw, false, true⟩
  | .trClampmask => ⟨0x50c848, [⟨8, 0x10000, 0⟩], 16, 16, 0, .rw, false, false⟩
  | .trEvsrc => ⟨0x50c84c, [⟨8, 0x10000, 0⟩], 0, 11, 0, .rw, false, false⟩
  | .trPretrig => ⟨0x50c850, [⟨8, 0x10000, 0⟩], 0, 13, 0, .rw, false, false⟩
  | .trArm => ⟨0x50c854, [⟨8, 0x10000, 0⟩], 0, 1, 0, .w1p, true, false⟩
  | .trForce => ⟨0x50c854, [⟨8, 0x10000, 0⟩], 1, 1, 0, .w1p, true, false⟩
  | .trState => ⟨0x50c854, [⟨8, 0x10000, 0⟩], 8, 3, 0, .ro, false, false⟩
  -- Table 18-9
  | .slMode => ⟨0x580000, [⟨32, 0x100, 0⟩], 0, 2, 0, .rw, false, false⟩
  | .slStopmode => ⟨0x580000, [⟨32, 0x100, 0⟩], 4, 1, 0, .rw, false, false⟩
  | .slStop => ⟨0x580000, [⟨32, 0x100, 0⟩], 8, 1, 0, .w1p, true, false⟩
  | .slHome => ⟨0x580000, [⟨32, 0x100, 0⟩], 9, 1, 0, .w1p, true, false⟩
  | .slState => ⟨0x580000, [⟨32, 0x100, 0⟩], 16, 3, 0, .ro, false, false⟩
  | .slCoarse => ⟨0x580000, [⟨32, 0x100, 0⟩], 24, 1, 0, .ro, false, false⟩
  | .slFault => ⟨0x580000, [⟨32, 0x100, 0⟩], 25, 1, 0, .w1c, false, false⟩
  | .slGoto => ⟨0x580004, [⟨32, 0x100, 0⟩], 0, 32, 0, .wo, true, true⟩
  | .slPos => ⟨0x580008, [⟨32, 0x100, 0⟩], 0, 32, 0, .ro, false, true⟩
  | .slOrigin => ⟨0x58000c, [⟨32, 0x100, 0⟩], 0, 32, 0, .ro, false, true⟩
  | .slScale => ⟨0x580010, [⟨32, 0x100, 0⟩], 0, 32, 0x960000, .ro, false, false⟩
  | .slIrun => ⟨0x580014, [⟨32, 0x100, 0⟩], 0, 9, 350, .rw, false, false⟩
  | .slIhold => ⟨0x580014, [⟨32, 0x100, 0⟩], 16, 9, 120, .rw, false, false⟩
  | .slTabsel => ⟨0x580018, [⟨32, 0x100, 0⟩], 0, 1, 0, .rw, false, false⟩
  | .slFollowGain => ⟨0x580018, [⟨32, 0x100, 0⟩], 8, 8, 16, .rw, false, false⟩
  | .slJerk => ⟨0x58001c, [⟨32, 0x100, 0⟩], 0, 15, 2000, .rw, false, false⟩
  | .slAccel => ⟨0x580020, [⟨32, 0x100, 0⟩], 0, 11, 2000, .rw, false, false⟩
  | .slSpeed => ⟨0x580020, [⟨32, 0x100, 0⟩], 16, 9, 500, .rw, false, false⟩
  | .slHomeAccel => ⟨0x580024, [⟨32, 0x100, 0⟩], 0, 11, 100, .rw, false, false⟩
  | .slHomeSpeed => ⟨0x580024, [⟨32, 0x100, 0⟩], 16, 6, 10, .rw, false, false⟩
  | .slHomeTravel => ⟨0x580024, [⟨32, 0x100, 0⟩], 24, 6, 45, .rw, false, false⟩
  | .slLimitIn => ⟨0x580028, [⟨32, 0x100, 0⟩], 0, 32, 0x14ca440, .rw, false, false⟩
  | .slLimitOut => ⟨0x58002c, [⟨32, 0x100, 0⟩], 0, 32, 0x37e2a40, .rw, false, false⟩
  | .slSeekTmo => ⟨0x580030, [⟨32, 0x100, 0⟩], 0, 13, 500, .rw, false, false⟩
  | .slSeekRetry => ⟨0x580030, [⟨32, 0x100, 0⟩], 16, 3, 2, .rw, false, false⟩
  | .slCorrMax => ⟨0x580030, [⟨32, 0x100, 0⟩], 20, 3, 3, .rw, false, false⟩
  | .slLeadMax => ⟨0x580030, [⟨32, 0x100, 0⟩], 24, 4, 4, .rw, false, false⟩
  | .slSlipMax => ⟨0x580034, [⟨32, 0x100, 0⟩], 0, 12, 64, .rw, false, false⟩
  | .slLastBand => ⟨0x580038, [⟨32, 0x100, 0⟩], 0, 16, 0, .ro, false, false⟩
  | .slLastDelta => ⟨0x580038, [⟨32, 0x100, 0⟩], 16, 16, 0, .ro, false, true⟩
  | .slTableA => ⟨0x590000, [⟨2, 0x1000, 0⟩, ⟨1024, 0x4, 0⟩], 0, 16, 0, .rw, false, true⟩
  | .slTableB => ⟨0x590000, [⟨2, 0x1000, 0⟩, ⟨1024, 0x4, 0⟩], 16, 16, 0, .rw, false, true⟩
  -- Table 18-10
  | .spClass => ⟨0x600000, [], 0, 1, 1, .rw, true, false⟩
  | .spReplaceTmo => ⟨0x600004, [], 0, 10, 10, .rw, false, false⟩
  | .spEn => ⟨0x601000, [⟨16, 0x1000, 0⟩], 0, 1, 0, .rw, true, false⟩
  | .spCmdsrc => ⟨0x601000, [⟨16, 0x1000, 0⟩], 4, 2, 0, .rw, true, false⟩
  | .spAnglesrc => ⟨0x601000, [⟨16, 0x1000, 0⟩], 8, 1, 0, .rw, false, false⟩
  | .spTarget => ⟨0x601004, [⟨16, 0x1000, 0⟩], 0, 14, 0, .ro, false, false⟩
  | .spAccel => ⟨0x601008, [⟨16, 0x1000, 0⟩], 0, 15, 3000, .rw, false, false⟩
  | .spSpeed => ⟨0x60100c, [⟨16, 0x1000, 0⟩], 0, 16, 0, .ro, false, true⟩
  | .spState => ⟨0x601010, [⟨16, 0x1000, 0⟩], 0, 4, 0, .ro, false, false⟩
  | .spSource => ⟨0x601014, [⟨16, 0x1000, 0⟩], 0, 3, 0, .ro, false, false⟩
  | .spObslock => ⟨0x601014, [⟨16, 0x1000, 0⟩], 4, 1, 0, .ro, false, false⟩
  | .spLearned => ⟨0x601014, [⟨16, 0x1000, 0⟩, ⟨2, 0, 1⟩], 5, 1, 0, .ro, false, false⟩
  | .spAtspeed => ⟨0x601014, [⟨16, 0x1000, 0⟩], 7, 1, 0, .ro, false, false⟩
  | .spVlimit => ⟨0x601014, [⟨16, 0x1000, 0⟩], 8, 1, 0, .ro, false, false⟩
  | .spFault => ⟨0x601014, [⟨16, 0x1000, 0⟩], 9, 1, 0, .w1c, false, false⟩
  | .spOffset => ⟨0x601018, [⟨16, 0x1000, 0⟩, ⟨2, 0, 16⟩], 0, 16, 0, .ro, false, false⟩
  | .spHandoverTol => ⟨0x60101c, [⟨16, 0x1000, 0⟩], 0, 7, 10, .rw, false, false⟩
  | .spMotorRs => ⟨0x601020, [⟨16, 0x1000, 0⟩], 0, 16, 600, .rw, false, false⟩
  | .spMotorLs => ⟨0x601020, [⟨16, 0x1000, 0⟩], 16, 16, 500, .rw, false, false⟩
  | .spMotorLambda => ⟨0x601024, [⟨16, 0x1000, 0⟩], 0, 16, 4400, .rw, false, false⟩
  | .spCurKp => ⟨0x601028, [⟨16, 0x1000, 0⟩], 0, 32, 0x50000000, .rw, false, true⟩
  | .spCurKi => ⟨0x60102c, [⟨16, 0x1000, 0⟩], 0, 32, 0x1eb851f, .rw, false, true⟩
  | .spSpdKp => ⟨0x601030, [⟨16, 0x1000, 0⟩], 0, 32, 0x10624e, .rw, false, true⟩
  | .spSpdKi => ⟨0x601034, [⟨16, 0x1000, 0⟩], 0, 32, 10737, .rw, false, true⟩
  | .spImax => ⟨0x601038, [⟨16, 0x1000, 0⟩], 0, 15, 7000, .rw, false, false⟩
  | .spFwVth => ⟨0x60103c, [⟨16, 0x1000, 0⟩], 0, 32, 0x1e666666, .rw, false, true⟩
  | .spFwKfw => ⟨0x601040, [⟨16, 0x1000, 0⟩], 0, 32, 0x51eb85, .rw, false, true⟩
  | .spFwIdmin => ⟨0x601044, [⟨16, 0x1000, 0⟩], 0, 16, 59536, .rw, false, true⟩
  | .spAlignI => ⟨0x601048, [⟨16, 0x1000, 0⟩], 0, 14, 2000, .rw, false, false⟩
  | .spRampAccel => ⟨0x601048, [⟨16, 0x1000, 0⟩], 16, 14, 2000, .rw, false, false⟩
  | .spRampEnd => ⟨0x60104c, [⟨16, 0x1000, 0⟩], 0, 12, 600, .rw, false, false⟩
  | .spStartRetry => ⟨0x60104c, [⟨16, 0x1000, 0⟩], 16, 3, 3, .rw, false, false⟩
  | .spLossAttempts => ⟨0x60104c, [⟨16, 0x1000, 0⟩], 24, 4, 3, .rw, false, false⟩
  | .spDeadtime => ⟨0x601050, [⟨16, 0x1000, 0⟩], 0, 6, 10, .rw, false, false⟩
  | .spIsrc => ⟨0x601050, [⟨16, 0x1000, 0⟩], 8, 3, 3, .rw, false, false⟩
  | .spIsnk => ⟨0x601050, [⟨16, 0x1000, 0⟩], 12, 3, 3, .rw, false, false⟩
  | .spRshunt => ⟨0x601054, [⟨16, 0x1000, 0⟩], 0, 16, 10000, .rw, false, false⟩
  | .spOcLimit => ⟨0x601054, [⟨16, 0x1000, 0⟩], 16, 16, 12000, .rw, false, false⟩
  | .spVbus => ⟨0x601058, [⟨16, 0x1000, 0⟩], 0, 16, 24000, .ro, false, false⟩
  | .spVbusMax => ⟨0x601058, [⟨16, 0x1000, 0⟩], 16, 16, 58000, .rw, false, false⟩
  | .spPinValue => ⟨0x60105c, [⟨16, 0x1000, 0⟩], 0, 14, 0, .ro, false, false⟩
  -- Table 18-11
  | .thDie => ⟨0x680000, [⟨8, 0x4, 0⟩], 0, 16, 0, .ro, false, true⟩
  | .thAmb => ⟨0x680040, [⟨16, 0x4, 0⟩], 0, 16, 0, .ro, false, true⟩
  | .thR25 => ⟨0x680080, [⟨16, 0x4, 0⟩], 0, 20, 10000, .rw, false, false⟩
  | .thB => ⟨0x6800c0, [⟨16, 0x4, 0⟩], 0, 14, 3435, .rw, false, false⟩
  | .thAmbEn => ⟨0x680100, [⟨16, 0, 1⟩], 0, 1, 1, .rw, false, false⟩
  | .thHold => ⟨0x680104, [⟨32, 0, 1⟩], 0, 1, 0, .ro, false, false⟩
  | .thHyst => ⟨0x680108, [], 0, 7, 20, .rw, false, false⟩
  | .thReopen => ⟨0x680108, [], 16, 10, 5, .rw, false, false⟩
  | .thHoldmax => ⟨0x68010c, [], 0, 12, 30, .rw, false, false⟩
  | .thJhot => ⟨0x68010c, [], 16, 7, 95, .rw, false, false⟩
  | .thGrace => ⟨0x680110, [], 0, 6, 5, .rw, false, false⟩
  | .thClearS => ⟨0x680110, [], 8, 10, 10, .rw, false, false⟩
  | .thStepS => ⟨0x680110, [], 18, 10, 10, .rw, false, false⟩
  | .thThrFrac => ⟨0x680114, [], 0, 9, 128, .rw, false, false⟩
  | .thThrMin => ⟨0x680114, [], 16, 9, 16, .rw, false, false⟩
  | .thThrState => ⟨0x680118, [], 0, 2, 0, .ro, false, false⟩
  | .thThrF => ⟨0x680118, [], 16, 9, 256, .ro, false, false⟩
  | .thThrB0 => ⟨0x68011c, [], 0, 32, 0, .ro, false, false⟩
  -- Table 18-12
  | .calSel => ⟨0x6c0000, [⟨1606, 0x4, 0⟩], 0, 32, 0, .ro, false, false⟩
  | .calPend => ⟨0x6c2000, [⟨1606, 0x4, 0⟩], 0, 32, 0, .rw, false, false⟩
  | .calFactory => ⟨0x6c4000, [⟨1606, 0x4, 0⟩], 0, 32, 0, .ro, false, false⟩
  | .calCommit => ⟨0x6c6000, [], 0, 1, 0, .w1p, true, false⟩
  | .calCommits => ⟨0x6c6004, [], 0, 32, 0, .ro, false, false⟩
  | .calSelCrc => ⟨0x6c6008, [], 0, 32, 0, .ro, false, false⟩
  | .calBusy => ⟨0x6c600c, [⟨6, 0, 1⟩], 1, 1, 0, .ro, false, false⟩
  -- Table 18-14
  | .evRing => ⟨0x700000, [⟨2048, 0x20, 0⟩], 0, 6, 0, .rw, true, false⟩
  | .evVector => ⟨0x700000, [⟨2048, 0x20, 0⟩], 16, 11, 0, .rw, true, false⟩
  | .evMask => ⟨0x700000, [⟨2048, 0x20, 0⟩], 31, 1, 1, .rw, true, false⟩
  | .evOccurred => ⟨0x700004, [⟨2048, 0x20, 0⟩], 0, 32, 0, .ro, false, false⟩
  | .evPosted => ⟨0x700008, [⟨2048, 0x20, 0⟩], 0, 32, 0, .ro, false, false⟩
  | .evPending => ⟨0x70000c, [⟨2048, 0x20, 0⟩], 0, 32, 0, .ro, false, false⟩
  | .evSnapOccurred => ⟨0x700010, [⟨2048, 0x20, 0⟩], 0, 32, 0, .ro, false, false⟩
  | .evSnapPosted => ⟨0x700014, [⟨2048, 0x20, 0⟩], 0, 32, 0, .ro, false, false⟩
  | .evSnapPending => ⟨0x700018, [⟨2048, 0x20, 0⟩], 0, 32, 0, .ro, false, false⟩
  | .evSeq => ⟨0x70001c, [⟨2048, 0x20, 0⟩], 0, 16, 0, .ro, false, false⟩
  | .evHoldoff => ⟨0x710000, [], 0, 10, 0, .rw, false, false⟩
  -- Table 18-15
  | .svGeometry => ⟨0x780000, [], 0, 8, 0, .rw, false, false⟩
  | .svVolIdLo => ⟨0x780004, [], 0, 32, 0, .rw, false, false⟩
  | .svVolIdHi => ⟨0x780008, [], 0, 32, 0, .rw, false, false⟩
  | .svLoadedIdLo => ⟨0x78000c, [], 0, 32, 0, .ro, false, false⟩
  | .svLoadedIdHi => ⟨0x780010, [], 0, 32, 0, .ro, false, false⟩
  | .svHostTimeLo => ⟨0x780014, [], 0, 32, 0, .rw, false, false⟩
  | .svHostTimeHi => ⟨0x780018, [], 0, 32, 0, .rw, false, false⟩
  | .svStripeWait => ⟨0x780020, [], 0, 16, 2000, .rw, false, false⟩
  | .svTakeOpen => ⟨0x780024, [], 0, 7, 0, .ro, false, false⟩
  | .svTakeCount => ⟨0x780028, [], 0, 21, 0, .ro, false, false⟩
  | .svStripesLo => ⟨0x78002c, [], 0, 32, 0, .ro, false, false⟩
  | .svStripesHi => ⟨0x780030, [], 0, 32, 0, .ro, false, false⟩
  | .svScrubEn => ⟨0x780040, [], 0, 1, 1, .rw, false, false⟩
  | .svScrubRate => ⟨0x780044, [], 0, 15, 500, .rw, false, false⟩
  | .svWeakCw => ⟨0x780048, [], 0, 6, 12, .rw, false, false⟩
  | .svMigratePpm => ⟨0x78004c, [], 0, 20, 1000, .rw, false, false⟩
  | .svCursorLo => ⟨0x780050, [], 0, 32, 0, .rw, false, false⟩
  | .svCursorHi => ⟨0x780054, [], 0, 32, 0, .rw, false, false⟩
  | .svPasses => ⟨0x780058, [], 0, 32, 0, .ro, false, false⟩
  | .svStState => ⟨0x780060, [], 0, 2, 0, .ro, false, false⟩
  | .svStItem => ⟨0x780060, [], 8, 3, 0, .ro, false, false⟩
  | .svImportBase => ⟨0x780068, [], 0, 20, 0, .rw, false, false⟩
  | .svImportSize => ⟨0x78006c, [], 0, 21, 0, .rw, true, false⟩
  | .svImportReady => ⟨0x780070, [], 0, 1, 0, .ro, false, false⟩
  | .mdMaxcw => ⟨0x780100, [], 0, 6, 6, .rw, false, false⟩
  | .mdMaxtot => ⟨0x780104, [], 0, 14, 300, .rw, false, false⟩
  | .mdMaxfly => ⟨0x780108, [], 0, 4, 4, .rw, false, false⟩
  | .mdRetry => ⟨0x780108, [], 8, 3, 3, .rw, false, false⟩
  | .mdSickCnt => ⟨0x780108, [], 16, 7, 8, .rw, false, false⟩
  | .rvMaxlevel => ⟨0x780200, [], 0, 3, 6, .rw, false, false⟩
  | .rvReallocLevel => ⟨0x780200, [], 4, 3, 3, .rw, false, false⟩
  | .rvRailRetry => ⟨0x780200, [], 8, 3, 3, .rw, false, false⟩
  | .rvL1MuDelta => ⟨0x780200, [], 12, 3, 2, .rw, false, false⟩
  | .rvMaxActive => ⟨0x780204, [], 0, 11, 256, .rw, false, false⟩
  | .rvActive => ⟨0x780204, [], 16, 11, 0, .ro, false, false⟩
  | .rvRailWait => ⟨0x780208, [], 0, 13, 500, .rw, false, false⟩
  | .rvL2DropThr => ⟨0x78020c, [], 0, 8, 160, .rw, false, false⟩
  | .rvL2Widen => ⟨0x78020c, [], 8, 4, 4, .rw, false, false⟩
  | .rvL2ConfAdd => ⟨0x78020c, [], 16, 6, 6, .rw, false, false⟩
  | .rvL3Viol => ⟨0x780210, [], 0, 10, 24, .rw, false, false⟩
  | .rvSoftRevs => ⟨0x780210, [], 16, 4, 8, .rw, false, false⟩
  | .rvReallocWait => ⟨0x780214, [], 0, 16, 2000, .rw, false, false⟩
  | .rvSpareLow => ⟨0x780218, [], 0, 11, 64, .rw, false, false⟩
  -- Table 18-16
  | .scCustkey => ⟨0x7c0000, [⟨8, 0x4, 0⟩], 0, 32, 0, .rw, false, false⟩
  | .scKeyhash => ⟨0x7c0020, [⟨8, 0x4, 0⟩], 0, 32, 0, .ro, false, false⟩
  | .scSlot => ⟨0x7c0040, [], 0, 8, 255, .ro, false, false⟩
  | .scKey => ⟨0x7c0040, [], 8, 8, 255, .ro, false, false⟩
  | .scSlotStatus => ⟨0x7c0040, [⟨2, 0, 4⟩], 16, 3, 5, .ro, false, false⟩
  | .scSequence => ⟨0x7c0044, [], 0, 32, 0, .ro, false, false⟩
  | .scFwDigest => ⟨0x7c0060, [⟨8, 0x4, 0⟩], 0, 32, 0, .ro, false, false⟩
  | .scIdPub => ⟨0x7c0080, [⟨16, 0x4, 0⟩], 0, 32, 0, .ro, false, false⟩
  | .scSerialLo => ⟨0x7c00c0, [], 0, 32, 0, .ro, false, false⟩
  | .scSerialHi => ⟨0x7c00c4, [], 0, 32, 0, .ro, false, false⟩
  | .scChainLen => ⟨0x7c00c8, [], 0, 15, 0, .ro, false, false⟩
  | .scChain => ⟨0x7c1000, [⟨4096, 0x4, 0⟩], 0, 32, 0, .ro, false, false⟩

/-- Rows of Table 18-2. -/
def rows18_2 : List Row :=
  [.glBoot, .glVcoreSettled, .glPace, .glVcoreLevel, .glTimeLo, .glTimeHi, .glDevnum, .glReset, .glSnapTake, .glSnapDone, .glPaceDie]

/-- Rows of Table 18-3. -/
def rows18_3 : List Row :=
  [.hPoll, .hLinkSpeed, .hLinkWidth, .sqBaseLo, .sqBaseHi, .sqTailLo, .sqTailHi, .sqEn, .sqPoll, .sqSize, .sqCq, .sqWeight, .sqConsumed, .sqCompleted, .sqAborted, .sqInflight, .sqSnapConsumed, .sqSnapCompleted, .sqSnapAborted, .sqSnapInflight, .sqDeferCount, .sqDeferLost, .cqBaseLo, .cqBaseHi, .cqHeadLo, .cqHeadHi, .cqEn, .cqSize, .cqVector, .cqCoalCnt, .cqCoalUs, .cqPosted, .eqBaseLo, .eqBaseHi, .eqHeadLo, .eqHeadHi, .eqEn, .eqSize]

/-- Rows of Table 18-4. -/
def rows18_4 : List Row :=
  [.lnEn, .lnState, .lnLaneMap, .lnLaneInv, .lnQreset, .lnSlots, .lnReturnTmo, .lnXrdyTmo, .lnDownTmo, .lnGrantWindow, .lnWeight, .lnMinshare, .lnCreditGranted, .lnCreditConsumed, .lnCreditReturned, .lnCreditOutstanding, .lnTagIssued, .lnTagStatted, .lnTagReset, .lnTagOpen, .lnSnapCreditGranted, .lnSnapCreditConsumed, .lnSnapCreditReturned, .lnSnapCreditOutstanding, .lnSnapTagIssued, .lnSnapTagStatted, .lnSnapTagReset, .lnSnapTagOpen, .lnCrcErr, .lnReplays, .lnRetrains, .lnDeferCount, .lnDeferLost, .lnDeficit, .sprSlotsTotal, .sprHostWeight, .sprHostMinshare]

/-- Rows of Table 18-5. -/
def rows18_5 : List Row :=
  [.bsReady, .bsConfigErr, .bsTrainErr, .bsInitDone, .bsOrg, .bsDpc, .bsTs, .bsTsHot, .bsRefMode, .bsRefDouble, .bsWmarkHigh, .bsWmarkLow, .bsWage, .bsQosmode, .bsFillhigh, .bsFill, .bsUnitsInstalled, .bsUnitsFree, .bsUnitsReserved, .bsUnitsHeld, .bsSnapFree, .bsSnapReserved, .bsSnapHeld, .bsSnapInstalled, .bsPprCeThr, .bsPprRowMax, .bsPprCount, .bsPatrolHours, .bsPatrolCursorLo, .bsPatrolCursorHi, .bsPortPrio, .bsPortLtarget, .bsPortLate, .bsCe, .bsUe]

/-- Rows of Table 18-6. -/
def rows18_6 : List Row :=
  [.ccEn, .ccFused, .ccCleared, .ccLockmask, .ccPfEn, .ccPfSeq, .ccPfReady, .ccRepairRows, .ccRepairCols, .ccHit, .ccMiss, .ccWb, .ccPfReq, .ccPfUsed, .ccPfDrop, .ccLockMissed, .ccCe, .ccUeClean, .ccUeDirty, .ccUeTag]

/-- Rows of Table 18-7. -/
def rows18_7 : List Row :=
  [.pkMtoLock, .pkLaserMask, .pkMonSel, .pkReadPwr, .pkWritePwr, .pkSaTrim, .pkWstbLatency, .pkPresent, .pkFail, .pkAlarm, .pkIdentLo, .pkIdentHi, .pkTemp, .pkMonitor, .wsDttop0, .wsDttop1, .wsTtop, .wsTmp, .wsTlp, .wsTcl, .baseDttop0, .baseDttop1, .baseTtop, .baseTmp, .baseTlp, .baseTcl, .wsPwr, .wsValid, .rcBoost, .rcPeak, .rcAgcTarget, .rcMuAcq, .rcMuTrk, .rcGain, .rcClips, .rcDeskew, .rcDeskewStatus, .rcKt, .rcFirScale, .rcFirAdapt]

/-- Rows of Table 18-7. -/
def rows18_7b : List Row :=
  [.rcFirMu, .rcItiEn, .rcItiMu, .rcConfThr, .rcConfCnt, .rcFlagEn, .rcDropThr, .rcDropMargin, .rcDropHold, .rcScoutThr, .rcScoutLen, .rcScoutMargin, .rcSlopeWin, .rcScoutCount, .rcFirTap, .rcFirSaved, .rcItiIn, .rcItiOut, .rcEye, .rcSamMean, .rcSamSnr, .rcDcr, .rcHist, .rcQClear, .rcLaneBlocks, .rcLaneFails, .rcLaneFlywheels, .rcLaneSyncShifted, .wgTrkLim, .wgFocLim, .wgOpen, .wgTrips, .pkAbandon, .rowAlloc, .rowWritten, .rowAbandoned, .rowInprog, .rowSnapAlloc, .rowSnapWritten, .rowSnapAbandoned]

/-- Rows of Table 18-7. -/
def rows18_7c : List Row :=
  [.rowSnapInprog, .rowNext, .rowSpareNext, .wrLaneDis, .opcReq, .opcBetaTgt, .opcTempDelta, .opcPcenter, .opcTempLast, .opcStatus, .opcBandIn, .opcBandOut, .mordChecked, .mordFailed, .mordLastMaxCw, .mordLastTotal, .mordLastFly, .mordLastCause, .recovOk, .recovFail, .recovRevs, .recovQueued, .defectDead, .defectAbandoned, .defectReallocFrom]

/-- Rows of Table 18-8. -/
def rows18_8 : List Row :=
  [.axMode, .axState, .axClamp, .axOutsat, .axClampSeen, .axOutsatSeen, .axOpenOut, .axInteg, .axFfEn, .axFfLearn, .axFfClear, .axFfMu, .cfOffset, .cfGain, .cfShift, .cfB0, .cfB1, .cfB2, .cfA1, .cfA2, .cfKp, .cfKi, .cfKd, .cfIlim, .cfOlim, .axRro, .bankActive, .bankSwap, .bankPending, .lpOverrun, .wdKw, .wdClim, .wdC, .wdLaneErr, .wdStale, .wdMissed, .fcEnvThr, .fcSearchAmp, .fcSearchT, .jpKickAmp]

/-- Rows of Table 18-8. -/
def rows18_8b : List Row :=
  [.jpBrakeAmp, .jpKickN, .jpBrakeN, .jpCoastMax, .jpBrakeThr, .jpCaptN, .jpCaptTol, .trSel, .trDecim, .trKind, .trDir, .trTrigSel, .trLevel, .trClampmask, .trEvsrc, .trPretrig, .trArm, .trForce, .trState]

/-- Rows of Table 18-9. -/
def rows18_9 : List Row :=
  [.slMode, .slStopmode, .slStop, .slHome, .slState, .slCoarse, .slFault, .slGoto, .slPos, .slOrigin, .slScale, .slIrun, .slIhold, .slTabsel, .slFollowGain, .slJerk, .slAccel, .slSpeed, .slHomeAccel, .slHomeSpeed, .slHomeTravel, .slLimitIn, .slLimitOut, .slSeekTmo, .slSeekRetry, .slCorrMax, .slLeadMax, .slSlipMax, .slLastBand, .slLastDelta, .slTableA, .slTableB]

/-- Rows of Table 18-10. -/
def rows18_10 : List Row :=
  [.spClass, .spReplaceTmo, .spEn, .spCmdsrc, .spAnglesrc, .spTarget, .spAccel, .spSpeed, .spState, .spSource, .spObslock, .spLearned, .spAtspeed, .spVlimit, .spFault, .spOffset, .spHandoverTol, .spMotorRs, .spMotorLs, .spMotorLambda, .spCurKp, .spCurKi, .spSpdKp, .spSpdKi, .spImax, .spFwVth, .spFwKfw, .spFwIdmin, .spAlignI, .spRampAccel, .spRampEnd, .spStartRetry, .spLossAttempts, .spDeadtime, .spIsrc, .spIsnk, .spRshunt, .spOcLimit, .spVbus, .spVbusMax]

/-- Rows of Table 18-10. -/
def rows18_10b : List Row :=
  [.spPinValue]

/-- Rows of Table 18-11. -/
def rows18_11 : List Row :=
  [.thDie, .thAmb, .thR25, .thB, .thAmbEn, .thHold, .thHyst, .thReopen, .thHoldmax, .thJhot, .thGrace, .thClearS, .thStepS, .thThrFrac, .thThrMin, .thThrState, .thThrF, .thThrB0]

/-- Rows of Table 18-12. -/
def rows18_12 : List Row :=
  [.calSel, .calPend, .calFactory, .calCommit, .calCommits, .calSelCrc, .calBusy]

/-- Rows of Table 18-14. -/
def rows18_14 : List Row :=
  [.evRing, .evVector, .evMask, .evOccurred, .evPosted, .evPending, .evSnapOccurred, .evSnapPosted, .evSnapPending, .evSeq, .evHoldoff]

/-- Rows of Table 18-15. -/
def rows18_15 : List Row :=
  [.svGeometry, .svVolIdLo, .svVolIdHi, .svLoadedIdLo, .svLoadedIdHi, .svHostTimeLo, .svHostTimeHi, .svStripeWait, .svTakeOpen, .svTakeCount, .svStripesLo, .svStripesHi, .svScrubEn, .svScrubRate, .svWeakCw, .svMigratePpm, .svCursorLo, .svCursorHi, .svPasses, .svStState, .svStItem, .svImportBase, .svImportSize, .svImportReady, .mdMaxcw, .mdMaxtot, .mdMaxfly, .mdRetry, .mdSickCnt, .rvMaxlevel, .rvReallocLevel, .rvRailRetry, .rvL1MuDelta, .rvMaxActive, .rvActive, .rvRailWait, .rvL2DropThr, .rvL2Widen, .rvL2ConfAdd, .rvL3Viol]

/-- Rows of Table 18-15. -/
def rows18_15b : List Row :=
  [.rvSoftRevs, .rvReallocWait, .rvSpareLow]

/-- Rows of Table 18-16. -/
def rows18_16 : List Row :=
  [.scCustkey, .scKeyhash, .scSlot, .scKey, .scSlotStatus, .scSequence, .scFwDigest, .scIdPub, .scSerialLo, .scSerialHi, .scChainLen, .scChain]

/-- Every field row, in the order of the tables. -/
def Row.all : List Row :=
  List.flatten [rows18_2, rows18_3, rows18_4, rows18_5, rows18_6, rows18_7, rows18_7b, rows18_7c, rows18_8, rows18_8b, rows18_9, rows18_10, rows18_10b, rows18_11, rows18_12, rows18_14, rows18_15, rows18_15b, rows18_16]

/-- R146: round (32,767 × cos (2π i ÷ 1,024)) for the quarter turn i = 0 to 256. -/
def quarterCosine : List Nat :=
  [32767, 32766, 32765, 32761, 32757, 32752, 32745, 32737, 32728, 32717, 32705, 32692, 32678, 32663, 32646, 32628, 32609, 32589, 32567, 32545, 32521, 32495, 32469, 32441, 32412, 32382, 32351, 32318, 32285, 32250, 32213, 32176]
  ++ [32137, 32098, 32057, 32014, 31971, 31926, 31880, 31833, 31785, 31736, 31685, 31633, 31580, 31526, 31470, 31414, 31356, 31297, 31237, 31176, 31113, 31050, 30985, 30919, 30852, 30783, 30714, 30643, 30571, 30498, 30424, 30349]
  ++ [30273, 30195, 30117, 30037, 29956, 29874, 29791, 29706, 29621, 29534, 29447, 29358, 29268, 29177, 29085, 28992, 28898, 28803, 28706, 28609, 28510, 28411, 28310, 28208, 28105, 28001, 27896, 27790, 27683, 27575, 27466, 27356]
  ++ [27245, 27133, 27019, 26905, 26790, 26674, 26556, 26438, 26319, 26198, 26077, 25955, 25832, 25708, 25582, 25456, 25329, 25201, 25072, 24942, 24811, 24680, 24547, 24413, 24279, 24143, 24007, 23870, 23731, 23592, 23452, 23311]
  ++ [23170, 23027, 22884, 22739, 22594, 22448, 22301, 22154, 22005, 21856, 21705, 21554, 21403, 21250, 21096, 20942, 20787, 20631, 20475, 20317, 20159, 20000, 19841, 19680, 19519, 19357, 19195, 19032, 18868, 18703, 18537, 18371]
  ++ [18204, 18037, 17869, 17700, 17530, 17360, 17189, 17018, 16846, 16673, 16499, 16325, 16151, 15976, 15800, 15623, 15446, 15269, 15090, 14912, 14732, 14553, 14372, 14191, 14010, 13828, 13645, 13462, 13279, 13094, 12910, 12725]
  ++ [12539, 12353, 12167, 11980, 11793, 11605, 11417, 11228, 11039, 10849, 10659, 10469, 10278, 10087, 9896, 9704, 9512, 9319, 9126, 8933, 8739, 8545, 8351, 8157, 7962, 7767, 7571, 7375, 7179, 6983, 6786, 6590]
  ++ [6393, 6195, 5998, 5800, 5602, 5404, 5205, 5007, 4808, 4609, 4410, 4210, 4011, 3811, 3612, 3412, 3212, 3012, 2811, 2611, 2410, 2210, 2009, 1809, 1608, 1407, 1206, 1005, 804, 603, 402, 201]
  ++ [0]

/-- R146: the power-on entry A (cosine) of table index i, two's complement in 16 bits. -/
def tableCosine (i : Nat) : Nat :=
  let j := i % 1024
  if j ≤ 256 then quarterCosine.getD j 0
  else if j ≤ 512 then (65536 - quarterCosine.getD (512 - j) 0) % 65536
  else if j ≤ 768 then (65536 - quarterCosine.getD (j - 512) 0) % 65536
  else quarterCosine.getD (1024 - j) 0

/-- R146: the power-on entry B (sine) of table index i. -/
def tableSine (i : Nat) : Nat := tableCosine (i + 768)

/-- The address of a field (R536): base plus index times stride over its dims. -/
def dimAddr : List Dim → List Nat → Nat
  | d :: ds, i :: is => d.addr * i + dimAddr ds is
  | _, _ => 0

/-- The lowest bit added by the indices. -/
def dimLsb : List Dim → List Nat → Nat
  | d :: ds, i :: is => d.lsb * i + dimLsb ds is
  | _, _ => 0

/-- The BAR0 address of a field. -/
def Fld.addr (f : Fld) : Nat := f.row.spec.base + dimAddr f.row.spec.dims f.ix

/-- The lowest bit of a field in its word. -/
def Fld.lsb (f : Fld) : Nat := f.row.spec.lsb + dimLsb f.row.spec.dims f.ix

/-- Each index lies below its count. -/
def dimsOk : List Dim → List Nat → Bool
  | [], [] => true
  | d :: ds, i :: is => decide (i < d.count) && dimsOk ds is
  | _, _ => false

/-- The field exists: its indices lie in range. -/
def Fld.ok (f : Fld) : Bool := dimsOk f.row.spec.dims f.ix

/-- The Reset column of Tables 18-2 to 18-16. Where it is a dash, the value the log entry 3 names; where it is
"Fuse", the fuse constant of Config (R538); both CALIB windows load the factory selection (R504), and SEL_CRC is
taken over it (R513). -/
def Fld.reset (f : Fld) : Nat :=
  if f.row = .bsPortPrio then [4, 4, 7, 6, 5, 0, 1, 2].getD (f.ix.getD 0 0) 0
  else if f.row = .ccRepairRows then Config.fuse f.addr % 2 ^ 8
  else if f.row = .ccRepairCols then Config.fuse f.addr / 2 ^ 8 % 2 ^ 8
  else if f.row = .rcPeak then [198, 232, 267, 301, 335, 370, 404, 438].getD (f.ix.getD 1 0) 0
  else if f.row = .rcFirSaved then if f.ix.getD 3 0 = 7 then 256 else 0
  else if f.row = .slTableA then tableCosine (f.ix.getD 1 0)
  else if f.row = .slTableB then tableSine (f.ix.getD 1 0)
  else if f.row = .calSel then Config.fuse (f.addr + 0x4000) % 2 ^ 32
  else if f.row = .calPend then Config.fuse (f.addr + 0x2000) % 2 ^ 32
  else if f.row = .calFactory then Config.fuse f.addr % 2 ^ 32
  else if f.row = .scIdPub then
    -- R533: the public key, word 0 the most significant of x (log entry 98)
    ofBe (((ecdsaPublic identityKey).drop (4 * f.ix.headD 0)).take 4)
  else if f.row = .scSerialLo then Config.fuse f.addr % 2 ^ 32
  else if f.row = .scSerialHi then Config.fuse f.addr % 2 ^ 32
  else if f.row = .scChainLen then Config.fuse f.addr % 16385
  else if f.row = .scChain then Config.fuse f.addr % 2 ^ 32
  else if f.row = .calSelCrc then
    crc32c ((List.range 1606).flatMap fun i =>
      let w := Config.fuse (0x6C4000 + 4 * i)
      [w % 256, w / 256 % 256, w / 65536 % 256, w / 16777216 % 256])
  else f.row.spec.reset

/-- The indices, if any, at which a run of dims (strides falling) reaches address offset `off`. A dim with address
stride 0 lies within one word and gives all its values. -/
def solveDims : List Dim → Nat → List (List Nat)
  | [], off => if off = 0 then [[]] else []
  | d :: ds, off =>
    if d.addr = 0 then (List.range d.count).flatMap fun i => (solveDims ds off).map (i :: ·)
    else if off / d.addr < d.count then
      (solveDims ds (off % d.addr)).map ((off / d.addr) :: ·)
    else []

/-- The instances of a row at a BAR0 address. -/
def Row.at (r : Row) (addr : Nat) : List Fld :=
  if r.spec.base ≤ addr then (solveDims r.spec.dims (addr - r.spec.base)).map fun ix => ⟨r, ix⟩ else []

/-- A field of PICKUP[p].RC that R248 holds until the next block. -/
def isRc : Row → Bool
  | .rcBoost | .rcPeak | .rcAgcTarget | .rcMuAcq | .rcMuTrk | .rcDeskew | .rcKt | .rcFirScale | .rcFirAdapt | .rcFirMu
  | .rcItiEn | .rcItiMu | .rcConfThr | .rcConfCnt | .rcFlagEn | .rcDropThr | .rcDropMargin | .rcDropHold | .rcScoutThr
  | .rcScoutLen | .rcScoutMargin | .rcSlopeWin | .rcFirTap | .rcFirSaved | .rcItiIn | .rcItiOut => true
  | _ => false

/-- Every field at a BAR0 word address (R537: none where no table allocates the offset). -/
def fieldsAt (addr : Nat) : List Fld := Row.all.flatMap fun r => r.at addr

end Sys2Proof.Machine
end

