-- ==== Sys2Proof/Machine/State.lean ====
section
/-! DEFINITION. The state of the block, as plain data: every register, queue, buffer, counter, mode and pin the
manual gives it, and the queue of commands that wait. `State.reset` is the instant at which power-on reset ends. -/

namespace Sys2Proof.Machine

/-- Why the block stops. Table 20-2 lists every case in which the manual leaves the behaviour undefined from then to
the next power-on reset (R567): each is a fault here, and each fault is safe: the model stops where the device would
go on in some way the manual does not give. -/
inductive Fault where
  /-- R27: VCORE below Table 01-8 for a duty in use. Raised by VCORE_SETTLED and DIE_SENSOR_READ. Safe. -/
  | vcoreTooLow
  /-- R27: a junction below −10 °C or above 105 °C. Raised by DIE_SENSOR_READ. Safe. -/
  | junctionRange
  /-- R189: SPINDLE.CLASS = S with more than 8 spindles enabled. Raised by CLASS_WRITE and SPINDLE_EN_WRITE. Safe. -/
  | classSpindles
  /-- R346: a write to BASE, SIZE, index-word address or CQ of an enabled ring, a step of R314 left undone, a
  misaligned base or index word. Raised by REGISTER_WRITE and RING_ENABLE. Safe. -/
  | ringMisuse
  /-- R346: a tail count that moves backward, or more than 2^SIZE − 1 descriptors placed. Raised by INDEX_WORD_READ. Safe. -/
  | tailMisuse
  /-- R346, R310: a BAR2 access misaligned, beyond the installed basin, or before READY; R449: a BAR2 write outside
  the import window. Raised by BAR2_WRITE and BAR2_READ. Safe. -/
  | bar2Misuse
  /-- R309: an access to BAR0 that is not a naturally aligned 4-byte one. Raised by REGISTER_WRITE. Safe. -/
  | bar0Access
  /-- R543: a value outside the range its chapter gives. Raised by REGISTER_WRITE. Safe. -/
  | valueRange
  /-- R449: an import window that overlaps the service area. Raised by IMPORT_SIZE_WRITE. Safe. -/
  | importWindow
  /-- R449: WMARK.LOW at or above WMARK.HIGH, or WMARK.HIGH above 64. Raised by REGISTER_WRITE. Safe. -/
  | wmarkOrder
  /-- R449: a write to BASIN.REF.MODE while READY is 1. Raised by REGISTER_WRITE. Safe. -/
  | refModeWhileReady
  /-- R466: LOCKMASK bits [7:0] cleared while Riraiz runs. Raised by LOCKMASK_WRITE. Safe. -/
  | lockmaskCleared
  /-- R466: OP 1 over a dirty line of the service area. Raised by INVALIDATE. Safe. -/
  | invalidateDirty
  /-- R474: EN set, or OP 0 or OP 2 issued, while CLEARED is 0; a range beyond set 16,383 or the installed basin.
  Raised by CACHE_ENABLE_WRITE and the CACHE_MAINT rows. Safe. -/
  | cacheMisuse
  /-- R514: a commit of an entry not valid under R503, or any write to CALIB.SEL. Raised by CALIB_COMMIT and
  REGISTER_WRITE. Safe. -/
  | calibMisuse
  /-- R68: a PBA with nonzero bits [31:27], lane 0 or a row above 100,639; a BLOCK_WRITE to a position that holds a
  recorded block; R566: to an allocated, spare or catalogue row. Raised by BLOCK_WRITE and BLOCK_READ. Safe. -/
  | pbaMisuse
  /-- R399, R566: OFFSET or LENGTH not a multiple of 64, or OFFSET + LENGTH above 2^46. Raised by RECORD and
  RETRIEVE. Safe. -/
  | takeMisuse
  /-- R346: a descriptor whose buffers are misaligned or shorter than it describes. Raised by RECORD, RETRIEVE, BLOCK_WRITE
  and BLOCK_READ. Safe. -/
  | bufferMisuse
  /-- R526: FW_LOAD with a reserved ACTION. Raised by PROGRAM. Safe. -/
  | fwAction
  /-- R383: a CMD sent against R358, a tag reused while open, DATA against R364, or a range against R399. Raised by WRITE, READ,
  LOG, UNKNOWN_OP and DATA. Safe. -/
  | senderMisuse
  deriving DecidableEq, Repr

/-- What the model refuses by name. -/
inductive Refusal where
  /-- An instruction that has no meaning yet. Raised by `exec` alone. Safe. -/
  | notModelled (mnemonic : String)
  deriving DecidableEq, Repr

/-! ## Chapters 10, 11 and 12: commands, completions and outputs -/

/-- Where a command came from: descriptor `seq` of submission ring `r`, or tag `tag` of Spring link `l`. -/
inductive Origin where
  | ring (r seq : Nat)
  | link (l tag : Nat)
  /-- Descriptor `seq` of ring r before the ring was last disabled (R314, R529): it completes without an entry. -/
  | past (r seq : Nat)
  deriving DecidableEq, Repr

/-- How far a command in flight has come. -/
inductive Phase where
  /-- Held behind an earlier overlapping command or an unsatisfied FENCE (R33, R36, R333). -/
  | held
  /-- A write whose data is still arriving, from host memory or in DATA packets. -/
  | gathering
  /-- A command whose blocks are still being read (R292), or whose present content is (R391). -/
  | reading
  /-- A write with FUA, a FLUSH or a TAKE_CLOSE whose blocks are not yet on the medium (R328, R329, R400). -/
  | medium
  /-- Waiting for catalogue records to be on the medium (R583). -/
  | records
  /-- Any other work in progress inside the device. -/
  | running
  deriving DecidableEq, Repr

/-- A write command whose data a block carries: needed for its completion or its deferred log entry (R343). -/
structure Writer where
  origin : Origin
  cookie : Nat
  op : Nat
  fua : Bool
  /-- Byte offset of the block in its take, 0 for BLOCK_WRITE. -/
  offset : Nat
  target : Nat
  /-- The number of the command (`Cmd.serial`): a tag may be used again. -/
  serial : Nat := 0
  deriving DecidableEq, Repr

/-- A command in flight (R318, R319, R359): its descriptor's or packet's fields and its progress. -/
structure Cmd where
  origin : Origin
  op : Nat
  cookie : Nat := 0
  /-- FLAGS bit 0 of the descriptor, or FUA of the packet. -/
  fua : Bool := false
  /-- FLAGS bit 1. -/
  wait : Bool := false
  take : Nat := 0
  offset : Nat := 0
  length : Nat := 0
  pba : Nat := 0
  hostTime : Nat := 0
  /-- DATA_ADDR, BUF_ADDR or PEER_ADDR. -/
  addr : Nat := 0
  /-- BUF_LEN, MAX_RECORDS × 512 or PEER_WINDOW. -/
  len : Nat := 0
  /-- HDR_ADDR, or the second address of a body. -/
  addr2 : Nat := 0
  /-- Scatter list: addresses and lengths; empty for a contiguous buffer. -/
  sgl : List (Nat × Nat) := []
  /-- SCOPE, SELECT, OPTIONS, OP, KIND, ACTION, ENGINE, ITEM, TARGET or a mask. -/
  arg : Nat := 0
  /-- MODE, INDEX, WAY_MASK, FIRST_SEQ and the like. -/
  arg2 : Nat := 0
  /-- LABEL or NONCE. -/
  bytes : Bytes := []
  phase : Phase := .held
  /-- Bytes of the command's data that have arrived. -/
  got : Bytes := []
  /-- Bytes delivered (RETRIEVE, READ, PEER_EXPORT). -/
  delivered : Nat := 0
  /-- PBAs still to be read for the command, with the take block each serves (0 for BLOCK_READ). -/
  needs : List (Nat × Nat) := []
  /-- Blocks (numbers of `Blk.id`) still to pass the mordant check for the command. -/
  waits : List Nat := []
  /-- Catalogue record SEQs that must be on the medium. -/
  recs : List Nat := []
  /-- Stripes whose records the command waits for. -/
  stripes : List Nat := []
  /-- Pickups whose homing a MEDIA_LOAD still waits for. -/
  homing : List Nat := []
  /-- Block and stripe of a FUA write, named by the map at its completion (R392). -/
  publish : List (Nat × Nat) := []
  /-- Highest ladder level charged (R291). -/
  level : Nat := 0
  /-- At least one block was queued for reallocation. -/
  realloc : Bool := false
  /-- Offset and detail of the first failed block. -/
  failed : Option (Nat × Nat) := none
  /-- Blocks were held beyond HOLDMAX and re-placed (R331). -/
  thermal : Bool := false
  /-- Device time at which the command started. -/
  start : Nat := 0
  /-- The number of the command among all that have started. -/
  serial : Nat := 0
  /-- Blocks of a read that an earlier overlapping command of its queue still holds back (R333). -/
  held : List Nat := []
  /-- UCRC of each block that a read takes from the medium, as the map named it when the read sampled it (R406). -/
  sums : Tab Nat := []
  /-- Of a PEER_EXPORT off the 64-byte grid: what was read, by its place in the range (R415). -/
  parts : Tab Bytes := []
  deriving DecidableEq, Repr

/-- A completion waiting for its completion ring, in completion order (R34, R322). -/
structure Compl where
  ring : Nat
  seq : Nat
  cookie : Nat
  cls : Nat
  detail : Nat
  op : Nat
  result : Nat
  /-- A reset marker (R338 step 4) is not counted in COMPLETED; `reset` is the SEQ of its QUEUE_RESET on ring 0. -/
  marker : Bool := false
  reset : Nat := 0
  /-- It is posted without bit 1 of CLASS: the deferred error that set the bit is of this command, or of one whose completion
  waits behind this one (R343). -/
  plain : Bool := false
  deriving DecidableEq, Repr

/-- Deferred log entry (Table 10-12; on a link, SEQ is the tag and COOKIE 0). -/
structure Deferred where
  seq : Nat
  cookie : Nat
  op : Nat
  detail : Nat
  target : Nat
  offset : Nat
  deriving DecidableEq, Repr

/-- What a submission ring holds besides its registers. -/
structure SqState where
  /-- Tail count last read (R318). -/
  tail : Nat := 0
  /-- Pending-read flag (R316): a wellhead write arrived after the read in progress was issued. -/
  readOwed : Bool := false
  /-- A read of the index word has been issued and has not returned. -/
  readIssued : Bool := false
  /-- Descriptors started, modulo 2^32: the SEQ of the next one to start. -/
  started : Nat := 0
  deferred : List Deferred := []
  /-- Bit 1 of CLASS is set until the log is read empty (R343). -/
  unread : Bool := false
  /-- SEQs of writes that could not reach the medium (R337). -/
  failed : List Nat := []
  /-- The QUEUE_RESETs of this ring whose markers are not posted, oldest first: SEQ on ring 0, the number aborted, FIRST_SEQ,
  LAST_SEQ. -/
  resetting : List (Nat × Nat × Nat × Nat) := []
  deriving DecidableEq, Repr

/-- What a completion ring holds besides its registers. -/
structure CqState where
  head : Nat := 0
  readOwed : Bool := false
  readIssued : Bool := false
  waiting : List Compl := []
  /-- Entries posted and not yet signalled (R323). -/
  unsignalled : Nat := 0
  deriving DecidableEq, Repr

/-- What an event ring holds besides its registers. -/
structure EqState where
  posted : Nat := 0
  head : Nat := 0
  readOwed : Bool := false
  readIssued : Bool := false
  deriving DecidableEq, Repr

/-- A packet the device sends on a Spring link (Table 11-4). -/
structure Packet where
  seq : Nat
  ptype : Nat
  body : Bytes
  /-- FLAGS bit 0 INIT (R357). -/
  init : Bool := false
  deriving DecidableEq, Repr

/-- What the device puts on its outside interfaces, oldest first. -/
inductive Msg where
  /-- A memory write to the host or a peer, with its Relaxed Ordering attribute (R38). -/
  | hostWrite (addr : Nat) (data : Bytes) (relaxed : Bool)
  /-- A read of host memory: descriptor, index word, scatter list or data (R336). -/
  | hostRead (addr len : Nat) (relaxed : Bool)
  /-- The MSI-X message of a vector: the write of the data to the address that its table entry gives (R323, R486, R544). -/
  | msix (vector addr data : Nat)
  /-- A packet or control word on Spring link `l`. -/
  | spring (l : Nat) (pkt : Packet)
  /-- An idle block, or the alignment blocks with their marker count, in the block stream of Spring link `l` (R348, R349). -/
  | idle (l : Nat)
  /-- n alignment blocks on every lane, with marker counts from `marker` on, modulo 256. -/
  | align (l marker n : Nat)
  /-- A BAR read completion, poisoned when it met an uncorrectable word (R310). -/
  | barRead (data : Bytes) (poisoned : Bool)
  /-- Data of a read of the track cache, to its user (R452). -/
  | cacheData (user addr : Nat) (data : Bytes)
  /-- A 40-bit frame on the bus of pickup p (Table 03-5). -/
  | busFrame (p word : Nat)
  /-- Lane k of pickup p, for a row starting: where S0 stands at its first preamble bit, in 1/64 channel bit of the rail
  (R20), its recorded levels (R256) and the high stretches of WSTB, in 1/32 channel
  bit of the data-period stream (R85 to R88, R257). -/
  | lane (p k : Nat) (row : Nat) (start : Int) (bits : List Bool) (pulses : List (Int × Int))
  /-- Every WSTB output of pickup p is driven low from here on: what the started row's trains still hold is not put out
  (R99, R199, R259, R261). -/
  | wstbLow (p : Nat)
  /-- An erase of bytes of the SPI flash, and a write there: flash offset (Table 17-1), then length or bytes. -/
  | flashErase (offset len : Nat)
  | flash (offset : Nat) (data : Bytes)
  /-- A test band of OPC is written on pickup p, layer L (R276): the power of each lane in µW and the shift of DTTOP, for each of
  the sectors that follow. -/
  | testBand (p L band : Nat) (sectors : List (List Nat × Int))
  /-- The spot of pickup p steps inward by one band with the tracking actuator (R282). -/
  | stepBack (p : Nat)
  /-- A command on DRAM channel m: write or read, the word address, and for a write its sixteen beats of 40 lines, DQ from bit 0
  and CB from bit 32 (R426). -/
  | dram (m : Nat) (write : Bool) (word : Nat) (beats : List Nat)
  /-- A block that a read passed enters the basin through a port, with its 65,664 data bytes (R241). -/
  | portData (port pba : Nat) (data : Bytes)
  /-- A refresh of a rank of channel m: all banks, or the bank named of each bank group; at the normal or twice the rate (R420,
  R440). -/
  | refresh (m slot rank : Nat) (bank : Option Nat) (double : Bool)
  /-- A soft post-package repair of the row of a word in one device (R442). -/
  | repair (m word device : Nat)
  deriving DecidableEq, Repr

/-- An event that has occurred in the present command and not yet been counted on its source. -/
structure Occ where
  src : Nat
  code : Nat
  payload : Bytes
  deriving DecidableEq, Repr

/-- One event source (R475 to R487). -/
structure Src where
  ring : Nat := 0
  /-- MSI-X vector written by a ROUTE write; none stands for the default s. -/
  vector : Option Nat := none
  mask : Bool := true
  occurred : Nat := 0
  posted : Nat := 0
  pending : Nat := 0
  snapOccurred : Nat := 0
  snapPosted : Nat := 0
  snapPending : Nat := 0
  seq : Nat := 0
  code : Nat := 0
  time : Nat := 0
  payload : Bytes := []
  ovf : Bool := false
  deriving DecidableEq, Repr

/-- One MSI-X vector: the time of its last message and whether one is owed at the end of the hold-off (R486). -/
structure VecState where
  last : Option Nat := none
  owed : Bool := false
  deriving DecidableEq, Repr

/-- Take states (Table 12-6). -/
inductive TakeState where
  | opened | closing | closed | unclosed
  deriving DecidableEq, Repr

/-- A block of a take as the map in the device names it (R392). -/
structure TBlk where
  /-- The present version while the basin holds it; `none` when only the medium does. -/
  held : Option Bytes := none
  /-- Stripe that holds the present version, once committed. -/
  stripe : Option Nat := none
  /-- PBA the map names, once the block is on the medium. -/
  pba : Option Nat := none
  /-- CRC-32C over the user bytes (R393). -/
  ucrc : Nat := 0
  deriving DecidableEq, Repr

/-- A block gathered in the basin and not yet committed (R390). -/
structure GBlk where
  block : Nat
  data : Bytes
  /-- 64-byte atoms written. -/
  atoms : List Nat
  /-- HOST_TIME of the last write gathered into it. -/
  hostTime : Nat := 0
  writers : List Writer := []
  deriving DecidableEq, Repr

/-- A take of the volume. -/
structure Take where
  id : Nat
  state : TakeState := .opened
  label : Bytes := []
  openTime : Nat := 0
  closeTime : Nat := 0
  length : Nat := 0
  blocks : Tab TBlk := []
  gather : List GBlk := []
  /-- Leaf hashes held in the basin (R404), by block. -/
  leaves : Tab Bytes := []
  stripes : Nat := 0
  /-- By range: device time at which the first write since its last commit took effect (R390). -/
  since : Tab Nat := []
  /-- A MIGRATE record names the take; the present load has flagged it (R412). -/
  flagged : Bool := false
  flaggedNow : Bool := false
  /-- A block or parity block of the take could not reach the medium in the present load (R582). -/
  lost : Bool := false
  cert : Bytes := []
  deriving DecidableEq, Repr

/-- A stripe committed in the volume (R386 to R393). -/
structure Stripe where
  id : Nat
  take : Nat
  range : Nat
  group : Nat
  geometry : Nat
  /-- Positions that hold a block. -/
  mask : List Nat
  /-- Surface of each member. -/
  surfaces : List Nat
  /-- Row first allocated for each member, as a PBA with LANE 0; `none` while none is. -/
  rows : List (Option Nat)
  /-- UCRC[7j + k − 1]. -/
  ucrc : List Nat
  /-- The first stripe of its range (TAKE_EXTENT) or a later one (TAKE_REMAP). -/
  first : Bool
  /-- PBA that the map names for lane k of member j, key 7j + k − 1, once on the medium. -/
  pbas : Tab Nat := []
  /-- Leaf hashes of its blocks, and the take length over which each was made. -/
  leaves : Tab (Nat × Bytes) := []
  /-- Blocks (by `Blk.id`) of the stripe not yet on the medium. -/
  waits : List Nat := []
  /-- SEQs of its TAKE_EXTENT or TAKE_REMAP records, once appended. -/
  recSeqs : List Nat := []
  /-- The writes whose blocks it holds, until its records are appended (R74). -/
  writers : List Writer := []
  deriving DecidableEq, Repr

/-- Kinds of block (Table 02-11). -/
inductive BlkKind where
  | take | raw | parity | catalogue
  deriving DecidableEq, Repr

/-- A block held in the basin for the medium. -/
structure Blk where
  id : Nat
  kind : BlkKind
  data : Bytes
  surface : Nat
  lane : Nat
  take : Nat := 0
  /-- TAKE_OFFSET. -/
  offset : Nat := 0
  stripe : Nat := 0
  member : Nat := 0
  hostTime : Nat := 0
  /-- FLAGS of the header: 1 reallocated copy, 2 re-recorded, 4 rebuilt. -/
  flags : Nat := 0
  /-- Position of the row it is in, or was last in. -/
  pba : Option Nat := none
  /-- First recorded position, once recorded (R265). -/
  orig : Option Nat := none
  /-- Positions at which it failed the mordant check, and the target of an abandoned BLOCK_WRITE. -/
  failedAt : List Nat := []
  /-- Mordant failures on the present surface (R267, R395). -/
  fails : Nat := 0
  /-- Surfaces on which it has been exhausted (R395). -/
  exhausted : List Nat := []
  /-- Row named by a BLOCK_WRITE. -/
  fixed : Option Nat := none
  /-- Old PBA and level of a reallocation copy (R297). -/
  copyOf : Option (Nat × Nat) := none
  /-- Header of the recovered block that a copy carries (R296); empty for a block that was written by a command. -/
  header : Bytes := []
  writers : List Writer := []
  /-- Record SEQs of a catalogue block. -/
  recs : List Nat := []
  deriving DecidableEq, Repr

/-- Kinds of row write. -/
inductive RowKind where
  | user | fixed | spare | catalogue
  deriving DecidableEq, Repr

/-- The timing values of a strategy set (Table 08-6): DTTOP of space classes 0 and 1 for mark classes 0 to 3, TTOP and TLP for
classes 1 to 3, TCL for classes 0 to 3. -/
structure WsSet where
  dttop0 : List Int := []
  dttop1 : List Int := []
  ttop : List Nat := []
  tmp : Nat := 0
  tlp : List Nat := []
  tcl : List Nat := []
  deriving DecidableEq, Repr

/-- A row write allocated and not yet ended (R250, R271). -/
structure RowWrite where
  layer : Nat
  row : Nat
  kind : RowKind
  /-- Lane and block, for each lane recorded. -/
  lanes : List (Nat × Nat)
  /-- Predicted DEVICE_TIME of the first preamble bit (R253). -/
  time : Nat
  epoch : Nat
  devnum : Nat
  /-- Write-strategy zone (R273). -/
  zone : Nat
  started : Bool := false
  /-- Layer whose queue of recovered copies the row serves. -/
  queue : Nat := 0
  /-- New powers or a new corrector setting go to the pickup before the row (R273). -/
  newValues : Bool := false
  /-- The strategy set selected at allocation (R273, R274). -/
  set : WsSet := {}
  deriving DecidableEq, Repr

/-- A block whose read has begun (R240): its position, and the earlier values of the RC settings changed since (R248). -/
structure ReadDue where
  pba : Nat
  old : List (Fld × Nat) := []
  deriving DecidableEq, Repr

/-- A written block whose verify report is due: lane, block and position; the device time of the row's last postamble bit; MTO p
left lock while its verify spot was still reading (R240); and the earlier values of the RC settings changed since its verify
read began (R248). -/
structure VerifyDue where
  lane : Nat
  block : Nat
  pba : Nat
  ended : Nat := 0
  lost : Bool := false
  old : List (Fld × Nat) := []
  deriving DecidableEq, Repr

/-- The sick-lane count of one lane (R268): results of its last checks, newest first, and how many have been checked
since the last OPC the count asked for (none before one). -/
structure Sick where
  recent : List Bool := []
  sinceOpc : Option Nat := none
  /-- The layer whose OPC the count asked for, until it completes. -/
  waiting : Option Nat := none
  deriving DecidableEq, Repr

/-- OPC of one layer (R275 to R278). -/
structure Opc where
  pending : Bool := false
  running : Bool := false
  /-- 0 inner, 1 outer. -/
  outer : Bool := false
  /-- Written bands tried at the present end. -/
  tried : Nat := 0
  /-- Pk of lanes 1 to 7, shift and band at each end, once found. -/
  inner : Option (List Nat × Int × Nat) := none
  outerResult : Option (List Nat × Int × Nat) := none
  /-- Cause of the last void run. -/
  cause : Nat := 3
  /-- Every band of the inner test area, up to 65,535, is used. -/
  innerUsed : Bool := false
  /-- Some end ran out of bands. -/
  noBand : Bool := false
  /-- The test writing on the present band has met a cause of abandonment (R276). -/
  void : Bool := false
  /-- The present band was taken while the conditions for writing held; else the run waits for them. -/
  begun : Bool := false
  /-- Pickup temperature at the last OPC of the layer, in 1/16 °C (R275). -/
  temp : Option Int := none
  deriving DecidableEq, Repr

/-- The queue of recovered copies of one layer (R295). -/
structure Realloc where
  queue : List Nat := []
  /-- Device time at which the oldest entered. -/
  since : Nat := 0
  /-- The oldest has waited REALLOC_WAIT. -/
  due : Bool := false
  lowPosted : Bool := false
  deriving DecidableEq, Repr

/-- Catalogue record (Table 02-14). -/
structure CatRec where
  rtype : Nat
  epoch : Nat
  seq : Nat
  time : Nat
  body : Bytes
  /-- Records of one group are placed in one block (R583). -/
  group : Nat := 0
  onMedium : Bool := false
  deriving DecidableEq, Repr

/-- A catalogue row being written: its row index in the append order (640 per layer), its blocks as record SEQs per
lane, and the (surface, lane) pairs that still have to pass. -/
structure CatRow where
  index : Nat
  lanes : List (List Nat)
  waits : List (Nat × Nat)
  /-- Lowest lane that failed on some copy (R70). -/
  failedLane : Option Nat := none
  deriving DecidableEq, Repr

/-- The on-disc catalogue as the device knows it. -/
structure Catalogue where
  records : List CatRec := []
  nextSeq : Nat := 0
  nextGroup : Nat := 0
  epoch : Nat := 0
  /-- Rows used so far of the 2,560 in append order. -/
  nextRow : Nat := 0
  writing : Option CatRow := none
  /-- Readable copies among surfaces 0, 9, 18 and 27. -/
  copies : List Nat := []
  fullPosted : Bool := false
  /-- Writes whose map a record carries that is not on the medium yet, with its SEQ (R74). -/
  owed : List (Nat × Writer) := []
  /-- A catalogue row has been asked for (R583). -/
  wanted : Bool := false
  deriving DecidableEq, Repr

/-- The loaded volume (R384, R385). -/
structure Volume where
  id : Nat
  geometry : Nat
  groups : Nat
  members : List Nat
  /-- POSITION[32]. -/
  positions : List Nat
  serials : List (Nat × Nat)
  missing : List Nat := []
  deriving DecidableEq, Repr

/-- The taps of a lane as its registers show them: FIR in 1/256, canceller inward and outward in 1/512 (R212, R216). -/
structure Taps where
  fir : List Int := []
  inn : List Int := []
  out : List Int := []
  deriving DecidableEq, Repr

/-- What the detector made of the last re-read (R284): levels, reliabilities, and the dropout and scout flags in force. -/
structure LivePass where
  levels : List Bool := []
  rel : List Nat := []
  marks : List Bool := []
  deriving DecidableEq, Repr

/-- A block as decoded: its outcome (Table 07-4), its counts, the corrections of each accepted codeword, and its 65,664
data bytes. -/
structure Decoded where
  outcome : Nat := 2
  /-- Results of the CRC and of the header address (R243); neither is good where decoding stopped. -/
  crcGood : Bool := false
  addressGood : Bool := false
  fly : Nat := 0
  shifted : Nat := 0
  /-- Corrections per codeword, none for one that was not accepted. -/
  codewords : List (Option Nat) := []
  data : Bytes := []
  deriving DecidableEq, Repr

/-- A read record (R283): the decided levels, the reliabilities of 0 to 7, the flags at level-0 margins, the envelope and
its reference per 32 channel bits, and the scout extents projected on the lane (R233). -/
structure ReadRec where
  levels : List Bool := []
  rel : List Nat := []
  flags : List Bool := []
  env : List Nat := []
  ref : List Nat := []
  scouts : List (Int × Int) := []
  deriving DecidableEq, Repr

/-- Why a block is on the ladder, and where (R281). -/
structure Ladder where
  pba : Nat
  level : Nat := 1
  /-- Outcome code at the highest level tried (Table 09-2 detail). -/
  outcome : Nat
  /-- The block as the level last tried decoded it: its bytes and counts (R241). -/
  decoded : Decoded := {}
  /-- The taps in force at the start of the failed level-0 read (R284). -/
  start : Taps := {}
  /-- The level-1 re-read follows a full seek to the row, because the level-0 pass lay in another band (R284). -/
  seekFirst : Bool := false
  /-- The last re-read, and the read records held in the basin, newest first (R283). -/
  live : LivePass := {}
  records : List ReadRec := []
  /-- The block waits for the place R290 limits. -/
  waiting : Bool := false
  /-- Re-read under way (levels 1, 4 and 5), and the spot has stepped back for it (R282). -/
  rereading : Bool := false
  stepped : Bool := false
  /-- At level 6, what the reads of the other members or copies yielded: index, and header and user bytes, or none (R304,
  R306). -/
  gather : Tab (Option Bytes) := []
  /-- Commands that joined it (R291). -/
  joined : List Origin := []
  /-- Read by the scrub and by no command. -/
  scrub : Bool := false
  deriving DecidableEq, Repr

/-- A block whose level-0 read waits for MTO lock (R280). -/
structure RailWait where
  pba : Nat
  repeats : Nat := 0
  joined : List Origin := []
  deriving DecidableEq, Repr

/-- The self-test in progress (R413, R414). -/
structure SelfTest where
  origin : Origin
  kind : Nat
  items : List Nat
  results : List (Nat × Nat × Nat × Nat × Nat) := []
  suspensions : Nat := 0
  /-- The running item met an uncorrectable word (Table 13-5). -/
  failing : Bool := false
  suspended : Bool := false
  /-- A command that needs what the item uses has been consumed or accepted since the item last began (R413). -/
  needed : Bool := false
  start : Nat := 0
  deriving DecidableEq, Repr

/-- Scrub counts of the present pass through a take's stripes (R411, R412). -/
structure TakeScrub where
  blocks : Nat := 0
  weak : Nat := 0
  unrecovered : Nat := 0
  atRisk : Nat := 0
  deriving DecidableEq, Repr

/-- Scrub counts of the present pass: by take, and over the whole volume. -/
structure Scrub where
  takes : Tab TakeScrub := []
  stripes : Nat := 0
  weak : Nat := 0
  unrecovered : Nat := 0
  /-- The blocks of the present stripe that have been read, and of them those that are weak and those that left the ladder
  failed (R411). -/
  done : List Nat := []
  weakNow : List Nat := []
  lostNow : List Nat := []
  /-- Device time at which the present second of scrubbing began, and the bytes read in it (R410). -/
  second : Nat := 0
  bytes : Nat := 0
  deriving DecidableEq, Repr
/-! ## Chapter 11: Spring links -/

/-- An open write grant (R363). -/
structure Grant where
  id : Nat
  tag : Nat
  offset : Nat
  length : Nat
  got : Bytes := []
  deriving DecidableEq, Repr

/-- What a Spring link holds besides its registers. -/
structure Link where
  /-- SPMOD_PRS_n low: a module is present. -/
  present : Bool := false
  /-- Lanes that hold block lock. -/
  locked : List Nat := []
  /-- The present ALIGN was entered from RETRAIN. -/
  fromRetrain : Bool := false
  /-- Device time from which the transmitter has run; none while the link is DISABLED. -/
  txFrom : Option Nat := none
  /-- Blocks sent in the link's stream but for alignment blocks, and those sent since the last idle block (R348, R349). -/
  txBlocks : Nat := 0
  sinceIdle : Nat := 0
  /-- Device time of the last CREDIT packet that granted credits (R359). -/
  creditAt : Option Nat := none
  /-- Next SEQ to send, and next SEQ expected (R353). -/
  txSeq : Nat := 0
  rxSeq : Nat := 0
  /-- A packet was discarded since the last accepted one, and its LNAK sent. -/
  discarded : Bool := false
  /-- Sent and unacknowledged sequenced packets, oldest first (R355). -/
  replay : List Packet := []
  /-- Resends of the oldest without progress. -/
  resends : Nat := 0
  /-- Sequenced packets that wait to be sent: type and body. -/
  txq : List (Nat × Bytes) := []
  /-- Packets accepted and not yet acknowledged (R354). -/
  owed : Nat := 0
  creditLimit : Nat := 0
  grants : List Grant := []
  nextGrant : Nat := 1
  /-- Grants that expired or were aborted: GRANT_ID and tag (R365, R375). -/
  expired : List (Nat × Nat) := []
  /-- Next offset to grant of each open WRITE, by tag, as bytes of its range already granted. -/
  granted : Tab Nat := []
  /-- Ranges to grant again (R365): tag, offset, length, in order. -/
  regrant : List (Nat × Nat × Nat) := []
  deferred : List Deferred := []
  unread : Bool := false
  /-- Queue resets whose report is not yet sent: REASON, aborted tags, and whether those tags already count as RESET
  (R374, R382). -/
  qreset : List (Nat × List Nat × Bool) := []
  /-- STATs not acknowledged when the link went down, to be resent after INIT (R377): type 21, or 22 for one without the flag. -/
  resend : List (Nat × Bytes) := []
  inits : Nat := 0
  deriving DecidableEq, Repr

/-- Sharing under sustained load (R378 to R381); participants 0 to 7 are the links and 8 the host rings. -/
structure Share where
  inForce : Bool := false
  /-- Bytes released from the basin in the present period. -/
  released : Nat := 0
  /-- Unspent budget, in 1/65,536 byte. -/
  carry : Nat := 0
  /-- What each participant may still be granted in the present period. -/
  allow : List Nat := []
  /-- Deficits summed over the present second, bytes. -/
  deficits : List Nat := []
  /-- Bytes that entered the basin in the last second of device time: time and count, for B0 (R495). -/
  arrivals : List (Nat × Nat) := []
  deriving DecidableEq, Repr

/-! ## Chapter 13: basin -/

/-- Holders and claimants of basin units (Table 13-7, R445). -/
inductive Owner where
  /-- A Spring grant: link and GRANT_ID. -/
  | grant (l id : Nat)
  /-- An admitted host write fetch, then its write data. -/
  | write (o : Origin)
  /-- Data of Spring WRITE `o` received under a completed or running grant. -/
  | spring (o : Origin) (id : Nat)
  | parity (stripe : Nat)
  | delivery (o : Origin)
  | ladder (pba : Nat)
  | copy (blk : Nat)
  | selftest
  | importWindow
  deriving DecidableEq, Repr

/-- Work that waits for units taken without a grant (R579). -/
structure UnitWait where
  owner : Owner
  units : Nat
  deriving DecidableEq, Repr

/-- A word in a channel queue (R431 to R438). -/
structure QEntry where
  word : Nat
  /-- Port 0 to 7, or 8 for the patrol. -/
  port : Nat
  /-- The 64 bytes of a write; empty for a read. -/
  data : Bytes := []
  /-- Order of arrival at the channel. -/
  seq : Nat := 0
  /-- Deadline in REFCLK edges (R438). -/
  deadline : Nat := 0
  /-- The BAR2 read that the word is of (R310). -/
  want : Option Nat := none
  /-- A BAR2 write (R460). -/
  bar2 : Bool := false
  /-- A line fill or prefetch read of the cache (R451), by the number of the fill or of the entry. -/
  cache : Option Nat := none
  use : WordUse := .other
  deriving DecidableEq, Repr

/-- A BAR2 read whose words are on their way: its number, its range, and the words that have come, with whether each was read
correctly (R310). -/
structure BarRead where
  id : Nat
  addr : Nat
  len : Nat
  got : Tab (Bytes × Bool) := []
  deriving DecidableEq, Repr

/-- The queues of one channel. -/
structure Chan where
  reads : List QEntry := []
  writes : List QEntry := []
  /-- Words that found their queue full, and wait (R433). -/
  overflow : List QEntry := []
  /-- A drain started by the high mark is in progress (R432). -/
  drainHigh : Bool := false
  /-- Writes that grew older than WAGE, by seq (R432). -/
  aged : List Nat := []
  /-- Port served last of each priority (R437), and port last admitted to the queues (R433). -/
  rr : Tab Nat := []
  rrIn : Tab Nat := []
  /-- Entries, by seq, that waited for a bank under repair, which go in their order of arrival (R442). -/
  ordered : List Nat := []
  /-- Bank of each bank group that the next same-bank refresh takes (R440). -/
  refBank : Nat := 0
  next : Nat := 0
  /-- The words whose rows are under soft repair, oldest repair first, and the symbols (R442). -/
  blocked : List (Nat × Nat) := []
  deriving DecidableEq, Repr

/-- The basin besides its registers and its contents. -/
structure Basin where
  /-- Training: SPD read, steps done (0 to 6 of Table 13-2), attempts of the present step per subchannel unit. -/
  spdRead : Bool := false
  rows : Nat := 0
  bursts : Nat := 0
  ranks : Nat := 0
  wide : Bool := false
  /-- Training started at this device time. -/
  trainStart : Option Nat := none
  steps : Tab Nat := []
  attempts : Tab Nat := []
  /-- Units initialised in ascending order, and those initialised out of order (R423, R424). -/
  initNext : Nat := 0
  /-- Units of the service area initialised, ascending. -/
  initSvc : Nat := 0
  initExtra : List Nat := []
  /-- BAR2 reads waiting for a unit that is not initialised (R424): address and length. -/
  initWait : List (Nat × Nat) := []
  chans : Tab Chan := []
  /-- BAR2 reads in progress, and the number of the next one. -/
  barReads : List BarRead := []
  nextRead : Nat := 0
  /-- Units with an owner: unit, owner, and whether it is reserved (else held). -/
  owned : List (Nat × Owner × Bool) := []
  waiting : List UnitWait := []
  /-- Import window asked for: first unit and count (R574). -/
  window : Option (Nat × Nat) := none
  /-- Units through which the device's own data has passed, and words written since by a known write. -/
  foreign : List Nat := []
  known : List Nat := []
  /-- Blocks (take, block) that keep a write's units held. -/
  holds : List (Owner × List (Nat × Nat)) := []
  /-- Distinct words with a corrected error since READY, with the symbol (R441). -/
  ceWords : List (Nat × Nat) := []
  /-- Bank groups of devices whose repair is used: device, and rank, slot, subchannel and bank group (R441). -/
  repaired : List (Nat × List Nat) := []
  /-- Channels that the DIMM sensors want refreshed at twice the rate from the next boundary (R420). -/
  refWanted : List Nat := []
  /-- DIMMs above TS_HOT (R421). -/
  hot : List Nat := []
  fillHigh : Bool := false
  deriving DecidableEq, Repr

/-! ## Chapter 14: track cache -/

/-- A cache line: tag, four words of 64 bytes, a dirty bit for each. -/
structure Line where
  valid : Bool := false
  tag : Nat := 0
  data : List Bytes := []
  dirty : List Bool := [false, false, false, false]
  /-- Words that met a two-bit error while dirty and hold no data. -/
  lost : List Nat := []
  deriving DecidableEq, Repr

/-- A side-buffer entry (R467). -/
inductive SideState where
  | empty | filling | ready
  deriving DecidableEq, Repr

structure Side where
  state : SideState := .empty
  /-- Number of the request that filled it. -/
  id : Nat := 0
  region : Nat := 0
  /-- Lines (0 to 127) the entry holds or will hold. -/
  lines : List Nat := []
  /-- Data of the lines, once READY. -/
  data : Tab (List Bytes) := []
  /-- While FILLING, the words of the region (0 to 511) that its reads have returned. -/
  words : Tab Bytes := []
  used : Nat := 0
  deriving DecidableEq, Repr

/-- A request of a cache user, within one line. -/
structure CacheReq where
  user : Nat
  write : Bool
  addr : Nat
  len : Nat
  data : Bytes := []
  use : WordUse := .other
  deriving DecidableEq, Repr

/-- A line fill in progress (R452, R457): line number, the way it goes to, and the requests that wait for it. -/
structure Fill where
  /-- Number of the fill: what its reads return is for no other. -/
  id : Nat := 0
  line : Nat
  way : Nat := 16
  reqs : List CacheReq := []
  /-- It waits for a side-buffer entry (R468), and has no way yet. -/
  fromSide : Bool := false
  /-- The words of the line that its reads have returned, and those that were uncorrectable. -/
  words : Tab Bytes := []
  lost : List Nat := []
  deriving DecidableEq, Repr

/-- A CACHE_MAINT in progress (R455): its command and op. -/
structure Maint where
  origin : Origin
  op : Nat
  /-- Fills, by number, in progress at acceptance (R457), and for lock-fill those that it starts. -/
  covered : List Nat := []
  /-- Words it wrote back. -/
  words : List Nat := []
  /-- Full invalidate that sets CLEARED (R473). -/
  full : Bool := false
  /-- Ways of a lock-fill, and the lines it has still to come to, in order (R463). -/
  ways : List Nat := []
  deferred : List Nat := []
  /-- Lines left unfilled: count and first address. -/
  missed : Nat := 0
  firstMissed : Nat := 0
  error : Bool := false
  deriving DecidableEq, Repr

/-- The track cache besides its registers. -/
structure Cache where
  /-- Key 16 × set + way. -/
  lines : Tab Line := []
  /-- Pseudo-LRU tree bits of a set. -/
  plru : Tab Nat := []
  side : Tab Side := []
  fills : List Fill := []
  maints : List Maint := []
  /-- Requests waiting while EN is 0 (R472). -/
  waiting : List CacheReq := []
  /-- Misses for which every unlocked way of their set is being filled. -/
  stalled : List CacheReq := []
  /-- Region of the last miss of each user (R467). -/
  lastRegion : Tab Nat := []
  tick : Nat := 0
  /-- Number of the next fill or prefetch. -/
  nextId : Nat := 0
  deriving DecidableEq, Repr

/-! ## Chapter 15: thermal -/

/-- The write window of a pickup (R489 to R492). -/
structure Window where
  /-- Device time at which the hold began. -/
  since : Nat := 0
  /-- Device time from which every reading has been inside its reopening band. -/
  inside : Option Nat := none
  /-- The hold has lasted HOLDMAX (R492). -/
  expired : Bool := false
  alarm : Bool := false
  deriving DecidableEq, Repr

/-- Thermal logic besides its registers. -/
structure Thermal where
  windows : Tab Window := []
  /-- Readings of a sensor, newest first, one per 100 ms: key 0 to 7 die, 8 to 39 pickup, 40 to 55 ambient. -/
  history : Tab (List Int) := []
  /-- Sensors whose rate exceeds its limit, and die sensors above JHOT. -/
  rising : List Nat := []
  hot : List Nat := []
  /-- Ambient sensors in AMB fault (R488). -/
  ambFault : List Nat := []
  /-- Device time since which the throttle has been clear of triggers. -/
  clearSince : Option Nat := none
  requested : Nat := 0
  enforced : Nat := 0
  deriving DecidableEq, Repr

/-! ## Chapters 16, 17 and 19 -/

/-- A CALIB_MEASURE waiting or running (R505, R506). -/
structure Measure where
  origin : Origin
  item : Nat
  index : Nat
  running : Bool := false
  start : Nat := 0
  /-- Of a running LOOP measurement: the samples of the axis so far, at most 65,536, those in CLOSED, and the sum of x² over these
  in Q4.58 (Table 16-5). -/
  seen : Nat := 0
  used : Nat := 0
  sum : Nat := 0
  deriving DecidableEq, Repr

/-- A slot header as read from the flash (Table 17-2). -/
structure Header where
  bytes : Bytes := []
  deriving DecidableEq, Repr

/-- Reset kinds, widest first (R530). -/
inductive ResetKind where
  | powerOn | perst | global | flr
  deriving DecidableEq, Repr

/-- Pins and power (chapters 03, 17, 19). -/
structure Pins where
  /-- Power-on reset is in progress. -/
  por : Bool := false
  pwrOk : Bool := true
  perstLow : Bool := true
  spiVselHigh : Bool := false
  flashWpHigh : Bool := false
  converters : Bool := true
  extest : Bool := false
  ldoffLow : Bool := false
  deriving DecidableEq, Repr

/-- Boot (R521 to R524). -/
structure Boot where
  /-- Headers of slots 0 and 1, as the last boot read them. -/
  headers : List (Nat × Header) := []
  /-- Slot whose body is being hashed. -/
  hashing : Option Nat := none
  /-- Causes found per slot. -/
  causes : List Nat := [0, 0]
  /-- A reset sequence in progress. -/
  reset : Option ResetKind := none
  /-- FW_LOAD in progress: its command, target slot and image (header, then body). -/
  fwLoad : Option (Origin × Nat × Bytes) := none
  /-- Present VCORE in mV (R23). -/
  vcore : Nat := 700
  snapBusy : Bool := false
  deriving DecidableEq, Repr
/-! ## Chapters 02, 03, 07, 08 and 09: pickups -/

/-- A pickup bus frame (R90): OP 0 NOP, 1 WRITE, 2 READ, the register and the data, and how often it has been sent again
(R94). -/
structure Frame where
  op : Nat
  reg : Nat := 0
  data : Nat := 0
  resent : Nat := 0
  deriving DecidableEq, Repr

/-- The frame carries SA, a read power or a write power (R80, R273). -/
def Frame.setting (f : Frame) : Bool := f.op == 1 && (f.reg == 0x0B || decide (0x10 ≤ f.reg ∧ f.reg ≤ 0x27))

/-- A good rail address mark: layer, band, angle index. -/
structure Mark where
  layer : Nat
  band : Nat
  angle : Nat
  deriving DecidableEq, Repr

/-- An entry of the scout defect map (R231, R232): its band, its first and last lane-4 rail positions in channel bits
from band 0 period 0, and its slope in 1/80 track. -/
structure Defect where
  band : Nat := 0
  start : Nat
  stop : Nat
  slope : Int
  deriving DecidableEq, Repr

/-- A host write to an RC field that waits for a block (R248): the device time of the write, and the row then under S0, by its
key. -/
structure RcWrite where
  fld : Fld
  value : Nat
  time : Nat := 0
  row : Option Nat := none
  deriving DecidableEq, Repr

/-- What a pickup and its surface hold besides their registers. -/
structure Pk where
  /-- Consecutive good and missed rail address marks (R18). -/
  goodMarks : Nat := 0
  missedMarks : Nat := 0
  lastMark : Option Mark := none
  /-- A good mark has been read since the last lock (RAIL_UNLOCK's payload). -/
  marked : Bool := false
  /-- Band last followed while tracking was CLOSED (R134). -/
  bandFollowed : Option Nat := none
  /-- Frames waiting for the bus, in order, and the cyclic reads that have fallen due, which fill the remaining time; the frame
  last sent, whose response is due (R92, R94). -/
  frames : List Frame := []
  polls : List Frame := []
  sent : Option Frame := none
  monNext : Nat := 0
  /-- A frame has succeeded since the last failed one (R94). -/
  busOk : Bool := true
  /-- SA set-point last sent, and the layer focus is on or wanted (R97). -/
  sa : Option Int := none
  layer : Nat := 0
  /-- Read power, write power and SA writes that wait for the end of a row write (R80, R273). -/
  pendingFrames : List Frame := []
  /-- Surface facts found at load: formatted, disc serial, loaded (R45, R385). -/
  loaded : Bool := false
  formatted : Bool := false
  /-- Layers whose format word no revolution gave with a good CRC (R49). -/
  unreadable : List Nat := []
  /-- RC settings written and waiting for the next block (R248). -/
  rcPending : List RcWrite := []
  /-- The equaliser of every spot of the pickup since the last preamble (R203): boost in 0.5 dB, and peak in 1/12,000 MHz. -/
  boost : Nat := 0
  peak : Nat := 0
  /-- The row of the pass that data spots make or last made (key 2^17 × L + row), and its lanes decoded so far. -/
  passRow : Option Nat := none
  passLanes : List Nat := []
  /-- Spots whose samples of the pass have been taken into gain, clips and taps (R202, R204). -/
  passSpots : List Nat := []
  /-- The row under S0 at the last mark, and the blocks of it and of the row before it whose read began at its start. -/
  rowBegun : Option Nat := none
  reading : List ReadDue := []
  /-- Positions whose read had ended when the reading conditions of the pickup ceased, and that are not yet decoded (R240,
  R241). -/
  readOut : List Nat := []
  /-- Positions known by a read, with the 65,664 data bytes recorded there, or blank (R288). -/
  known : Tab (Option Bytes) := []
  scoutOpen : Option Nat := none
  scoutMap : List Defect := []
  /-- Write gate (R258 to R260): good wedges and good focus samples, up to 4 and 64. -/
  goodWedges : Nat := 4
  goodFocus : Nat := 64
  /-- Lane queues k = 1 to 7 (R250): block numbers, head first. -/
  queues : List (List Nat) := [[], [], [], [], [], [], []]
  rows : List RowWrite := []
  verify : List VerifyDue := []
  sick : Tab Sick := []
  opc : Tab Opc := []
  realloc : Tab Realloc := []
  /-- Dead PBAs and abandoned rows since the surface's last DEFECT record (R302). -/
  dead : List Nat := []
  abandoned : List (Nat × Nat) := []
  /-- Rows ever allocated: key 2^17 × L + row, lanes recorded (none for an abandoned row). -/
  occupied : Tab (List Nat) := []
  /-- Dead positions (R265). -/
  deadAll : List Nat := []
  sparesOut : Bool := false
  /-- The pickup is reserved for ladder re-reads (R289). -/
  reserved : Bool := false
  /-- New laser values have been sent for a row that needs a seek: since when, and whether SA is among them; the seek to the
  row is made anew once they have settled (R273). -/
  settling : Option (Nat × Bool) := none
  deriving DecidableEq, Repr

/-- What a spot holds besides its registers. -/
structure Spot where
  /-- A dropout is open since this rail position, with the frozen Eref as a sum and a count (R230), and those that have ended,
  first and last position. -/
  dropout : Option Nat := none
  dropRef : Nat × Nat := (0, 1)
  drops : List (Nat × Nat) := []
  /-- Those of the pass being decoded. -/
  seen : List (Nat × Nat) := []
  lastLayer : Option Nat := none
  /-- Gain of the variable-gain amplifier in 2^−32; 2^32 is 0 dB (R204). -/
  gain : Nat := 4294967296
  /-- The timing detector's accumulator, and the channel bits since it last moved the deskew (R210). -/
  timing : Int := 0
  sinceStep : Nat := 256
  /-- Wedges of the deskew check under way: 16 for verification, 64 for full acquisition, 0 for none (R208), and the offsets
  in channel bits at which its wedges found the mark so far. -/
  check : Nat := 0
  found : List Int := []
  /-- The offset of the last mark and in how many consecutive wedges it has been reported; whole-bit shifts of D that wait for
  the next block boundary, in channel bits (R211). -/
  offset : Int := 0
  offsetRun : Nat := 0
  shift : Int := 0
  deriving DecidableEq, Repr
/-! ## Chapter 04: loop engines -/

/-- What an axis holds besides its registers (key 16 × engine + axis). -/
structure Ax where
  /-- Biquad states s1 and s2 in Q4.58 (R112). -/
  s1 : List Int := [0, 0, 0, 0, 0, 0]
  s2 : List Int := [0, 0, 0, 0, 0, 0]
  x6prev : Int := 0
  /-- Last output, and last output of CLOSED (Table 04-5), Q2.29. -/
  out : Int := 0
  held : Int := 0
  /-- Last values of the axis's trace nodes (Table 04-7), points 0 to 15. -/
  nodes : List Int := []
  /-- Sum and count of u_fb in the present wedge interval, and whether something spoiled it (R130). -/
  ufbSum : Int := 0
  ufbCount : Nat := 0
  spoiled : Bool := false
  /-- MODE written and not yet in force (R116), and FF.CLEAR requested (R131). -/
  modePending : Option Nat := none
  clearPending : Bool := false
  /-- The bridge has tripped, and is off until MODE is written to OFF and back (R555). -/
  tripped : Bool := false
  /-- Coil set-point written at the last edge 200 (R106, R115). -/
  coil : Int := 0
  deriving DecidableEq, Repr

/-- Steps of a focus capture (R132): waiting for the corrector, sweeping, reading LAYER. -/
inductive CapStep where
  | corrector | sweep | identify
  deriving DecidableEq, Repr

/-- Focus capture of a pickup (R132). -/
structure FocusCap where
  step : CapStep := .corrector
  /-- The sweep number (1 or 2), and samples since the sweep began. -/
  sweep : Nat := 1
  samples : Nat := 0
  /-- Sweep of a jump retry about the held output (R138). -/
  retry : Bool := false
  centre : Int := 0
  /-- Scaled focus error of the sample before, in the present sweep. -/
  lastX : Option Int := none
  deriving DecidableEq, Repr

/-- Steps of a layer jump (R135 to R138): held while a block row is written or read, waiting for the corrector, kick, coast, brake, window, confirmation, and the
capture by which a retry begins. -/
inductive JumpStep where
  | held | corrector | kick | coast | brake | window | confirm | recapture
  deriving DecidableEq, Repr

/-- A layer jump in progress. -/
structure Jump where
  step : JumpStep := .corrector
  /-- Layer jumped from, next layer, and final target. -/
  origin : Nat
  next : Nat
  target : Nat
  attempt : Nat := 1
  samples : Nat := 0
  /-- |x| has risen above BRAKE_THR since the kick, and the brake was triggered by its fall. -/
  risen : Bool := false
  triggered : Bool := false
  /-- Samples for which the brake has been driven. -/
  braked : Nat := 0
  /-- Consecutive samples within CAPT_TOL at the end of the window. -/
  within : Nat := 0
  deriving DecidableEq, Repr

/-- What a pickup's loops hold besides the axes (key p). -/
structure Servo where
  cap : Option FocusCap := none
  jump : Option Jump := none
  /-- Layer to go to from L0 once focus is captured again (R134, R138). -/
  returnTo : Option Nat := none
  /-- That return follows the third failure of a jump, so that a further one ends it (R138). -/
  lastChance : Bool := false
  /-- Consecutive samples with tracking CLOSED, up to 16 (R155). -/
  followed : Nat := 0
  /-- Consecutive samples of envelope below ENV_THR ÷ 2, of |x| above 2.0, and of |x_track| above 0.8 (R133). -/
  envLow : Nat := 0
  focusHigh : Nat := 0
  trackHigh : Nat := 0
  /-- TLE conversions since the last tilt sample; v_yaw results since the last yaw sample (R107, R124). -/
  tle : List Int := []
  yaw : List Int := []
  /-- Consecutive wedges without a valid ek, per lane (R127). -/
  missed : Tab Nat := []
  /-- Wedges passed since the lock, up to 384; present wedge; marks since its mark (R129). -/
  sinceLock : Nat := 0
  wedge : Nat := 0
  marks : Nat := 0
  /-- The mark that counting periods predicts next (R52). -/
  expect : Option Mark := none
  /-- The spots that have reported or missed the present wedge, whether one missed it, and the valid ek of the data
  lanes in it, in units of 0.25 µm, Q2.29. -/
  reported : List Nat := []
  /-- The present wedge is complete: what a spot still reports of it counts no more (R128). -/
  wedgeOver : Bool := false
  missedOne : Bool := false
  valid : Tab Int := []
  /-- Last burst results per lane: ek, A, B, C, D, valid; lane 0 the mean, c and v_yaw (Table 04-7). -/
  bursts : Tab (List Int) := []
  deriving DecidableEq, Repr

/-- The trace of an engine (R139 to R142). -/
structure Trace where
  /-- Records of 16 channel values, newest first, at most 8,192. -/
  records : List (List Int) := []
  /-- Samples since the last record. -/
  skipped : Nat := 0
  /-- Records stored in the present state. -/
  count : Nat := 0
  /-- A trigger condition met and not yet recorded: the kind that fired. -/
  armedHit : Option Nat := none
  /-- Kind that fired, and device time at edge 0 of the trigger sample. -/
  kind : Nat := 0
  time : Nat := 0
  /-- Value of node TRIG.SEL at the last record. -/
  lastValue : Option Int := none
  /-- Settings in force for the trace being recorded. -/
  decim : Nat := 1
  pretrig : Nat := 0
  sel : List Nat := []
  deriving DecidableEq, Repr

/-! ## Chapter 05: sleds -/

/-- A rest-to-rest move (R152): from and to in 1/256 microstep, limits J in m/s³, A in 0.01 m/s², V in mm/s, the
microstep length it was planned with, and the device time at which it started. -/
structure Move where
  start : Int
  target : Int
  jerk : Nat
  accel : Nat
  speed : Nat
  scale : Nat
  began : Nat
  deriving DecidableEq, Repr

/-- A ramp stop (R160): where it began, and along its direction the speed ÷ J in fs², the acceleration ÷ J in fs, the
limits J and A, the microstep length and the device time at which it started. -/
structure StopRamp where
  start : Int
  outward : Bool
  speed : Nat
  accel : Int
  jerk : Nat
  limit : Nat
  scale : Nat
  began : Nat
  deriving DecidableEq, Repr

/-- What a sled holds besides its registers. SLED[p].POS is the present set-point P. -/
structure Sled where
  /-- P of the run before, and samples since the last run, for the interpolation of R150. -/
  prev : Int := 0
  phase : Nat := 80
  /-- 80 × the position p_out at which an immediate stop froze the microstep address (R160), until the next homing. -/
  frozen : Option Int := none
  move : Option Move := none
  ramp : Option StopRamp := none
  /-- Samples since P last changed (R149), and whether the current has fallen to IHOLD. -/
  still : Nat := 40000
  idle : Bool := true
  /-- Sum and count of the tracking output since the last run (R151). -/
  uSum : Int := 0
  uCount : Nat := 0
  /-- Coil current set-points written at the last edge 200, in mA ÷ 32,767 (R144). -/
  coilA : Int := 0
  coilB : Int := 0
  /-- Homing has completed since the last reset that clears the sled (R160). -/
  homed : Bool := false
  /-- A homing has failed: no attempt until MEDIA_LOAD or a write of HOME (R166). -/
  homeBlocked : Bool := false
  deriving DecidableEq, Repr

/-- Steps of a seek (R155): waiting for a stop, a homing or a jump before it; moving; landing. -/
inductive SeekStep where
  | waiting | jumping | moving | landing
  deriving DecidableEq, Repr

/-- A seek in progress (R154 to R159). -/
structure Seek where
  band : Nat
  angle : Nat
  layer : Nat
  step : SeekStep := .waiting
  corrections : Nat := 0
  retries : Nat := 0
  /-- A re-seek under R134 or a retry under R158 (R160). -/
  recovery : Bool := false
  deriving DecidableEq, Repr

/-- Steps of a homing (R165 to R168). -/
inductive HomeStep where
  | capture | inward | ramp | toFirst | settleFirst | readFirst | toSecond | settleSecond | readSecond
  | switchRamp | fromSwitch
  deriving DecidableEq, Repr

/-- A homing in progress. -/
structure Homing where
  step : HomeStep := .capture
  /-- P that places S0 at 22.300 mm, once a pattern has been seen. -/
  first : Int := 0
  /-- Radius r1 in nm at position P1, and P at which HOME_n went low. -/
  r1 : Int := 0
  p1 : Int := 0
  home : Option Int := none
  /-- It was made because a seek found the sled UNHOMED (R160). -/
  recovery : Bool := false
  deriving DecidableEq, Repr

/-! ## Chapter 06: spindles -/

/-- The gates of one phase in a PWM period of 2,000 edges (R174): the high side is on from `highOn` to `highOff`, the low side
before `lowOff` and from `lowOn` on. All off as it stands. -/
structure GateEdges where
  highOn : Nat := 1000
  highOff : Nat := 1000
  lowOff : Nat := 0
  lowOn : Nat := 2000
  deriving DecidableEq, Repr

/-- What a spindle holds besides its registers. -/
structure Spin where
  /-- Speed reference in 1/65,536 rpm. -/
  ref : Int := 0
  /-- Current references in µA, measured currents in µA, and voltage commands in µV. -/
  idRef : Int := 0
  iqRef : Int := 0
  idNow : Int := 0
  iqNow : Int := 0
  vd : Int := 0
  vq : Int := 0
  /-- Integrators: of the current controllers in µV × 2^29, of the speed controller in µA × 2^29. -/
  intD : Int := 0
  intQ : Int := 0
  intS : Int := 0
  /-- Electrical angle in use and the observer's angle in 2^−16 turn, the open-loop angle in 2^−32 turn, and the
  observer's speed in rpm. -/
  angle : Nat := 0
  openAngle : Nat := 0
  obsAngle : Nat := 0
  obsSpeed : Int := 0
  /-- Angle at the last speed sample. -/
  lastAngle : Option Nat := none
  /-- Consecutive current samples with the observer's error below 10°, and above 30° (R177). -/
  obsGood : Nat := 0
  obsBad : Nat := 0
  /-- Differences θ_obs − 4 θ_mech collected for each side (R179), newest first, and the sides whose offset is to be learned
  since the last MEDIA_LOAD. -/
  learn : List (List Nat) := [[], []]
  learnOwed : List Bool := [false, false]
  /-- Side and media angle latched in the last current sample, when available (R178). -/
  media : Option (Nat × Nat) := none
  /-- Handover to media angle is being tried (R180). -/
  trying : Bool := true
  /-- The gates switch; the spindle brakes with its low sides, and they are on in the present PWM period. -/
  gates : Bool := false
  braking : Bool := false
  lowSide : Bool := false
  /-- Duties of the three phases in edges: computed, written at edge 200, and in force (R174, R176). -/
  duties : List Nat := [0, 0, 0]
  written : List Nat := [0, 0, 0]
  inForce : List Nat := [0, 0, 0]
  /-- The gate outputs as last written at an edge 200 or cut at once: they switch or brake (R199, R201). -/
  driven : Bool := false
  /-- Gate edges of the three phases in the present PWM period (R174). -/
  gateEdges : List GateEdges := [{}, {}, {}]
  /-- CTRL.EN was written 0: the gates turn off at the next PWM period boundary (R198). -/
  enOff : Bool := false
  /-- While the low sides brake (R193): signs of the phase currents in the sample before, and device time of the last
  rise of phase U's current through zero. -/
  signs : List Bool := []
  riseAt : Option Nat := none
  /-- Trace nodes of the spindle, points 0 to 8. -/
  nodes : List Int := []
  /-- Attempt of the present start or of the present catch after ROTOR_LOST, and which of the two it is. -/
  attempt : Nat := 0
  lost : Bool := false
  /-- Speed of the last catch, negative backward. -/
  caught : Int := 0
  /-- Device time at which the spindle left RUN, or was loaded (R394). -/
  outSince : Option Nat := none
  replaced : Bool := false
  ceilingPosted : Bool := false
  mismatchPosted : Bool := false
  pinLost : Bool := false
  cmdsrcPending : Option Nat := none
  highVbus : Bool := false
  deriving DecidableEq, Repr
/-- The configuration of the PCIe function (R308, Table 10-1): its class code, the payload and read-request sizes in force
(the resets of PCI Express, log entry 64), the power state D3hot, and the Advanced Error Reporting status. No row of the table
carries a configuration request, so a command changes them only by a reset. -/
structure Pcie where
  classCode : Nat := 0x018000
  maxPayload : Nat := 128
  maxReadRequest : Nat := 512
  d3hot : Bool := false
  aerUncorrectable : Nat := 0
  aerCorrectable : Nat := 0
  deriving DecidableEq, Repr

/-! ## The whole state -/

/-- Every piece of state the manual gives the block, but the event counters, the basin contents and the queue. -/
structure Dev where
  time : Nat := 0
  regs : List (Fld × Nat) := []
  pins : Pins := {}
  pcie : Pcie := {}
  boot : Boot := {}
  out : List Msg := []
  /-- Occurrences of the present command, counted when it ends. -/
  raised : List Occ := []
  /-- Index of the next free value (log entry 2; the model's own field). -/
  freeTick : Nat := 0
  cmds : List Cmd := []
  /-- The number of the next command (the model's own field). -/
  nextSerial : Nat := 0
  sq : Tab SqState := []
  cq : Tab CqState := []
  eq : Tab EqState := []
  /-- MSI-X table words written, by BAR0 word address (R544). -/
  msix : Tab Nat := []
  /-- Vectors whose bit of the pending-bit array is 1 (R544). -/
  msixPending : List Nat := []
  vec : Tab VecState := []
  /-- _LO writes held until the write of _HI (R540), by address. -/
  lowHeld : Tab Nat := []
  /-- RW writes that wait for a sample boundary (R122, R147, R148), in order. -/
  deferredWrites : List (Fld × Nat) := []
  /-- Host writes held off while an element is measured (R506). -/
  measureHeld : List (Fld × Nat) := []
  /-- Sources of events caused by commands in flight (R573): ring and source. -/
  caused : List (Nat × Nat) := []
  loadInForce : Bool := false
  loadCmd : Option Origin := none
  unloadCmd : Option Origin := none
  link : Tab Link := []
  share : Share := {}
  volume : Option Volume := none
  takes : List Take := []
  stripes : List Stripe := []
  nextStripe : Nat := 0
  blks : List Blk := []
  nextBlk : Nat := 0
  /-- Map moves of raw and take positions (R266, R297): old PBA to new. -/
  moved : Tab Nat := []
  /-- Surfaces unavailable for writing with their causes (R394): surface and cause. -/
  unavailable : List (Nat × Nat) := []
  cat : Catalogue := {}
  ladder : List Ladder := []
  railWait : List RailWait := []
  selftest : Option SelfTest := none
  scrub : Scrub := {}
  basin : Basin := {}
  cache : Cache := {}
  thermal : Thermal := {}
  measures : List Measure := []
  pk : Tab Pk := []
  spot : Tab Spot := []
  ax : Tab Ax := []
  servo : Tab Servo := []
  trace : Tab Trace := []
  sled : Tab Sled := []
  seek : Tab Seek := []
  homing : Tab Homing := []
  spin : Tab Spin := []
  deriving DecidableEq, Repr

/-- The state of the block: the device, the counters of the event sources, the contents of the basin, and the queue
of commands that wait, first in, first out. -/
structure State where
  dev : Dev
  /-- Event sources (R475 to R487). -/
  ev : Tab Src
  /-- Basin bytes by address, in canonical form (`Memory.wf`); an unlisted byte reads 0 (R422). -/
  mem : List Host.Cell
  pending : List Instr
  deriving DecidableEq, Repr

/-- The instant at which power-on reset ends: device time 0, PERST_n still low, every register at its reset value. -/
def State.reset : State := { dev := {}, ev := [], mem := [], pending := [] }

end Sys2Proof.Machine
end

