-- ==== Sys2Proof/Machine/Flags.lean ====
section
/-! DEFINITION. Event codes (R477: chapter number and position in the chapter's event table), status details, and the
flag and status values the registers show. -/

namespace Sys2Proof.Machine

/-! ### Table 15-3 -/

def evRailUnlock : Nat := 0x0101

/-! ### Table 15-3 -/

def evPickupBusFail : Nat := 0x0301
def evPickupAlarm : Nat := 0x0302
def evLaserOff : Nat := 0x0303
def evAxisFault : Nat := 0x0304

/-! ### Table 15-3 -/

def evLoopOverrun : Nat := 0x0401
def evIntegratorClamp : Nat := 0x0402
def evWedgeStale : Nat := 0x0403
def evFocusFail : Nat := 0x0404
def evFocusLoss : Nat := 0x0405
def evTrackLoss : Nat := 0x0406
def evLayerJumpRetry : Nat := 0x0407
def evLayerJumpFail : Nat := 0x0408
def evTraceDone : Nat := 0x0409

/-! ### Table 05-6 -/

def evSledHomed : Nat := 0x0501
def evHomeFail : Nat := 0x0502
def evSeekFail : Nat := 0x0503
def evSledSlip : Nat := 0x0504
def evSledLimit : Nat := 0x0505
def evSledUnhomed : Nat := 0x0506
def evSledFault : Nat := 0x0507

/-! ### Table 06-6 -/

def evSpindleAtSpeed : Nat := 0x0601
def evSpindleStopped : Nat := 0x0602
def evSpindleStartFail : Nat := 0x0603
def evOffsetLearned : Nat := 0x0604
def evAngleHandover : Nat := 0x0605
def evAngleMismatch : Nat := 0x0606
def evObserverLoss : Nat := 0x0607
def evRotorLost : Nat := 0x0608
def evGateFault : Nat := 0x0609
def evVbusHigh : Nat := 0x060A
def evSpeedCeiling : Nat := 0x060B
def evPinCmdLost : Nat := 0x060C

/-! ### Table 07-7 -/

def evDeskewFail : Nat := 0x0701
def evDeskewShift : Nat := 0x0702
def evTapLimit : Nat := 0x0703
def evAgcLimit : Nat := 0x0704
def evScoutMapFull : Nat := 0x0705

/-! ### Table 08-10 -/

def evRowAbandoned : Nat := 0x0801
def evMordantFail : Nat := 0x0802
def evMordantExhausted : Nat := 0x0803
def evLaneDisabled : Nat := 0x0804
def evOpcDone : Nat := 0x0805
def evOpcEndExhausted : Nat := 0x0806
def evOpcFail : Nat := 0x0807
def evLayerWriteClosed : Nat := 0x0808

/-! ### Table 09-6 -/

def evBlockRecovered : Nat := 0x0901
def evBlockUnrecovered : Nat := 0x0902
def evReallocated : Nat := 0x0903
def evSpareLow : Nat := 0x0904
def evSpareExhausted : Nat := 0x0905

/-! ### Table 11-6 -/

def evLinkUp : Nat := 0x1101
def evLinkDown : Nat := 0x1102
def evLinkReset : Nat := 0x1103
def evDeferredError : Nat := 0x1104
def evLinkProtocol : Nat := 0x1105
def evQrstDone : Nat := 0x1106
def evRateDeficit : Nat := 0x1107
def evXrdyTimeout : Nat := 0x1108

/-! ### Table 12-12 -/

def evVolumeCreated : Nat := 0x1201
def evMemberMissing : Nat := 0x1202
def evCatalogFull : Nat := 0x1203
def evMemberReplaced : Nat := 0x1204
def evMigrateFlagged : Nat := 0x1205
def evScrubPassDone : Nat := 0x1206
def evSelftestSuspended : Nat := 0x1207
def evSelftestResumed : Nat := 0x1208

/-! ### Table 13-8 -/

def evBasinCe : Nat := 0x1301
def evBasinUe : Nat := 0x1302
def evBasinPpr : Nat := 0x1303
def evChipSuspect : Nat := 0x1304
def evDimmHot : Nat := 0x1305
def evBasinConfig : Nat := 0x1306
def evBasinTrainFail : Nat := 0x1307
def evBasinReady : Nat := 0x1308
def evBasinFillHigh : Nat := 0x1309
def evBasinFillClear : Nat := 0x130A

/-! ### Table 14-4 -/

def evCacheCe : Nat := 0x1401
def evCacheUe : Nat := 0x1402
def evLockfillMiss : Nat := 0x1403

/-! ### Table 15-9 -/

def evWriteHold : Nat := 0x1501
def evWriteRelease : Nat := 0x1502
def evRiseLimit : Nat := 0x1503
def evJunctionHot : Nat := 0x1504
def evAmbFault : Nat := 0x1505
def evThrottleRequest : Nat := 0x1506
def evThrottleRelease : Nat := 0x1507

/-! ### Table 16-6 -/

def evCalibCommitted : Nat := 0x1601

/-! ### Table 17-7 -/

def evBootDone : Nat := 0x1701
def evBootSlotFail : Nat := 0x1702
def evBootRecovery : Nat := 0x1703
def evFwVerified : Nat := 0x1704
def evFwProgrammed : Nat := 0x1705
def evFwProgramFail : Nat := 0x1706

/-! ### Status (Tables 10-8, 10-9 and 09-2) -/

def clsOk : Nat := 0x00
def clsRecovered : Nat := 0x01
def clsMedia : Nat := 0x10
def clsThermal : Nat := 0x11
def clsAborted : Nat := 0x20
def clsResource : Nat := 0x30
def clsDevice : Nat := 0x40

def detRail : Nat := 0x0201
def detStripe : Nat := 0x0210
def detNoStripe : Nat := 0x0211
def detWriteExhausted : Nat := 0x0301
def detCatalogFull : Nat := 0x0302
def detNoSpace : Nat := 0x0303
def detSeek : Nat := 0x0304
def detLayerJump : Nat := 0x0305
def detFocus : Nat := 0x0306
def detNotLoaded : Nat := 0x0307
def detLaneDisabled : Nat := 0x0308

def detPinMode : Nat := 0x0001
def detTraceNotDone : Nat := 0x0002
def detOpenTakes : Nat := 0x0003
def detTakeLimit : Nat := 0x0004
def detTakeNotOpen : Nat := 0x0005
def detTakeUnknown : Nat := 0x0006
def detBeyondEnd : Nat := 0x0007
def detBasinNotReady : Nat := 0x0008
def detBusy : Nat := 0x0009
def detTakeIdInUse : Nat := 0x000A
def detAlreadyLoaded : Nat := 0x000B

def detUnknownOpcode : Nat := 0x0001
def detAdminOnly : Nat := 0x0002
def detSignature : Nat := 0x0003
def detBasinEcc : Nat := 0x0004
def detHostMemory : Nat := 0x0005
def detSelfTestFailed : Nat := 0x0006
def detInternal : Nat := 0x0007

/-- Table 07-4: outcome of a block as the detail of Table 09-2 (1 RAIL to 6 ADDRESS). -/
def detOutcome (outcome : Nat) : Nat := 0x0200 + outcome

/-! ### States the registers show -/

/-- GLOBAL.STATUS.BOOT. -/
def bootReset : Nat := 0
def bootLoading : Nat := 1
def bootRunning : Nat := 2
def bootRecovery : Nat := 3

/-- SPRING[l].STATE (Table 11-4). -/
def lnDisabled : Nat := 0
def lnTrain : Nat := 1
def lnAlign : Nat := 2
def lnInit : Nat := 3
def lnUp : Nat := 4
def lnRetrain : Nat := 5

/-- LOOP[e].AX[a].STATE (Table 04-10). -/
def axOff : Nat := 0
def axSearch : Nat := 1
def axClosed : Nat := 2
def axHold : Nat := 3
def axJump : Nat := 4
def axOpen : Nat := 5

/-- LOOP[e].TRACE.STATE. -/
def trIdle : Nat := 0
def trFilling : Nat := 1
def trArmed : Nat := 2
def trTriggered : Nat := 3
def trDone : Nat := 4

/-- SPINDLE[n].STATE (Table 06-4). -/
def spOff : Nat := 0
def spCatch : Nat := 1
def spBrake : Nat := 2
def spAlign : Nat := 3
def spRamp : Nat := 4
def spRun : Nat := 5
def spWait : Nat := 6
def spStopping : Nat := 7
def spFailed : Nat := 8

/-- SLED[p].STATE (Table 05-2). -/
def slUnhomed : Nat := 0
def slHoming : Nat := 1
def slHold : Nat := 2
def slFollow : Nat := 3
def slSeek : Nat := 4
def slStopping : Nat := 5

/-- THERMAL.THR.STATE. -/
def thNormal : Nat := 0
def thRequested : Nat := 1
def thEnforced : Nat := 2

/-- Abandonment causes (Table 08-3). -/
def abRail : Nat := 1
def abSpindle : Nat := 2
def abLaser : Nat := 3
def abAxis : Nat := 4
def abSled : Nat := 5
def abPbus : Nat := 6
def abThermal : Nat := 7
def abGateFocus : Nat := 8
def abGateTrack : Nat := 9
def abFetch : Nat := 10

/-- Causes for which a surface is unavailable for writing (R394), in the order listed there. -/
def unMissing : Nat := 1
def unThermal : Nat := 2
def unSpindle : Nat := 3
def unLanes : Nat := 4
def unClosed : Nat := 5
def unNoRow : Nat := 6

end Sys2Proof.Machine
end

