-- ==== Sys2Proof/Machine/Ops.lean ====
section
/-! DEFINITION. The named operations over the state: byte strings, sparse tables, registers, memory, events, basin
units and completions. Every meaning reads and writes the state through these. -/

namespace Sys2Proof.Machine

/-! ### Bytes (R5: little-endian) -/

/-- The n bytes of v, least significant first. -/
def le : Nat → Nat → Bytes
  | 0, _ => []
  | n + 1, v => v % 256 :: le n (v / 256)

/-- The number a byte string spells, least significant byte first. -/
def ofLe : Bytes → Nat
  | [] => 0
  | b :: bs => b % 256 + 256 * ofLe bs

/-- Two's complement of an integer in w bits (R539). -/
def toTwos (w : Nat) (v : Int) : Nat := (v % (2 ^ w : Int)).toNat

/-- The integer a w-bit two's complement number stands for (R539). -/
def ofTwos (w : Nat) (v : Nat) : Int :=
  if v % 2 ^ w < 2 ^ (w - 1) then (v % 2 ^ w : Nat) else ((v % 2 ^ w : Nat) : Int) - 2 ^ w

/-- The n bytes of a signed quantity. -/
def leI (n : Nat) (v : Int) : Bytes := le n (toTwos (8 * n) v)

/-- A string of n zero bytes. -/
def zeros (n : Nat) : Bytes := List.replicate n 0

/-- b with n bytes from position `at` replaced by `src`, padded with zeros to reach there. -/
def overwrite (b : Bytes) (pos : Nat) (src : Bytes) : Bytes :=
  let base := b ++ zeros (pos - b.length)
  base.take pos ++ src ++ base.drop (pos + src.length)

/-- n bytes of b from pos, padded with zeros. -/
def slice (b : Bytes) (pos n : Nat) : Bytes :=
  let c := (b.drop pos).take n
  c ++ zeros (n - c.length)

/-- Quotient rounded up. -/
def ceilDiv (a b : Nat) : Nat := (a + b - 1) / b

/-- Quotient of integers rounded toward minus infinity. -/
def floorDiv (a b : Int) : Int := Int.fdiv a b

/-- a ÷ b rounded to the nearest integer, halves away from zero. -/
def roundDiv (a b : Int) : Int :=
  if b = 0 then 0
  else
    let q := (2 * a.natAbs + b.natAbs) / (2 * b.natAbs)
    if (a < 0 ∧ 0 < b) ∨ (0 < a ∧ b < 0) then -(q : Int) else q

/-- The bits of a mask below n. -/
def bitsOf (mask n : Nat) : List Nat := (List.range n).filter mask.testBit

/-- The mask with the given bits set. -/
def maskOf (l : List Nat) : Nat := l.foldl (fun m i => m ||| 2 ^ i) 0

/-! ### Sparse tables -/

/-- The record of key k, or the default. -/
def tget {α : Type} (dflt : α) : Tab α → Nat → α
  | [], _ => dflt
  | (k', v) :: t, k => if k' = k then v else tget dflt t k

/-- The table with key k set to v. -/
def tset {α : Type} (t : Tab α) (k : Nat) (v : α) : Tab α := (k, v) :: t.filter fun e => e.1 != k

/-- A number put into a rising list. -/
def insertNat (x : Nat) : List Nat → List Nat
  | [] => [x]
  | y :: r => if x ≤ y then x :: y :: r else y :: insertNat x r

/-- The keys of a table, rising. -/
def tkeys {α : Type} (t : Tab α) : List Nat := (t.map Prod.fst).foldr insertNat []

/-- The table without key k. -/
def tdel {α : Type} (t : Tab α) (k : Nat) : Tab α := t.filter fun e => e.1 != k

/-- Whether the table has an entry for key k. -/
def thas {α : Type} (t : Tab α) (k : Nat) : Bool := t.any fun e => e.1 == k

/-- The entry of key k, if any. -/
def tfind {α : Type} (t : Tab α) (k : Nat) : Option α := (t.find? fun e => e.1 == k).map Prod.snd

/-! ### Registers -/

/-- The value of a field: what was last stored, or its reset value. -/
def regGet (regs : List (Fld × Nat)) (f : Fld) : Nat :=
  match regs with
  | [] => f.reset
  | (g, v) :: t => if g = f then v else regGet t f

/-- The register file with a field set, truncated to the field's width. -/
def regSet (regs : List (Fld × Nat)) (f : Fld) (v : Nat) : List (Fld × Nat) :=
  (f, v % 2 ^ f.row.spec.width) :: regs.filter fun e => e.1 != f

/-- Read field `r` at indices `ix`. -/
def Dev.rd (d : Dev) (r : Row) (ix : List Nat := []) : Nat := regGet d.regs ⟨r, ix⟩

/-- Read a signed field. -/
def Dev.rdS (d : Dev) (r : Row) (ix : List Nat := []) : Int := ofTwos r.spec.width (d.rd r ix)

/-- Whether a one-bit field is 1. -/
def Dev.on (d : Dev) (r : Row) (ix : List Nat := []) : Bool := d.rd r ix == 1

/-- Write field `r` at indices `ix`, truncated to its width. -/
def Dev.wr (d : Dev) (r : Row) (ix : List Nat) (v : Nat) : Dev := { d with regs := regSet d.regs ⟨r, ix⟩ v }

/-- Write a signed field. -/
def Dev.wrS (d : Dev) (r : Row) (ix : List Nat) (v : Int) : Dev := d.wr r ix (toTwos r.spec.width v)

/-- Add n to a wrapping counter field. -/
def Dev.inc (d : Dev) (r : Row) (ix : List Nat) (n : Nat := 1) : Dev := d.wr r ix (d.rd r ix + n)

/-- Take n from a field that is at least n. -/
def Dev.dec (d : Dev) (r : Row) (ix : List Nat) (n : Nat := 1) : Dev := d.wr r ix (d.rd r ix - n)

/-- A 64-bit quantity held as a _LO and a _HI field (R540). -/
def Dev.rd64 (d : Dev) (lo hi : Row) (ix : List Nat := []) : Nat := d.rd lo ix + 2 ^ 32 * d.rd hi ix

/-- Write a _LO and _HI pair (R540). -/
def Dev.wr64 (d : Dev) (lo hi : Row) (ix : List Nat) (v : Nat) : Dev :=
  (d.wr lo ix (v % 2 ^ 32)).wr hi ix (v / 2 ^ 32)

/-! ### Free values (log entry 2) -/

/-- Take the next free value. -/
def Dev.fresh (d : Dev) : Nat × Dev := (Config.freeValue d.freeTick, { d with freeTick := d.freeTick + 1 })

/-! ### Basin contents: canonical sparse memory (R422: every byte is 0 until written) -/

/-- The byte at an address. -/
def memGet : List Host.Cell → Nat → BitVec 8
  | [], _ => 0
  | (k, v) :: m, a => if k = a then v else if a < k then 0 else memGet m a

/-- The memory with one byte set: addresses stay strictly rising and no entry holds 0. -/
def memSet : List Host.Cell → Nat → BitVec 8 → List Host.Cell
  | [], a, v => if v = 0 then [] else [(a, v)]
  | (k, w) :: m, a, v =>
    if k < a then (k, w) :: memSet m a v
    else if k = a then if v = 0 then m else (a, v) :: m
    else if v = 0 then (k, w) :: m else (a, v) :: (k, w) :: m

/-- Entries strictly above `lo`, strictly rising, none 0. -/
def memWfFrom : Option Nat → List Host.Cell → Bool
  | _, [] => true
  | lo, (k, v) :: m =>
    (match lo with | none => true | some l => decide (l < k)) && v != 0 && memWfFrom (some k) m

/-- The canonical form of the memory. -/
def Memory.wf (m : List Host.Cell) : Bool := memWfFrom none m

/-- Write a byte string at an address. -/
def memWrite : List Host.Cell → Nat → Bytes → List Host.Cell
  | m, _, [] => m
  | m, a, b :: bs => memWrite (memSet m a (BitVec.ofNat 8 b)) (a + 1) bs

/-- Read n bytes from an address. -/
def memRead (m : List Host.Cell) (a n : Nat) : Bytes := (List.range n).map fun i => (memGet m (a + i)).toNat

/-! ### Outputs and events -/

/-- Put a message on an outside interface. -/
def Dev.emit (d : Dev) (m : Msg) : Dev := { d with out := d.out ++ [m] }

/-! ### MSI-X (R308, R544) -/

/-- The MSI-X table: 2,048 entries of address low and high, data and vector control. -/
def inMsix (addr : Nat) : Bool := decide (0x180000 ≤ addr ∧ addr < 0x188000)

/-- The pending-bit array: bit v of its 2,048. -/
def inPba (addr : Nat) : Bool := decide (0x188000 ≤ addr ∧ addr < 0x188100)

/-- A word of the MSI-X table. The mask bit of vector control is 1 until host software writes it, as PCI Express resets it
(PRESUMED, log entry 64). -/
def Dev.msixWord (d : Dev) (addr : Nat) : Nat := tget (if addr % 16 = 12 then 1 else 0) d.msix addr

/-- Vector v is masked. -/
def Dev.msixMasked (d : Dev) (v : Nat) : Bool := (d.msixWord (0x180000 + 16 * v + 12)).testBit 0

/-- The message of vector v, as its table entry gives it. -/
def Dev.msixMsg (d : Dev) (v : Nat) : Msg :=
  let a := 0x180000 + 16 * v
  .msix v (d.msixWord a + 2 ^ 32 * d.msixWord (a + 4)) (d.msixWord (a + 8))

/-- The device has a message to send on vector v: a masked vector keeps it as its pending bit. -/
def Dev.interrupt (d : Dev) (v : Nat) : Dev :=
  if d.msixMasked v then { d with msixPending := if d.msixPending.contains v then d.msixPending else d.msixPending ++ [v] }
  else d.emit (d.msixMsg v)

/-- A write of a word of the MSI-X table: a vector unmasked with its pending bit at 1 sends its message. -/
def Dev.writeMsix (d : Dev) (addr value : Nat) : Dev :=
  let v := (addr - 0x180000) / 16
  let d := { d with msix := tset d.msix addr value }
  if d.msixPending.contains v ∧ !d.msixMasked v then
    { (d.emit (d.msixMsg v)) with msixPending := d.msixPending.filter fun x => x != v }
  else d

/-- An event occurs on a source: it is counted when the present command ends (R487). -/
def Dev.raise (d : Dev) (src code : Nat) (payload : Bytes := []) : Dev :=
  { d with raised := d.raised ++ [⟨src, code, payload⟩] }

/-- Raise on sub-source `sub` of pickup p (Table 15-1). -/
def Dev.raisePk (d : Dev) (p sub code : Nat) (payload : Bytes := []) : Dev := d.raise (32 * p + sub) code payload

/-- The global event source (R476). -/
def globalSrc : Nat := 0x7F0

/-- One occurrence adds to OCCURRED and PENDING in one indivisible step (R487); the pending count saturates (R485);
the latest occurrence's time and payload are kept (R480). -/
def Src.occur (x : Src) (time code : Nat) (payload : Bytes) : Src :=
  if x.pending = 2 ^ 32 - 1 then { x with ovf := true, code := code, time := time, payload := payload }
  else { x with occurred := (x.occurred + 1) % 2 ^ 32, pending := x.pending + 1,
                code := code, time := time, payload := payload }

/-- Count every raised occurrence on its source. -/
def countRaised (time : Nat) : List Occ → Tab Src → Tab Src
  | [], ev => ev
  | o :: os, ev => countRaised time os (tset ev o.src ((tget {} ev o.src).occur time o.code o.payload))

/-- R487: OCCURRED = POSTED + PENDING modulo 2^32, with PENDING below 2^32. -/
def Src.conserved (x : Src) : Bool :=
  decide (x.occurred = (x.posted + x.pending) % 2 ^ 32) && decide (x.pending < 2 ^ 32)

/-- Every source conserves its occurrences. -/
def evConserved (ev : Tab Src) : Bool := ev.all fun e => e.2.conserved

/-! ### Elements -/

/-- Change the record of submission ring r. -/
def Dev.updSq (d : Dev) (r : Nat) (f : SqState → SqState) : Dev := { d with sq := tset d.sq r (f (tget {} d.sq r)) }
/-- Change the record of completion ring c. -/
def Dev.updCq (d : Dev) (c : Nat) (f : CqState → CqState) : Dev := { d with cq := tset d.cq c (f (tget {} d.cq c)) }
/-- Change the record of event ring q. -/
def Dev.updEq (d : Dev) (q : Nat) (f : EqState → EqState) : Dev := { d with eq := tset d.eq q (f (tget {} d.eq q)) }
/-- Change the record of link l. -/
def Dev.updLk (d : Dev) (l : Nat) (f : Link → Link) : Dev := { d with link := tset d.link l (f (tget {} d.link l)) }
/-- Change the basin record. -/
def Dev.updBasin (d : Dev) (f : Basin → Basin) : Dev := { d with basin := f d.basin }
/-- Change the cache record. -/
def Dev.updCache (d : Dev) (f : Cache → Cache) : Dev := { d with cache := f d.cache }
/-- Change the thermal record. -/
def Dev.updTh (d : Dev) (f : Thermal → Thermal) : Dev := { d with thermal := f d.thermal }
/-- Change the boot record. -/
def Dev.updBoot (d : Dev) (f : Boot → Boot) : Dev := { d with boot := f d.boot }
/-- Change the pins. -/
def Dev.updPins (d : Dev) (f : Pins → Pins) : Dev := { d with pins := f d.pins }
/-- The record of submission ring r. -/
def Dev.sqS (d : Dev) (r : Nat) : SqState := tget {} d.sq r
/-- The record of completion ring c. -/
def Dev.cqS (d : Dev) (c : Nat) : CqState := tget {} d.cq c
/-- The record of event ring q. -/
def Dev.eqS (d : Dev) (q : Nat) : EqState := tget {} d.eq q
/-- The record of link l. -/
def Dev.lk (d : Dev) (l : Nat) : Link := tget {} d.link l

/-- The device is running Riraiz (GLOBAL.STATUS.BOOT = 2). -/
def Dev.running (d : Dev) : Bool := d.rd .glBoot == 2

/-- GLOBAL.STATUS.BOOT is RUNNING or RECOVERY, and the function is in D0: BAR0 and the rings work (R308, R522, R524,
R528). -/
def Dev.ready (d : Dev) : Bool := (d.rd .glBoot == 2 || d.rd .glBoot == 3) && !d.pcie.d3hot

/-! ### Commands in flight -/

/-- The command of an origin. -/
def Dev.cmd (d : Dev) (o : Origin) : Option Cmd := d.cmds.find? fun c => c.origin == o

/-- Change the command of an origin. -/
def Dev.updCmd (d : Dev) (o : Origin) (f : Cmd → Cmd) : Dev :=
  { d with cmds := d.cmds.map fun c => if c.origin = o then f c else c }

/-- The device time 64 bits hold. -/
def Dev.now (d : Dev) : Nat := d.time

/-- REFCLK edges of a number of microseconds, milliseconds and seconds (R13). -/
def usTicks (n : Nat) : Nat := 100 * n
def msTicks (n : Nat) : Nat := 100000 * n
def secTicks (n : Nat) : Nat := 100000000 * n

/-- The next free place of the packet queue of a link: a sequenced packet that waits to be sent (R355). -/
def Dev.queuePkt (d : Dev) (l ptype : Nat) (body : Bytes) : Dev :=
  d.updLk l fun k => { k with txq := k.txq ++ [(ptype, body)] }

/-- CLASS bit 1 while a deferred log is unread (R327, R343, R370). -/
def flagged (cls : Nat) (unread : Bool) : Nat := if unread then cls ||| 2 else cls

/-- R34, R361: a command ends. A ring command's completion joins those waiting for its completion ring in completion
order; a Spring command's STAT joins the packets that wait on its link, and the tag ends when it is sent. -/
def Dev.finish (d : Dev) (o : Origin) (cls detail : Nat) (result : Nat := 0) : Dev :=
  match d.cmd o with
  | none => d
  | some c =>
    let d := { d with cmds := d.cmds.filter fun x => x.origin != o }
    match o with
    | .ring r seq =>
      d.updCq (d.rd .sqCq [r]) fun q =>
        { q with waiting := q.waiting ++ [{ ring := r, seq := seq, cookie := c.cookie, cls := cls, detail := detail,
                                            op := c.op, result := result }] }
    | .link l tag =>
      d.queuePkt l 4 (le 2 tag ++ [cls, 0] ++ le 2 detail ++ [0, 0] ++ le 8 result)
    | .past _ _ => d

/-- The command reports class MEDIA, or the class given, at its end and changes nothing. -/
def Dev.refuse (d : Dev) (o : Origin) (cls detail : Nat) : Dev := d.finish o cls detail 0

/-- Record the first failure of a command, keeping the lowest offset (Table 10-7). -/
def Cmd.fail (c : Cmd) (offset detail : Nat) : Cmd :=
  match c.failed with
  | some (o, _) => if offset < o then { c with failed := some (offset, detail) } else c
  | none => { c with failed := some (offset, detail) }

end Sys2Proof.Machine
end

