-- ==== Sys2Proof/Machine/Profile.lean ====
section
/-! DEFINITION. Jerk-limited profiles (chapter 05, R152, R160): integer roots, rest-to-rest moves and ramp stops. Times are
in fs and lengths in units of J × 10^−33 pm ÷ 6, so that every phase is exact in integers; the roots that the plan of a
short move needs are taken to the fs below (log entry 50). -/

namespace Sys2Proof.Machine

/-! ### Roots -/

/-- The largest r with r² at most n, by bits k − 1 down to 0 above a start. -/
def sqrtGo (n : Nat) : Nat → Nat → Nat
  | 0, r => r
  | k + 1, r => let s := r + 2 ^ k; if s * s ≤ n then sqrtGo n k s else sqrtGo n k r

/-- The square root rounded down, for n below 2^256. -/
def isqrt (n : Nat) : Nat := sqrtGo n 128 0

/-- The largest r with r³ at most n, by bits. -/
def cbrtGo (n : Nat) : Nat → Nat → Nat
  | 0, r => r
  | k + 1, r => let s := r + 2 ^ k; if s * s * s ≤ n then cbrtGo n k s else cbrtGo n k r

/-- The cube root rounded down, for n below 2^288. -/
def icbrt (n : Nat) : Nat := cbrtGo n 96 0

/-! ### Rest-to-rest moves (R152) -/

/-- A planned move: the times for which the jerk, the full acceleration and the speed limit hold, in fs. -/
structure Plan where
  jerkTime : Nat
  accelTime : Nat
  cruise : Nat
  deriving DecidableEq, Repr

/-- The distance of a move in pm. -/
def Move.dist (m : Move) : Nat := (m.target - m.start).natAbs * m.scale * 10 ^ 6 / 2 ^ 32

/-- The plan of R152: J in m/s³, A in 0.01 m/s², V in mm/s. -/
def Move.plan (m : Move) : Plan :=
  let j := m.jerk
  let a := m.accel
  let v := m.speed
  let d := m.dist
  let tj := a * 10 ^ 13 / j
  let tv := v * 10 ^ 14 / a
  let full : Plan := if tj ≤ tv then ⟨tj, tv - tj, 0⟩ else ⟨isqrt (v * 10 ^ 27 / j), 0, 0⟩
  let ramps := v * (2 * full.jerkTime + full.accelTime) / 10 ^ 6
  if ramps ≤ d then { full with cruise := (d - ramps) * 10 ^ 6 / v }
  else
    let t := (isqrt (tj * tj + 4 * d * 10 ^ 20 / a) - tj) / 2
    if tj ≤ t then ⟨tj, t - tj, 0⟩ else ⟨icbrt (d * 10 ^ 33 / (2 * j)), 0, 0⟩

/-- Time to the peak speed, and of the whole move. -/
def Plan.rise (q : Plan) : Nat := 2 * q.jerkTime + q.accelTime
def Plan.total (q : Plan) : Nat := 2 * q.rise + q.cruise

/-- Six times the length covered t after the start of the rise, over J. -/
def Plan.risen (q : Plan) (t : Nat) : Nat :=
  let a := q.jerkTime
  let b := q.accelTime
  if t ≤ a then t * t * t
  else if t ≤ a + b then a * a * a + 3 * a * a * (t - a) + 3 * a * (t - a) * (t - a)
  else
    let u := q.rise - t
    3 * a * (a + b) * q.rise - (6 * a * (a + b) * u - u * u * u)

/-- Six times the length covered t after the start of the move, over J. -/
def Plan.gone (q : Plan) (t : Nat) : Nat :=
  let s := q.risen q.rise
  let v := 6 * q.jerkTime * (q.jerkTime + q.accelTime)
  if t ≤ q.rise then q.risen t
  else if t ≤ q.rise + q.cruise then s + v * (t - q.rise)
  else 2 * s + v * q.cruise - q.risen (q.total - t)

/-- The speed over J in fs², and the signed acceleration over J in fs, t after the start. -/
def Plan.motion (q : Plan) (t : Nat) : Nat × Int :=
  let a := q.jerkTime
  let b := q.accelTime
  let peak := a * (a + b)
  let up := fun (t : Nat) =>
    if t ≤ a then (t * t / 2, t)
    else if t ≤ a + b then (a * a / 2 + a * (t - a), a)
    else (peak - (q.rise - t) * (q.rise - t) / 2, q.rise - t)
  if t ≤ q.rise then ((up t).1, ((up t).2 : Int))
  else if t ≤ q.rise + q.cruise then (peak, 0)
  else if t < q.total then ((up (q.total - t)).1, -((up (q.total - t)).2 : Int))
  else (0, 0)

/-- Six times a length over J, in 1/256 microstep, rounded. -/
def toSteps (jerk scale x : Nat) : Int := roundDiv ((x * jerk : Nat) * 2 ^ 32 : Int) ((6 * 10 ^ 39 * scale : Nat) : Int)

/-- Time since the start in fs, at device time `now`. -/
def sinceFs (began now : Nat) : Nat := (now - began) * 10 ^ 7

/-- The move has come to its end. -/
def Move.done (m : Move) (now : Nat) : Bool := decide (m.plan.total ≤ sinceFs m.began now)

/-- R152: P at device time `now`; the last set-point is the target. -/
def Move.at (m : Move) (now : Nat) : Int :=
  let q := m.plan
  let t := sinceFs m.began now
  if q.total ≤ t then m.target
  else
    let x := toSteps m.jerk m.scale (q.gone t)
    if m.start ≤ m.target then min m.target (m.start + x) else max m.target (m.start - x)

/-! ### Ramp stops (R160) -/

/-- The phases of a ramp stop in fs: the time to the greatest deceleration, the time it holds, and its own duration over
J, which is the time of the last phase. -/
def StopRamp.phases (r : StopRamp) : Nat × Nat × Nat :=
  let tj := r.limit * 10 ^ 13 / r.jerk
  let w := r.speed + (r.accel * r.accel).toNat / 2
  let tp := isqrt w
  let peak := min tp tj
  let hold := if tp ≤ tj ∨ tj = 0 then 0 else (w - tj * tj) / tj
  ((r.accel + peak).toNat, hold, peak)

/-- Duration of a ramp stop in fs. -/
def StopRamp.total (r : StopRamp) : Nat := r.phases.1 + r.phases.2.1 + r.phases.2.2

/-- Six times the length covered t after the start of the ramp, over J. -/
def StopRamp.gone (r : StopRamp) (t : Nat) : Int :=
  let p := r.phases
  let t1 : Int := min t p.1
  let t2 : Int := min (t - p.1) p.2.1
  let t3 : Int := min (t - p.1 - p.2.1) p.2.2
  let k : Int := p.2.2
  let v1 := 2 * (r.speed : Int) + 2 * r.accel * t1 - t1 * t1
  let v2 := v1 - 2 * k * t2
  (6 * r.speed * t1 + 3 * r.accel * t1 * t1 - t1 * t1 * t1) + (3 * v1 * t2 - 3 * k * t2 * t2)
    + (3 * v2 * t3 - 3 * k * t3 * t3 + t3 * t3 * t3)

/-- The ramp has come to rest. -/
def StopRamp.done (r : StopRamp) (now : Nat) : Bool := decide (r.total ≤ sinceFs r.began now)

/-- P at device time `now`. -/
def StopRamp.at (r : StopRamp) (now : Nat) : Int :=
  let x := toSteps r.jerk r.scale (r.gone (sinceFs r.began now)).toNat
  if r.outward then r.start + x else r.start - x

/-- The ramp stop of a move from its present speed and acceleration. -/
def Move.stopAt (m : Move) (now : Nat) (P : Int) (jerk limit : Nat) : StopRamp :=
  let v := m.plan.motion (sinceFs m.began now)
  { start := P, outward := decide (m.start ≤ m.target), speed := v.1 * m.jerk / jerk,
    accel := v.2 * m.jerk / jerk, jerk := jerk, limit := limit, scale := m.scale, began := now }

end Sys2Proof.Machine
end

