-- ==== Sys2Proof/Machine/Codes.lean ====
section
/-! DEFINITION. The codes the manual gives: CRC-8 of the pickup bus (R90), CRC-32 of the Spring links (R351),
CRC-32C of blocks and records (R65), the field of R61 with its Reed–Solomon code, the run-length code of Table 02-8,
syncs, the Cauchy parity of R303, the chip-loss code of R426 to R428, and the wedge fields of Table 02-7. -/

namespace Sys2Proof.Machine

/-- One bit of CRC-8, most significant first (R90). -/
def crc8Bit (crc : Nat) (bit : Bool) : Nat :=
  let top := (crc.testBit 7) != bit
  let sh := (crc * 2) % 256
  if top then sh ^^^ 0x07 else sh

/-- R90: CRC-8 with x^8 + x^2 + x + 1 over the low n bits of v, most significant first. -/
def crc8 (n v : Nat) : Nat := ((List.range n).reverse.map v.testBit).foldl crc8Bit 0

/-- The 40-bit frame of Table 03-5: OP 1 WRITE, 2 READ, 0 NOP. -/
def busFrameBits (op addr data : Nat) : Nat :=
  let body := op * 2 ^ 30 + (addr % 256) * 2 ^ 16 + data % 65536
  body * 256 + crc8 32 body

/-- R49: CRC-16 with x^16 + x^12 + x^5 + 1 from 0xFFFF over the low n bits of v, most significant first. -/
def crc16 (n v : Nat) : Nat :=
  ((List.range n).reverse.map v.testBit).foldl (fun crc bit =>
    let sh := crc * 2 % 65536
    if crc.testBit 15 != bit then sh ^^^ 0x1021 else sh) 0xFFFF

/-! ### The field of R61 -/

/-- Multiplication by α. -/
def gfShift (a : Nat) : Nat := if a ≥ 128 then ((a * 2) % 256) ^^^ 0x1D else a * 2

/-- Shift-and-add multiplication over the low n bits of b. -/
def gfMulN : Nat → Nat → Nat → Nat
  | 0, _, _ => 0
  | n + 1, a, b => (if b % 2 = 1 then a else 0) ^^^ gfMulN n (gfShift a) (b / 2)

/-- Multiplication modulo x^8 + x^4 + x^3 + x^2 + 1. -/
def gfMul (a b : Nat) : Nat := gfMulN 8 a b

/-- Powers. -/
def gfPow (a : Nat) : Nat → Nat
  | 0 => 1
  | n + 1 => gfMul a (gfPow a n)

/-- The multiplicative inverse, a^254. -/
def gfInv (a : Nat) : Nat :=
  let a2 := gfMul a a
  let a4 := gfMul a2 a2
  let a8 := gfMul a4 a4
  let a16 := gfMul a8 a8
  let a32 := gfMul a16 a16
  let a64 := gfMul a32 a32
  let a128 := gfMul a64 a64
  gfMul a128 (gfMul a64 (gfMul a32 (gfMul a16 (gfMul a8 (gfMul a4 a2)))))

/-- The generator g(x) = (x − α^0) … (x − α^31), lowest coefficient first (R61). -/
def rsGenerator : List Nat :=
  (List.range 32).foldl (fun g i =>
    let r := gfPow 2 i
    List.zipWith (· ^^^ ·) (0 :: g) (g.map (gfMul r) ++ [0])) [1]

/-- One message symbol into the remainder register, whose head is the coefficient of x^31. -/
def rsFeed (reg : List Nat) (sym : Nat) : List Nat :=
  let f := sym ^^^ reg.headD 0
  List.zipWith (· ^^^ ·) (reg.drop 1 ++ [0]) ((rsGenerator.take 32).reverse.map (gfMul f))

/-- The 32 parity symbols of 216 message symbols (R61). -/
def rsParity (msg : List Nat) : List Nat := msg.foldl rsFeed (zeros 32)

/-- R62 and R255: the 75,392 recorded bytes of 65,664 data bytes. -/
def recordedBytes (data : Bytes) : Bytes :=
  let cws := (List.range 304).map fun c => rsParity ((List.range 216).map fun i => data.getD (304 * i + c) 0)
  data ++ (List.range 32).flatMap fun t => cws.map fun p => p.getD t 0

/-! ### Modulation (R59, Table 02-8) -/

/-- The bits of a byte, most significant first. -/
def byteBits (b : Nat) : List Bool := (List.range 8).reverse.map b.testBit

/-- The modulation of a frame's data bits, pair by pair. -/
def rll : List Bool → List Bool
  | true :: true :: true :: true :: r => [true, false, true, false, false, false] ++ rll r
  | true :: true :: true :: false :: r => [true, false, false, false, false, false] ++ rll r
  | false :: true :: true :: true :: r => [false, false, true, false, false, false] ++ rll r
  | false :: true :: true :: false :: r => [false, true, false, false, false, false] ++ rll r
  | false :: false :: r => [false, true, false] ++ rll r
  | false :: true :: r => [false, false, true] ++ rll r
  | true :: false :: r => [true, false, false] ++ rll r
  | true :: true :: r => [true, false, true] ++ rll r
  | [_] => []
  | [] => []

/-- A bit pattern written as a number of n bits, first bit most significant. -/
def pattern (n v : Nat) : List Bool := (List.range n).reverse.map v.testBit

/-- Sync variants of Table 02-10. -/
def syncVariant (f : Nat) : List Bool :=
  pattern 10 ([0b0010010010, 0b0100100100, 0b0101001000, 0b0001010100,
               0b0100010010, 0b0010100100, 0b0001001010, 0b0101010000].getD (f % 8) 0)

/-- R63: the 30-bit sync of frame f. -/
def sync (f : Nat) : List Bool := pattern 20 0b01000000001000000001 ++ syncVariant f

/-- The 920,640 channel bits of a block on its lane (Table 02-9), before NRZI. -/
def blockBits (data : Bytes) : List Bool :=
  let rec100 := recordedBytes data
  (List.range 160).flatMap (fun _ => pattern 6 0b100000)
  ++ (List.range 496).flatMap (fun f => sync f ++ rll (((rec100.drop (152 * f)).take 152).flatMap byteBits))
  ++ (List.range 24).flatMap (fun _ => pattern 4 0b0100)

/-- NRZI from a starting level: a channel 1 is a transition (R60: the level starts at space). -/
def nrzi : Bool → List Bool → List Bool
  | _, [] => []
  | lvl, b :: bs => (lvl != b) :: nrzi (lvl != b) bs

/-- R228: violations of the run constraint d = 1, k = 7 in a channel bit string. -/
def rllViolations (bits : List Bool) : Nat :=
  (bits.foldl (fun (st : Nat × Nat) b =>
    if b then (0, st.2 + if st.1 = 0 then 1 else 0) else (st.1 + 1, st.2 + if st.1 + 1 = 8 then 1 else 0)) (1, 0)).2

/-! ### Stripe parity (R303 to R305) -/

/-- C[i][j] = inv (i xor (m + j)). -/
def cauchy (m i j : Nat) : Nat := gfInv (i ^^^ (m + j))

/-- P_i over the data members' bytes: absent members are empty and stand for zeros. -/
def parityOf (m i : Nat) (members : List Bytes) : Bytes :=
  (List.range 65536).map fun u =>
    ((List.range members.length).map fun j => gfMul (cauchy m i j) ((members.getD j []).getD u 0)).foldl (· ^^^ ·) 0

/-- The row of survivor t in G (R304). -/
def survivorRow (d m t : Nat) : List Nat :=
  if t < d then (List.range d).map fun j => if j = t then 1 else 0
  else (List.range d).map fun j => cauchy m (t - d) j

/-- One step of Gauss–Jordan elimination at column c over rows of 2d symbols. -/
def gaussStep (rows : List (List Nat)) (c : Nat) : List (List Nat) :=
  match (rows.zipIdx.find? fun r => decide (c ≤ r.2) && r.1.getD c 0 != 0) with
  | none => rows
  | some (prow, pi) =>
    let piv := prow.map (gfMul (gfInv (prow.getD c 0)))
    let swapped := (rows.set pi (rows.getD c [])).set c piv
    swapped.zipIdx.map fun r =>
      if r.2 = c then r.1 else List.zipWith (fun x y => x ^^^ gfMul (r.1.getD c 0) y) r.1 piv

/-- The inverse of a d × d matrix over GF(2^8). -/
def gfInverse (d : Nat) (g : List (List Nat)) : List (List Nat) :=
  let aug := g.zipIdx.map fun r => r.1 ++ (List.range d).map fun j => if j = r.2 then 1 else 0
  ((List.range d).foldl gaussStep aug).map fun r => r.drop d

/-- R304: the lane bytes of member f rebuilt from the first d survivors (member, bytes). -/
def rebuildMember (d m f : Nat) (survivors : List (Nat × Bytes)) : Bytes :=
  let sv := survivors.take d
  let h := gfInverse d (sv.map fun t => survivorRow d m t.1)
  let datum := fun (j u : Nat) =>
    ((List.range d).map fun r => gfMul ((h.getD j []).getD r 0) (((sv.getD r (0, [])).2).getD u 0)).foldl (· ^^^ ·) 0
  (List.range 65536).map fun u =>
    if f < d then datum f u
    else ((List.range d).map fun j => gfMul (cauchy m (f - d) j) (datum j u)).foldl (· ^^^ ·) 0

/-! ### The chip-loss code (R426 to R428) -/

/-- Multiplication by α in GF(2^64), generated by x^64 + x^4 + x^3 + x + 1. -/
def gf64Shift (a : Nat) : Nat := if a ≥ 2 ^ 63 then ((a * 2) % 2 ^ 64) ^^^ 0x1B else a * 2

def gf64MulN : Nat → Nat → Nat → Nat
  | 0, _, _ => 0
  | n + 1, a, b => (if b % 2 = 1 then a else 0) ^^^ gf64MulN n (gf64Shift a) (b / 2)

def gf64Mul (a b : Nat) : Nat := gf64MulN 64 a b

/-- α^n · a. -/
def gf64Alpha : Nat → Nat → Nat
  | 0, a => a
  | n + 1, a => gf64Alpha n (gf64Shift a)

/-- a^(2^n − 1) and a^(2^n) by repeated squaring, for the inverse. -/
def gf64InvGo : Nat → Nat → Nat → Nat
  | 0, _, acc => acc
  | n + 1, sq, acc => gf64InvGo n (gf64Mul sq sq) (gf64Mul acc sq)

/-- The multiplicative inverse in GF(2^64): a^(2^64 − 2). -/
def gf64Inv (a : Nat) : Nat := gf64InvGo 63 (gf64Mul a a) 1

/-- Symbols s0 to s7 of a word's 64 bytes (R426). -/
def wordSymbols (b : Bytes) : List Nat := (List.range 8).map fun i => ofLe (slice b (8 * i) 8)

/-- The 64 bytes of symbols s0 to s7. -/
def symbolBytes (s : List Nat) : Bytes := (List.range 8).flatMap fun i => le 8 (s.getD i 0)

/-- Σ s_i over a list of (index, symbol). -/
def synd0 (l : List (Nat × Nat)) : Nat := (l.map Prod.snd).foldl (· ^^^ ·) 0
/-- Σ α^i s_i. -/
def synd1 (l : List (Nat × Nat)) : Nat := (l.map fun e => gf64Alpha e.1 e.2).foldl (· ^^^ ·) 0

/-- R427: the ten stored symbols of a word's bytes at word address w. -/
def chipEncode (b : Bytes) (w : Nat) : List Nat :=
  let s := wordSymbols b
  let l := (s.zipIdx.map fun e => (e.2, e.1)) ++ [(10, w % 2 ^ 64)]
  let t0 := synd0 l
  let t1 := synd1 l
  let s9 := gf64Mul (t1 ^^^ gf64Alpha 8 t0) (gf64Inv (gf64Alpha 8 1 ^^^ gf64Alpha 9 1))
  s ++ [t0 ^^^ s9, s9]

/-- R426: the sixteen beats of the ten symbols: at beat b, line 4i + d is bit 4b + d of symbol i. -/
def burstBeats (s : List Nat) : List Nat :=
  (List.range 16).map fun b => s.zipIdx.foldl (fun v e => v + e.1 / 16 ^ b % 16 * 16 ^ e.2) 0

/-- What the check of R428 finds. -/
inductive ChipResult where
  | good (data : Bytes)
  | corrected (data : Bytes) (symbol : Nat)
  /-- Kind 0 DATA, 1 ADDRESS (Table 13-8). -/
  | uncorrectable (kind : Nat)
  deriving DecidableEq, Repr

/-- R428: decide on the ten symbols read for word w. -/
def chipDecode (s : List Nat) (w : Nat) : ChipResult :=
  let l := (s.zipIdx.map fun e => (e.2, e.1)) ++ [(10, w % 2 ^ 64)]
  let y0 := synd0 l
  let y1 := synd1 l
  if y0 = 0 ∧ y1 = 0 then .good (symbolBytes s)
  else if y0 = 0 then .uncorrectable 0
  else
    match (List.range 10).find? fun j => y1 == gf64Alpha j y0 with
    | some j => .corrected (symbolBytes (s.set j (s.getD j 0 ^^^ y0))) j
    | none => if y1 = gf64Alpha 10 y0 then .uncorrectable 1 else .uncorrectable 0

/-! ### Wedge fields (R55, R57, R58) -/

/-- The parity of the low n bits of v. -/
def parityBits (n v : Nat) : Bool := (List.range n).foldl (fun a i => a != v.testBit i) false

/-- Gray code of a 16-bit band number. -/
def gray (b : Nat) : Nat := b ^^^ (b / 2)

/-- Decode a Gray code: each bit is the exclusive-or of the code's bits at and above it. -/
def grayDecode (g : Nat) : Nat :=
  g ^^^ (g / 2) ^^^ (g / 4) ^^^ (g / 8) ^^^ (g / 16) ^^^ (g / 32) ^^^ (g / 64) ^^^ (g / 128) ^^^ (g / 256)
    ^^^ (g / 512) ^^^ (g / 1024) ^^^ (g / 2048) ^^^ (g / 4096) ^^^ (g / 8192) ^^^ (g / 16384) ^^^ (g / 32768)

/-- R55: the band of an 18-bit band field (g15 to g0, P1, P0), unless a parity fails. -/
def bandField (f : Nat) : Option Nat :=
  let g := f / 4
  if parityBits 8 (g / 256) = f.testBit 1 ∧ parityBits 8 g = f.testBit 0 then some (grayDecode g) else none

/-- R56: the wedge index of a 10-bit index field (9 bits, then even parity), unless the parity fails. -/
def indexField (f : Nat) : Option Nat := if parityBits 10 f then none else some (f / 2 % 512)

/-- One bit of CRC-10 with x^10 + x^9 + x^5 + x^4 + x + 1, most significant first (Table 02-6). -/
def crc10Bit (crc : Nat) (bit : Bool) : Nat :=
  let top := crc.testBit 9 != bit
  let sh := crc * 2 % 1024
  if top then sh ^^^ 0x233 else sh

/-- CRC-10 over the low n bits of v, most significant first. -/
def crc10 (n v : Nat) : Nat := ((List.range n).reverse.map v.testBit).foldl crc10Bit 0

/-- LAYER, BAND and ANGLE of the 40 address bits of a rail address mark, when the CRC checks and the angle index exists
(Table 02-6, R52). -/
def railAddress (w : Nat) : Option (Nat × Nat × Nat) :=
  let angle := w / 2 ^ 10 % 2 ^ 12
  if crc10 30 (w / 2 ^ 10 % 2 ^ 30) = w % 2 ^ 10 ∧ angle < 3072 then
    some (w / 2 ^ 38 % 4, w / 2 ^ 22 % 2 ^ 16, angle)
  else none

end Sys2Proof.Machine
end

