-- ==== Sys2Proof/Machine/Units.lean ====
section
/-! DEFINITION. Basin units (R445 to R447, R574, R579): every unit is free, reserved or held, and each move goes
between two terms as one step. Which free unit is taken is the model's choice: the lowest (log entry 9). -/

namespace Sys2Proof.Machine

/-- Installed units. -/
def Dev.installed (d : Dev) : Nat := d.rd .bsUnitsInstalled

/-- First unit of the service area, the top 1/32 of the basin (Table 13-7). -/
def Dev.serviceStart (d : Dev) : Nat := d.installed - d.installed / 32

/-- Unit u has been initialised (R423). -/
def Dev.unitInit (d : Dev) (u : Nat) : Bool :=
  if d.serviceStart ≤ u then decide (u - d.serviceStart < d.basin.initSvc)
  else decide (u < d.basin.initNext) || d.basin.initExtra.contains u

/-- Units not yet initialised. -/
def Dev.uninit (d : Dev) : Nat :=
  d.installed - (d.basin.initNext + d.basin.initExtra.length + d.basin.initSvc)

/-- Unit u lies in the import window asked for. -/
def Dev.inWindow (d : Dev) (u : Nat) : Bool :=
  match d.basin.window with
  | some (b, n) => decide (b ≤ u ∧ u < b + n)
  | none => false

/-- Unit u is free: initialised, outside the service area, without owner. -/
def Dev.unitFree (d : Dev) (u : Nat) : Bool :=
  decide (u < d.serviceStart) && d.unitInit u && !(d.basin.owned.any fun o => o.1 == u)

/-- The lowest n numbers from u that pass a test, within fuel. -/
def lowest (ok : Nat → Bool) : Nat → Nat → Nat → List Nat
  | 0, _, _ => []
  | _, _, 0 => []
  | fuel + 1, u, n + 1 => if ok u then u :: lowest ok fuel (u + 1) n else lowest ok fuel (u + 1) (n + 1)

/-- The lowest n free units outside the import window. -/
def Dev.pickFree (d : Dev) (n : Nat) : List Nat :=
  lowest (fun u => d.unitFree u && !d.inWindow u) d.serviceStart 0 n

/-- The fill of R447 in 0.1 %. -/
def Dev.fill (d : Dev) : Nat :=
  let un := d.uninit
  let tot := d.installed - un
  if tot = 0 then 0 else (d.rd .bsUnitsReserved + d.rd .bsUnitsHeld - un) * 1000 / tot

/-- Report the fill, and post its crossings (R447). -/
def Dev.fillUpdate (d : Dev) : Dev :=
  let f := d.fill
  let hi := 10 * d.rd .bsFillhigh
  let d := d.wr .bsFill [] f
  if !d.basin.fillHigh && decide (hi ≤ f) then
    (d.updBasin fun b => { b with fillHigh := true }).raise 0x6A0 evBasinFillHigh (le 2 f)
  else if d.basin.fillHigh && decide (f + 20 < hi) then
    let d := d.updBasin fun b => { b with fillHigh := false }
    let d := if d.rd .thThrState = thEnforced then d else { d with share := { d.share with inForce := false, allow := [] } }
    d.raise 0x6A0 evBasinFillClear (le 2 f)
  else d

/-- Take n free units for an owner, reserved or held; nothing changes when too few are free. -/
def Dev.takeUnits (d : Dev) (o : Owner) (n : Nat) (reserved : Bool) : Option Dev :=
  let us := d.pickFree n
  if us.length < n ∨ d.rd .bsUnitsFree < n then none
  else
    let d := d.updBasin fun b => { b with owned := b.owned ++ us.map fun u => (u, o, reserved),
                                          foreign := b.foreign ++ (us.filter fun u => !b.foreign.contains u),
                                          known := b.known.filter fun w => !us.contains (w / 16384) }
    some (((d.dec .bsUnitsFree [] n).inc (if reserved then .bsUnitsReserved else .bsUnitsHeld) [] n).fillUpdate)

/-- Move up to n reserved units of an owner to held, as data arrives (R363, R446). -/
def Dev.arriveUnits (d : Dev) (o : Owner) (n : Nat) : Dev :=
  let mine := (d.basin.owned.filter fun e => e.2.1 == o && e.2.2).map Prod.fst
  let us := mine.take n
  let d := d.updBasin fun b =>
    { b with owned := b.owned.map fun e => if us.contains e.1 then (e.1, e.2.1, false) else e }
  (d.dec .bsUnitsReserved [] us.length).inc .bsUnitsHeld [] us.length

/-- Give the units of one owner to another; their terms do not change. -/
def Dev.renameUnits (d : Dev) (o o' : Owner) : Dev :=
  d.updBasin fun b => { b with owned := b.owned.map fun e => if e.2.1 = o then (e.1, o', e.2.2) else e }

/-- Every unit of the window has passed (R574). -/
def Dev.windowPassed (d : Dev) : Bool :=
  match d.basin.window with
  | none => false
  | some (b, n) =>
    decide ((d.basin.owned.filter fun e => e.2.1 == .importWindow && decide (b ≤ e.1 ∧ e.1 < b + n)).length = n)

/-- Free units of the window pass to it at once (R574), and IMPORT.READY follows. -/
def Dev.passWindow (d : Dev) : Dev :=
  match d.basin.window with
  | none => d.wr .svImportReady [] 0
  | some (b, n) =>
    let us := ((List.range n).map (b + ·)).filter d.unitFree
    let d := d.updBasin fun x => { x with owned := x.owned ++ us.map fun u => (u, .importWindow, false) }
    let d := (d.dec .bsUnitsFree [] us.length).inc .bsUnitsHeld [] us.length
    d.wr .svImportReady [] (if d.windowPassed then 1 else 0)

/-- Release every unit of an owner: reserved or held to free; a unit of the import window then passes to it. The bytes
released count toward the budget of R378. -/
def Dev.releaseUnits (d : Dev) (o : Owner) : Dev :=
  let mine := d.basin.owned.filter fun e => e.2.1 == o
  if mine = [] then d
  else
    let nr := (mine.filter fun e => e.2.2).length
    let nh := mine.length - nr
    let d := d.updBasin fun b => { b with owned := b.owned.filter fun e => e.2.1 != o }
    let d := (d.dec .bsUnitsReserved [] nr).inc .bsUnitsFree [] nr
    let d := (d.dec .bsUnitsHeld [] nh).inc .bsUnitsFree [] nh
    let d := { d with share := { d.share with released := d.share.released + nh * 2 ^ 20 } }
    (if d.basin.window.isSome then d.passWindow else d).fillUpdate

/-- Units that an owner that asks for n could take now. -/
def Dev.couldTake (d : Dev) (n : Nat) : Nat := min (d.pickFree n).length (d.rd .bsUnitsFree)

/-- Work that needs units without a grant takes those that are free, and waits for the rest in order of request (R579). -/
def Dev.needUnits (d : Dev) (o : Owner) (n : Nat) : Dev :=
  let k := if d.basin.waiting ≠ [] then 0 else d.couldTake n
  let d := if k = 0 then d else (d.takeUnits o k false).getD d
  if n ≤ k then d else d.updBasin fun b => { b with waiting := b.waiting ++ [⟨o, n - k⟩] }

/-- Units that an owner holds or has reserved. -/
def Dev.unitsOwned (d : Dev) (o : Owner) : Nat := (d.basin.owned.filter fun e => e.2.1 == o).length

/-- The owner waits for units (R579). -/
def Dev.unitsWait (d : Dev) (o : Owner) : Bool := d.basin.waiting.any fun w => w.owner == o

/-- An owner's units stay held until each of the blocks is on the medium (Table 13-7). -/
def Dev.holdFor (d : Dev) (o : Owner) (blocks : List (Nat × Nat)) : Dev :=
  d.updBasin fun b => { b with holds := b.holds ++ [(o, blocks)] }

/-- A block is on the medium, or has left the basin: the owners that waited for it alone release their units. -/
def Dev.blockGone (d : Dev) (key : Nat × Nat) : Dev :=
  let hs := d.basin.holds.map fun h => (h.1, h.2.filter fun k => k != key)
  let done := (hs.filter fun h => h.2.isEmpty).map Prod.fst
  let d := d.updBasin fun b => { b with holds := hs.filter fun h => !h.2.isEmpty }
  done.foldl (fun d o => d.releaseUnits o) d

/-- The owner leaves with its holds: its write was aborted or failed. -/
def Dev.dropOwner (d : Dev) (o : Owner) : Dev :=
  ((d.updBasin fun b => { b with holds := b.holds.filter fun h => h.1 != o,
                                 waiting := b.waiting.filter fun w => w.owner != o }).releaseUnits o)

/-- Units for n bytes. -/
def unitsFor (bytes : Nat) : Nat := ceilDiv bytes (2 ^ 20)

/-- BASIN_UNIT_WAIT_SERVED, R579: the oldest work waiting takes the units that have been freed, and waits for those it still
lacks. -/
def serveWait (d : Dev) : Dev :=
  match d.basin.waiting with
  | [] => d
  | w :: ws =>
    let k := d.couldTake w.units
    if k = 0 then d
    else ((d.takeUnits w.owner k false).getD d).updBasin fun b => { b with
      waiting := if w.units ≤ k then ws else ⟨w.owner, w.units - k⟩ :: ws }

/-- The data a read of a word that arrives now returns: the last queued write to it, else the DRAM (R311, R435). -/
def wordNow (mem : List Host.Cell) (d : Dev) (w : Nat) : Bytes :=
  match ((d.basin.chans.flatMap fun c => c.2.writes ++ c.2.overflow).filter fun e => e.data != [] && e.word == w).getLast? with
  | some e => e.data
  | none => memRead mem (64 * w) 64

end Sys2Proof.Machine
end

