-- ==== Sys2Proof/Machine/Media.lean ====
section
/-! DEFINITION. Takes, stripes, blocks, lane queues and the catalogue (chapters 02, 08, 09 and 12): what the commands
that write, commit, check and move blocks share. -/

namespace Sys2Proof.Machine

/-! ### Positions (Table 02-13) -/

def pbaOf (p L k row : Nat) : Nat := p * 2 ^ 22 + L * 2 ^ 20 + k * 2 ^ 17 + row
def pbaSurface (a : Nat) : Nat := a / 2 ^ 22 % 32
def pbaLayer (a : Nat) : Nat := a / 2 ^ 20 % 4
def pbaLane (a : Nat) : Nat := a / 2 ^ 17 % 8
def pbaRow (a : Nat) : Nat := a % 2 ^ 17

/-- R68: bits [31:27] zero, lane 1 to 7, row at most 100,639. -/
def pbaOk (a : Nat) : Bool := decide (a < 2 ^ 27 ∧ pbaLane a ≠ 0 ∧ pbaRow a ≤ 100639)

/-- The surfaces that hold a copy of the catalogue. -/
def catSurfaces : List Nat := [0, 9, 18, 27]

/-- Layer and row of the n-th catalogue row in append order (R69). -/
def catPosition (n : Nat) : Nat × Nat := (n / 640, 100000 + n % 640)

/-! ### Geometry (Table 12-1) -/

def geometryD (g : Nat) : Nat := match g with | 1 => 30 | 2 => 24 | 3 => 16 | 4 => 32 | _ => 28
def geometryM (g : Nat) : Nat := match g with | 1 => 2 | 2 => 8 | 3 => 0 | 4 => 0 | _ => 4

/-! ### Records of elements -/

def Dev.pkS (d : Dev) (p : Nat) : Pk := tget {} d.pk p
def Dev.updPk (d : Dev) (p : Nat) (f : Pk → Pk) : Dev := { d with pk := tset d.pk p (f (tget {} d.pk p)) }
def Dev.take? (d : Dev) (id : Nat) : Option Take := d.takes.find? fun t => t.id == id
def Dev.updTake (d : Dev) (id : Nat) (f : Take → Take) : Dev :=
  { d with takes := d.takes.map fun t => if t.id = id then f t else t }
def Dev.stripe? (d : Dev) (id : Nat) : Option Stripe := d.stripes.find? fun t => t.id == id
def Dev.updStripe (d : Dev) (id : Nat) (f : Stripe → Stripe) : Dev :=
  { d with stripes := d.stripes.map fun t => if t.id = id then f t else t }
def Dev.blk? (d : Dev) (id : Nat) : Option Blk := d.blks.find? fun b => b.id == id
def Dev.updBlk (d : Dev) (id : Nat) (f : Blk → Blk) : Dev :=
  { d with blks := d.blks.map fun b => if b.id = id then f b else b }
def Dev.updCat (d : Dev) (f : Catalogue → Catalogue) : Dev := { d with cat := f d.cat }

/-- SERVICE.TAKE.OPEN and COUNT follow the takes (Table 12-13). -/
def Dev.takeCounts (d : Dev) : Dev :=
  (d.wr .svTakeOpen [] (d.takes.filter fun t => t.state == .opened || t.state == .closing).length).wr
    .svTakeCount [] d.takes.length

/-- Waiting STATs up to and including that of a tag go without the flag: type 20 stands for such a STAT, 22 for one sent again. -/
def unflagThrough (tag : Nat) (q : List (Nat × Bytes)) : List (Nat × Bytes) :=
  let own := fun (x : Nat × Bytes) => (x.1 == 4 || x.1 == 21) && ofLe (slice x.2 0 2) == tag
  if q.any own then
    let n := (q.takeWhile fun x => !own x).length + 1
    (q.take n).map (fun x => if x.1 = 4 then (20, x.2) else if x.1 = 21 then (22, x.2) else x) ++ q.drop n
  else q

/-- Completions of ring r that wait, up to and including that of the descriptor seq, go without the flag. -/
def plainThrough (r seq : Nat) (q : List Compl) : List Compl :=
  let own := fun (k : Compl) => k.ring == r && k.seq == seq && !k.marker
  if q.any own then
    let n := (q.takeWhile fun k => !own k).length + 1
    (q.take n).map (fun k => if k.ring = r then { k with plain := true } else k) ++ q.drop n
  else q

/-- R380, R343, R370: enter a failed non-FUA write in the deferred log of its ring or link, set the flag, post
DEFERRED_ERROR; a full log counts the entry as lost (R344). -/
def Dev.deferError (d : Dev) (w : Writer) (detail : Nat) : Dev :=
  let e : Deferred := { seq := match w.origin with | .ring _ s => s | .link _ t => t | .past _ s => s,
                        cookie := w.cookie, op := w.op, detail := detail, target := w.target, offset := w.offset }
  let onRing := fun (r : Nat) =>
    -- the failed command's own completion precedes every completion that carries the flag for it
    let d := if (d.sqS r).unread then d
      else d.updCq (d.rd .sqCq [r]) fun q => { q with waiting := plainThrough r e.seq q.waiting }
    let d := if (d.sqS r).deferred.length < 256 then
        (d.updSq r fun q => { q with deferred := q.deferred ++ [e], unread := true }).inc .sqDeferCount [r]
      else (d.updSq r fun q => { q with unread := true }).inc .sqDeferLost [r]
    d.raise (0x500 + r) evDeferredError (le 4 e.seq ++ le 4 detail)
  match w.origin with
  | .ring r _ => onRing r
  | .past r _ => onRing r
  | .link l tag =>
    -- R370: the STAT of the failed command precedes every STAT that carries the flag for it
    let d := if (d.lk l).unread then d else d.updLk l fun q => { q with
      txq := unflagThrough tag q.txq, resend := unflagThrough tag q.resend }
    let d := if (d.lk l).deferred.length < 256 then
        (d.updLk l fun q => { q with deferred := q.deferred ++ [e], unread := true }).inc .lnDeferCount [l]
      else (d.updLk l fun q => { q with unread := true }).inc .lnDeferLost [l]
    d.raise (0x600 + 16 * l + 1) evDeferredError (le 4 tag ++ le 4 detail)

/-- A covered write of a ring could not reach the medium: FENCE MEDIA reports it (R337). -/
def Dev.noteFailed (d : Dev) (w : Writer) : Dev :=
  match w.origin with
  | .ring r seq => d.updSq r fun q => { q with failed := if q.failed.contains seq then q.failed else q.failed ++ [seq] }
  | _ => d

/-- Two records of one write command. -/
def Writer.same (a b : Writer) : Bool := a.origin == b.origin && a.serial == b.serial

/-- The write that a record names is in flight: a command with its tag accepted since is another one. -/
def Dev.inFlight (d : Dev) (w : Writer) : Bool := d.cmds.any fun c => c.origin == w.origin && c.serial == w.serial

/-- Of the failed blocks of each write, the one at the lowest offset. -/
def firstFailed (ws : List Writer) : List Writer :=
  (ws.filter fun w => !(ws.any fun x => x.same w && decide (x.offset < w.offset))).eraseDups

/-- A write is reported once (R343, R370): no block that is left carries it any more. -/
def Dev.forgetWriter (d : Dev) (w : Writer) : Dev :=
  let rest := fun (l : List Writer) => l.filter fun x => !x.same w
  { d with
    blks := d.blks.map fun (b : Blk) => { b with writers := rest b.writers },
    takes := d.takes.map fun (t : Take) => { t with gather := t.gather.map fun (g : GBlk) => { g with writers := rest g.writers } },
    stripes := d.stripes.map fun (s : Stripe) => { s with writers := rest s.writers },
    cat := { d.cat with owed := d.cat.owed.filter fun e => !e.2.same w } }

/-- The writes that failed blocks carry fail with a detail: a command still in flight ends with class MEDIA (or the class
given), and a write already completed without FUA is reported as deferred, once, with its first failed block (R328, R343). -/
def Dev.failWriters (d : Dev) (cls detail : Nat) (ws : List Writer) : Dev :=
  (firstFailed ws).foldl (fun d w =>
    let d := d.noteFailed w
    if d.inFlight w then d.finish w.origin cls detail 0
    else if w.fua then d
    else (d.deferError w detail).forgetWriter w) d

/-- R573: an event caused by the commands of a block's writers that are still in flight. -/
def Dev.raiseFor (d : Dev) (os : List Origin) (src code : Nat) (payload : Bytes) : Dev :=
  let rings := os.filterMap fun o => match o with
    | .ring r _ => if (d.cmd o).isSome then some (r, src) else none
    | _ => none
  ({ d with caused := d.caused ++ rings.filter fun c => !d.caused.contains c }).raise src code payload

/-- R573: the commands that wait for catalogue records. -/
def Dev.recordWaiters (d : Dev) : List Origin := (d.cmds.filter fun c => c.phase == .records).map Cmd.origin

/-- R573: the commands in flight whose data some blocks carry, or whose completion waits for them. -/
def Dev.causedBy (d : Dev) (ids : List Nat) : List Origin :=
  (d.blks.filter fun b => ids.contains b.id).flatMap (fun b => b.writers.map Writer.origin)
    ++ (d.cmds.filter fun c => c.waits.any fun i => ids.contains i).map Cmd.origin

/-! ### Catalogue (R69 to R74, R583) -/

/-- Append a record in a group; it is written by the next catalogue row (R583). -/
def Dev.appendRec (d : Dev) (rtype group : Nat) (body : Bytes) : Dev :=
  let c := d.cat
  { d with cat := { c with
      records := c.records ++ [{ rtype := rtype, epoch := c.epoch, seq := c.nextSeq, time := d.time, body := body,
                                 group := group }],
      nextSeq := c.nextSeq + 1 } }

/-- Begin a new group of records. -/
def Dev.newGroup (d : Dev) : Dev := { d with cat := { d.cat with nextGroup := d.cat.nextGroup + 1 } }

/-- Append one record as a group of its own. -/
def Dev.append1 (d : Dev) (rtype : Nat) (body : Bytes) : Dev :=
  let d := d.newGroup
  d.appendRec rtype d.cat.nextGroup body

/-- Free catalogue rows of the 2,560. -/
def Dev.catFree (d : Dev) : Nat := 2560 - d.cat.nextRow

/-- R74: fewer than two free catalogue rows stop further user writes, and CATALOG_FULL is posted once. -/
def Dev.catalogFull (d : Dev) : Bool := decide (d.catFree < 2)

/-- CATALOG_FULL is posted once, for the commands that bring it about (R74, R573). -/
def Dev.postCatalogFull (d : Dev) (os : List Origin) : Dev :=
  if d.catalogFull && !d.cat.fullPosted then
    (d.updCat fun c => { c with fullPosted := true }).raiseFor os 0x701 evCatalogFull (le 4 d.catFree)
  else d

/-- The 512 bytes of a record (Table 02-14). -/
def CatRec.bytes (r : CatRec) : Bytes :=
  let b := le 2 r.rtype ++ le 2 r.body.length ++ le 4 r.epoch ++ le 8 r.seq ++ le 8 r.time ++ zeros 8
           ++ slice r.body 0 472 ++ zeros 4
  b ++ le 4 (crc32c b)

/-- A record slot as read: its record, when its CRC checks (R71). -/
def recordOf (b : Bytes) : Option CatRec :=
  if ofLe (slice b 508 4) = crc32c (slice b 0 508) ∧ ofLe (slice b 0 2) ≠ 0 then
    some { rtype := ofLe (slice b 0 2), epoch := ofLe (slice b 4 4), seq := ofLe (slice b 8 8),
           time := ofLe (slice b 16 8), body := slice b 32 (ofLe (slice b 2 2)), onMedium := true }
  else none

/-- R71: accept the records whose SEQ is one more than the last accepted SEQ; the first call names the SEQ of a volume's first record (log entry 105). -/
def acceptRecords : Nat → List Bytes → List CatRec
  | _, [] => []
  | next, b :: bs =>
    match recordOf b with
    | some r => if r.seq = next then r :: acceptRecords (next + 1) bs else acceptRecords next bs
    | none => acceptRecords next bs

/-- Records not yet on the medium and not in the row being written, oldest first. -/
def Dev.unwritten (d : Dev) : List CatRec :=
  let busy := match d.cat.writing with | some w => w.lanes.flatten | none => []
  d.cat.records.filter fun r => !r.onMedium && !busy.contains r.seq

/-- Fill blocks of 128 slots group by group (R583): a group that does not fit closes the block; one that does not fit
an empty block fills consecutive blocks. Records come in order; the head block is last in the accumulator. -/
def packBlocks : List CatRec → List (List Nat) → Nat → List (List Nat)
  | [], acc, _ => acc
  | r :: rs, acc, group =>
    let size := (r :: rs.takeWhile fun x => x.group == r.group).length
    match acc with
    | [] => packBlocks rs [[r.seq]] r.group
    | b :: bs =>
      if r.group = group then
        if b.length < 128 then packBlocks rs ((b ++ [r.seq]) :: bs) group else packBlocks rs ([r.seq] :: b :: bs) group
      else if b.length + size ≤ 128 then packBlocks rs ((b ++ [r.seq]) :: bs) r.group
      else packBlocks rs ([r.seq] :: b :: bs) r.group

/-- The blocks of the next catalogue row: at most seven, padded with empty blocks. -/
def Dev.nextCatLanes (d : Dev) : List (List Nat) :=
  let bs := (packBlocks d.unwritten [] 0).reverse.take 7
  bs ++ List.replicate (7 - bs.length) []

/-- Seven blocks are full of records (R583). -/
def Dev.catRowFull (d : Dev) : Bool :=
  let bs := (packBlocks d.unwritten [] 0).reverse
  decide (7 < bs.length) || (decide (bs.length = 7) && bs.all fun b => b.length == 128)

/-- The 65,536 bytes of a catalogue block. -/
def Dev.catBlock (d : Dev) (seqs : List Nat) : Bytes :=
  slice (seqs.flatMap fun s => match d.cat.records.find? fun r => r.seq == s with
    | some r => r.bytes
    | none => zeros 512) 0 65536

/-- Bodies of the records this chapter lays out. -/
def reallocBody (old new level flags take offset : Nat) : Bytes :=
  le 4 old ++ le 4 new ++ [level, flags, 0, 0] ++ le 8 take ++ le 8 offset ++ zeros 4

/-- Table 08-5: the row counters of every surface at one instant. -/
def Dev.allocBody (d : Dev) : Bytes :=
  (List.range 32).flatMap fun p => le 4 (d.rd .rowAlloc [p]) ++ le 4 (d.rd .rowWritten [p]) ++ le 4 (d.rd .rowAbandoned [p])

/-- Consecutive abandoned rows as (layer, first row, count). -/
def rowRanges : List (Nat × Nat) → List (Nat × Nat × Nat)
  | [] => []
  | (L, r) :: t =>
    match rowRanges t with
    | (L', f, n) :: rest => if L' = L ∧ f = r + 1 then (L, r, n + 1) :: rest else (L, r, 1) :: (L', f, n) :: rest
    | [] => [(L, r, 1)]

/-- Table 09-3: the DEFECT bodies of a surface, at most 58 dead PBAs and 29 ranges each, within 472 bytes. -/
def defectBodies (p : Nat) : Nat → List Nat → List (Nat × Nat × Nat) → List Bytes
  | 0, _, _ => []
  | fuel + 1, dead, ranges =>
    if dead = [] ∧ ranges = [] then []
    else
      let nd := min 58 dead.length
      let nr := min (min 29 ranges.length) ((468 - 4 * nd) / 8)
      ([p, nd, nr, 0] ++ (dead.take nd).flatMap (le 4)
        ++ (ranges.take nr).flatMap fun x => [x.1, 0] ++ le 2 x.2.2 ++ le 4 x.2.1)
        :: defectBodies p fuel (dead.drop nd) (ranges.drop nr)

/-- R272: append the ALLOC record and, in one group with it, the DEFECT records of the surfaces whose lists grew. -/
def Dev.appendAlloc (d : Dev) : Dev :=
  let d := d.newGroup
  let g := d.cat.nextGroup
  let d := d.appendRec 0x0022 g d.allocBody
  (List.range 32).foldl (fun d p =>
    let k := d.pkS p
    if k.dead = [] ∧ k.abandoned = [] then d
    else
      let d := (defectBodies p (k.dead.length + k.abandoned.length) k.dead (rowRanges k.abandoned)).foldl
        (fun d b => d.appendRec 0x0021 g b) d
      d.updPk p fun k => { k with dead := [], abandoned := [] }) d

/-- SEQs of every record not yet on the medium. -/
def Dev.openRecs (d : Dev) : List Nat := (d.cat.records.filter fun r => !r.onMedium).map CatRec.seq

/-- R583: the oldest record has waited 60 s. -/
def Dev.wantRow (d : Dev) : Dev := d.updCat fun c => { c with wanted := true }

/-- R583: a catalogue row is due: a record has waited 60 s, or a command waits for one that is neither on the medium nor in the
row being written. -/
def Dev.rowDue (d : Dev) : Bool :=
  d.cat.wanted || d.cmds.any fun c => c.phase == .records && c.recs.any fun s => d.unwritten.any fun r => r.seq == s

/-! ### Surfaces (R389, R394) -/

/-- R49: the format word of layer L of surface p was read at the load. A layer declared unreadable counts as one without a free
user or spare row; catalogue rows, BLOCK_WRITEs, OPC, seeks and reads there go on as elsewhere (DESIGN CHOICE, log entry 138). -/
def Dev.layerReadable (d : Dev) (p L : Nat) : Bool := !(d.pkS p).unreadable.contains L

/-- Layer L of surface p has a free user row. -/
def Dev.hasUserRow (d : Dev) (p L : Nat) : Bool := decide (d.rd .rowNext [p, L] < 98400) && d.layerReadable p L

/-- The lowest layer of surface p with a free user row that is not closed to writing (R278, R389). -/
def Dev.writeLayer (d : Dev) (p : Nat) : Option Nat :=
  (List.range 4).find? fun L => d.hasUserRow p L && d.rd .opcStatus [p, L] != 5

/-- The present layer of surface p: the lowest that has a free user row (R389). -/
def Dev.presentLayer (d : Dev) (p : Nat) : Option Nat := (List.range 4).find? (d.hasUserRow p)

/-- R394: the surface is available for writing: no cause holds it off, a lane is enabled, and its present layer is not closed
(R278). Blocks that its queues hold already go on to the next layer, since a closed one counts as full (log entry 146). -/
def Dev.available (d : Dev) (p : Nat) : Bool :=
  !(d.unavailable.any fun u => u.1 == p)
    && ((List.range 7).any fun k => !d.on .wrLaneDis [p, k])
    && (match d.presentLayer p with | some L => d.rd .opcStatus [p, L] != 5 | none => false)

/-- Make a surface unavailable for a cause, or end that cause. -/
def Dev.setUnavailable (d : Dev) (p cause : Nat) (on : Bool) : Dev :=
  { d with unavailable := (d.unavailable.filter fun u => u != (p, cause)) ++ if on then [(p, cause)] else [] }

/-- Surface at group position g of group q (Table 12-2). -/
def Volume.at (v : Volume) (q g : Nat) : Nat :=
  v.positions.getD ((geometryD v.geometry + geometryM v.geometry) * q + g) 0xFF

/-- R394: the surface for a member that falls on position g: its own when that is available, else the next available one in
increasing position order, wrapping, those that hold no member of the stripe first. -/
def Dev.placeMember (d : Dev) (v : Volume) (q g : Nat) (used : List Nat) : Option Nat :=
  let G := geometryD v.geometry + geometryM v.geometry
  let cand := ((List.range G).map fun i => v.at q ((g + i) % G)).filter d.available
  if d.available (v.at q g) then some (v.at q g)
  else match cand.find? fun p => !used.contains p with
    | some p => some p
    | none => cand.head?

/-! ### Blocks and lane queues -/

/-- The present place of a position: moves are followed (R266, R297). -/
def follow (moved : Tab Nat) : Nat → Nat → Nat
  | 0, a => a
  | n + 1, a => match tfind moved a with
    | some b => follow moved n b
    | none => a

/-- The present place of a position. -/
def Dev.resolve (d : Dev) (pba : Nat) : Nat := follow d.moved (d.moved.length + 1) pba

/-- Put a block at the tail of its lane queue. -/
def Dev.enqueue (d : Dev) (p lane id : Nat) : Dev :=
  d.updPk p fun k => { k with queues := k.queues.set (lane - 1) (k.queues.getD (lane - 1) [] ++ [id]) }

/-- Put a block at the head of its lane queue (R261, R265). -/
def Dev.requeue (d : Dev) (p lane id : Nat) : Dev :=
  d.updPk p fun k => { k with queues := k.queues.set (lane - 1) (id :: k.queues.getD (lane - 1) []) }

/-- Take a block out of every queue. -/
def Dev.unqueue (d : Dev) (p id : Nat) : Dev :=
  d.updPk p fun k => { k with queues := k.queues.map fun q => q.filter fun x => x != id }

/-- A new block in the basin; its number is the old `nextBlk`. -/
def Dev.addBlk (d : Dev) (b : Blk) : Dev :=
  { d with blks := d.blks ++ [{ b with id := d.nextBlk }], nextBlk := d.nextBlk + 1 }

/-- The key under which a block keeps its write's units held. -/
def Blk.key (b : Blk) : Nat × Nat :=
  match b.kind with
  | .take => (b.take, b.offset)
  | .parity => (2 ^ 65, b.stripe)
  | _ => (2 ^ 66, b.id)

/-- Nothing in the basin still carries data under a key. -/
def Dev.keyGone (d : Dev) (key : Nat × Nat) : Bool :=
  !(d.blks.any fun b => b.key == key)
    && !(d.takes.any fun t => t.id == key.1 && t.gather.any fun g => g.block == key.2)

/-- A block leaves the basin: every command and stripe stops waiting for it, and its units may be released. -/
def Dev.dropBlk (d : Dev) (id : Nat) : Dev :=
  match d.blk? id with
  | none => d
  | some b =>
    let d := { d with blks := d.blks.filter fun x => x.id != id,
                      cmds := d.cmds.map fun (c : Cmd) => { c with waits := c.waits.filter fun w => w != id },
                      stripes := d.stripes.map fun (s : Stripe) => { s with waits := s.waits.filter fun w => w != id } }
    let d := if d.keyGone b.key then d.blockGone b.key else d
    if b.copyOf.isSome then d.releaseUnits (.copy id) else d

/-- A block cannot reach the medium (R267, R389, R395): it leaves, and its writes fail. -/
def Dev.loseBlk (d : Dev) (id cls detail : Nat) : Dev :=
  match d.blk? id with
  | none => d
  | some b =>
    let d := d.unqueue b.surface id
    let d := { d with cmds := d.cmds.map fun (c : Cmd) =>
      if c.waits.contains id ∧ (c.op = 0x04 ∨ c.op = 0x09 ∨ c.op = 0x19) then c.fail 0 detail else c }
    -- the map keeps the last position tried, so that a read can still rebuild the block from its stripe
    let d := match b.kind, b.pba with
      | .take, some a => d.updStripe b.stripe fun s => { s with pbas := tset s.pbas (7 * b.member + (b.lane - 1)) a }
      | .parity, some a => d.updStripe b.stripe fun s => { s with pbas := tset s.pbas (7 * b.member + (b.lane - 1)) a }
      | _, _ => d
    let d := if b.kind = .take ∨ b.kind = .parity then d.updTake b.take fun t => { t with lost := true } else d
    let d := if b.kind = .take then d.updTake b.take fun t =>
        let tb : TBlk := tget {} t.blocks b.offset
        if tb.stripe = some b.stripe ∧ !(t.gather.any fun g => g.block == b.offset) then
          { t with blocks := tset t.blocks b.offset { tb with held := none, pba := b.pba } }
        else t
      else d
    (d.failWriters cls detail b.writers).dropBlk id

/-- Members of a stripe and the surfaces on which their blocks are: in the basin, or where the map has them now. -/
def Dev.holders (d : Dev) (s : Stripe) : List (Nat × Nat) :=
  ((d.blks.filter fun b => (b.kind == .take || b.kind == .parity) && b.stripe == s.id && b.copyOf.isNone).map fun b =>
      (b.member, b.surface))
    ++ s.pbas.map fun e => (e.1 / 7, pbaSurface (d.resolve e.2))

/-- R394: the stripe is reduced: a surface carries two of its members. -/
def Dev.reducedStripe (d : Dev) (s : Stripe) : Bool :=
  let l := d.holders s
  l.any fun a => l.any fun b => a.2 == b.2 && a.1 != b.1

/-- R395: place a block that leaves its lane queue on the next available surface of its group, skipping those where it
has been exhausted and, where possible, those that hold a member of its stripe: at the head of its lane's queue, for the next
row allocated there (log entry 126). -/
def Dev.placeElsewhere (d : Dev) (id detail : Nat) : Dev :=
  match d.blk? id, d.volume with
  | some b, some v =>
    match d.stripe? b.stripe with
    | none => d.loseBlk id clsMedia detail
    | some st =>
      let G := geometryD v.geometry + geometryM v.geometry
      let here := (List.range G).find? fun g => v.at st.group g == b.surface
      let cand := ((List.range G).map fun i => v.at st.group (((here.getD 0) + 1 + i) % G)).filter fun p =>
        d.available p && !(b.surface :: b.exhausted).contains p
      let holders := (d.holders st).map Prod.snd
      let choice := match cand.find? fun p => !holders.contains p with | some p => some p | none => cand.head?
      match choice with
      | none => d.loseBlk id clsMedia detail
      | some p =>
        let d := d.unqueue b.surface id
        let d := d.updBlk id fun x => { x with surface := p, fails := 0 }
        let d := d.raiseFor (d.causedBy [id]) 0x702 evMemberReplaced
          (le 8 b.stripe ++ [b.member, b.surface, p])
        d.requeue p b.lane id
  | _, _ => d.loseBlk id clsMedia detail

/-! ### Stripes (R386 to R393) -/

/-- Blocks of a range. -/
def rangeBlocks (dd k : Nat) (g : List GBlk) : List GBlk := g.filter fun b => b.block / (7 * dd) == k

/-- The leaf hash of block i of a take of n bytes (R404). -/
def leafHash (n i : Nat) (data : Bytes) : Bytes := sha256 (0x00 :: slice data 0 (min 65536 (n - 65536 * i)))

/-- R278, R389: a surface of group q has no free user row on any layer, or only on layers closed to writing, so the group accepts no further stripe. -/
def Dev.groupFull (d : Dev) (v : Volume) (q : Nat) : Bool :=
  (List.range (geometryD v.geometry + geometryM v.geometry)).any fun g => (d.writeLayer (v.at q g)).isNone

/-- R390: commit the gathered blocks of range k of a take as a stripe. The map names each of them at once, but for the
`hidden` blocks of a FUA write, which it names at that write's completion (R392), when the take's length is at
least `len`. `os` are the commands that bring the commit about, beside the writes (R573). -/
def Dev.commitRange (d : Dev) (take k : Nat) (hidden : List Nat := []) (len : Nat := 0) (os : List Origin := []) : Dev :=
  match d.take? take, d.volume with
  | some t, some v =>
    let dd := geometryD v.geometry
    let m := geometryM v.geometry
    let G := dd + m
    let gs := rangeBlocks dd k t.gather
    if gs = [] then d
    else
      let x := d.nextStripe
      let q := x % max 1 v.groups
      let posn := fun (b : GBlk) => b.block % (7 * dd)
      let content := fun (j lane : Nat) =>
        match gs.find? fun b => posn b == 7 * j + (lane - 1) with
        | some b => slice b.data 0 65536
        | none => []
      let lanesUsed := (List.range 7).filter fun l => gs.any fun b => posn b % 7 == l
      let dataMembers := (List.range dd).filter fun j => gs.any fun b => posn b / 7 == j
      let members := dataMembers ++ if lanesUsed = [] then [] else (List.range m).map (dd + ·)
      -- place every member (R388, R394): the available homes of the others hold a member of the stripe too
      let homes := (members.map fun j => v.at q ((j + x) % G)).filter d.available
      let placed := members.foldl (fun (acc : List (Nat × Nat) × List (Nat × Nat × Nat)) j =>
        let want := v.at q ((j + x) % G)
        match d.placeMember v q ((j + x) % G) (acc.1.map Prod.snd ++ homes) with
        | some p => (acc.1 ++ [(j, p)], if p = want then acc.2 else acc.2 ++ [(j, want, p)])
        | none => acc) ([], [])
      let ws := (gs.flatMap GBlk.writers).eraseDups
      let t' := { t with gather := t.gather.filter (fun b => b.block / (7 * dd) != k), since := tdel t.since k }
      if placed.1.length < members.length ∨ d.groupFull v q then
        -- R389: the group accepts no further stripe
        let d := d.updTake take fun _ => { t' with lost := true }
        let d := d.failWriters clsMedia detNoSpace ws
        gs.foldl (fun d b => if d.keyGone (take, b.block) then d.blockGone (take, b.block) else d) d
      else
        let parity := fun (i lane : Nat) => parityOf m i ((List.range dd).map fun j => content j lane)
        let mk := fun (d : Dev) (jp : Nat × Nat) =>
          (List.range 7).foldl (fun (d : Dev) l =>
            let lane := l + 1
            if jp.1 < dd then
              match gs.find? fun b => posn b == 7 * jp.1 + l with
              | some b =>
                let id := d.nextBlk
                (d.addBlk { id := id, kind := .take, data := slice b.data 0 65536, surface := jp.2, lane := lane,
                            take := take, offset := b.block, stripe := x, member := jp.1, writers := b.writers,
                            hostTime := b.hostTime }).enqueue jp.2 lane id
              | none => d
            else if lanesUsed.contains l then
              let id := d.nextBlk
              (d.addBlk { id := id, kind := .parity, data := parity (jp.1 - dd) lane, surface := jp.2, lane := lane,
                          take := take, offset := 7 * dd * k, stripe := x, member := jp.1, writers := ws }).enqueue
                jp.2 lane id
            else d) d
        let first := d.nextBlk
        let d := placed.1.foldl mk d
        let ids := (List.range (d.nextBlk - first)).map (first + ·)
        let ucrc := (List.range (7 * G)).map fun i =>
          match d.blks.find? fun b => ids.contains b.id && b.member == i / 7 && b.lane == i % 7 + 1 with
          | some b => crc32c b.data
          | none => 0
        let isFirst := !(d.stripes.any fun s => s.take == take && s.range == k)
        let st : Stripe :=
          { id := x, take := take, range := k, group := q, geometry := v.geometry, mask := gs.map posn,
            surfaces := (List.range G).map fun j =>
              match placed.1.find? fun e => e.1 == j with | some e => e.2 | none => 0xFF,
            rows := List.replicate G none, ucrc := ucrc, first := isFirst, waits := ids, writers := ws,
            leaves := gs.map fun b => (b.block, max len t.length, leafHash (max len t.length) b.block b.data) }
        let seen := gs.filter fun b => !hidden.contains b.block
        let t' := { t' with
          stripes := t.stripes + 1,
          leaves := seen.foldl (fun lv b => tset lv b.block (leafHash t.length b.block b.data)) t.leaves,
          blocks := seen.foldl (fun bs b =>
            tset bs b.block { tget {} bs b.block with
              stripe := some x, pba := none, ucrc := crc32c (slice b.data 0 65536) }) t.blocks }
        let d := { (d.updTake take fun _ => t') with stripes := d.stripes ++ [st], nextStripe := x + 1 }
        let d := d.wr64 .svStripesLo .svStripesHi [] (x + 1)
        let d := if m = 0 then d
          else (d.needUnits (.parity x) (unitsFor (m * lanesUsed.length * 65536))).holdFor (.parity x) [(2 ^ 65, x)]
        placed.2.foldl (fun d e =>
          d.raiseFor (ws.map Writer.origin ++ os) 0x702 evMemberReplaced (le 8 x ++ [e.1, e.2.1, e.2.2])) d
  | _, _ => d

/-- R390: every block of range k of a take is gathered with all of its 1,024 atoms written (DEDUCED for a further stripe of a
range, log entry 147). -/
def Take.rangeComplete (t : Take) (dd k : Nat) : Bool :=
  (List.range (7 * dd)).all fun i => t.gather.any fun g => g.block == 7 * dd * k + i && g.atoms.length == 1024

/-- R390: the range is complete, or SERVICE.TAKE.STRIPE_WAIT has passed since the first write of it took effect. -/
def Dev.rangeDue (d : Dev) (take k : Nat) : Bool :=
  match d.take? take, d.volume with
  | some t, some v => t.rangeComplete (geometryD v.geometry) k
      || (match tfind t.since k with | some x => decide (x + msTicks (d.rd .svStripeWait) ≤ d.time) | none => false)
  | _, _ => false

/-- Commit every range of a take that holds uncommitted data, for the command o. -/
def Dev.commitTake (d : Dev) (take : Nat) (o : Origin) : Dev :=
  match d.take? take, d.volume with
  | some t, some v =>
    ((t.gather.map fun b => b.block / (7 * geometryD v.geometry)).eraseDups).foldl
      (fun d k => d.commitRange take k [] 0 [o]) d
  | _, _ => d

/-- Ranges of all takes that hold gathered data. -/
def Dev.gatheredRanges (d : Dev) : Nat :=
  match d.volume with
  | some v => (d.takes.map fun t => ((t.gather.map fun b => b.block / (7 * geometryD v.geometry)).eraseDups).length).sum
  | none => 0

/-- Commit every take (FLUSH, MEDIA_UNLOAD): the command o that asked for it fails when a group accepts no further stripe (R389). -/
def Dev.commitAll (d : Dev) (o : Origin) : Dev :=
  let due := d.nextStripe + d.gatheredRanges
  let d := d.takes.foldl (fun d t => d.commitTake t.id o) d
  if d.nextStripe < due then d.updCmd o fun c => c.fail 0 detNoSpace else d

/-- R392: an earlier stripe of the range of a take is still to be recorded: the records of a range go in the order of its
commits, so that the highest SEQ is that of the latest version. One none of whose blocks is left gets no record. -/
def Dev.recordedLater (d : Dev) (st : Stripe) : Bool :=
  d.stripes.any fun s => s.take == st.take && s.range == st.range && decide (s.id < st.id) && s.recSeqs.isEmpty
    && !s.waits.isEmpty

/-- R393: the parts of a stripe's record, once every member that holds a block has its row. -/
def Dev.recordStripe (d : Dev) (x : Nat) : Dev :=
  match d.stripe? x with
  | none => d
  | some st =>
    let need := st.surfaces.zipIdx.filter fun s => s.1 != 0xFF
    if st.recSeqs ≠ [] ∨ ¬(need.all fun s => (st.rows.getD s.2 none).isSome) ∨ d.recordedLater st then d
    else
      let G := st.surfaces.length
      let parts := if G = 16 then 2 else 3
      let n := 7 * G
      let head := fun (part : Nat) =>
        le 8 st.take ++ le 8 st.range ++ le 8 st.id ++ [part, parts, st.group, st.geometry]
      let part0 := head 0 ++ slice (le 28 (maskOf st.mask)) 0 28
        ++ ((List.range 32).flatMap fun j => le 4 ((st.rows.getD j none).getD 0xFFFFFFFF))
        ++ (List.range 72).flatMap fun i => le 4 (st.ucrc.getD i 0)
      let more := fun (part lo hi : Nat) =>
        head part ++ zeros 4 ++ ((List.range (min hi n - lo)).flatMap fun i => le 4 (st.ucrc.getD (lo + i) 0))
      let bodies := [part0, more 1 72 182] ++ if parts = 3 then [more 2 182 292] else []
      let d := d.newGroup
      let g := d.cat.nextGroup
      let seq := d.cat.nextSeq
      let d := bodies.foldl (fun d b => d.appendRec (if st.first then 0x0010 else 0x0011) g b) d
      let d := d.updCat fun c => { c with owed := c.owed ++ st.writers.map fun w => (seq + parts - 1, w) }
      d.updStripe x fun s => { s with recSeqs := (List.range parts).map (seq + ·), writers := [] }

/-- The records of every stripe whose members have their rows, in the order of the commits. -/
def Dev.recordStripes (d : Dev) : Dev :=
  ((d.stripes.filter fun s => s.recSeqs.isEmpty).map Stripe.id).foldl (fun d x => d.recordStripe x) d

/-- A block passed the mordant check at its final position (R270): the map names it, and the basin lets it go. -/
def Dev.mapBlock (d : Dev) (b : Blk) (pba : Nat) : Dev :=
  match b.kind with
  | .take =>
    let d := d.updStripe b.stripe fun s => { s with pbas := tset s.pbas (7 * b.member + (b.lane - 1)) pba }
    d.updTake b.take fun t =>
      let tb := tget {} t.blocks b.offset
      let inBasin := t.gather.any fun g => g.block == b.offset
      let tb' : TBlk := { tb with pba := some pba, held := if inBasin then tb.held else none }
      if tb.stripe = some b.stripe then { t with blocks := tset t.blocks b.offset tb' }
      else t
  | .parity => d.updStripe b.stripe fun s => { s with pbas := tset s.pbas (7 * b.member + (b.lane - 1)) pba }
  | _ => d

end Sys2Proof.Machine
end

