-- ==== Sys2Proof/Machine/Service.lean ====
section
/-! DEFINITION. Commands in flight: how each one starts, what it waits for, and how it ends (chapters 10 to 12). The
release of a held command and the end of a command whose conditions have come to hold happen within the step that
brings the condition about (`settle`). -/

namespace Sys2Proof.Machine

/-! ### Overlap (R332, R333, R372) -/

/-- The two commands are of one ring or one link. -/
def Origin.sameQueue : Origin → Origin → Bool
  | .ring r _, .ring r' _ => r == r'
  | .link l _, .link l' _ => l == l'
  | _, _ => false

/-- The range is the whole take: TAKE_OPEN, TAKE_CLOSE, TAKE_QUERY, PEER_EXPORT. -/
def Cmd.wholeTake (c : Cmd) : Bool := c.op == 0x08 || c.op == 0x09 || c.op == 0x0A || c.op == 0x39

/-- The range is part of a take: RECORD, RETRIEVE, WRITE, READ. -/
def Cmd.partTake (c : Cmd) : Bool := c.op == 0x01 || c.op == 0x02

/-- The range is a PBA: BLOCK_WRITE, BLOCK_READ. -/
def Cmd.pbaRange (c : Cmd) : Bool := c.op == 0x10 || c.op == 0x11

/-- The command has a logical range (R332). -/
def Cmd.ranged (c : Cmd) : Bool := c.wholeTake || c.partTake || c.pbaRange

/-- The command reads bytes of a take. -/
def Cmd.readsTake (c : Cmd) : Bool := c.op == 0x02 || c.op == 0x39

/-- The logical ranges of two commands overlap (R332). -/
def Cmd.overlaps (a b : Cmd) : Bool :=
  (a.pbaRange && b.pbaRange && a.pba == b.pba)
    || ((a.wholeTake || a.partTake) && (b.wholeTake || b.partTake) && a.take == b.take
        && (a.wholeTake || b.wholeTake
            || (decide (a.offset < b.offset + b.length) && decide (b.offset < a.offset + a.length))))

/-- Bytes lo to hi − 1 of block i lie in the range of the command. -/
def Cmd.inBlock (c : Cmd) (i : Nat) : Nat × Nat := (max (65536 * i) c.offset, min (65536 * (i + 1)) (c.offset + c.length))

/-- R333: the earlier command `a` has not yet taken effect on all that `c` shares with it: a write until it ends, a read until it
has sampled every byte of the overlap. A read of part of a take that has started has sampled the blocks that it neither holds
back nor waits for; a PEER_EXPORT samples its own range, and shares no more than that with a later command. -/
def Cmd.holds (a c : Cmd) : Bool :=
  a.overlaps c && (if a.readsTake ∧ a.phase ≠ .held then
      (a.held ++ a.needs.map Prod.snd).any fun i =>
        c.wholeTake || (decide ((a.inBlock i).1 < c.offset + c.length) && decide (c.offset < (a.inBlock i).2))
    else true)

/-- The earlier commands of its queue that hold the command back (R333, R372). A TAKE_CLOSE is not held by the writes before it:
it enters CLOSING and waits for them itself (R400). -/
def Dev.holders? (d : Dev) (c : Cmd) : List Cmd :=
  (d.cmds.takeWhile fun x => x.origin != c.origin).filter fun x =>
    x.origin.sameQueue c.origin && x.holds c && !(c.op == 0x09 && (x.op == 0x01 || x.op == 0x09))

/-- R333, R372: an earlier command of the same ring or link still holds back some of the command's range. -/
def Dev.blockedBy (d : Dev) (c : Cmd) : Bool := d.holders? c != []

/-- The command is held whole: its range lies wholly in the overlap, or it needs the take that an earlier command is changing.
A RETRIEVE or READ behind a write that may lengthen the take is held while it reaches past the end (log entry 13). -/
def Dev.heldWhole (d : Dev) (c : Cmd) : Bool :=
  (d.holders? c).any fun x => !x.partTake || !c.partTake
    || (c.op == 0x02 && x.op == 0x01 && (match d.takes.find? fun t => t.id == c.take with
      | some t => decide (t.length < c.offset + c.length)
      | none => true))

/-- R333: block i of the command's range lies outside every overlap that is still open (blocks are the parts, log entry 13). -/
def Dev.blockFree (d : Dev) (c : Cmd) (i : Nat) : Bool :=
  !((d.holders? c).any fun x => x.holds { c with offset := (c.inBlock i).1, length := (c.inBlock i).2 - (c.inBlock i).1 })

/-! ### Where a block's present content is (R392, R406) -/

inductive Source where
  | basin (data : Bytes)
  | medium (pba : Nat)
  | lost
  deriving DecidableEq, Repr

/-- A position as a read finds it: the recovered copy in the basin (R297), a raw block still in the basin, or the
medium. -/
def Dev.pbaSource (d : Dev) (pba : Nat) : Source :=
  let a := d.resolve pba
  match d.blks.find? fun b => b.copyOf.map Prod.fst == some a with
  | some b => .basin b.data
  | none =>
    match d.blks.find? fun b => b.kind == .raw && pbaOf b.surface (pbaLayer a) b.lane 0 == pbaOf (pbaSurface a) (pbaLayer a) (pbaLane a) 0
        && b.fixed == some (pbaRow a + 2 ^ 17 * pbaLayer a) with
    | some b => .basin b.data
    | none => .medium a

/-- Block i of a take: the basin while it holds the latest version, else the medium through the map; zeros where no
write has touched the block (R398). -/
def Dev.blockSource (d : Dev) (t : Take) (i : Nat) : Source :=
  let tb := tget {} t.blocks i
  match tb.held with
  | some b => .basin b
  | none =>
    match tb.pba with
    | some a => d.pbaSource a
    | none => if tb.stripe.isSome then .lost else .basin (zeros 65536)

/-- Blocks a byte range touches. -/
def blocksOf (off len : Nat) : List Nat :=
  if len = 0 then []
  else (List.range ((off + len - 1) / 65536 - off / 65536 + 1)).map (off / 65536 + ·)

/-! ### Delivery (R367, R406, R415) -/

/-- A string cut into pieces of at most n bytes, with the offset of each. -/
def pieces (n : Nat) : Nat → Nat → Bytes → List (Nat × Bytes)
  | 0, _, _ => []
  | fuel + 1, off, b => if b = [] then [] else (off, b.take n) :: pieces n fuel (off + n) (b.drop n)

/-- The DATA packets of a READ or LOG: GRANT_ID 0, at most 4,096 bytes each (Table 11-2). -/
def Dev.sendData (d : Dev) (l tag off : Nat) (data : Bytes) : Dev :=
  (pieces 4096 (data.length + 1) off data).foldl
    (fun d pc => d.queuePkt l 3 (le 2 tag ++ le 2 0 ++ zeros 4 ++ le 8 pc.1 ++ pc.2)) d

/-- R415: byte i of the range goes to PEER_ADDR + (i mod PEER_WINDOW). -/
def peerWrites (addr window : Nat) : Nat → Nat → Bytes → List Msg
  | 0, _, _ => []
  | fuel + 1, i, b =>
    if b = [] then []
    else
      let room := if window = 0 then b.length else window - i % window
      let n := min room b.length
      .hostWrite (addr + (if window = 0 then i else i % window)) (b.take n) true
        :: peerWrites addr window fuel (i + n) (b.drop n)

/-- The command's range and window lie on the 64-byte grid. -/
def Cmd.onGrid (c : Cmd) : Bool := c.offset % 64 == 0 && c.length % 64 == 0 && c.addr % 64 == 0 && c.len % 64 == 0

/-- Writes at following addresses, joined. -/
def joinWrites : List (Nat × Bytes) → List (Nat × Bytes)
  | [] => []
  | x :: t =>
    match joinWrites t with
    | y :: r => if x.1 + x.2.length = y.1 then (x.1, x.2 ++ y.2) :: r else x :: y :: r
    | [] => [x]

/-- The host ranges of n bytes from place pos of a scatter list. -/
def sgSlices : List (Nat × Nat) → Nat → Nat → List (Nat × Nat)
  | [], _, _ => []
  | (a, l) :: t, pos, n =>
    if n = 0 then []
    else if l ≤ pos then sgSlices t (pos - l) n
    else (a + pos, min n (l - pos)) :: sgSlices t 0 (n - min n (l - pos))

/-- The host ranges of n bytes from byte pos of a command's buffer (Table 10-4). -/
def Cmd.hostAt (c : Cmd) (pos n : Nat) : List (Nat × Nat) :=
  if c.sgl = [] then [(c.addr + pos, n)] else sgSlices c.sgl pos n

/-- Memory writes of a string over host ranges. -/
def hostWrites : List (Nat × Nat) → Bytes → List Msg
  | [], _ => []
  | (a, n) :: t, b => .hostWrite a (b.take n) true :: hostWrites t (b.drop n)

/-- Deliver the part of block i of the take that the command asks for. -/
def Dev.deliver (d : Dev) (o : Origin) (i : Nat) (data : Bytes) : Dev :=
  match d.cmd o with
  | none => d
  | some c =>
    let lo := max (65536 * i) c.offset
    let hi := min (65536 * (i + 1)) (c.offset + c.length)
    let piece := slice data (lo - 65536 * i) (hi - lo)
    let d := d.updCmd o fun x => { x with delivered := x.delivered + (hi - lo) }
    match o with
    | .link l tag => d.sendData l tag lo piece
    | _ =>
      if c.op = 0x39 then
        if c.onGrid then { d with out := d.out ++ peerWrites c.addr c.len (piece.length + 1) (lo - c.offset) piece }
        else d.updCmd o fun x => { x with parts := tset x.parts (lo - c.offset) piece }
      else { d with out := d.out ++ hostWrites (c.hostAt (lo - c.offset) (hi - lo)) piece }

/-- R292: class and detail of a read that ends. -/
def Cmd.readStatus (c : Cmd) : Nat × Nat :=
  match c.failed with
  | some (_, det) => (clsMedia, det)
  | none => if c.level = 0 then (clsOk, 0) else (clsRecovered, c.level + if c.realloc then 0x100 else 0)

/-- The command ends and what it kept in the basin goes. -/
def Dev.finishRead (d : Dev) (o : Origin) : Dev :=
  match d.cmd o with
  | none => d
  | some c =>
    let st := c.readStatus
    let res := if c.op = 0x11 then c.length else match c.failed with | some (off, _) => off | none => c.delivered
    (d.dropOwner (.delivery o)).finish o st.1 st.2 (if c.op = 0x39 then 0 else res)

/-- n bytes that the manual leaves open. -/
def Dev.freshBytes : Nat → Dev → Bytes × Dev
  | 0, d => ([], d)
  | n + 1, d =>
    let fr := d.fresh
    let rest := Dev.freshBytes n fr.2
    (fr.1 % 256 :: rest.1, rest.2)

/-- R415: a write to a peer in 64-byte-aligned whole multiples of 64 bytes. What the command does not name in its first and last 64
bytes are free values (log entry 148). -/
def Dev.peerAligned (d : Dev) (w : Nat × Bytes) : Dev :=
  let before := Dev.freshBytes (w.1 % 64) d
  let after := Dev.freshBytes ((64 - (w.1 + w.2.length) % 64) % 64) before.2
  after.2.emit (.hostWrite (w.1 - w.1 % 64) (before.1 ++ w.2 ++ after.1) true)

/-- The writes of a PEER_EXPORT off the grid, in the order of its range. -/
def Cmd.peerParts (c : Cmd) : List (Nat × Bytes) :=
  joinWrites ((tkeys c.parts).flatMap fun i =>
    let b := tget [] c.parts i
    (peerWrites c.addr c.len (b.length + 1) i b).filterMap fun m => match m with
      | .hostWrite a x _ => some (a, x)
      | _ => none)

/-- A read whose every block is delivered or has left the ladder ends; a PEER_EXPORT then reads PEER_ADDR (R415). -/
def Dev.readDone (d : Dev) (o : Origin) : Dev :=
  match d.cmd o with
  | none => d
  | some c =>
    if c.op = 0x39 then
      ((c.peerParts.foldl Dev.peerAligned d).updCmd o fun x => { x with phase := .running, parts := [] }).emit
        (.hostRead c.addr 4 false)
    else d.finishRead o

/-! ### Merkle root and certificate (R404, R405) -/

/-- One level of the tree: pairs hashed, an odd last node promoted unchanged. -/
def merkleLevel : List Bytes → List Bytes
  | a :: b :: rest => sha256 (0x01 :: a ++ b) :: merkleLevel rest
  | l => l

/-- The root over the leaves, within fuel (64 levels serve every take). -/
def merkleRoot : Nat → List Bytes → Bytes
  | 0, l => l.headD []
  | n + 1, l => if l.length ≤ 1 then l.headD (sha256 [0x00]) else merkleRoot n (merkleLevel l)

/-- Leaves of a take: ceil(N ÷ 65,536). -/
def Take.leafCount (t : Take) : Nat := ceilDiv t.length 65536

/-- The leaf of block i, from the hash held, or from content that needs no read. -/
def Dev.leafOf (d : Dev) (t : Take) (i : Nat) : Option Bytes :=
  match tfind t.leaves i with
  | some h => some h
  | none => match d.blockSource t i with
    | .basin data => some (leafHash t.length i data)
    | _ => none

/-- Certificate bytes 0 to 111 (Table 12-7). -/
def Dev.certBody (d : Dev) (t : Take) (closeTime : Nat) : Bytes :=
  let leaves := (List.range t.leafCount).map fun i => (d.leafOf t i).getD []
  [0x51, 0x54, 0x43, 0x01] ++ le 2 176 ++ le 2 (d.rd .glDevnum) ++ le 8 t.id ++ le 8 t.length ++ le 8 closeTime
    ++ le 8 ((d.volume.map Volume.id).getD 0) ++ merkleRoot 64 leaves
    ++ ((List.range 8).flatMap fun i => le 4 (d.rd .scFwDigest [i])) ++ le 8 t.openTime

/-- The signed certificate. -/
def Dev.certificate (d : Dev) (t : Take) (closeTime : Nat) : Bytes :=
  let b := d.certBody t closeTime
  b ++ identitySign d.freeTick b

/-- RESULT of a report: bytes written, and bytes needed (Table 10-7). -/
def reportResult (written needed : Nat) : Nat := written % 2 ^ 32 + 2 ^ 32 * (needed % 2 ^ 32)

/-- Write a report to a command's buffer, at most BUF_LEN bytes, and end the command. -/
def Dev.report (d : Dev) (o : Origin) (cls detail : Nat) (data : Bytes) : Dev :=
  match d.cmd o with
  | none => d
  | some c =>
    let n := min c.len data.length
    (if n = 0 then d else d.emit (.hostWrite c.addr (data.take n) true)).finish o cls detail
      (reportResult n data.length)

/-! ### Start checks -/

/-- R419, R580: a command that needs the basin and a load, when one is missing. -/
def Dev.serviceRefusal (d : Dev) : Option (Nat × Nat) :=
  if !d.on .bsReady then some (clsResource, detBasinNotReady)
  else if !d.loadInForce then some (clsMedia, detNotLoaded)
  else none

/-- Surface p can be written or read: loaded, formatted, its pickup present. -/
def Dev.surfaceOk (d : Dev) (p : Nat) : Bool := (d.pkS p).loaded && (d.pkS p).formatted && d.on .pkPresent [p]

/-- A write of a take at consumption or acceptance (R362, R398, R401): a take that an earlier TAKE_OPEN in flight may
still open is looked up when the write starts. -/
def Dev.writeRefusal (d : Dev) (c : Cmd) (starting : Bool) : Option (Nat × Nat) :=
  match d.take? c.take with
  | some t =>
    if t.state = .opened ∨ (starting ∧ t.state = .closing) then
      if d.catalogFull then some (clsMedia, detCatalogFull) else none
    else some (clsResource, detTakeNotOpen)
  | none =>
    if !starting && d.cmds.any (fun x => x.op == 0x08 && x.take == c.take && x.origin != c.origin) then none
    else some (clsResource, detTakeUnknown)

/-! ### Data of writes -/

/-- Bytes a host write may still ask for in the present budget period (R378), and in free units (R579). -/
def Dev.fetchRoom (d : Dev) (asked : Nat) : Nat :=
  if d.basin.waiting ≠ [] then 0
  else
    let units := (d.pickFree d.installed).length
    let inUnits := units * 2 ^ 20 + (2 ^ 20 - asked % 2 ^ 20) % 2 ^ 20
    if d.share.inForce then min inUnits (d.share.allow.getD 8 0) else inUnits

/-- Fetch the next piece of a host write's data, within the units and the budget (R378, R446). `arg` counts the bytes
asked for. -/
def Dev.askMore (d : Dev) (o : Origin) : Dev :=
  match d.cmd o with
  | none => d
  | some c =>
    match o with
    | .link _ _ => d
    | _ =>
      let n := min (c.length - c.arg) (d.fetchRoom c.arg)
      if n = 0 then d
      else
        match d.takeUnits (.write o) (unitsFor (c.arg + n) - unitsFor c.arg) true with
        | none => d
        | some d =>
          let d := { d with share := { d.share with
            allow := if d.share.inForce then d.share.allow.set 8 (d.share.allow.getD 8 0 - n) else d.share.allow } }
          let d := d.updCmd o fun x => { x with arg := c.arg + n }
          { d with out := d.out ++ (c.hostAt c.arg n).map fun e => .hostRead e.1 e.2 true }

/-- Bytes enter the basin: the arrivals of the last second of device time are kept (R495). -/
def Dev.noteIngress (d : Dev) (n : Nat) : Dev :=
  { d with share := { d.share with
    arrivals := (d.share.arrivals.filter fun a => decide (d.time < a.1 + secTicks 1)) ++ [(d.time, n)] } }

/-- Data of a write arrives at byte `pos` of its range. -/
def Cmd.receive (c : Cmd) (pos : Nat) (data : Bytes) : Cmd :=
  { c with got := overwrite c.got pos data, delivered := c.delivered + data.length }

/-- One more than the highest byte offset that a write writes (R398); 0 when it writes none. -/
def Cmd.reach (c : Cmd) : Nat := if c.length = 0 then 0 else c.offset + c.length

/-- The writer record of a command. -/
def Cmd.writer (c : Cmd) (block : Nat) : Writer :=
  { origin := c.origin, cookie := c.cookie, op := c.op, fua := c.fua,
    offset := if c.op = 0x10 then 0 else max c.offset (65536 * block),
    target := if c.op = 0x10 then c.pba else c.take, serial := c.serial }

/-- Another FUA write of the take, not yet complete, holds one of the blocks: the map does not name its data yet
(R392), so the write waits for it (log entry 10). -/
def Dev.fuaPending (d : Dev) (c : Cmd) : Bool :=
  d.cmds.any fun x => x.origin != c.origin && x.op == 0x01 && x.take == c.take
    && (x.phase == .medium || x.phase == .records)
    && (x.publish.any fun p => (blocksOf c.offset c.length).contains p.1)

/-- The part of the write's data that falls in block i, and where. -/
def Cmd.part (c : Cmd) (i : Nat) : Nat × Bytes :=
  let lo := max (65536 * i) c.offset
  let hi := min (65536 * (i + 1)) (c.offset + c.length)
  (lo - 65536 * i, slice c.got (lo - c.offset) (hi - lo))

/-- The write covers block i whole. -/
def Cmd.covers (c : Cmd) (i : Nat) : Bool :=
  decide (c.offset ≤ 65536 * i) && decide (65536 * (i + 1) ≤ c.offset + c.length)

/-- Blocks of the write whose present content only the medium holds (R391). -/
def Dev.mustRead (d : Dev) (t : Take) (c : Cmd) : List (Nat × Nat) :=
  (blocksOf c.offset c.length).filterMap fun i =>
    if c.covers i then none
    else match d.blockSource t i with
      | .medium a => some (a, i)
      | _ => none

/-- Blocks of the write whose present content is lost. -/
def Dev.mustLose (d : Dev) (t : Take) (c : Cmd) : Bool :=
  (blocksOf c.offset c.length).any fun i => !c.covers i && d.blockSource t i == .lost

/-- The new version of block i. -/
def Dev.newVersion (d : Dev) (t : Take) (c : Cmd) (i : Nat) : Bytes :=
  let base := match d.blockSource t i with | .basin b => b | _ => zeros 65536
  let p := c.part i
  overwrite base p.1 p.2

/-- Atoms of block i that the write covers. -/
def Cmd.atoms (c : Cmd) (i : Nat) : List Nat :=
  let p := c.part i
  (List.range (p.2.length / 64)).map (p.1 / 64 + ·)

/-- Gather block i of the write. -/
def Dev.gatherBlock (d : Dev) (c : Cmd) (i : Nat) : Dev :=
  match d.take? c.take with
  | none => d
  | some t =>
    let data := d.newVersion t c i
    let old := t.gather.find? fun g => g.block == i
    let g : GBlk := { block := i, data := data,
                      atoms := ((old.map GBlk.atoms).getD [] ++ c.atoms i).eraseDups, hostTime := c.hostTime,
                      writers := (old.map GBlk.writers).getD [] ++ [c.writer i] }
    let k := i / (7 * geometryD ((d.volume.map Volume.geometry).getD 0))
    d.updTake c.take fun t => { t with
      gather := (t.gather.filter fun g => g.block != i) ++ [g],
      since := if thas t.since k then t.since else tset t.since k d.time }

/-- The map names block i's new version in the basin (R392). -/
def Dev.nameBlock (d : Dev) (take i : Nat) : Dev :=
  d.updTake take fun t =>
    match t.gather.find? fun g => g.block == i with
    | some g => 
      let tb : TBlk := tget {} t.blocks i
      { t with blocks := tset t.blocks i { tb with held := some g.data } }
    | none => t

/-- R398: the committed length. A partial last block that is no longer the last has another leaf: it is hashed again
while the basin holds it, and read back at close otherwise. -/
def Dev.growTake (d : Dev) (take n : Nat) : Dev :=
  d.updTake take fun t =>
    if n ≤ t.length then t
    else
      let last := t.length / 65536
      let t' := { t with length := n }
      if t.length % 65536 = 0 ∨ !thas t.leaves last then t'
      else match (tget {} t.blocks last).held with
        | some b => { t' with leaves := tset t.leaves last (leafHash n last b) }
        | none => { t' with leaves := tdel t.leaves last }

/-- The units of a write whose data is in the basin stay held until its blocks are on the medium (Table 13-7). The tag of
a Spring WRITE may be used again, so its units pass to an owner that carries a number of its own. -/
def Dev.keepUnits (d : Dev) (o : Origin) (blocks : List (Nat × Nat)) : Dev :=
  match o with
  | .link _ _ =>
    let n := 1 + (d.basin.owned.filterMap fun u => match u.2.1 with | .spring _ i => some i | _ => none).foldl max 0
    (d.renameUnits (.write o) (.spring o n)).holdFor (.spring o n) blocks
  | _ => d.holdFor (.write o) blocks

/-- The write's data is all in the basin (R330, R328, R390, R391). -/
def Dev.applyRecord (d : Dev) (o : Origin) : Dev :=
  match d.cmd o with
  | none => d
  | some c =>
    match d.take? c.take, d.volume with
    | some t, some v =>
      if d.fuaPending c then d
      else if d.mustLose t c then (d.dropOwner (.write o)).finish o clsMedia detStripe
      else
        let need := d.mustRead t c
        let sums := need.map fun n => (n.2, (tget ({} : TBlk) t.blocks n.2).ucrc)
        if need ≠ [] then d.updCmd o fun x => { x with phase := .reading, needs := need, sums := sums }
        else
          let bs := blocksOf c.offset c.length
          let key := bs.map fun i => (c.take, i)
          if c.fua then
            let w := 7 * geometryD v.geometry
            let ranges := (bs.map fun i => i / w).eraseDups
            -- a gathered block that the write changes is committed first, as the map names it
            let d := ranges.foldl (fun d k =>
              match d.take? c.take with
              | some t => if t.gather.any (fun g => bs.contains g.block) then d.commitRange c.take k else d
              | none => d) d
            let d := bs.foldl (fun d i => d.gatherBlock c i) d
            let first := d.nextStripe
            let d := (d.keepUnits o key).updCmd o fun x => { x with phase := .medium, publish := [(0, 0)] }
            let d := ranges.foldl (fun d k => d.commitRange c.take k bs (c.offset + c.length)) d
            let mine := d.stripes.filter fun s => decide (first ≤ s.id) && s.take == c.take
            d.updCmd o fun x => { x with
              stripes := mine.map Stripe.id, waits := mine.flatMap Stripe.waits,
              publish := bs.filterMap fun i =>
                (mine.find? fun s => s.range == i / w).map fun s => (i, s.id) }
          else
            let d := bs.foldl (fun d i => (d.gatherBlock c i).nameBlock c.take i) d
            let d := (d.growTake c.take c.reach).keepUnits o key
            let d := d.finish o clsOk 0 c.length
            -- a range of which every block is complete is committed (R390)
            ((bs.map fun i => i / (7 * geometryD v.geometry)).eraseDups).foldl (fun (d : Dev) k =>
              match d.take? c.take with
              | some t => if t.rangeComplete (geometryD v.geometry) k then d.commitRange c.take k else d
              | none => d) d
    | _, _ => (d.dropOwner (.write o)).finish o clsMedia detNotLoaded

/-- The data of a BLOCK_WRITE is in the basin: queue it on its lane (R330). -/
def Dev.applyBlockWrite (d : Dev) (o : Origin) : Dev :=
  match d.cmd o with
  | none => d
  | some c =>
    let p := pbaSurface c.pba
    let id := d.nextBlk
    let d := (d.addBlk { id := id, kind := .raw, data := slice c.got 0 65536, surface := p, lane := pbaLane c.pba,
                         hostTime := c.hostTime, fixed := some (pbaRow c.pba + 2 ^ 17 * pbaLayer c.pba),
                         writers := [c.writer 0] }).enqueue p (pbaLane c.pba) id
    let d := d.keepUnits o [(2 ^ 66, id)]
    let d := if c.fua then d.updCmd o fun x => { x with phase := .medium, waits := [id] }
      else d.finish o clsOk 0 0
    -- a hold that has lasted THERMAL.HOLDMAX takes it at once (R331)
    if d.on .thHold [p] && (tget ({} : Window) d.thermal.windows p).expired then d.loseBlk id clsThermal 2 else d

/-- R392: the map names the blocks of a FUA write at its completion. -/
def Dev.publishFua (d : Dev) (c : Cmd) : Dev :=
  let d := c.publish.foldl (fun d bx =>
    match d.stripe? bx.2 with
    | none => d
    | some st =>
      let i := bx.1 % (7 * geometryD st.geometry)
      d.updTake c.take fun t =>
        
        let tb : TBlk := { held := none, stripe := some bx.2, pba := tfind st.pbas i, ucrc := st.ucrc.getD i 0 }
        let leaves := match tfind st.leaves bx.1 with
          | some (n, h) =>
            if 65536 * (bx.1 + 1) ≤ n ∨ max t.length (c.offset + c.length) = n then tset t.leaves bx.1 h
            else tdel t.leaves bx.1
          | none => t.leaves
        { t with blocks := tset t.blocks bx.1 tb, leaves := leaves }) d
  d.growTake c.take c.reach

/-! ### Starting a command that has a range -/

/-- A read samples block i of the take: it is delivered from the basin at once, or is to be read where the map has it now. -/
def Dev.sample? (t : Take) (o : Origin) (d : Dev) (i : Nat) : Dev :=
  match d.blockSource t i with
  | .basin b => d.deliver o i b
  | .medium a => d.updCmd o fun x => { x with
      needs := x.needs ++ [(a, i)], sums := tset x.sums i (tget ({} : TBlk) t.blocks i).ucrc }
  | .lost => d.updCmd o fun x => x.fail (65536 * i) detStripe

/-- The blocks that a read held back and that no overlap holds any more are sampled (R333). -/
def Dev.sampleFreed (d : Dev) (o : Origin) (c : Cmd) : Dev :=
  match d.take? c.take with
  | none => d
  | some t =>
    let free := c.held.filter (d.blockFree c)
    if free = [] then d
    else free.foldl (Dev.sample? t o) (d.updCmd o fun x => { x with held := x.held.filter fun i => !free.contains i })

/-- A RETRIEVE, READ or PEER_EXPORT starts: blocks in the basin are delivered at once, the others are read; those that an overlap
holds back wait (R333). Units are set aside for the data that awaits delivery, for up to 512 blocks at a time (DESIGN CHOICE, log
entry 152). -/
def Dev.startRead (d : Dev) (o : Origin) : Dev :=
  match d.cmd o with
  | none => d
  | some c =>
    match d.take? c.take with
    | none => d.refuse o clsResource detTakeUnknown
    | some t =>
      if t.length < c.offset + c.length then d.refuse o clsResource detBeyondEnd
      else
        let bs := blocksOf c.offset c.length
        let d := if c.sgl = [] then d else d.emit (.hostRead c.addr (16 * c.sgl.length) true)
        let held := bs.filter fun i => !d.blockFree c i
        let d := d.updCmd o fun x => { x with phase := .reading, held := held }
        let d := (bs.filter fun i => !held.contains i).foldl (Dev.sample? t o) d
        let n := ((d.cmd o).map fun x => x.needs.length + held.length).getD 0
        if n = 0 then d else d.needUnits (.delivery o) (unitsFor (65536 * min n 512))

/-- TAKE_OPEN (R396, R397). -/
def Dev.startOpen (d : Dev) (o : Origin) : Dev :=
  match d.cmd o with
  | none => d
  | some c =>
    match d.volume with
    | none => d.refuse o clsMedia detNotLoaded
    | some v =>
      if c.arg ≠ 0 ∧ c.arg ≠ v.id then d.refuse o clsMedia detNotLoaded
      else if 64 ≤ d.rd .svTakeOpen then d.refuse o clsResource detOpenTakes
      else if 1048576 ≤ d.takes.length then d.refuse o clsResource detTakeLimit
      else if c.take ≠ 0 ∧ (d.take? c.take).isSome then d.refuse o clsResource detTakeIdInUse
      else
        let dev := d.rd .glDevnum
        let mine := (d.takes.filter fun t => t.id / 2 ^ 52 == dev).map fun t => t.id % 2 ^ 52
        let id := if c.take ≠ 0 then c.take else dev * 2 ^ 52 + (mine.foldl max 0 + 1) % 2 ^ 52
        let t : Take := { id := id, label := slice c.bytes 0 32, openTime := c.hostTime }
        let d := { d with takes := d.takes ++ [t] }
        d.takeCounts.finish o clsOk 0 id

/-- The TAKE_QUERY report (Table 12-9). -/
def Dev.takeReport (d : Dev) (t : Take) : Bytes :=
  let st := match t.state with | .opened => 0 | .closing => 1 | .closed => 2 | .unclosed => 3
  let mine := d.stripes.filter fun s => s.take == t.id
  let missing := (d.volume.map Volume.missing).getD []
  let lost := mine.any fun s => (s.surfaces ++ (d.holders s).map Prod.snd).any fun p => missing.contains p
  let held := 65536 * t.gather.length
    + 65536 * (d.blks.filter fun b => b.kind == .take && b.take == t.id && b.copyOf.isNone).length
  le 8 t.id ++ [st, (if t.flagged then 1 else 0) + (if mine.any d.reducedStripe then 2 else 0) + (if lost then 4 else 0), 0, 0]
    ++ le 4 t.stripes ++ le 8 t.length ++ le 8 held ++ le 8 t.openTime
    ++ le 8 (if t.state = .closed then t.closeTime else 0) ++ slice t.label 0 32 ++ zeros 48
    ++ (if t.state = .closed then slice t.cert 0 176 else zeros 176)

/-- TAKE_CLOSE starts (R400, R402, R403). -/
def Dev.startClose (d : Dev) (o : Origin) : Dev :=
  match d.cmd o with
  | none => d
  | some c =>
    match d.take? c.take with
    | none => d.refuse o clsResource detTakeUnknown
    | some t =>
      match t.state with
      | .closed => d.report o clsOk 0 t.cert
      | .closing => d.updCmd o fun x => { x with phase := .running }
      | _ =>
        let d := (d.updTake c.take fun t => { t with state := .closing }).takeCounts
        d.updCmd o fun x => { x with phase := .gathering }

/-- BLOCK_WRITE starts (R269, Table 10-9). -/
def Dev.startBlockWrite (d : Dev) (o : Origin) : Dev :=
  match d.cmd o with
  | none => d
  | some c =>
    let p := pbaSurface c.pba
    if d.catalogFull then d.refuse o clsMedia detCatalogFull
    else if !d.surfaceOk p then d.refuse o clsMedia detNotLoaded
    else if d.on .wrLaneDis [p, pbaLane c.pba - 1] then d.refuse o clsMedia detLaneDisabled
    else d.updCmd o fun x => { x with phase := .gathering }

/-- The header of a block read from the basin: the recovered block's, or, for a block with no header yet, a free value. -/
def Dev.basinHeader (d : Dev) (pba : Nat) : Bytes × Dev :=
  match d.blks.find? fun b => b.copyOf.map Prod.fst == some pba && !b.header.isEmpty with
  | some b => (slice b.header 0 128, d)
  | none => d.freshBytes 128

/-- BLOCK_READ starts (R266, R279): OPTIONS bit 0 reads the position itself. -/
def Dev.startBlockRead (d : Dev) (o : Origin) : Dev :=
  match d.cmd o with
  | none => d
  | some c =>
    let a := if c.arg.testBit 0 then c.pba else d.resolve c.pba
    if !d.surfaceOk (pbaSurface a) then d.refuse o clsMedia detNotLoaded
    else
      let d := d.updCmd o fun x => { x with phase := .reading, length := a }
      let src := if c.arg.testBit 0 then Source.medium a else d.pbaSource c.pba
      match src with
      | .basin b =>
        let d := d.emit (.hostWrite c.addr b true)
        let d := if c.arg.testBit 1 then
            let h := d.basinHeader a
            h.2.emit (.hostWrite c.addr2 h.1 true)
          else d
        d.finish o clsOk 0 a
      | _ => (d.updCmd o fun x => { x with needs := [(a, 0)] }).needUnits (.delivery o) 1

/-- n bytes from a basin address as the reads of the device find them. -/
def Dev.bytesNow (mem : List Host.Cell) (d : Dev) (addr n : Nat) : Bytes :=
  slice ((List.range ((addr + n + 63) / 64 - addr / 64)).flatMap fun i => wordNow mem d (addr / 64 + i)) (addr % 64) n

/-- R416: a buffer that lies wholly within the device's import window. -/
def Dev.inOwnWindow (d : Dev) (addr len : Nat) : Option Nat :=
  match d.basin.window with
  | none => none
  | some w =>
    let lo := Config.bar2Base + w.1 * 2 ^ 20
    if lo ≤ addr ∧ addr + len ≤ lo + w.2 * 2 ^ 20 then some (addr - Config.bar2Base) else none

/-- A write starts to take its data: from the import window at once (R416), else from the host in pieces, whose scatter
list is read first, or by grants (R363). -/
def Dev.startData (mem : List Host.Cell) (d : Dev) (o : Origin) : Dev :=
  match d.cmd o with
  | none => d
  | some c =>
    let d := if c.sgl = [] then d else d.emit (.hostRead c.addr (16 * c.sgl.length) true)
    let own := (c.hostAt 0 c.length).map fun e => (d.inOwnWindow e.1 e.2).map fun a => (a, e.2)
    match o with
    | .ring _ _ =>
      if own.all Option.isSome then
        let got := (own.filterMap id).flatMap fun e => d.bytesNow mem e.1 e.2
        d.updCmd o fun x => { x with phase := .gathering, arg := c.length, got := got, delivered := c.length }
      else d.updCmd o fun x => { x with phase := .gathering }
    | _ => d.updCmd o fun x => { x with phase := .gathering }

/-- A command that has a range starts. -/
def Dev.startRange (mem : List Host.Cell) (d : Dev) (o : Origin) : Dev :=
  match d.cmd o with
  | none => d
  | some c =>
    match c.op with
    | 0x01 =>
      match d.writeRefusal c true with
      | some st => d.refuse o st.1 st.2
      | none => d.startData mem o
    | 0x02 => d.startRead o
    | 0x39 => d.startRead o
    | 0x08 => d.startOpen o
    | 0x09 => d.startClose o
    | 0x0A =>
      match d.take? c.take with
      | some t => d.report o clsOk 0 (d.takeReport t)
      | none => d.refuse o clsResource detTakeUnknown
    | 0x10 =>
      let d := d.startBlockWrite o
      match d.cmd o with
      | some c' => if c'.phase = .gathering then d.startData mem o else d
      | none => d
    | 0x11 => d.startBlockRead o
    | _ => d

/-! ### What a command waits for -/

/-- Every record of the list is on the medium. -/
def Dev.recsDone (d : Dev) (recs : List Nat) : Bool :=
  recs.all fun s => d.cat.records.any fun r => r.seq == s && r.onMedium

/-- R74: no catalogue row remains and none is being written. -/
def Dev.catExhausted (d : Dev) : Bool := decide (d.catFree = 0) && d.cat.writing.isNone

/-- A TAKE_CLOSE that cannot finish leaves its take UNCLOSED (R582), and so end those that wait for it (R402). A record of the
close that no row took is withdrawn: none is recorded. -/
def Dev.closeFails (d : Dev) (take detail : Nat) : Dev :=
  let d := (d.updTake take fun t => { t with state := .unclosed }).takeCounts
  let d := d.updCat fun c => { c with records := c.records.filter fun r =>
    r.onMedium || r.rtype != 0x0012 || ofLe (slice r.body 8 8) != take }
  let os := (d.cmds.filter fun c => c.op == 0x09 && c.take == take && c.phase != .held).map Cmd.origin
  os.foldl (fun d o => d.finish o clsMedia detail 0) d

/-- The take is CLOSED: each TAKE_CLOSE that waited for it writes the certificate. -/
def Dev.closeDone (d : Dev) (take : Nat) (cert : Bytes) (time : Nat) : Dev :=
  let d := (d.updTake take fun t => { t with state := .closed, cert := cert, closeTime := time }).takeCounts
  let os := (d.cmds.filter fun c => c.op == 0x09 && c.take == take && c.phase != .held).map Cmd.origin
  os.foldl (fun d o => d.report o clsOk 0 cert) d

/-- Steps of TAKE_CLOSE (R400). -/
def Dev.advanceClose (d : Dev) (o : Origin) (c : Cmd) : Dev :=
  match d.take? c.take with
  | none => d
  | some t =>
    match c.phase with
    | .gathering =>
      -- a write behind the close on its own ring is held by it, and finds the take not OPEN (R333, R401)
      let behind := (d.cmds.dropWhile fun x => x.origin != o).filter fun x => x.origin.sameQueue o
      if d.cmds.any (fun x => x.op == 0x01 && x.take == c.take && !behind.contains x) then d
      else
        let d := d.commitTake c.take o
        let ws := (d.blks.filter fun b => (b.kind == .take || b.kind == .parity) && b.take == c.take
                    && b.copyOf.isNone).map Blk.id
        d.updCmd o fun x => { x with phase := .medium, waits := ws }
    | .medium =>
      if c.waits ≠ [] then d
      else match c.failed with
        | some _ => d.closeFails c.take detWriteExhausted
        | none =>
          if t.gather ≠ [] ∨ t.lost then d.closeFails c.take detWriteExhausted
          else
            let missing := (List.range t.leafCount).filter fun i => (d.leafOf t i).isNone
            if missing.any (fun i => d.blockSource t i == .lost) then d.closeFails c.take detStripe
            else
              let needs := missing.filterMap fun i =>
                (match d.blockSource t i with | .medium a => some (a, i) | _ => none)
              let sums := needs.map fun n => (n.2, (tget ({} : TBlk) t.blocks n.2).ucrc)
              d.updCmd o fun x => { x with phase := .reading, needs := needs, sums := sums }
    | .reading =>
      if c.needs ≠ [] then d
      else match c.failed with
        | some (_, det) => d.closeFails c.take det
        | none =>
          if d.catFree = 0 then d.closeFails c.take detCatalogFull
          else
          let cert := d.certificate t c.hostTime
          let d := { d with freeTick := d.freeTick + 1 }
          let d := d.appendAlloc.append1 0x0012
            (cert ++ slice t.label 0 32 ++ le 8 t.leafCount ++ le 8 t.stripes)
          (d.updCmd o fun x => { x with phase := .records, recs := d.openRecs, bytes := cert })
    | .records =>
      if d.recsDone c.recs then d.closeDone c.take c.bytes c.hostTime
      else if d.catExhausted then d.closeFails c.take detCatalogFull
      else d
    | _ => d

/-- Every recovered copy is settled (R301), and no queue of recovered copies holds one. -/
def Dev.copyIds (d : Dev) : List Nat := (d.blks.filter fun b => b.copyOf.isSome).map Blk.id

/-- R295: a FLUSH or a MEDIA_UNLOAD arrives: every queue of recovered copies that holds one takes its next spare row. -/
def Dev.dueCopies (d : Dev) : Dev :=
  { d with pk := d.pk.map fun e => (e.1, { e.2 with realloc := e.2.realloc.map fun q =>
      if q.2.queue = [] then q else (q.1, { q.2 with due := true }) }) }

/-- Blocks of writes that have completed, with the parity that covers them, and the recovered copies (R329). -/
def Dev.flushWaits (d : Dev) : List Nat :=
  ((d.blks.filter fun b => b.kind != .catalogue
      && (b.copyOf.isSome || b.writers.isEmpty || b.writers.any fun w => !d.inFlight w)).map Blk.id)

/-- FLUSH (R329). -/
def Dev.advanceFlush (d : Dev) (o : Origin) (c : Cmd) : Dev :=
  match c.phase with
  | .medium =>
    if c.waits ≠ [] then d
    else
      let d := d.appendAlloc
      d.updCmd o fun x => { x with phase := .records, recs := d.openRecs }
  | .records =>
    if d.recsDone c.recs then
      match c.failed with
      | some (_, det) => d.finish o clsMedia det 0
      | none => d.finish o clsOk 0 0
    else if d.catExhausted then d.finish o clsMedia detCatalogFull 0
    else d
  | _ => d

/-- Spindles under CMDSRC RING. -/
def Dev.ringSpindles (d : Dev) : List Nat := (List.range 16).filter fun n => d.rd .spCmdsrc [n] == 0

/-- What holds units of the basin without a load (Table 13-7): grants, the self-test and the import window. -/
def Owner.outlivesLoad : Owner → Bool
  | .grant _ _ => true
  | .selftest => true
  | .importWindow => true
  | _ => false

/-- The load ends: what MEDIA_LOAD set up is gone (R326), and the units of its blocks, reads and records are free. -/
def Dev.unload (d : Dev) : Dev :=
  let gone := ((d.basin.owned.map fun e => e.2.1) ++ (d.basin.holds.map Prod.fst) ++ (d.basin.waiting.map UnitWait.owner)).eraseDups
  let d := (gone.filter fun o => !o.outlivesLoad).foldl Dev.dropOwner (d.wr .rvActive [] 0)
  let d := { d with loadInForce := false, unloadCmd := none, volume := none, takes := [], stripes := [],
                    nextStripe := 0, blks := [], moved := [], unavailable := d.unavailable.filter (fun u => u.2 == unThermal), cat := {}, ladder := [],
                    railWait := [], scrub := {},
                    pk := d.pk.map fun (e : Nat × Pk) => (e.1, { e.2 with
                      loaded := false, formatted := false, queues := [[], [], [], [], [], [], []], rows := [],
                      verify := [], realloc := [], dead := [], abandoned := [], occupied := [], deadAll := [],
                      settling := none, readOut := [], rowBegun := none, reading := [], passRow := none, passLanes := [], passSpots := [], known := [], unreadable := [], reserved := false }) }
  ((d.wr64 .svLoadedIdLo .svLoadedIdHi [] 0).wr64 .svStripesLo .svStripesHi [] 0).takeCounts

/-- Commands of the load that are still in flight when it ends find no load (R580), and blocks still in the basin cannot reach
the medium: their writes are reported (R343, R370). -/
def Dev.endOfLoad (d : Dev) : Dev :=
  let d := (d.blks.filter fun b => b.kind != .catalogue && b.copyOf.isNone).foldl
    (fun (d : Dev) b => d.failWriters clsMedia detNotLoaded b.writers) d
  (d.cmds.filter Cmd.ranged).foldl (fun (d : Dev) c => d.refuse c.origin clsMedia detNotLoaded) d

/-- MEDIA_UNLOAD: copies settled and writes on the medium, the records on the medium, then every spindle under RING
OFF (Table 10-5, R301, R403, R326). -/
def Dev.advanceUnload (d : Dev) (o : Origin) (c : Cmd) : Dev :=
  match c.phase with
  | .medium =>
    let before := (d.cmds.takeWhile fun x => x.origin != o).any Cmd.ranged
    if before || c.waits != [] || d.copyIds != [] then d
    else if d.gatheredRanges ≠ 0 ∨ d.flushWaits ≠ [] then
      -- data of writes that ended meanwhile is committed and waited for too (R390, R403)
      let d := (d.commitAll o).dueCopies
      let ws := d.flushWaits
      d.updCmd o fun x => { x with waits := ws }
    else
      let d := d.appendAlloc
      d.updCmd o fun x => { x with phase := .records, recs := d.openRecs }
  | .records =>
    -- a copy queued meanwhile is settled too, and a block on the ladder may yet be queued (R301)
    if d.copyIds ≠ [] then d.updCmd o fun x => { x with phase := .medium }
    else if d.ladder ≠ [] then d
    else if d.recsDone c.recs then d.updCmd o fun x => { x with phase := .running }
    else if d.catExhausted then d.updCmd o fun x => { x with phase := .running, failed := some (0, detCatalogFull) }
    else d
  | .running =>
    if c.wait && d.ringSpindles.all (fun n => d.rd .spState [n] == spOff) then
      let d := d.endOfLoad.unload
      match c.failed with
      | some (_, det) => d.finish o clsMedia det 0
      | none => d.finish o clsOk 0 0
    else d
  | _ => d

/-- MEDIA_LOAD: every sled homed or failed, and OPC run or failed on every loaded layer (Table 10-5). -/
def Dev.advanceLoad (d : Dev) (o : Origin) (c : Cmd) : Dev :=
  if c.phase ≠ .running then d
  else
    let moves := fun (p : Nat) => d.rd .slMode [p] == 0 && !d.on .slFault [p]
    let busy := (c.homing.any moves) || (bitsOf c.arg 32).any fun p =>
      moves p && d.surfaceOk p && !(tget {} d.sled p : Sled).homeBlocked
        && ((d.pkS p).opc.any fun e => e.2.pending || e.2.running)
    if busy then d
    else
      let d := { d with loadInForce := true, loadCmd := none }
      match c.failed with
      | some (_, det) => d.finish o clsMedia det c.arg2
      | none => d.finish o clsOk 0 c.arg2

/-- A start of spindle n is requested (R576). -/
def Dev.startRequested (d : Dev) (n : Nat) : Bool :=
  d.on .spEn [n] && d.rd .spTarget [n] != 0 && !d.on .spFault [n]

/-- SPINDLE_SET with WAIT: every named spindle has ATSPEED, or is OFF with no start requested, or FAILED. -/
def Dev.advanceSpindle (d : Dev) (o : Origin) (c : Cmd) : Dev :=
  if (bitsOf c.arg 16).all fun n => d.on .spAtspeed [n] || (d.rd .spState [n] == spOff && !d.startRequested n)
      || d.rd .spState [n] == spFailed
  then d.finish o clsOk 0 0
  else d

/-- A FUA write (R328, R331). -/
def Dev.advanceFua (d : Dev) (o : Origin) (c : Cmd) : Dev :=
  let done := fun (d : Dev) =>
    let d := d.publishFua c
    if c.thermal then d.finish o clsThermal 1 c.length else d.finish o clsOk 0 c.length
  match c.phase with
  | .medium =>
    let mine := d.stripes.filter fun s => c.stripes.contains s.id
    if c.waits ≠ [] ∨ mine.any (fun s => s.recSeqs.isEmpty) then d
    else
      let recs := mine.flatMap Stripe.recSeqs
      if d.recsDone recs then done d
      else d.updCmd o fun x => { x with phase := .records, recs := recs }
  | .records =>
    if d.recsDone c.recs then done d
    else if d.catExhausted then d.finish o clsMedia detCatalogFull 0
    else d
  | _ => d

/-- A RETRIEVE, READ or PEER_EXPORT samples what no overlap holds any more, and ends when nothing is left to read. -/
def Dev.advanceRead (d : Dev) (o : Origin) (c : Cmd) : Dev :=
  if c.phase ≠ .reading then d
  else if c.held.any (d.blockFree c) then d.sampleFreed o c
  else if c.held = [] ∧ c.needs = [] then d.readDone o
  else d

/-- One command goes on, if what it waits for has come about. -/
def Dev.advance (mem : List Host.Cell) (d : Dev) (o : Origin) : Dev :=
  match d.cmd o with
  | none => d
  | some c =>
    if c.phase = .held ∧ c.ranged then if d.heldWhole c then d else d.startRange mem o
    else match c.op with
      | 0x01 =>
        match c.phase with
        | .gathering =>
          if c.delivered < c.length then d.askMore o else if d.blockedBy c then d else d.applyRecord o
        | .reading =>
          if c.needs ≠ [] then d
          else match c.failed with
            | some (_, det) => (d.dropOwner (.write o)).finish o clsMedia det 0
            | none => (d.updCmd o fun x => { x with phase := .gathering }).applyRecord o
        | _ => d.advanceFua o c
      | 0x10 =>
        match c.phase with
        | .gathering => if 65536 ≤ c.delivered then d.applyBlockWrite o else d.askMore o
        | .medium =>
          if c.waits ≠ [] then d
          else if c.recs ≠ [] then d.updCmd o fun x => { x with phase := .records }
          else d.finish o clsOk 0 c.length
        | .records =>
          if d.recsDone c.recs then d.finish o clsOk 0 c.length
          else if d.catExhausted then d.finish o clsMedia detCatalogFull 0
          else d
        | _ => d
      | 0x02 => d.advanceRead o c
      | 0x39 => d.advanceRead o c
      | 0x11 => if c.phase = .reading ∧ c.needs = [] ∧ c.failed.isSome then d.finishRead o else d
      | 0x04 => d.advanceFlush o c
      | 0x09 => d.advanceClose o c
      | 0x18 => d.advanceLoad o c
      | 0x19 => d.advanceUnload o c
      | 0x1A => d.advanceSpindle o c
      | _ => d

/-- One pass over the commands in flight, in the order in which they were taken. -/
def Dev.settleOnce (mem : List Host.Cell) (d : Dev) : Dev :=
  (d.cmds.map Cmd.origin).foldl (fun d o => d.advance mem o) d

/-- Passes until nothing more can move: one command's end can release the next, and each takes at most seven steps. -/
def Dev.settleN (mem : List Host.Cell) : Nat → Dev → Dev
  | 0, d => d
  | n + 1, d =>
    let d' := d.settleOnce mem
    if d'.cmds = d.cmds then d' else Dev.settleN mem n d'

/-- Every command in flight goes as far as it can. -/
def Dev.settle (mem : List Host.Cell) (d : Dev) : Dev := d.settleN mem (7 * d.cmds.length + 1)

end Sys2Proof.Machine
end

