-- ==== Sys2Proof/Machine/Deck.lean ====
section
/-! DEFINITION. What the commands of the deck share (chapters 02 to 06 and 08): positions on the disc, axes, pickup bus
frames, abandonment of rows, stops of sleds, failed seeks and homings, and spindles that leave RUN. -/

namespace Sys2Proof.Machine

/-! ### Records of elements -/

/-- The axis record of axis x of pickup p: key 16e + a with a = 4j + x. -/
def axKey (p x : Nat) : Nat := 4 * p + x
/-- Indices of an axis field: engine and axis. -/
def axIx (p x : Nat) : List Nat := [p / 4, 4 * (p % 4) + x]
/-- Indices of a PK[j] field of an engine. -/
def pjIx (p : Nat) : List Nat := [p / 4, p % 4]

def Dev.axS (d : Dev) (p x : Nat) : Ax := tget {} d.ax (axKey p x)
def Dev.updAx (d : Dev) (p x : Nat) (f : Ax → Ax) : Dev := { d with ax := tset d.ax (axKey p x) (f (d.axS p x)) }
def Dev.servoS (d : Dev) (p : Nat) : Servo := tget {} d.servo p
def Dev.updServo (d : Dev) (p : Nat) (f : Servo → Servo) : Dev := { d with servo := tset d.servo p (f (d.servoS p)) }
def Dev.sledS (d : Dev) (p : Nat) : Sled := tget {} d.sled p
def Dev.updSled (d : Dev) (p : Nat) (f : Sled → Sled) : Dev := { d with sled := tset d.sled p (f (d.sledS p)) }
def Dev.spinS (d : Dev) (n : Nat) : Spin := tget {} d.spin n
def Dev.updSpin (d : Dev) (n : Nat) (f : Spin → Spin) : Dev := { d with spin := tset d.spin n (f (d.spinS n)) }
def Dev.spotS (d : Dev) (p s : Nat) : Spot := tget {} d.spot (16 * p + s)
def Dev.updSpot (d : Dev) (p s : Nat) (f : Spot → Spot) : Dev :=
  { d with spot := tset d.spot (16 * p + s) (f (d.spotS p s)) }
def Dev.seekS (d : Dev) (p : Nat) : Option Seek := tfind d.seek p
def Dev.setSeek (d : Dev) (p : Nat) (k : Seek) : Dev := { d with seek := tset d.seek p k }
def Dev.noSeek (d : Dev) (p : Nat) : Dev := { d with seek := tdel d.seek p }
def Dev.homingS (d : Dev) (p : Nat) : Option Homing := tfind d.homing p
def Dev.setHoming (d : Dev) (p : Nat) (k : Homing) : Dev := { d with homing := tset d.homing p k }

def Dev.axState (d : Dev) (p x : Nat) : Nat := d.rd .axState (axIx p x)
def Dev.axMode (d : Dev) (p x : Nat) : Nat := d.rd .axMode (axIx p x)
/-- The axis is CLOSED. -/
def Dev.closed (d : Dev) (p x : Nat) : Bool := d.axState p x == axClosed
def Dev.slSt (d : Dev) (p : Nat) : Nat := d.rd .slState [p]
def Dev.setSl (d : Dev) (p st : Nat) : Dev := d.wr .slState [p] st
def Dev.spSt (d : Dev) (n : Nat) : Nat := d.rd .spState [n]
def Dev.setSp (d : Dev) (n st : Nat) : Dev := d.wr .spState [n] st
/-- SLED[p].MODE is AUTO. -/
def Dev.sledAuto (d : Dev) (p : Nat) : Bool := d.rd .slMode [p] == 0
/-- P of sled p. -/
def Dev.slP (d : Dev) (p : Nat) : Int := d.rdS .slPos [p]
/-- Bit s of the laser-enable mask (R79). -/
def Dev.spotOn (d : Dev) (p s : Nat) : Bool := (d.rd .pkLaserMask [p]).testBit s
/-- Spindle of pickup p. -/
def spindleOf (p : Nat) : Nat := p / 2

/-- R95: no actuator or sled output of an absent pickup is driven. -/
def Dev.noOutput (d : Dev) (p : Nat) : Dev :=
  let d := (List.range 4).foldl (fun (d : Dev) x => d.updAx p x fun k => { k with coil := 0 }) d
  d.updSled p fun s => { s with coilA := 0, coilB := 0 }

/-! ### Places on the disc (chapter 02) -/

/-- R50, R51: rail radius of band b in nm at angle index 1,536. -/
def railRadius (b : Nat) : Nat := if 65432 ≤ b then 22000960 + 1920 * (b - 65432) else 23000960 + 1920 * b

/-- R51: whole rail periods of band b. -/
def railPeriods (b : Nat) : Nat := (railRadius b * 2 * 3141592653589793 / (576 * 5 * 10 ^ 14) + 1) / 2

/-- R53, R54: data periods of band b: those outside its 384 wedge windows of Wb periods. -/
def dataPeriods (b : Nat) : Nat := railPeriods b - 384 * ceilDiv (railPeriods b) 9600

/-- The walk of R66. -/
def walkBand : Nat → Nat → Nat → Nat
  | 0, _, b => b
  | n + 1, d, b => if d < dataPeriods b then b else walkBand n (d - dataPeriods b) (b + 1)

/-- R66: the band that holds the first preamble bit of row r. -/
def rowBand (r : Nat) : Nat := walkBand 18489 (1600000 + 76720 * r) 0

/-- M(b, a): the rail period at which address mark a of band b begins. -/
def markPeriod (b a : Nat) : Nat := (2 * a * railPeriods b + 3072) / 6144

/-- R53: the 384 wedge windows of band b: first period and number of periods. -/
def wedgeWindows (b : Nat) : List (Nat × Nat) :=
  let wb := ceilDiv (railPeriods b) 9600
  (List.range 384).map fun w => (markPeriod b (8 * w) + 44, wb)

/-- Data periods of the bands inside band b. -/
def dataBase : Nat → Nat
  | 0 => 0
  | b + 1 => dataBase b + dataPeriods b

/-- Data periods of band b before its rail period q. -/
def dataBefore (b q : Nat) : Nat := (wedgeWindows b).foldl (fun o w => o - min w.2 (q - w.1)) q

/-- A position's row on its surface. -/
def rowKey (pba : Nat) : Nat := 2 ^ 17 * pbaLayer pba + pbaRow pba

/-- R66: the block row that holds rail period q of band b, counted on past the last one, 100,639, up to the inner test area. -/
def rowIndex (b q : Nat) : Option Nat :=
  let o := dataBase b + dataBefore b q
  if 65432 ≤ b then some 100640 else if o < 1600000 then none else some (min 100640 ((o - 1600000) / 76720))

/-- R66: the block row that holds rail period q of band b on layer L, by its key. -/
def rowAt (L b q : Nat) : Option Nat :=
  match rowIndex b q with
  | some r => if r < 100640 then some (2 ^ 17 * L + r) else none
  | none => none

/-- Where S0 of pickup p stands, as the mark it has passed: the one before the mark due next, or the last good one. -/
def Dev.place (d : Dev) (p : Nat) : Option Mark :=
  match (d.servoS p).expect with
  | some e => some (if e.angle = 0 then { e with band := e.band - 1, angle := 3071 } else { e with angle := e.angle - 1 })
  | none => (d.pkS p).lastMark

/-- The layer and row that S0 of pickup p has come to, the row after the last one included (log entry 119). -/
def Dev.rowPassed (d : Dev) (p : Nat) : Option (Nat × Nat) :=
  (d.place p).bind fun m => (rowIndex m.band (markPeriod m.band m.angle)).map fun r => (m.layer, r)

/-- The row under S0 of pickup p, to within one mark interval (DESIGN CHOICE, log entry 119). -/
def Dev.rowUnder (d : Dev) (p : Nat) : Option Nat :=
  (d.place p).bind fun m => rowAt m.layer m.band (markPeriod m.band m.angle)

/-! ### Where a block belongs -/

/-- The stripe and the place 7j + k − 1 of the block that the map names at a position. -/
def Dev.stripeOf (d : Dev) (pba : Nat) : Option (Stripe × Nat) :=
  d.stripes.findSome? fun s =>
    (s.pbas.find? fun e => e.2 == pba || d.resolve e.2 == pba).map fun e => (s, e.1)

/-- A catalogue position. -/
def catalogPba (pba : Nat) : Bool := catSurfaces.contains (pbaSurface pba) && decide (100000 ≤ pbaRow pba)

/-- The block belongs to a stripe with parity. -/
def Dev.hasParity (d : Dev) (pba : Nat) : Bool :=
  match d.stripeOf pba with
  | some (s, _) => decide (0 < geometryM s.geometry)
  | none => false

/-- Level 6 is available for the block (Table 09-1). -/
def Dev.levelSix (d : Dev) (pba : Nat) : Bool := d.hasParity pba || catalogPba pba

/-- The stripes a scrub can read: those on the medium. -/
def Dev.scrubbable (d : Dev) : List Stripe := d.stripes.filter fun s => s.waits.isEmpty

/-- The stripe the cursor names: the lowest at or above it, else the lowest of all. -/
def Dev.scrubNext (d : Dev) : Option Stripe :=
  let low := fun (l : List Stripe) => l.foldl (fun (m : Option Stripe) s => match m with
    | none => some s
    | some x => if s.id < x.id then some s else m) none
  let at_ := d.rd64 .svCursorLo .svCursorHi []
  match low (d.scrubbable.filter fun s => decide (at_ ≤ s.id)) with
  | some s => some s
  | none => low d.scrubbable

/-- R385: the blocks of surface p can be read through the map: the surface is ready and no missing member of the volume. -/
def Dev.reachable (d : Dev) (p : Nat) : Bool :=
  d.surfaceOk p && !((d.volume.map Volume.missing).getD []).contains p

/-- The blocks of a stripe that can be read, where the map has them now: those of a missing surface are lost (R385). -/
def Dev.stripeBlocks (d : Dev) (s : Stripe) : List Nat :=
  (s.pbas.map fun e => d.resolve e.2).eraseDups.filter fun a => d.reachable (pbaSurface a)

/-- R297: the recovered copy of a block that has not passed yet, which serves its reads. -/
def Dev.copyHeld (d : Dev) (pba : Nat) : Option Blk := d.blks.find? fun b => b.copyOf.map Prod.fst == some pba

/-- R410: a command needs pickup p: to read a block there, or to write what its lane queues and rows hold. -/
def Dev.needsPickup (d : Dev) (p : Nat) : Bool :=
  (d.cmds.any fun c => c.homing.contains p || c.needs.any fun n => pbaSurface n.1 == p)
    || (d.pkS p).queues.any (fun q => !q.isEmpty) || !(d.pkS p).rows.isEmpty

/-- R410: another block would exceed SCRUB.RATE in the present second (DESIGN CHOICE of the span, log entry 150). -/
def Dev.scrubSpent (d : Dev) : Bool :=
  decide (d.time < d.scrub.second + secTicks 1 ∧ d.rd .svScrubRate * 1000000 < d.scrub.bytes + 65536)

/-- The positions that the scrub reads now: those of its stripe not read yet, on pickups that no command and no self-test needs,
within its rate (R410). -/
def Dev.scrubWants (d : Dev) : List Nat :=
  if !d.loadInForce || !d.on .svScrubEn || d.cmds.any (fun c => c.op == 0x19 && c.phase == .running) then []
  else match d.scrubNext with
    | none => []
    | some s => (d.stripeBlocks s).filter fun a => !d.scrub.done.contains a && (d.copyHeld a).isNone
        && !d.needsPickup (pbaSurface a) && (!d.scrubSpent || d.ladder.any fun e => e.pba == a)
        && !(match d.selftest with
          | some t => !t.suspended && [1, 2, 5, 6].contains (d.rd .svStItem)
          | none => false)

/-- R411: the scrub takes note of a block that it reads: it passed, weakly or not, or left the ladder failed. -/
def Dev.noteScrub (d : Dev) (pba : Nat) (weak lost : Bool) : Dev :=
  if d.scrubWants.contains pba then
    let new := decide (d.scrub.second + secTicks 1 ≤ d.time)
    { d with scrub := { d.scrub with
      second := if new then d.time else d.scrub.second, bytes := 65536 + if new then 0 else d.scrub.bytes,
      done := pba :: d.scrub.done,
      weakNow := if weak then pba :: d.scrub.weakNow else d.scrub.weakNow,
      lostNow := if lost then pba :: d.scrub.lostNow else d.scrub.lostNow } }
  else d

/-! ### The other members at level 6 (R304, R306) -/

/-- The position that the map names for lane place l of member t. -/
def Dev.memberPba (d : Dev) (s : Stripe) (l t : Nat) : Option Nat := (tfind s.pbas (7 * t + l)).map d.resolve

/-- R304: the user bytes of lane place l of member t for an entry of the ladder at level 6, where they are to be had: zeros of a
data member with no block there, a block or a recovered copy that the basin holds, or what its read yielded. -/
def Dev.memberBytes (d : Dev) (e : Ladder) (s : Stripe) (l t : Nat) : Option Bytes :=
  if t < geometryD s.geometry ∧ !s.mask.contains (7 * t + l) then some (zeros 65536)
  else match d.blks.find? fun b => b.copyOf.isNone && (b.kind == .take || b.kind == .parity) && b.stripe == s.id
      && b.member == t && b.lane == l + 1 with
    | some b => some b.data
    | none => match (d.memberPba s l t).bind d.copyHeld with
      | some b => some b.data
      | none => ((tfind e.gather t).getD none).map fun x => slice x 128 65536

/-- R304, R385: the member's block on the lane is failed, dead or unreadable, or its surface is missing. -/
def Dev.memberLost (d : Dev) (e : Ladder) (s : Stripe) (l t : Nat) : Bool :=
  d.memberPba s l t == some e.pba || (d.memberBytes e s l t).isNone && (match d.memberPba s l t with
    | none => true
    | some a => tfind e.gather t == some none || (d.ladder.any fun x => x.pba == a && x.level == 6)
        || (d.pkS (pbaSurface a)).deadAll.contains a || !d.reachable (pbaSurface a))

/-- R304, R306: what an entry at level 6 has still to read: member, or place among the catalogue's surfaces, and position. -/
def Dev.levelSixWants (d : Dev) (e : Ladder) : List (Nat × Nat) :=
  if e.level ≠ 6 ∨ e.waiting then []
  else match d.stripeOf e.pba with
    | some (s, key) =>
      let dd := geometryD s.geometry
      let l := key % 7
      let live := (List.range (dd + geometryM s.geometry)).filter fun t => t != key / 7 && !d.memberLost e s l t
      if live.length < dd then []
      else (live.take dd).filterMap fun t =>
        if (d.memberBytes e s l t).isSome then none else (d.memberPba s l t).map fun a => (t, a)
    | none =>
      if e.gather.any fun g => g.2.isSome then []
      else ((catSurfaces.zipIdx.filter fun x =>
        x.1 != pbaSurface e.pba && d.surfaceOk x.1 && (tfind e.gather x.2).isNone).map fun x =>
        (x.2, x.1 * 2 ^ 22 + e.pba % 2 ^ 22)).take 1

/-- A read for level 6 of another block. -/
def Dev.memberWanted (d : Dev) (pba : Nat) : Bool :=
  d.ladder.any fun e => (d.levelSixWants e).any fun w => w.2 == pba

/-- What a read at a position yielded joins the entries at level 6 that want it. -/
def Dev.gatherMember (d : Dev) (pba : Nat) (v : Option Bytes) : Dev :=
  { d with ladder := d.ladder.map fun e =>
      (d.levelSixWants e).foldl (fun (x : Ladder) w =>
        if w.2 = pba then { x with gather := tset x.gather w.1 v } else x) e }

/-- The blocks that a command reads now: none while its retrieved data has no unit to go to (R579). -/
def Dev.dueReads (d : Dev) (c : Cmd) : List (Nat × Nat) :=
  if d.unitsWait (.delivery c.origin) && d.unitsOwned (.delivery c.origin) == 0 then [] else c.needs

/-- The positions of pickup p that a command, a repeat for the rail, or the ladder needs from the medium. -/
def Dev.wanted (d : Dev) (p : Nat) : List Nat :=
  ((d.cmds.flatMap fun (c : Cmd) => (d.dueReads c).map Prod.fst) ++ d.railWait.map RailWait.pba
    ++ (d.ladder.filter fun e => e.rereading && !e.waiting).map Ladder.pba
    ++ d.ladder.flatMap fun e => (d.levelSixWants e).map Prod.snd).eraseDups.filter fun a => pbaSurface a == p

/-- A block row is being read on the pickup (R135, R154, R161): a row that is wanted, or that the scrub reads, is under S0. -/
def Dev.rowRead (d : Dev) (p : Nat) : Bool :=
  d.on .pkMtoLock [p] && d.closed p 1 && d.slSt p == slFollow
    && (match (d.wanted p ++ d.scrubWants.filter fun a => pbaSurface a == p), d.rowUnder p with
      | [], _ => false
      | l, some key => l.any fun a => rowKey a == key
      | _, none => false)

/-- Channel rate of pickup p in bit/s (R51): the rail bits of the band last read, at the spindle's speed. -/
def Dev.channelRate (d : Dev) (p : Nat) : Nat :=
  12 * railPeriods (((d.pkS p).lastMark.map Mark.band).getD 0) * (d.rdS .spSpeed [spindleOf p]).natAbs / 60

/-- R17: the channels of pickup p, and the media angle they feed, operate. -/
def Dev.channelRuns (d : Dev) (p : Nat) : Bool := decide (100000000 ≤ d.channelRate p)

/-- Equaliser and strategy zone of band b (chapter 07): 0 in the inner test area, 7 in the outer test zone. -/
def zoneOf (b : Nat) : Nat := if 65432 ≤ b then 0 else min 7 (b * 8 / 18229)

/-- R50: radius in 1/8 nm of the rail of band b at angle index a. -/
def bandRadius (b a : Nat) : Int :=
  if 65432 ≤ b then 176000000 + 15360 * ((b : Int) - 65432) + 5 * a else 184000000 + 15360 * (b : Int) + 5 * a

/-- The radius model in nm at P (chapter 05). -/
def Dev.radiusAt (d : Dev) (p : Nat) (P : Int) : Int :=
  d.rdS .slOrigin [p] + roundDiv ((d.rd .slScale [p] : Int) * P * 1000) (2 ^ 32)

/-- P at a radius in 1/8 nm, by the radius model. -/
def Dev.posAt (d : Dev) (p : Nat) (r8 : Int) : Int :=
  roundDiv ((r8 - 8 * d.rdS .slOrigin [p]) * 2 ^ 32) (8000 * (d.rd .slScale [p] : Int))

/-! ### Pickup bus frames (R90 to R98) -/

/-- A write joins the bus's queue; an unsent write of the same register takes the new value instead (R92). -/
def addFrame (l : List Frame) (f : Frame) : List Frame :=
  if l.any fun (g : Frame) => g.op == 1 && g.reg == f.reg then
    l.map fun (g : Frame) => if g.op == 1 && g.reg == f.reg then f else g
  else l ++ [f]

/-- Queue a write of a pickup register. -/
def Dev.busWrite (d : Dev) (p reg data : Nat) : Dev :=
  d.updPk p fun k => { k with frames := addFrame k.frames { op := 1, reg := reg, data := data % 65536 } }

/-- A cyclic read of a pickup register falls due (R92). -/
def Dev.busRead (d : Dev) (p reg : Nat) : Dev :=
  d.updPk p fun k => { k with polls := k.polls ++ [{ op := 2, reg := reg }] }

/-- The row being written on pickup p. -/
def Dev.rowNow (d : Dev) (p : Nat) : Option RowWrite := (d.pkS p).rows.find? RowWrite.started

/-- R80, R273: a read power, write power or corrector setting reaches the pickup only while no row is written there. -/
def Dev.settingWrite (d : Dev) (p reg data : Nat) : Dev :=
  if (d.pkS p).rows = [] then
    (d.busWrite p reg data).updPk p fun k => { k with settling := some (d.time, reg == 0x0B || (k.settling.map Prod.snd).getD false) }
  else d.updPk p fun k =>
    { k with pendingFrames := addFrame k.pendingFrames { op := 1, reg := reg, data := data % 65536 } }

/-- R273: the values that wait are sent after the last postamble bit of the row before the one that needs them. -/
def Dev.sendSettings (d : Dev) (p : Nat) : Dev :=
  let k := d.pkS p
  if (k.rows.find? RowWrite.started).isSome ∨ k.rows.any (fun r => !r.newValues) then d
  else
    let d := k.pendingFrames.foldl (fun d f => d.busWrite p f.reg f.data) d
    d.updPk p fun k => { k with pendingFrames := [] }

/-- R97: SA for layer L in 0.01 µm. -/
def Dev.saOf (d : Dev) (p L : Nat) : Int := 7000 + 1500 * (L : Int) + d.rdS .pkSaTrim [p, L]

/-- R97: write SA for layer L. -/
def Dev.sendSa (d : Dev) (p L : Nat) : Dev :=
  (d.busWrite p 0x0B (toTwos 16 (d.saOf p L))).updPk p fun k => { k with sa := some (d.saOf p L), layer := L }

/-! ### Catalogue rows (R69, R70) -/

/-- Records of the catalogue row being written whose blocks hold their final position on every copy are on the medium;
a row with no check left is over, and the records behind a failed block are written again. -/
def Dev.catProgress (d : Dev) : Dev :=
  match d.cat.writing with
  | none => d
  | some w =>
    let limit := w.failedLane.getD 8
    let upto := [1, 2, 3, 4, 5, 6, 7].takeWhile (fun (j : Nat) => decide (j < limit) && !(w.waits.any fun x => x.2 == j))
    let seqs := upto.flatMap fun j => w.lanes.getD (j - 1) []
    let mark := fun (r : CatRec) => if seqs.contains r.seq then { r with onMedium := true } else r
    let d := d.updCat fun c => { c with
      records := c.records.map mark, owed := c.owed.filter fun e => !seqs.contains e.1 }
    if w.waits ≠ [] then d else d.updCat fun c => { c with writing := none }

/-- The blocks of surface p on some lanes of the catalogue row need no further check; `failed` is the lowest lane that
failed there. -/
def Dev.catSettle (d : Dev) (p : Nat) (lanes : List Nat) (failed : Option Nat) : Dev :=
  match d.cat.writing with
  | none => d
  | some w =>
    let low := match w.failedLane, failed with
      | some a, some b => some (min a b)
      | some a, none => some a
      | none, f => f
    (d.updCat fun c => { c with writing := some { w with
      waits := w.waits.filter fun x => !(x.1 == p && lanes.contains x.2), failedLane := low } }).catProgress

/-! ### Abandonment (R261, R262, R271) -/

/-- A row write is abandoned: every WSTB output low, blocks back to the heads of their queues, the counters as one step, the position in the
defect list, ROW_ABANDONED. The bits emitted before the stop are a free value of a started row. -/
def Dev.abandon (d : Dev) (p : Nat) (rw : RowWrite) (cause : Nat) : Dev :=
  let os := d.causedBy (rw.lanes.map Prod.snd)
  let fr := d.fresh
  let bits := if rw.started then fr.1 % 920641 else 0
  let d := if rw.started then fr.2.emit (.wstbLow p) else d
  let d := d.updPk p fun k => { k with
    rows := k.rows.filter fun r => r != rw, abandoned := k.abandoned ++ [(rw.layer, rw.row)],
    occupied := tset k.occupied (2 ^ 17 * rw.layer + rw.row) [] }
  let d := ((d.dec .rowInprog [p]).inc .rowAbandoned [p]).inc .pkAbandon [p, cause - 1]
  let d := d.inc .defectAbandoned [p]
  let d := match rw.kind with
    | .catalogue =>
      let d := rw.lanes.foldl (fun (d : Dev) (e : Nat × Nat) => d.dropBlk e.2) d
      d.catSettle p (rw.lanes.map Prod.fst) (some 1)
    | .spare => d.updPk p fun k =>
        let q : Realloc := tget {} k.realloc rw.queue
        { k with realloc := tset k.realloc rw.queue { q with queue := rw.lanes.map Prod.snd ++ q.queue, due := true } }
    | _ => rw.lanes.foldl (fun (d : Dev) (e : Nat × Nat) =>
        -- a BLOCK_WRITE's position is never written again (R67): its block takes the next user row
        let mark := fun (b : Blk) =>
          if b.kind = BlkKind.raw then { b with failedAt := b.failedAt ++ [pbaOf p rw.layer e.1 rw.row] } else b
        (d.updBlk e.2 mark).requeue p e.1 e.2) d
  let d := d.wr .recovQueued [p] ((d.pkS p).realloc.foldl (fun n e => n + e.2.queue.length) 0)
  (d.raiseFor os (32 * p + 21) evRowAbandoned ([rw.layer] ++ le 4 rw.row ++ [cause] ++ le 4 bits)).sendSettings p

/-- R276: the test writing of an OPC run in progress on the pickup is abandoned: every WSTB output low, and the run is void at its
present end. -/
def Dev.voidTest (d : Dev) (p : Nat) : Dev :=
  if (d.pkS p).opc.any fun e => e.2.running && e.2.begun && !e.2.void then
    (d.emit (.wstbLow p)).updPk p fun k =>
      { k with opc := k.opc.map fun e => if e.2.running && e.2.begun then (e.1, { e.2 with void := true }) else e }
  else d

/-- R199 steps 2 and 3: every row write in progress on the pickup, started or allocated (Table 08-4), is abandoned, the one
allocated last first, so that the blocks come back in their order; so is the test writing of OPC. -/
def Dev.abandonAll (d : Dev) (p cause : Nat) : Dev :=
  ((d.pkS p).rows.reverse.foldl (fun (d : Dev) rw => d.abandon p rw cause) d).voidTest p

/-- R261: a cause is detected while a row is being written; a row allocated and not started is checked at its start
(R260, Table 08-9). The causes apply to the test writing of OPC (R276). -/
def Dev.abandonNow (d : Dev) (p cause : Nat) : Dev :=
  match d.rowNow p with
  | some rw => d.abandon p rw cause
  | none => d.voidTest p

/-! ### Axes (Table 04-5) -/

/-- The axis enters a state. Leaving CLOSED on focus or tracking abandons the row being written (R117); OFF, OPEN and
SEARCH clear the integrator and the filter states. -/
def Dev.setAx (d : Dev) (p x st : Nat) : Dev :=
  let old := d.axState p x
  let d := if old = axClosed ∧ st ≠ axClosed ∧ x ≤ 1 then d.abandonNow p abAxis else d
  let d := d.wr .axState (axIx p x) st
  if st = axOff ∨ st = axOpen ∨ st = axSearch then
    (d.wr .axInteg (axIx p x) 0).updAx p x fun k =>
      { k with s1 := [0, 0, 0, 0, 0, 0], s2 := [0, 0, 0, 0, 0, 0], x6prev := 0, spoiled := true }
  else d.updAx p x fun k => { k with spoiled := true }

/-- R506: a CALIB_MEASURE of axis x of pickup p, or of its bridge, runs. -/
def Dev.axisMeasured (d : Dev) (p x : Nat) : Bool :=
  d.measures.any fun m => m.running && (m.item == 3 || m.item == 4) && m.index == 4 * p + x

/-- The device's own sequences set an axis only while its MODE is AUTO (R116) and nothing measures it (R506). -/
def Dev.seqAx (d : Dev) (p x st : Nat) : Dev := if d.axMode p x = 0 ∧ !d.axisMeasured p x then d.setAx p x st else d

/-- Several axes of a pickup. -/
def Dev.seqAxes (d : Dev) (p st : Nat) (xs : List Nat) : Dev := xs.foldl (fun d x => d.seqAx p x st) d

/-! ### What a failed motion ends -/

/-- A self-test item that uses the pickups is running (R160, Table 12-11). -/
def Dev.selftestUses (d : Dev) (p : Nat) : Bool :=
  match d.selftest with
  | some t => !t.suspended && [1, 2, 5, 6].contains (d.rd .svStItem) && d.on .pkPresent [p]
  | none => false

/-- R573: the commands for which the device moves pickup p: those that read a block there or wait for a block queued
there, a MEDIA_LOAD that waits for its homing, and a SELF_TEST whose item uses it. -/
def Dev.motionFor (d : Dev) (p : Nat) : List Origin :=
  let there := fun (i : Nat) => match d.blk? i with | some b => b.surface == p | none => false
  (d.cmds.filter fun c => c.needs.any (fun n => pbaSurface n.1 == p) || c.waits.any there || c.homing.contains p
      || (d.selftestUses p && d.selftest.map SelfTest.origin == some c.origin)).map Cmd.origin

/-- An event of a motion of pickup p (R573). -/
def Dev.raiseMotion (d : Dev) (p sub code : Nat) (payload : Bytes := []) : Dev :=
  d.raiseFor (d.motionFor p) (32 * p + sub) code payload

/-- The reads for which `hit` holds of a position fail with the detail. -/
def Dev.loseNeeds (d : Dev) (det : Nat) (hit : Nat → Bool) : Dev :=
  { d with cmds := d.cmds.map fun (c : Cmd) =>
      let gone := c.needs.filter fun n => hit n.1
      if gone = [] then c
      else
        let c := gone.foldl (fun (c : Cmd) n => c.fail (65536 * n.2) det) c
        { c with needs := c.needs.filter fun n => !hit n.1 } }

/-- A jump or a focus capture that reads needed on layer L of pickup p has failed: their blocks fail with the detail
(R134, R138). -/
def Dev.loseReads (d : Dev) (p L det : Nat) : Dev :=
  d.loseNeeds det fun a => pbaSurface a == p && pbaLayer a == L

/-- The blocks of pickup p that are to be recorded in a row, by layer and row, for which `here` holds: those of rows in progress,
those that a BLOCK_WRITE names, and the heads of the lane queues when the next user row is such a row. -/
def Dev.writesFor (d : Dev) (p : Nat) (here : Nat → Nat → Bool) : List Nat :=
  let k := d.pkS p
  let placed := (k.rows.filter fun r => r.kind != .catalogue && here r.layer r.row).flatMap fun r => r.lanes.map Prod.snd
  let fixed := k.queues.flatten.filter fun i =>
    match (d.blk? i).bind Blk.fixed with | some f => here (f / 2 ^ 17) (f % 2 ^ 17) | none => false
  let heads := (k.queues.filterMap List.head?).filter fun i => ((d.blk? i).bind Blk.fixed).isNone
  placed ++ fixed ++ match d.writeLayer p with
    | some L => if here L (d.rd .rowNext [p, L]) then heads else []
    | none => []

/-- A write that a seek or a jump served in vain: a BLOCK_WRITE's block leaves with the detail; the commands in flight that a take
block carries end with class MEDIA, and the block stays queued. -/
def Dev.failWriteFor (d : Dev) (det id : Nat) : Dev :=
  match d.blk? id with
  | none => d
  | some b =>
    if b.kind = .raw then d.loseBlk id clsMedia det
    else
      let live := b.writers.filter d.inFlight
      live.foldl (fun (d : Dev) w => (d.noteFailed w).finish w.origin clsMedia det 0) d

/-- The writes of pickup p for which `here` holds of their row end with the detail. -/
def Dev.loseWrites (d : Dev) (p det : Nat) (here : Nat → Nat → Bool) : Dev :=
  (d.writesFor p here).eraseDups.foldl (fun (d : Dev) i => d.failWriteFor det i) d

/-- R158: every retry of a seek has failed. The commands that needed it end with MEDIA 0x0304: their reads of rows that
start in its band of its layer, and their writes there. -/
def Dev.seekLost (d : Dev) (p : Nat) (k : Seek) : Dev :=
  let d := (d.noSeek p).loseNeeds detSeek fun a =>
    pbaSurface a == p && pbaLayer a == k.layer && rowBand (pbaRow a) == k.band
  d.loseWrites p detSeek fun l row => l == k.layer && rowBand row == k.band

/-- A MEDIA_LOAD in progress that needed the motion on pickup p reports it at its end. -/
def Dev.loadFails (d : Dev) (p det : Nat) : Dev :=
  { d with cmds := d.cmds.map fun (c : Cmd) =>
      if c.op = 0x18 ∧ c.phase = .running ∧ c.arg.testBit p then c.fail 0 det else c }

/-- No block row is written or read on the pickup, and no seek, homing or jump is in progress (R135, R154). -/
def Dev.pickupQuiet (d : Dev) (p : Nat) : Bool :=
  (d.rowNow p).isNone && !d.rowRead p && !thas d.seek p && !thas d.homing p && (d.servoS p).jump.isNone

/-! ### Reads that fail (R240, R279 to R281, R293) -/

/-- Commands that need the block at a position. -/
def Dev.readers (d : Dev) (pba : Nat) : List Origin :=
  (d.cmds.filter fun c => c.needs.any fun n => n.1 == pba).map Cmd.origin

/-- One command's block failed. -/
def Dev.failRead (pba det : Nat) (d : Dev) (o : Origin) : Dev :=
  match d.cmd o with
  | none => d
  | some c =>
    let mine := c.needs.filter fun n => n.1 == pba
    let d := d.updCmd o fun x => { x with needs := x.needs.filter fun n => n.1 != pba }
    if c.op = 0x11 then (d.dropOwner (.delivery o)).finish o clsMedia det pba
    else mine.foldl (fun d n => d.updCmd o fun x => x.fail (65536 * n.2) det) d

/-- R289: the pickup is reserved while a block of it is on the ladder below level 6. -/
def Dev.reserve (d : Dev) (p : Nat) : Dev :=
  d.updPk p fun k => { k with
    reserved := d.ladder.any fun e => pbaSurface e.pba == p && !e.waiting && decide (e.level < 6) }

/-- Something reads the block at a position now. -/
def Dev.neededNow (d : Dev) (pba : Nat) : Bool :=
  (d.cmds.any fun c => (d.dueReads c).any fun n => n.1 == pba) || d.scrubWants.contains pba || d.memberWanted pba

/-- The entry of a position leaves the ladder; its records' units are freed (R283). -/
def Dev.leaveLadder (d : Dev) (pba : Nat) : Dev :=
  match d.ladder.find? fun e => e.pba == pba with
  | none => d
  | some e =>
    let d := { d with ladder := d.ladder.filter fun x => x.pba != pba }
    let d := if e.waiting then d else d.dec .rvActive []
    (d.dropOwner (.ladder pba)).reserve (pbaSurface pba)

/-- Something still needs the block at a position: a command, the scrub, or level 6 of another block. -/
def Dev.stillNeeded (d : Dev) (pba : Nat) : Bool :=
  d.readers pba != [] || d.scrubWants.contains pba || d.memberWanted pba

/-- A block left the ladder failed (R293). -/
def Dev.unrecovered (d : Dev) (pba level det : Nat) : Dev :=
  let p := pbaSurface pba
  let os := d.readers pba
  let needed := d.stillNeeded pba
  let d := ((d.leaveLadder pba).gatherMember pba none).noteScrub pba false true
  let d := if !needed then d
    else (d.inc .recovFail [p]).raiseFor os (32 * p + pbaLane pba) evBlockUnrecovered (le 4 pba ++ [level] ++ le 4 det)
  os.foldl (fun d o => Dev.failRead pba det d o) d

/-- The FIR taps of spot s from tap −h to tap h. -/
def Dev.firTaps (d : Dev) (p s h : Nat) : List Int :=
  (List.range (2 * h + 1)).map fun i => d.rdS .rcFirTap [p, s, 7 - h + i]

/-- The taps in force for the data spot of lane k. -/
def Dev.laneTaps (d : Dev) (p k : Nat) : Taps :=
  { fir := d.firTaps p k 7, inn := (List.range 3).map fun j => d.rdS .rcItiIn [p, k - 1, j],
    out := (List.range 3).map fun j => d.rdS .rcItiOut [p, k - 1, j] }

/-- A block enters at a level, or waits for a place behind those that wait already (R290); `start` are the taps its level-0 read began with, and
`seekFirst` tells that it lay in another band. -/
def Dev.enter (d : Dev) (pba level outcome : Nat) (start : Taps) (seekFirst : Bool) (decoded : Decoded := {})
    (live : LivePass := {}) : Dev :=
  let full := decide (d.rd .rvMaxActive ≤ d.rd .rvActive) || d.ladder.any Ladder.waiting
  let e : Ladder := { pba := pba, level := level, outcome := outcome, start := start, seekFirst := seekFirst, waiting := full,
                      rereading := level == 1,
                      decoded := decoded, live := live }
  let d := { d with ladder := d.ladder ++ [e] }
  if full then d else (d.inc .rvActive []).reserve (pbaSurface pba)

/-- A block that failed at level 0 enters the ladder, unless MAXLEVEL lets it try no level. -/
def Dev.toLadder (d : Dev) (pba outcome : Nat) (start : Taps) (seekFirst : Bool) (decoded : Decoded := {})
    (live : LivePass := {}) : Dev :=
  if d.rd .rvMaxlevel = 0 then d.unrecovered pba 0 (detOutcome outcome)
  else d.enter pba 1 outcome start seekFirst decoded live

/-- What reads on pickup p: what is wanted there, and what the scrub reads. -/
def Dev.readsNow (d : Dev) (p : Nat) : List Nat :=
  (d.wanted p ++ d.scrubWants.filter fun a => pbaSurface a == p).eraseDups

/-- The blocks being read of the row under S0 (n = 0), or of the row that has passed it last (n = 1). -/
def Dev.readingRow (d : Dev) (p n : Nat) : List Nat :=
  (d.readsNow p).filter fun a => d.rowUnder p == some (rowKey a + n) && !(d.ladder.any fun e => e.pba == a)

/-- The reading conditions of the pickup cease: reads that have ended complete their decode (R241). -/
def Dev.holdReads (d : Dev) (p : Nat) : Dev :=
  let l := d.readingRow p 1
  if l = [] then d else d.updPk p fun k => { k with readOut := (k.readOut ++ l).eraseDups }

/-- The position has never been allocated (R279). -/
def Dev.neverAllocated (d : Dev) (a : Nat) : Bool :=
  let p := pbaSurface a
  let L := pbaLayer a
  (decide (pbaRow a < 98400) && decide (d.rd .rowNext [p, L] ≤ pbaRow a)
      && !thas (d.pkS p).occupied (2 ^ 17 * L + pbaRow a))
    || (decide (98400 ≤ pbaRow a ∧ pbaRow a < 100000) && decide (d.rd .rowSpareNext [p, L] ≤ pbaRow a))

/-- R279: a block failed at level 0. A BLOCK_READ of a position never allocated completes with outcome BLANK; what else needs the block
takes it to the ladder. -/
def Dev.blankOrLadder (d : Dev) (pba outcome : Nat) (start : Taps) (seekFirst : Bool) (decoded : Decoded := {})
    (live : LivePass := {}) : Dev :=
  let blank := (d.readers pba).filter fun _ => d.neverAllocated pba
  let d := blank.foldl (fun d o => Dev.failRead pba (detOutcome 2) d o) d
  if d.stillNeeded pba then d.toLadder pba outcome start seekFirst decoded live else d

/-- R161: a stop ends the read of the block row under S0, whose blocks climb the ladder: more than 8 of their frames have no
sync (DEDUCED, log entry 119). A re-read of the ladder is made again. -/
def Dev.endRead (d : Dev) (p : Nat) : Dev :=
  if !d.rowRead p then d
  else
    let row := d.rowUnder p
    let d := d.updPk p fun k => { k with reading := k.reading.filter fun r => row != some (rowKey r.pba) }
    ((d.readingRow p 0).filter fun a => !(d.pkS p).readOut.contains a).foldl (fun (d : Dev) a =>
      ({ d with railWait := d.railWait.filter fun w => w.pba != a }).blankOrLadder a 3 (d.laneTaps p (pbaLane a)) false)
      (d.holdReads p)

/-! ### Sled stops (R160 to R163) -/

/-- 80 × p_out of R150, in 1/256 microstep: between the last two set-points, or where an immediate stop froze it (R160). -/
def Dev.sledOut80 (d : Dev) (p : Nat) : Int :=
  let s := d.sledS p
  match s.frozen with
  | some x => x
  | none => 80 * s.prev + (d.slP p - s.prev) * (min s.phase 80 : Nat)

/-- p_out in 1/256 microstep, rounded down. -/
def Dev.sledOut (d : Dev) (p : Nat) : Int := floorDiv (d.sledOut80 p) 80

/-- The sled becomes UNHOMED at once: the microstep address is frozen and the coil current cut (R160, R162). P, which
changes only through the position loop (R143), stays. -/
def Dev.unhome (d : Dev) (p cause : Nat) : Dev :=
  let was := d.slSt p
  let out := d.sledOut80 p
  let d := d.updSled p fun s => { s with frozen := some out, move := none, ramp := none }
  let d := d.setSl p slUnhomed
  if was = slUnhomed then d else d.raisePk p 20 evSledUnhomed [cause]

/-- Ramp stop: the sled decelerates with the profile's J and A and then enters HOLD (STOP_RAMP_END). -/
def Dev.beginRamp (d : Dev) (p : Nat) (r : StopRamp) : Dev :=
  (d.updSled p fun s => { s with move := none, ramp := some r }).setSl p slStopping

/-- The ramp stop from what the sled does now: a move's own speed and acceleration, or the speed at which the follow law
moved P over its last run of 200 µs. `accel` is A in 0.01 m/s². -/
def Dev.rampFrom (d : Dev) (p accel : Nat) : StopRamp :=
  match (d.sledS p).move with
  | some m => m.stopAt d.time (d.slP p) (d.rd .slJerk [p]) accel
  | none =>
    let v := d.slP p - (d.sledS p).prev
    { start := d.slP p, outward := decide (0 ≤ v),
      speed := v.natAbs * d.rd .slScale [p] * (5 * 10 ^ 27) / 2 ^ 32 / d.rd .slJerk [p],
      accel := 0, jerk := d.rd .slJerk [p], limit := accel, scale := d.rd .slScale [p], began := d.time }

/-- A seek in motion that is a re-seek or a retry (R160). -/
def Seek.recovering (k : Seek) : Bool := k.recovery && k.step != .waiting

/-- R160: the cause of an immediate stop, or none for a ramp. Of causes that hold together the first of 1, 2, 3, 4 counts, and
STOPMODE's 0 only when none of them holds (DESIGN CHOICE, log entry 62). -/
def Dev.immediate (d : Dev) (p : Nat) (fault : Bool) : Option Nat :=
  if fault then some 1
  else if d.slSt p = slHoming ∨ !(d.sledS p).homed then some 2
  else if d.selftestUses p then some 3
  else if ((d.seekS p).map Seek.recovering).getD false || ((d.homingS p).map Homing.recovery).getD false then some 4
  else if d.on .slStopmode [p] then some 0
  else none

/-- The sled comes to a stop for a reason already decided. -/
def Dev.halt (d : Dev) (p : Nat) (how : Option Nat) : Dev :=
  match how with
  | some c => d.unhome p c
  | none =>
    if d.slSt p = slHold ∨ d.slSt p = slUnhomed ∨ d.slSt p = slStopping then d
    else d.beginRamp p (d.rampFrom p (d.rd .slAccel [p]))

/-- R158: a seek fails with its cause (0 TIMEOUT, 1 STOPPED, 2 BAND, 3 FAULT) and its last P; it is retried, or the
command that needed it ends with MEDIA 0x0304. -/
def Dev.seekFails (d : Dev) (p cause : Nat) : Dev :=
  match d.seekS p with
  | none => d
  | some k =>
    let d := d.raiseMotion p 20 evSeekFail ([cause] ++ leI 4 (d.slP p))
    if k.retries < d.rd .slSeekRetry [p] then
      d.setSeek p { k with step := .waiting, retries := k.retries + 1, corrections := 0, recovery := true }
    else d.seekLost p k

/-- The homing that a MEDIA_LOAD waited for on pickup p is over; one that failed on a pickup that the load names is reported at
its end. -/
def Dev.homingOver (d : Dev) (p : Nat) (ok : Bool) : Dev :=
  { d with cmds := d.cmds.map fun (c : Cmd) =>
      if c.op = 0x18 ∧ c.homing.contains p then
        let c := { c with homing := c.homing.filter (· != p) }
        if ok ∨ !c.arg.testBit p then c else c.fail 0 detSeek
      else c }

/-- R166: homing fails with its cause; the sled stops at once and is UNHOMED, and a seek that waited for it ends. -/
def Dev.homeFails (d : Dev) (p cause unhomedCause : Nat) : Dev :=
  if !thas d.homing p then d
  else
    let d := { d with homing := tdel d.homing p }
    let d := d.raiseMotion p 20 evHomeFail [cause]
    let d := d.unhome p unhomedCause
    let d := (d.updSled p fun s => { s with homeBlocked := true }).homingOver p false
    match d.seekS p with
    | some k => d.seekLost p k
    | none => d

/-- R160, R161, R163: a stop. The row being written is abandoned; a homing or a seek in progress ends. -/
def Dev.stopSled (d : Dev) (p : Nat) (fault : Bool) : Dev :=
  let d := (d.abandonNow p abSled).endRead p
  let how := d.immediate p fault
  if thas d.homing p then d.homeFails p 5 (how.getD 2)
  else
    let moving : Bool := match d.seekS p with | some k => k.step != .waiting | none => false
    if d.slSt p = slStopping then (match how with | some c => d.unhome p c | none => d)
    else
      let d := if moving then d.seekFails p (if fault then 3 else 1) else d
      d.halt p how

/-! ### The write window (R489) -/

/-- Reading `which` of Table 15-5 for pickup p in 1/16 °C: 0 pickup, 1 ambient, 2 the highest of four die sensors. -/
def Dev.reading (d : Dev) (p which : Nat) : Int :=
  match which with
  | 0 => d.rdS .pkTemp [p]
  | 1 => d.rdS .thAmb [p / 2]
  | _ => [2 * (p / 8), 2 * (p / 8) + 1, 6].foldl (fun m i => max m (d.rdS .thDie [i])) (d.rdS .thDie [7])

/-- The reading lies in the window less a margin at each end, in 1/160 °C. A sensor fault counts as outside, and an
ambient sensor that AMB_EN excludes takes no part (R488). -/
def Dev.inBand (d : Dev) (p which : Nat) (margin : Int) : Bool :=
  let t := 10 * d.reading p which
  let w : Window := tget {} d.thermal.windows p
  match which with
  | 0 => !w.alarm && decide (1600 + margin ≤ t ∧ t ≤ 8000 - margin)
  | 1 => !d.on .thAmbEn [p / 2]
      || (!d.thermal.ambFault.contains (p / 2) && decide (800 + margin ≤ t ∧ t ≤ 7200 - margin))
  | _ => decide (t ≤ 16000 - margin)

/-- All three readings of pickup p lie inside the window. -/
def Dev.inWindowAll (d : Dev) (p : Nat) : Bool := d.inBand p 0 0 && d.inBand p 1 0 && d.inBand p 2 0

/-- Every reading lies in its reopening band. -/
def Dev.reopened (d : Dev) (p : Nat) : Bool :=
  let h : Int := 16 * d.rd .thHyst
  d.inBand p 0 h && d.inBand p 1 h && d.inBand p 2 h

/-- R490, R491: a reading of pickup p has been updated. Outside the window it places a write hold and abandons the row
being written; during a hold, the time for which every reading has stayed inside its reopening band is kept. -/
def Dev.newReading (d : Dev) (p which : Nat) : Dev :=
  let w : Window := tget {} d.thermal.windows p
  let put := fun (d : Dev) (w : Window) => d.updTh fun t => { t with windows := tset t.windows p w }
  if !d.on .pkPresent [p] then d
  else if d.on .thHold [p] then
    let d := put d { w with inside := if d.reopened p then some (w.inside.getD d.time) else none }
    if d.inBand p which 0 then d else d.abandonNow p abThermal
  else if d.inBand p which 0 then d
  else
    let d := (put d { w with since := d.time, inside := none, expired := false }).wr .thHold [p] 1
    (d.raisePk p 23 evWriteHold ([which] ++ leI 2 (d.reading p which))).abandonNow p abThermal

/-! ### The laser-enable mask (R79, R80, R99) -/

/-- S0 of pickup p goes dark: a homing in progress fails (R166). -/
def Dev.railDark (d : Dev) (p : Nat) : Dev := if thas d.homing p then d.homeFails p 4 5 else d

/-- A new mask: its frame, and the row being written abandoned when one of S0 to S14 is cleared. -/
def Dev.setMask (d : Dev) (p mask : Nat) : Dev :=
  let old := d.rd .pkLaserMask [p]
  let lost := (List.range 15).any fun s => old.testBit s && !mask.testBit s
  let d := ((d.holdReads p).wr .pkLaserMask [p] mask).busWrite p 0x08 mask
  let d := if lost then d.abandonNow p abLaser else d
  if old.testBit 0 ∧ !mask.testBit 0 then d.railDark p else d

/-- A host write of the mask: discarded while LDOFF_n is low (R101). -/
def Dev.hostMask (d : Dev) (p mask : Nat) : Dev := if d.pins.ldoffLow then d else d.setMask p mask

/-! ### Spindles (R199, R200) -/

/-- The speed a field or a payload gives: rpm, 2 bytes signed. -/
def Dev.speedBytes (d : Dev) (n : Nat) : Bytes := leI 2 (d.rdS .spSpeed [n])

/-- Spindle n leaves RUN: the rows in progress on its pickups are abandoned (R199, R200), ATSPEED clears, and the time out of
RUN starts. -/
def Dev.leaveRun (d : Dev) (n : Nat) : Dev :=
  if d.spSt n ≠ spRun then d
  else
    let d := (d.abandonAll (2 * n) abSpindle).abandonAll (2 * n + 1) abSpindle
    (d.wr .spAtspeed [n] 0).updSpin n fun k => { k with outSince := some d.time, replaced := false }

/-- Source of spindle n's events (Table 06-6). -/
def spSrc (n sub : Nat) : Nat := 0x400 + 16 * n + sub

end Sys2Proof.Machine
end

