-- ==== Sys2Proof/Machine/Unload.lean ====
section
/-! DEFINITION. Targets of spindles and what a MEDIA_UNLOAD does to the deck (chapters 05, 06 and 10). -/

namespace Sys2Proof.Machine

/-! ### Targets (R185, R195, R196) -/

/-- R185: a target speed as taken. -/
def takenTarget (rpm : Nat) : Nat := if rpm < 300 then 0 else min rpm 12000

/-- The gates are commanded off: the outputs follow at the next edge 200 (R199). -/
def Dev.gatesOff (d : Dev) (n : Nat) : Dev :=
  d.updSpin n fun k => { k with
    gates := false, braking := false, lowSide := false, duties := [0, 0, 0], vd := 0, vq := 0 }

/-- The six gates are driven low at once. -/
def Dev.gatesCut (d : Dev) (n : Nat) : Dev :=
  (d.gatesOff n).updSpin n fun k => { k with
    driven := false, written := [0, 0, 0], inForce := [0, 0, 0], gateEdges := [{}, {}, {}] }

/-- The low sides begin to brake (R193, R196), with no zero crossing seen yet. -/
def Dev.beginBrake (d : Dev) (n : Nat) : Dev :=
  (d.gatesOff n).updSpin n fun k => { k with braking := true, signs := [], riseAt := none }

/-- R196: STOPPING decelerates in closed loop from RUN, and brakes at once from the other states. -/
def Dev.beginStop (d : Dev) (n : Nat) : Dev :=
  let st := d.spSt n
  if st = spOff ∨ st = spStopping then d
  else if st = spFailed ∨ st = spWait then ((d.gatesCut n).setSp n spOff).wr .spSource [n] 0
  else
    let d := if st = spRun then d.leaveRun n else (d.beginBrake n).wr .spSource [n] 0
    d.setSp n spStopping

/-- A target as taken, in force from now: ATSPEED clears when it changes (R195), and 0 stops the spindle (R196). -/
def Dev.setTarget (d : Dev) (n t : Nat) : Dev :=
  let d := if d.rd .spTarget [n] = t then d
    else ((d.wr .spTarget [n] t).wr .spAtspeed [n] 0).updSpin n fun k => { k with ceilingPosted := false }
  if t = 0 then d.beginStop n else d

/-! ### MEDIA_UNLOAD (Table 10-5, R160, R179, R326) -/

/-- A MEDIA_UNLOAD has everything on the medium, and has not yet stopped the deck. -/
def Cmd.stopsDeck (c : Cmd) : Bool := c.op == 0x19 && c.phase == .running && !c.wait

/-- The sleds stop with no retry of a seek, every spindle under CMDSRC RING is stopped, and LEARNED is cleared. -/
def Dev.stopDeck (d : Dev) : Dev :=
  let d := { d with cmds := d.cmds.map fun (c : Cmd) => if c.stopsDeck then { c with wait := true } else c }
  let d := (List.range 32).foldl (fun (d : Dev) p =>
    if d.slSt p = slUnhomed then d.noSeek p else (d.stopSled p false).noSeek p) d
  let d := d.ringSpindles.foldl (fun (d : Dev) n => d.setTarget n 0) d
  { d with
    regs := d.regs.filter fun (r : Fld × Nat) => r.1.row != .spLearned,
    spin := d.spin.map fun e => (e.1, { e.2 with learnOwed := [false, false], learn := [[], []] }) }

/-- R74: no catalogue row remains: the writes that completed without FUA and whose map records cannot be written any more are
reported (R343, R370). -/
def Dev.reportUnmapped (d : Dev) : Dev :=
  if !d.catExhausted then d
  else
    let ws := (d.cat.owed.map Prod.snd ++ d.stripes.flatMap Stripe.writers).eraseDups
    let gone := fun (w : Writer) => !d.inFlight w
    let d := { d with
      cat := { d.cat with owed := d.cat.owed.filter fun e => !gone e.2 },
      stripes := d.stripes.map fun s => { s with writers := s.writers.filter fun w => !gone w } }
    (firstFailed (ws.filter gone)).foldl (fun (d : Dev) w =>
      if w.fua then d else ((d.noteFailed w).deferError w detCatalogFull).forgetWriter w) d

/-- R304, R385: the positions on missing surfaces that the map names and a command needs. -/
def Dev.lostNeeds (d : Dev) : List Nat :=
  (((d.cmds.filter fun (c : Cmd) => c.op != 0x11).flatMap fun (c : Cmd) => c.needs.map Prod.fst).eraseDups).filter fun a =>
    !d.reachable (pbaSurface a) && !(d.ladder.any fun e => e.pba == a)

/-- R304, R306, R385: a block of a missing surface is a lost member: it goes to level 6, or fails with NO_STRIPE without parity,
and with RAIL where MAXLEVEL bars level 6 (log entry 128). -/
def Dev.loseMember (d : Dev) (pba : Nat) : Dev :=
  if !d.hasParity pba then d.unrecovered pba 0 detNoStripe
  else if 6 ≤ d.rd .rvMaxlevel then d.enter pba 6 1 {} false
  else d.unrecovered pba 0 detRail

/-- What commands in flight wait for has been looked at, and a MEDIA_UNLOAD that has come so far stops the deck. -/
def Dev.settleDeck (mem : List Host.Cell) (d : Dev) : Dev :=
  let d := (d.settle mem).recordStripes.settle mem
  let lost := d.lostNeeds
  let d := if lost = [] then d else (lost.foldl Dev.loseMember d).settle mem
  let d := d.reportUnmapped
  if d.cmds.any Cmd.stopsDeck then d.stopDeck.settle mem else d

end Sys2Proof.Machine
end

