-- ==== Sys2Proof/Machine/Run.lean ====
section
/-! DEFINITION. How a command's effect on the device becomes the next state: the events it raised are counted on their
sources in the same step (R487), and the commands in flight that it lets go on do so. -/

namespace Sys2Proof.Machine

/-- The state after the device becomes d: its occurrences are counted. -/
def State.commit (s : State) (d : Dev) : State :=
  { s with dev := { d with raised := [] }, ev := countRaised d.time d.raised s.ev }

/-- A command whose effect is f. -/
def act (s : State) (f : Dev → Dev) : Host.Outcome State Fault Refusal := .next (s.commit (f s.dev))

/-- A command whose effect is f, after which commands in flight go on. -/
def serve (s : State) (f : Dev → Dev) : Host.Outcome State Fault Refusal :=
  .next (s.commit ((f s.dev).settleDeck s.mem))

/-- A command of the host that the device answers only while BAR0 works (R524, R528). -/
def hostAct (s : State) (f : Dev → Dev) : Host.Outcome State Fault Refusal :=
  act s fun d => if d.ready then f d else d

/-! ### Descriptors -/

/-- R413: commands of an opcode need what a self-test item uses: the pickups, spindles and sleds for the items that use these,
the loop engines for item 1 and port P5 for item 3 (DEDUCED, log entry 130). -/
def itemNeeds (item op : Nat) : Bool :=
  match item with
  | 1 => [0x01, 0x02, 0x04, 0x09, 0x10, 0x11, 0x18, 0x19, 0x1A, 0x28, 0x29, 0x39].contains op
  | 3 => op == 0x28
  | 4 => false
  | _ => [0x01, 0x02, 0x04, 0x09, 0x10, 0x11, 0x18, 0x19, 0x1A, 0x29, 0x39].contains op

/-- R413: a command is consumed or accepted: the running item of a self-test takes note when it uses what the command needs. -/
def Dev.noteNeed (d : Dev) (op : Nat) : Dev :=
  { d with selftest := d.selftest.map fun (t : SelfTest) =>
      { t with needed := t.needed || itemNeeds (d.rd .svStItem) op } }

/-- Whether the next consumed descriptor of ring r may start: one is consumed and not started, no unsatisfied FENCE of
the ring stands before it (R36), and the ring is not being reset (R338). In RECOVERY
only ring 0 works (R522). -/
def Dev.canStart (d : Dev) (r : Nat) : Bool :=
  d.ready && decide ((d.sqS r).started ≠ d.rd .sqConsumed [r])
    && !(d.cmds.any fun c => c.op == 0x03 && c.origin.sameQueue (.ring r 0))
    && (d.sqS r).resetting.isEmpty && (d.rd .glBoot != bootRecovery || r == 0)

/-- A command joins those in flight, with its start and its number. -/
def Dev.enlist (d : Dev) (c : Cmd) : Dev :=
  { d with cmds := d.cmds ++ [{ c with start := d.time, serial := d.nextSerial }], nextSerial := d.nextSerial + 1 }

/-- The next descriptor of ring r starts: it joins the commands in flight, and `k` goes on with its origin. Descriptors of a ring
start in submission order, where R33 lets them start in any (DESIGN CHOICE, log entry 108). In
RECOVERY only FW_LOAD and ATTEST execute (R522). -/
def Dev.begin (d : Dev) (r : Nat) (c : Cmd) (k : Dev → Origin → Dev) : Dev :=
  if !d.canStart r then d
  else
    let seq := (d.sqS r).started
    let o : Origin := .ring r seq
    let d := d.updSq r fun q => { q with started := (seq + 1) % 2 ^ 32 }
    let d := (d.enlist { c with origin := o }).noteNeed c.op
    if d.rd .glBoot = bootRecovery ∧ c.op ≠ 0x30 ∧ c.op ≠ 0x31 then d.refuse o clsResource detBusy else k d o

/-- A descriptor's command: its effect is `k`. -/
def descriptor (r : Nat) (c : Cmd) (s : State) (k : Dev → Origin → Dev) : Host.Outcome State Fault Refusal :=
  serve s fun d => d.begin r c k

/-- A command with a range: refused when the basin or the load is missing (R419, R580), else held while it overlaps an
earlier one (R333). -/
def Dev.beginRanged (mem : List Host.Cell) (d : Dev) (o : Origin) : Dev :=
  match d.serviceRefusal with
  | some st => d.refuse o st.1 st.2
  | none =>
    match d.cmd o with
    | none => d
    | some c => if d.heldWhole c then d else d.startRange mem o

end Sys2Proof.Machine
end

