-- ==== Sys2Proof/Machine/BasinMem.lean ====
section
/-! DEFINITION. The basin (chapter 13): population and training, the address map, the channel queues, the chip-loss
code, refresh and soft repair, patrol, units, and the BAR2 window. -/

namespace Sys2Proof.Machine

/-! ### Address map (R425, Table 13-3) -/

/-- Fields of a word address. -/
structure WordAddr where
  /-- Subchannel unit u. -/
  u : Nat
  /-- DRAM column. -/
  column : Nat
  bg : Nat
  bank : Nat
  rank : Nat
  slot : Nat
  row : Nat
  deriving DecidableEq, Repr

/-- R425: the fields of word w, taken from the low bits upward; absent fields take no bits. -/
def Dev.wordAddr (d : Dev) (w : Nat) : WordAddr :=
  let usel := w % 8
  let w1 := w / 8 / max 1 d.basin.bursts
  let w2 := w1 / 8 / 4
  let rank := if d.basin.ranks = 2 then w2 % 2 else 0
  let w3 := if d.basin.ranks = 2 then w2 / 2 else w2
  let slot := if d.rd .bsDpc = 2 then w3 % 2 else 0
  let row := if d.rd .bsDpc = 2 then w3 / 2 else w3
  { u := usel ^^^ (row % 8), column := 16 * (w / 8 % max 1 d.basin.bursts), bg := w1 % 8, bank := w1 / 8 % 4, rank := rank, slot := slot, row := row }

/-- Channel of a word. -/
def Dev.chanOf (d : Dev) (w : Nat) : Nat := (d.wordAddr w).u / 2

/-- Event source of subchannel unit u. -/
def bsSrc (u kind : Nat) : Nat := 0x680 + 4 * u + kind

/-- The basin's global source. -/
def bsGlobal : Nat := 0x6A0

/-- Words installed. -/
def Dev.words (d : Dev) : Nat := d.installed * 16384

/-! ### Population, training and initialisation (R417 to R424) -/

/-- Table 13-1: GiB, rows, bursts per row, ranks, and whether the devices are × 8. -/
def organisation (org : Nat) : Nat × Nat × Nat × Nat × Bool :=
  match org with
  | 0 => (16, 65536, 64, 1, true)
  | 1 => (32, 65536, 128, 1, false)
  | 2 => (64, 65536, 128, 2, false)
  | 3 => (64, 131072, 128, 1, false)
  | _ => (128, 131072, 128, 2, false)

/-- R417, R418: the first slot (2m + j) that breaks a rule, and its cause: 0 a population outside R417 or R418, 1 an SPD
that does not answer. -/
def populationFault (slots : List (Option Nat)) : Option (Nat × Nat) :=
  let get := fun i => slots.getD i none
  let org := (get 0).getD 5
  let second := (get 1).isSome
  (List.range 8).findSome? fun i =>
    match get i with
    | some o => if 5 < o then some (i, 1)
        else if o = 5 ∨ o ≠ org ∨ (i % 2 = 1 ∧ !second) then some (i, 0) else none
    | none => if i % 2 = 0 ∨ second then some (i, 0) else none

/-- BASIN_SPD_READ, R417 to R419. -/
def execBasinSpdRead (slots : List (Option Nat)) (s : State) : Host.Outcome State Fault Refusal :=
  act s fun d =>
    if d.basin.trainStart.isNone || d.basin.spdRead || d.on .bsConfigErr then d
    else match populationFault slots with
      | some (slot, cause) => (d.wr .bsConfigErr [] 1).raise bsGlobal evBasinConfig [slot, cause]
      | none =>
        let org := (slots.getD 0 none).getD 0
        let dpc := if (slots.getD 1 none).isSome then 2 else 1
        let o := organisation org
        let n := 4 * dpc * o.1 * 1024
        let d := d.updBasin fun b => { b with
          spdRead := true, rows := o.2.1, bursts := o.2.2.1, ranks := o.2.2.2.1, wide := o.2.2.2.2 }
        let d := (d.wr .bsOrg [] org).wr .bsDpc [] dpc
        (d.wr .bsUnitsInstalled [] n).wr .bsUnitsHeld [] n

/-- Every training step of every populated slot of every subchannel is done. -/
def Dev.trained (d : Dev) : Bool :=
  (List.range 8).all fun u => (List.range (d.rd .bsDpc)).all fun j => tget 0 d.basin.steps (2 * u + j) == 6

/-- BASIN_TRAIN_STEP, R422: steps are the rows of Table 13-2, the SPD read being row 0; after three failed attempts of
one step TRAIN_ERR is set. -/
def execBasinTrainStep (u : Fin 8) (slot : Fin 2) (ok : Bool) (s : State) : Host.Outcome State Fault Refusal :=
  act s fun d =>
    let key := 2 * u.val + slot.val
    let done := tget 0 d.basin.steps key
    if !d.basin.spdRead || d.on .bsTrainErr || decide (6 ≤ done) || decide (d.rd .bsDpc ≤ slot.val) then d
    else if ok then
      d.updBasin fun b => { b with steps := tset b.steps key (done + 1), attempts := tset b.attempts key 0 }
    else
      let n := tget 0 d.basin.attempts key + 1
      let d := d.updBasin fun b => { b with attempts := tset b.attempts key n }
      if n < 3 then d
      else (d.wr .bsTrainErr [] 1).raise bsGlobal evBasinTrainFail [u / 2, u % 2, slot, done + 1]

/-- R423: READY, once training, the service area and 16 GiB of other units are done; INIT_DONE at the last unit. -/
def Dev.basinReady (d : Dev) : Dev :=
  let d := if d.uninit = 0 then d.wr .bsInitDone [] 1 else d
  if !d.on .bsReady && d.basin.initSvc == d.installed / 32
      && decide (16384 ≤ d.basin.initNext + d.basin.initExtra.length) then
    (d.wr .bsReady [] 1).raise bsGlobal evBasinReady
      (le 4 d.installed ++ le 4 ((d.time - d.basin.trainStart.getD d.time) / msTicks 1))
  else d

/-- The cursor passes units that were initialised out of order. -/
def Dev.skipExtra (n : Nat) (d : Dev) : Dev :=
  match n with
  | 0 => d
  | n + 1 =>
    if d.basin.initExtra.contains d.basin.initNext then
      Dev.skipExtra n (d.updBasin fun b => { b with
        initExtra := b.initExtra.filter fun u => u != b.initNext, initNext := b.initNext + 1 })
    else d

/-- A unit outside the service area has its last word written: it joins the free pool, or passes to the import window
(R574). -/
def Dev.joinFree (d : Dev) : Dev :=
  let d := (d.dec .bsUnitsHeld []).inc .bsUnitsFree []
  (if d.basin.window.isSome then d.passWindow else d).fillUpdate

/-! ### Channel queues (R431 to R439) -/

/-- The queues of channel m. -/
def Dev.chan (d : Dev) (m : Nat) : Chan := tget {} d.basin.chans m

/-- Change the queues of channel m. -/
def Dev.updChan (d : Dev) (m : Nat) (f : Chan → Chan) : Dev :=
  d.updBasin fun b => { b with chans := tset b.chans m (f (tget {} b.chans m)) }

/-- A word arrives at its channel with the deadline of its port (R438); a full queue makes it wait (R433). A write takes
the place of a patrol write-back to its word (R444) and may start a drain (R432). -/
def Dev.enqueueWord (d : Dev) (e : QEntry) : Dev :=
  let m := d.chanOf e.word
  let k := d.chan m
  let e := { e with seq := k.next, deadline := d.time + (if e.port < 8 then d.rd .bsPortLtarget [e.port] else 65535) }
  let high := d.rd .bsWmarkHigh
  d.updChan m fun (k0 : Chan) =>
    let k : Chan := { k0 with next := k0.next + 1 }
    if e.data = [] then
      if k.reads.length < 64 then { k with reads := k.reads ++ [e] } else { k with overflow := k.overflow ++ [e] }
    else
      let other := fun (x : QEntry) => !(x.word == e.word && x.port == 8 && x.data != [])
      let ws := k.writes.filter other
      let k : Chan := { k with writes := ws, overflow := k.overflow.filter other }
      if ws.length < 64 then
        { k with writes := ws ++ [e], drainHigh := k.drainHigh || decide (high ≤ ws.length + 1) }
      else { k with overflow := k.overflow ++ [e] }

/-- The bank of a word is under soft repair (R442). -/
def Dev.bankBlocked (d : Dev) (m w : Nat) : Bool :=
  (d.chan m).blocked.any fun r =>
    let a := d.wordAddr r.1
    let b := d.wordAddr w
    a.u == b.u && a.bg == b.bg && a.bank == b.bank && a.rank == b.rank && a.slot == b.slot

/-- R434: a read waits while a write to its word that arrived before it is queued. -/
def Chan.readWaits (k : Chan) (e : QEntry) : Bool :=
  (k.writes ++ k.overflow).any fun x => x.data != [] && x.word == e.word && decide (x.seq < e.seq)

/-- R435: a write waits for an earlier write to its word, and for an earlier read of it. -/
def Chan.writeWaits (k : Chan) (e : QEntry) : Bool :=
  (k.writes ++ k.overflow ++ k.reads).any fun x => x.word == e.word && decide (x.seq < e.seq)

/-- R432: a write drain is in progress. -/
def Chan.draining (k : Chan) : Bool :=
  k.drainHigh || k.reads.any k.readWaits || k.writes.any fun x => k.aged.contains x.seq

/-- Priority of a port; the patrol has priority 0 (R443). -/
def Dev.portPrio (d : Dev) (port : Nat) : Nat := if port < 8 then d.rd .bsPortPrio [port] else 0

/-- Urgency of R438; the patrol's is 0. -/
def Dev.urgency (d : Dev) (e : QEntry) : Nat :=
  if 8 ≤ e.port then 0
  else if e.deadline ≤ d.time then 7
  else 7 - 8 * (e.deadline - d.time) / max 1 (d.rd .bsPortLtarget [e.port])

/-- The oldest of some entries. -/
def oldest (l : List QEntry) : Option QEntry :=
  l.foldl (fun b e => match b with | some x => if e.seq < x.seq then some e else some x | none => some e) none

/-- The choice of R437 or R438 among entries that can issue; `rr` names the port served last of each priority. -/
def Dev.chooseEntry (d : Dev) (rr : Tab Nat) (l : List QEntry) : Option QEntry :=
  if d.rd .bsQosmode = 0 then
    let top := l.foldl (fun a e => max a (d.portPrio e.port)) 0
    let cand := l.filter fun e => d.portPrio e.port == top
    ((List.range 9).map fun i => (tget 7 rr top + 1 + i) % 9).findSome? fun port => oldest (cand.filter fun e => e.port == port)
  else
    let top := l.foldl (fun a e => max a (d.urgency e)) 0
    oldest (l.filter fun e => d.urgency e == top)

/-- R442: an access that waited for a bank under repair goes after those to that bank that came before it. -/
def Chan.inOrder (k : Chan) (e : QEntry) : Bool :=
  !k.ordered.contains e.seq || !((k.reads ++ k.writes).any fun x => k.ordered.contains x.seq && decide (x.seq < e.seq))

/-- R431: the next command of channel m. While a drain is in progress only writes go, and the reads that a queued write of the
same word has to let go first (R435, log entry 37). -/
def Dev.nextIssue (d : Dev) (m : Nat) : Option QEntry :=
  let k := d.chan m
  let free := fun (e : QEntry) => !d.bankBlocked m e.word && k.inOrder e
  let reads := k.reads.filter fun e => !k.readWaits e && free e
  let writes := k.writes.filter fun e => !k.writeWaits e && free e
  let first := reads.filter fun e => k.writes.any fun x => x.word == e.word && decide (e.seq < x.seq)
  let order := if k.draining then [writes, first] else [reads, writes]
  order.findSome? (d.chooseEntry k.rr)

/-- Waiting words enter queues that have room, chosen as reads are (R433), never ahead of an earlier word of the same
address. -/
def Dev.admitWords (d : Dev) (m : Nat) : Dev :=
  let k := d.chan m
  let first := fun (e : QEntry) => !(k.overflow.any fun x => x.word == e.word && decide (x.seq < e.seq))
  let pick := fun (write : Bool) => d.chooseEntry k.rrIn (k.overflow.filter fun e => (e.data != []) == write && first e)
  let high := d.rd .bsWmarkHigh
  let d := if k.reads.length < 64 then match pick false with
      | some e => d.updChan m fun k => { k with
          reads := k.reads ++ [e], overflow := k.overflow.erase e, rrIn := tset k.rrIn (d.portPrio e.port) e.port }
      | none => d
    else d
  if k.writes.length < 64 then match pick true with
    | some e => d.updChan m fun k => { k with
        writes := k.writes ++ [e], overflow := k.overflow.erase e, rrIn := tset k.rrIn (d.portPrio e.port) e.port,
        drainHigh := k.drainHigh || decide (high ≤ k.writes.length + 1) }
    | none => d
  else d

/-- The chosen entry leaves its queue: a late request is counted (R438), a high-mark drain ends at WMARK.LOW (R432), and
waiting words are admitted. -/
def Dev.leaveQueue (d : Dev) (m : Nat) (e : QEntry) : Dev :=
  let late := d.rd .bsQosmode == 1 && decide (e.port < 8) && decide (e.deadline ≤ d.time)
  let d := if late then d.inc .bsPortLate [e.port] else d
  let low := d.rd .bsWmarkLow
  let d := d.updChan m fun k =>
    let ws := k.writes.erase e
    { k with reads := k.reads.erase e, writes := ws, rr := tset k.rr (d.portPrio e.port) e.port,
             ordered := k.ordered.filter fun x => x != e.seq, drainHigh := k.drainHigh && decide (low < ws.length),
             aged := k.aged.filter fun x => x != e.seq }
  d.admitWords m

/-- BASIN_PORT_READ, R434, R439. -/
def execBasinPortRead (port : Fin 8) (word : Nat) (use : WordUse) (s : State) : Host.Outcome State Fault Refusal :=
  act s fun d => if word < d.words then d.enqueueWord { word := word, port := port, use := use } else d

/-- BASIN_PORT_WRITE, R429, R433, R435: whole words only. -/
def execBasinPortWrite (port : Fin 8) (word : Nat) (data : Bytes) (s : State) : Host.Outcome State Fault Refusal :=
  act s fun d =>
    if word < d.words ∧ data.length = 64 then d.enqueueWord { word := word, port := port, data := data } else d

/-- WRITE_AGE_EXPIRY, R432: the oldest queued write of channel m has grown older than WAGE. -/
def execWriteAgeExpiry (m : Fin 4) (s : State) : Host.Outcome State Fault Refusal :=
  act s fun d =>
    match oldest (d.chan m).writes with
    | some e => d.updChan m fun k => { k with aged := if k.aged.contains e.seq then k.aged else k.aged ++ [e.seq] }
    | none => d

/-! ### Reads through the code (R428, R430, R441, R442) -/

/-- A command ends with class DEVICE: what it kept in the basin goes, and no further DATA is sent (Table 13-5). -/
def Dev.failDevice (d : Dev) (o : Origin) (detail : Nat) : Dev :=
  let d := (d.dropOwner (.delivery o)).dropOwner (.write o)
  let d := match o with
    | .link l tag => d.updLk l fun k => { k with txq := k.txq.filter fun x => !(x.1 == 3 && ofLe (slice x.2 0 2) == tag) }
    | _ => d
  d.finish o clsDevice detail

/-- Table 13-5: a block is read again from the medium as a new level-0 read: its climb and what the scrub noted of it are
forgotten (log entry 132). -/
def Dev.readAgain (d : Dev) (pba : Nat) : Dev :=
  let other := fun (a : Nat) => a != pba
  let d := d.leaveLadder pba
  { d with scrub := { d.scrub with
      done := d.scrub.done.filter other, weakNow := d.scrub.weakNow.filter other, lostNow := d.scrub.lostNow.filter other } }

/-- Table 13-5: what an uncorrectable word does at its port. A block of P3 or P6 is read again from the medium. -/
def Dev.portFails (d : Dev) (port : Nat) (use : WordUse) : Dev :=
  let cmd := fun (detail : Nat) => match use with
    | .ringCmd r q => d.failDevice (.ring r q) detail
    | .linkCmd l t => d.failDevice (.link l t) detail
    | _ => d
  if port = 0 ∨ port = 1 ∨ port = 7 then cmd detBasinEcc
  else if port = 2 then match use with | .block id => d.loseBlk id clsMedia detWriteExhausted | _ => d
  else if port = 4 then cmd detInternal
  else if port = 3 ∨ port = 6 then match use with | .position pba => d.readAgain pba | _ => d
  else if port = 5 then { d with selftest := d.selftest.map fun (t : SelfTest) => { t with failing := true } }
  else d

/-- The device that carries a symbol: on × 8 DIMMs a symbol is half a device. -/
def Dev.deviceOf (d : Dev) (symbol : Nat) : Nat := if d.basin.wide then symbol / 2 else symbol

/-- Slot, rank, device, bank group, bank and row of a word and a symbol (Table 13-8). -/
def Dev.repairPayload (d : Dev) (word symbol : Nat) : Bytes :=
  let a := d.wordAddr word
  [a.slot, a.rank, d.deviceOf symbol, a.bg, a.bank] ++ le 4 a.row

/-- The words of the row of a word: those of its bank at every burst (R425). -/
def Dev.rowWords (d : Dev) (word : Nat) : List Nat :=
  let n := max 1 d.basin.bursts
  (List.range n).map fun c => word - 8 * (word / 8 % n) + 8 * c

/-- R442 steps 1 to 3: the bank is blocked, the words of the row are read into the holding buffer, and the device is repaired.
Reads through the code that meet no error of their own: the command that starts a repair carries none (log entry 153). -/
def Dev.startRepair (d : Dev) (word symbol : Nat) : Dev :=
  let m := d.chanOf word
  let d := d.updChan m fun k => { k with blocked := k.blocked ++ [(word, symbol)] }
  let d := (d.rowWords word).foldl (fun d w => d.emit (.dram m false w [])) d
  d.emit (.repair m word (d.deviceOf symbol))

/-- The bank group of a device, as the repair count sees it. -/
def Dev.bankGroup (d : Dev) (word : Nat) : List Nat :=
  let a := d.wordAddr word
  [a.u, a.slot, a.rank, a.bg]

/-- R430, R441: a word was corrected at a symbol. -/
def Dev.corrected (d : Dev) (word symbol : Nat) : Dev :=
  let a := d.wordAddr word
  let d := (d.inc .bsCe [a.u, symbol]).raise (bsSrc a.u 0) evBasinCe (le 8 (64 * word) ++ [symbol])
  if d.basin.ceWords.contains (symbol, word) || !d.on .bsReady then d
  else
    let d := d.updBasin fun b => { b with ceWords := b.ceWords ++ [(symbol, word)] }
    -- errors of this symbol in this device
    let mine := (d.basin.ceWords.filter fun e => e.1 == symbol &&
      (let x := d.wordAddr e.2; x.u == a.u && x.slot == a.slot && x.rank == a.rank)).map fun e => d.wordAddr e.2
    let sameRow := fun (x : WordAddr) => x.bg == a.bg && x.bank == a.bank && x.row == a.row
    let inRow := (mine.filter sameRow).length
    let rows := (mine.map fun x => (x.bg, x.bank, x.row)).eraseDups.length
    let thr := d.rd .bsPprCeThr
    let rowMax := d.rd .bsPprRowMax
    let used := d.basin.repaired.contains (d.deviceOf symbol, d.bankGroup word)
      || (d.chan (a.u / 2)).blocked.any fun r => d.deviceOf r.2 == d.deviceOf symbol && d.bankGroup r.1 == d.bankGroup word
    let suspect := (decide (rowMax < rows) && inRow == 1) || (used && decide (thr ≤ inRow))
    if suspect then d.raise (bsSrc a.u 2) evChipSuspect (d.repairPayload word symbol)
    else if thr ≤ inRow ∧ rows ≤ rowMax then d.startRepair word symbol
    else d

/-- Whether the model holds the contents of a word: the unit has carried none of the device's own data, or the word has
been written through a port or BAR2 since (log entry 12). -/
def Dev.determinate (d : Dev) (word : Nat) : Bool :=
  !d.basin.foreign.contains (word / 16384) || d.basin.known.contains word

/-- What the check of R428 makes of a word that was read with error patterns on symbols, from a row whose word address
differs in `address`. -/
def readCheck (mem : List Host.Cell) (word : Nat) (error : List (Nat × Nat)) (address : Nat) : ChipResult :=
  let at_ := word ^^^ address
  let stored := chipEncode (memRead mem (64 * at_) 64) at_
  let seen := stored.zipIdx.map fun e => error.foldl (fun v x => if x.1 = e.2 then v ^^^ x.2 % 2 ^ 64 else v) e.1
  chipDecode seen word

/-- The words of a byte range. -/
def wordsOf (addr len : Nat) : List Nat :=
  if len = 0 then [] else (List.range ((addr + len - 1) / 64 - addr / 64 + 1)).map (addr / 64 + ·)

/-- A word of a BAR2 read has come; with the last of them the range goes to the host, in address order, poisoned where a word of
it was uncorrectable (R310). -/
def Dev.bar2Data (d : Dev) (e : QEntry) (data : Bytes) (poisoned : Bool) : Dev :=
  match d.basin.barReads.find? fun r => some r.id == e.want with
  | none => d
  | some r =>
    let got := tset r.got e.word (data, poisoned)
    let ws := wordsOf r.addr r.len
    if ws.all (thas got) then
      let all := ws.map (tget ([], false) got)
      (d.updBasin fun b => { b with barReads := b.barReads.filter fun x => x.id != r.id }).emit
        (.barRead (slice (all.flatMap Prod.fst) (r.addr % 64) r.len) (all.any Prod.snd))
    else d.updBasin fun b => { b with
      barReads := b.barReads.map fun x => if x.id = r.id then { x with got := got } else x }

/-- A line leaves an entry of the side buffer; an entry that all its lines have left becomes EMPTY, one still filling at its
arrival. -/
def Side.without (x : Side) (line : Nat) : Side :=
  let ls := x.lines.filter fun l => l != line % 128
  let y := { x with lines := ls, data := tdel x.data (line % 128) }
  if ls = [] ∧ x.state = .ready then { y with state := .empty } else y

/-- R451: what a read of the cache has returned joins the fill of its line and the entry that its region goes to: an
uncorrectable word is lost to the fill, and its line leaves the entry (log entry 133). -/
def Dev.cacheWord (d : Dev) (e : QEntry) (v : Option Bytes) : Dev :=
  if e.cache.isNone then d
  else
    let line := e.word / 4
    let i := e.word % 4
    let toFill := fun (f : Fill) =>
      if some f.id ≠ e.cache ∨ f.fromSide = true then f
      else match v with
        | some b => { f with words := tset f.words i b }
        | none => { f with words := tset f.words i (zeros 64), lost := i :: f.lost }
    let toSide := fun (x : Side) =>
      if x.state ≠ .filling ∨ some x.id ≠ e.cache ∨ !x.lines.contains (line % 128) then x
      else match v with
        | some b => { x with words := tset x.words (e.word % 512) b }
        | none => x.without line
    { d with cache := { d.cache with
        fills := d.cache.fills.map toFill, side := d.cache.side.map fun s => (s.1, toSide s.2) } }

/-- The effect of a read of a channel (R428, R430, R443, R444). -/
def Dev.readIssues (mem : List Host.Cell) (d : Dev) (e : QEntry) (error : List (Nat × Nat)) (address : Nat) : Dev :=
  let res := readCheck mem e.word error address
  -- contents the model does not hold are free; the check depends on the error alone
  let (free, d) := if d.determinate e.word then (none, d)
    else let r := d.freshBytes 64; (some r.1, r.2)
  match res with
  | .good data => (d.bar2Data e (free.getD data) false).cacheWord e (some (free.getD data))
  | .corrected data sym =>
    let data := free.getD data
    let d := ((d.corrected e.word sym).bar2Data e data false).cacheWord e (some data)
    -- R443, R444: the patrol writes a corrected word back unless a write to it is queued
    let k := d.chan (d.chanOf e.word)
    if e.port = 8 ∧ !((k.writes ++ k.overflow).any fun x => x.data != [] && x.word == e.word) then
      d.enqueueWord { word := e.word, port := 8, data := data }
    else d
  | .uncorrectable kind =>
    let u := (d.wordAddr e.word).u
    let d := (d.inc .bsUe [u]).raise (bsSrc u 1) evBasinUe (le 8 (64 * e.word) ++ [kind, e.port])
    if e.want.isSome then d.bar2Data e (zeros 64) true else (d.cacheWord e none).portFails e.port e.use

/-- BASIN_COMMAND_ISSUE, R431. -/
def execBasinCommandIssue (m : Fin 4) (error : List (Nat × Nat)) (address : Nat) (s : State) :
    Host.Outcome State Fault Refusal :=
  match s.dev.nextIssue m with
  | none => .next s
  | some e =>
    let beats := if e.data = [] then [] else burstBeats (chipEncode e.data e.word)
    let d := (s.dev.leaveQueue m e).emit (.dram m (e.data != []) e.word beats)
    if e.data = [] then .next (s.commit ((Dev.readIssues s.mem d e error address).settleDeck s.mem))
    else
      let keep := d.basin.foreign.contains (e.word / 16384) && e.port != 8 && !d.basin.known.contains e.word
      let d := if keep then d.updBasin fun b => { b with known := b.known ++ [e.word] } else d
      -- a patrol write-back restores what the word holds
      let mem := if e.port = 8 ∧ !d.determinate e.word then s.mem else memWrite s.mem (64 * e.word) e.data
      .next ({ s with mem := mem }.commit d)

/-- R442 steps 4 and 5: the words of the row are written back as they were read, and the bank is unblocked; what waited for it
goes in its order of arrival. -/
def Dev.endRepair (mem : List Host.Cell) (d : Dev) (m word symbol : Nat) (rest : List (Nat × Nat)) : Dev :=
  let k := d.chan m
  let waited := (k.reads ++ k.writes ++ k.overflow).filter fun e => d.bankBlocked m e.word
  let d := (d.rowWords word).foldl (fun d w => d.emit (.dram m true w (burstBeats (chipEncode (memRead mem (64 * w) 64) w)))) d
  let d := d.updChan m fun k => { k with blocked := rest }
  let d := d.updChan m fun k => { k with
    ordered := (k.ordered ++ ((waited.filter fun e => !d.bankBlocked m e.word).map QEntry.seq)).eraseDups }
  let d := d.updBasin fun b => { b with repaired := b.repaired ++ [(d.deviceOf symbol, d.bankGroup word)] }
  (d.inc .bsPprCount []).raise (bsSrc (d.wordAddr word).u 2) evBasinPpr (d.repairPayload word symbol)

/-- SOFT_REPAIR_DONE, R442: the oldest repair of the channel ends. -/
def execSoftRepairDone (m : Fin 4) (s : State) : Host.Outcome State Fault Refusal :=
  act s fun d =>
    match (d.chan m).blocked with
    | [] => d
    | (word, symbol) :: rest => d.endRepair s.mem m word symbol rest

/-- The ranks of a channel are refreshed: every bank, or the next bank of each bank group, the others serving requests meanwhile
(R440). -/
def Dev.refreshRanks (d : Dev) (m : Nat) (twice : Bool) : Dev :=
  let same := d.on .bsRefMode
  let bank := (d.chan m).refBank % 4
  let ranks := (List.range (d.rd .bsDpc)).flatMap fun j => (List.range d.basin.ranks).map fun r => (j, r)
  let d := ranks.foldl (fun d e => d.emit (.refresh m e.1 e.2 (if same then some bank else none) twice)) d
  if same then d.updChan m fun k => { k with refBank := (bank + 1) % 4 } else d

/-- BASIN_REFRESH, R420, R440: at an interval boundary the channel takes the rate its sensors ask for, and its ranks are
refreshed in the mode of REF.MODE once they are trained. -/
def execBasinRefresh (m : Fin 4) (s : State) : Host.Outcome State Fault Refusal :=
  act s fun d =>
    let others := (bitsOf (d.rd .bsRefDouble) 4).filter fun x => x != m.val
    let twice := d.basin.refWanted.contains m
    let d := d.wr .bsRefDouble [] (maskOf (others ++ if twice then [m.val] else []))
    if d.basin.spdRead && d.trained then d.refreshRanks m twice else d

/-- DIMM_TEMP_READ, R420, R421: temperatures in 0.25 °C. -/
def execDimmTempRead (m : Fin 4) (slot : Fin 2) (temp : Int) (s : State) : Host.Outcome State Fault Refusal :=
  act s fun d =>
    if d.rd .bsDpc ≤ slot.val ∨ !d.basin.spdRead then d
    else
      let d := d.wrS .bsTs [m, slot] temp
      let ts := (List.range (d.rd .bsDpc)).map fun j => d.rdS .bsTs [m, j]
      let want := d.basin.refWanted.contains m
      let want' := (ts.any fun t => decide (340 < t)) || (want && !(ts.all fun t => decide (t ≤ 332)))
      let d := d.updBasin fun b => { b with
        refWanted := (b.refWanted.filter fun x => x != m.val) ++ if want' then [m.val] else [] }
      let u := 2 * m.val + slot.val
      let hot := decide ((4 * d.rd .bsTsHot : Nat) < temp)
      if hot && !d.basin.hot.contains u then
        (d.updBasin fun b => { b with hot := b.hot ++ [u] }).raise (bsSrc u 3) evDimmHot ([slot.val] ++ leI 2 (4 * temp))
      else if !hot then d.updBasin fun b => { b with hot := b.hot.filter fun x => x != u }
      else d

/-- The initialised word at or after w, within fuel counted in units. -/
def Dev.nextInitWord (d : Dev) : Nat → Nat → Option Nat
  | 0, _ => none
  | n + 1, w =>
    let w := if w < d.words then w else 0
    if d.unitInit (w / 16384) then some w else d.nextInitWord n ((w / 16384 + 1) * 16384)

/-- PATROL_READ, R443. -/
def execPatrolRead (s : State) : Host.Outcome State Fault Refusal :=
  act s fun d =>
    if d.rd .bsPatrolHours = 0 ∨ d.installed = 0 then d
    else match d.nextInitWord (d.installed + 1) (d.rd64 .bsPatrolCursorLo .bsPatrolCursorHi) with
      | none => d
      | some w => (d.enqueueWord { word := w, port := 8 }).wr64 .bsPatrolCursorLo .bsPatrolCursorHi []
          ((w + 1) % d.words)

/-- BASIN_UNIT_WAIT_SERVED, R579. -/
def execBasinUnitWaitServed (s : State) : Host.Outcome State Fault Refusal := serve s serveWait

/-! ### BAR2 and the import window (R310, R424, R448, R449, R574) -/

/-- IMPORT_SIZE_WRITE, R574: units pass to the window as they can; 0 returns them to free. -/
def execImportSizeWrite (size : Nat) (s : State) : Host.Outcome State Fault Refusal :=
  let size := size % 2 ^ 21
  if !s.dev.ready then .next s
  else if size ≠ 0 ∧ s.dev.installed ≠ 0 ∧ s.dev.serviceStart < s.dev.rd .svImportBase + size then .fault .importWindow
  else serve s fun d =>
    let d := d.wr .svImportSize [] size
    if size = 0 then
      ((d.updBasin fun b => { b with window := none }).releaseUnits .importWindow).wr .svImportReady [] 0
    else (d.updBasin fun b => { b with window := some (d.rd .svImportBase, size) }).passWindow.fillUpdate

/-- R310, R448: a BAR2 write of whole words within the import window, which has passed. -/
def Dev.bar2WriteOk (d : Dev) (addr : Nat) (data : Bytes) : Bool :=
  let w := d.basin.window.getD (0, 0)
  let lo := w.1 * 2 ^ 20
  let hi := lo + w.2 * 2 ^ 20
  addr % 64 == 0 && data.length % 64 == 0 && data != [] && d.on .bsReady && d.on .svImportReady
    && decide (lo ≤ addr ∧ addr + data.length ≤ hi)

/-- BAR2_WRITE, R310, R311: its words enter their channels' queues in order. -/
def execBar2Write (addr : Nat) (data : Bytes) (s : State) : Host.Outcome State Fault Refusal :=
  if !s.dev.bar2WriteOk addr data then .fault .bar2Misuse
  else act s fun d =>
    (wordsOf addr data.length).foldl (fun d w =>
      d.enqueueWord { word := w, port := 1, data := slice data (64 * w - addr) 64, bar2 := true }) d

/-- The reads of a BAR2 range, word by word. -/
def Dev.bar2Queue (d : Dev) (addr len : Nat) : Dev :=
  let id := d.basin.nextRead
  let d := d.updBasin fun b => { b with nextRead := id + 1, barReads := b.barReads ++ [{ id := id, addr := addr, len := len }] }
  (wordsOf addr len).foldl (fun d w => d.enqueueWord { word := w, port := 1, want := some id }) d

/-- Units of a byte range. -/
def unitsOf (addr len : Nat) : List Nat :=
  (List.range ((addr + len - 1) / 2 ^ 20 - addr / 2 ^ 20 + 1)).map (addr / 2 ^ 20 + ·)

/-- Every unit of the range is initialised. -/
def Dev.rangeInit (d : Dev) (addr len : Nat) : Bool := (unitsOf addr len).all d.unitInit

/-- BAR2_READ, R310, R424: 4 to 4,096 bytes at a 4-byte-aligned address; a unit not initialised is initialised next. -/
def execBar2Read (addr len : Nat) (s : State) : Host.Outcome State Fault Refusal :=
  if addr % 4 ≠ 0 ∨ len % 4 ≠ 0 ∨ len < 4 ∨ 4096 < len ∨ s.dev.installed * 2 ^ 20 < addr + len ∨ !s.dev.on .bsReady then
    .fault .bar2Misuse
  else act s fun d =>
    if d.rangeInit addr len then d.bar2Queue addr len
    else d.updBasin fun b => { b with initWait := b.initWait ++ [(addr, len)] }

/-- BASIN_UNIT_INITIALISED, R423, R424: after training, the service area first, then the units that BAR2 reads wait for,
then the others in ascending order. -/
def execBasinUnitInitialised (s : State) : Host.Outcome State Fault Refusal :=
  serve s fun d =>
    if !d.basin.spdRead || !d.trained || d.uninit == 0 || d.on .bsTrainErr then d
    else
      let asked := (d.basin.initWait.flatMap fun a => unitsOf a.1 a.2).find? fun u => !d.unitInit u
      let d := if d.basin.initSvc < d.installed / 32 then (d.updBasin fun b => { b with initSvc := b.initSvc + 1 }).fillUpdate
        else match asked with
          | some u =>
            let d := d.updBasin fun b => if u = b.initNext then { b with initNext := u + 1 }
              else { b with initExtra := b.initExtra ++ [u] }
            (Dev.skipExtra (d.basin.initExtra.length + 1) d).joinFree
          | none =>
            let d := d.updBasin fun b => { b with initNext := b.initNext + 1 }
            (Dev.skipExtra (d.basin.initExtra.length + 1) d).joinFree
      let ready := d.basin.initWait.filter fun a => d.rangeInit a.1 a.2
      let d := d.updBasin fun b => { b with initWait := b.initWait.filter fun a => !ready.contains a }
      (ready.foldl (fun d a => d.bar2Queue a.1 a.2) d).basinReady

end Sys2Proof.Machine
end

