-- ==== Sys2Proof/Machine/Motion.lean ====
section
/-! DEFINITION. What the device's own motions share (chapters 04 and 05): focus capture, layer jumps, moves of a sled,
seeks and homings, each begun and carried on as the rules give it. -/

namespace Sys2Proof.Machine

/-! ### Coil current (R149) -/

/-- CUR of sled p in mA: 0 while it is UNHOMED or its MODE is OFF, IHOLD once P has been constant for 100 ms. -/
def Dev.coilCur (d : Dev) (p : Nat) : Nat :=
  if d.slSt p = slUnhomed ∨ d.rd .slMode [p] = 1 then 0
  else if (d.sledS p).idle then d.rd .slIhold [p] else d.rd .slIrun [p]

/-- P moves: the coils carry IRUN. -/
def Dev.wake (d : Dev) (p : Nat) : Dev := d.updSled p fun s => { s with still := 0, idle := false }

/-! ### Focus capture and layer jumps -/

/-- R132 step 1: SA for L0 is written; the sweep follows 2.0 ms after the frame (FOCUS_SEARCH). -/
def Dev.beginCapture (d : Dev) (p : Nat) : Dev :=
  (d.sendSa p 0).updServo p fun k => { k with cap := some {}, jump := none, envLow := 0, focusHigh := 0, trackHigh := 0 }

/-- R135: no jump starts while a block row is written or read on the pickup. -/
def Dev.rowBusy (d : Dev) (p : Nat) : Bool := (d.rowNow p).isSome || d.rowRead p

/-- R135: a jump by one layer toward the target begins with SA for the next layer. It is held while a block row is written or read
on the pickup. -/
def Dev.jumpTo (d : Dev) (p L target attempt : Nat) : Dev :=
  let next := if L < target then L + 1 else L - 1
  let j : Jump := { origin := L, next := next, target := target, attempt := attempt }
  if d.rowBusy p then d.updServo p fun k => { k with jump := some { j with step := .held } }
  else (d.sendSa p next).updServo p fun k => { k with jump := some j }

/-- R135: a jump that was held begins once no block row is written or read. -/
def Dev.jumpResume (d : Dev) (p : Nat) : Dev :=
  match (d.servoS p).jump with
  | some j =>
    if j.step = .held ∧ !d.rowBusy p then
      (d.sendSa p j.next).updServo p fun k => { k with jump := some { j with step := .corrector, samples := 0 } }
    else d
  | none => d

/-! ### Moves (R152, R153) -/

/-- Rounding up or down to 1/256 microstep of a radius limit in nm, toward the inside of the range. -/
def Dev.limitP (d : Dev) (p : Nat) (row : Row) (up : Bool) : Int :=
  let num := ((d.rd row [p] : Int) - d.rdS .slOrigin [p]) * 2 ^ 32
  let den := 1000 * (d.rd .slScale [p] : Int)
  if den = 0 then 0 else if up then -floorDiv (-num) den else floorDiv num den

/-- R153: a target clamped to LIMIT_IN to LIMIT_OUT; SLED_LIMIT when it was outside. -/
def Dev.clampTarget (d : Dev) (p : Nat) (want : Int) : Int × Dev :=
  let clamped := min (max want (d.limitP p .slLimitIn true)) (d.limitP p .slLimitOut false)
  (clamped, if clamped = want then d else d.raisePk p 20 evSledLimit (leI 4 want ++ leI 4 clamped))

/-- A move starts, with the limits in force now. -/
def Dev.startMove (d : Dev) (p : Nat) (target : Int) (accel speed : Nat) : Dev :=
  let m : Move := { start := d.slP p, target := target, jerk := d.rd .slJerk [p], accel := accel, speed := speed,
                    scale := d.rd .slScale [p], began := d.time }
  d.updSled p fun s => { s with move := some m, ramp := none }

/-- A homing move, at HOME_ACCEL and HOME_SPEED, with no soft limit (R153, R165). -/
def Dev.homeMove (d : Dev) (p : Nat) (target : Int) : Dev :=
  d.startMove p target (d.rd .slHomeAccel [p]) (d.rd .slHomeSpeed [p])

/-- A length in nm as a difference of P. -/
def Dev.stepsOf (d : Dev) (p : Nat) (nm : Int) : Int :=
  if d.rd .slScale [p] = 0 then 0 else roundDiv (nm * 2 ^ 32) (1000 * (d.rd .slScale [p] : Int))

/-! ### Homing (R164 to R166) -/

/-- What forbids a homing: 3 the spindle's speed, 4 a dark S0. -/
def Dev.homeBlocker (d : Dev) (p : Nat) : Option Nat :=
  let v := d.rdS .spSpeed [spindleOf p]
  if !d.spotOn p 0 then some 4 else if v < 1200 ∨ 12000 < v then some 3 else none

/-- R165 step 1: the sled enters HOMING with the coil current on and P unchanged, and focus is captured. A homing asked for while
the spindle's speed or S0 forbids it fails with that cause, which unhomes the sled as any failed homing does (DEDUCED, log
entry 78). -/
def Dev.beginHoming (d : Dev) (p : Nat) (recovery : Bool) : Dev :=
  let d := d.setHoming p { recovery := recovery }
  match d.homeBlocker p with
  | some c => d.homeFails p c 5
  | none =>
    let d := (d.setSl p slHoming).updSled p fun s =>
      { s with homeBlocked := false, move := none, ramp := none, frozen := none }
    ((d.seqAxes p axHold [2, 3]).seqAx p 1 axOff).beginCapture p

/-! ### Seeks (R154 to R158) -/

/-- R155 steps 1 to 3: the profile toward band bt − 1 at angle index 1,536, with tracking OFF and tilt and yaw HOLD. -/
def Dev.launchSeek (d : Dev) (p : Nat) (k : Seek) : Dev :=
  let ct := d.clampTarget p (d.posAt p (bandRadius k.band 1536 - 15360))
  let d := (ct.2.setSeek p { k with step := .moving }).setSl p slSeek
  let d := (d.seqAx p 1 axOff).seqAxes p axHold [2, 3]
  d.startMove p ct.1 (d.rd .slAccel [p]) (d.rd .slSpeed [p])

/-- A seek that makes no attempt: the commands that needed it end with MEDIA 0x0304. A retry that finds the sled in fault or out of
AUTO is such a one, whatever retries are left (DEDUCED, log entry 79). -/
def Dev.dropSeek (d : Dev) (p : Nat) (k : Seek) : Dev := d.seekLost p k

/-- A seek that waits goes on: homing first on an UNHOMED sled (R158, R162), the layer jump first when the target lies on
another layer (R154), and then the profile. -/
def Dev.trySeek (d : Dev) (p : Nat) : Dev :=
  match d.seekS p with
  | none => d
  | some k =>
    if k.step ≠ .waiting then d
    else if !d.sledAuto p ∨ d.on .slFault [p] then d.dropSeek p k
    else if d.slSt p = slUnhomed then
      if (d.sledS p).homeBlocked then d.dropSeek p k else d.beginHoming p true
    else if d.slSt p ≠ slHold ∧ d.slSt p ≠ slFollow then d
    else if d.rowBusy p then d
    else if (d.pkS p).layer ≠ k.layer then
      if (d.servoS p).jump.isSome ∨ (d.servoS p).cap.isSome then d
      else (d.setSeek p { k with step := .jumping }).jumpTo p (d.pkS p).layer k.layer 1
    else d.launchSeek p k

/-- A jump that a seek waited for has ended well. -/
def Dev.seekJumped (d : Dev) (p : Nat) : Dev :=
  match d.seekS p with
  | some k => if k.step = SeekStep.jumping then (d.setSeek p { k with step := .waiting }).trySeek p else d.trySeek p
  | none => d

/-- R134, R138: focus, or the layer, could not be had: what needed the layer ends with the detail, its reads and its
writes. -/
def Dev.motionLost (d : Dev) (p det : Nat) : Dev :=
  let L := match d.seekS p with | some k => k.layer | none => (d.pkS p).layer
  let target := match (d.servoS p).jump with | some j => j.target | none => (d.servoS p).returnTo.getD L
  let d := d.updServo p fun k => { k with cap := none, jump := none, returnTo := none, lastChance := false }
  let d := match d.seekS p with | some k => if k.step = SeekStep.jumping then d.noSeek p else d | none => d
  let d := (d.loseReads p L det).loseReads p target det
  (d.loseWrites p det fun l _ => l == L || l == target).loadFails p det

/-- R160, R163: a stop, after which a seek that it ended is retried (R158). -/
def Dev.stopAndRetry (d : Dev) (p : Nat) (fault : Bool) : Dev := (d.stopSled p fault).trySeek p

end Sys2Proof.Machine
end

