-- ==== Sys2Proof/Machine/Registers.lean ====
section
/-! DEFINITION. REGISTER_WRITE (chapter 18, R309, R536 to R543): a host write of 32 bits at a BAR0 offset, the ranges
of the fields, and what a write of each kind of field does besides storing it. A field that has a command of its own in
the operation table (VCORE.LEVEL, EN, MODE, ARM and the like) is left to that command. -/

namespace Sys2Proof.Machine

/-- R543: the range the defining chapter gives, for the fields whose range is narrower than their bits. -/
def Row.range : Row → Option (Int × Int)
  | .hPoll => some (0, 1000) | .sqSize => some (4, 16) | .cqSize => some (4, 16) | .eqSize => some (4, 16)
  | .sqWeight => some (1, 255) | .cqCoalUs => some (0, 1000)
  | .sprSlotsTotal => some (1, 4096) | .lnSlots => some (1, 1024) | .lnReturnTmo => some (10, 65535)
  | .lnXrdyTmo => some (10, 65535) | .lnDownTmo => some (1, 10000) | .lnGrantWindow => some (1, 256)
  | .lnWeight => some (1, 255) | .sprHostWeight => some (1, 255) | .lnMinshare => some (0, 256)
  | .sprHostMinshare => some (0, 256) | .bsWage => some (1, 1000) | .bsPortLtarget => some (10, 65535)
  | .bsFillhigh => some (50, 99) | .bsPprCeThr => some (1, 255) | .bsPprRowMax => some (1, 255)
  | .wsTtop => some (6, 48) | .wsTmp => some (6, 28) | .wsTlp => some (6, 32) | .wsTcl => some (16, 63)
  | .wsPwr => some (4000, 20000) | .baseTtop => some (6, 48) | .baseTmp => some (6, 28) | .baseTlp => some (6, 32)
  | .baseTcl => some (16, 63) | .rcBoost => some (0, 24) | .rcPeak => some (50, 800) | .rcAgcTarget => some (64, 240)
  | .rcMuAcq => some (1, 15) | .rcMuTrk => some (1, 15) | .rcKt => some (4, 15) | .rcFirScale => some (4, 32)
  | .rcFirMu => some (6, 20) | .rcItiMu => some (6, 20) | .rcConfCnt => some (1, 12) | .rcDropThr => some (1, 255)
  | .rcScoutThr => some (1, 255) | .rcScoutLen => some (8, 255) | .wgTrkLim => some (1, 255)
  | .wgFocLim => some (1, 255) | .opcPcenter => some (4000, 20000) | .opcBetaTgt => some (-500, 500)
  | .opcTempDelta => some (10, 200) | .mdMaxcw => some (0, 32) | .mdMaxtot => some (0, 9728)
  | .mdMaxfly => some (0, 8) | .mdSickCnt => some (1, 64) | .rvMaxlevel => some (0, 6)
  | .rvReallocLevel => some (1, 7) | .rvMaxActive => some (1, 1024) | .rvRailWait => some (10, 5000)
  | .rvL1MuDelta => some (0, 4) | .rvL2DropThr => some (1, 255) | .rvL2Widen => some (1, 8)
  | .rvL2ConfAdd => some (0, 32) | .rvL3Viol => some (0, 608) | .rvSoftRevs => some (2, 8)
  | .rvReallocWait => some (10, 60000) | .rvSpareLow => some (0, 1600) | .svStripeWait => some (10, 60000)
  | .svScrubRate => some (1, 20000) | .svWeakCw => some (1, 32) | .svMigratePpm => some (1, 1000000)
  | .axOpenOut => some (-536870912, 536870912) | .axFfMu => some (1, 12) | .cfIlim => some (0, 2147483647)
  | .cfOlim => some (0, 536870912) | .wdKw => some (0, 536870912) | .wdClim => some (0, 1073741824)
  | .fcEnvThr => some (0, 400) | .fcSearchAmp => some (0, 536870912) | .fcSearchT => some (10, 1000)
  | .jpKickAmp => some (-536870912, 536870912) | .jpBrakeAmp => some (-536870912, 536870912)
  | .jpKickN => some (1, 4095) | .jpBrakeN => some (1, 4095) | .jpCoastMax => some (1, 4095)
  | .jpCaptN => some (40, 4095) | .trDecim => some (1, 65536) | .trKind => some (0, 4) | .slMode => some (0, 2)
  | .slIrun => some (0, 500) | .slIhold => some (0, 500) | .slJerk => some (100, 20000) | .slAccel => some (1, 2000)
  | .slSpeed => some (1, 500) | .slHomeAccel => some (1, 2000) | .slHomeSpeed => some (1, 50)
  | .slHomeTravel => some (1, 60) | .slLimitIn => some (0, 2147483647) | .slLimitOut => some (0, 2147483647)
  | .slSeekTmo => some (10, 5000) | .slLeadMax => some (1, 15) | .slSlipMax => some (1, 4095)
  | .slTableA => some (-32767, 32767) | .slTableB => some (-32767, 32767) | .spReplaceTmo => some (1, 600)
  | .spAccel => some (100, 20000) | .spHandoverTol => some (1, 90) | .spImax => some (0, 20000)
  | .spFwVth => some (268435456, 536870912) | .spFwKfw => some (0, 536870912) | .spFwIdmin => some (-20000, 0)
  | .spAlignI => some (0, 10000) | .spRampAccel => some (100, 10000) | .spRampEnd => some (300, 3000)
  | .spLossAttempts => some (1, 8) | .spDeadtime => some (2, 50) | .spRshunt => some (1000, 50000)
  | .spOcLimit => some (0, 20000) | .spVbusMax => some (0, 60000) | .evHoldoff => some (0, 1000)
  | .thR25 => some (100, 1000000) | .thB => some (1000, 10000) | .thHyst => some (0, 100) | .thReopen => some (1, 600)
  | .thHoldmax => some (1, 3600) | .thJhot => some (60, 100) | .thGrace => some (0, 60) | .thClearS => some (1, 600)
  | .thStepS => some (1, 600) | .thThrFrac => some (1, 256) | .thThrMin => some (1, 256)
  | _ => none

/-- The bits of a 32-bit write that belong to a field. -/
def Fld.bits (f : Fld) (value : Nat) : Nat := value / 2 ^ f.lsb % 2 ^ f.row.spec.width

/-- The value lies in the field's range. -/
def Fld.inRange (f : Fld) (v : Nat) : Bool :=
  match f.row.range with
  | none => true
  | some (lo, hi) =>
    let x : Int := if f.row.spec.signed then ofTwos f.row.spec.width v else (v : Int)
    decide (lo ≤ x ∧ x ≤ hi)

/-- _LO fields of pairs that take effect whole at the write of _HI (R540), each with its _HI. -/
def pairHi : Row → Option Row
  | .sqBaseLo => some .sqBaseHi | .sqTailLo => some .sqTailHi | .cqBaseLo => some .cqBaseHi
  | .cqHeadLo => some .cqHeadHi | .eqBaseLo => some .eqBaseHi | .eqHeadLo => some .eqHeadHi
  | .svVolIdLo => some .svVolIdHi | .svHostTimeLo => some .svHostTimeHi | .svCursorLo => some .svCursorHi
  | .bsPatrolCursorLo => some .bsPatrolCursorHi
  | _ => none

/-- The _LO of a _HI. -/
def pairLo : Row → Option Row
  | .sqBaseHi => some .sqBaseLo | .sqTailHi => some .sqTailLo | .cqBaseHi => some .cqBaseLo
  | .cqHeadHi => some .cqHeadLo | .eqBaseHi => some .eqBaseLo | .eqHeadHi => some .eqHeadLo
  | .svVolIdHi => some .svVolIdLo | .svHostTimeHi => some .svHostTimeLo | .svCursorHi => some .svCursorLo
  | .bsPatrolCursorHi => some .bsPatrolCursorLo
  | _ => none

/-- R346: fields of a ring that host software leaves alone while the ring is enabled. -/
def ringField : Row → Option Row
  | .sqBaseLo => some .sqEn | .sqBaseHi => some .sqEn | .sqTailLo => some .sqEn | .sqTailHi => some .sqEn
  | .sqSize => some .sqEn | .sqCq => some .sqEn
  | .cqBaseLo => some .cqEn | .cqBaseHi => some .cqEn | .cqHeadLo => some .cqEn | .cqHeadHi => some .cqEn
  | .cqSize => some .cqEn
  | .eqBaseLo => some .eqEn | .eqBaseHi => some .eqEn | .eqHeadLo => some .eqEn | .eqHeadHi => some .eqEn
  | .eqSize => some .eqEn
  | _ => none

/-- The first case of Table 20-2 that a write of a field meets. -/
def Dev.fieldFault (d : Dev) (f : Fld) (v : Nat) : Option Fault :=
  let writable := f.row.spec.access == .rw || f.row.spec.access == .wo
  if f.row = .calSel then some .calibMisuse
  else if f.row.spec.own ∨ !writable then none
  else if !f.inRange v then some .valueRange
  else if f.row = .bsRefMode ∧ d.on .bsReady then some .refModeWhileReady
  else match ringField f.row with
    | some en => if d.on en f.ix ∧ regGet d.regs f ≠ v then some .ringMisuse else none
    | none => none

/-- The first fault among the fields of the word; marks that cross are one (R449). -/
def Dev.writeFault (d : Dev) (fs : List Fld) (value : Nat) : Option Fault :=
  match fs.findSome? fun f => d.fieldFault f (f.bits value) with
  | some e => some e
  | none =>
    let get := fun (r : Row) => (fs.find? fun f => f.row == r).map fun f => f.bits value
    match get .bsWmarkHigh, get .bsWmarkLow with
    | some h, some l => if h ≤ l ∨ 64 < h then some .wmarkOrder else none
    | _, _ => none

/-- A coefficient of a bank (R122). -/
def isCoef : Row → Bool
  | .cfOffset | .cfGain | .cfShift | .cfB0 | .cfB1 | .cfB2 | .cfA1 | .cfA2 | .cfKp | .cfKi | .cfKd | .cfIlim
  | .cfOlim => true
  | _ => false

/-- A field of a strategy set (R274). -/
def isWs : Row → Bool
  | .wsDttop0 | .wsDttop1 | .wsTtop | .wsTmp | .wsTlp | .wsTcl | .wsPwr => true
  | _ => false

/-- The write waits for a sample boundary: a coefficient of the bank in use (R122), the choice of a microstep table
(R147), an entry of a table that a sled with coil current on uses (R148). -/
def Dev.atBoundary (d : Dev) (f : Fld) : Bool :=
  if isCoef f.row then d.rd .bankActive [f.ix.getD 0 0, f.ix.getD 1 0] == f.ix.getD 2 0
  else if f.row = .slTabsel then true
  else if f.row = .slTableA ∨ f.row = .slTableB then
    (List.range 32).any fun p => decide (d.rd .slTabsel [p] = f.ix.getD 0 0) && decide (0 < d.coilCur p)
  else false

/-- R506: a CALIB_MEASURE of the sled or of a sled bridge runs on sled p. -/
def Dev.sledMeasured (d : Dev) (p : Nat) : Bool :=
  d.measures.any fun m => m.running &&
    ((m.item == 5 && m.index / 2 == p) || (m.item == 4 && decide (128 ≤ m.index) && (m.index - 128) / 2 == p))

/-- R506: a CALIB_MEASURE of a spot's ADC runs: the spots of pickup p. -/
def Dev.spotsMeasured (d : Dev) (p : Nat) : List Nat :=
  (d.measures.filter fun m => m.running && m.item == 2 && m.index / 16 == p).map fun m => m.index % 16

/-- A write of SLED[p].MODE: leaving AUTO stops the sled (R160); OFF holds the coil current at 0 (R149). -/
def Dev.sledMode (d : Dev) (p v : Nat) : Dev :=
  let old := d.rd .slMode [p]
  let d := d.wr .slMode [p] v
  let d := if old = 0 ∧ v ≠ 0 then d.stopSled p false else d
  let d := if v = 1 ∧ old ≠ 0 ∧ old ≠ 1 then d.stopSled p false else d
  d.trySeek p

/-- What a write of a field does (R541, R542). -/
def Dev.writeField (d : Dev) (f : Fld) (v : Nat) : Dev :=
  let p := f.ix.getD 0 0
  let i := f.ix.getD 1 0
  let put := d.wr f.row f.ix v
  if f.row.spec.own then d
  else match f.row.spec.access with
    | .ro => d
    | .wo => d
    | .w1c =>
      if v = 0 then d
      else
        let d := d.wr f.row f.ix 0
        d
    | .w1p =>
      if f.row = .rcQClear ∧ v = 1 then
        { d with regs := d.regs.filter fun e => !(e.1.row == .rcHist && e.1.ix.head? == some p) }
      else d
    | .rw =>
      match pairHi f.row, pairLo f.row with
      | some _, _ => { d with lowHeld := tset d.lowHeld f.addr v }
      | none, some lo =>
        let a := (⟨lo, f.ix⟩ : Fld).addr
        let d := match tfind d.lowHeld a with
          | some x => { (d.wr lo f.ix x) with lowHeld := tdel d.lowHeld a }
          | none => d
        d.wr f.row f.ix v
      | none, none =>
        if isRc f.row then d.updPk p fun k => { k with rcPending := k.rcPending ++ [{ fld := f, value := v, time := d.time, row := d.rowUnder p }] }
        else if f.row = .axFfLearn then
          -- R130: an interval with FF.LEARN at 0 at any instant is not learned
          if v = 0 then put.updAx (4 * p + i / 4) (i % 4) fun k => { k with spoiled := true } else put
        else if isWs f.row then put.wr .wsValid (f.ix.take 3) 1
        else if d.atBoundary f then { d with deferredWrites := d.deferredWrites ++ [(f, v)] }
        else if f.row = .pkReadPwr then put.settingWrite p (0x10 + i) v
        else if f.row = .pkWritePwr then put.settingWrite p (0x21 + i) v
        else if f.row = .pkSaTrim then
          if (d.pkS p).layer = i ∧ (d.pkS p).sa.isSome then put.settingWrite p 0x0B (toTwos 16 (put.saOf p i)) else put
        else if f.row = .pkMonSel then put.busWrite p 0x0C v
        else if f.row = .slMode then
          if d.sledMeasured p then { d with measureHeld := d.measureHeld ++ [(f, v)] } else d.sledMode p v
        else put

/-- REGISTER_WRITE, R309, R528: while BAR0 does not work the write is discarded; an offset that no table allocates has
no effect (R537). -/
def execRegisterWrite (addr value : Nat) (s : State) : Host.Outcome State Fault Refusal :=
  if !s.dev.ready then .next s
  else if addr % 4 ≠ 0 ∨ 2 ^ 23 ≤ addr ∨ 2 ^ 32 ≤ value then .fault .bar0Access
  else if inMsix addr then act s fun d => d.writeMsix addr value
  else
    match s.dev.writeFault (fieldsAt addr) value with
    | some e => .fault e
    | none => serve s fun d => (fieldsAt addr).foldl (fun d f => d.writeField f (f.bits value)) d

/-! ### Reads (R6, R7) -/

/-- The last value for a field in a list of writes that wait. -/
def lastWrite (l : List (Fld × Nat)) (f : Fld) : Option Nat := (l.reverse.find? fun e => e.1 == f).map Prod.snd

/-- A host write of an RW field that waits for the boundary at which it takes effect (R116, R122, R147, R148, R248, R506,
R540). -/
def Dev.waitingWrite (d : Dev) (f : Fld) : Option Nat :=
  let i := f.ix.getD 0 0
  let a := f.ix.getD 1 0
  let engine := if f.row = .axMode then (d.axS (4 * i + a / 4) (a % 4)).modePending else none
  let spindle := if f.row = .spCmdsrc then (tget {} d.spin i : Spin).cmdsrcPending else none
  let channel := if isRc f.row then lastWrite ((d.pkS i).rcPending.map fun w => (w.fld, w.value)) f else none
  let low := if (pairHi f.row).isSome then tfind d.lowHeld f.addr else none
  [lastWrite d.measureHeld f, lastWrite d.deferredWrites f, engine, spindle, channel, low].findSome? id

/-- A field of an event source (Table 18-14), whose state stands with its counts. -/
def Src.field (x : Src) (s : Nat) : Row → Option Nat
  | .evRing => some x.ring | .evVector => some (x.vector.getD s) | .evMask => some (if x.mask then 1 else 0)
  | .evOccurred => some x.occurred | .evPosted => some x.posted | .evPending => some x.pending
  | .evSnapOccurred => some x.snapOccurred | .evSnapPosted => some x.snapPosted | .evSnapPending => some x.snapPending
  | .evSeq => some x.seq
  | _ => none

/-- R6, Table 00-5: what a read of a field returns. A WO or W1P field reads 0; an RW field reads the value last written, also
while the write waits for its boundary (log entry 124); every other reads its present state. -/
def Dev.readField (d : Dev) (ev : Tab Src) (f : Fld) : Nat :=
  let s := f.ix.getD 0 0
  match f.row.spec.access with
  | .wo => 0
  | .w1p => 0
  | .rw => ((tget {} ev s : Src).field s f.row).getD ((d.waitingWrite f).getD (regGet d.regs f)) % 2 ^ f.row.spec.width
  | _ =>
    if f.row = .glTimeLo then d.time % 2 ^ 32
    else ((tget {} ev s : Src).field s f.row).getD (regGet d.regs f) % 2 ^ f.row.spec.width

/-- R6, R7, R309: what a 4-byte read of BAR0 returns: until BAR0 works only GLOBAL.STATUS.BOOT (R528), then the MSI-X table and its pending bits
(R544), and else the fields of the word, with 0 in every reserved bit. -/
def Dev.readWord (d : Dev) (ev : Tab Src) (addr : Nat) : Nat :=
  if d.pcie.d3hot then 0
  else if !d.ready then ((fieldsAt addr).filter fun f => f.row == .glBoot).foldl (fun n f => n + d.readField ev f * 2 ^ f.lsb) 0
  else if inMsix addr then d.msixWord addr
  else if inPba addr then
    d.msixPending.foldl (fun n v => if v / 32 = (addr - 0x188000) / 4 then n + 2 ^ (v % 32) else n) 0
  else (fieldsAt addr).foldl (fun n f => n + d.readField ev f * 2 ^ f.lsb) 0

/-- A word of BAR0 with every bit that is not an RW field taken as 0 (R534). -/
def Dev.rwWord (d : Dev) (ev : Tab Src) (addr : Nat) : Nat :=
  ((fieldsAt addr).filter fun f => f.row.spec.access == .rw).foldl (fun n f => n + d.readField ev f * 2 ^ f.lsb) 0

end Sys2Proof.Machine
end

