-- ==== Sys2Proof/Machine/Calib.lean ====
section
/-! DEFINITION. Calibration against the external references (chapter 16): measurements, the proposals of Table 16-3, their
reports, and the commit. -/

namespace Sys2Proof.Machine

/-! ### Entries of the selection windows (R503, Table 16-1) -/

/-- Elements per instance, elements selected, instances, and the first word of an item's entries, for items 1 to 5. -/
def calElements (item : Nat) : Nat := match item with | 1 => 8 | 2 => 36 | 3 => 40 | 4 => 6 | 5 => 36 | _ => 0
def calSelected (item : Nat) : Nat := match item with | 1 => 1 | 2 => 32 | 3 => 32 | 4 => 4 | 5 => 32 | _ => 0
def calInstances (item : Nat) : Nat :=
  match item with | 1 => 6 | 2 => 512 | 3 => 128 | 4 => 192 | 5 => 64 | 6 => 128 | _ => 0
def calWords (item : Nat) : Nat := match item with | 1 => 1 | 4 => 1 | 2 => 2 | 3 => 2 | 5 => 2 | _ => 0
def calBase (item : Nat) : Nat := match item with | 1 => 0 | 2 => 6 | 3 => 1030 | 4 => 1286 | 5 => 1478 | _ => 1606

/-- Words of the entry of an instance. -/
def calEntry (item index : Nat) : List Nat := (List.range (calWords item)).map fun i => calBase item + calWords item * index + i

/-- Item and index of the entry that holds word w. -/
def calOwner (w : Nat) : Nat × Nat :=
  if w < 6 then (1, w) else if w < 1030 then (2, (w - 6) / 2) else if w < 1286 then (3, (w - 1030) / 2)
  else if w < 1478 then (4, w - 1286) else (5, (w - 1478) / 2)

/-- The entry of a window as one number, its first word lowest. -/
def Dev.calValue (d : Dev) (r : Row) (item index : Nat) : Nat :=
  ((calEntry item index).map fun w => d.rd r [w]).reverse.foldl (fun n v => 2 ^ 32 * n + v) 0

/-- The element is selected by an entry (R503). -/
def calPicks (item value element : Nat) : Bool := if item = 1 then value == element else value.testBit element

/-- R503: a valid entry selects exactly the number of elements of Table 16-1, with every other bit 0. -/
def calValid (item value : Nat) : Bool :=
  if item = 1 then decide (value < 8)
  else decide (value < 2 ^ calElements item) && (bitsOf value (calElements item)).length == calSelected item

/-! ### Proposals (R507, Table 16-3) -/

/-- The k elements of lowest score, the lower-numbered first among equals, as a mask. -/
def lowestScores (k : Nat) (scores : List Nat) : Nat :=
  maskOf ((List.range scores.length).filter fun i =>
    let a := scores.getD i 0
    decide (((List.range scores.length).filter fun j =>
      let b := scores.getD j 0
      decide (b < a ∨ (b = a ∧ j < i))).length < k))

/-- Value j of element i, 0 where none was given. -/
def valueOf (elements : List (List Int)) (i j : Nat) : Int := (elements.getD i []).getD j 0

/-- The conductance of legs in parallel, in units of 1/nominal, as a fraction: deviations in ppm. -/
def conductance (ds : List Int) : Int × Int :=
  ds.foldl (fun g d => (g.1 * (1000000 + d) + 1000000 * g.2, g.2 * (1000000 + d))) (0, 1)

/-- The deviation of four legs' parallel resistance from nominal, as a fraction. -/
def legError (ds : List Int) : Int × Int :=
  let g := conductance ds
  (4 * g.2 - g.1, g.1)

/-- The 15 pairs of excluded legs, the lowest leg first. -/
def legPairs : List (Nat × Nat) := (List.range 6).flatMap fun i => ((List.range 6).filter fun j => decide (i < j)).map fun j => (i, j)

/-- The legs a pair leaves. -/
def legsLeft (x : Nat × Nat) : List Nat := (List.range 6).filter fun i => i != x.1 && i != x.2

/-- The combination of four legs whose parallel resistance lies nearest the nominal value; the first of equals. -/
def bestLegs (dev : List Int) : List Nat :=
  let err := fun (x : Nat × Nat) => legError ((legsLeft x).map fun i => dev.getD i 0)
  let nearer := fun (a b : Nat × Nat) =>
    decide ((err a).1.natAbs * (err b).2.natAbs < (err b).1.natAbs * (err a).2.natAbs)
  legsLeft (legPairs.foldl (fun m x => if nearer x m then x else m) (0, 1))

/-- R507: the proposed entry. -/
def calProposal (item : Nat) (elements : List (List Int)) : Nat :=
  let n := calElements item
  let v := fun (i j : Nat) => (valueOf elements i j).natAbs
  match item with
  | 1 => (bitsOf (lowestScores 1 ((List.range n).map fun i => v i 0)) n).headD 0
  | 2 => lowestScores 32 ((List.range n).map fun i => 40 * v i 0 + v i 1 + 10 * v i 2)
  | 3 => lowestScores 32 ((List.range n).map fun i => v i 0)
  | 5 => lowestScores 32 ((List.range n).map fun i => v i 0)
  | 4 => maskOf (bestLegs ((List.range n).map fun i => valueOf elements i 0))
  | _ => 0

/-! ### Figures (Table 16-5) -/

/-- The deviation in ppm of legs' parallel resistance from nominal, each leg's conductance taken to six decimals of
1/nominal, as the example of chapter 16 takes it (log entry 54). -/
def senseFigure (ds : List Int) : Int :=
  let g := ds.foldl (fun g d => g + roundDiv 1000000000000 (1000000 + d)) 0
  roundDiv (1000000 * (4000000 - g)) g

/-- The figure of a selection, from the values measured: of a bandgap its cell's deviation, of a DAC the mean deviation of
its cells, of sense legs the deviation of their parallel resistance. An ADC's and a loop's are measured. -/
def calFigure (item value : Nat) (elements : List (List Int)) (measured : Int) : Int :=
  let picked := (List.range (calElements item)).filter (calPicks item value)
  let ds := picked.map fun i => valueOf elements i 0
  match item with
  | 1 => ds.headD 0
  | 3 => roundDiv (ds.foldl (· + ·) 0) 32
  | 5 => roundDiv (ds.foldl (· + ·) 0) 32
  | 4 => senseFigure ds
  | _ => measured

/-- Table 16-5: the residual RMS of a LOOP measurement, to the nearest 0.01 nm or 0.01 µrad (log entry 134), from the samples it
counted: 1.0 is 0.25 µm of focus and tracking, and 1 mrad of tilt and yaw (Table 04-4). -/
def Measure.residual (m : Measure) : Int :=
  let unit := if m.index % 4 < 2 then 25000 else 100000
  ((isqrt (4 * unit ^ 2 * m.sum / (m.used * 2 ^ 58)) + 1) / 2 : Nat)

/-- RANGE: the figure exceeds the limit of Table 16-5. -/
def calOutside (item : Nat) (figure : Int) : Bool :=
  match item with
  | 1 => decide (600 < figure.natAbs)
  | 2 => decide (figure < 680)
  | 3 => decide (4000 < figure.natAbs)
  | 4 => decide (1000 < figure.natAbs)
  | 5 => decide (8000 < figure.natAbs)
  | _ => false

/-- Table 16-4. -/
def calReport (item index sel prop : Nat) (elements : List (List Int)) (figSel figProp : Int) (time : Nat) : Bytes :=
  let n := calElements item
  le 2 item ++ le 2 index ++ [n, (if n ≠ 0 ∧ sel ≠ prop then 1 else 0) + (if calOutside item figProp then 2 else 0), 0, 0]
    ++ le 8 time ++ leI 4 figSel ++ leI 4 figProp ++ le 8 prop
    ++ (List.range n).flatMap fun i =>
      [i, (if calPicks item sel i then 1 else 0) + (if calPicks item prop i then 2 else 0), 0, 0]
        ++ leI 4 (valueOf elements i 0) ++ leI 4 (valueOf elements i 1) ++ leI 4 (valueOf elements i 2)

/-! ### Measurements (R505, R506) -/

/-- R506: a self-test item that uses the element has not yielded yet. -/
def Dev.calTested (d : Dev) (item index : Nat) : Bool :=
  match item with
  | 1 => false
  | 2 => d.selftestUses (index / 16)
  | 4 => d.selftestUses (if index < 128 then index / 4 else (index - 128) / 2)
  | 5 => d.selftestUses (index / 2)
  | _ => d.selftestUses (index / 4)

/-- Table 16-2: the start condition. -/
def Dev.calReady (d : Dev) (item index : Nat) : Bool :=
  let axis := fun (i : Nat) => d.axState (i / 4) (i % 4) == axOff
  let sled := fun (p : Nat) => d.rd .slMode [p] == 1
  match item with
  | 2 => !d.spotOn (index / 16) (index % 16)
  | 3 => axis index
  | 4 => if index < 128 then axis index else sled ((index - 128) / 2)
  | 5 => sled (index / 2)
  | _ => true

/-- CALIB.BUSY follows the measurements that are started and not complete. -/
def Dev.calBusyUpdate (d : Dev) (item : Nat) : Dev :=
  d.wr .calBusy [item - 1] (if d.measures.any fun m => m.running && m.item == item then 1 else 0)

/-- CALIB_MEASURE, R505, R506: the measurement waits for its start condition. An ITEM or INDEX that Table 16-2 does not
have names nothing to measure. -/
def execCalibMeasure (r : Fin 256) (cookie item index buf len : Nat) (s : State) : Host.Outcome State Fault Refusal :=
  descriptor r { origin := .ring r 0, op := 0x29, cookie := cookie, arg := item, arg2 := index, addr := buf, len := len } s
    fun d o =>
      if calInstances item ≤ index then d.finish o clsOk 0
      else { d with measures := d.measures ++ [{ origin := o, item := item, index := index }] }

/-- CALIB_MEASURE_START, R505, R506: the oldest waiting measurement whose start condition holds starts. -/
def execCalibMeasureStart (s : State) : Host.Outcome State Fault Refusal :=
  act s fun d =>
    -- a measurement whose command a queue reset has aborted is not started
    let ms := d.measures.filter fun m => m.running || (d.cmd m.origin).isSome
    let d := { d with measures := ms }
    match ms.find? fun m => !m.running && d.calReady m.item m.index && !d.calTested m.item m.index with
    | none => d
    | some m =>
      let d := { d with measures := ms.map fun (x : Measure) =>
        if x = m then { x with running := true, start := d.time } else x }
      (d.updCmd m.origin fun c => { c with phase := .running }).calBusyUpdate m.item

/-- R506: the host writes that a measurement held off take effect when nothing measures their element any more. -/
def Dev.releaseHeld (d : Dev) : Dev :=
  let p := fun (f : Fld) => f.ix.getD 0 0
  let a := fun (f : Fld) => f.ix.getD 1 0
  let still := fun (w : Fld × Nat) =>
    if w.1.row = .axMode then d.axisMeasured (4 * p w.1 + a w.1 / 4) (a w.1 % 4)
    else if w.1.row = .pkLaserMask then !(d.spotsMeasured (p w.1)).isEmpty
    else d.sledMeasured (p w.1)
  let go := d.measureHeld.filter fun w => !still w
  let d := { d with measureHeld := d.measureHeld.filter still }
  go.foldl (fun (d : Dev) w =>
    if w.1.row = .axMode then d.updAx (4 * p w.1 + a w.1 / 4) (a w.1 % 4) fun k => { k with modePending := some w.2 }
    else if w.1.row = .pkLaserMask then d.hostMask (p w.1) w.2
    else if w.1.row = .slMode then d.sledMode (p w.1) w.2
    else d.writeField w.1 w.2) d

/-- CALIB_MEASURE_END, R507 to R510: a LOOP measurement has taken its 65,536 samples (Table 16-5). The proposal goes to the instance's PEND entry, the report to the buffer, and the
command completes. -/
def execCalibMeasureEnd (item : Fin 7) (index : Nat) (elements : List (List Int)) (figSel figProp : Int) (s : State) :
    Host.Outcome State Fault Refusal :=
  serve s fun d =>
    match d.measures.find? fun m => m.running && m.item == item.val && m.index == index
        && (m.item != 6 || m.seen == 65536) with
    | none => d
    | some m =>
      let sel := d.calValue .calSel m.item m.index
      let prop := calProposal m.item elements
      -- the residual of no sample is left open
      let (residual, d) : Int × Dev := if m.item = 6 ∧ m.used = 0 then (d.fresh.1, d.fresh.2) else (m.residual, d)
      let fs := calFigure m.item sel elements (if m.item = 6 then residual else figSel)
      let fp := calFigure m.item prop elements (if m.item = 6 then m.used else figProp)
      let d := (calEntry m.item m.index).zipIdx.foldl (fun (d : Dev) w =>
        d.wr .calPend [w.1] (prop / 2 ^ (32 * w.2))) d
      let d := ({ d with measures := d.measures.erase m }).calBusyUpdate m.item
      (d.report m.origin clsOk 0 (calReport m.item m.index sel prop elements fs fp d.time)).releaseHeld

/-! ### The commit (R511 to R514) -/

/-- Entries of CALIB.PEND that host software or a measurement has written, and that differ from CALIB.SEL. -/
def Dev.calChanges (d : Dev) : List (Nat × Nat) :=
  let ws := d.regs.filterMap fun (r : Fld × Nat) => if r.1.row = .calPend then r.1.ix.head? else none
  ((ws.map calOwner).eraseDups).filter fun e => d.calValue .calPend e.1 e.2 != d.calValue .calSel e.1 e.2

/-- CALIB_COMMIT, R511 to R514: every PEND entry becomes the SEL entry, the CRC follows, and the commit is counted and
reported. A commit of an entry that is not valid is a case of Table 20-2. -/
def execCalibCommit (s : State) : Host.Outcome State Fault Refusal :=
  let bad := s.dev.calChanges.any fun e => !calValid e.1 (s.dev.calValue .calPend e.1 e.2)
  if s.dev.ready ∧ bad then .fault .calibMisuse
  else hostAct s fun d =>
    let changed := d.calChanges
    let d := (changed.flatMap fun e => calEntry e.1 e.2).foldl (fun (d : Dev) w => d.wr .calSel [w] (d.rd .calPend [w])) d
    let crc := crc32c ((List.range 1606).flatMap fun w => le 4 (d.rd .calSel [w]))
    let d := if changed = [] then d else d.wr .calSelCrc [] crc
    (d.inc .calCommits []).raise 0x780 evCalibCommitted (le 4 changed.length ++ le 4 (d.rd .calSelCrc))

end Sys2Proof.Machine
end

