-- ==== Sys2Proof/Machine/HostRings.lean ====
section
/-! DEFINITION. Host rings (chapter 10): index words, consumption, completions, fences and queue reset. -/

namespace Sys2Proof.Machine

/-! ### Consumption (R318 to R320, R322) -/

/-- The descriptors that ring r may consume: at most 4,096 in flight (R319), none while 4,096 completions wait for its
completion ring (R322), none while it is being reset (R338). -/
def Dev.consumable (d : Dev) (r : Nat) : Nat :=
  if !d.on .sqEn [r] || !(d.sqS r).resetting.isEmpty
      || decide (4096 ≤ (d.cqS (d.rd .sqCq [r])).waiting.length) then 0
  else min (((d.sqS r).tail + 2 ^ 32 - d.rd .sqConsumed [r]) % 2 ^ 32) (4096 - d.rd .sqInflight [r])

/-- Ring r fetches and consumes its next n descriptors, in ring order (R318, R345); the reads carry no Relaxed Ordering
(R336). -/
def Dev.consumeN (d : Dev) (r n : Nat) : Dev :=
  if n = 0 then d
  else
    let from_ := d.rd .sqConsumed [r]
    let reads := (List.range n).map fun i =>
      Msg.hostRead (d.rd64 .sqBaseLo .sqBaseHi [r] + 64 * ((from_ + i) % 2 ^ d.rd .sqSize [r])) 64 false
    let d := (d.inc .sqConsumed [r] n).inc .sqInflight [r] n
    { d with out := d.out ++ reads }

/-- Ring r consumes all it may. -/
def Dev.consume (d : Dev) (r : Nat) : Dev := d.consumeN r (d.consumable r)

/-- R320: turns of the rings but ring 0, in the order of their numbers (log entry 122), each taking up to WEIGHT descriptors,
until none may consume. -/
def Dev.consumeTurns : Nat → Dev → Dev
  | 0, d => d
  | n + 1, d =>
    let rings := (tkeys d.sq).filter fun r => r != 0 && d.consumable r != 0
    if rings = [] then d
    else Dev.consumeTurns n (rings.foldl (fun d r => d.consumeN r (min (max 1 (d.rd .sqWeight [r])) (d.consumable r))) d)

/-- Every enabled ring whose state the device holds consumes what it may, ring 0 first (R320). -/
def Dev.consumeAll (d : Dev) : Dev := Dev.consumeTurns 4096 (d.consume 0)

/-! ### Index words -/

/-- The address of an index word. -/
def Dev.indexAddr (d : Dev) (sel : Nat) : Nat :=
  if sel < 256 then d.rd64 .sqTailLo .sqTailHi [sel]
  else if sel < 512 then d.rd64 .cqHeadLo .cqHeadHi [sel - 256]
  else d.rd64 .eqHeadLo .eqHeadHi [sel - 512]

/-- The ring an index word belongs to is enabled. -/
def Dev.indexEnabled (d : Dev) (sel : Nat) : Bool :=
  if sel < 256 then d.on .sqEn [sel] else if sel < 512 then d.on .cqEn [sel - 256] else d.on .eqEn [sel - 512]

/-- The pending-read flag of a ring (R316). -/
def Dev.readOwed (d : Dev) (sel : Nat) : Bool :=
  if sel < 256 then (d.sqS sel).readOwed
  else if sel < 512 then (d.cqS (sel - 256)).readOwed
  else (d.eqS (sel - 512)).readOwed

/-- A read of the index word has been issued and has not returned. -/
def Dev.readIssued (d : Dev) (sel : Nat) : Bool :=
  if sel < 256 then (d.sqS sel).readIssued
  else if sel < 512 then (d.cqS (sel - 256)).readIssued
  else (d.eqS (sel - 512)).readIssued

/-- Set or clear the pending-read flag of a ring. -/
def Dev.setOwed (d : Dev) (sel : Nat) (b : Bool) : Dev :=
  if sel < 256 then d.updSq sel fun q => { q with readOwed := b }
  else if sel < 512 then d.updCq (sel - 256) fun q => { q with readOwed := b }
  else d.updEq (sel - 512) fun q => { q with readOwed := b }

/-- Note that a read of the index word is in progress, or is not. -/
def Dev.setIssued (d : Dev) (sel : Nat) (b : Bool) : Dev :=
  if sel < 256 then d.updSq sel fun q => { q with readIssued := b }
  else if sel < 512 then d.updCq (sel - 256) fun q => { q with readIssued := b }
  else d.updEq (sel - 512) fun q => { q with readIssued := b }

/-- Issue a read of an index word: it clears the pending-read flag (R316). -/
def Dev.issueIndex (d : Dev) (sel : Nat) : Dev :=
  ((d.setOwed sel false).setIssued sel true).emit (.hostRead (d.indexAddr sel) 8 false)

/-- A wellhead write asks for a read of an index word (R315, R316): at once, or, while one is in progress, after it. One read
of an index word is in progress at a time (log entry 122). -/
def Dev.askIndex (d : Dev) (sel : Nat) : Dev :=
  if d.readIssued sel then d.setOwed sel true else d.issueIndex sel

/-- A timer asks for a read of an index word (R317, R322): none while one is in progress. -/
def Dev.pollIndex (d : Dev) (sel : Nat) : Dev := if d.readIssued sel then d else d.issueIndex sel

/-- Completion ring c is full: P − H = 2^SIZE (R322). -/
def Dev.cqFull (d : Dev) (c : Nat) : Bool :=
  decide (2 ^ d.rd .cqSize [c] ≤ (d.rd .cqPosted [c] + 2 ^ 32 - (d.cqS c).head) % 2 ^ 32)

/-- Room for n more entries in event ring q. -/
def Dev.eqRoom (d : Dev) (q n : Nat) : Bool :=
  decide (((d.eqS q).posted + 2 ^ 32 - (d.eqS q).head) % 2 ^ 32 + n ≤ 2 ^ d.rd .eqSize [q])

/-- Entries of event ring that the next posting of a source takes: one, and a continuation for a payload above 12 bytes (R480). -/
def Src.entries (x : Src) : Nat := if 12 < x.payload.length then 2 else 1

/-- Some source waits for room in event ring q (R484). -/
def Dev.eventWaits (d : Dev) (ev : Tab Src) (q : Nat) : Bool :=
  ev.any fun e => e.2.pending != 0 && !e.2.mask && e.2.ring == q && !d.eqRoom q e.2.entries

/-- Event ring q is full. -/
def Dev.eqFull (d : Dev) (q : Nat) : Bool :=
  decide (2 ^ d.rd .eqSize [q] ≤ ((d.eqS q).posted + 2 ^ 32 - (d.eqS q).head) % 2 ^ 32)

/-- R315: what a read of any BAR4 offset returns. -/
def bar4Word (_offset : Nat) : Nat := 0

/-- WELLHEAD_WRITE, R315, R316: offset 0x000 selects an index word to read; other values and offsets, and disabled
rings, are ignored. -/
def execWellheadWrite (offset value : Nat) (s : State) : Host.Outcome State Fault Refusal :=
  act s fun d =>
    if d.ready && offset == 0 && decide (value < 0x240) && d.indexEnabled value then d.askIndex value else d

/-- R346: the tail moved backward, or more than 2^SIZE − 1 descriptors are placed and unconsumed. -/
def Dev.tailBad (d : Dev) (r value : Nat) : Bool :=
  let adv := (value + 2 ^ 32 - (d.sqS r).tail) % 2 ^ 32
  let placed := (value + 2 ^ 32 - d.rd .sqConsumed [r]) % 2 ^ 32
  decide (2 ^ 31 ≤ adv) || decide (2 ^ d.rd .sqSize [r] ≤ placed)

/-- INDEX_WORD_READ, R313, R318: a tail word lets its ring consume; a head word frees completion or event ring
entries. A wellhead write that arrived meanwhile causes another read (R316). -/
def execIndexWordRead (sel : Fin 576) (value : Nat) (s : State) : Host.Outcome State Fault Refusal :=
  if !s.dev.indexEnabled sel then .next s
  else if decide (sel.val < 256) && s.dev.tailBad sel (value % 2 ^ 32) then .fault .tailMisuse
  else serve s fun d =>
    let d := d.setIssued sel false
    let d := if d.readOwed sel then d.issueIndex sel else d
    let v := value % 2 ^ 32
    if sel.val < 256 then (d.updSq sel fun q => { q with tail := v }).consume sel
    else if sel.val < 512 then d.updCq (sel.val - 256) fun q => { q with head := v }
    else d.updEq (sel.val - 512) fun q => { q with head := v }

/-- HOST_POLL, R317: the tail word of every enabled submission ring with POLL = 1, and the head word of every full
completion or event ring. -/
def execHostPoll (s : State) : Host.Outcome State Fault Refusal :=
  act s fun d =>
    if d.rd .hPoll = 0 ∨ !d.ready then d
    else
      let sels := ((List.range 256).filter fun r => d.on .sqEn [r] && d.on .sqPoll [r])
        ++ (((List.range 256).filter fun c => d.on .cqEn [c] && d.cqFull c).map (256 + ·))
        ++ (((List.range 64).filter fun q => d.on .eqEn [q] && (d.eqFull q || d.eventWaits s.ev q)).map (512 + ·))
      sels.foldl (fun d x => d.pollIndex x) d

/-- FULL_RING_REREAD, R322, R484: the head word of a full completion ring, or of an event ring without room for what waits for it, is read again every 10 µs. -/
def execFullRingReread (sel : Fin 576) (s : State) : Host.Outcome State Fault Refusal :=
  act s fun d =>
    let full := if sel.val < 256 then false
      else if sel.val < 512 then d.on .cqEn [sel.val - 256] && d.cqFull (sel.val - 256)
      else d.on .eqEn [sel.val - 512] && (d.eqFull (sel.val - 512) || d.eventWaits s.ev (sel.val - 512))
    if full then d.pollIndex sel else d

/-- R314, R346: bases 4 KiB-aligned, index words 8-byte-aligned, the named completion ring enabled. -/
def Dev.ringReady (d : Dev) (sel : Nat) : Bool :=
  if sel < 256 then
    decide (d.rd .sqBaseLo [sel] % 4096 = 0) && decide (d.rd .sqTailLo [sel] % 8 = 0) && d.on .cqEn [d.rd .sqCq [sel]]
  else if sel < 512 then
    decide (d.rd .cqBaseLo [sel - 256] % 4096 = 0) && decide (d.rd .cqHeadLo [sel - 256] % 8 = 0)
  else
    decide (d.rd .eqBaseLo [sel - 512] % 4096 = 0) && decide (d.rd .eqHeadLo [sel - 512] % 8 = 0)

/-- A ring's descriptor that `gone` names becomes one of the ring's past life: it completes without an entry. -/
def Origin.retire (gone : Origin → Bool) (o : Origin) : Origin :=
  match o with
  | .ring r q => if gone o then .past r q else o
  | o => o

/-- Every reference to the ring descriptors that `gone` names becomes one to their ring's past life. -/
def Dev.retireRings (d : Dev) (gone : Origin → Bool) : Dev :=
  let w := fun (x : Writer) => { x with origin := x.origin.retire gone }
  { d with
    cmds := d.cmds.map fun (c : Cmd) => { c with origin := c.origin.retire gone, len := if c.origin.retire gone = c.origin then c.len else 0 },
    blks := d.blks.map fun (b : Blk) => { b with writers := b.writers.map w },
    takes := d.takes.map fun (t : Take) =>
      { t with gather := t.gather.map fun (g : GBlk) => { g with writers := g.writers.map w } },
    loadCmd := d.loadCmd.map (Origin.retire gone), unloadCmd := d.unloadCmd.map (Origin.retire gone),
    selftest := d.selftest.map fun (t : SelfTest) => { t with origin := t.origin.retire gone },
    cache := { d.cache with maints := d.cache.maints.map fun (m : Maint) => { m with origin := m.origin.retire gone } },
    measures := d.measures.map fun (m : Measure) => { m with origin := m.origin.retire gone },
    boot := { d.boot with fwLoad := d.boot.fwLoad.map fun x => (x.1.retire gone, x.2) },
    basin := { d.basin with
      owned := d.basin.owned.map fun o => match o with
        | (u, .write x, r) => (u, .write (x.retire gone), r)
        | (u, .delivery x, r) => (u, .delivery (x.retire gone), r)
        | y => y,
      holds := d.basin.holds.map fun h => match h with | (.write x, l) => (.write (x.retire gone), l) | y => y } }

/-- Commands of submission ring r in flight, and their completions not yet posted. -/
def Dev.ringBusy (d : Dev) (r : Nat) : Bool :=
  (d.cmds.any fun c => c.origin.sameQueue (.ring r 0))
    || d.cq.any fun e => e.2.waiting.any fun k => k.ring == r && !k.marker

/-- A ring that is enabled again while commands of its life before are in flight: they run on, complete without an entry
and count for nothing (log entry 107). -/
def Dev.forget (d : Dev) (r : Nat) : Dev :=
  if !d.ringBusy r then d
  else
    let live := (d.cmds.map Cmd.origin).filter fun o => o.sameQueue (.ring r 0)
    let d := d.retireRings fun o => live.contains o
    { d with cq := d.cq.map fun e =>
        (e.1, { e.2 with waiting := e.2.waiting.filter fun k => k.marker || k.ring != r }) }

/-- RING_ENABLE, R314: a change of EN from 0 to 1 sets every count of the ring to 0; a write of 1 to an enabled ring
leaves it as it is; a write of 0 disables the ring. A step of R314 left undone, or a misaligned base or index word, is a
case of R346. -/
def execRingEnable (sel : Fin 576) (en : Bool) (s : State) : Host.Outcome State Fault Refusal :=
  let d := s.dev
  if !d.ready then .next s
  else if d.indexEnabled sel = en then .next s
  else if en && !d.ringReady sel then .fault .ringMisuse
  else act s fun d =>
    let b := if en then 1 else 0
    if sel.val < 256 then
      let r := sel.val
      let d := if en then
          let d := d.forget r
          let d := [Row.sqConsumed, .sqCompleted, .sqAborted, .sqInflight].foldl (fun d f => d.wr f [r] 0) d
          d.updSq r fun q => { q with tail := 0, readOwed := false, readIssued := false, started := 0, failed := [], resetting := [] }
        else d
      d.wr .sqEn [r] b
    else if sel.val < 512 then
      let c := sel.val - 256
      let d := if en then
          (d.wr .cqPosted [c] 0).updCq c fun q => { q with head := 0, readOwed := false, readIssued := false, unsignalled := 0 }
        else d
      d.wr .cqEn [c] b
    else
      let q := sel.val - 512
      let d := if en then d.updEq q fun _ => {} else d
      d.wr .eqEn [q] b

/-! ### Completions (R321 to R323, R345) -/

/-- The 32 bytes of completion entry P (Table 10-6). -/
def Dev.complEntry (d : Dev) (c : Nat) (k : Compl) : Bytes :=
  let p := d.rd .cqPosted [c]
  let phase := (p / 2 ^ d.rd .cqSize [c] + 1) % 2
  let cls := if k.marker then k.cls else flagged k.cls ((d.sqS k.ring).unread && !k.plain)
  le 4 k.seq ++ le 4 k.cookie ++ [cls, k.ring] ++ le 2 k.detail ++ le 2 (d.rd .sqConsumed [k.ring])
    ++ [phase, k.op] ++ le 8 k.result ++ le 8 d.time

/-- Send the vector of a completion ring; the hold-off of R486 counts from it. -/
def Dev.signal (d : Dev) (c : Nat) : Dev :=
  let v := d.rd .cqVector [c]
  let d := (d.updCq c fun q => { q with unsignalled := 0 }).interrupt v
  { d with vec := tset d.vec v { (tget {} d.vec v : VecState) with last := some d.time } }

/-- R338 steps 5 and 6, R339: a reset marker has been posted: its QUEUE_RESET completes with the same DETAIL and RESULT, and the
ring goes on. -/
def Dev.markerPosted (d : Dev) (k : Compl) : Dev :=
  (d.updSq k.ring fun q => { q with resetting := q.resetting.drop 1 }).finish (.ring 0 k.reset) clsOk k.detail k.result

/-- COMMAND_COMPLETION, R321: entry P is written at index P mod 2^SIZE, one 32-byte write without Relaxed Ordering;
INFLIGHT moves to COMPLETED (R345); a message goes when COAL_CNT entries are posted (R323). -/
def execCommandCompletion (c : Fin 256) (s : State) : Host.Outcome State Fault Refusal :=
  serve s fun d =>
    match (d.cqS c).waiting with
    | [] => d
    | k :: rest =>
      if !d.on .cqEn [c.val] || d.cqFull c then d
      else
        let p := d.rd .cqPosted [c.val]
        let addr := d.rd64 .cqBaseLo .cqBaseHi [c.val] + 32 * (p % 2 ^ d.rd .cqSize [c.val])
        let d := d.emit (.hostWrite addr (d.complEntry c k) false)
        let d := d.updCq c fun q => { q with waiting := rest, unsignalled := q.unsignalled + 1 }
        let d := d.inc .cqPosted [c.val]
        let d := if k.marker then d.markerPosted k else (d.dec .sqInflight [k.ring]).inc .sqCompleted [k.ring]
        let d := if max 1 (d.rd .cqCoalCnt [c.val]) ≤ (d.cqS c).unsignalled then d.signal c else d
        d.consumeAll

/-- COALESCE_TIMER, R323: COAL_US have passed since the first entry not yet signalled. -/
def execCoalesceTimer (c : Fin 256) (s : State) : Host.Outcome State Fault Refusal :=
  act s fun d =>
    if d.rd .cqCoalUs [c.val] ≠ 0 ∧ (d.cqS c).unsignalled ≠ 0 then d.signal c else d

/-- The command leaves the ladders that it joined (R300). -/
def Dev.leaveLadders (d : Dev) (o : Origin) : Dev :=
  { d with
    ladder := d.ladder.map (fun (x : Ladder) => { x with joined := x.joined.filter fun y => y != o }),
    railWait := d.railWait.map fun (x : RailWait) => { x with joined := x.joined.filter fun y => y != o } }

/-- A read of host memory for a command returned an error or poisoned data: DEVICE 0x0005 (Table 10-9). -/
def Dev.hostMemory (d : Dev) (o : Origin) : Dev :=
  (((d.leaveLadders o).dropOwner (.delivery o)).dropOwner (.write o)).finish o clsDevice detHostMemory

/-- The read of the next descriptor of ring r failed: its COOKIE and OPCODE are not known, and the completion carries free
values there (log entry 123). -/
def Dev.lostDescriptor (d : Dev) (r seq : Nat) : Dev :=
  if (d.sqS r).started ≠ seq ∨ !d.canStart r then d
  else
    let cookie := d.fresh
    let op := cookie.2.fresh
    let d := op.2.updSq r fun q => { q with started := (seq + 1) % 2 ^ 32 }
    let c : Cmd := { origin := .ring r seq, op := op.1 % 256, cookie := cookie.1 % 2 ^ 32 }
    (d.enlist c).finish c.origin clsDevice detHostMemory

/-- HOST_READ_COMPLETION, R318, R330: data of a RECORD, BLOCK_WRITE arrives, moving its units from reserved to held (R446);
an error of the read of a descriptor, a scatter-gather list or data ends the command with DEVICE 0x0005; the read that ends a
PEER_EXPORT returns (R415). -/
def execHostReadCompletion (r : Fin 256) (seq : Nat) (data : Bytes) (ok : Bool) (s : State) :
    Host.Outcome State Fault Refusal :=
  serve s fun d =>
    let o : Origin := .ring r seq
    match d.cmd o with
    | none => if ok then d else d.lostDescriptor r seq
    | some c =>
      if c.op = 0x39 ∧ c.phase = .running then if ok then d.finishRead o else d.hostMemory o
      else if c.op = 0x02 ∧ c.sgl ≠ [] ∧ c.phase = .reading ∧ !ok then d.hostMemory o
      else if (c.op = 0x01 ∨ c.op = 0x10) ∧ c.phase = .gathering ∧ (c.delivered < c.arg ∨ (!ok && c.delivered == 0)) then
        if !ok then d.hostMemory o
        else
          let piece := data.take (c.arg - c.delivered)
          let n := unitsFor (c.delivered + piece.length) - unitsFor c.delivered
          ((d.arriveUnits (.write o) n).noteIngress piece.length).updCmd o fun x => x.receive x.delivered piece
      else d

/-! ### Fences (R36, R337, R573) -/

/-- BAR2 writes that arrived and have not entered their channel's write queue (R460), as 4 × seq + channel. -/
def Dev.bar2Waiting (d : Dev) : List Nat :=
  d.basin.chans.flatMap fun c => (c.2.overflow.filter QEntry.bar2).map fun e => 4 * e.seq + c.1

/-- FENCE: bit 0 DONE, bit 1 MEDIA, bit 2 EVENT. A fence with no scope completes at consumption. -/
def execFence (r : Fin 256) (cookie : Nat) (scope : Fin 8) (s : State) : Host.Outcome State Fault Refusal :=
  descriptor r { origin := .ring r 0, op := 0x03, cookie := cookie, arg := scope } s fun d o =>
    if scope.val = 0 then d.finish o clsOk 0 else d.updCmd o fun c => { c with recs := d.bar2Waiting }

/-- Scope DONE: every earlier descriptor of the ring has completed. -/
def Dev.fenceDone (d : Dev) (o : Origin) : Bool :=
  !((d.cmds.takeWhile fun c => c.origin != o).any fun c => c.origin.sameQueue o)

/-- Scope MEDIA: every earlier write of the ring is on the medium with the parity that covers it, or has failed. -/
def Dev.fenceMedia (d : Dev) (o : Origin) : Bool :=
  !((d.cmds.takeWhile fun c => c.origin != o).any fun c => c.origin.sameQueue o && (c.op == 0x01 || c.op == 0x10))
    && !(d.blks.any fun b => b.copyOf.isNone && b.writers.any fun w => w.origin.sameQueue o)
    && !(d.takes.any fun t => t.gather.any fun g => g.writers.any fun w => w.origin.sameQueue o)

/-- Scope EVENT: no event caused by an earlier descriptor of the ring still waits to be posted, but on a source that is
masked or routed to a disabled ring (R573). -/
def Dev.fenceEvent (d : Dev) (ev : Tab Src) (r : Nat) (o : Origin) : Bool :=
  d.fenceDone o
    && !(d.caused.any fun c => c.1 == r &&
      (let x : Src := tget {} ev c.2
       decide (x.pending ≠ 0) && !x.mask && d.on .eqEn [x.ring]))

/-- FENCE_SATISFIED, R36, R337: every scope of the oldest fence of ring r holds; a covered write that could not reach
the medium makes it MEDIA 0x0301, at this fence and at each later one, which covers that write too (log entry 122). -/
def execFenceSatisfied (r : Fin 256) (s : State) : Host.Outcome State Fault Refusal :=
  serve s fun d =>
    match d.cmds.find? fun c => c.op == 0x03 && c.origin.sameQueue (.ring r 0) with
    | none => d
    | some c =>
      let bit := fun i => c.arg.testBit i
      let entered := !(d.bar2Waiting.any fun w => c.recs.contains w)
      let sat := (!bit 0 || (d.fenceDone c.origin && entered)) && (!bit 1 || d.fenceMedia c.origin)
        && (!bit 2 || d.fenceEvent s.ev r c.origin)
      if !sat then d
      else
        let failed := bit 1 && !(d.sqS r).failed.isEmpty
        let waits := fun (x : Nat × Nat) => x.1 != r.val || (tget ({} : Src) s.ev x.2).pending != 0
        let d := if bit 2 then { d with caused := d.caused.filter waits } else d
        if failed then d.finish c.origin clsMedia detWriteExhausted else d.finish c.origin clsOk 0

/-! ### Queue reset (R338 to R342) -/

/-- Opcodes that run to their end once started (R340). -/
def Cmd.runsOn (c : Cmd) : Bool :=
  c.phase != .held && ([0x08, 0x09, 0x18, 0x19, 0x1A, 0x20, 0x29, 0x2A, 0x31, 0x39].contains c.op)

/-- R341, R375: a command is aborted: its data that is not in a stripe leaves the basin, an unallocated BLOCK_WRITE
leaves its queue, and it leaves the ladders it joined (R300). -/
def Dev.abort (d : Dev) (o : Origin) : Dev :=
  match d.cmd o with
  | none => d
  | some c =>
    let d := ({ d with cmds := d.cmds.filter fun x => x.origin != o }).leaveLadders o
    let d := d.dropOwner (.delivery o)
    if c.op = 0x10 then
      match d.blks.find? fun b => b.kind == .raw && b.writers.any fun w => w.origin == o with
      | some b =>
        if (d.pkS b.surface).queues.any fun q => q.contains b.id then (d.unqueue b.surface b.id).dropBlk b.id else d
      | none => d.dropOwner (.write o)
    else if c.op = 0x01 ∧ (c.phase = .medium ∨ c.phase = .records) then d
    else d.dropOwner (.write o)

/-- DETAIL of a reset (R338). -/
def abortDetail (n : Nat) : Nat := if 65535 < n then 0xFFFF else n

/-- QUEUE_RESET, R325, R338: steps 1 to 3; steps 4 and 5 follow when the aborted commands are quiet. -/
def execQueueReset (r : Fin 256) (cookie target tail : Nat) (s : State) : Host.Outcome State Fault Refusal :=
  descriptor r { origin := .ring r 0, op := 0x38, cookie := cookie, arg := target } s fun d o =>
    if r.val ≠ 0 ∨ target = 0 ∨ 255 < target then d.refuse o clsDevice detAdminOnly
    else
      let t := target
      let tail := tail % 2 ^ 32
      -- step 2: consumed and aborted at once, never in flight
      let unread := (tail + 2 ^ 32 - d.rd .sqConsumed [t]) % 2 ^ 32
      -- step 3
      let mine := d.cmds.filter fun c => c.origin.sameQueue (.ring t 0) && !c.runsOn
      let unstarted := (d.rd .sqConsumed [t] + 2 ^ 32 - (d.sqS t).started) % 2 ^ 32
      let waiting := (d.cqS (d.rd .sqCq [t])).waiting.filter fun k => k.ring == t && !k.marker
      -- completions of commands that R340 lets run stay and precede the marker
      -- so do those of writes, which have taken effect (R341, R342)
      let goes : List Compl := waiting.filter fun k =>
        !([0x01, 0x08, 0x09, 0x10, 0x18, 0x19, 0x1A, 0x20, 0x29, 0x2A, 0x31, 0x39].contains k.op)
      let last := (tail + 2 ^ 32 - 1) % 2 ^ 32
      let first : Nat := if goes.isEmpty && mine.isEmpty && unstarted + unread == 0 then tail
        else
          let seqs : List Nat := goes.map Compl.seq
            ++ (mine.filterMap fun c => match c.origin with | .ring _ q => some q | _ => none)
            ++ (if unstarted + unread = 0 then [] else [(d.sqS t).started])
          -- the lowest, in ring order from the oldest possible sequence number
          let age := fun (q : Nat) => (tail + 2 ^ 32 - q) % 2 ^ 32
          seqs.foldl (fun a q => if age a < age q then q else a) (seqs.headD tail)
      let inflight := mine.length + unstarted + goes.length
      let d := mine.foldl (fun d c => d.abort c.origin) d
      let d := d.updCq (d.rd .sqCq [t]) fun q => { q with waiting := q.waiting.filter fun k => !goes.contains k }
      let d := (d.dec .sqInflight [t] inflight).inc .sqAborted [t] (inflight + unread)
      let d := d.inc .sqConsumed [t] unread
      let d := d.updSq t fun q => { q with
        tail := tail, started := tail,
        resetting := q.resetting ++ [((match o with | .ring _ q => q | _ => 0), inflight + unread, first, last)] }
      d.issueIndex t

/-- QUEUE_RESET_MARKER, R338 step 4, R339: the marker of the oldest QUEUE_RESET of the ring waits behind every completion that
precedes it; the QUEUE_RESET itself completes when the marker is posted. -/
def execQueueResetMarker (t : Fin 256) (s : State) : Host.Outcome State Fault Refusal :=
  serve s fun d =>
    match (d.sqS t).resetting with
    | [] => d
    | (seq, n, first, last) :: _ =>
      let c := d.rd .sqCq [t.val]
      let waits := (d.cqS c).waiting.any fun k => k.marker && k.ring == t.val
      if waits ∨ d.cmds.any fun c => c.origin.sameQueue (.ring t 0) then d
      else d.updCq c fun q =>
        { q with waiting := q.waiting ++ [{ ring := t, seq := last, cookie := 0, cls := clsAborted,
                                            detail := abortDetail n, op := 0xFF, result := first + 2 ^ 32 * last,
                                            marker := true, reset := seq }] }

/-! ### Deferred logs (R344, R371, R409) -/

/-- The 32 bytes of a log entry (Table 10-12). -/
def Deferred.bytes (e : Deferred) : Bytes :=
  le 4 e.seq ++ le 4 e.cookie ++ [e.op, 0] ++ le 2 e.detail ++ zeros 4 ++ le 8 e.target ++ le 8 e.offset

/-- A CATALOG_READ of the deferred log of a link, or of its own ring r: up to floor(BUF_LEN ÷ 32) of the oldest
entries are returned and removed. -/
def Dev.readLog (d : Dev) (o : Origin) (r : Nat) (link : Option Nat) : Dev :=
  match d.cmd o with
  | none => d
  | some c =>
    let log := match link with | none => (d.sqS r).deferred | some l => (d.lk l).deferred
    let n := min (c.len / 32) log.length
    let data := (log.take n).flatMap Deferred.bytes
    let left := log.drop n
    let d := match link with
      | none => (d.updSq r fun q => { q with deferred := left, unread := !left.isEmpty }).wr .sqDeferCount [r] left.length
      | some l => (d.updLk l fun q => { q with deferred := left, unread := !left.isEmpty }).wr .lnDeferCount [l] left.length
    (if n = 0 then d else d.emit (.hostWrite c.addr data true)).finish o clsOk 0
      (reportResult (32 * n) (32 * log.length))

/-- DEFERRED_LOG_READ: CATALOG_READ with SELECT 0xFFF0 + l, or 0xFFFF. -/
def execDeferredLogRead (r : Fin 256) (cookie : Nat) (link : Option (Fin 8)) (buf len : Nat) (s : State) :
    Host.Outcome State Fault Refusal :=
  descriptor r { origin := .ring r 0, op := 0x0B, cookie := cookie, addr := buf, len := len } s fun d o =>
    d.readLog o r (link.map Fin.val)

/-- UNKNOWN_OPCODE, R324: class DEVICE, detail 0x0001, no other effect. -/
def execUnknownOpcode (r : Fin 256) (cookie : Nat) (opcode : Fin 256) (s : State) :
    Host.Outcome State Fault Refusal :=
  descriptor r { origin := .ring r 0, op := opcode, cookie := cookie } s fun d o =>
    d.refuse o clsDevice detUnknownOpcode

end Sys2Proof.Machine
end

