-- ==== Sys2Proof/Machine/Pickup.lean ====
section
/-! DEFINITION. The pickup bus, the laser-enable mask and LDOFF_n (chapter 03, R90 to R102). -/

namespace Sys2Proof.Machine

/-- R92: the next frame goes out: of the queue, else of the cyclic reads due, else a NOP. -/
def Dev.nextFrame (d : Dev) (p : Nat) : Dev :=
  let k := d.pkS p
  let go := fun (k : Pk) (f : Frame) =>
    (d.updPk p fun _ => { k with sent := some f }).emit (.busFrame p (busFrameBits f.op f.reg f.data))
  match k.frames, k.polls with
  | f :: rest, _ => go { k with frames := rest } f
  | [], f :: rest => go { k with polls := rest } f
  | [], [] => go k { op := 0 }

/-- A read of a pickup register returned its data (R92, R98). -/
def Dev.busData (d : Dev) (p reg data : Nat) : Dev :=
  if reg = 0x09 then
    let w : Window := tget {} d.thermal.windows p
    let d := d.updTh fun t => { t with windows := tset t.windows p { w with alarm := data.testBit 2 } }
    let d := if data = 0 then d else (d.raisePk p 23 evPickupAlarm (le 2 data)).busWrite p 0x09 data
    d.newReading p 0
  else if reg = 0x0A then (d.wr .pkTemp [p] data).newReading p 0
  else if 0x30 ≤ reg ∧ reg ≤ 0x3F then d.wr .pkMonitor [p, reg - 0x30] data
  else d

/-- R98: a STATUS byte with a good CRC shows whether an alarm stands; the next frame then reads register 0x09, unless that is
what was read. -/
def Dev.statusByte (d : Dev) (p status : Nat) : Dev :=
  let f : Frame := { op := 2, reg := 0x09 }
  let isRead := fun (g : Frame) => g.op == 2 && g.reg == 0x09
  let d := d.wr .pkAlarm [p] (if status.testBit 3 then 1 else 0)
  if status.testBit 3 && !((d.pkS p).sent.map isRead).getD false then
    d.updPk p fun k => { k with frames := f :: k.frames.filter (!isRead ·), polls := k.polls.filter (!isRead ·) }
  else d

/-- A good response to frame f. -/
def Dev.goodFrame (d : Dev) (p data : Nat) (f : Frame) : Dev :=
  let d := d.updPk p fun k => { k with
    busOk := true, settling := if f.setting then k.settling.map fun x => (d.time, x.2) else k.settling }
  if f.op = 2 then d.busData p f.reg data else d

/-- R94: every attempt at a frame with an OP and a register has failed; `os` is the command whose own work it was (R573). -/
def Dev.busFails (d : Dev) (os : List Origin) (p op reg : Nat) : Dev :=
  let d := (d.updPk p fun k => { k with busOk := false }).wr .pkFail [p] 1
  (d.raiseFor os (32 * p + 23) evPickupBusFail [reg, op]).abandonNow p abPbus

/-- R94, R95: a read of a pickup register goes out once and is sent again `resent` times, at most three. -/
def Dev.probe (d : Dev) (os : List Origin) (p reg resent : Nat) : Dev :=
  let d := (List.range (min resent 3 + 1)).foldl (fun (d : Dev) _ => d.emit (.busFrame p (busFrameBits 2 reg 0))) d
  if resent ≤ 3 then d.updPk p fun k => { k with busOk := true } else d.busFails os p 2 reg

/-- A 64-bit word with its 16-bit half-word r replaced. -/
def putHalf (x r v : Nat) : Nat := x - x / 2 ^ (16 * r) % 65536 * 2 ^ (16 * r) + v % 65536 * 2 ^ (16 * r)

/-- The resends of read i of a bus on which `a` answered; a pickup that never answers fails every attempt. -/
def resentOf (a : Option PickupAnswer) (i : Nat) : Nat := match a with | some e => e.resent.getD i 0 | none => 4

/-- R95: the pickup answers 0x0001 within R94's attempts. -/
def answersOne (a : Option PickupAnswer) : Bool :=
  match a with | some e => e.contract == 1 && decide (e.resent.getD 0 0 ≤ 3) | none => false

/-- R95: register 0x04 is read on every bus. A pickup that answers 0x0001 is present, and its identity words are read and
shown; any other answer, or none after R94's retries, leaves it absent. -/
def Dev.presence (d : Dev) (os : List Origin) (answers : List PickupAnswer) : Dev :=
  (List.range 32).foldl (fun d p =>
    let a := answers.find? fun e => e.pickup == p
    let d := d.probe os p 0x04 (resentOf a 0)
    if answersOne a then
      (List.range 4).foldl (fun (d : Dev) r =>
        let n := resentOf a (r + 1)
        let d := d.probe os p r n
        let old := d.rd .pkIdentLo [p] + 2 ^ 32 * d.rd .pkIdentHi [p]
        let new := if n ≤ 3 then putHalf old r ((a.map PickupAnswer.ident).getD 0 / 2 ^ (16 * r)) else old
        (d.wr .pkIdentLo [p] new).wr .pkIdentHi [p] (new / 2 ^ 32)) (d.wr .pkPresent [p] 1)
    else (d.wr .pkPresent [p] 0).noOutput p) d

/-- R94: a response to frame f that fails. The frame is sent again up to three times, and then the bus is in FAIL. Reads go on
whether the frame that failed was a READ, as the rule says, or a WRITE, of which it says nothing (DESIGN CHOICE, log entry
117). -/
def Dev.badFrame (d : Dev) (p : Nat) (f : Frame) : Dev :=
  if f.resent < 3 then d.updPk p fun k => { k with frames := { f with resent := f.resent + 1 } :: k.frames }
  else d.busFails [] p f.op f.reg

/-- R94: the response to frame f is good: ACK without CRCERR or BADADDR, and the frame's own address echoed. A response with
another address counts as failed, which the rule's list does not name (DESIGN CHOICE, log entry 117). -/
def answered (f : Frame) (status addr : Nat) : Bool :=
  status.testBit 7 && !status.testBit 6 && !status.testBit 5 && f.reg == addr

/-- PICKUP_BUS_FRAME, R90, R92, R94, R98: a frame goes out on the bus of pickup p, and with it come the 40 bits of the response
to the frame before it: STATUS, the address echoed, the data, and a CRC over them. No frame goes out to an absent pickup, whose
writes stay queued until it is present (DESIGN CHOICE, log entry 117). -/
def execPickupBusFrame (p : Fin 32) (response : Nat) (s : State) : Host.Outcome State Fault Refusal :=
  act s fun d =>
    if !d.on .pkPresent [p] then d
    else
      let body := response / 256 % 2 ^ 32
      let crcOk := crc8 32 body == response % 256
      let status := body / 2 ^ 24
      let good := fun f => crcOk && answered f status (body / 2 ^ 16 % 256)
      let d := match (d.pkS p).sent with
        | none => d
        | some f =>
          let d := if good f then d.goodFrame p (body % 65536) f else d.badFrame p f
          if crcOk then d.statusByte p status else d
      d.nextFrame p

/-- The enabled spot at or after s in round-robin order. -/
def Dev.nextMonitor (d : Dev) (p : Nat) : Option Nat :=
  ((List.range 16).map fun i => ((d.pkS p).monNext + i) % 16).find? fun s => d.spotOn p s

/-- PICKUP_BUS_POLL, R92: a cyclic read falls due: 0 STATUS, 1 the next MONITOR register, 2 TEMP. -/
def execPickupBusPoll (p : Fin 32) (kind : Fin 3) (s : State) : Host.Outcome State Fault Refusal :=
  act s fun d =>
    if !d.on .pkPresent [p] then d
    else match kind.val with
      | 0 => d.busRead p 0x09
      | 1 => match d.nextMonitor p with
        | some s => (d.busRead p (0x30 + s)).updPk p fun k => { k with monNext := (s + 1) % 16 }
        | none => d
      | _ => d.busRead p 0x0A

/-- R99, R102 on one pickup: its mask is 0, the row in progress is abandoned, a write of register 0x08 that waits is
overwritten, the frame in progress is cut short and sent again later, and WRITE 0 to register 0x08 goes first. -/
def Dev.darken (d : Dev) (p : Nat) : Dev :=
  let off : Frame := { op := 1, reg := 0x08, data := 0 }
  let d := ((d.holdReads p).wr .pkLaserMask [p] 0).abandonNow p abLaser
  let d := d.railDark p
  let d := d.updPk p fun k => { k with
    frames := off :: (k.sent.toList ++ k.frames).filter fun f => f.op != 0 && !(f.op == 1 && f.reg == 0x08), sent := none }
  if d.on .pkPresent [p] then d.nextFrame p else d

/-- R101, R102: a write of a mask that waits for a measurement to end is discarded. -/
def Dev.dropHeldMasks (d : Dev) : Dev :=
  { d with measureHeld := d.measureHeld.filter fun (w : Fld × Nat) => w.1.row != .pkLaserMask }

/-- LDOFF_N_FALL, R99: LDOFF_n has been low for more than 50 ns. -/
def execLdoffNFall (s : State) : Host.Outcome State Fault Refusal :=
  act s fun d =>
    if d.pins.ldoffLow then d
    else
      let d := d.updPins fun x => { x with ldoffLow := true }
      ((List.range 32).foldl Dev.darken d.dropHeldMasks).raise globalSrc evLaserOff

/-- LDOFF_N_RISE, R101: the masks stay 0 until host software writes them. -/
def execLdoffNRise (s : State) : Host.Outcome State Fault Refusal :=
  act s fun d => d.updPins fun x => { x with ldoffLow := false }

/-- LASER_MASK_WRITE, R80, R101, R262, R506: a write that would enable a spot whose ADC is being measured waits for the
end of the measurement. -/
def execLaserMaskWrite (p : Fin 32) (mask : Fin 65536) (s : State) : Host.Outcome State Fault Refusal :=
  hostAct s fun d =>
    if d.pins.ldoffLow then d
    else if (d.spotsMeasured p).any fun x => mask.val.testBit x then
      { d with measureHeld := d.measureHeld ++ [(⟨.pkLaserMask, [p]⟩, mask.val)] }
    else d.hostMask p mask

end Sys2Proof.Machine
end

