-- ==== Sys2Proof/Machine/Power.lean ====
section
/-! DEFINITION. Power, reset, boot, device time, core voltage, snapshots and pace (chapters 01, 17 and 19). -/

namespace Sys2Proof.Machine

/-! ### Resets (Table 17-5) -/

/-- Fields that show a sensor or a link and so keep their value through a reset other than power-on (R538), with
CUSTKEY, which only power-on clears, and the latch of R16. -/
def keptRows : List Row :=
  [.scCustkey, .glTimeHi, .glPace, .glPaceDie, .hLinkSpeed, .hLinkWidth, .thDie, .thAmb, .pkTemp, .bsTs, .spVbus]

/-- The levels of SPMOD_PRS_n are the modules' own: no reset changes them. -/
def Dev.keptLinks (d : Dev) : Tab Link := d.link.map fun (e : Nat × Link) => (e.1, { present := e.2.present })

/-- VCORE in mV of a level; 51 to 255 hold 0.850 V (Table 01-7). -/
def vcoreOf (level : Nat) : Nat := 600 + 5 * min level 50

/-- The registers that a reset keeps (Table 17-5). GLOBAL.VCORE.LEVEL goes back to its reset value, and VCORE moves there
(R23): VCORE_SETTLED reads 0 unless VCORE already stands at it. -/
def Dev.keptRegs (d : Dev) : List (Fld × Nat) :=
  let kept := d.regs.filter fun e => keptRows.contains e.1.row
  if d.on .glVcoreSettled ∧ d.boot.vcore = vcoreOf (Fld.mk .glVcoreLevel []).reset then kept
  else (⟨.glVcoreSettled, []⟩, 0) :: kept

/-- A started row stops: WSTB goes low (R516, Table 17-5). -/
def Dev.wstbAllLow (d : Dev) : Dev :=
  d.pk.foldl (fun d e => if e.2.rows.any RowWrite.started then d.emit (.wstbLow e.1) else d) d

/-- The device after PERST_n or GLOBAL.RESET has cleared what Table 17-5 marks. -/
def Dev.cleared (d : Dev) : Dev :=
  let d := d.wstbAllLow
  { time := d.time, freeTick := d.freeTick, out := d.out,
    regs := d.keptRegs,
    pins := { d.pins with flashWpHigh := false },
    link := d.keptLinks,
    boot := { vcore := d.boot.vcore } }

/-- Power-on reset is entered: WSTB low at once (R516), everything cleared; device time is held at 0 until it ends
(R14). -/
def Dev.powerOff (d : Dev) : Dev :=
  let d := d.wstbAllLow
  { freeTick := d.freeTick, out := d.out, link := d.keptLinks,
    pins := { d.pins with por := true, pwrOk := false, flashWpHigh := false, extest := false } }

/-- The state after a reset that clears the event logic and the basin. -/
def State.wipe (s : State) (f : Dev → Dev) : Host.Outcome State Fault Refusal :=
  let d := f s.dev
  .next { s with dev := { d with raised := [] }, ev := countRaised d.time d.raised [], mem := [] }

/-! ### Boot (R519 to R524) -/

/-- Where slot i lies in the flash (Table 17-1). -/
def slotBase (i : Nat) : Nat := 0x2000000 * i

/-- IMAGE_LEN of a header. -/
def imageLen (h : Bytes) : Nat := ofLe (slice h 8 4)

/-- R519: the SHA-256 of the IMAGE_LEN body bytes is the header's BODY_DIGEST. -/
def bodyOk (h body : Bytes) : Bool := sha256 (slice body 0 (imageLen h)) == slice h 32 32

/-- SHA-256 over header bytes 0 to 127: the firmware digest (R520), and what the signature covers. -/
def fwDigest (h : Bytes) : Bytes := sha256 (slice h 0 128)

/-- SECURITY.CUSTKEY as 32 bytes, word w at bytes 4w to 4w + 3. -/
def Dev.custkey (d : Dev) : Bytes := (List.range 8).flatMap fun w => le 4 (d.rd .scCustkey [w])

/-- R519: 0 when the header is valid, else 1 header, 2 key, 3 signature. -/
def headerCheck (custkey h : Bytes) : Nat :=
  let len := imageLen h
  let key := slice h 64 64
  let keyId := (slice h 16 1).headD 0
  if slice h 0 4 ≠ [0x52, 0x49, 0x46, 0x57] ∨ ofLe (slice h 4 4) ≠ 1
      ∨ ¬(len % 4096 = 0 ∧ 4096 ≤ len ∧ len ≤ 2 ^ 24) then 1
  else if !((keyId == 0 && sha256 key == Config.vendorKeyHash)
      || (keyId == 1 && custkey != zeros 32 && sha256 key == custkey)) then 2
  else if !ecdsaVerify key (fwDigest h) (slice h 128 64) then 3
  else 0

/-- SEQUENCE of a header. -/
def headerSeq (h : Bytes) : Nat := ofLe (slice h 12 4)

/-- KEY_ID of a header. -/
def headerKey (h : Bytes) : Nat := (slice h 16 1).headD 0

/-- The header of slot i. -/
def Dev.header (d : Dev) (i : Nat) : Bytes :=
  match d.boot.headers.find? fun e => e.1 == i with | some e => e.2.bytes | none => []

/-- The security event source. -/
def secSrc : Nat := 0x7C0

/-- R522: neither slot is valid. -/
def Dev.recovery (d : Dev) : Dev :=
  let d := (d.wr .glBoot [] bootRecovery).updBoot fun b => { b with hashing := none, reset := none }
  d.raise secSrc evBootRecovery [d.boot.causes.getD 0 0, d.boot.causes.getD 1 0]

/-- A slot's check fails: its status, its cause, BOOT_SLOT_FAIL (causes 0 header, 1 key, 2 signature, 3 body). -/
def Dev.slotFails (d : Dev) (slot status : Nat) : Dev :=
  ((d.wr .scSlotStatus [slot] status).updBoot fun b => { b with causes := b.causes.set slot (status - 1) }).raise secSrc
    evBootSlotFail [slot, status - 1]

/-- R521 steps 1 to 4: fuse repair, both headers read and checked, CUSTKEY latched, a slot chosen. -/
def Dev.bootStart (d : Dev) (kind : ResetKind) (a b : Bytes) : Dev :=
  let d := (d.wr .ccFused [] 1).wr .glBoot [] bootLoading
  let d := (List.range 8).foldl (fun d w => d.wr .scKeyhash [w] (d.rd .scCustkey [w])) d
  let d := d.updBoot fun x => { x with headers := [(0, { bytes := a }), (1, { bytes := b })], reset := some kind,
                                       causes := [0, 0], hashing := none }
  let ca := headerCheck d.custkey a
  let cb := headerCheck d.custkey b
  let d := if ca = 0 then d else d.slotFails 0 ca
  let d := if cb = 0 then d else d.slotFails 1 cb
  if ca = 0 ∧ (cb ≠ 0 ∨ headerSeq b ≤ headerSeq a) then d.updBoot fun x => { x with hashing := some 0 }
  else if cb = 0 then d.updBoot fun x => { x with hashing := some 1 }
  else d.recovery

/-- R523: the track cache cleared, locked for the service area and enabled; basin training starts. -/
def Dev.riraizStart (d : Dev) : Dev :=
  let d := { d with cache := { d.cache with lines := [], plru := [] } }
  let d := ((d.wr .ccCleared [] 1).wr .ccLockmask [] (d.rd .ccLockmask ||| 0xFF)).wr .ccEn [] 1
  d.updBasin fun b => { b with trainStart := some d.time }

/-- The chosen slot is valid: Riraiz starts from it (R521 step 7). -/
def Dev.bootDone (d : Dev) (slot : Nat) (answers : List PickupAnswer) : Dev :=
  let h := d.header slot
  let dig := fwDigest h
  let d := (d.wr .scSlot [] slot).wr .scKey [] (headerKey h)
  let d := (d.wr .scSequence [] (headerSeq h)).wr .scSlotStatus [slot] 0
  let d := (List.range 8).foldl (fun d w => d.wr .scFwDigest [w] (ofLe (slice dig (4 * w) 4))) d
  let d := (d.wr .glBoot [] bootRunning).updBoot fun b => { b with hashing := none, reset := none }
  (d.riraizStart.presence [] answers).raise secSrc evBootDone ([slot, headerKey h] ++ le 4 (headerSeq h))

/-! ### Commands -/

/-- POWER_ON_RESET_END, R515, R517, R546, R548: device time is 0; SPI_VSEL is read; PWR_OK is released; a PERST_n
released earlier counts as released now. It cannot end while VIN is below 5.5 V. -/
def execPowerOnResetEnd (spiVselHigh : Bool) (s : State) : Host.Outcome State Fault Refusal :=
  if !s.dev.pins.por || !s.dev.pins.converters then .next s
  else s.wipe fun d =>
    let hs := d.boot.headers
    let d := { d with time := 0,
                      pins := { d.pins with por := false, pwrOk := true, spiVselHigh := spiVselHigh, converters := true } }
    if d.pins.perstLow ∨ hs = [] then d else d.bootStart .powerOn (d.header 0) (d.header 1)

/-- VIN_BROWNOUT, R516: WSTB low, gates and coils off, power-on reset entered. -/
def execVinBrownout (s : State) : Host.Outcome State Fault Refusal :=
  s.wipe fun d => d.powerOff.updPins fun p => { p with converters := false }

/-- CONVERTER_OUT_OF_REGULATION, R557: power-on reset entered. -/
def execConverterOutOfRegulation (s : State) : Host.Outcome State Fault Refusal := s.wipe Dev.powerOff

/-- VIN_RISE: the converters start as soon as VIN passes 5.5 V (R557); power-on reset goes on until R515 ends it. -/
def execVinRise (s : State) : Host.Outcome State Fault Refusal :=
  act s fun d => if d.pins.por then d.updPins fun p => { p with converters := true } else d

/-- PERST_N_ASSERT, R517, R527: what Table 17-5 marks is cleared; nothing runs while PERST_n is low. -/
def execPerstNAssert (s : State) : Host.Outcome State Fault Refusal :=
  if s.dev.pins.por then .next { s with dev := s.dev.updPins fun p => { p with perstLow := true } }
  else s.wipe fun d => d.cleared.updPins fun p => { p with perstLow := true }

/-- PERST_N_RELEASE, R517, R521: boot starts; a release before the end of power-on reset counts at that end. Under EXTEST
the device stays in reset until TEST_LOGIC_RESET (R549). -/
def execPerstNRelease (slotA slotB : Bytes) (s : State) : Host.Outcome State Fault Refusal :=
  act s fun d =>
    if !d.pins.perstLow then d
    else
      let d := d.updPins fun p => { p with perstLow := false }
      if d.pins.extest then d
      else if d.pins.por then
        d.updBoot fun b => { b with headers := [(0, { bytes := slotA }), (1, { bytes := slotB })] }
      else d.bootStart .perst slotA slotB

/-- The soft reset of R528. -/
def State.softReset (s : State) (a b : Bytes) : Host.Outcome State Fault Refusal :=
  s.wipe fun d => d.cleared.bootStart .global a b

/-- GLOBAL_RESET, R528: BAR0 writes are discarded until BOOT reads RUNNING or RECOVERY. -/
def execGlobalReset (slotA slotB : Bytes) (s : State) : Host.Outcome State Fault Refusal :=
  if s.dev.ready then s.softReset slotA slotB else .next s

/-- Rows of HOSTIF that a function-level reset clears: enables, counts and logs. -/
def hostRows : List Row :=
  [.sqEn, .sqConsumed, .sqCompleted, .sqAborted, .sqInflight, .sqSnapConsumed, .sqSnapCompleted, .sqSnapAborted,
   .sqSnapInflight, .sqDeferCount, .sqDeferLost, .cqEn, .cqPosted, .eqEn]

/-- FUNCTION_LEVEL_RESET, R529, R530: descriptors in flight are aborted (R341), those of R340 that have started run on
and write nothing to host memory; the host interface and the event logic are cleared. -/
def execFunctionLevelReset (s : State) : Host.Outcome State Fault Refusal :=
  if !s.dev.ready then .next s
  else
    let d := s.dev
    let gone := d.cmds.filter fun c => (match c.origin with | .ring _ _ => true | _ => false) && !c.runsOn
    let d := gone.foldl (fun d c => d.abort c.origin) d
    let d := d.retireRings fun _ => true
    let d := { d with regs := d.regs.filter (fun e => !hostRows.contains e.1.row), sq := [], cq := [], eq := [],
                      msix := [], msixPending := [], pcie := {}, vec := [], caused := [], raised := [] }
    .next ((State.mk s.dev [] s.mem s.pending).commit (d.settleDeck s.mem))

/-- EXTEST_LOAD, R549: outputs held low or off, every other function in the state of GLOBAL.RESET. -/
def execExtestLoad (s : State) : Host.Outcome State Fault Refusal :=
  if s.dev.pins.por then .next s
  else s.wipe fun d => d.cleared.updPins fun p => { p with extest := true }

/-- TEST_LOGIC_RESET, R549: leaving EXTEST starts a GLOBAL.RESET. -/
def execTestLogicReset (slotA slotB : Bytes) (s : State) : Host.Outcome State Fault Refusal :=
  if !s.dev.pins.extest then .next s
  else s.wipe fun d =>
    let d := d.cleared.updPins fun p => { p with extest := false }
    if d.pins.perstLow then d else d.bootStart .global slotA slotB

/-- TIME_LO_READ, R16: the upper 32 bits are latched into TIME_HI; until BAR0 works, a read returns 0 and latches
nothing (R528). -/
def execTimeLoRead (s : State) : Host.Outcome State Fault Refusal :=
  act s fun d =>
    if d.ready then
      (d.wr .glTimeHi [] (d.time / 2 ^ 32)).emit (.barRead (le 4 (d.readWord s.ev 8)) false)
    else d.emit (.barRead (le 4 (d.readWord s.ev 8)) false)

/-- VCORE_LEVEL_WRITE, R23: VCORE begins to move. -/
def execVcoreLevelWrite (level : Fin 256) (s : State) : Host.Outcome State Fault Refusal :=
  hostAct s fun d => (d.wr .glVcoreLevel [] level).wr .glVcoreSettled [] 0

/-- Column of Table 01-8 for a junction temperature in 1/16 °C. -/
def vcoreColumn (t : Int) : Nat :=
  if t ≤ -160 then 0 else if t ≤ 400 then 1 else if t ≤ 880 then 2 else if t ≤ 1360 then 3 else 4

/-- The junction temperature: the highest reading of the die sensors, in 1/16 °C (R24). -/
def junction (temps : List Int) : Int := temps.foldl max (temps.headD 0)

/-- R26: some loop engine has an enabled loop: an axis that is not OFF, a sled that is not UNHOMED, a spindle whose gates
switch (log entry 11). -/
def Dev.loopDuty (d : Dev) : Bool :=
  (d.regs.any fun e => (e.1.row == .axState && e.2 != axOff) || (e.1.row == .slState && e.2 != slUnhomed))
    || d.spin.any fun e => e.2.gates

/-- The hub row of Table 01-8 for the bound that host software puts on the basin aggregate (R26, log entry 11). -/
def hubRow (bound : Nat) : List Nat :=
  if bound ≤ 1000 then [600, 600, 610, 625, 655] else if bound ≤ 1500 then [600, 610, 625, 645, 680]
  else [610, 620, 640, 660, 700]

/-- Table 01-8 in mV: the least VCORE of each duty in use. -/
def Dev.vcoreNeeded (d : Dev) : Nat :=
  let col := vcoreColumn (junction ((List.range 8).map fun i => d.rdS .thDie [i]))
  let loop := if d.loopDuty then [600, 610, 625, 645, 685] else []
  -- R26: the rate follows the speed of the spindle of each loaded surface; 12,000 × it in Mbit/s
  let rate := (List.range 32).foldl (fun m p =>
    if (d.pkS p).loaded then max m (1532 * (d.rdS .spSpeed [p / 2]).natAbs) else m) 0
  let loaded := d.pk.any fun e => e.2.loaded
  let det := if !loaded then [] else if rate ≤ 600 * 12000 then [600, 600, 600, 610, 640]
    else if rate ≤ 1060 * 12000 then [600, 605, 615, 635, 665] else [610, 620, 635, 660, 700]
  let ver := if loaded then [600, 605, 620, 640, 675] else []
  let hub := if d.basin.trainStart.isSome then hubRow Config.hubBound else []
  [loop, det, ver, hub].foldl (fun m l => max m (l.getD col 0)) 0

/-- VCORE_SETTLED, R23, R27: VCORE is at its level; below Table 01-8 for a duty in use, the behaviour is undefined. -/
def execVcoreSettled (s : State) : Host.Outcome State Fault Refusal :=
  let v := vcoreOf (s.dev.rd .glVcoreLevel)
  if s.dev.on .glVcoreSettled ∨ s.dev.pins.por then .next s
  else if v < s.dev.vcoreNeeded then .fault .vcoreTooLow
  else act s fun d => (d.wr .glVcoreSettled [] 1).updBoot fun b => { b with vcore := v }

/-- Copy a counter into its snapshot register. -/
def Dev.snap (d : Dev) (src dst : Row) (ix : List Nat) : Dev :=
  if d.rd dst ix = d.rd src ix then d else d.wr dst ix (d.rd src ix)

/-- R41: every conservation counter of the registers is copied at one instant. -/
def Dev.snapAll (d : Dev) : Dev :=
  let d := (List.range 256).foldl (fun d r =>
    [(Row.sqConsumed, Row.sqSnapConsumed), (.sqCompleted, .sqSnapCompleted), (.sqAborted, .sqSnapAborted),
     (.sqInflight, .sqSnapInflight)].foldl (fun d x => d.snap x.1 x.2 [r]) d) d
  let d := (List.range 8).foldl (fun d l =>
    [(Row.lnCreditGranted, Row.lnSnapCreditGranted), (.lnCreditConsumed, .lnSnapCreditConsumed),
     (.lnCreditReturned, .lnSnapCreditReturned), (.lnCreditOutstanding, .lnSnapCreditOutstanding),
     (.lnTagIssued, .lnSnapTagIssued), (.lnTagStatted, .lnSnapTagStatted), (.lnTagReset, .lnSnapTagReset),
     (.lnTagOpen, .lnSnapTagOpen)].foldl (fun d x => d.snap x.1 x.2 [l]) d) d
  let d := (List.range 32).foldl (fun d p =>
    [(Row.rowAlloc, Row.rowSnapAlloc), (.rowWritten, .rowSnapWritten), (.rowAbandoned, .rowSnapAbandoned),
     (.rowInprog, .rowSnapInprog)].foldl (fun d x => d.snap x.1 x.2 [p]) d) d
  [(Row.bsUnitsInstalled, Row.bsSnapInstalled), (.bsUnitsFree, .bsSnapFree), (.bsUnitsReserved, .bsSnapReserved),
   (.bsUnitsHeld, .bsSnapHeld)].foldl (fun d x => d.snap x.1 x.2 []) d

/-- A source's snapshot. -/
def Src.snap (x : Src) : Src :=
  { x with snapOccurred := x.occurred, snapPosted := x.posted, snapPending := x.pending }

/-- SNAP_TAKE, R41: the copy is made at this instant; SNAP.DONE follows within 2 µs. -/
def execSnapTake (s : State) : Host.Outcome State Fault Refusal :=
  if !s.dev.ready then .next s
  else
    let d := (s.dev.snapAll.wr .glSnapDone [] 0).updBoot fun b => { b with snapBusy := true }
    .next { s with dev := d, ev := s.ev.map fun e => (e.1, e.2.snap) }

/-- SNAP_DONE, R41. -/
def execSnapDone (s : State) : Host.Outcome State Fault Refusal :=
  act s fun d =>
    if d.boot.snapBusy then (d.wr .glSnapDone [] 1).updBoot fun b => { b with snapBusy := false } else d

/-- PACE_UPDATE, R31, R32: each die's ring count, and the lowest of the six; nothing else changes. -/
def execPaceUpdate (counts : List Nat) (s : State) : Host.Outcome State Fault Refusal :=
  act s fun d =>
    if d.pins.por then d
    else
      let at_ := fun i => counts.getD i 0 % 65536
      let d := (List.range 6).foldl (fun d i => d.wr .glPaceDie [i] (at_ i)) d
      d.wr .glPace [] ((List.range 6).foldl (fun m i => min m (at_ i)) 65535)

/-- BOOT_SLOT_HASHED, R521: the body has been read and its digest is compared; a slot that fails gives way to the other when that one's
header is valid. -/
def execBootSlotHashed (body : Bytes) (answers : List PickupAnswer) (s : State) : Host.Outcome State Fault Refusal :=
  act s fun d =>
    match d.boot.hashing with
    | none => d
    | some slot =>
      if bodyOk (d.header slot) body then d.bootDone slot answers
      else
        let d := d.slotFails slot 4
        let other := 1 - slot
        if d.rd .scSlotStatus [other] = 5 ∧ headerCheck d.custkey (d.header other) = 0 then
          d.updBoot fun b => { b with hashing := some other }
        else d.recovery

end Sys2Proof.Machine
end

