-- ==== Sys2Proof/Machine/Channel.lean ====
section
/-! DEFINITION. From a lane's samples to a block (chapter 07): where a block lies along the rail, the wedge windows that
its stream skips, the soft-output detector, frames, the modulation decoder, erasure flags, and the Reed–Solomon decoder
with errors and erasures. A level is `true` for a mark and `false` for a space. -/

namespace Sys2Proof.Machine

/-! ### Along the rail (R50 to R54, R64, R66) -/

/-- Rail periods of the bands inside band b. -/
def railBase : Nat → Nat
  | 0 => 0
  | b + 1 => railBase b + railPeriods b

/-- The rail period of a band at which its data period o lies. -/
def periodOf (windows : List (Nat × Nat)) (o : Nat) : Nat :=
  windows.foldl (fun p w => if w.1 ≤ p then p + w.2 else p) o

/-- A stretch of data periods: the rail position of its first channel bit, counted from band 0 period 0, and its length
in channel bits. -/
abbrev Span := Nat × Nat

/-- The stretches that n data periods cover from period p of band b; the first argument bounds their number. -/
def spansFrom : Nat → Nat → Nat → Nat → List Span
  | 0, _, _, _ => []
  | fuel + 1, b, p, n =>
    if n = 0 then []
    else
      match (wedgeWindows b).find? fun w => decide (p < w.1 + w.2) with
      | some (w, len) =>
        if w ≤ p then spansFrom fuel b (w + len) n
        else
          let m := min n (w - p)
          (12 * (railBase b + p), 12 * m) :: spansFrom fuel b (w + len) (n - m)
      | none =>
        let m := min n (railPeriods b - p)
        (12 * (railBase b + p), 12 * m) :: spansFrom fuel (b + 1) 0 (n - m)

/-- R64, R66: the stretches of block row r. -/
def rowSpans (r : Nat) : List Span :=
  let b := rowBand r
  spansFrom 2000 b (periodOf (wedgeWindows b) (1600000 + 76720 * r - dataBase b)) 76720

/-- R219: of what was decided on every rail bit from the block's first bit on, the part outside wedge windows. -/
def outsideWindows {α : Type} : Nat → List Span → List α → List α
  | _, [], _ => []
  | pos, (s, n) :: r, l => (l.drop (s - pos)).take n ++ outsideWindows (s + n) r (l.drop (s - pos + n))

/-- Stream bits of the block before rail position x; negative before the block. -/
def streamOf (spans : List Span) (x : Int) : Int :=
  match spans with
  | [] => 0
  | (s, _) :: _ =>
    if x < s then x - s
    else spans.foldl (fun a e => a + max 0 (min (e.2 : Int) (x - e.1))) 0

/-- Rail positions from a to b, ends included. -/
abbrev Extent := Int × Int

/-- The flags of n stream bits: every bit from an extent's start less `margin` to its end plus `margin`. -/
def flagBits (spans : List Span) (n : Nat) (margin : Nat) (extents : List Extent) : List Bool :=
  let ranges := extents.map fun e => (streamOf spans (e.1 - margin), streamOf spans (e.2 + margin + 1))
  (List.range n).map fun (i : Nat) => ranges.any fun (r : Extent) => decide (r.1 ≤ (i : Int) ∧ (i : Int) < r.2)

/-- R233: Δk = round(5 × (k − 4) × s), with s in 1/80 track. -/
def scoutShift (k : Nat) (slope : Int) : Int := roundDiv (((k : Int) - 4) * slope) 16

/-! ### The soft-output detector (R220 to R222) -/

/-- The six states (a[t − 1], a[t − 2], a[t − 3]) that contain no isolated level. -/
def detStates : List (Bool × Bool × Bool) :=
  [(false, false, false), (true, false, false), (true, true, false), (true, true, true), (false, true, true),
   (false, false, true)]

/-- +1 for a space and −1 for a mark. -/
def levelOf (mark : Bool) : Int := if mark then -1 else 1

/-- The states from which level a leads to a state. -/
def detFrom (st : Bool × Bool × Bool) : List (Nat × Bool) :=
  ((detStates.zipIdx).filter fun e => e.1.1 == st.2.1 && e.1.2.1 == st.2.2).map fun e => (e.2, e.1.2.2)

/-- One sample z, in 1/512 ADC code: the least metric of a path into each state, none where no path enters. -/
def detStep (scale : Nat) (m : List (Option Int)) (z : Int) : List (Option Int) :=
  detStates.map fun st =>
    ((detFrom st).filterMap fun e =>
      (m.getD e.1 none).map fun v =>
        let d : Int := 512 * scale * (levelOf st.1 + 2 * levelOf st.2.1 + 2 * levelOf st.2.2 + levelOf e.2)
        v + (z - d) * (z - d)).min?

/-- The least metric over the states. -/
def detBest (m : List (Option Int)) : Option Int := (m.filterMap id).min?

/-- The metrics with the paths that decide the present level otherwise removed. -/
def detKeep (mark : Bool) (m : List (Option Int)) : List (Option Int) :=
  List.zipWith (fun (st : Bool × Bool × Bool) v => if st.1 == mark then v else none) detStates m

/-- The level that the paths of least metric decide for the sample after which the metrics are m, from the samples that
follow it, and its reliability, 0 to 63 (R221); `tie` decides between equal ones. -/
def detDecide (tie : Bool) (scale : Nat) (m : List (Option Int)) (later : List Int) : Bool × Nat :=
  let best := fun mark => detBest (later.foldl (detStep scale) (detKeep mark m))
  let unit : Nat := 512 * 512 * scale * scale
  match best false, best true with
  | some s, some k =>
    if s < k then (false, min 63 ((k - s).toNat / unit))
    else if k < s then (true, min 63 ((s - k).toNat / unit))
    else (tie, 0)
  | none, some _ => (true, 63)
  | _, _ => (false, 63)

/-- R220, R221: the level decided for each sample, at a delay of 64 channel bits, and its reliability. A tie between the two
levels is a free value. -/
def detect (tie : Nat → Bool) (scale : Nat) : Nat → List (Option Int) → List Int → List (Bool × Nat)
  | _, _, [] => []
  | t, m, z :: zs =>
    let m := detStep scale m z
    detDecide (tie t) scale m (zs.take 64) :: detect tie scale (t + 1) m zs

/-- Every path starts with metric 0. -/
def detStart : List (Option Int) := detStates.map fun _ => some 0

/-- R222: the channel bits of the levels: 1 where the level changes; the level before the block is space (R60). -/
def channelBits : Bool → List Bool → List Bool
  | _, [] => []
  | prev, l :: ls => (l != prev) :: channelBits l ls

/-! ### Frames (R223, R224) -/

/-- Bits in which two bit strings differ. -/
def bitsWrong (a b : List Bool) : Nat := ((List.zipWith (fun x y => x != y) a b).filter id).length

/-- R223: the offset at which the sync of frame f is accepted, searching a window that starts 12 bits before the
prediction; bits that a pass does not reach are wrong. -/
def syncSearch (f : Nat) (window : List Bool) : Option Int :=
  let cands : List (Int × Nat) := (List.range 25).filterMap fun i =>
    let piece := (window.drop i).take 30
    let w := bitsWrong piece (sync f) + (30 - piece.length)
    if w ≤ 3 then some ((i : Int) - 12, w) else none
  let better := fun (b o : Int × Nat) =>
    if o.1.natAbs < b.1.natAbs then o
    else if o.1.natAbs = b.1.natAbs ∧ o.2 < b.2 then o
    else if o.1.natAbs = b.1.natAbs ∧ o.2 = b.2 ∧ 0 < o.1 then o
    else b
  match cands with
  | [] => none
  | c :: cs => some (cs.foldl better c).1

/-- First bit of frame f's sync, from the block's first preamble bit. -/
def framePos (f : Nat) : Nat := 960 + 1854 * f

/-! ### The modulation decoder (R227, R228) -/

/-- A basic word of Table 02-8 inverted: the pair, and whether the group is none. -/
def basicPair (g : Nat) : Nat × Bool :=
  match g with
  | 2 => (0, false)
  | 1 => (1, false)
  | 4 => (2, false)
  | 5 => (3, false)
  | _ => (0, true)

/-- The two pairs of the substitute whose first half is the group. -/
def substitutePairs (g : Nat) : Option (Nat × Nat) :=
  match g with
  | 5 => some (3, 3)
  | 4 => some (3, 2)
  | 1 => some (1, 3)
  | 2 => some (1, 2)
  | _ => none

/-- The pairs of a frame's groups, each with its violation: a group before 000 is the first half of a substitute; one that
cannot be leaves the 000 without a valid first half. -/
def decodeGroups : List Nat → List (Nat × Bool)
  | g :: 0 :: r =>
    match substitutePairs g with
    | some (a, b) => (a, false) :: (b, false) :: decodeGroups r
    | none => (0, true) :: (0, true) :: decodeGroups r
  | g :: r => basicPair g :: decodeGroups r
  | [] => []

/-- Groups of three bits as numbers, first bit most significant. -/
def groupsOf : List Bool → List Nat
  | a :: b :: c :: r => (4 * a.toNat + 2 * b.toNat + c.toNat) :: groupsOf r
  | _ => []

/-- Groups that follow a 1 with a 1: the join of two groups has adjacent 1s. -/
def joins : Nat → List Nat → List Bool
  | _, [] => []
  | prev, g :: r => decide (prev % 2 = 1 ∧ 4 ≤ g) :: joins g r

/-- Bytes of a frame's pairs, most significant pair first. -/
def pairBytes : List Nat → List Nat
  | a :: b :: c :: d :: r => (64 * a + 16 * b + 4 * c + d) :: pairBytes r
  | _ => []

/-- For each byte whether one of its four groups is set. -/
def anyOfFour : List Bool → List Bool
  | a :: b :: c :: d :: r => (a || b || c || d) :: anyOfFour r
  | _ => []

/-- The bytes of 1,824 modulated bits, their violations (a byte whose groups violate, or that meets a neighbour in
adjacent 1s), and the number of groups in violation. Of two groups that join in adjacent 1s the later decodes as pair 00
(log entry 22). -/
def decodeFrame (bits : List Bool) : List Nat × List Bool × Nat :=
  let gs := groupsOf bits
  let ps := decodeGroups gs
  let js := joins 0 gs
  let bad := List.zipWith (fun (p : Nat × Bool) j => p.2 || j) ps js
  let both := List.zipWith (· || ·) bad (js.drop 1 ++ [false])
  let pairs := List.zipWith (fun (p : Nat × Bool) j => if j then 0 else p.1) ps js
  (pairBytes pairs, anyOfFour both, (bad.filter id).length)

/-! ### Reed–Solomon decoding with errors and erasures (R61, R237, R238) -/

/-- Sum of two polynomials, lowest coefficient first. -/
def polyAdd : List Nat → List Nat → List Nat
  | [], b => b
  | a, [] => a
  | x :: a, y :: b => (x ^^^ y) :: polyAdd a b

/-- Product. -/
def polyMul (a b : List Nat) : List Nat :=
  a.foldr (fun x acc => polyAdd (b.map (gfMul x)) (0 :: acc)) []

/-- The polynomial without leading zero coefficients. -/
def polyTrim (a : List Nat) : List Nat := (a.reverse.dropWhile (· == 0)).reverse

/-- Value at x. -/
def polyEval (a : List Nat) (x : Nat) : Nat := a.foldr (fun c acc => c ^^^ gfMul acc x) 0

/-- Formal derivative. -/
def polyDeriv (a : List Nat) : List Nat := (a.drop 1).zipIdx.map fun e => if e.2 % 2 = 0 then e.1 else 0

/-- Quotient and remainder; the first argument bounds the steps. -/
def polyDivMod : Nat → List Nat → List Nat → List Nat → List Nat × List Nat
  | 0, q, a, _ => (q, a)
  | n + 1, q, a, b =>
    if b = [] ∨ a.length < b.length then (q, a)
    else
      let sh := a.length - b.length
      let f := gfMul (a.getLastD 0) (gfInv (b.getLastD 0))
      polyDivMod n (polyAdd q (zeros sh ++ [f])) (polyTrim (polyAdd a (zeros sh ++ b.map (gfMul f)))) b

/-- The Euclidean steps from (r0, t0), (r1, t1) until the remainder has degree below the bound given as twice it. -/
def euclid : Nat → Nat → List Nat → List Nat → List Nat → List Nat → List Nat × List Nat
  | 0, _, _, r1, _, t1 => (r1, t1)
  | n + 1, bound2, r0, r1, t0, t1 =>
    if r1 = [] ∨ 2 * (r1.length - 1) < bound2 then (r1, t1)
    else
      let d := polyDivMod 64 [] r0 r1
      euclid n bound2 r1 d.2 t1 (polyTrim (polyAdd t0 (polyMul d.1 t1)))

/-- The 32 syndromes of a codeword of 248 symbols. -/
def syndromes (w : List Nat) : List Nat :=
  (List.range 32).map fun j => let x := gfPow 2 j; w.foldl (fun acc s => gfMul acc x ^^^ s) 0

/-- Locator of symbol position i: α^(247 − i). -/
def locator (i : Nat) : Nat := gfPow 2 (247 - i)

/-- R237: the decoded word, or none when the codeword is not accepted. `erased` are the flagged positions. -/
def rsDecode (w : List Nat) (erased : List Nat) : Option (List Nat) :=
  let s := erased.length
  if 32 < s then none
  else
    let synd := syndromes w
    if synd.all (· == 0) then some w
    else
      let gamma := erased.foldl (fun g i => polyMul g [1, locator i]) [1]
      let t := polyTrim ((polyMul synd gamma).take 32)
      let e := euclid 40 (32 + s) (zeros 32 ++ [1]) t [] [1]
      let lam := polyTrim (polyMul e.2 gamma)
      let der := polyDeriv lam
      let pos := (List.range 248).filter fun i => polyEval lam (gfInv (locator i)) == 0
      let fixed := pos.foldl (fun (w : List Nat) i =>
        let x := locator i
        let xi := gfInv x
        w.set i (w.getD i 0 ^^^ gfMul x (gfMul (polyEval e.1 xi) (gfInv (polyEval der xi))))) w
      let errors := (pos.filter fun i => !erased.contains i).length
      if pos.length + 1 = lam.length ∧ 2 * errors + s ≤ 32 ∧ (syndromes fixed).all (· == 0) then some fixed else none

/-- R236: the flagged symbols of a codeword that are used, from the dropout and scout flags, the violations and the
confidence flags; none when the first alone exceed 32. -/
def usedFlags (marks viols confs : List Bool) : Option (List Nat) :=
  let idx := fun (l : List Bool) => (l.zipIdx.filter Prod.fst).map Prod.snd
  let all2 := List.zipWith (· || ·) marks viols
  let all3 := List.zipWith (· || ·) all2 confs
  if (idx all3).length ≤ 32 then some (idx all3)
  else if (idx all2).length ≤ 32 then some (idx all2)
  else if (idx marks).length ≤ 32 then some (idx marks)
  else none

/-- Symbols in which two words differ (R238). -/
def corrections (a b : List Nat) : Nat := ((List.zipWith (fun x y => x != y) a b).filter id).length

/-! ### A block (R225, R226, R229, R234, R235, R239) -/

/-- What the decoder of a pass or of a ladder level uses. -/
structure DecodeSet where
  /-- RC.FLAG.EN: bit 0 dropout, 1 scout, 2 confidence, 3 modulation. -/
  flagEn : Nat
  /-- Low-confidence bits that flag a byte. -/
  confCnt : Nat
  /-- Re-anchoring at the rail with the violations above which a frame is erased (R286), in place of sync search. -/
  reanchor : Option Nat := none
  /-- The flywheel limit of R239 applies (R281). -/
  flyLimit : Bool := true
  deriving DecidableEq, Repr

/-- Largest corrections of any codeword. -/
def Decoded.maxCw (x : Decoded) : Nat := x.codewords.foldl (fun m c => max m (c.getD 0)) 0
/-- Total corrections. -/
def Decoded.total (x : Decoded) : Nat := x.codewords.foldl (fun m c => m + c.getD 0) 0
/-- The 128 header bytes and the 65,536 user bytes. -/
def Decoded.header (x : Decoded) : Bytes := x.data.take 128
def Decoded.user (x : Decoded) : Bytes := x.data.drop 128

/-- One frame as taken: its start offset from the predicted position (none when flywheeled), bytes and flags. -/
structure FrameRead where
  offset : Option Int
  bytes : List Nat
  marks : List Bool
  viols : List Bool
  confs : List Bool

/-- For each byte of a frame, whether a bit of 12i − 3 to 12i + 14 is set, in a window that starts 3 bits before. -/
def markedBytes (w : List Bool) : List Bool := (List.range 152).map fun i => ((w.drop (12 * i)).take 18).any id

/-- For each byte, whether enough of its 12 bits are of low confidence (R234). -/
def unsureBytes (cnt : Nat) (w : List Bool) : List Bool :=
  (List.range 152).map fun i => decide (cnt ≤ (((w.drop (12 * i)).take 12).filter id).length)

/-- R286: the offset of −3 to +3 whose frame has the fewest violations, the smaller and then the positive on a tie, with
that number; the window starts 3 bits before the predicted first modulated bit. -/
def bestAnchor (window : List Bool) : Int × Nat :=
  let cand := fun (o : Int) => (o, (decodeFrame ((window.drop (o + 3).toNat).take 1824)).2.2)
  ([1, -1, 2, -2, 3, -3].map cand).foldl (fun (b c : Int × Nat) => if c.2 < b.2 then c else b) (cand 0)

/-- Frame f of a block from its channel bits, its dropout and scout flags and its low-confidence bits. -/
def readFrame (cfg : DecodeSet) (bits marks unsure : List Bool) (f : Nat) : FrameRead :=
  let pos := framePos f
  let wide := (bits.drop (pos - 12)).take 1878
  let off : Option Int × Bool := match cfg.reanchor with
    | none => (syncSearch f (wide.take 54), false)
    | some lim => let a := bestAnchor (wide.drop 39); (some a.1, decide (lim < a.2))
  let start := ((pos : Int) + off.1.getD 0 + 30).toNat
  let fr := decodeFrame ((bits.drop start).take 1824)
  let on := fun (b : Nat) => cfg.flagEn.testBit b
  { offset := off.1, bytes := fr.1,
    marks := (markedBytes ((marks.drop (start - 3)).take 1830)).map (fun m => m || off.2),
    viols := fr.2.1.map (fun v => v && on 3),
    confs := (unsureBytes cfg.confCnt ((unsure.drop start).take 1824)).map (fun c => c && on 2) }

/-- Symbol s of codeword c of a table of frames: byte c mod 152 of frame 2s + floor(c ÷ 152) (R229). -/
def column {α : Type} (dflt : α) (frames : List (List α)) (c : Nat) : List α :=
  (List.range 248).map fun s => (frames.getD (2 * s + c / 152) []).getD (c % 152) dflt

/-- R229 inverted over the corrected codewords: recorded byte 304s + c is symbol s of codeword c; the first 65,664 are
data. -/
def dataOf (cws : List (List Nat)) : Bytes :=
  (List.range 216).flatMap fun s => cws.map fun w => w.getD s 0

/-- R239, Table 07-4: the block at `pba` from its bits and flags. -/
def decodeBlock (cfg : DecodeSet) (pba : Nat) (bits marks unsure : List Bool) : Decoded :=
  let frames := (List.range 496).map fun f => readFrame cfg bits marks unsure f
  let fly := (frames.filter fun x => x.offset.isNone).length
  let shifted := (frames.filter fun x => x.offset.isSome && x.offset != some 0).length
  if (frames.take 32).all fun x => x.offset.isNone then { outcome := 2, fly := 32 }
  else
    let words := (List.range 304).map fun c =>
      let w := column 0 (frames.map FrameRead.bytes) c
      let used := usedFlags (column false (frames.map FrameRead.marks) c) (column false (frames.map FrameRead.viols) c)
        (column false (frames.map FrameRead.confs) c)
      (w, used.bind (rsDecode w))
    let data := dataOf (words.map fun x => x.2.getD x.1)
    let good := words.all fun x => x.2.isSome
    let crcOk := ofLe (slice data 120 4) == crc32c (data.take 120 ++ data.drop 128)
    let here := ofLe (slice data 4 4) == pba
    let outcome := if cfg.flyLimit ∧ 8 < fly then 3 else if !good then 4 else if !crcOk then 5
      else if !here then 6 else 0
    { outcome := outcome, crcGood := crcOk, addressGood := here, fly := fly, shifted := if cfg.reanchor.isSome then 0 else shifted,
      codewords := words.map (fun x => x.2.map (corrections x.1)), data := data }

/-! ### Quality figures (R244 to R247) -/

/-- The whole part of log10 of x; the first argument bounds it. -/
def decLog : Nat → Nat → Nat
  | 0, _ => 0
  | n + 1, x => if x < 10 then 0 else decLog n (x / 10) + 1

/-- 1,000 × log10(n ÷ d), rounded down. -/
def milliLog (n d : Nat) : Int :=
  let n' := n ^ 1000
  let d' := d ^ 1000
  if d ≤ n then (decLog 40000 (n' / d') : Nat)
  else
    let k := decLog 40000 (d' / n')
    if d' = 10 ^ k * n' then -(k : Int) else -(k : Int) - 1

/-- R245: SAM_MEAN in 0.1 % from the reliabilities. -/
def samMean (rel : List Nat) : Nat := min 1000 (25 * rel.sum / max 1 rel.length)

/-- R245: SAM_SNR in 0.01 dB: 20 log10 of mean over deviation; the free value `open_` where the deviation or the mean is
zero. -/
def samSnr (open_ : Int) (rel : List Nat) : Int :=
  let n := rel.length
  let mean2 := rel.sum * rel.sum
  let var := n * (rel.map fun x => x * x).sum - mean2
  if var = 0 ∨ mean2 = 0 then open_ else max (-32768) (min 32767 (milliLog mean2 var))

/-- R246: parts per million of the bits decided with Λ below CONF_THR. -/
def confidenceRatio (thr : Nat) (rel : List Nat) : Nat :=
  1000000 * (rel.filter fun x => decide (x < thr)).length / max 1 rel.length

/-- R247: how many codewords fall in each of the 34 bins. -/
def histogram (cws : List (Option Nat)) : List Nat :=
  (List.range 34).map fun i => (cws.filter fun c => c == if i < 33 then some i else none).length

end Sys2Proof.Machine
end

