-- ==== Sys2Proof/Machine/Equaliser.lean ====
section
/-! DEFINITION. From the converter of a spot to the detector's input (chapter 07): codes, gain, envelope, the adaptive FIR,
the canceller of neighbouring lanes, the rail that no spot reads, and the targets of known neighbours. Taps run in 2^−29 of
a register's unit; y and z are in 1/512 ADC code (log entries 16, 24 and 100). -/

namespace Sys2Proof.Machine

/-! ### Converter, gain and envelope (R204, R206, R230) -/

/-- R206: the output code of a value in codes at the converter's input. -/
def adcCode (v : Int) : Int := max (-128) (min 127 v)

/-- R206: the samples beyond either end. -/
def clipCount (l : List Int) : Nat := (l.filter fun v => decide (v < -128 ∨ 127 < v)).length

/-- Peak-to-peak swing. -/
def swing (l : List Int) : Nat := (l.max?.getD 0 - l.min?.getD 0).toNat

/-- R230: the envelope E at each sample, the peak-to-peak swing of the last 32; `last` are those before, newest first. -/
def envelopes : List Int → List Int → List Nat
  | _, [] => []
  | last, x :: xs => let l := (x :: last).take 32; swing l :: envelopes l xs

/-- The ends of the gain range, −6 dB and +14 dB, in 2^−32 (R204). -/
def gainLow : Nat := 2152582778
def gainHigh : Nat := 21525827776

/-- R204: the gain after a window with a swing, moved by 2^−mu of the relative error, and the end that holds it. -/
def gainStep (target mu gain sw : Nat) : Nat × Option (Fin 2) :=
  let v : Int := gain + (gain : Int) * ((target : Int) - sw) / (target * 2 ^ mu : Nat)
  if v < gainLow then (gainLow, some 0) else if (gainHigh : Int) < v then (gainHigh, some 1) else (v.toNat, none)

/-- The gain of a spot over the windows of a block, and the ends at which it was held in each so far. -/
structure GainRun where
  gain : Nat
  ends : List (Option (Fin 2)) := []

/-- One window: its swing, whether the gain holds its value in it (R205), and whether it is acquired rather than tracked. -/
def GainRun.step (target acq trk : Nat) (g : GainRun) (w : Nat × Bool × Bool) : GainRun :=
  if w.2.1 then g
  else
    let v := gainStep target (if w.2.2 then acq else trk) g.gain w.1
    { gain := v.1, ends := v.2 :: g.ends }

/-- R249: the end at which the gain was held in the whole block. -/
def GainRun.atEnd (g : GainRun) : Option (Fin 2) :=
  match g.ends with
  | some e :: r => if r.all fun x => x == some e then some e else none
  | _ => none

/-- The first n pieces of 64 of a list. -/
def chunks {α : Type} : Nat → List α → List (List α)
  | 0, _ => []
  | n + 1, l => l.take 64 :: chunks n (l.drop 64)

/-- The gain in 0.1 dB. -/
def gainTenths (gain : Nat) : Int := roundDiv (milliLog gain (2 ^ 32)) 5

/-! ### FIR and canceller (R212 to R214, R216) -/

/-- Settings of a pass. -/
structure TapCfg where
  scale : Nat
  adapt : Bool
  mu : Nat
  /-- The canceller is on (R216). -/
  iti : Bool
  itiMu : Nat
  /-- RC.TIMING.KT (R210). -/
  kt : Nat

/-- What FIR and canceller take at one rail bit t: x[t + h] to x[t − h] of the spot; x[t − 1] to x[t + 1] of its inner and
outer neighbours with R218; whether the taps and the deskew fraction hold their values (R205); whether it lies in a data
period; and by how much FIR.MU and ITI.MU are decreased (R284). -/
structure TapIn where
  own : List Int
  inner : List Int
  outer : List Int
  held : Bool
  data : Bool
  less : Nat

/-- A bit that waits for its tentative decision: what was taken, y, z, and the detector's metrics after it. -/
structure TapPast where
  inp : TapIn
  y : Int
  z : Int
  m : List (Option Int)

/-- The timing detector of a spot over a pass (R210, R244): its accumulator, the channel bits since the deskew moved, the steps
of 1/64 channel bit made, and the squared errors at transitions, in 2^−32, with their number. -/
structure Timing where
  acc : Int := 0
  since : Nat := 256
  steps : Int := 0
  squares : Nat := 0
  transitions : Nat := 0

/-- R210, R244: one FIR output against its target and the target's slope, for which the rule gives no formula: what the
accumulator adds and the error in channel bits are free functions of the three; a positive sum lowers D, and the slope is
the difference of successive targets (DESIGN CHOICE, log entry 118). -/
def Timing.step (kt : Nat) (held data turn : Bool) (y target slope : Int) (x : Timing) : Timing :=
  let x := if data && turn then
      { x with squares := x.squares + (Config.edgeError y target slope).natAbs ^ 2, transitions := x.transitions + 1 }
    else x
  if held then { x with since := x.since + 1 }
  else
    let acc := x.acc + Config.timingError y target slope
    if 256 ≤ x.since + 1 ∧ 2 ^ kt < acc.natAbs then
      { x with acc := 0, since := 0, steps := x.steps + if 0 < acc then -1 else 1 }
    else { x with acc := acc, since := x.since + 1 }

/-- R244: EYE in 0.1 %, rounded down; the free value `unstated` where a block has no transition. -/
def eyeWidth (unstated : Nat) (x : Timing) : Nat :=
  if x.transitions = 0 then unstated % 1001
  else match (List.range 1001).find? fun k => decide (36000000 * x.squares ≤ k * k * x.transitions * 2 ^ 32) with
    | some k => 1000 - k
    | none => 0

/-- FIR, canceller and the detector's metrics between two bits of a pass. -/
structure TapState where
  /-- In 2^−29 of the unit of their registers. -/
  taps : Taps
  m : List (Option Int) := detStart
  /-- The last 12 bits, newest first. -/
  past : List TapPast := []
  /-- The last three tentative decisions, newest first. -/
  levels : Bool × Bool × Bool := (false, false, false)
  /-- The target of the last of them. -/
  target : Int := 0
  t : Nat := 0
  /-- R214: the first tap held at a limit: 0 FIR or 1 canceller, and its index i or j of Table 07-8. -/
  limit : Option (Nat × Int) := none
  timing : Timing := {}

/-- One unit of a tap's register. -/
def tapUnit : Int := 2 ^ 29

/-- Taps between their registers and a pass. -/
def Taps.fine (x : Taps) : Taps :=
  { fir := x.fir.map (· * tapUnit), inn := x.inn.map (· * tapUnit), out := x.out.map (· * tapUnit) }
def Taps.whole (x : Taps) : Taps :=
  { fir := x.fir.map (· / tapUnit), inn := x.inn.map (· / tapUnit), out := x.out.map (· / tapUnit) }

/-- R212: Σ c[i] × x with the taps as their registers show them. -/
def dot (taps xs : List Int) : Int := (List.zipWith (fun c x => c / tapUnit * x) taps xs).foldl (· + ·) 0

/-- R213, R214: a tap within its limits, and whether a limit holds it. -/
def bendTap (lo hi v : Int) : Int × Bool :=
  if v < lo * tapUnit then (lo * tapUnit, true) else if hi * tapUnit < v then (hi * tapUnit, true) else (v, false)

/-- R213: every tap but `fixed` moves by 2^−mu × err × x, with err in 1/512 code; the taps and the first held at a limit. -/
def bendTaps (lo hi : Int) (fixed : Option Nat) (mu : Nat) (err : Int) (taps xs : List Int) : List Int × Option Nat :=
  let moved := taps.zipIdx.map fun (e : Int × Nat) =>
    if fixed = some e.2 then (e.1, false) else bendTap lo hi (e.1 + err * xs.getD e.2 0 * 2 ^ 20 / 2 ^ mu)
  (moved.map Prod.fst, moved.findIdx? Prod.snd)

/-- R213, R214, R216: the taps after the tentative target d of an earlier bit u; the canceller's adapt as the FIR's do, with
their error taken on z. -/
def TapState.adapted (c : TapCfg) (less : Nat) (u : TapPast) (d : Int) (s : TapState) : TapState :=
  let mid := s.taps.fir.length / 2
  let f := bendTaps (-2048) 2047 (some mid) (c.mu - less) (d - u.y) s.taps.fir u.inp.own
  let i := bendTaps (-512) 511 none (c.itiMu - less) (d - u.z) s.taps.inn u.inp.inner
  let o := bendTaps (-512) 511 none (c.itiMu - less) (d - u.z) s.taps.out u.inp.outer
  let met := (f.2.map fun n => (0, (n : Int) - mid))
    <|> (if c.iti then (i.2 <|> o.2).map fun n => (1, (n : Int) - 1) else none)
  { s with taps := { fir := f.1, inn := if c.iti then i.1 else s.taps.inn, out := if c.iti then o.1 else s.taps.out },
           limit := s.limit <|> met }

/-- The target d[t] of the levels a[t] to a[t − 3], in 1/512 code. -/
def targetOf (scale : Nat) (a b c e : Bool) : Int :=
  512 * scale * (levelOf a + 2 * levelOf b + 2 * levelOf c + levelOf e)

/-- R212, R213, R216: one rail bit; its z. -/
def tapStep (tie : Nat → Bool) (c : TapCfg) (s : TapState) (i : TapIn) : TapState × Int :=
  let y := 2 * dot s.taps.fir i.own
  let z := if c.iti then y - dot s.taps.inn i.inner - dot s.taps.out i.outer else y
  let m := detStep c.scale s.m z
  let past := { inp := i, y := y, z := z, m := m } :: s.past
  let s1 := { s with m := m, t := s.t + 1, past := past.take 12 }
  match past.drop 12 with
  | [] => (s1, z)
  | u :: _ =>
    let a := (detDecide (tie (s.t - 12)) c.scale u.m ((past.take 12).map TapPast.z).reverse).1
    let d := targetOf c.scale a s.levels.1 s.levels.2.1 s.levels.2.2
    let slope := d - s.target
    let s2 := { s1 with levels := (a, s.levels.1, s.levels.2.1), target := d,
                        timing := s.timing.step c.kt i.held u.inp.data (a != s.levels.1) u.y d slope }
    (if c.adapt && !i.held then s2.adapted c i.less u d else s2, z)

/-- A pass: z for each rail bit, and the state after it. -/
def tapRun (tie : Nat → Bool) (c : TapCfg) : TapState → List TapIn → List Int × TapState
  | s, [] => ([], s)
  | s, i :: r =>
    let a := tapStep tie c s i
    let b := tapRun tie c a.1 r
    (a.2 :: b.1, b.2)

/-- R210, R244: the last bits of a pass, oldest first, are decided on the samples that are left of it, and judged; `n` counts
them. -/
def tapFlush (tie : Nat → Bool) (c : TapCfg) : Nat → TapState → List TapPast → TapState
  | _, s, [] => s
  | n, s, u :: rest =>
    let a := (detDecide (tie n) c.scale u.m (rest.map TapPast.z)).1
    let d := targetOf c.scale a s.levels.1 s.levels.2.1 s.levels.2.2
    tapFlush tie c (n + 1) { s with
      levels := (a, s.levels.1, s.levels.2.1), target := d,
      timing := s.timing.step c.kt u.inp.held u.inp.data (a != s.levels.1) u.y d (d - s.target) } rest

/-- A pass to its end. -/
def tapPass (tie : Nat → Bool) (c : TapCfg) (s : TapState) (l : List TapIn) : List Int × TapState :=
  let r := tapRun tie c s l
  (r.1, tapFlush tie c (r.2.t - r.2.past.length) r.2 r.2.past.reverse)

/-- The inputs of each rail bit: the spot's codes from h bits before the first one, its neighbours' from one before. -/
def tapInputs (h : Nat) : List (Bool × Bool × Nat) → List Int → List Int → List Int → List TapIn
  | [], _, _, _ => []
  | b :: bs, own, inn, out =>
    { own := (own.take (2 * h + 1)).reverse, inner := inn.take 3, outer := out.take 3, held := b.1, data := b.2.1, less := b.2.2 }
      :: tapInputs h bs (own.drop 1) (inn.drop 1) (out.drop 1)

/-! ### Places along the rail (R53, R205, R218) -/

/-- Whether each of n rail bits from `start` lies in one of the extents. -/
def covered (extents : List Extent) (start : Int) (n : Nat) : List Bool :=
  (List.range n).map fun (i : Nat) => extents.any fun (e : Extent) => decide (e.1 ≤ start + i ∧ start + i ≤ e.2)

/-- The wedge windows that a block row starting in band b may meet within 32 bits, from rail bit a to b'. -/
def windowsNear (b : Nat) (a b' : Int) : List Extent :=
  let ext := fun (band : Nat) => (wedgeWindows band).map fun (w : Nat × Nat) =>
    (((12 * (railBase band + w.1) : Nat) : Int), ((12 * (railBase band + w.1 + w.2) : Nat) : Int) - 1)
  (ext b ++ ext (b + 1)).filter fun (e : Extent) => decide (a - 32 ≤ e.2 ∧ e.1 ≤ b' + 32)

/-- Values of the data-period stream at their rail bits, 0 in wedge windows. -/
def alongRail : Nat → List Span → List Int → List Int
  | _, [], _ => []
  | pos, (s, n) :: r, l => List.replicate (s - pos) 0 ++ l.take n ++ alongRail (s + n) r (l.drop n)

/-! ### The rail of the next band (R217, Table 02-5) -/

/-- The shift of the leading edge of the mark of period q of band b, layer L, with n rail periods. -/
def edgeShift (L b n q : Nat) : Int :=
  let a := min 3071 ((3072 * (2 * q + 1) - 1) / (2 * n))
  let o := q - (2 * a * n + 3072) / 6144
  let top := L * 2 ^ 28 + (b % 2 ^ 16) * 2 ^ 12 + a
  if o < 4 then [2, 2, -2, -2].getD o 0
  else if o < 44 then (if (top * 2 ^ 10 + crc10 30 top).testBit (43 - o) then 1 else -1)
  else 0

/-- Whether channel bit u of band b is a mark. -/
def railMark (L b n u : Nat) : Bool :=
  let q := u / 12
  let o : Int := (u % 12 : Nat)
  decide (edgeShift L b n q ≤ o ∧ o < 6) || (decide (q + 1 < n) && decide (12 + edgeShift L b n (q + 1) ≤ o))

/-- R217: whether the rail of the next band holds a mark at the angle of rail bit x of band b, where band b starts at rail
bit `base`. -/
def outerRail (L b base x : Nat) : Bool :=
  let n := railPeriods b
  let at_ := fun (b n off : Nat) => railMark L (b + 1) (railPeriods (b + 1)) (off * railPeriods (b + 1) / n)
  if x < base + 12 * n then at_ b n (x - base) else at_ (b + 1) (railPeriods (b + 1)) (x - base - 12 * n)

/-! ### Known neighbours (R288) -/

/-- The targets of a lane's recorded levels, in ADC codes; the levels before are `a`, `b`, `c`, newest first. -/
def targetsOf (scale : Nat) : Bool → Bool → Bool → List Bool → List Int
  | _, _, _, [] => []
  | a, b, c, l :: ls => targetOf scale l a b c / 512 :: targetsOf scale l a b ls

end Sys2Proof.Machine
end

