-- ==== Sys2Proof/Machine/Recording.lean ====
section
/-! DEFINITION. Recording (chapter 08), with the reallocation rows of chapter 09 and the catalogue rows of chapter 02:
rows allocated, started, written and abandoned, the mordant check, and optimum power calibration. -/

namespace Sys2Proof.Machine

/-! ### Conditions (Table 08-2) -/

/-- The first condition checked throughout a row that fails, as its cause of abandonment (Table 08-3). Channels that do not
operate (R17) count as a rail out of lock. -/
def Dev.rowCause (d : Dev) (p : Nat) : Option Nat :=
  if !d.on .pkMtoLock [p] ∨ !d.channelRuns p then some abRail
  else if d.spSt (spindleOf p) ≠ spRun then some abSpindle
  else if d.rd .pkLaserMask [p] % 2 ^ 15 ≠ 2 ^ 15 - 1 ∨ d.pins.ldoffLow then some abLaser
  else if !d.closed p 0 ∨ !d.closed p 1 then some abAxis
  else if d.slSt p ≠ slFollow then some abSled
  else if d.on .pkFail [p] ∨ !(d.pkS p).busOk then some abPbus
  else if !d.inWindowAll p then some abThermal
  else if !d.on .wgOpen [p] then (if (d.pkS p).goodFocus < 64 then some abGateFocus else some abGateTrack)
  else none

/-- The conditions checked at allocation alone. -/
def Dev.rowAllowed (d : Dev) (p : Nat) : Bool :=
  (d.rowCause p).isNone && d.on .spAtspeed [spindleOf p] && !d.on .thHold [p]
    && ((List.range 14).all fun i => d.rd .rcDeskewStatus [p, i + 1] == 2)

/-- A read needs the pickup (R578), the ladder has reserved it (R289), or something else moves it. -/
def Dev.pickupTaken (d : Dev) (p : Nat) : Bool :=
  (d.pkS p).reserved || thas d.seek p || thas d.homing p || (d.servoS p).jump.isSome || d.selftestUses p
    || d.wanted p != []

/-- OPC of layer L of pickup p. -/
def Dev.opcS (d : Dev) (p L : Nat) : Opc := tget {} (d.pkS p).opc L
def Dev.updOpc (d : Dev) (p L : Nat) (f : Opc → Opc) : Dev :=
  d.updPk p fun k => { k with opc := tset k.opc L (f (tget {} k.opc L)) }

/-- R275: OPC is due on layer L; no row is allocated there until it completes, and no set of the layer is valid. -/
def Dev.wantOpc (d : Dev) (p L : Nat) : Dev :=
  let d := d.updOpc p L fun o => if o.running then o else { o with pending := true }
  (List.range 8).foldl (fun d z => d.wr .wsValid [p, L, z] 0) d

/-- R275: the pickup temperature differs by more than TEMP_DELTA from that of the last OPC of L. -/
def Dev.opcDrift (d : Dev) (p L : Nat) : Bool :=
  match (d.opcS p L).temp with
  | some t => decide (d.rd .opcTempDelta [p] * 16 < 10 * (d.rdS .pkTemp [p] - t).natAbs)
  | none => false

/-- A row on layer L of pickup p may be allocated now, as far as the row's own place is not concerned. -/
def Dev.mayAllocate (d : Dev) (p L : Nat) : Bool :=
  d.surfaceOk p && d.rowAllowed p && !d.pickupTaken p && (d.pkS p).layer == L && !(d.opcS p L).pending
    && !((d.pkS p).opc.any fun e => e.2.running)

/-- A set valid for the strategy zone of row r. -/
def Dev.setValid (d : Dev) (p L r : Nat) : Bool := d.on .wsValid [p, L, zoneOf (rowBand r)]

/-! ### Blocks that leave a lane queue -/

/-- The block waits for the row that a BLOCK_WRITE named. -/
def Blk.waitsForRow (b : Blk) : Bool := b.kind == .raw && b.fixed.isSome && b.failedAt.isEmpty

/-- A block of a lane queue that its surface cannot write goes to another surface of its stripe group; a raw block
fails with the class and detail (R267, R269, R389). -/
def Dev.expel (d : Dev) (id cls detTake detRaw : Nat) : Dev :=
  match d.blk? id with
  | none => d
  | some b =>
    match b.kind with
    | .raw => d.loseBlk id cls detRaw
    | _ => d.placeElsewhere id detTake

/-- Every block of the lane queues of surface p that has no row, but for those that wait for a named row, leaves. -/
def Dev.evacuate (d : Dev) (p cls detTake detRaw : Nat) (rawToo : Bool) : Dev :=
  let ids := (d.pkS p).queues.flatten.filter fun i =>
    match d.blk? i with | some b => rawToo || !b.waitsForRow | none => false
  ids.foldl (fun d i => d.expel i cls detTake detRaw) d

/-- R269: the blocks queued on disabled lanes are handled as exhausted ones. -/
def Dev.expelDisabled (d : Dev) (p : Nat) : Dev :=
  let ids := ((d.pkS p).queues.zipIdx.filter fun q => d.on .wrLaneDis [p, q.2]).flatMap Prod.fst
  ids.foldl (fun d i => (d.updBlk i fun b => { b with exhausted := p :: b.exhausted }).expel i clsMedia
    detWriteExhausted detLaneDisabled) d

/-! ### Allocation (R250 to R253) -/

/-- The head blocks of the lane queues that pass a test, with their lanes, on lanes that are not disabled. A parity block that
waits for its unit lets those behind it go first (R579). -/
def Dev.heads (d : Dev) (p : Nat) (ok : Blk → Bool) : List (Nat × Nat) :=
  (d.pkS p).queues.zipIdx.filterMap fun q =>
    match (q.1.filterMap d.blk?).find? fun b => !(b.kind == .parity && d.unitsWait (.parity b.stripe)) with
    | some b => if ok b && !d.on .wrLaneDis [p, q.2] then some (q.2 + 1, b.id) else none
    | none => none

/-- The block is written for the first time, as part of a stripe. -/
def Blk.ofMember (b : Blk) : Bool :=
  (b.kind == .take || b.kind == .parity) && b.copyOf.isNone && b.failedAt.isEmpty && b.exhausted.isEmpty

/-- Member `member` of stripe x on surface p has no block in any row yet: its queued blocks are all there are. -/
def Dev.freshMember (d : Dev) (p x member : Nat) : Bool :=
  (d.blks.all fun b => !(b.stripe == x && b.member == member && (b.kind == .take || b.kind == .parity))
      || ((d.pkS p).queues.getD (b.lane - 1) []).contains b.id)
    && (match d.stripe? x with | some s => s.pbas.all fun e => e.1 / 7 != member | none => false)

/-- The member has a block on lane k (R386, R387). -/
def Stripe.hasLane (s : Stripe) (member k : Nat) : Bool :=
  if member < geometryD s.geometry then s.mask.contains (7 * member + (k - 1)) else s.mask.any fun i => i % 7 + 1 == k

/-- The lanes of the next user row with their blocks: the head of each lane queue (R250). R386: a member is one row, so the
row in which a member is first written leaves blank each lane on which that member has no block, and the block of a later member
stays in that lane's queue. Blocks written again, and lanes that run behind the others after that (Table 08-9), take part as
they come (log entry 26). -/
def Dev.rowLanes (d : Dev) (p : Nat) : List (Nat × Nat) :=
  let heads := d.heads p fun b => !b.waitsForRow
  let fresh := heads.filter fun e => match d.blk? e.2 with
    | some b => b.ofMember && d.freshMember p b.stripe b.member
    | none => false
  match (fresh.map Prod.snd).min?.bind d.blk? with
  | none => heads
  | some first =>
    heads.filter fun e => match d.blk? e.2, d.stripe? first.stripe with
      | some b, some s => !b.ofMember || decide (b.id ≤ first.id) || s.hasLane first.member e.1
      | _, _ => true

/-- A row is allocated: the counters as one step (R271), the position, and the blocks' new places. -/
def Dev.takeRow (d : Dev) (p : Nat) (rw : RowWrite) : Dev :=
  let d := (d.inc .rowAlloc [p]).inc .rowInprog [p]
  let key := 2 ^ 17 * rw.layer + rw.row
  let d := d.updPk p fun k => { k with
    rows := k.rows ++ [rw],
    occupied := tset k.occupied key ((tfind k.occupied key).getD [] ++ rw.lanes.map Prod.fst),
    known := k.known.filter fun e => pbaLayer e.1 != rw.layer || pbaRow e.1 != rw.row }
  rw.lanes.foldl (fun d e => d.updBlk e.2 fun b => { b with pba := some (pbaOf p rw.layer e.1 rw.row) }) d

/-- R251: NEXT[L] becomes the larger of its value and r + 1. -/
def Dev.pastRow (d : Dev) (p L r : Nat) : Dev := d.wr .rowNext [p, L] (max (d.rd .rowNext [p, L]) (r + 1))

/-- R393: a member of a stripe has its first row; the stripe's record follows once each member has one. -/
def Dev.memberRow (d : Dev) (b : Blk) (pba : Nat) : Dev :=
  if b.copyOf.isSome then d
  else match b.kind with
    | .raw => d
    | .catalogue => d
    | _ =>
      let row := pbaOf (pbaSurface pba) (pbaLayer pba) 0 (pbaRow pba)
      let d := d.updStripe b.stripe fun s =>
        if (s.rows.getD b.member none).isSome then s else { s with rows := s.rows.set b.member (some row) }
      d.recordStripe b.stripe

/-- The blocks of a row leave their lane queues. -/
def Dev.leaveQueues (d : Dev) (p : Nat) (lanes : List (Nat × Nat)) : Dev :=
  lanes.foldl (fun d e => d.unqueue p e.2) d

/-- R273: the powers of the set differ from those in force at the pickup. -/
def Dev.powersDiffer (d : Dev) (p L z : Nat) : Bool :=
  (List.range 7).any fun i => d.rd .wsPwr [p, L, z, i] != d.rd .pkWritePwr [p, i]

/-- R273: the write powers of the set go to the pickup. -/
def Dev.sendPowers (d : Dev) (p L z : Nat) : Dev :=
  (List.range 7).foldl (fun d i =>
    let v := d.rd .wsPwr [p, L, z, i]
    if v = d.rd .pkWritePwr [p, i] then d else (d.wr .pkWritePwr [p, i] v).settingWrite p (0x21 + i) v) d

/-- The strategy set of layer L and zone z as its registers hold it (R273, R274). -/
def Dev.setOf (d : Dev) (p L z : Nat) : WsSet :=
  { dttop0 := (List.range 4).map fun m => d.rdS .wsDttop0 [p, L, z, m],
    dttop1 := (List.range 4).map fun m => d.rdS .wsDttop1 [p, L, z, m],
    ttop := (List.range 3).map fun m => d.rd .wsTtop [p, L, z, m], tmp := d.rd .wsTmp [p, L, z],
    tlp := (List.range 3).map fun m => d.rd .wsTlp [p, L, z, m], tcl := (List.range 4).map fun m => d.rd .wsTcl [p, L, z, m] }

/-- The row write of a place: its header times and its strategy set. -/
def Dev.newRow (d : Dev) (p L r time : Nat) (kind : RowKind) (lanes : List (Nat × Nat)) : RowWrite :=
  let z := zoneOf (rowBand r)
  { layer := L, row := r, kind := kind, lanes := lanes, time := time, epoch := d.cat.epoch,
    devnum := d.rd .glDevnum, zone := z, set := d.setOf p L z }

/-- The row is allocated, and the values it needs go to the pickup as soon as no row is written there (R273). -/
def Dev.placeRow (d : Dev) (p : Nat) (rw : RowWrite) : Dev :=
  ((d.sendPowers p rw.layer rw.zone).sendSettings p).takeRow p rw

/-- New values are needed before a row of layer L and zone z (R273). -/
def Dev.needsValues (d : Dev) (p L z : Nat) : Bool := d.powersDiffer p L z || !(d.pkS p).pendingFrames.isEmpty

/-- SA is among the values that wait. -/
def Dev.saPending (d : Dev) (p : Nat) : Bool := (d.pkS p).pendingFrames.any fun f => f.reg == 0x0B

/-- R78, R97: REFCLK edges in which new values settle: 10 µs for powers, 2.0 ms for SA. -/
def settleEdges (sa : Bool) : Nat := if sa then 200000 else 1000

/-- R273: the values of a fixed row are sent first; the row waits for a seek made anew once they have settled. -/
def Dev.valuesFirst (d : Dev) (p : Nat) (rw : RowWrite) : Dev :=
  if d.needsValues p rw.layer rw.zone then
    let sa := d.saPending p || ((d.pkS p).settling.map Prod.snd).getD false
    ((d.sendPowers p rw.layer rw.zone).sendSettings p).updPk p fun k => { k with settling := some (d.time, sa) }
  else if (d.pkS p).settling.isSome then d
  else d.placeRow p rw

/-- A frame that carries a setting waits for the bus or its response. -/
def Dev.settingQueued (d : Dev) (p : Nat) : Bool := ((d.pkS p).sent.toList ++ (d.pkS p).frames).any Frame.setting

/-- The values sent have settled: no frame that carries one waits for the bus or its response. -/
def Dev.settled (d : Dev) (p : Nat) : Bool :=
  match (d.pkS p).settling with
  | none => true
  | some (t, sa) => !d.settingQueued p && decide (t + settleEdges sa ≤ d.time)

/-- Rail bits of row r, its wedge windows included. -/
def rowBits (r : Nat) : Nat :=
  let spans := rowSpans r
  spans.foldl (fun m e => max m (e.1 + e.2)) 0 - (spans.headD (0, 0)).1

/-- REFCLK edges in which row r passes a spot at the present channel rate. -/
def Dev.rowTime (d : Dev) (p r : Nat) : Nat := rowBits r * 100000000 / d.channelRate p

/-- R273: rows passed over before the first row whose first preamble bit comes after the new values have settled: back to back
one row for powers and four for SA; with no row in progress, as many as pass between the prediction for row r and then. Values
already at the pickup settle from their own frame on. -/
def Dev.passedOver (d : Dev) (p r time : Nat) (unsent : Bool) : Nat :=
  let sa := d.saPending p || ((d.pkS p).settling.map Prod.snd).getD false
  if (d.pkS p).rows ≠ [] then (if d.saPending p then 4 else 1)
  else
    let sent := if unsent || d.settingQueued p then d.time else ((d.pkS p).settling.map Prod.fst).getD d.time
    let late := sent + settleEdges sa - time
    if d.rowTime p r = 0 then (if late = 0 then 0 else if sa then 4 else 1) else ceilDiv late (d.rowTime p r)

/-- A user row (R250, R251, R273). With a row in progress the next one follows it back to back. Blocks already in the lane queues go
on to the medium when fewer than 2 catalogue rows are free (DEDUCED, log entry 151). -/
def Dev.allocUser (d : Dev) (p time : Nat) : Dev :=
  match d.writeLayer p with
  | none => d.evacuate p clsMedia detNoSpace detNoSpace false
  | some L =>
    if !d.mayAllocate p L then d
    else if d.opcDrift p L then d.wantOpc p L
    else
      let k := d.pkS p
      let next := d.rd .rowNext [p, L]
      let joins : Bool := match k.rows with
        | [] => true
        | [c] => c.started && c.layer == L && c.row + 1 == next
        | _ => false
      let lanes := d.rowLanes p
      if !joins then d
      else if lanes = [] then d.expelDisabled p
      else
        let changed := d.needsValues p L (zoneOf (rowBand next))
        -- R80: values sent while no row was in progress may still be settling
        let settling := k.rows.isEmpty && !d.settled p
        let skipped := if changed || settling then d.passedOver p next time changed else 0
        let r := next + skipped
        if 98400 ≤ r ∨ !d.setValid p L r then d
        else
          let first := if k.rows = [] then time + skipped * d.rowTime p next else time
          let rw := { d.newRow p L r first .user lanes with newValues := changed }
          let d := d.placeRow p rw
          let d := (d.leaveQueues p lanes).pastRow p L r
          let d := lanes.foldl (fun d e => match d.blk? e.2 with
            | some b => d.memberRow b (pbaOf p L e.1 r)
            | none => d) d
          d.expelDisabled p

/-- Lane k of a row has been recorded, or the row abandoned: its position is never written again (R67). -/
def Dev.laneTaken (d : Dev) (p L r k : Nat) : Bool :=
  match tfind (d.pkS p).occupied (2 ^ 17 * L + r) with
  | some lanes => lanes.isEmpty || lanes.contains k
  | none => false

/-- R67: a BLOCK_WRITE whose position has been taken since it was queued takes the next user row, as after an abandonment
(DESIGN CHOICE, log entry 120). -/
def Dev.freeTaken (d : Dev) (p f : Nat) : Dev :=
  let L := f / 2 ^ 17
  let r := f % 2 ^ 17
  ((d.heads p fun b => b.waitsForRow && b.fixed == some f).filter fun e => d.laneTaken p L r e.1).foldl
    (fun (d : Dev) e => d.updBlk e.2 fun b => { b with failedAt := [pbaOf p L e.1 r] }) d

/-- The row that a BLOCK_WRITE on layer L names (R251): every lane whose head block waits for that row takes part. -/
def Dev.allocFixed (d : Dev) (p L time : Nat) : Dev :=
  let named := (d.heads p Blk.waitsForRow).filterMap fun e => (d.blk? e.2).bind Blk.fixed
  match named.find? fun f => f / 2 ^ 17 == L with
  | none => d
  | some f =>
    let r := f % 2 ^ 17
    if !d.mayAllocate p L ∨ (d.pkS p).rows ≠ [] then d
    else if d.opcDrift p L then d.wantOpc p L
    else if !d.setValid p L r then d
    else
      let d := d.freeTaken p f
      let lanes := d.heads p fun b => b.waitsForRow && b.fixed == some f
      if lanes = [] then d
      else
        let d := d.valuesFirst p (d.newRow p L r time .fixed lanes)
        if (d.pkS p).rows = [] then d
        else ((d.leaveQueues p lanes).pastRow p L r).expelDisabled p

/-! ### Spare rows (R295 to R298) -/

/-- PICKUP[p].RECOV.QUEUED follows the queues of recovered copies. -/
def Dev.countQueued (d : Dev) (p : Nat) : Dev :=
  d.wr .recovQueued [p] ((d.pkS p).realloc.foldl (fun n e => n + e.2.queue.length) 0)

/-- The spare row the queue of layer L takes: its own layer's, else the other layers' in the order L0 to L3. -/
def Dev.spareLayer (d : Dev) (p L : Nat) : Option Nat :=
  (L :: [0, 1, 2, 3]).find? fun x => decide (d.rd .rowSpareNext [p, x] < 100000) && d.layerReadable p x

/-- A queue whose copies cannot be written leaves: they stay at their old positions. -/
def Dev.dropCopies (d : Dev) (p L : Nat) : Dev :=
  let ids := (tget {} (d.pkS p).realloc L : Realloc).queue
  let d := d.updPk p fun k => { k with realloc := tset k.realloc L { tget {} k.realloc L with queue := [], due := false } }
  (ids.foldl (fun d i => d.dropBlk i) d).countQueued p

/-- R298: SPARE_LOW once per layer, SPARE_EXHAUSTED once per surface. -/
def Dev.spareEvents (d : Dev) (p L : Nat) : Dev :=
  let left := 100000 - d.rd .rowSpareNext [p, L]
  let q : Realloc := tget {} (d.pkS p).realloc L
  let d := if left < d.rd .rvSpareLow ∧ !q.lowPosted then
      (d.updPk p fun k => { k with realloc := tset k.realloc L { tget {} k.realloc L with lowPosted := true } }).raisePk
        p 21 evSpareLow ([L] ++ le 4 left)
    else d
  if (d.spareLayer p L).isNone ∧ !(d.pkS p).sparesOut then
    (d.updPk p fun k => { k with sparesOut := true }).raisePk p 21 evSpareExhausted
  else d

/-- R295: a spare row for the queue of layer L. A copy without its unit waits (R579). -/
def Dev.allocSpare (d : Dev) (p L time : Nat) : Dev :=
  let q : Realloc := tget {} (d.pkS p).realloc L
  let free := (List.range 7).filter fun i => !d.on .wrLaneDis [p, i]
  let ready := q.queue.filter fun i => !d.unitsWait (.copy i)
  let asked := decide (7 ≤ ready.length) || q.due
  if ready = [] ∨ !asked then d
  else if free = [] then d.dropCopies p L
  else match d.spareLayer p L with
    | none => d.dropCopies p L
    | some X =>
      let r := d.rd .rowSpareNext [p, X]
      if !d.mayAllocate p X ∨ (d.pkS p).rows ≠ [] then d
      else if d.opcDrift p X then d.wantOpc p X
      else if !d.setValid p X r then d
      else
        let lanes := (free.map (· + 1)).zip ready
        let rest := q.queue.filter fun i => !(lanes.map Prod.snd).contains i
        let d := d.valuesFirst p { d.newRow p X r time .spare lanes with queue := L }
        if (d.pkS p).rows = [] then d
        else
          let d := d.updPk p fun k => { k with realloc := tset k.realloc L { tget {} k.realloc L with
            queue := rest, due := false, since := d.time } }
          (((d.wr .rowSpareNext [p, X] (r + 1)).countQueued p).spareEvents p X).expelDisabled p

/-! ### Catalogue rows (R69, R70, R74, R583) -/

/-- A catalogue row is opened on every readable copy. -/
def Dev.openCatRow (d : Dev) : Dev :=
  if d.cat.writing.isSome ∨ !(d.catRowFull || d.rowDue) ∨ d.unwritten = [] ∨ 2560 ≤ d.cat.nextRow ∨ d.cat.copies = []
  then d
  else
    let lanes := d.nextCatLanes
    let waits := d.cat.copies.flatMap fun p =>
      ((List.range 7).filter fun i => !d.on .wrLaneDis [p, i]).map fun i => (p, i + 1)
    (d.updCat fun c => { c with writing := some { index := c.nextRow, lanes := lanes, waits := waits },
                                nextRow := c.nextRow + 1, wanted := false }).postCatalogFull d.recordWaiters

/-- The catalogue row on surface p (R70): each copy receives the same block at the same position, but for lanes disabled
since the row was opened (R269). -/
def Dev.allocCatalogue (d : Dev) (p time : Nat) : Dev :=
  let n := match d.cat.writing with | some w => w.index | none => d.cat.nextRow
  let L := (catPosition n).1
  let r := (catPosition n).2
  if !d.cat.copies.contains p ∨ !d.mayAllocate p L ∨ (d.pkS p).rows ≠ [] then d
  else if d.opcDrift p L then d.wantOpc p L
  else if !d.setValid p L r then d
  else
    let rw := d.newRow p L r time .catalogue []
    if d.needsValues p L rw.zone ∨ (d.pkS p).settling.isSome then d.valuesFirst p rw
    else
      let d := d.openCatRow
      match d.cat.writing with
      | none => d
      | some w =>
        let busy := d.blks.any fun b => b.kind == .catalogue && b.surface == p
        if busy ∨ !(w.waits.any fun x => x.1 == p) then d
        else
          let first := d.nextBlk
          let all := (w.waits.filter fun x => x.1 == p).map Prod.snd
          let off := all.filter fun k => d.on .wrLaneDis [p, k - 1]
          let todo := all.filter fun k => !off.contains k
          let d := todo.foldl (fun d k =>
            let recs := w.lanes.getD (k - 1) []
            d.addBlk { id := d.nextBlk, kind := .catalogue, data := d.catBlock recs, surface := p, lane := k,
                       recs := recs }) d
          let lanes := todo.zipIdx.map fun e => (e.1, first + e.2)
          let d := if todo = [] then d else d.placeRow p { rw with lanes := lanes }
          (if off = [] then d else d.catSettle p off none).expelDisabled p

/-- ROW_ALLOCATE, R250, R251, R295, R70: kind 0 a user row, 1 the row of a BLOCK_WRITE on layer L, 2 a spare row for
the copies of layer L, 3 the catalogue row; `time` is the rail's prediction for the first preamble bit (R253). -/
def execRowAllocate (p : Fin 32) (L kind : Fin 4) (time : Nat) (s : State) : Host.Outcome State Fault Refusal :=
  serve s fun d =>
    match kind.val with
    | 0 => d.allocUser p time
    | 1 => d.allocFixed p L time
    | 2 => d.allocSpare p L time
    | _ => d.allocCatalogue p time

/-! ### The write path (R253 to R257, R85 to R88) -/

/-- KIND of a block header. -/
def BlkKind.code : BlkKind → Nat
  | .take => 1
  | .raw => 2
  | .parity => 3
  | .catalogue => 4

/-- Header bytes 0 to 119 of a block in a row (Table 02-11, R253, R265, R296). -/
def Dev.headerOf (d : Dev) (b : Blk) (rw : RowWrite) (pba : Nat) : Bytes :=
  let orig := b.orig.getD pba
  if b.header ≠ [] then
    -- the copy's header is that of the recovered block with the changes of R296
    let h := overwrite (slice b.header 0 120) 3 [b.flags]
    overwrite (overwrite (overwrite h 4 (le 4 pba ++ le 4 orig)) 40 (le 4 rw.epoch)) 52 (le 8 rw.time)
  else
    let g := (d.stripe? b.stripe).map Stripe.geometry
    let riraiz := b.kind == .take || b.kind == .parity
    let counts := match g with
      | some g => if riraiz then [b.member, geometryD g, geometryM g, 0] else [0, 0, 0, 0]
      | none => if riraiz then [b.member, 0, 0, 0] else [0, 0, 0, 0]
    le 2 0x5146 ++ [b.kind.code, b.flags] ++ le 4 pba ++ le 4 orig
      ++ (if riraiz then le 8 b.take ++ le 8 b.offset ++ le 8 b.stripe else zeros 24) ++ counts
      ++ le 4 rw.epoch ++ le 8 b.hostTime ++ le 8 rw.time ++ le 2 rw.devnum ++ zeros 58

/-- The 65,664 data bytes of a block: header with its CRC (R65), then the user bytes. -/
def blockData (header user : Bytes) : Bytes :=
  let h := slice header 0 120
  h ++ le 4 (crc32c (h ++ user)) ++ zeros 4 ++ user

/-- Runs of one level in a string of recorded levels, with their lengths. -/
def runsOf : List Bool → List (Bool × Nat)
  | [] => []
  | b :: bs =>
    match runsOf bs with
    | (c, n) :: rest => if b = c then (c, n + 1) :: rest else (b, 1) :: (c, n) :: rest
    | [] => [(b, 1)]

/-- dTtop of mark class m after space class q. -/
def WsSet.dttop (st : WsSet) (m q : Nat) : Int := (if q = 0 then st.dttop0 else st.dttop1).getD m 0

/-- R85: the pulses of an nT mark that starts at t after a space of class q. -/
def markPulses (st : WsSet) (t : Int) (n q : Nat) : List (Int × Int) :=
  let m := min (n - 2) 3
  let first := t + st.dttop m q
  if n ≤ 2 then [(first, t + 64 - (st.tcl.getD 0 0 : Nat))]
  else
    let last := t + 32 * n - (st.tcl.getD m 0 : Nat)
    (first, first + (st.ttop.getD (m - 1) 0 : Nat))
      :: ((List.range (n - 3)).map fun (i : Nat) => (t + 32 * ((i : Int) + 1), t + 32 * ((i : Int) + 1) + st.tmp))
      ++ [(last - (st.tlp.getD (m - 1) 0 : Nat), last)]

/-- The pulses of a run of levels; R572 classes the space before each mark, and the first mark takes class 1. -/
def trainOf (st : WsSet) : Int → Nat → List (Bool × Nat) → List (Int × Int)
  | _, _, [] => []
  | t, q, (mark, n) :: rest =>
    if mark then markPulses st t n q ++ trainOf st (t + 32 * n) 1 rest
    else trainOf st (t + 32 * n) (if t = 0 then 1 else if n = 2 then 0 else 1) rest

/-- R86: pulses that would leave a low stretch shorter than 6/32 T become one. -/
def mergePulses : List (Int × Int) → List (Int × Int)
  | [] => []
  | a :: rest =>
    match mergePulses rest with
    | b :: more => if b.1 - a.2 < 6 then (min a.1 b.1, max a.2 b.2) :: more else a :: b :: more
    | [] => [a]

/-- R86: no pulse is shorter than 6/32 T; it is lengthened at its end. -/
def lengthen (l : List (Int × Int)) : List (Int × Int) := l.map fun a => (a.1, max a.2 (a.1 + 6))

/-- R257: a high stretch that would run into a wedge window is split there, and a remnant shorter than 6/32 T is not
emitted. -/
def cutPulse (cuts : List Int) (a : Int × Int) : List (Int × Int) :=
  match cuts.find? fun c => decide (a.1 < c ∧ c < a.2) with
  | some c => [(a.1, c), (c, a.2)].filter fun b => decide (6 ≤ b.2 - b.1)
  | none => [a]

/-- Data periods of a band that lie before wedge window w. -/
def beforeWindow (b w : Nat) : Nat :=
  let n := railPeriods b
  (16 * w * n + 3072) / 6144 + 44 - w * ceilDiv n 9600

/-- The places of a row's data-period stream at which wedge windows stand, in 1/32 channel bit. -/
def windowCuts (row : Nat) : List Int :=
  let b := rowBand row
  let start := 1600000 + 76720 * row - (List.range b).foldl (fun n x => n + dataPeriods x) 0
  let here := (List.range 384).map fun w => (beforeWindow b w : Int) - start
  let next := (List.range 384).map fun w => (beforeWindow (b + 1) w : Int) + dataPeriods b - start
  ((here ++ next).filter fun x => decide (0 ≤ x ∧ x ≤ 76720)).map (384 * ·)

/-- R88: the latency of lane k in grid steps at the present channel rate, rounded down. -/
def Dev.latencySteps (d : Dev) (p k row : Nat) : Int :=
  let r := (bandRadius (rowBand row) 1536).toNat / 8
  let rpm := (d.rdS .spSpeed [spindleOf p]).natAbs
  d.rd .pkWstbLatency [p, k - 1] * 64 * 3141592653589793 * r * rpm / (2880 * 10 ^ 27)

/-- Table 01-6: channel bits by which spot s trails S0. -/
def spotOffset (s : Nat) : Int := if s ≤ 7 then 250 * s else if s = 15 then -250 else 250 * ((s : Int) - 7) + 625

/-- R20: where S0 stands, in 1/64 channel bit of the rail, when spot s is at rail bit x. -/
def Dev.spotPlace (d : Dev) (p s : Nat) (x : Int) : Int := 64 * (x + spotOffset s) + d.rdS .rcDeskew [p, s]

/-- What lane k of a row puts out: the place of its first preamble bit (R20), the recorded levels (R255, R256) and the pulse
train (R85 to R88, R257). The advance of R88 moves the edges of the train in the data-period stream; the edges that a wedge window
makes stand at the window (DEDUCED, log entry 60). -/
def Dev.laneOut (d : Dev) (p : Nat) (rw : RowWrite) (e : Nat × Nat) : Option Msg :=
  (d.blk? e.2).map fun b =>
    let data := blockData (d.headerOf b rw (pbaOf p rw.layer e.1 rw.row)) b.data
    let levels := nrzi false (blockBits data)
    let raw := trainOf rw.set 0 1 (runsOf levels)
    let lat := d.latencySteps p e.1 rw.row
    let pulses := (mergePulses (lengthen (mergePulses raw))).map fun a => (a.1 - lat, a.2 - lat)
    .lane p e.1 rw.row (d.spotPlace p e.1 ((rowSpans rw.row).headD (0, 0)).1) levels
      (pulses.flatMap (cutPulse (windowCuts rw.row)))

/-- The spot of the block that a read-channel setting waits for, where its place names one (R248). -/
def Fld.spotOf (f : Fld) : Option Nat :=
  match f.row with
  | .rcDeskew => f.ix[1]?
  | .rcFirTap => f.ix[1]?
  | .rcFirSaved => f.ix[1]?
  | .rcItiIn => (f.ix[1]?).map (· + 1)
  | .rcItiOut => (f.ix[1]?).map (· + 1)
  | _ => none

/-- R248: the settings that wait take effect at the start of the next block of a spot that they affect; a write made since that
start is left. A read or a verify read begun before keeps the earlier values. -/
def Dev.applyRc (d : Dev) (p : Nat) (starts : Nat → Bool) (since : RcWrite → Bool) : Dev :=
  let now := fun (e : RcWrite) => !since e && (match e.fld.spotOf with | some s => starts s | none => true)
  let due := (d.pkS p).rcPending.filter now
  if due = [] then d
  else
    let before := due.map fun e => (e.fld, regGet d.regs e.fld)
    let d := due.foldl (fun (d : Dev) e => d.wr e.fld.row e.fld.ix e.value) d
    let add := fun (old : List (Fld × Nat)) => old ++ before.filter fun e => !(old.any fun o => o.1 == e.1)
    d.updPk p fun k => { k with
      rcPending := k.rcPending.filter fun e => !now e,
      verify := k.verify.map fun v => { v with old := add v.old },
      reading := k.reading.map fun r => { r with old := add r.old } }

/-- R248: the device with the settings of the start of a read, where earlier values have been kept. -/
def Dev.asBegun (d : Dev) (old : List (Fld × Nat)) : Dev :=
  (old.filter fun o => isRc o.1.row).foldl (fun (x : Dev) o => x.wr o.1.row o.1.ix o.2) d

/-- The device that a read so begun leaves, with the settings that came into force after that start as they are in d. -/
def Dev.asNow (u d : Dev) (old : List (Fld × Nat)) : Dev :=
  (old.filter fun o => isRc o.1.row).foldl (fun (x : Dev) o => x.wr o.1.row o.1.ix (d.rd o.1.row o.1.ix)) u

/-- A setting written since the read of row `key` began: within the time in which the row passes and decodes, with that row or
a later one under S0 (DESIGN CHOICE, log entry 119). -/
def Dev.sinceStart (d : Dev) (p key : Nat) (e : RcWrite) : Bool :=
  (e.row.any fun k => decide (key ≤ k)) && decide (d.time < e.time + d.rowTime p (key % 2 ^ 17) + 3000)

/-- R211: the whole-bit shifts of D that wait are made at a block boundary of the spot. -/
def Dev.applyShift (d : Dev) (p s : Nat) : Dev :=
  let x := (d.spotS p s).shift
  if x = 0 then d
  else
    (d.wrS .rcDeskew [p, s] (max (-2048) (min 2047 (d.rdS .rcDeskew [p, s] + 64 * x)))).updSpot p s fun q =>
      { q with shift := 0 }

/-- R203: the equaliser of every spot at the start of a preamble of row r. -/
def Dev.setEqualiser (d : Dev) (p r : Nat) : Dev :=
  let z := zoneOf (rowBand r)
  let rpm := (d.rdS .spSpeed [spindleOf p]).natAbs
  d.updPk p fun k => { k with boost := d.rd .rcBoost [p, z], peak := d.rd .rcPeak [p, z] * rpm }

/-- What stops an allocated row at its first bit: a condition checked throughout (R260, R261), ATSPEED (R200), or a deskew that
has not been verified again since the rail was lost (R209; its cause is RAIL, DEDUCED, log entry 121). -/
def Dev.startCause (d : Dev) (p : Nat) : Option Nat :=
  match d.rowCause p with
  | some c => some c
  | none =>
    if !d.on .spAtspeed [spindleOf p] then some abSpindle
    else if (List.range 14).all fun i => d.rd .rcDeskewStatus [p, i + 1] == 2 then none
    else some abRail

/-- ROW_START, R256, R260: the allocated row starts, or is abandoned when a condition for its start fails at its first bit. -/
def execRowStart (p : Fin 32) (s : State) : Host.Outcome State Fault Refusal :=
  act s fun d =>
    let k := d.pkS p
    if k.rows.any RowWrite.started then d
    else match k.rows.head? with
      | none => d
      | some rw =>
        match d.startCause p with
        | some c => d.abandon p rw c
        | none =>
          let d := (d.applyRc p (fun s => rw.lanes.any fun e => e.1 + 7 == s) fun _ => false).setEqualiser p rw.row
          let checking := fun (s : Nat) => k.verify.any fun v => v.lane + 7 == s
          let d := ((List.range 16).filter fun s => !checking s).foldl (fun (d : Dev) s => d.applyShift p s) d
          -- R80: a setting whose frame has not gone out waits for the end of the row
          let d := d.updPk p fun k => { k with
            rows := k.rows.map fun r => if r = rw then { r with started := true } else r,
            frames := k.frames.filter (!Frame.setting ·),
            pendingFrames := (k.frames.filter Frame.setting).foldl addFrame k.pendingFrames }
          { d with out := d.out ++ rw.lanes.filterMap (d.laneOut p rw) }

/-- ROW_WRITTEN, R263, R271: the last postamble bit of the row in progress; its verify reports are due (R241). -/
def execRowWritten (p : Fin 32) (s : State) : Host.Outcome State Fault Refusal :=
  act s fun d =>
    match d.rowNow p with
    | none => d
    | some rw =>
      let d := (d.dec .rowInprog [p]).inc .rowWritten [p]
      let due := rw.lanes.map fun (e : Nat × Nat) =>
        ({ lane := e.1, block := e.2, pba := pbaOf p rw.layer e.1 rw.row, ended := d.time } : VerifyDue)
      let d := d.updPk p fun k => { k with
        rows := k.rows.filter (fun r => r != rw), verify := k.verify ++ due, passSpots := [] }
      let d := rw.lanes.foldl (fun d e => d.updBlk e.2 fun b => { b with orig := match b.orig with
        | some o => some o
        | none => b.pba }) d
      d.sendSettings p

/-- R240, R242: the verify spot of lane k has not yet passed the last postamble bit of its block: it trails the emission of
lane 7's last bit by 250k + 625 − 1,750 channel bits. -/
def Dev.stillVerifying (d : Dev) (p : Nat) (v : VerifyDue) : Bool :=
  decide ((d.time - v.ended) * d.channelRate p + 1125 * 100000000 < 250 * v.lane * 100000000)

/-- R240: MTO p leaves lock: verify reads still under way are lost. -/
def Dev.loseVerify (d : Dev) (p : Nat) : Dev :=
  d.updPk p fun k => { k with
    verify := k.verify.map fun v => if d.stillVerifying p v then { v with lost := true } else v }

/-- FETCH_DEADLINE, R254: a block of the allocated row is not staged in time. -/
def execFetchDeadline (p : Fin 32) (s : State) : Host.Outcome State Fault Refusal :=
  act s fun d =>
    match (d.pkS p).rows.find? fun r => !r.started with
    | some rw => d.abandon p rw abFetch
    | none => d

/-! ### Quality figures (R244 to R247) and sick lanes (R268) -/

/-- R247: the codewords that a spot decoded join its histogram; a bin saturates. -/
def Dev.countWords (d : Dev) (p s : Nat) (cws : List (Option Nat)) : Dev :=
  (histogram cws).zipIdx.foldl (fun (d : Dev) (e : Nat × Nat) =>
    d.wr .rcHist [p, s, e.2] (min (2 ^ 32 - 1) (d.rd .rcHist [p, s, e.2] + e.1))) d

/-- The counts of a block decoded, or failed, at level 0 on its lane. -/
def Dev.countBlock (d : Dev) (pba : Nat) (x : Decoded) : Dev :=
  let ix := [pbaSurface pba, pbaLane pba - 1]
  let d := ((d.inc .rcLaneBlocks ix).inc .rcLaneFlywheels ix x.fly).inc .rcLaneSyncShifted ix x.shifted
  if x.outcome = 0 then d else d.inc .rcLaneFails ix

/-- R245, R246: the figures of a data spot from its reliabilities; the deviation of a block with none is a free value. -/
def Dev.qualityFigures (d : Dev) (p s : Nat) (rel : List Nat) : Dev :=
  let fr := d.fresh
  ((fr.2.wr .rcSamMean [p, s] (samMean rel)).wrS .rcSamSnr [p, s] (samSnr (ofTwos 16 fr.1) rel)).wr .rcDcr [p, s]
    (confidenceRatio (d.rd .rcConfThr [p]) rel)

/-! ### A pass over a block (R230 to R233, R239) -/

/-- Dropouts of spot s (R230), an open one reaching on. -/
def Dev.dropExtents (d : Dev) (p s : Nat) : List Extent :=
  let q := d.spotS p s
  ((q.seen ++ q.drops).map fun (e : Nat × Nat) => ((e.1 : Int), (e.2 : Int)))
    ++ (match q.dropout with | some a => [((a : Int), (2 : Int) ^ 63)] | none => [])

/-- A defect of the scout is open still. -/
def Pk.openDefect (k : Pk) (x : Defect) : Bool := k.scoutOpen == some x.start && x.stop == x.start

/-- R233: the map's defects projected on lane k, an open one reaching on. -/
def Dev.scoutExtents (d : Dev) (p k : Nat) : List Extent :=
  let pk := d.pkS p
  pk.scoutMap.map fun (x : Defect) =>
    let sh := scoutShift k x.slope
    ((x.start : Int) + sh, if pk.openDefect x then (2 : Int) ^ 63 else (x.stop : Int) + sh)

/-- Channel bits of a block (Table 02-9). -/
def blockLength : Nat := 920640

/-- The dropout and scout flags of a block on lane k, from the sources that RC.FLAG.EN enables. -/
def Dev.passMarks (d : Dev) (p s k : Nat) (spans : List Span) : List Bool :=
  let en := d.rd .rcFlagEn [p]
  let a := if en.testBit 0 then d.dropExtents p s else []
  let b := if en.testBit 1 then d.scoutExtents p k else []
  List.zipWith (· || ·) (flagBits spans blockLength (d.rd .rcDropMargin [p]) a)
    (flagBits spans blockLength (d.rd .rcScoutMargin [p]) b)

/-- Channel bits by which spot s trails the scout (Table 01-6). -/
def scoutLead (s : Nat) : Nat := (spotOffset s + 250).toNat

/-- R205, R218: where the dropout flags of spot s, lane k, and the scout flags of that lane are present when its samples are
taken, each reaching `after` bits on: a dropout is known from its eighth low sample to the eighth good one after it, a
defect from the sample on which the scout declares it. -/
def Dev.presentFlags (d : Dev) (p s k after : Nat) : List Extent :=
  let en := d.rd .rcFlagEn [p]
  let m := d.rd .rcDropMargin [p]
  let w := d.rd .rcScoutMargin [p]
  let drops := if en.testBit 0 then
      (d.dropExtents p s).map fun (e : Extent) => (e.1 + 7, e.2 + (max m 8 + after : Nat))
    else []
  let defects := if en.testBit 1 then
      List.zipWith (fun (x : Defect) (e : Extent) =>
        (max (e.1 - w) ((x.start : Int) + (d.rd .rcScoutLen [p] : Nat) - 1 - (scoutLead s : Nat)), e.2 + w))
        (d.pkS p).scoutMap (d.scoutExtents p k)
    else []
  drops ++ (defects.filter fun (e : Extent) => decide (e.1 ≤ e.2)).map fun (e : Extent) => (e.1, e.2 + (after : Nat))

/-- The dropouts of a spot inside a block have been used. -/
def Dev.dropsUsed (d : Dev) (p s : Nat) (spans : List Span) : Dev :=
  let stop := spans.foldl (fun m e => max m (e.1 + e.2)) 0
  d.updSpot p s fun q => { q with drops := q.drops.filter fun (e : Nat × Nat) => decide (stop ≤ e.1) }

/-! ### Samples over a pass (R20, R203 to R218) -/

/-- What a pass leaves at a spot: its taps, the limit met (R214), the gain and the end that held it (R204), the samples clipped
(R206), and the timing detector (R210). -/
structure PassEnd where
  taps : Taps := {}
  limit : Option (Nat × Int) := none
  gain : Nat
  agc : Option (Fin 2) := none
  clips : Nat := 0
  timing : Timing := {}

/-- R215: the first block read on a layer after another layer, or after reset, starts from the taps saved for it. -/
def Dev.loadTaps (d : Dev) (p s L : Nat) : Dev :=
  if (d.spotS p s).lastLayer = some L then d
  else
    let d := d.updSpot p s fun q => { q with lastLayer := some L }
    (List.range 15).foldl (fun d i => d.wr .rcFirTap [p, s, i] (d.rd .rcFirSaved [p, s, L, i])) d

/-- Values stored in consecutive places of a field. -/
def Dev.setTaps (d : Dev) (r : Row) (ix : List Nat) (from_ : Nat) (v : List Int) : Dev :=
  v.zipIdx.foldl (fun d e => d.wrS r (ix ++ [from_ + e.2]) e.1) d

/-- First rail bit of a block row, and its rail bits to the last postamble bit. -/
def rowPlace (spans : List Span) : Nat × Nat :=
  let first := (spans.headD (0, 0)).1
  (first, spans.foldl (fun m e => max m (e.1 + e.2)) first - first)

/-- Where in a run of spot s the sample of rail bit x stands, by the spot's offset and the whole bits of its deskew (R20). -/
def Dev.runIndex (d : Dev) (p : Nat) (r : SpotRun) (x : Int) : Int := floorDiv (d.spotPlace p r.spot x) 64 - r.start

/-- The samples of spot s from rail bit x on; bits before the first sample given read 0. -/
def Dev.samplesAt (d : Dev) (p s : Nat) (runs : List SpotRun) (x : Int) : List Int :=
  match runs.find? fun r => r.spot == s with
  | none => []
  | some r =>
    let i := d.runIndex p r x
    if i < 0 then List.replicate (-i).toNat 0 ++ r.x else r.x.drop i.toNat

/-- The lane whose flags cover a spot: its own, the rail's for S0, lane 4 for the scout. -/
def spotLane (s : Nat) : Nat := if s ≤ 7 then s else if s = 15 then 4 else s - 7

/-- R205: whether gain, deskew fraction and taps of spot s hold in each of n rail bits from x on of band b or the next. -/
def Dev.heldAt (d : Dev) (p s b : Nat) (x : Int) (n : Nat) : List Bool :=
  let windows := windowsNear b x (x + n)
  covered ((windows.map fun (e : Extent) => (e.1 - 16, e.2 + 16)) ++ d.presentFlags p s (spotLane s) (d.rd .rcDropHold [p])) x n

/-- R204: the gain over whole windows of 64 codes. -/
def Dev.gainOver (d : Dev) (p : Nat) (codes : List Int) (held acquire : List Bool) (g : GainRun) : GainRun :=
  let count := codes.length / 64
  let swings := (chunks count codes).map swing
  let stays := (chunks count held).map fun l => l.any id
  (List.zip swings (List.zip stays acquire)).foldl
    (GainRun.step (d.rd .rcAgcTarget [p]) (d.rd .rcMuAcq [p]) (d.rd .rcMuTrk [p])) g

/-- R204, R206: gain and clips of a spot after some samples. -/
def Dev.gainEnd (d : Dev) (p s gain clips : Nat) : Dev :=
  ((d.updSpot p s fun q => { q with gain := gain }).wrS .rcGain [p, s] (gainTenths gain)).inc .rcClips [p, s] clips

/-- R204, R206: gain and clips over the samples of spot s that its run gives before rail bit x, between blocks. -/
def Dev.betweenBlocks (d : Dev) (p s : Nat) (runs : List SpotRun) (x : Int) : Dev :=
  match runs.find? fun r => r.spot == s with
  | none => d
  | some r =>
    let n := (d.runIndex p r x).toNat
    let l := r.x.take n
    if l = [] then d
    else
      let held := d.heldAt p s (((d.place p).map Mark.band).getD 0) (x - n) n
      let acquire := (List.range (n / 64)).map fun _ => false
      let g := d.gainOver p (l.map adcCode) held acquire { gain := (d.spotS p s).gain }
      d.gainEnd p s g.gain (clipCount l)

/-- R204, R206: gain and clips of a spot over the samples of a row, from the 7 before its first bit to the 7 past its last;
`again` for a re-read of the ladder (R284). -/
def Dev.gainRow (d : Dev) (p s row : Nat) (again : Bool) (x : List Int) : GainRun × Nat :=
  let spans := rowSpans row
  let place := rowPlace spans
  let n := if x.length ≤ 14 then 0 else min place.2 (x.length - 14)
  let at_ := fun (i : Nat) => streamOf spans ((place.1 + i : Nat) : Int)
  let acquire := (List.range (n / 64)).map fun i =>
    decide (at_ (64 * i) < (if again then framePos 2 else 640 : Nat))
  (d.gainOver p (((x.drop 7).take n).map adcCode) (d.heldAt p s (rowBand row) place.1 n) acquire
      { gain := (d.spotS p s).gain }, clipCount ((x.drop 7).take n))

/-- R202: the spots enabled, with samples, that the present pass has not taken yet, and of which `keep` holds. -/
def Dev.idleSpots (d : Dev) (p : Nat) (runs : List SpotRun) (keep : Nat → Bool) : List Nat :=
  (runs.map SpotRun.spot).eraseDups.filter fun s => d.spotOn p s && keep s && !(d.pkS p).passSpots.contains s

/-- R202: the enabled spots whose detectors do not run in the pass are sampled too: gain, clips, and shifts of D that wait.
`skip` names the others. -/
def Dev.sampleOthers (d : Dev) (p row : Nat) (runs : List SpotRun) (skip : Nat → Bool) : Dev :=
  let first : Int := (rowPlace (rowSpans row)).1
  (d.idleSpots p runs (!skip ·)).foldl (fun (d : Dev) s =>
    let d := d.betweenBlocks p s runs first
    let g := d.gainRow p s row false (d.samplesAt p s runs (first - 7))
    let d := (d.gainEnd p s g.1.gain g.2).applyShift p s
    d.updPk p fun k => { k with passSpots := s :: k.passSpots }) d

/-- R204 to R206, R210, R212 to R216: FIR with 2h + 1 taps, and on a data spot the canceller, of spot s of lane k over a row, with
the settings of `again` for a re-read of the ladder (R284): z for each rail bit, and what the pass leaves. -/
def Dev.equalise (d : Dev) (p s row h : Nat) (again : Bool) (start : Taps) (x inner outer : List Int) :
    List Int × PassEnd :=
  let spans := rowSpans row
  let place := rowPlace spans
  let first := place.1
  let n := if x.length ≤ 14 then 0 else min place.2 (x.length - 14)
  let held := d.heldAt p s (rowBand row) first n
  let gaps := covered (windowsNear (rowBand row) first (first + n : Nat)) first n
  let at_ := fun (i : Nat) => streamOf spans ((first + i : Nat) : Int)
  let less := (List.range n).map fun i =>
    if again && decide (960 ≤ at_ i ∧ at_ i < framePos 16) then d.rd .rvL1MuDelta else 0
  let own := x.map adcCode
  let cfg : TapCfg := { scale := d.rd .rcFirScale [p], adapt := d.on .rcFirAdapt [p], mu := d.rd .rcFirMu [p],
                        iti := decide (h = 7) && d.on .rcItiEn [p], itiMu := d.rd .rcItiMu [p], kt := d.rd .rcKt [p] }
  let q := d.spotS p s
  let run := tapPass (Config.tentativeTie d.freeTick) cfg
    { taps := start.fine, timing := { acc := q.timing, since := q.sinceStep } }
    (tapInputs h (List.zip held (List.zip (gaps.map (!·)) less)) (own.drop (7 - h)) inner outer)
  let gain := d.gainRow p s row again x
  (run.1, { taps := run.2.taps.whole, limit := run.2.limit, gain := gain.1.gain, agc := gain.1.atEnd,
            clips := gain.2, timing := run.2.timing })

/-- The detector over a pass (R219 to R221): levels and reliabilities of the data-period stream. -/
def Dev.detected (d : Dev) (p : Nat) (spans : List Span) (z : List Int) : List (Bool × Nat) :=
  outsideWindows (spans.headD (0, 0)).1 spans
    (detect (Config.detectorTie d.freeTick) (d.rd .rcFirScale [p]) 0 detStart z)

/-- A verify spot's pass over the block of lane k (R242), which decides levels without reliabilities. -/
def Dev.verifyPass (d : Dev) (p k row : Nat) (x : List Int) : LivePass × PassEnd :=
  let e := d.equalise p (k + 7) row 3 false { fir := d.firTaps p (k + 7) 3 } x [] []
  let spans := rowSpans row
  ({ levels := (d.detected p spans e.1).map Prod.fst, marks := d.passMarks p (k + 7) k spans }, e.2)

/-- The taps of a spot after a pass, while adaptation is on. -/
def Dev.tapsEnd (d : Dev) (p s : Nat) (verify : Bool) (taps : Taps) : Dev :=
  if !d.on .rcFirAdapt [p] then d
  else
    let d := d.setTaps .rcFirTap [p, s] (if verify then 4 else 0) taps.fir
    if verify ∨ !d.on .rcItiEn [p] then d
    else (d.setTaps .rcItiIn [p, s - 1] 0 taps.inn).setTaps .rcItiOut [p, s - 1] 0 taps.out

/-- The end of a pass of a spot over a row, whether or not a block was read: the taps while adaptation is on, the gain, the clips,
the deskew (R210, R211), and a tap limit met (R214). -/
def Dev.spotEnd (d : Dev) (p s : Nat) (verify : Bool) (e : PassEnd) : Dev :=
  let d := (d.tapsEnd p s verify e.taps).gainEnd p s e.gain e.clips
  let d := d.wrS .rcDeskew [p, s] (max (-2048) (min 2047 (d.rdS .rcDeskew [p, s] + e.timing.steps)))
  let d := (d.updSpot p s fun q => { q with timing := e.timing.acc, sinceStep := e.timing.since }).applyShift p s
  match e.limit with | some t => d.raisePk p s evTapLimit ([t.1] ++ leI 1 t.2) | none => d

/-- The end of a block that a spot read or verified on layer L: besides the pass's own end the taps saved per layer unless the
read is the ladder's (R215, R284), EYE (R244), and AGC_LIMIT (R249). -/
def Dev.passEnd (d : Dev) (p s L : Nat) (verify save : Bool) (e : PassEnd) : Dev :=
  let d := d.spotEnd p s verify e
  let d := if save then (List.range 15).foldl (fun d i =>
      d.wr .rcFirSaved [p, s, L, i] (d.rd .rcFirTap [p, s, i])) d else d
  let fr := d.fresh
  let d := fr.2.wr .rcEye [p, s] (eyeWidth fr.1 e.timing)
  match e.agc with | some g => d.raisePk p s evAgcLimit [g] | none => d

/-- The spots of a pass have been taken (R202). -/
def Dev.spotsTaken (d : Dev) (p : Nat) (l : List Nat) : Dev := d.updPk p fun k => { k with passSpots := l ++ k.passSpots }

/-- R239 with the settings of pickup p, before any ladder measure. -/
def Dev.decodePass (d : Dev) (p pba : Nat) (flyLimit : Bool) (x : LivePass) : Decoded :=
  decodeBlock { flagEn := d.rd .rcFlagEn [p], confCnt := d.rd .rcConfCnt [p], flyLimit := flyLimit } pba
    (channelBits false x.levels) x.marks (x.rel.map fun v => decide (v < d.rd .rcConfThr [p]))

/-- R268: one more check of a lane. -/
def Dev.sickCount (d : Dev) (p lane L : Nat) (failed : Bool) : Dev :=
  let q : Sick := tget {} (d.pkS p).sick lane
  let lim := d.rd .mdSickCnt
  let put := fun (d : Dev) (q : Sick) => d.updPk p fun k => { k with sick := tset k.sick lane q }
  if q.waiting.isSome then d
  else
    let recent := (failed :: q.recent).take 64
    let fails := (recent.filter id).length
    match q.sinceOpc with
    | none =>
      if failed ∧ lim ≤ fails then (put d { recent := [], sinceOpc := none, waiting := some L }).wantOpc p L
      else put d { q with recent := recent }
    | some n =>
      if failed ∧ lim ≤ fails then
        ((put d {}).wr .wrLaneDis [p, lane] 1).raisePk p 21 evLaneDisabled [lane + 1]
      else put d { q with recent := recent, sinceOpc := if n + 1 < 64 then some (n + 1) else none }

/-! ### The mordant check (R264 to R270) -/

/-- R264: 0 PASS, or the cause of the failure. -/
def Dev.mordantCause (d : Dev) (outcome maxCw total fly : Nat) : Nat :=
  if outcome ≠ 0 then min outcome 6
  else if d.rd .mdMaxfly < fly then 3
  else if d.rd .mdMaxcw < maxCw then 7
  else if d.rd .mdMaxtot < total then 8
  else 0

/-- The position that the log names for a block until it came to its final position, when it moved: where it first failed or was
to be written, else its lane of the row first allocated for its member (Table 12-4: MEMBER_ROW, R266, R395; log entry 26). -/
def Dev.movedFrom (d : Dev) (b : Blk) (pba : Nat) : Option Nat :=
  match b.failedAt.head? with
  | some a => some a
  | none =>
    match b.kind with
    | .raw => none
    | .catalogue => none
    | _ =>
      match (d.stripe? b.stripe).bind fun s => s.rows.getD b.member none with
      | some row => if row + 2 ^ 17 * b.lane = pba then none else some (row + 2 ^ 17 * b.lane)
      | none => none

/-- A copy passed (R297, R299): the map moves unless it no longer names the old position. -/
def Dev.passCopy (d : Dev) (p : Nat) (b : Blk) (old level pba : Nat) : Dev :=
  let stillNamed : Bool := match b.kind with
    | .take => match d.take? b.take with
      | some t =>
        let tb : TBlk := tget {} t.blocks b.offset
        !(t.gather.any fun g => g.block == b.offset) && tb.stripe == some b.stripe
          && (match tb.pba with | some a => d.resolve a == old | none => false)
      | none => false
    | _ => true
  let d := if stillNamed then
      let d := { d with moved := tset (b.failedAt.reverse.foldl (fun t a => tset t a pba) d.moved) old pba }
      let d := d.append1 0x0020
        (reallocBody old pba level b.flags (if b.kind = .raw then 0 else b.take) (if b.kind = .raw then 0 else b.offset))
      (d.inc .defectReallocFrom [p]).mapBlock b pba
    else d
  (d.dropBlk b.id).raisePk p 21 evReallocated
    (le 4 old ++ le 4 pba ++ [level] ++ [if stillNamed then 0 else 1])

/-- A block written by a command, or parity, passed: it is on the medium (R270), and its move is recorded (R266). -/
def Dev.passBlock (d : Dev) (b : Blk) (pba : Nat) : Dev :=
  let d := match d.movedFrom b pba with
    | none => d
    | some old =>
      let d := { d with moved := b.failedAt.reverse.foldl (fun t a => tset t a pba) d.moved }
      let seq := d.cat.nextSeq
      let d := d.append1 0x0020 (reallocBody old pba 0xFF b.flags (if b.kind = BlkKind.raw then 0 else b.take)
        (if b.kind = BlkKind.raw then 0 else b.offset))
      if b.kind = BlkKind.raw then
        { d with
          cmds := d.cmds.map fun (c : Cmd) => if c.waits.contains b.id ∧ c.op = 0x10 then { c with recs := [seq] } else c,
          cat := { d.cat with owed := d.cat.owed ++ b.writers.map fun w => (seq, w) } }
      else d
  let d := { d with cmds := d.cmds.map fun (c : Cmd) =>
    if c.waits.contains b.id ∧ c.op = 0x10 then { c with length := pba } else c }
  (d.mapBlock b pba).dropBlk b.id

/-- A block failed (R265, R267, R295, R70). -/
def Dev.failBlock (d : Dev) (p k : Nat) (b : Blk) (pba cause maxCw total fly : Nat) : Dev :=
  let d := d.updPk p fun x => { x with dead := x.dead ++ [pba], deadAll := x.deadAll ++ [pba] }
  let d := (d.inc .defectDead [p]).raiseFor (d.causedBy [b.id]) (32 * p + 21) evMordantFail
    (le 4 pba ++ [cause, maxCw] ++ le 2 total ++ [fly])
  if b.kind = .catalogue then (d.dropBlk b.id).catSettle p [k] (some k)
  else
    let fails := b.fails + 1
    let d := d.updBlk b.id fun x => { x with fails := fails, failedAt := x.failedAt ++ [pba], flags := x.flags ||| 2 }
    if fails < 1 + d.rd .mdRetry then
      match b.copyOf with
      | none => d.requeue p k b.id
      | some (old, _) =>
        -- it takes the next spare row of its queue (R295)
        let L := pbaLayer old
        (d.updPk p fun x => { x with realloc := tset x.realloc L { tget {} x.realloc L with
          queue := b.id :: (tget {} x.realloc L : Realloc).queue, due := true } }).countQueued p
    else
      let d := d.raiseFor (d.causedBy [b.id]) (32 * p + 21) evMordantExhausted (le 4 pba ++ le 4 fails)
      let d := d.updBlk b.id fun x => { x with exhausted := p :: x.exhausted }
      if b.copyOf.isSome then d.dropBlk b.id else d.expel b.id clsMedia detWriteExhausted detWriteExhausted

/-- R202, R213: the verify detectors run on every lane of a row written; those of lanes in which it has no block decode none. -/
def Dev.idleVerify (d : Dev) (p row : Nat) (runs : List SpotRun) (busy : Nat → Bool) : Dev :=
  let first : Int := (rowPlace (rowSpans row)).1
  let idle := d.idleSpots p runs fun s => decide (8 ≤ s ∧ s ≤ 14) && !busy s
  (idle.foldl (fun (d : Dev) s =>
    let d := d.betweenBlocks p s runs first
    d.spotEnd p s true (d.verifyPass p (s - 7) row (d.samplesAt p s runs (first - 7))).2) d).spotsTaken p idle

/-- The device in which the verify read of a written block of lane k ends: the taps of its layer, and what every spot that no block
of the pass verifies sampled (R202, R215). -/
def Dev.verifyStart (d : Dev) (p k : Nat) (e : VerifyDue) (runs : List SpotRun) : Dev :=
  let row := pbaRow e.pba
  let busy := fun (s : Nat) => s == k + 7 || (d.pkS p).verify.any fun v => v.lane + 7 == s && rowKey v.pba == rowKey e.pba
  let d := (d.loadTaps p (k + 7) (pbaLayer e.pba)).betweenBlocks p (k + 7) runs (rowPlace (rowSpans row)).1
  ((d.sampleOthers p row runs fun s => decide (8 ≤ s ∧ s ≤ 14)).idleVerify p row runs busy).spotsTaken p [k + 7]

/-- The verify read of a written block as it decodes (R242); RAIL where MTO p left lock during it (R240), or its channels do not
operate (R17). -/
def Dev.verifyDecode (d : Dev) (p k : Nat) (e : VerifyDue) (runs : List SpotRun) : Decoded × PassEnd :=
  let first : Int := (rowPlace (rowSpans (pbaRow e.pba))).1 - 7
  let pass := d.verifyPass p k (pbaRow e.pba) (d.samplesAt p (k + 7) runs first)
  let lost := e.lost || (d.stillVerifying p e && !d.channelRuns p)
  (if lost then { outcome := 1 } else d.decodePass p e.pba true pass.1, pass.2)

/-- MORDANT_CHECK, R240 to R243, R264 to R270, R297, R299, R70: the verify read of the oldest written block of lane k is
decoded from what its verify spot sampled, under the settings of its start (R248), and checked. -/
def execMordantCheck (p : Fin 32) (lane : Fin 7) (runs : List SpotRun) (s : State) : Host.Outcome State Fault Refusal :=
  serve s fun d =>
    let k := lane.val + 1
    match (d.pkS p).verify.find? fun e => e.lane == k with
    | none => d
    | some e =>
      let pba := e.pba
      let u := (d.asBegun e.old).verifyStart p k e runs
      let read := u.verifyDecode p k e runs
      let x := read.1
      let outcome := x.outcome
      let maxCw := x.maxCw
      let total := x.total
      let fly := x.fly
      let u := (u.dropsUsed p (k + 7) (rowSpans (pbaRow pba))).countWords p (k + 7) x.codewords
      let u := ((u.wr .rcSamMean [p, k + 7] 0).wr .rcSamSnr [p, k + 7] 0).wr .rcDcr [p, k + 7] 0
      let d := (u.passEnd p (k + 7) (pbaLayer pba) true true read.2).asNow d e.old
      let cause := d.mordantCause outcome maxCw total fly
      let d := d.updPk p fun x => { x with verify := x.verify.erase e }
      let d := (d.inc .mordChecked [p, lane]).wr .mordLastMaxCw [p, lane] maxCw
      let d := ((d.wr .mordLastTotal [p, lane] total).wr .mordLastFly [p, lane] fly).wr .mordLastCause [p, lane] cause
      let d := if cause = 0 then d else d.inc .mordFailed [p, lane]
      match d.blk? e.block with
      | none => d
      | some b =>
        let d := d.sickCount p lane (pbaLayer pba) (cause != 0)
        if cause ≠ 0 then d.failBlock p k b pba cause maxCw total fly
        else if b.kind = .catalogue then (d.dropBlk b.id).catSettle p [k] none
        else match b.copyOf with
          | some (old, level) => d.passCopy p b old level pba
          | none => d.passBlock b pba

/-- REALLOC_WAIT_EXPIRY, R295: the oldest copy in the queue of layer L has waited REALLOC_WAIT. -/
def execReallocWaitExpiry (p : Fin 32) (L : Fin 4) (s : State) : Host.Outcome State Fault Refusal :=
  act s fun d =>
    if (tget {} (d.pkS p).realloc L : Realloc).queue = [] then d
    else d.updPk p fun k => { k with realloc := tset k.realloc L { tget {} k.realloc L with due := true } }

/-! ### Optimum power calibration (R275 to R278) -/

/-- OPC_REQ: every layer of the pickup (Table 08-11). -/
def execOpcReq (p : Fin 32) (s : State) : Host.Outcome State Fault Refusal :=
  hostAct s fun d => (List.range 4).foldl (fun d L => d.wantOpc p L) d

/-- The next unused test band at the present end, or none. -/
def Dev.testBand (d : Dev) (p L : Nat) (outer : Bool) : Option Nat :=
  let b := if outer then d.rd .opcBandOut [p, L] else d.rd .opcBandIn [p, L]
  if outer then (if 18229 ≤ b ∧ b ≤ 18488 then some b else none)
  else if (d.opcS p L).innerUsed then none else if 65432 ≤ b then some b else none

/-- The test band is used. -/
def Dev.useBand (d : Dev) (p L : Nat) (outer : Bool) : Dev :=
  if outer then d.inc .opcBandOut [p, L]
  else if d.rd .opcBandIn [p, L] = 65535 then d.updOpc p L fun o => { o with innerUsed := true }
  else d.inc .opcBandIn [p, L]

/-- OPC_USE (Table 08-8). -/
def Dev.opcUse (d : Dev) (p L : Nat) (outer : Bool) (result band : Nat) (pk : List Nat) (h : Int) : Dev :=
  d.append1 0x0030 ([p, L, if outer then 1 else 0, result] ++ le 2 band ++ leI 2 (d.rdS .pkTemp [p])
    ++ ((List.range 7).flatMap fun i => le 2 (pk.getD i 0)) ++ leI 1 h ++ zeros 9)

/-- A list in rising order. -/
def insertSorted (x : Int) : List Int → List Int
  | [] => [x]
  | y :: r => if x ≤ y then x :: y :: r else y :: insertSorted x r

/-- R276 step 4: β of a sector in 10^−6, from the means of the highest and the lowest 1 % of its samples; the free value
`unstated` where the two are equal, for which the rule has no value. -/
def betaOf (unstated : Int) (samples : List Int) : Int :=
  let l := samples.foldr insertSorted []
  let n := max 1 (l.length / 100)
  let bot := (l.take n).foldl (· + ·) 0
  let top := (l.drop (l.length - n)).foldl (· + ·) 0
  if top = bot then unstated else roundDiv ((top + bot) * 1000000) (top - bot)

/-- R276 step 5: the interpolation between the two consecutive sectors whose β bracket the target, in µW. -/
def optimumPower (center : Nat) (target : Int) : Nat → List Int → Option Nat
  | i, a :: b :: rest =>
    if (a ≤ target ∧ target ≤ b) ∨ (b ≤ target ∧ target ≤ a) then
      let pa : Int := center * (70 + 6 * i)
      if a = b then some (roundDiv pa 100).toNat
      else some (roundDiv (pa * (b - a) + (center * 6 : Nat) * (target - a)) (100 * (b - a))).toNat
    else optimumPower center target (i + 1) (b :: rest)
  | _, _ => none

/-- EYE of a sector from its timing errors at transitions, in 2^−16 channel bit (R244). -/
def sectorEye (unstated : Nat) (errors : List Int) : Nat :=
  eyeWidth unstated { squares := (errors.map fun e => e.natAbs ^ 2).sum, transitions := errors.length }

/-- R276 step 6: the shift whose sectors give the highest sum of EYE over the lanes; the first of equal sums. -/
def bestShift (eye : List (List Nat)) : Int :=
  let sums := (List.range 5).map fun i => (eye.map fun l => l.getD i 0).foldl (· + ·) 0
  let best := sums.foldl max 0
  match sums.findIdx? (· == best) with
  | some i => (i : Int) - 2
  | none => 0

/-- R277: radius of the middle of zone z and of a test band, in 1/8 nm. -/
def zoneRadius (z : Nat) : Int := 184000000 + 17500000 * (2 * (z : Int) + 1)
def testRadius (band : Nat) : Int := bandRadius band 1536

/-- R277, R278: every zone's powers and shift from the results, one end serving for both when the other has none. -/
def Dev.fillSets (d : Dev) (p L : Nat) (inn out : List Nat × Int × Nat) (single : Bool) : Dev :=
  let ri := testRadius inn.2.2
  let ro := testRadius out.2.2
  (List.range 8).foldl (fun d z =>
    let rz := zoneRadius z
    let blend := fun (a b : Int) => if single then a else a + roundDiv ((b - a) * (rz - ri)) (ro - ri)
    let d := (List.range 7).foldl (fun d i =>
      d.wr .wsPwr [p, L, z, i] (blend (inn.1.getD i 0) (out.1.getD i 0)).toNat) d
    let h := blend inn.2.1 out.2.1
    let clamp := fun (v : Int) => max (-16) (min 15 v)
    let d := (List.range 4).foldl (fun d m =>
      (d.wrS .wsDttop0 [p, L, z, m] (clamp (d.rdS .baseDttop0 [p, L, m] + h))).wrS .wsDttop1 [p, L, z, m]
        (clamp (d.rdS .baseDttop1 [p, L, m] + h))) d
    let d := (List.range 3).foldl (fun d m =>
      (d.wr .wsTtop [p, L, z, m] (d.rd .baseTtop [p, L, m])).wr .wsTlp [p, L, z, m] (d.rd .baseTlp [p, L, m])) d
    let d := (List.range 4).foldl (fun d m => d.wr .wsTcl [p, L, z, m] (d.rd .baseTcl [p, L, m])) d
    (d.wr .wsTmp [p, L, z] (d.rd .baseTmp [p, L])).wr .wsValid [p, L, z] 1) d

/-- The sick-lane counts that waited for an OPC of layer L start afresh (R268). -/
def Dev.afterOpc (d : Dev) (p L : Nat) : Dev :=
  d.updPk p fun k => { k with sick := k.sick.map fun (e : Nat × Sick) =>
    if (some L == e.2.waiting) then (e.1, { recent := [], sinceOpc := some 0, waiting := none }) else e }

/-- R277, R278: the run is over. -/
def Dev.opcEnd (d : Dev) (p L : Nat) : Dev :=
  let o := d.opcS p L
  -- R573: a MEDIA_LOAD brings about the runs that it waits for
  let post := fun (d : Dev) (code : Nat) (b : Bytes) =>
    d.raiseFor ((d.cmds.filter fun c => c.op == 0x18).map Cmd.origin) (32 * p + 21) code b
  let pks := fun (x : Option (List Nat × Int × Nat)) =>
    (List.range 7).flatMap fun i => le 2 ((x.map fun y => y.1.getD i 0).getD 0)
  let done := [L] ++ pks o.inner ++ pks o.outerResult
  let d := d.updOpc p L fun x => { pending := x.pending, innerUsed := x.innerUsed, temp := some (d.rdS .pkTemp [p]) }
  let d := d.afterOpc p L
  match o.inner, o.outerResult with
  | some a, some b =>
    post (((d.fillSets p L a b false).wrS .opcTempLast [p, L] (d.rdS .pkTemp [p])).wr .opcStatus [p, L] 2) evOpcDone done
  | some a, none =>
    post (post (((d.fillSets p L a a true).wrS .opcTempLast [p, L] (d.rdS .pkTemp [p])).wr .opcStatus [p, L] 3)
      evOpcEndExhausted [L, 1]) evOpcDone done
  | none, some b =>
    post (post (((d.fillSets p L b b true).wrS .opcTempLast [p, L] (d.rdS .pkTemp [p])).wr .opcStatus [p, L] 3)
      evOpcEndExhausted [L, 0]) evOpcDone done
  | none, none =>
    let d := post d evOpcFail [L, if o.noBand then 3 else o.cause]
    let d := (List.range 8).foldl (fun d z => d.wr .wsValid [p, L, z] 0) d
    if o.noBand then post (d.wr .opcStatus [p, L] 5) evLayerWriteClosed [L] else d.wr .opcStatus [p, L] 4

/-- The present end has its result, or none: the outer end follows the inner one, and the run ends after it. An end
whose test area has no unused band yields none. -/
def Dev.nextEnd (d : Dev) (p L : Nat) : Dev :=
  let o := d.opcS p L
  if o.outer then d.opcEnd p L
  else
    let d := d.updOpc p L fun x => { x with outer := true, tried := 0 }
    if (d.testBand p L true).isSome then d
    else (d.updOpc p L fun x => { x with noBand := true }).opcEnd p L

/-- What every write and all test writing asks for throughout, and the speed it starts at (Table 08-2, R276). -/
def Dev.mayTest (d : Dev) (p : Nat) : Bool := (d.rowCause p).isNone && d.on .spAtspeed [spindleOf p]

/-- The next test band: the run writes there once nothing forbids it. -/
def Dev.beginBand (d : Dev) (p L : Nat) : Dev :=
  if (d.opcS p L).running then d.updOpc p L fun x => { x with void := false, begun := d.mayTest p } else d

/-- R276 step 3: sectors 0 to 10 of a test band, at 0.70 to 1.30 of PCENTER, to the nearest µW. -/
def Dev.sweepSectors (d : Dev) (p L : Nat) : List (List Nat × Int) :=
  (List.range 11).map fun i =>
    (List.replicate 7 (roundDiv ((d.rd .opcPcenter [p, L] : Int) * (70 + 6 * (i : Int))) 100).toNat, 0)

/-- R276 step 6: the write powers Pk go to the pickup, and sectors 11 to 15 are written with the five shifts. -/
def Dev.shiftBand (d : Dev) (p L band : Nat) (powers : List Nat) : Dev :=
  let d := (List.range 7).foldl (fun (d : Dev) i =>
    (d.wr .pkWritePwr [p, i] (powers.getD i 0)).settingWrite p (0x21 + i) (powers.getD i 0)) d
  d.emit (.testBand p L band ((List.range 5).map fun i => (powers, (i : Int) - 2)))

/-- OPC_START, R275, R276, R94, R199: a pending OPC starts on a quiet pickup whose bus works and whose spindle runs, at a
MEDIA_LOAD once its sled is homed; an end without an unused band yields no result. -/
def execOpcStart (p : Fin 32) (L : Fin 4) (s : State) : Host.Outcome State Fault Refusal :=
  serve s fun d =>
    let k := d.pkS p
    if !(d.opcS p L).pending ∨ k.rows ≠ [] ∨ k.opc.any (fun e => e.2.running) ∨ !d.surfaceOk p ∨ d.pickupTaken p
        ∨ d.cmds.any (fun (c : Cmd) => c.homing.contains p.val) ∨ d.on .pkFail [p] ∨ !k.busOk
        ∨ d.spSt (spindleOf p) ≠ spRun then d
    else
      let d := (d.updOpc p L fun o => { running := true, innerUsed := o.innerUsed, temp := o.temp }).wr .opcStatus [p, L] 1
      if (d.testBand p L false).isSome then d.beginBand p L
      else ((d.updOpc p L fun o => { o with noBand := true }).nextEnd p L).beginBand p L

/-- OPC_BAND_DONE, R276 to R278: the present test band of the run ends. A band that shows marks is not written. While a condition
for writing fails from before the band on, the run waits, and nothing is written; a cause met since the band began, or one that
holds now, voids the band, of which a free number of the first sectors has been written. -/
def execOpcBandDone (p : Fin 32) (L : Fin 4) (marked : Bool) (samples errors : List (List (List Int)))
    (s : State) : Host.Outcome State Fault Refusal :=
  serve s fun d =>
    let o := d.opcS p L
    if !o.running ∨ (!marked ∧ !o.begun ∧ !d.mayTest p) then d
    else match d.testBand p L o.outer with
      | none => d
      | some band =>
        let fr := d.fresh
        let d := fr.2
        let next := fun (d : Dev) => (d.nextEnd p L).beginBand p L
        let more := fun (d : Dev) =>
          if (d.testBand p L o.outer).isSome then d.beginBand p L
          else next (d.updOpc p L fun x => { x with noBand := true })
        if marked then more ((d.useBand p L o.outer).opcUse p L o.outer 2 band [] 0)
        else
          let center := d.rd .opcPcenter [p, L]
          let target := 1000 * d.rdS .opcBetaTgt [p]
          let pks := (List.range 7).map fun i =>
            optimumPower center target 0 (((samples.getD i []).take 11).map (betaOf (ofTwos 32 fr.1)))
          let powers := pks.map fun x => x.getD 0
          let void : Bool := o.void || !d.mayTest p
          let cause := if void then some 2 else if pks.any Option.isNone then some 0
            else if powers.any (fun x => decide (x < 4000 ∨ 20000 < x)) then some 1 else none
          let sweep := d.sweepSectors p L
          let d := d.emit (.testBand p L band (if void then sweep.take (fr.1 % 12) else sweep))
          let used := d.useBand p L o.outer
          match cause with
          | some c =>
            let d := used.opcUse p L o.outer 1 band [] 0
            let d := d.updOpc p L fun x => { x with cause := c, tried := x.tried + 1 }
            if 3 ≤ o.tried + 1 then next d else more d
          | none =>
            let h := bestShift ((errors.take 7).map fun l => l.map (sectorEye fr.1))
            let d := (used.shiftBand p L band powers).opcUse p L o.outer 0 band powers h
            let d := d.updOpc p L fun x =>
              if o.outer then { x with outerResult := some (powers, h, band) } else { x with inner := some (powers, h, band) }
            next d

end Sys2Proof.Machine
end

