-- ==== Sys2Proof/Machine/EventsThermal.lean ====
section
/-! DEFINITION. Events and interrupts, and the thermal logic (chapter 15). -/

namespace Sys2Proof.Machine

/-! ### Event entries (R479 to R487) -/

/-- The 32 bytes of an entry at index i (Table 15-2): a head, or the continuation that carries payload bytes 12 to 35. -/
def Dev.eventEntry (d : Dev) (q s i : Nat) (x : Src) (cont : Bool) : Bytes :=
  let phase := (i / 2 ^ d.rd .eqSize [q] + 1) % 2
  let flags := phase + (if cont then 2 else 0) + (if x.ovf then 4 else 0)
  let head := le 2 s ++ le 2 x.seq ++ le 2 x.code ++ [flags, x.payload.length]
  if cont then head ++ slice x.payload 12 4 ++ slice x.payload 16 8 ++ slice x.payload 24 12
  else head ++ le 4 x.pending ++ le 8 x.time ++ slice x.payload 0 12

/-- R486: the message of a vector, at once or at the end of its hold-off interval. -/
def Dev.message (d : Dev) (v : Nat) : Dev :=
  let w : VecState := tget {} d.vec v
  let free : Bool := match w.last with
    | none => true
    | some t => decide (t + usTicks (d.rd .evHoldoff) ≤ d.time) || d.rd .evHoldoff == 0
  if free then { (d.interrupt v) with vec := tset d.vec v { last := some d.time, owed := false } }
  else { d with vec := tset d.vec v { w with owed := true } }

/-- An armed trace whose trigger is the posting of this source takes it (Table 04-8). -/
def Dev.traceEvent (d : Dev) (s : Nat) : Dev :=
  { d with trace := d.trace.map fun (e : Nat × Trace) =>
      if d.rd .trState [e.1] = trArmed ∧ d.rd .trKind [e.1] = 3 ∧ d.rd .trEvsrc [e.1] = s
      then (e.1, { e.2 with armedHit := some 3 }) else e }

/-- R479, R480, R484, R487: the pending occurrences of source s become one entry of its ring, with a continuation, written
first, for a payload above 12 bytes. -/
def postEntry (s : Nat) (x : Src) (d : Dev) : Dev :=
  let q := x.ring
  let n := x.entries
  let i := (d.eqS q).posted
  let base := d.rd64 .eqBaseLo .eqBaseHi [q]
  let addr := fun (i : Nat) => base + 32 * (i % 2 ^ d.rd .eqSize [q])
  let d := if n = 2 then d.emit (.hostWrite (addr (i + 1)) (d.eventEntry q s (i + 1) x true) false) else d
  let d := d.emit (.hostWrite (addr i) (d.eventEntry q s i x false) false)
  let d := d.updEq q fun e => { e with posted := (e.posted + n) % 2 ^ 32 }
  (d.traceEvent s).message (x.vector.getD s)

/-- R487: a posting moves COUNT from PENDING to POSTED in one step; SEQ numbers head entries (R481). -/
def Src.post (x : Src) : Src :=
  { x with posted := (x.posted + x.pending) % 2 ^ 32, pending := 0, seq := (x.seq + 1) % 65536, ovf := false }

/-- EVENT_POST, R482, R484: a source with occurrences pending, not masked, whose ring is enabled and has room. -/
def execEventPost (src : Fin 2048) (s : State) : Host.Outcome State Fault Refusal :=
  let x : Src := tget {} s.ev src
  let n := x.entries
  if x.pending = 0 ∨ x.mask ∨ !s.dev.on .eqEn [x.ring] ∨ !s.dev.ready ∨ !s.dev.eqRoom x.ring n then .next s
  else
    let s := { s with ev := tset s.ev src x.post }
    act s (postEntry src x)

/-- HOLDOFF_EXPIRY, R486: one message for the entries of the interval. -/
def execHoldoffExpiry (v : Fin 2048) (s : State) : Host.Outcome State Fault Refusal :=
  act s fun d =>
    let w : VecState := tget {} d.vec v
    if w.owed then { (d.interrupt v) with vec := tset d.vec v { last := some d.time, owed := false } } else d

/-- ROUTE_WRITE, R482, R483: RING bits [5:0], VECTOR bits [26:16], MASK bit 31. -/
def execRouteWrite (src : Fin 2048) (value : Nat) (s : State) : Host.Outcome State Fault Refusal :=
  if !s.dev.ready then .next s
  else
    let x : Src := tget {} s.ev src
    let x := { x with ring := value % 64, vector := some (value / 2 ^ 16 % 2 ^ 11), mask := value.testBit 31 }
    .next { s with ev := tset s.ev src x }

/-! ### The throttle (R493 to R498) -/

/-- A trigger is present (R494). -/
def Dev.triggered (d : Dev) : Bool := !d.thermal.rising.isEmpty || !d.thermal.hot.isEmpty

/-- Every die sensor is at or below JHOT − 5.0 °C. -/
def Dev.dieCool (d : Dev) : Bool :=
  (List.range 8).all fun i => decide (d.rdS .thDie [i] ≤ 16 * (d.rd .thJhot : Int) - 80)

/-- The cause of a trigger: 0 die rate, 1 pickup rate, 2 ambient rate, 3 junction. -/
def Dev.triggerCause (d : Dev) : Nat :=
  if d.thermal.rising.any fun i => decide (i < 8) then 0
  else if d.thermal.rising.any fun i => decide (8 ≤ i ∧ i < 40) then 1
  else if d.thermal.rising.any fun i => decide (40 ≤ i) then 2
  else 3

/-- The sensors have been compared: a trigger in NORMAL requests the throttle (Table 15-7), with B0 the ingress rate of
the second before, in MB/s (R495). -/
def Dev.throttle (d : Dev) : Dev :=
  if d.triggered then
    let d := d.updTh fun t => { t with clearSince := none }
    if d.rd .thThrState ≠ thNormal then d
    else
      let bytes := (d.share.arrivals.filter fun a => decide (d.time < a.1 + secTicks 1)).foldl (fun n a => n + a.2) 0
      let d := (d.wr .thThrState [] thRequested).wr .thThrB0 [] (bytes / 1000000)
      (d.updTh fun t => { t with requested := d.time }).raise 0x6E8 evThrottleRequest
        (le 2 (d.rd .thThrFrac) ++ [d.triggerCause])
  else d.updTh fun t => { t with clearSince := if d.dieCool then some (t.clearSince.getD d.time) else none }

/-- GRACE_EXPIRY, R495, R497: GRACE has passed in REQUESTED without the throttle clearing. -/
def execGraceExpiry (s : State) : Host.Outcome State Fault Refusal :=
  act s fun d =>
    if d.rd .thThrState ≠ thRequested then d
    else
      let d := (d.wr .thThrState [] thEnforced).wr .thThrF [] (d.rd .thThrFrac)
      d.updTh fun t => { t with enforced := d.time }

/-- THROTTLE_STEP, R496: a STEP_S in ENFORCED ends with a trigger present (Table 15-8): F is halved, down to THR.MIN. -/
def execThrottleStep (s : State) : Host.Outcome State Fault Refusal :=
  act s fun d =>
    if d.rd .thThrState ≠ thEnforced ∨ !d.triggered then d
    else
      let f := max (d.rd .thThrMin) (d.rd .thThrF / 2)
      (d.wr .thThrF [] f).raise 0x6E8 evThrottleRequest (le 2 f ++ [d.triggerCause])

/-- THROTTLE_RELEASE, R494, R497: CLEAR_S has passed with no trigger and every die sensor cool enough. -/
def execThrottleRelease (s : State) : Host.Outcome State Fault Refusal :=
  act s fun d =>
    if d.rd .thThrState = thNormal ∨ d.thermal.clearSince.isNone then d
    else
      let ms := if d.rd .thThrState = thEnforced then (d.time - d.thermal.enforced) / 100000 else 0
      let d := (d.wr .thThrState [] thNormal).wr .thThrF [] 256
      let d := if d.basin.fillHigh then d else { d with share := { d.share with inForce := false, allow := [] } }
      d.raise 0x6E8 evThrottleRelease (le 4 ms)

/-! ### Sensors (R24, R27, R488 to R493) -/

/-- DIE_SENSOR_READ, R24, R27, R490, R494, R499: the eight die sensors. A junction, which is the highest of the eight, outside
−10 °C to 105 °C, or a VCORE below what the duties in use need at the new temperature, leaves the defined range. -/
def execDieSensorRead (temps : List Int) (s : State) : Host.Outcome State Fault Refusal :=
  if temps.length ≠ 8 then .next s
  else if junction temps < -160 ∨ 1680 < junction temps then .fault .junctionRange
  else
    let set := fun (d : Dev) => temps.zipIdx.foldl (fun d e => d.wrS .thDie [e.2] e.1) d
    if (set s.dev).boot.vcore < (set s.dev).vcoreNeeded then .fault .vcoreTooLow
    else act s fun d =>
      let d := set d
      let limit : Int := 16 * d.rd .thJhot
      let hot := (List.range 8).filter fun i => decide (limit < d.rdS .thDie [i])
      let d := (hot.filter fun i => !d.thermal.hot.contains i).foldl
        (fun d i => d.raise (0x6E0 + i) evJunctionHot (leI 2 (d.rdS .thDie [i]))) d
      let d := d.updTh fun t => { t with hot := hot }
      let d := (List.range 32).foldl (fun d p => d.newReading p 2) d
      d.throttle

/-- Terms of ln x = 2 artanh z, in units of 2^−48, with z the quotient scaled by 2^48. -/
def artanhSum (z2 : Int) : Nat → Int → Int → Int
  | 0, _, _ => 0
  | n + 1, term, k => floorDiv term k + artanhSum z2 n (floorDiv (term * z2) (2 ^ 48)) (k + 2)

/-- Double the smaller of two numbers until their quotient lies in 1 to 2, counting the doublings. -/
def normLog : Nat → Nat → Nat → Int → Nat × Nat × Int
  | 0, a, b, k => (a, b, k)
  | n + 1, a, b, k => if a < b then normLog n (2 * a) b (k - 1) else if 2 * b ≤ a then normLog n a (2 * b) (k + 1) else (a, b, k)

/-- ln(a ÷ b) in units of 2^−48, for positive a and b. -/
def lnRatio (a b : Nat) : Int :=
  let r := normLog 64 a b 0
  let z := floorDiv (((r.1 : Int) - r.2.1) * 2 ^ 48) ((r.1 + r.2.1 : Nat) : Int)
  2 * artanhSum (floorDiv (z * z) (2 ^ 48)) 24 z 1 + r.2.2 * 195103586505167

/-- R488: the temperature of a thermistor in 1/16 °C, rounded to the nearest; a resistance below the formula's range
reads as the highest value. -/
def ambientTemp (r r25 b : Nat) : Int :=
  if r = 0 ∨ r25 = 0 then 32767
  else
    let den : Int := 100 * b * 2 ^ 48 + 29815 * lnRatio r r25
    if den ≤ 0 then 32767
    else max (-32768) (min 32767 (roundDiv (160 * 29815 * b * 2 ^ 48 - 43704 * den) (10 * den)))

/-- AMBIENT_READ, R488, R490: the conversion, the AMB fault, and the write windows of the spindle's two pickups. -/
def execAmbientRead (n : Fin 16) (resistance : Nat) (s : State) : Host.Outcome State Fault Refusal :=
  act s fun d =>
    let t := ambientTemp resistance (d.rd .thR25 [n]) (d.rd .thB [n])
    let d := d.wrS .thAmb [n] t
    let bad := decide (t < -640 ∨ 2400 < t)
    let was := d.thermal.ambFault.contains n.val
    let d := d.updTh fun x => { x with
      ambFault := (x.ambFault.filter fun i => i != n.val) ++ if bad then [n.val] else [] }
    let d := if bad && !was then d.raise (0x6F0 + n) evAmbFault (le 4 resistance) else d
    (d.newReading (2 * n) 1).newReading (2 * n + 1) 1

/-- Window in samples of 100 ms, source and units of sensor i's rate (Table 15-6): 0 to 7 die, 8 to 39 pickup, 40 to 55
ambient. -/
def rateWindow (i : Nat) : Nat := if i < 8 then 10 else if i < 40 then 40 else 100
def rateSource (i : Nat) : Nat := if i < 8 then 0x6E0 + i else if i < 40 then 32 * (i - 8) + 23 else 0x6F0 + (i - 40)

/-- The present reading of sensor i. -/
def Dev.sensor (d : Dev) (i : Nat) : Int :=
  if i < 8 then d.rdS .thDie [i] else if i < 40 then d.rdS .pkTemp [i - 8] else d.rdS .thAmb [i - 40]

/-- The sensor has a rate: not excluded, not in fault, its pickup present. -/
def Dev.hasRate (d : Dev) (i : Nat) : Bool :=
  if i < 8 then true
  else if i < 40 then
    let w : Window := tget {} d.thermal.windows (i - 8)
    d.on .pkPresent [i - 8] && !w.alarm
  else d.on .thAmbEn [i - 40] && !d.thermal.ambFault.contains (i - 40)

/-- RATE_CHECK, R493, R499: every 100 ms each sensor's reading joins its history, and its rate over its window is compared
with the limit: each limit is a rise of 2.0 °C over the window. -/
def execRateCheck (s : State) : Host.Outcome State Fault Refusal :=
  act s fun d =>
    let old := d.thermal.rising
    let rise := fun (d : Dev) (i : Nat) =>
      let h := tget [] d.thermal.history i
      match h[rateWindow i - 1]? with
      | some x => if d.hasRate i then some (d.sensor i - x) else none
      | none => none
    let now := (List.range 56).filter fun i => match rise d i with | some x => decide (32 < x) | none => false
    let d := (now.filter fun i => !old.contains i).foldl (fun d i =>
      d.raise (rateSource i) evRiseLimit (leI 4 (roundDiv (((rise d i).getD 0) * 1000) (16 * (rateWindow i : Int))))) d
    let history := (List.range 56).map fun i => (i, ((d.sensor i) :: tget [] d.thermal.history i).take (rateWindow i))
    let d := d.updTh fun t => { t with rising := now, history := history }
    d.throttle

/-- WRITE_RELEASE, R491, R492: every reading has stayed inside its reopening band for REOPEN. -/
def execWriteRelease (p : Fin 32) (s : State) : Host.Outcome State Fault Refusal :=
  act s fun d =>
    let w : Window := tget {} d.thermal.windows p
    if !d.on .thHold [p] ∨ w.inside.isNone then d
    else
      let d := (d.wr .thHold [p] 0).updTh fun t => { t with windows := tset t.windows p { alarm := w.alarm } }
      let d := if w.expired then d.setUnavailable p unThermal false else d
      d.raisePk p 23 evWriteRelease (le 4 ((d.time - w.since) / 100000))

/-- HOLDMAX_EXPIRY, R492, R331: the surface becomes unavailable; its held take and parity blocks are placed on other
surfaces of the group, and its raw blocks leave with THERMAL_HOLD. -/
def execHoldmaxExpiry (p : Fin 32) (s : State) : Host.Outcome State Fault Refusal :=
  serve s fun d =>
    let w : Window := tget {} d.thermal.windows p
    if !d.on .thHold [p] ∨ w.expired then d
    else
      let d := d.updTh fun t => { t with windows := tset t.windows p { w with expired := true } }
      let d := d.setUnavailable p unThermal true
      let held := (d.pkS p).queues.flatten
      let d := { d with cmds := d.cmds.map fun (c : Cmd) =>
        if c.op = 0x01 ∧ c.waits.any (fun i => held.contains i) then { c with thermal := true } else c }
      d.evacuate p clsThermal detWriteExhausted 2 true

end Sys2Proof.Machine
end

