-- ==== Sys2Proof/Machine/Firmware.lean ====
section
/-! DEFINITION. Firmware loading and attestation (chapter 17, R519, R525, R526, R534). -/

namespace Sys2Proof.Machine

/-- The body of an image: IMAGE_LEN bytes after the 4 KiB header (Table 17-2). -/
def imageBody (image : Bytes) : Bytes := slice image 4096 (imageLen image)

/-- R519: the image checks against the keys in force: its header is valid and its body has the digest it names. -/
def Dev.imageOk (d : Dev) (image : Bytes) : Bool :=
  headerCheck d.custkey image == 0 && bodyOk image (imageBody image)

/-- R525: the slot that the running image was not booted from; slot A in recovery. -/
def Dev.targetSlot (d : Dev) : Nat := if d.rd .scSlot = 0 then 1 else 0

/-- An FW_LOAD that starts: refused while another runs (R526), or when the image fails its check; else FW_VERIFIED (R535),
and `k` goes on. -/
def Dev.fwLoad (d : Dev) (o : Origin) (addr len : Nat) (image : Bytes) (k : Dev → Dev) : Dev :=
  if d.boot.fwLoad.isSome then d.refuse o clsResource detBusy
  else
    let d := d.emit (.hostRead addr len true)
    if !d.imageOk image then d.refuse o clsDevice detSignature
    else k (d.raiseFor [o] secSrc evFwVerified (le 4 (headerSeq image) ++ [headerKey image]))

/-- VERIFY, R519, R526, R535: FW_LOAD with ACTION 1 changes nothing. -/
def execVerify (r : Fin 256) (cookie addr len : Nat) (image : Bytes) (s : State) : Host.Outcome State Fault Refusal :=
  descriptor r { origin := .ring r 0, op := 0x31, cookie := cookie, addr := addr, length := len, arg := 1 } s fun d o =>
    d.fwLoad o addr len image fun d => d.finish o clsOk 0

/-- R525 steps 1 and 2: the target's header sector is erased first, then the body's part of the slot; FLASH_WP_n is high
(R547). The body is written meanwhile, and the header last: both are out when FW_PROGRAM_END comes. -/
def Dev.programStart (d : Dev) (o : Origin) (image : Bytes) : Dev :=
  let d := (d.updCmd o fun c => { c with phase := .running }).updPins fun p => { p with flashWpHigh := true }
  let d := (d.emit (.flashErase (slotBase d.targetSlot) 4096)).emit (.flashErase (slotBase d.targetSlot + 4096) (imageLen image))
  d.updBoot fun b => { b with fwLoad := some (o, d.targetSlot, image) }

/-- PROGRAM, R525, R526, R547: FW_LOAD with ACTION 2 starts to write the target slot. A reserved ACTION is a case of
Table 20-2. -/
def execProgram (r : Fin 256) (cookie action addr len : Nat) (image : Bytes) (s : State) :
    Host.Outcome State Fault Refusal :=
  if s.dev.canStart r ∧ action ≠ 1 ∧ action ≠ 2 then .fault .fwAction
  else descriptor r { origin := .ring r 0, op := 0x31, cookie := cookie, addr := addr, length := len, arg := action } s
    fun d o => d.fwLoad o addr len image fun d => if action = 1 then d.finish o clsOk 0 else d.programStart o image

/-- Flash offset of the first byte read back that differs from the image. -/
def firstMismatch (slot : Nat) (image back : Bytes) : Option Nat :=
  ((List.zip image (slice back 0 image.length)).findIdx? fun e => e.1 != e.2).map (slotBase slot + ·)

/-- FW_PROGRAM_END, R525 steps 2 to 5, R526: body and header have been written, and the slot reads back as given. A slot
that fails R519 although every byte is as written has no first mismatch, and the offset is a free value (log entry 135). -/
def execFwProgramEnd (back : Bytes) (s : State) : Host.Outcome State Fault Refusal :=
  serve s fun d =>
    match d.boot.fwLoad with
    | none => d
    | some (o, slot, image) =>
      let d := (d.emit (.flash (slotBase slot + 4096) (imageBody image))).emit (.flash (slotBase slot) (slice image 0 4096))
      let d := (d.updBoot fun b => { b with fwLoad := none }).updPins fun p => { p with flashWpHigh := false }
      if d.imageOk back then
        (d.raiseFor [o] secSrc evFwProgrammed ([slot] ++ le 4 (headerSeq back))).finish o clsOk 0
      else
        let at_ : Nat × Dev := match firstMismatch slot image back with | some a => (a, d) | none => d.fresh
        (at_.2.raiseFor [o] secSrc evFwProgramFail ([slot] ++ le 4 at_.1)).finish o clsDevice detInternal

/-! ### Attestation (R534) -/

/-- REGS_DIGEST: every RW field of BAR0 as it reads at one edge. -/
def Dev.regsDigest (d : Dev) (ev : Tab Src) : Bytes :=
  sha256 ((List.range 2097152).flatMap fun i => le 4 (d.rwWord ev (4 * i)))

/-- Bytes 0 to 191 of Table 17-6. -/
def Dev.attestBody (d : Dev) (ev : Tab Src) (nonce : Bytes) : Bytes :=
  let recovery := decide (d.rd .glBoot = bootRecovery)
  let fw := if recovery then zeros 32 else (List.range 8).flatMap fun w => le 4 (d.rd .scFwDigest [w])
  let key := if recovery then 0xFF else d.rd .scKey
  [0x51, 0x41, 0x52, 0x01] ++ le 2 256 ++ le 2 (d.rd .glDevnum) ++ le 8 d.time ++ slice nonce 0 32 ++ fw
    ++ [key, if recovery then 0xFF else d.rd .scSlot] ++ le 2 (d.rd .glPace)
    ++ le 4 (if recovery then 0 else d.rd .scSequence)
    ++ (if key = 1 then (List.range 8).flatMap fun w => le 4 (d.rd .scKeyhash [w]) else zeros 32)
    ++ d.regsDigest ev ++ le 8 (d.rd64 .scSerialLo .scSerialHi []) ++ zeros 32

/-- ATTEST, R534: the signed report goes to the buffer. -/
def execAttest (r : Fin 256) (cookie : Nat) (nonce : Bytes) (buf len : Nat) (s : State) : Host.Outcome State Fault Refusal :=
  descriptor r { origin := .ring r 0, op := 0x30, cookie := cookie, addr := buf, len := len, bytes := nonce } s fun d o =>
    let b := d.attestBody s.ev nonce
    { d with freeTick := d.freeTick + 1 }.report o clsOk 0 (b ++ identitySign d.freeTick b)

end Sys2Proof.Machine
end

