-- ==== Sys2Proof/Machine/Recovery.lean ====
section
/-! DEFINITION. Reads of blocks: results at level 0, the recovery ladder, reallocation and stripe reconstruction
(chapters 07 and 09), with deskew, dropouts and the scout. -/

namespace Sys2Proof.Machine

/-! ### Commands that read a block -/

/-- One command takes a block that passed (R292, R406, R391, R404): a block of a take counts only when its user bytes
match its UCRC. -/
def Dev.serveRead (pba : Nat) (header data : Bytes) (level : Nat) (realloc : Bool) (d : Dev) (o : Origin) : Dev :=
  match d.cmd o with
  | none => d
  | some c =>
    let mine := c.needs.filter fun n => n.1 == pba
    let d := d.updCmd o fun x => { x with needs := x.needs.filter fun n => n.1 != pba,
                                          level := max x.level level, realloc := x.realloc || realloc }
    if c.op = 0x11 then
      let d := d.emit (.hostWrite c.addr data true)
      let d := if c.arg.testBit 1 then d.emit (.hostWrite c.addr2 (slice header 0 128) true) else d
      let st := match d.cmd o with | some x => x.readStatus | none => (clsOk, 0)
      (d.dropOwner (.delivery o)).finish o st.1 st.2 (pba + 2 ^ 32 * level)
    else
      mine.foldl (fun d n =>
        match d.take? c.take with
        | none => d
        | some t =>
          let tb : TBlk := tget {} t.blocks n.2
          if tget tb.ucrc c.sums n.2 ≠ crc32c data then d.updCmd o fun x => x.fail (65536 * n.2) (detOutcome 5)
          else if c.op = 0x01 then
            -- a version that has come into the basin since stays the block's present content (R391)
            if tb.held.isSome ∨ tb.pba.map d.resolve ≠ some pba then d
            else d.updTake c.take fun t => { t with blocks := tset t.blocks n.2 { tb with held := some data } }
          else if c.op = 0x09 then
            d.updTake c.take fun t => { t with leaves := tset t.leaves n.2 (leafHash t.length n.2 data) }
          else d.deliver o n.2 data) d

/-! ### Passes over a row (R202, R209, R215 to R218) -/

/-- A spot's deskew is valid (R209); S0 is the reference of the others. -/
def Dev.deskewOk (d : Dev) (p s : Nat) : Bool := s == 0 || d.rd .rcDeskewStatus [p, s] == 2

/-- R17, R80, R161, R202, R209: lane k may be read: S0 and Sk are enabled, MTO p is locked at a rate at which the channels operate,
the sled follows, and Sk and every enabled neighbour that the canceller uses have a valid deskew. -/
def Dev.mayRead (d : Dev) (p k : Nat) : Bool :=
  d.spotOn p 0 && d.spotOn p k && d.on .pkMtoLock [p] && d.channelRuns p && d.slSt p == slFollow && d.deskewOk p k
    && (!d.on .rcItiEn [p] || [k - 1, k + 1].all fun s => 7 < s || !d.spotOn p s || d.deskewOk p s)

/-- The pass that lane k of a row belongs to, begun when it reads another row, the same lane again, or is a re-read: the
dropouts that have ended on data spots since the last one are those of this pass. -/
def Dev.beginPass (d : Dev) (pba : Nat) (again : Bool) : Dev :=
  let p := pbaSurface pba
  let k := pbaLane pba
  let pk := d.pkS p
  let row := some (rowKey pba)
  let same := !again && pk.passRow == row && !pk.passLanes.contains k
  let d := d.updPk p fun x => { x with
    passRow := row, passLanes := k :: (if same then pk.passLanes else []),
    passSpots := if same then pk.passSpots else [] }
  let first := (rowPlace (rowSpans (pbaRow pba))).1
  (List.range 8).foldl (fun (d : Dev) s => d.updSpot p s fun q => { q with
    seen := ((if same ∨ (!again ∧ pk.passRow ≠ row) then q.seen else []) ++ q.drops).filter fun (e : Nat × Nat) =>
      decide (first ≤ e.2), drops := [] }) d

/-- The record of a read that the marks of the rail have seen begin. -/
def Dev.readBegun (d : Dev) (pba : Nat) : Option ReadDue := (d.pkS (pbaSurface pba)).reading.find? fun r => r.pba == pba

/-- R203, R248: the settings and the equaliser at the start of a read that no mark of the rail has seen begin. -/
def Dev.lateStart (d : Dev) (pba : Nat) : Dev :=
  let p := pbaSurface pba
  if (d.readBegun pba).isSome then d
  else (d.applyRc p (fun s => s == pbaLane pba) (d.sinceStart p (rowKey pba))).setEqualiser p (pbaRow pba)

/-- R203, R215, R248: the start of the read of a block on its lane. -/
def Dev.startBlock (d : Dev) (pba : Nat) : Dev :=
  ((d.lateStart pba).beginPass pba false).loadTaps (pbaSurface pba) (pbaLane pba) (pbaLayer pba)

/-- R202, R240, R248: S0 comes to another row: the reads of that row that can be made begin, with the settings written by then;
those of rows before the last one are over. -/
def Dev.rowBegins (d : Dev) (p : Nat) : Dev :=
  let now := d.rowUnder p
  if now = (d.pkS p).rowBegun then d
  else
    let again := (d.ladder.filter fun e =>
      e.rereading && !e.waiting && !e.seekFirst && pbaSurface e.pba == p && now == some (rowKey e.pba)).map Ladder.pba
    let starts := if (d.rowNow p).isSome then [] else (d.readingRow p 0 ++ again).filter fun a => d.mayRead p (pbaLane a)
    let d := match starts with
      | [] => d
      | a :: _ => (d.applyRc p (fun s => starts.any fun a => pbaLane a == s) fun _ => false).setEqualiser p (pbaRow a)
    d.updPk p fun k => { k with
      rowBegun := now,
      reading := (k.reading.filter fun r => now == some (rowKey r.pba + 1)) ++ starts.map fun a => { pba := a } }

/-- R218: the samples of neighbour spot s that the canceller takes, from one rail bit before the block to one after. -/
def Dev.neighbour (d : Dev) (p s row : Nat) (x : List Int) : List Int :=
  if !d.spotOn p s || !d.deskewOk p s then []
  else
    let place := rowPlace (rowSpans row)
    let mute := covered (windowsNear (rowBand row) place.1 (place.1 + place.2 : Nat) ++ d.presentFlags p s s 0)
      ((place.1 : Int) - 1) (place.2 + 2)
    List.zipWith (fun m v => if m then 0 else adcCode v) mute (x.drop 6)

/-- R217, R218: the rail of the next band on the same span: ±64 codes, or its target at level 5 (R288), 0 in wedge
windows. -/
def outerRailSamples (L row scale : Nat) (target : Bool) : List Int :=
  let spans := rowSpans row
  let place := rowPlace spans
  let b := rowBand row
  let base := 12 * railBase b
  let mute := covered (windowsNear b place.1 (place.1 + place.2 : Nat)) ((place.1 : Int) - 1) (place.2 + 2)
  mute.zipIdx.map fun (e : Bool × Nat) =>
    let x := place.1 + e.2 - 1
    let mark := fun i => outerRail L b base (x - i)
    if e.1 then 0
    else if target then targetOf scale (mark 0) (mark 1) (mark 2) (mark 3) / 512
    else if mark 0 then -64 else 64

/-- R288: the recorded levels of lane k of a row, when it is known: what it passed with, or blank. -/
def Dev.knownLevels (d : Dev) (p L k row : Nat) : Option (List Bool) :=
  let pba := pbaOf p L k row
  match tfind (d.pkS p).known pba with
  | some (some bytes) => some (nrzi false (blockBits bytes))
  | some none => some (List.replicate blockLength false)
  | none =>
    let unrecorded := match tfind (d.pkS p).occupied (2 ^ 17 * L + row) with
      | some lanes => !lanes.isEmpty && !lanes.contains k
      | none => d.neverAllocated pba
    if unrecorded then some (List.replicate blockLength false) else none

/-- R288: the samples of neighbour lane k at level 5: the targets of a known lane's levels, measured samples elsewhere. -/
def Dev.neighbourFive (d : Dev) (p L k row : Nat) (x : List Int) : List Int :=
  match if 1 ≤ k then d.knownLevels p L k row else none with
  | none => d.neighbour p k row x
  | some levels =>
    let spans := rowSpans row
    let measured := d.neighbour p k row x
    measured.getD 0 0 :: alongRail (rowPlace spans).1 spans (targetsOf (d.rd .rcFirScale [p]) false false false levels)
      ++ [measured.getD ((rowPlace spans).2 + 1) 0]

/-- FIR and canceller of lane k over a row, with its neighbours as they were sampled, or at level 5 as they are known (R216 to
R218, R288). -/
def Dev.lanePass (d : Dev) (p L k row : Nat) (again fifth : Bool) (start : Taps) (runs : List SpotRun) :
    List Int × PassEnd :=
  let first : Int := (rowPlace (rowSpans row)).1 - 7
  let x := fun (s : Nat) => d.samplesAt p s runs first
  let side := fun (s : Nat) => if fifth then d.neighbourFive p L s row (x s) else d.neighbour p s row (x s)
  let outer := if k = 7 then outerRailSamples L row (d.rd .rcFirScale [p]) fifth else side (k + 1)
  d.equalise p k row 7 again start (x k) (side (k - 1)) outer

/-- A pass of the data spot of a block's lane: level-0 reads from the present taps, re-reads of the ladder from those of the
level-0 read (R284), and at level 5 with known neighbours (R288). -/
def Dev.livePass (d : Dev) (pba : Nat) (again fifth : Bool) (start : Taps) (r : SpotRead) : LivePass × PassEnd :=
  let p := pbaSurface pba
  let k := pbaLane pba
  let spans := rowSpans (pbaRow pba)
  let e := d.lanePass p (pbaLayer pba) k (pbaRow pba) again fifth start r.runs
  let l := d.detected p spans e.1
  ({ levels := l.map Prod.fst, rel := l.map Prod.snd, marks := d.passMarks p k k spans }, e.2)

/-- A block of the row that a command of its own ends in this revolution: at level 0, or as a re-read of the ladder. -/
def Dev.laneRead (d : Dev) (pba : Nat) : Bool :=
  d.mayRead (pbaSurface pba) (pbaLane pba) && (match d.ladder.find? fun e => e.pba == pba with
    | some e => e.rereading && !e.waiting && !e.seekFirst
    | none => d.neededNow pba || d.railWait.any fun w => w.pba == pba)

/-- R202, R210, R213, R216: while a lane of the pickup is read, every other enabled spot is sampled, and every data spot, its
deskew valid or not, passes through FIR and canceller, where gain, taps and deskew follow. `done` are the lanes of the pass. -/
def Dev.otherLanes (d : Dev) (pba : Nat) (done : List Nat) (runs : List SpotRun) : Dev :=
  let p := pbaSurface pba
  let L := pbaLayer pba
  let row := pbaRow pba
  let first : Int := (rowPlace (rowSpans row)).1
  let idle := d.idleSpots p runs fun s =>
    decide (1 ≤ s ∧ s ≤ 7) && !done.contains s && !d.laneRead (pbaOf p L s row)
  let d := idle.foldl (fun (d : Dev) s => d.betweenBlocks p s runs first) d
  let ends := idle.map fun s => (s, (d.lanePass p L s row false false (d.laneTaps p s) runs).2)
  let d := d.sampleOthers p row runs fun s => decide (1 ≤ s ∧ s ≤ 7)
  (ends.foldl (fun (d : Dev) e => d.spotEnd p e.1 false e.2) d).spotsTaken p idle

/-- R288: a position of a row is known, with its recorded data bytes or blank. What is known of other rows is kept while one
of their blocks is on the ladder. -/
def Dev.noteKnown (d : Dev) (pba : Nat) (v : Option Bytes) : Dev :=
  let p := pbaSurface pba
  let keep := fun (a : Nat) => rowKey a == rowKey pba
    || d.ladder.any fun e => pbaSurface e.pba == p && rowKey e.pba == rowKey a
  d.updPk p fun k => { k with known := tset (k.known.filter fun e => keep e.1) pba v }

/-! ### Read records (R283) -/

/-- The record of a re-read (R283). -/
def Dev.recordOf (d : Dev) (p k : Nat) (x : LivePass) (spans : List Span) (r : SpotRead) : ReadRec :=
  let codes := (d.samplesAt p k r.runs ((rowPlace spans).1 - 7)).map adcCode
  let env := outsideWindows (spans.headD (0, 0)).1 spans (envelopes (codes.take 7).reverse (codes.drop 7))
  { levels := x.levels, rel := x.rel.map (fun v => min 7 (v / 8)), flags := x.marks,
    env := (env.zipIdx.filter fun e => e.2 % 32 == 31).map Prod.fst, ref := r.ref,
    scouts := if (d.rd .rcFlagEn [p]).testBit 1 then d.scoutExtents p k else [] }

/-- R287: one channel bit of a combination: the level and reliability of the records' levels and reliabilities, newest
first. -/
def combineBit (l : List (Bool × Nat)) : Bool × Nat :=
  let v : Int := l.foldl (fun a e => a + levelOf e.1 * e.2) 0
  (if v = 0 then (l.headD (false, 0)).1 else decide (v < 0), min 63 (8 * v.natAbs / max 1 l.length))

/-- R287: the combination of records, newest first. -/
def combineRecords (rs : List ReadRec) : List (Bool × Nat) :=
  (List.range blockLength).map fun i => combineBit (rs.map fun r => (r.levels.getD i false, r.rel.getD i 0))

/-- R285: where a record's envelope lies below a level of `thr` ÷ 256 of its reference, in the data-period stream. -/
def envelopeDrops (thr : Nat) (r : ReadRec) : List Extent :=
  (List.zip r.env r.ref).zipIdx.filterMap fun e =>
    if 256 * e.1.1 < e.1.2 * thr then some ((32 * (e.2 : Int)), (32 * (e.2 : Int) + 31)) else none

/-- R285: the dropout and scout flags of records at the widened margins, a flag set in any record being set (R287). -/
def Dev.widenedMarks (d : Dev) (p : Nat) (spans : List Span) (rs : List ReadRec) : List Bool :=
  let en := d.rd .rcFlagEn [p]
  let w := d.rd .rvL2Widen
  let drops := if en.testBit 0 then rs.flatMap (envelopeDrops (d.rd .rvL2DropThr)) else []
  let wide := List.zipWith (· || ·)
    (flagBits [(0, blockLength)] blockLength (w * d.rd .rcDropMargin [p]) drops)
    (flagBits spans blockLength (w * d.rd .rcScoutMargin [p]) (rs.flatMap ReadRec.scouts))
  rs.foldl (fun m r => List.zipWith (· || ·) m r.flags) wide

/-- R284 to R288: what the present level of a ladder makes of its block. Level 1 decodes the re-read; level 2 the latest
record with widened flags; level 3 re-anchors its frames; levels 4 and 5 decode the combination. -/
def Dev.ladderDecode (d : Dev) (e : Ladder) : Decoded :=
  let p := pbaSurface e.pba
  if e.level ≤ 1 then d.decodePass p e.pba true e.live
  else
    let rs := if e.level ≤ 3 then e.records.take 1 else e.records.take (d.rd .rvSoftRevs)
    let bits := if e.level ≤ 3 then rs.flatMap fun r => List.zip r.levels (r.rel.map fun q => 8 * q + 4)
      else combineRecords rs
    let thr := d.rd .rcConfThr [p] + d.rd .rvL2ConfAdd
    decodeBlock { flagEn := d.rd .rcFlagEn [p], confCnt := d.rd .rcConfCnt [p],
                  reanchor := if e.level ≤ 2 then none else some (d.rd .rvL3Viol), flyLimit := decide (e.level < 3) }
      e.pba (channelBits false (bits.map Prod.fst)) (d.widenedMarks p (rowSpans (pbaRow e.pba)) rs)
      (bits.map fun b => decide (b.2 < thr))

/-! ### Leaving the ladder (R293 to R296) -/

/-- Where a block was first recorded: moves are followed back (R265, R296); the first argument bounds their number. Of the
positions that a block left for one place the first stands in front (Dev.passBlock). -/
def origin (moved : Tab Nat) : Nat → Nat → Nat
  | 0, a => a
  | n + 1, a => match moved.find? fun e => e.2 == a && e.1 != a with
    | some e => origin moved n e.1
    | none => a

/-- R294 to R296: a recovered block is queued for reallocation on its own surface, unless that surface is missing (log entry
128). On a surface whose lanes are all disabled it leaves the queue at once (R295). -/
def Dev.queueCopy (d : Dev) (pba level : Nat) (header data : Bytes) : Dev × Bool :=
  let p := pbaSurface pba
  let L := pbaLayer pba
  if (level < 6 ∧ level < d.rd .rvReallocLevel) ∨ catalogPba pba ∨ (d.pkS p).sparesOut ∨ (d.copyHeld pba).isSome
      ∨ !d.reachable p then (d, false)
  else
    let id := d.nextBlk
    let rebuilt := decide (level = 6)
    let base : Blk := { id := id, kind := .raw, data := slice data 0 65536, surface := p, lane := pbaLane pba,
                        flags := if rebuilt then 5 else header.getD 3 0 ||| 1, copyOf := some (pba, level),
                        header := if rebuilt then [] else header,
                        orig := some (if rebuilt then origin d.moved (d.moved.length + 1) pba else ofLe (slice header 8 4)) }
    let b : Blk := match d.stripeOf pba with
      | some (s, key) =>
        let dd := geometryD s.geometry
        let j := key / 7
        { base with kind := if j < dd then .take else .parity, take := s.take, stripe := s.id, member := j,
                    lane := key % 7 + 1, offset := 7 * dd * s.range + (if j < dd then key else 0) }
      | none => base
    let q : Realloc := tget {} (d.pkS p).realloc L
    let q' : Realloc := { q with queue := q.queue ++ [id], since := if q.queue = [] then d.time else q.since }
    let d := (d.addBlk b).updPk p fun k => { k with realloc := tset k.realloc L q' }
    let d := (d.countQueued p).needUnits (.copy id) 1
    (if (List.range 7).all fun i => d.on .wrLaneDis [p, i] then d.dropCopies p L else d, true)

/-- A block passed at a level: counted, reported, queued for reallocation, and taken by all that reads it. A ladder that nothing
needs any more posts nothing (R300). -/
def Dev.recovered (d : Dev) (pba level : Nat) (header data : Bytes) : Dev :=
  let p := pbaSurface pba
  let os := d.readers pba
  let needed := d.stillNeeded pba
  let d := ((d.leaveLadder pba).gatherMember pba (some (header ++ data))).noteScrub pba true false
  let d := if !needed then d
    else (d.inc .recovOk [p, level - 1]).raiseFor os (32 * p + pbaLane pba) evBlockRecovered (le 4 pba ++ [level])
  let c := d.queueCopy pba level header data
  (os.foldl (fun d o => Dev.serveRead pba header data level c.2 d o) c.1).noteKnown pba (some (header ++ data))

/-! ### Climbing (R279 to R291) -/

/-- R284: a block whose header named another place was read in another band than that of its row, by the last band field
of S0 with valid parity before the row. -/
def wrongBand (pba outcome : Nat) (fields : List Nat) : Bool :=
  outcome == 6 && (match fields.findSome? bandField with | some b => b != rowBand (pbaRow pba) | none => false)

/-- R280: a block that cannot be read for want of the rail goes to level 6 where it is available, or fails. One that nothing needs
any more is let go (R300). -/
def Dev.railLost (d : Dev) (pba : Nat) : Dev :=
  let d := { d with railWait := d.railWait.filter fun w => w.pba != pba }
  if !d.stillNeeded pba then d
  else if d.levelSix pba ∧ 6 ≤ d.rd .rvMaxlevel ∧ (d.readers pba ≠ [] ∨ d.scrubWants.contains pba) then d.enter pba 6 1 {} false
  else d.unrecovered pba 0 detRail

/-- R280: a level-0 read has failed with outcome RAIL: it is repeated after the next lock, up to RAIL_RETRY times. -/
def Dev.railFailed (d : Dev) (pba : Nat) : Dev :=
  match d.railWait.find? fun w => w.pba == pba with
  | none =>
    if d.rd .rvRailRetry = 0 then d.railLost pba
    else { d with railWait := d.railWait ++ [{ pba := pba, repeats := 0 }] }
  | some w =>
    if d.rd .rvRailRetry ≤ w.repeats + 1 then d.railLost pba
    else
      let up := fun (x : RailWait) => if x.pba = pba then { x with repeats := x.repeats + 1 } else x
      { d with railWait := d.railWait.map up }

/-- The blocks of the row under S0 whose read has begun and goes on, at level 0. -/
def Dev.beingRead (d : Dev) (p : Nat) : List Nat :=
  let now := d.rowUnder p
  ((d.pkS p).reading.map ReadDue.pba).filter fun a =>
    now == some (rowKey a) && d.mayRead p (pbaLane a) && (d.readsNow p).contains a && !(d.ladder.any fun e => e.pba == a)

/-- R240: MTO p leaves lock: every block that is being read fails with outcome RAIL; those of the row that has passed complete
their decode (R241). -/
def Dev.railReads (d : Dev) (p : Nat) : Dev :=
  let now := d.rowUnder p
  let gone := d.beingRead p
  let d := (d.holdReads p).updPk p fun k => { k with rowBegun := none, reading := k.reading.filter fun r => now != some (rowKey r.pba) }
  gone.foldl (fun (d : Dev) a => (d.countBlock a { outcome := 1 }).railFailed a) d

/-- The device in which the read of a block ends: its start, the samples of its spot since the last block, and what the other
spots sampled (R202, R203, R215, R248). -/
def Dev.readStart (d : Dev) (pba : Nat) (read : SpotRead) : Dev :=
  let p := pbaSurface pba
  let first : Int := (rowPlace (rowSpans (pbaRow pba))).1
  let d := (d.startBlock pba).updPk p fun q => { q with
    readOut := q.readOut.filter (· != pba), reading := q.reading.filter fun r => r.pba != pba }
  (d.betweenBlocks p (pbaLane pba) read.runs first).otherLanes pba [pbaLane pba] read.runs

/-- BLOCK_DECODED, R202 to R241, R244 to R247, R279 to R281, R291: a block that something needs is decoded at level 0 from what
its spot read. -/
def execBlockDecoded (pba : Nat) (read : SpotRead) (s : State) : Host.Outcome State Fault Refusal :=
  serve s fun d =>
    let p := pbaSurface pba
    let k := pbaLane pba
    if (!d.neededNow pba ∧ !d.railWait.any fun w => w.pba == pba) ∨ d.ladder.any (fun e => e.pba == pba) ∨ k = 0
        ∨ (!d.mayRead p k ∧ !(d.pkS p).readOut.contains pba) then d
    else
      let old := ((d.readBegun pba).map ReadDue.old).getD []
      let u := (d.asBegun old).readStart pba read
      let start := u.laneTaps p k
      let pass := u.livePass pba false false start read
      let live := pass.1
      let x : Decoded := u.decodePass p pba true live
      let out := x.outcome
      let header := x.header
      let data := x.user
      let u := (u.countWords p k x.codewords).qualityFigures p k live.rel
      let d := ((u.passEnd p k (pbaLayer pba) false true pass.2).countBlock pba x).asNow d old
      let d := { d with railWait := d.railWait.filter fun w => w.pba != pba }
      if out = 0 then
        let d := d.noteKnown pba (some x.data)
        let d := (d.gatherMember pba (some x.data)).noteScrub pba (decide (d.rd .svWeakCw < x.maxCw)) false
        let d := d.emit (.portData 3 pba x.data)
        (d.readers pba).foldl (fun d o => Dev.serveRead pba header data 0 false d o) d
      else
        let d := if out = 2 then d.noteKnown pba none else d
        d.blankOrLadder pba out start (wrongBand pba out read.fields) x live

/-- RAIL_WAIT_EXPIRY, R280: MTO has stayed unlocked for RAIL_WAIT. -/
def execRailWaitExpiry (pba : Nat) (s : State) : Host.Outcome State Fault Refusal :=
  serve s fun d =>
    if d.railWait.any (fun w => w.pba == pba) && !d.on .pkMtoLock [pbaSurface pba] then d.railLost pba else d

/-- LADDER_PLACE_FREE, R290: the oldest block waiting that something still needs takes the place; those that nothing needs any more
leave (R300). -/
def execLadderPlaceFree (s : State) : Host.Outcome State Fault Refusal :=
  serve s fun d =>
    let gone := (d.ladder.filter fun e => e.waiting && !d.stillNeeded e.pba).map Ladder.pba
    let d := gone.foldl Dev.leaveLadder d
    match d.ladder.find? Ladder.waiting with
    | none => d
    | some e =>
      if d.rd .rvMaxActive ≤ d.rd .rvActive then d
      else
        let go := fun (x : Ladder) => if x.pba = e.pba then { x with waiting := false } else x
        ({ (d.inc .rvActive []) with ladder := d.ladder.map go }).reserve (pbaSurface e.pba)

/-- Bytes of a read record (R283): level, reliability and flag for each of 920,640 channel bits, and the envelope once per
32. -/
def recordBytes : Nat := 920640 * 5 / 8 + 920640 / 32

/-- One block of a re-read row: its pass and its record join its ladder; the taps are not saved (R284). -/
def Dev.storeReread (keep : Nat) (reads : List (Nat × SpotRead)) (d : Dev) (e : Ladder) : Dev :=
  let p := pbaSurface e.pba
  let k := pbaLane e.pba
  let r : SpotRead := tget {} reads e.pba
  let old := ((d.readBegun e.pba).map ReadDue.old).getD []
  let now := d
  let d := ((d.asBegun old).lateStart e.pba).loadTaps p k (pbaLayer e.pba)
  let d := d.updPk p fun q => { q with reading := q.reading.filter fun r => r.pba != e.pba }
  let d := d.betweenBlocks p k r.runs (rowPlace (rowSpans (pbaRow e.pba))).1
  let pass := d.livePass e.pba true (e.level == 5) e.start r
  let rec_ := d.recordOf p k pass.1 (rowSpans (pbaRow e.pba)) r
  let store := fun (x : Ladder) =>
    if x.pba = e.pba then { x with rereading := false, stepped := false, live := pass.1, records := (rec_ :: x.records).take keep } else x
  let d := ({ d with ladder := d.ladder.map store }).qualityFigures p k pass.1.rel
  (d.passEnd p k (pbaLayer e.pba) false false pass.2).asNow now old

/-- LADDER_REREAD_END, R282 to R284, R288: the re-read of a row ends; each block of the row that wants it gets a record. -/
def execLadderRereadEnd (pba : Nat) (reads : List (Nat × SpotRead)) (s : State) : Host.Outcome State Fault Refusal :=
  act s fun d =>
    let p := pbaSurface pba
    let same := fun (e : Ladder) => e.rereading && !e.waiting && pbaSurface e.pba == p
      && pbaLayer e.pba == pbaLayer pba && pbaRow e.pba == pbaRow pba
    let hit := d.ladder.filter same
    if !(hit.any fun e => e.pba == pba) ∨ !(hit.all fun e => d.mayRead p (pbaLane e.pba) && !e.seekFirst)
        ∨ (d.pkS p).rows ≠ [] then d
    else
      let keep := max 1 (d.rd .rvSoftRevs)
      -- R579: the records wait for their units
      let d := hit.foldl (fun (d : Dev) (e : Ladder) =>
        let lacks := unitsFor (recordBytes * min keep (e.records.length + 1)) - d.unitsOwned (.ladder e.pba)
        if lacks = 0 ∨ d.unitsWait (.ladder e.pba) then d else d.needUnits (.ladder e.pba) lacks) d
      if hit.any fun e => d.unitsWait (.ladder e.pba) then d
      else
        let d := ((d.inc .recovRevs [p]).setEqualiser p (pbaRow pba)).beginPass pba true
        let d := hit.foldl (Dev.storeReread keep reads) d
        d.otherLanes pba (hit.map fun e => pbaLane e.pba) (tget {} reads pba : SpotRead).runs

/-- R304: the first d members of a stripe that are not lost, data members first, with what they hold in lane place l. -/
def Dev.survivors (d : Dev) (e : Ladder) (s : Stripe) (l : Nat) : List (Nat × Bytes) :=
  let dd := geometryD s.geometry
  (((List.range (dd + geometryM s.geometry)).filter fun t => !d.memberLost e s l t).filterMap fun t =>
    (d.memberBytes e s l t).map fun b => (t, b)).take dd

/-- The header of a rebuilt block of a stripe (R296). -/
def Dev.rebuiltHeader (d : Dev) (s : Stripe) (key pba : Nat) : Bytes :=
  let dd := geometryD s.geometry
  let b : Blk := { id := 0, kind := if key / 7 < dd then .take else .parity, data := [], surface := pbaSurface pba,
                   lane := key % 7 + 1, take := s.take, stripe := s.id, member := key / 7, flags := 5,
                   orig := some (origin d.moved (d.moved.length + 1) pba),
                   offset := 7 * dd * s.range + (if key / 7 < dd then key else 0) }
  let rw : RowWrite := { layer := pbaLayer pba, row := pbaRow pba, kind := .spare, lanes := [], time := d.time,
                         epoch := d.cat.epoch, devnum := d.rd .glDevnum, zone := 0 }
  slice (d.headerOf b rw pba) 0 128

/-- R304, R305: level 6 of one lost member: its user bytes from the survivors, checked against the map's CRC. -/
def Dev.rebuild (s : Stripe) (key : Nat) (sv : List (Nat × Bytes)) : Option Bytes :=
  let dd := geometryD s.geometry
  if sv.length < dd then none
  else
    let data := rebuildMember dd (geometryM s.geometry) (key / 7) sv
    if crc32c data = s.ucrc.getD key 0 then some data else none

/-- A rebuilt or replaced block leaves level 6: it passed, or failed with STRIPE. -/
def Dev.sixEnds (d : Dev) (pba : Nat) (v : Option (Bytes × Bytes)) : Dev :=
  match v with
  | some (hdr, bytes) => if d.ladder.any fun x => x.pba == pba then d.recovered pba 6 hdr bytes else (d.queueCopy pba 6 hdr bytes).1
  | none => if d.ladder.any fun x => x.pba == pba then d.unrecovered pba 6 detStripe else d

/-- R304 to R306: level 6 of a block. All lost members of its lane are rebuilt together, or fail together; a catalogue block is
taken from another copy. -/
def Dev.levelSixEnd (d : Dev) (e : Ladder) : Dev :=
  match d.stripeOf e.pba with
  | some (s, key) =>
    let l := key % 7
    let sv := d.survivors e s l
    let lost := (List.range (geometryD s.geometry + geometryM s.geometry)).filter fun t => d.memberLost e s l t
    let todo := lost.filterMap fun t => (d.memberPba s l t).map fun a => (7 * t + l, a)
    todo.foldl (fun (d : Dev) (x : Nat × Nat) =>
      d.sixEnds x.2 ((Dev.rebuild s x.1 sv).map fun b => (d.rebuiltHeader s x.1 x.2, b))) d
  | none =>
    d.sixEnds e.pba ((e.gather.findSome? Prod.snd).map fun b => (slice b 0 128, slice b 128 65536))

/-- The level after one that failed, and whether it starts with a re-read; none when the block has failed its highest
available level (R281, R287). -/
def Dev.nextLevel (d : Dev) (e : Ladder) : Option (Nat × Bool) :=
  -- a read for level 6 of another block climbs to level 5 (R304, R306)
  let own := d.readers e.pba != [] || d.scrubWants.contains e.pba
  let top := min (if own then 6 else 5) (d.rd .rvMaxlevel)
  if e.level = 4 ∧ e.records.length < d.rd .rvSoftRevs then some (4, true)
  else
    let n := e.level + 1
    if top < n then none
    else if n = 6 then (if d.levelSix e.pba then some (6, false) else none)
    else some (n, n == 4 || n == 5)

/-- LADDER_LEVEL_DECODED, R281 to R288, R293, R300, R304 to R306: the decode of the present level completes; level 6 once every
survivor has been read. A ladder that nothing needs any more stops at the end of its level. -/
def execLadderLevelDecoded (pba : Nat) (s : State) : Host.Outcome State Fault Refusal :=
  serve s fun d =>
    match d.ladder.find? fun e => e.pba == pba && !e.waiting && !e.rereading with
    | none => d
    | some e =>
      if e.level = 6 then (if d.levelSixWants e = [] then d.levelSixEnd e else d)
      else
        let x := d.ladderDecode e
        let out := x.outcome
        let d := if e.level = 1 then d.countWords (pbaSurface pba) (pbaLane pba) x.codewords else d
        if out = 0 then d.recovered pba e.level x.header x.user
        else
          let over_ := d.nextLevel e
          let goesOn : Bool := match over_ with | some (n, _) => n == e.level | none => false
          if !d.stillNeeded pba ∧ !goesOn then d.leaveLadder pba
          else match over_ with
            | some (n, reread) =>
              let up := fun (x' : Ladder) =>
                if x'.pba = pba then { x' with level := n, rereading := reread, outcome := out, decoded := x } else x'
              ({ d with ladder := d.ladder.map up }).reserve (pbaSurface pba)
            | none =>
              let det := if e.level = 5 ∧ !d.hasParity pba ∧ !catalogPba pba then detNoStripe else detOutcome out
              d.unrecovered pba e.level det

/-! ### Deskew (R207 to R211) -/

/-- The mean of offsets in channel bits, in 1/64. -/
def meanOffset (l : List Int) : Int := roundDiv (64 * l.foldl (· + ·) 0) (l.length : Int)

/-- DESKEW_CHECK_END, R207, R208: verification over 16 wedges, by the marks found within ±8 channel bits, or full acquisition over
64, by those found within ±32 of the nominal offset, ends. -/
def execDeskewCheckEnd (p : Fin 32) (sp : Fin 16) (s : State) : Host.Outcome State Fault Refusal :=
  act s fun d =>
    let x := d.spotS p sp
    let inRange := fun (v : Int) => decide (-2048 ≤ v ∧ v ≤ 2047)
    match x.check with
    | 16 =>
      let l := x.found.filter fun o => decide (-8 ≤ o ∧ o ≤ 8)
      let v := d.rdS .rcDeskew [p, sp] + meanOffset l
      if 12 ≤ l.length ∧ inRange v then
        ((d.wrS .rcDeskew [p, sp] v).wr .rcDeskewStatus [p, sp] 2).updSpot p sp fun q => { q with check := 0, found := [] }
      else (d.wr .rcDeskewStatus [p, sp] 1).updSpot p sp fun q => { q with check := 64, found := [] }
    | 64 =>
      let l := x.found.filter fun o => decide (-32 ≤ o ∧ o ≤ 32)
      let v := meanOffset l
      let d := d.updSpot p sp fun q => { q with check := 0, found := [] }
      if 48 ≤ l.length ∧ inRange v then (d.wrS .rcDeskew [p, sp] v).wr .rcDeskewStatus [p, sp] 2
      else (d.wr .rcDeskewStatus [p, sp] 3).raisePk p sp evDeskewFail (le 4 l.length)
    | _ => d

/-- DESKEW_SHIFT, R211: the same nonzero offset of o channel bits in 16 consecutive wedges; D moves by 64 × o at the next
block boundary. -/
def execDeskewShift (p : Fin 32) (sp : Fin 16) (s : State) : Host.Outcome State Fault Refusal :=
  act s fun d =>
    let x := d.spotS p sp
    if x.offset = 0 ∨ x.offsetRun < 16 then d
    else
      let shift := x.shift + x.offset
      let v := max (-2048) (min 2047 (d.rdS .rcDeskew [p, sp] + 64 * shift))
      let d := d.updSpot p sp fun q => { q with shift := shift, offsetRun := 0 }
      d.raisePk p sp evDeskewShift (leI 4 x.offset ++ leI 2 v)

/-! ### Dropouts and the scout (R230 to R233) -/

/-- R230: E at each of the last samples, from the codes up to them, whose first 31 only fill the window. -/
def lastEnvelopes (codes : List Int) : List Nat := envelopes (codes.take 31).reverse (codes.drop 31)

/-- R230: E below Eref × DROP.THR ÷ 256, with Eref as a sum and a count. -/
def lowEnvelope (thr : Nat) (ref : Nat × Nat) (e : Nat) : Bool := decide (256 * ref.2 * e < ref.1 * thr)

/-- DROPOUT, R230: 8 consecutive samples with E below the level begin a dropout of a spot, and Eref freezes; gain, deskew and taps
hold (R205). -/
def execDropout (p : Fin 32) (sp : Fin 16) (start : Nat) (codes : List Int) (refs : List Nat) (s : State) :
    Host.Outcome State Fault Refusal :=
  act s fun d =>
    let ref := (refs.sum, max 1 refs.length)
    let l := lastEnvelopes codes
    if (d.spotS p sp).dropout.isSome ∨ l.length < 8 ∨ !l.all (lowEnvelope (d.rd .rcDropThr [p]) ref) then d
    else d.updSpot p sp fun q => { q with dropout := some start, dropRef := ref }

/-- DROPOUT_END, R230: 8 consecutive samples at or above the level end the open dropout, whose last sample is at `stop`. -/
def execDropoutEnd (p : Fin 32) (sp : Fin 16) (stop : Nat) (codes : List Int) (s : State) :
    Host.Outcome State Fault Refusal :=
  act s fun d =>
    let l := lastEnvelopes codes
    if l.length < 8 ∨ l.any (lowEnvelope (d.rd .rcDropThr [p]) (d.spotS p sp).dropRef) then d
    else d.updSpot p sp fun q => { q with
      dropout := none, drops := q.drops ++ (match q.dropout with | some a => [(a, stop)] | none => []) }

/-- R231: for each of the last samples, whether its level differs from the mean of the 4,096 before it by more than thr ÷ 256 of
that mean. -/
def scoutDiffers (thr : Nat) (levels : List Nat) : List Bool :=
  (List.range (levels.length - 4096)).map fun i =>
    let sum := ((levels.drop i).take 4096).sum
    decide (thr * sum < 256 * (4096 * (levels.getD (i + 4096) 0 : Int) - sum).natAbs)

/-- The scout's map holds the present and the previous revolution (R232). -/
def freshDefects (band : Nat) (l : List Defect) : List Defect :=
  l.filter fun x => decide (x.band ≤ band ∧ band ≤ x.band + 1)

/-- SCOUT_DEFECT, R80, R231, R232: the level of an enabled scout has differed for SCOUT.LEN samples: it declares a defect at a lane-4
rail position; a full map takes no further entry. -/
def execScoutDefect (p : Fin 32) (start : Nat) (levels : List Nat) (s : State) : Host.Outcome State Fault Refusal :=
  act s fun d =>
    let k := d.pkS p
    let len := d.rd .rcScoutLen [p]
    let l := scoutDiffers (d.rd .rcScoutThr [p]) (levels.drop (levels.length - (4096 + len)))
    if !d.spotOn p 15 ∨ k.scoutOpen.isSome ∨ l.length < len ∨ !l.all id then d
    else
      let band := (k.lastMark.map Mark.band).getD 0
      let map := freshDefects band k.scoutMap
      if 256 ≤ map.length then
        ((d.updPk p fun k => { k with scoutMap := map, scoutOpen := none }).wr .rcScoutCount [p] 256).raisePk p 22
          evScoutMapFull (le 4 band)
      else
        (d.updPk p fun k => { k with scoutMap := map ++ [{ band := band, start := start, stop := start, slope := 0 }],
                                     scoutOpen := some start }).wr .rcScoutCount [p] (map.length + 1)

/-- R232: the slope of a defect from a to b in band n, in 1/80 track: how far its centre lies from that of a defect of the
revolution before at the same angle, limited to −50 to +50 tracks; 0 for a defect seen for the first time. A position of
the band before is brought to this band's count of channel bits per revolution. -/
def slopeOf (win : Nat) (band : Nat) (a b : Nat) (map : List Defect) : Int :=
  if band = 0 then 0
  else
    let before := 12 * railBase (band - 1)
    let here := 12 * railBase band
    let same := fun (x : Nat) => roundDiv (((x : Int) - before) * railPeriods band) (railPeriods (band - 1))
    match map.find? fun (x : Defect) =>
        decide (x.band + 1 = band ∧ (a : Int) - here ≤ same x.stop + win ∧ same x.start ≤ (b : Int) - here + win) with
    | none => 0
    | some x => max (-4000) (min 4000 ((a : Int) + b - 2 * here - (same x.start + same x.stop)))

/-- SCOUT_DEFECT_END, R231, R232: SCOUT.LEN samples within the limit fix the extent and the slope of the open defect. -/
def execScoutDefectEnd (p : Fin 32) (stop : Nat) (levels : List Nat) (s : State) : Host.Outcome State Fault Refusal :=
  act s fun d =>
    let len := d.rd .rcScoutLen [p]
    let l := scoutDiffers (d.rd .rcScoutThr [p]) (levels.drop (levels.length - (4096 + len)))
    match (d.pkS p).scoutOpen with
    | none => d
    | some a =>
      if l.length < len ∨ l.any id then d
      else
        let band := (((d.pkS p).scoutMap.find? fun x => x.start == a).map Defect.band).getD 0
        let slope := slopeOf (d.rd .rcSlopeWin [p]) band a stop (d.pkS p).scoutMap
        let put := fun (x : Defect) =>
          if x.start = a ∧ x.stop = a then { x with stop := stop, slope := slope } else x
        d.updPk p fun k => { k with scoutOpen := none, scoutMap := k.scoutMap.map put }

end Sys2Proof.Machine
end

