-- ==== Sys2Proof/Machine/Axis.lean ====
section
/-! DEFINITION. The arithmetic of an axis (R109 to R115, R129): Q2.29 numbers as integers in steps of 2^−29, the input
scaling, six biquads, the PID with its clamped integrator, feed-forward and the output limit, in each of the states of
Table 04-5. A product is rounded to the nearest Q2.29 value, ties away from zero (log entry 51). -/

namespace Sys2Proof.Machine

/-- 1.0 in Q2.29. -/
def one29 : Int := 2 ^ 29
/-- The Q2.29 range. -/
def sat29 (v : Int) : Int := max (-(2 ^ 31)) (min (2 ^ 31 - 1) v)
/-- The Q4.58 range: −16.0 to 16.0 − 2^−58 as Q2.29 is −4.0 to 4.0 − 2^−29. -/
def sat58 (v : Int) : Int := max (-(2 ^ 62)) (min (2 ^ 62 - 1) v)
/-- A Q4.58 value as the nearest Q2.29 value. -/
def round29 (v : Int) : Int := sat29 (roundDiv v one29)
/-- A product of two Q2.29 numbers in Q2.29. -/
def mul29 (a b : Int) : Int := round29 (a * b)

/-- R111: x = (v − offset) × gain × 2^shift. -/
def scaleInput (v offset gain : Int) (shift : Nat) : Int := round29 ((v - offset) * gain * 2 ^ shift)

/-- The five coefficients of a biquad. -/
structure Biquad where
  b0 : Int
  b1 : Int
  b2 : Int
  a1 : Int
  a2 : Int
  deriving DecidableEq, Repr

/-- R112: one biquad over its two states: output and new states. -/
def Biquad.run (c : Biquad) (x s1 s2 : Int) : Int × Int × Int :=
  let y := round29 (c.b0 * x + s1)
  (y, sat58 (c.b1 * x - c.a1 * y + s2), sat58 (c.b2 * x - c.a2 * y))

/-- The cascade: outputs and new states of the biquads in order. -/
def cascade : List Biquad → List Int → List Int → Int → List Int × List Int × List Int
  | c :: cs, s1 :: t1, s2 :: t2, x =>
    let r := c.run x s1 s2
    let q := cascade cs t1 t2 r.1
    (r.1 :: q.1, r.2.1 :: q.2.1, r.2.2 :: q.2.2)
  | _, _, _, _ => ([], [], [])

/-- The bank in use for an axis (R118). -/
def Dev.bankOf (d : Dev) (ix : List Nat) : List Nat := ix ++ [d.rd .bankActive ix]

/-- Biquad i of an axis. -/
def Dev.biquad (d : Dev) (ix : List Nat) (i : Nat) : Biquad :=
  let b := d.bankOf ix ++ [i]
  ⟨d.rdS .cfB0 b, d.rdS .cfB1 b, d.rdS .cfB2 b, d.rdS .cfA1 b, d.rdS .cfA2 b⟩

/-- R113: the integrator after an update, and whether it is clamped. -/
def integrate (i ki x ilim : Int) : Int × Bool :=
  let t := i + round29 (ki * x)
  -- R120: a limit that has fallen below the integrator is taken first
  if ilim < i then (ilim, true) else if i < -ilim then (-ilim, true)
  else if ilim < t then (ilim, true) else if t < -ilim then (-ilim, true) else (t, false)

/-- What the PID gives: p, i, d, clamp. -/
structure Pid where
  p : Int
  i : Int
  d : Int
  clamp : Bool
  deriving DecidableEq, Repr

/-- The PID over x6, the integrator and x6_prev. -/
def pidRun (kp ki kd ilim i x xprev : Int) : Pid :=
  let r := integrate i ki x ilim
  ⟨mul29 kp x, r.1, mul29 kd (sat29 (x - xprev)), r.2⟩

/-- Q2.29 value of the feed-forward entry of wedge w. -/
def Dev.rro (d : Dev) (ix : List Nat) (w : Nat) : Int := d.rdS .axRro (ix ++ [w % 384])

/-- R129: ff of an axis of pickup p. -/
def Dev.feedForward (d : Dev) (p x : Nat) : Int :=
  let ix := axIx p x
  let k := d.servoS p
  if !d.on .axFfEn ix ∨ !d.on .pkMtoLock [p] then 0
  else
    let a := d.rro ix k.wedge
    let f := a + roundDiv ((d.rro ix (k.wedge + 1) - a) * (k.marks : Int)) 8
    if k.sinceLock < 384 then roundDiv (f * (k.sinceLock : Int)) 384 else f

/-- Set the CLAMP and OUTSAT flags of an axis (R113, R114). -/
def Dev.axisFlags (d : Dev) (p x : Nat) (clamp outsat : Bool) : Dev :=
  let ix := axIx p x
  let was := d.on .axClamp ix
  let b := fun (v : Bool) => if v then 1 else 0
  let d := (d.wr .axClamp ix (b clamp)).wr .axOutsat ix (b outsat)
  let d := if clamp then d.wr .axClampSeen ix 1 else d
  let d := if outsat then d.wr .axOutsatSeen ix 1 else d
  if clamp && !was then d.raisePk p (16 + x) evIntegratorClamp ([x] ++ le 4 (d.rd .axInteg ix)) else d

/-- The output of a state that runs no filter. An integrator above a limit that a swap has lowered stays frozen in HOLD and
JUMP, as Table 04-5 says, and takes the limit in the next CLOSED sample (DESIGN CHOICE, log entry 111). -/
def Dev.plainOut (d : Dev) (p x : Nat) (v xs out coil : Int) : Dev :=
  let st := d.axState p x
  (d.updAx p x fun k => { k with
    out := out,
    nodes := [v, xs, 0, 0, 0, 0, 0, 0, 0, d.rdS .axInteg (axIx p x), 0, 0, out, out, coil, (st : Int)] }).axisFlags p x
      false false

/-- The axis is focus in the capture window of a jump, in which its integrator is frozen (R137). -/
def Dev.integFrozen (d : Dev) (p x : Nat) : Bool :=
  x == 0 && ((d.servoS p).jump.map Jump.step == some JumpStep.window)

/-- R130: learning is allowed now: FF.LEARN, the axis CLOSED, MTO p locked, and no jump or seek in progress. -/
def Dev.mayLearn (d : Dev) (p x : Nat) : Bool :=
  d.on .axFfLearn (axIx p x) && d.closed p x && d.on .pkMtoLock [p] && !thas d.seek p && (d.servoS p).jump.isNone

/-- R112 to R115, R130, R137: one sample of an axis in CLOSED. -/
def Dev.closedSample (d : Dev) (p x : Nat) (v xs coil : Int) : Dev :=
  let ix := axIx p x
  let b := d.bankOf ix
  let k := d.axS p x
  let q := cascade ((List.range 6).map (d.biquad ix)) k.s1 k.s2 xs
  let x6 := q.1.getD 5 xs
  let i := d.rdS .axInteg ix
  let r := pidRun (d.rdS .cfKp b) (d.rdS .cfKi b) (d.rdS .cfKd b) (d.rdS .cfIlim b) i x6 k.x6prev
  let r := if d.integFrozen p x then { r with i := i, clamp := false } else r
  let quiet := d.mayLearn p x
  let ff := d.feedForward p x
  let ufb := r.p + r.i + r.d
  let u := sat29 (ufb + ff)
  let olim := d.rdS .cfOlim b
  let out := min (max u (-olim)) olim
  let sat := decide (out ≠ u)
  let d := d.wrS .axInteg ix r.i
  let d := d.updAx p x fun k => { k with
    s1 := q.2.1, s2 := q.2.2, x6prev := x6, out := out, held := out,
    nodes := [v, xs] ++ q.1 ++ [r.p, r.i, r.d, ff, u, out, coil, (axClosed : Int)],
    ufbSum := k.ufbSum + ufb, ufbCount := k.ufbCount + 1, spoiled := k.spoiled || r.clamp || sat || !quiet }
  d.axisFlags p x r.clamp sat

/-- R136: one sample of an axis in JUMP: the biquad states go on, the integrator is frozen, and the output is as the jump
gives it, within the output limit. -/
def Dev.jumpSample (d : Dev) (p x : Nat) (v xs kick coil : Int) : Dev :=
  let ix := axIx p x
  let k := d.axS p x
  let q := cascade ((List.range 6).map (d.biquad ix)) k.s1 k.s2 xs
  let olim := d.rdS .cfOlim (d.bankOf ix)
  let u := sat29 (k.held + kick)
  let out := min (max u (-olim)) olim
  let d := d.updAx p x fun k => { k with
    s1 := q.2.1, s2 := q.2.2, x6prev := q.1.getD 5 xs, out := out,
    nodes := [v, xs] ++ q.1 ++ [0, d.rdS .axInteg ix, 0, 0, u, out, coil, (axJump : Int)] }
  d.axisFlags p x false (decide (out ≠ u))

/-- Table 16-5: a running LOOP measurement of the axis takes the sample, and counts it in CLOSED. -/
def Dev.countResidual (d : Dev) (p x : Nat) (xs : Int) : Dev :=
  let closed := d.axState p x == axClosed
  let one := fun (m : Measure) =>
    if !m.running ∨ m.item ≠ 6 ∨ m.index ≠ 4 * p + x ∨ 65536 ≤ m.seen then m
    else if closed then { m with seen := m.seen + 1, used := m.used + 1, sum := m.sum + xs.natAbs ^ 2 }
    else { m with seen := m.seen + 1 }
  if d.measures = [] then d else { d with measures := d.measures.map one }

/-- One sample of an axis in its present state (Table 04-5): `sweep` is the output of SEARCH, `kick` what a jump adds. -/
def Dev.axisSample (d : Dev) (p x : Nat) (v xs sweep kick coil : Int) : Dev :=
  let st := d.axState p x
  let d := d.countResidual p x xs
  if st = axClosed then d.closedSample p x v xs coil
  else if st = axJump then d.jumpSample p x v xs kick coil
  else
    let d := d.updAx p x fun k => { k with spoiled := true }
    if st = axHold then d.plainOut p x v xs (d.axS p x).held coil
    else if st = axOpen then d.plainOut p x v xs (d.rdS .axOpenOut (axIx p x)) coil
    else if st = axSearch then d.plainOut p x v xs sweep coil
    else d.plainOut p x v xs 0 coil

/-- The scaled error of an axis from its input v. -/
def Dev.scaled (d : Dev) (p x : Nat) (v : Int) : Int :=
  let b := d.bankOf (axIx p x)
  scaleInput v (d.rdS .cfOffset b) (d.rdS .cfGain b) (d.rd .cfShift b)

/-- v of a 14-bit code: code ÷ 8,192. -/
def codeInput (code : Int) : Int := sat29 (code * 2 ^ 16)

/-- R115: the coil set-point of an output. -/
def setPoint (out : Int) : Int := max (-32768) (min 32767 (roundDiv (out * 32768) one29))

end Sys2Proof.Machine
end

