-- ==== Sys2Proof/Machine/Trig.lean ====
section
/-! DEFINITION. Sine, cosine and the angle of a vector for the spindle's current loops (chapter 06), over angles in 2^−16
turn, in units of 2^−30. The manual gives no precision; each value is within 2^−29 of the true one (log entry 52). -/

namespace Sys2Proof.Machine

/-- The Taylor sum of the cosine (`n` odd factors from 1) or the sine (from 2): x² and the terms in units of 2^−48. -/
def taylor (x2 : Int) : Nat → Int → Nat → Int
  | 0, _, _ => 0
  | fuel + 1, term, n => term + taylor x2 fuel (-(floorDiv (floorDiv (term * x2) (2 ^ 48)) ((n * (n + 1) : Nat) : Int))) (n + 2)

/-- 2π ÷ 65,536 in units of 2^−64 of a radian. -/
def radianStep : Int := 1768559438007110

/-- The cosine of an angle of at most a quarter turn, in units of 2^−30. -/
def quarterCos (a : Nat) : Int :=
  let x := floorDiv ((a : Int) * radianStep) (2 ^ 16)
  roundDiv (taylor (floorDiv (x * x) (2 ^ 48)) 12 (2 ^ 48) 1) (2 ^ 18)

/-- The cosine of an angle in 2^−16 turn. -/
def cosTurn (a : Nat) : Int :=
  let b := a % 65536
  if b ≤ 16384 then quarterCos b
  else if b ≤ 32768 then -quarterCos (32768 - b)
  else if b ≤ 49152 then -quarterCos (b - 32768)
  else quarterCos (65536 - b)

/-- The sine of an angle in 2^−16 turn. -/
def sinTurn (a : Nat) : Int := cosTurn (a + 49152)

/-- The angle whose tangent is s ÷ c in the quarter turn from 0, for s and c not negative, by bits of the angle. -/
def angleGo (c s : Int) : Nat → Nat → Nat
  | 0, a => a
  | k + 1, a => let b := a + 2 ^ k; if c * sinTurn b ≤ s * cosTurn b then angleGo c s k b else angleGo c s k a

/-- The angle of the vector (c, s) in 2^−16 turn. -/
def angleOf (c s : Int) : Nat :=
  let q := angleGo (c.natAbs : Int) (s.natAbs : Int) 15 0
  (if 0 ≤ c then if 0 ≤ s then q else 65536 - q else if 0 ≤ s then 32768 - q else 32768 + q) % 65536

/-- The circular mean of angles (R179). -/
def circularMean (l : List Nat) : Nat :=
  angleOf (l.foldl (fun m a => m + cosTurn a) 0) (l.foldl (fun m a => m + sinTurn a) 0)

end Sys2Proof.Machine
end

