-- ==== Sys2Proof/Machine/SpindleLoop.lean ====
section
/-! DEFINITION. The current and speed loops of a spindle (chapter 06, R172 to R199). Currents are in µA, voltages in µV, the
speed reference in 1/65,536 rpm, angles in 2^−16 turn; quotients are rounded as log entry 52 says. -/

namespace Sys2Proof.Machine

/-! ### Sensing (R172, R173, R175) -/

/-- A shunt code as a phase current in µA: ±200 mV over 12 bits, RSHUNT in µΩ. -/
def Dev.shunt (d : Dev) (n : Nat) (code : Int) : Int :=
  roundDiv (code * 200000000000) (2048 * (d.rd .spRshunt [n] : Int))

/-- The phase currents, the one of the longest duty from the other two. -/
def phaseCurrents (duties : List Nat) (u v w : Int) : Int × Int × Int :=
  let a := duties.getD 0 0
  let b := duties.getD 1 0
  let c := duties.getD 2 0
  if b ≤ a ∧ c ≤ a then (-(v + w), v, w) else if c ≤ b then (u, -(u + w), w) else (u, v, -(u + v))

/-- 1 ÷ √3 and √3 ÷ 2 in units of 2^−30. -/
def invSqrt3 : Int := 619925131
def halfSqrt3 : Int := 929887697

/-- The d and q components of phase currents u and v at an angle. -/
def toDq (u v : Int) (angle : Nat) : Int × Int :=
  let al := u
  let be := roundDiv ((u + 2 * v) * invSqrt3) (2 ^ 30)
  let c := cosTurn angle
  let s := sinTurn angle
  (roundDiv (al * c + be * s) (2 ^ 30), roundDiv (be * c - al * s) (2 ^ 30))

/-- The three duties in edges for a voltage vector at an angle on a bus in µV: space-vector modulation, each at most 1,920
edges (R174, R175). -/
def spaceVector (vd vq : Int) (angle : Nat) (bus : Int) : List Nat :=
  let c := cosTurn angle
  let s := sinTurn angle
  let al := roundDiv (vd * c - vq * s) (2 ^ 30)
  let be := roundDiv ((vd * s + vq * c) * halfSqrt3) (2 ^ 60)
  -- be is √3 ÷ 2 times the β component
  let ph := [al, be - roundDiv al 2, -be - roundDiv al 2]
  let hi := ph.foldl max al
  let lo := ph.foldl min al
  if bus ≤ 0 then [0, 0, 0]
  else ph.map fun x => (max 0 (min 1920 (1000 + roundDiv (1000 * (2 * x - hi - lo)) bus))).toNat

/-- R174: the gate edges of a phase from the length in edges of its high-side stretch, centred on edge 1,000, and the dead
time. A phase whose high side is never on makes no transition. -/
def gateEdges (len dead : Nat) : GateEdges :=
  if len = 0 then { lowOff := 1000, lowOn := 1000 }
  else
    let on := 1000 - len / 2
    { highOn := on, highOff := on + len, lowOff := on - dead, lowOn := min 2000 (on + len + dead) }

/-- Turns of 2^−16 in a time in 10^−5 s at a speed in rpm: 4 electrical turns per turn. -/
def turnsOf (rpm : Int) (t : Int) : Int := roundDiv (rpm * t * 4 * 65536) 6000000

/-! ### Angle sources (R177 to R183, R199) -/

/-- Mechanical angle of side `side` of spindle n in electrical 2^−16 turns, from the last good mark (R178). -/
def Dev.mechAngle (d : Dev) (n side rail : Nat) : Option Nat :=
  match (d.pkS (2 * n + side)).lastMark with
  | some m => some ((m.angle * 65536 + rail) * 4 / 3072 % 65536)
  | none => none

/-- R17, R178: media angle of a side, when available: its channels operate, its MTO is locked, and its offset has been learned
since the last MEDIA_LOAD. -/
def Dev.mediaAngle (d : Dev) (n side rail : Nat) : Option Nat :=
  if d.channelRuns (2 * n + side) ∧ d.on .pkMtoLock [2 * n + side] ∧ d.on .spLearned [n, side]
      ∧ !(d.spinS n).learnOwed.getD side false then
    (d.mechAngle n side rail).map fun a => (a + d.rd .spOffset [n, side]) % 65536
  else none

/-- The difference of two angles in −32,768 to 32,767. -/
def angleDiff (a b : Nat) : Int := ofTwos 16 ((a + 65536 - b % 65536) % 65536)

/-- R179: a sample toward the offset of a side, while one is owed since the last MEDIA_LOAD (log entry 116). -/
def Dev.learnSample (d : Dev) (n side rail : Nat) : Dev :=
  let set := fun (l : List Nat) => d.updSpin n fun k => { k with learn := k.learn.set side l }
  if !(d.spinS n).learnOwed.getD side false then d
  else if d.on .pkMtoLock [2 * n + side] ∧ d.on .spObslock [n] then
    match d.mechAngle n side rail with
    | some a => set ((((d.spinS n).obsAngle + 65536 - a) % 65536 :: (d.spinS n).learn.getD side []).take 256)
    | none => set []
  else set []

/-- R199: the rotor is lost: gates off at edge 200 of the sample, the rows in progress abandoned, and catch attempts with the
target kept. -/
def Dev.rotorLost (d : Dev) (n : Nat) : Dev :=
  let speed := d.speedBytes n
  let d := ((d.leaveRun n).gatesOff n).setSp n spCatch
  let d := (d.wr .spSource [n] 0).updSpin n fun k => { k with attempt := 1, lost := true }
  d.raise (spSrc n 1) evRotorLost speed

/-- The source that commutes the motor in this current sample of RUN or STOPPING (R180 to R183); 0 when neither is usable. -/
def Dev.chooseSource (d : Dev) (n : Nat) : Nat :=
  let k := d.spinS n
  let src := d.rd .spSource [n]
  let obs := d.on .spObslock [n]
  if d.rd .spAnglesrc [n] = 1 then (if obs then 2 else 0)
  else match k.media with
    | none => if obs then 2 else 0
    | some (side, a) =>
      if 3 ≤ src then 3 + side
      else if !obs then 3 + side
      else if k.trying ∧ (angleDiff a k.obsAngle).natAbs * 360 ≤ d.rd .spHandoverTol [n] * 65536 then 3 + side
      else 2

/-- R180 to R183: the source of the sample, with ANGLE_HANDOVER when media angle stops being used (R182). -/
def Dev.sourceSample (d : Dev) (n : Nat) : Dev :=
  let old := d.rd .spSource [n]
  let new := d.chooseSource n
  if new = 0 then (if d.spSt n = spRun then d.rotorLost n else (d.beginBrake n).wr .spSource [n] 0)
  else
    let d := d.wr .spSource [n] new
    let d := if 3 ≤ old ∧ new = 2 then d.raise (spSrc n 1) evAngleHandover [old, new] else d
    match (d.spinS n).media with
    | some (_, a) =>
      if 3 ≤ new ∧ !d.on .spObslock [n] then
        d.updSpin n fun k => { k with obsAngle := a, obsSpeed := d.rdS .spSpeed [n] }
      else d
    | none => d

/-- The electrical angle that commutes the motor, by state and source. -/
def Dev.drivenAngle (d : Dev) (n : Nat) : Nat :=
  let k := d.spinS n
  let st := d.spSt n
  if st = spAlign then 0
  else if st = spRamp then k.openAngle / 65536
  else if 3 ≤ d.rd .spSource [n] then (match k.media with | some (_, a) => a | none => k.obsAngle)
  else k.obsAngle

/-! ### Current and voltage (R184, R188, R197) -/

/-- vmax in µV: 0.96 × VBUS ÷ √3. -/
def Dev.vmax (d : Dev) (n : Nat) : Int := roundDiv ((d.rd .spVbus [n] : Int) * 960 * invSqrt3) (2 ^ 30)

/-- The magnitude of a vector. -/
def magnitude (a b : Int) : Int := isqrt ((a * a + b * b).toNat)

/-- R188: the next id_ref. -/
def Dev.nextIdRef (d : Dev) (n : Nat) : Int :=
  if d.rd .spClass ≠ 0 then 0
  else
    let k := d.spinS n
    let excess := magnitude k.vd k.vq - roundDiv (d.rdS .spFwVth [n] * d.vmax n) one29
    min 0 (max (1000 * d.rdS .spFwIdmin [n]) (k.idRef - roundDiv (d.rdS .spFwKfw [n] * excess) one29))

/-- R188: iq_max for an id_ref. -/
def Dev.iqMax (d : Dev) (n : Nat) (id : Int) : Int :=
  let m := 1000 * (d.rd .spImax [n] : Int)
  isqrt (max 0 (m * m - id * id)).toNat

/-- R197: the q reference in the motoring direction alone. -/
def motoring (high : Bool) (speed iq : Int) : Int :=
  if !high then iq else if 0 ≤ speed then max 0 iq else min 0 iq

/-- The current references of the state: RUN and the closed-loop part of STOPPING take the speed loop's, ALIGN and RAMP
ALIGN_I on the d axis, a catch 0. -/
def Dev.currentRefs (d : Dev) (n : Nat) : Int × Int :=
  let k := d.spinS n
  let st := d.spSt n
  if st = spRun ∨ st = spStopping then
    let id := d.nextIdRef n
    let m := d.iqMax n id
    (id, max (-m) (min m (motoring k.highVbus (d.rdS .spSpeed [n]) k.iqRef)))
  else if st = spAlign ∨ st = spRamp then (1000 * (d.rd .spAlignI [n] : Int), 0)
  else (0, 0)

/-- R175, R188: the current controllers, the voltage limit and the duties. The speed that advances the angle is SPEED in every state,
in ALIGN too, where nothing measures it (DESIGN CHOICE, log entry 157). -/
def Dev.currentLoop (d : Dev) (n : Nat) (u v : Int) : Dev :=
  let k := d.spinS n
  let angle := d.drivenAngle n
  let i := toDq u v angle
  let r := d.currentRefs n
  let kp := d.rdS .spCurKp [n]
  let ki := d.rdS .spCurKi [n]
  let eD := r.1 - i.1
  let eQ := r.2 - i.2
  let intD := k.intD + ki * eD
  let intQ := k.intQ + ki * eQ
  let vd0 := roundDiv (kp * eD + intD) one29
  let vq0 := roundDiv (kp * eQ + intQ) one29
  let vm := d.vmax n
  let clipped := decide (vm < magnitude vd0 vq0)
  let vd := if clipped then min (max vd0 (-vm)) vm else vd0
  let rest : Int := isqrt (max 0 (vm * vm - vd * vd)).toNat
  let vq := if clipped then (if vq0 < 0 then -rest else rest) else vq0
  let ahead := turnsOf (d.rdS .spSpeed [n]) 3
  let duties := spaceVector vd vq (((angle : Int) + ahead) % 65536).toNat (1000 * (d.rd .spVbus [n] : Int))
  let d := d.updSpin n fun k => { k with
    angle := angle, idRef := r.1, idNow := i.1, iqNow := i.2, intD := intD, intQ := intQ, vd := vd, vq := vq,
    duties := duties,
    nodes := [roundDiv u 1000, roundDiv v 1000, roundDiv i.1 1000, roundDiv i.2 1000, roundDiv vd 1000, roundDiv vq 1000,
              (angle : Int), d.rdS .spSpeed [n], floorDiv k.ref 65536] }
  d.wr .spVlimit [n] (if clipped then 1 else 0)

/-- R173, R197: VBUS, measured in a period in which the largest duty is at least 10 %: the period that ends as the sample
begins, at the centre of whose on-time `code` was taken. -/
def Dev.busSample (d : Dev) (n code : Nat) : Dev :=
  let d := if 200 ≤ ((d.spinS n).inForce.foldl max 0) then d.wr .spVbus [n] (min 60000 (code * 60000 / 4096)) else d
  let high := decide (d.rd .spVbusMax [n] < d.rd .spVbus [n])
  let was := (d.spinS n).highVbus
  let d := d.updSpin n fun k => { k with highVbus := high }
  if high && !was then d.raise (spSrc n 2) evVbusHigh (le 2 (d.rd .spVbus [n])) else d

/-- R177: the observer's estimate, and its runs of small and large phase error. -/
def Dev.observerSample (d : Dev) (n : Nat) (x : SpindleIn) : Dev :=
  d.updSpin n fun k => { k with
    obsAngle := x.angle % 65536, obsSpeed := x.speed,
    obsGood := if x.error * 360 < 10 * 65536 ∧ 300 ≤ x.speed.natAbs then k.obsGood + 1 else 0,
    obsBad := if 30 * 65536 < x.error * 360 then k.obsBad + 1 else 0 }

/-- A PWM period begins (R174, R176): the duties last written take effect. -/
def Dev.periodStart (d : Dev) (n : Nat) : Dev :=
  let dead := d.rd .spDeadtime [n]
  d.updSpin n fun k => { k with
    inForce := if k.driven then k.written else [0, 0, 0],
    gateEdges := if !k.driven ∨ k.braking then [{}, {}, {}] else k.written.map fun l => gateEdges l dead }

/-- The outputs of spindle n at edge 200. -/
def Dev.spindleOut (d : Dev) (n : Nat) : Dev :=
  d.updSpin n fun k => { k with written := k.duties, driven := k.gates || k.braking }

/-- R198: EN was written 0 in the period that ends here: the gates turn off, and the spindle enters OFF. -/
def Dev.spindleOff (d : Dev) (n : Nat) : Dev :=
  ((((d.leaveRun n).gatesCut n).wr .spSource [n] 0).updSpin n fun k => { k with enOff := false }).setSp n spOff

/-- R193, R196: one period in which the low sides brake: they are on when it begins with every phase current at most 4.0 A. The
speed comes from the zero crossings of phase U's current, 15 rpm per Hz, and is taken as no higher than the time since the
last crossing allows; before the first crossing SPEED stays as CATCH left it (DESIGN CHOICE, log entry 157). -/
def Dev.brakeSample (d : Dev) (n : Nat) (i : Int × Int × Int) : Dev :=
  let k := d.spinS n
  let low := decide (i.1.natAbs ≤ 4000000 ∧ i.2.1.natAbs ≤ 4000000 ∧ i.2.2.natAbs ≤ 4000000)
  let signs := [decide (0 ≤ i.1), decide (0 ≤ i.2.1), decide (0 ≤ i.2.2)]
  let rise := k.signs.head? == some false && decide (0 ≤ i.1)
  let old := d.rdS .spSpeed [n]
  let rpm := match k.riseAt with
    | some t =>
      let seen := 1500000000 / max 1 (d.time - t)
      if rise then seen else min old.natAbs seen
    | none => old.natAbs
  let low : GateEdges := if low then { lowOff := 1000, lowOn := 1000 } else {}
  let d := d.wrS .spSpeed [n] (if old < 0 then -(min 32767 rpm : Nat) else (min 32767 rpm : Nat))
  d.updSpin n fun k => { k with
    lowSide := low.lowOff == 1000, gateEdges := [low, low, low], signs := signs,
    riseAt := if rise then some d.time else k.riseAt }

/-- A current sample of spindle n (R175 to R183). The shortest low-side on-time is that of the period that begins at this edge 0
(DESIGN CHOICE, log entry 157); `rails` are the parts of a mark interval run on its two sides. -/
def Dev.currentSample (d : Dev) (n : Nat) (x : SpindleIn) (rails : List Nat) : Dev :=
  let d := d.busSample n x.bus
  let d := if (d.spinS n).enOff then d.spindleOff n else d
  let d := (d.periodStart n).observerSample n x
  let d := (d.learnSample n 0 (rails.getD 0 0)).learnSample n 1 (rails.getD 1 0)
  let media := match d.mediaAngle n 0 (rails.getD 0 0), d.mediaAngle n 1 (rails.getD 1 0) with
    | some a, _ => some (0, a)
    | none, some a => some (1, a)
    | none, none => none
  let d := d.updSpin n fun k => { k with media := media }
  let i := phaseCurrents (d.spinS n).inForce (d.shunt n x.u) (d.shunt n x.v) (d.shunt n x.w)
  let st := d.spSt n
  let d := if st = spRun ∨ (st = spStopping ∧ !(d.spinS n).braking) then d.sourceSample n else d
  let k := d.spinS n
  if k.braking then
    (d.brakeSample n i).wr .spVlimit [n] 0
  else if k.gates then
    let d := if st = spRamp then
        d.updSpin n fun k => { k with openAngle := ((k.openAngle : Int) + roundDiv (k.ref * 87381333) 1000000000).toNat % 2 ^ 32 }
      else d
    d.currentLoop n i.1 i.2.1
  else d.wr .spVlimit [n] 0

/-! ### Speed (R184 to R187) -/

/-- Table 06-3: the reading of SPCMD[n] as a target in rpm. -/
def pinTarget (src pin : Nat) : Nat :=
  match src with
  | 1 => min 12000 (12000 * pin / 2500000)
  | 2 => 12000 * (min 900000 (max 100000 pin) - 100000) / 800000
  | _ => if pin = 0 then 0 else min 12000 (100000000 / pin)

/-- The speed of the source in use: the change of media angle over 200 µs, or the observer's. -/
def Dev.measuredSpeed (d : Dev) (n : Nat) : Int :=
  let k := d.spinS n
  match d.rd .spSource [n], k.media, k.lastAngle with
  | 3, some (_, a), some b => roundDiv (angleDiff a b * 75000) 65536
  | 4, some (_, a), some b => roundDiv (angleDiff a b * 75000) 65536
  | _, _, _ => k.obsSpeed

/-- A reference moved toward a goal by at most a step. -/
def toward (x goal step : Int) : Int := if x < goal then min goal (x + step) else max goal (x - step)

/-- The speed controller (R184): the q reference, with the integrator held at ±iq_max or under VLIMIT. -/
def Dev.speedLoop (d : Dev) (n : Nat) : Dev :=
  let k := d.spinS n
  let e := k.ref - 65536 * d.rdS .spSpeed [n]
  let m := d.iqMax n k.idRef
  let unit : Int := 2 ^ 45
  let hold := decide (m ≤ (k.iqRef.natAbs : Int)) || d.on .spVlimit [n]
  let intS := if hold then k.intS else k.intS + d.rdS .spSpdKi [n] * e * 1000000
  let iq := roundDiv (d.rdS .spSpdKp [n] * e * 1000000 + intS) unit
  d.updSpin n fun k => { k with intS := intS, iqRef := max (-m) (min m iq) }

/-- A speed sample of spindle n: a change of CMDSRC takes effect (R187), a pin gives the target (R185), the reference moves
at ACCEL or along the ramp, and the controller runs. -/
def Dev.speedSample (d : Dev) (n : Nat) (x : SpindleIn) : Dev :=
  let d := match (d.spinS n).cmdsrcPending with
    | some c => (d.wr .spCmdsrc [n] c).updSpin n fun k => { k with cmdsrcPending := none }
    | none => d
  let src := d.rd .spCmdsrc [n]
  let d := if src = 0 then d
    else
      let t := pinTarget src x.pin
      let d := d.wr .spPinValue [n] t
      let d := if x.pin = 0 then d else d.updSpin n fun k => { k with pinLost := false }
      d.setTarget n (takenTarget t)
  let st := d.spSt n
  let closed := decide (st = spRun) || (decide (st = spStopping) && !(d.spinS n).braking)
  let d := if closed then d.wrS .spSpeed [n] (d.measuredSpeed n)
    else if st = spRamp then d.wrS .spSpeed [n] (floorDiv (d.spinS n).ref 65536)
    else d
  let d := d.updSpin n fun k => { k with lastAngle := k.media.map Prod.snd }
  let step := fun (r : Row) => roundDiv ((d.rd r [n] : Int) * 65536) 5000
  if st = spRamp then
    d.updSpin n fun k => { k with ref := toward k.ref (65536 * (d.rd .spRampEnd [n] : Int)) (step .spRampAccel) }
  else if !closed then d
  else
    let goal : Int := if st = spStopping then 300 * 65536 else 65536 * (d.rd .spTarget [n] : Int)
    let d := d.updSpin n fun k => { k with ref := toward k.ref goal (step .spAccel) }
    let d := d.speedLoop n
    -- R196: from 300 rpm the low sides brake
    if st = spStopping ∧ (d.rdS .spSpeed [n]).natAbs ≤ 300 then
      (d.beginBrake n).wr .spSource [n] 0
    else d

/-- R166: a homing on one of the spindle's pickups fails when the spindle leaves 1,200 rpm to 12,000 rpm. -/
def Dev.homingSpeed (d : Dev) (p : Nat) : Dev :=
  if thas d.homing p ∧ d.homeBlocker p = some 3 then d.homeFails p 3 5 else d

end Sys2Proof.Machine
end

