-- ==== Sys2Proof/Machine/Wedge.lean ====
section
/-! DEFINITION. The wedges and the write gate (R56 to R58, R123 to R128, R258 to R260): burst errors, the fusion of a
wedge's lanes, and what closes and reopens the gate. -/

namespace Sys2Proof.Machine

/-- The scaled error in nm, for an axis unit of 0.25 µm. -/
def overNm (x : Int) (nm : Nat) : Bool := decide ((nm : Int) * one29 < (x.natAbs : Int) * 250)

/-! ### The write gate (R258 to R260) -/

/-- R259: the gate closes: the row being written is abandoned. -/
def Dev.closeGate (d : Dev) (p cause : Nat) : Dev :=
  if !d.on .wgOpen [p] then d
  else (((d.wr .wgOpen [p] 0).inc .wgTrips [p]).abandonNow p cause)

/-- R260: the gate reopens after four good wedges and 64 good focus samples. -/
def Dev.openGate (d : Dev) (p : Nat) : Dev :=
  if 4 ≤ (d.pkS p).goodWedges ∧ 64 ≤ (d.pkS p).goodFocus then d.wr .wgOpen [p] 1 else d

/-- The sample completes the loss of focus or of tracking (R133). -/
def Dev.axisLost (d : Dev) (p : Nat) : Bool :=
  let k := d.servoS p
  (d.closed p 0 && decide (8 ≤ k.envLow ∨ 4 ≤ k.focusHigh)) || (d.closed p 1 && decide (4 ≤ k.trackHigh))

/-- The focus part of the gate in a sample. Of causes that arise in one sample the lowest counts (R262): AXIS before GATE_FOCUS. -/
def Dev.gateFocus (d : Dev) (p : Nat) (x : Int) : Dev :=
  if overNm x (d.rd .wgFocLim [p]) then
    (d.updPk p fun k => { k with goodFocus := 0 }).closeGate p (if d.axisLost p then abAxis else abGateFocus)
  else (d.updPk p fun k => { k with goodFocus := min 64 (k.goodFocus + 1) }).openGate p

/-- Sum of a list. -/
def sumI (l : List Int) : Int := l.foldl (· + ·) 0

/-! ### Wedges (R56 to R58, R123 to R128) -/

/-- Lane of a spot. -/
def laneOf (sp : Nat) : Nat := if sp ≤ 7 then sp else if sp = 15 then 4 else sp - 7

/-- R57: ek in units of 0.25 µm, Q2.29: (−1)^k × (A − B) ÷ (A + B) × 0.48. Bursts with A + B = 0, for which the rule has
no value, are flagged invalid (DESIGN CHOICE, log entry 109). -/
def burstError (k a b : Nat) : Int :=
  let e := roundDiv (((a : Int) - b) * 48 * one29) (100 * ((a + b : Nat) : Int))
  if k % 2 = 0 then e else -e

/-- R58: the spot is at least half a track from its lane. -/
def burstInvalid (k c d : Nat) : Bool := if k % 2 = 1 then decide (d < c) else decide (c < d)

/-- A Q2.29 error in units of 0.25 µm in nm, rounded. -/
def errorNm (e : Int) : Int := roundDiv (e * 250) one29

/-- A lane has given no valid ek in a wedge (R127). -/
def Dev.laneMissed (d : Dev) (p k : Nat) : Dev :=
  d.updServo p fun q => { q with missed := tset q.missed k (tget 0 q.missed k + 1) }

/-- R123, R124, R128: the wedge is complete, and over until the rail's count comes to the next one; with no mark to count from,
the next report opens the next wedge (DEDUCED, log entry 114): the correction c while tracking is CLOSED and at least four lanes gave a valid ek,
and v_yaw when lanes 1 and 7 did; R260: the wedge counts toward reopening the gate when every lane was good. -/
def Dev.wedgeEnd (d : Dev) (p : Nat) : Dev :=
  let k := d.servoS p
  let ix := pjIx p
  let n := k.valid.length
  let mean := roundDiv (sumI (k.valid.map Prod.snd)) (n : Int)
  let clim := d.rdS .wdClim ix
  let c := sat29 (d.rdS .wdC ix + mul29 (d.rdS .wdKw ix) mean)
  let d := if 4 ≤ n ∧ d.closed p 1 then d.wrS .wdC ix (min (max c (-clim)) clim) else d
  let v : Option Int := match tfind k.valid 7, tfind k.valid 1 with
    | some e7, some e1 => some (sat29 (roundDiv ((e7 - e1) * 250) 72))
    | _, _ => none
  let lim := d.rd .wgTrkLim [p]
  let good := decide (n = 7) && !(k.valid.any fun (e : Nat × Int) => decide (lim < (errorNm e.2).natAbs))
    && !((List.range 7).any fun i => d.on .wdStale (ix ++ [i]))
  let fused : List Int := [if n = 0 then 0 else mean, d.rdS .wdC ix, v.getD 0]
  let yaw := match v with | some y => y :: k.yaw | none => k.yaw
  let d := d.updServo p fun q => { q with
    reported := [], wedgeOver := q.expect.isSome, missedOne := false, valid := [], yaw := yaw, bursts := tset q.bursts 0 fused }
  (d.updPk p fun q => { q with goodWedges := if good then min 4 (q.goodWedges + 1) else 0 }).openGate p

/-- A spot has had its wedge: when every enabled spot has, the wedge is complete. -/
def Dev.wedgeSpot (d : Dev) (p sp : Nat) : Dev :=
  let d := d.updServo p fun q => { q with reported := q.reported ++ [sp] }
  if (List.range 16).all fun i => !d.spotOn p i || (d.servoS p).reported.contains i then d.wedgeEnd p else d

/-- The present wedge is over for every spot that is still enabled: a spot that goes dark holds no wedge open (R128). -/
def Dev.wedgeSettle (d : Dev) (p : Nat) : Dev :=
  let k := d.servoS p
  if k.reported ≠ [] ∧ (List.range 16).all (fun i => !d.spotOn p i || k.reported.contains i) then d.wedgeEnd p else d

/-- R260: a lane was not good in a wedge: the count of good wedges starts again at once. -/
def Dev.badWedge (d : Dev) (p : Nat) : Dev := d.updPk p fun k => { k with goodWedges := 0 }

/-- R126 to R128: a spot misses the wedge: the count goes up once per wedge, and its lane has no valid ek in it. -/
def Dev.missWedge (d : Dev) (p sp : Nat) : Dev :=
  let d := if (d.servoS p).missedOne then d else d.inc .wdMissed (pjIx p)
  let d := d.updServo p fun q => { q with missedOne := true }
  let d := if 1 ≤ sp ∧ sp ≤ 7 then (d.laneMissed p sp).badWedge p else d
  d.wedgeSpot p sp

/-- R57, R58, R127, R258: a data spot's bursts. The gate compares LANE_ERR, in whole nm. Node ek of Table 04-7 is LANE_ERR's nm,
the mean and c are in the units of x_track, v_yaw in mrad, both Q2.29: the table gives no unit
(DESIGN CHOICE, log entry 110). Bursts with A + B = 0 are invalid (DESIGN CHOICE, log entry 109). -/
def Dev.laneBursts (d : Dev) (p k a b c e : Nat) : Dev :=
  let bad := burstInvalid k c e || a + b == 0
  let err := burstError k a b
  let d := d.updServo p fun q => { q with
    bursts := tset q.bursts k [errorNm err, (a : Int), (b : Int), (c : Int), (e : Int), if bad then 0 else 1] }
  if bad then ((d.laneMissed p k).badWedge p).closeGate p abGateTrack
  else
    let d := (d.wrS .wdLaneErr (pjIx p ++ [k - 1]) (errorNm err)).wr .wdStale (pjIx p ++ [k - 1]) 0
    let d := d.updServo p fun q => { q with valid := tset q.valid k err, missed := tset q.missed k 0 }
    if d.rd .wgTrkLim [p] < (errorNm err).natAbs then (d.badWedge p).closeGate p abGateTrack else d

end Sys2Proof.Machine
end

