-- ==== Sys2Proof/Machine/Loop.lean ====
section
/-! DEFINITION. The loop engines (chapter 04): the sample and its schedule, focus capture and the samples of a layer jump, the position loop of the sleds, the Madder trace, and the commands that set an engine up. -/

namespace Sys2Proof.Machine

/-! ### The boundary (R116, R118, R120, R122, R131, R147, R148) -/

/-- A write that waits for a sample boundary of engine e. -/
def boundaryOf (e : Nat) (f : Fld) : Bool :=
  if f.row = .slTabsel then f.ix.getD 0 0 / 4 == e
  else if f.row = .slTableA ∨ f.row = .slTableB then true
  else f.ix.getD 0 0 == e

/-- The writes that wait take effect, in order (R122, R147, R148). -/
def Dev.applyWrites (d : Dev) (e : Nat) : Dev :=
  let now := d.deferredWrites.filter fun (w : Fld × Nat) => boundaryOf e w.1
  let d := { d with deferredWrites := d.deferredWrites.filter fun (w : Fld × Nat) => !boundaryOf e w.1 }
  now.foldl (fun (d : Dev) w => d.wr w.1.row w.1.ix w.2) d

/-- R116: a MODE comes into force: OFF, OPEN and HOLD set the state; AUTO leaves it to the device's sequences. A measurement of the
axis keeps it waiting (R506). -/
def Dev.applyMode (d : Dev) (p x : Nat) : Dev :=
  match (d.axS p x).modePending with
  | none => d
  | some m =>
    if d.axisMeasured p x then d
    else
    let old := d.axMode p x
    let d := (d.updAx p x fun k => { k with modePending := none, tripped := k.tripped && !(old == 1 && m != 1) }).wr
      .axMode (axIx p x) m
    match m with
    | 1 => d.setAx p x axOff
    | 2 => d.setAx p x axOpen
    | 3 => d.setAx p x axHold
    | _ => d

/-- R131: every entry of the axis's table becomes 0. -/
def Dev.applyClear (d : Dev) (p x : Nat) : Dev :=
  if !(d.axS p x).clearPending then d
  else
    let d := d.updAx p x fun k => { k with clearPending := false }
    { d with regs := d.regs.filter fun (r : Fld × Nat) => !(r.1.row == .axRro && r.1.ix.take 2 == axIx p x) }

/-- R118: every pending swap of the engine takes effect together. -/
def Dev.applySwaps (d : Dev) (e : Nat) : Dev :=
  (List.range 16).foldl (fun (d : Dev) a =>
    if d.on .bankPending [e, a] then
      (d.wr .bankActive [e, a] (1 - d.rd .bankActive [e, a])).wr .bankPending [e, a] 0
    else d) d

/-- What takes effect at a sample boundary of engine e. -/
def Dev.boundary (d : Dev) (e : Nat) : Dev :=
  let d := (d.applyWrites e).applySwaps e
  (List.range 16).foldl (fun (d : Dev) a => (d.applyMode (4 * e + a / 4) (a % 4)).applyClear (4 * e + a / 4) (a % 4)) d

/-! ### Focus capture (R132) -/

/-- Samples of a sweep: SEARCH_T ms at 400 kHz. -/
def Dev.sweepLength (d : Dev) (p : Nat) : Nat := 400 * d.rd .fcSearchT (pjIx p)

/-- The output of the sweep at its present sample: a line over ±SEARCH_AMP, or over ±0.25 × SEARCH_AMP about the held
output of a jump retry. -/
def Dev.sweepOut (d : Dev) (p : Nat) : Int :=
  match (d.servoS p).cap with
  | none => (d.axS p 0).out
  | some c =>
    let amp := d.rdS .fcSearchAmp (pjIx p)
    let amp := if c.retry then roundDiv amp 4 else amp
    let n := d.sweepLength p
    sat29 (c.centre - amp + roundDiv (2 * amp * (min c.samples n : Nat)) n)

/-- R132 steps 3 and 4: focus CLOSED from the present output; tracking, tilt and yaw CLOSED unless the sled is being homed
(R165), in which case the inward move starts and no layer is left to return to. -/
def Dev.captured (d : Dev) (p : Nat) : Dev :=
  let out := (d.axS p 0).out
  let d := (d.seqAx p 0 axClosed).wrS .axInteg (axIx p 0) out
  match d.homingS p with
  | some h =>
    let d := d.updServo p fun k => { k with cap := none, returnTo := none, lastChance := false }
    if h.step ≠ HomeStep.capture then d
    else
      let d := d.setHoming p { h with step := .inward }
      let inward : Int := 1000000 * d.rd .slHomeTravel [p]
      d.homeMove p (d.slP p + d.stepsOf p (-inward))
  | none =>
    (d.seqAxes p axClosed [1, 2, 3]).updServo p fun k =>
      { k with cap := k.cap.map fun (c : FocusCap) => { c with step := .identify } }

/-- One sample of a sweep: at an envelope at or above ENV_THR with a sign change of x, focus is captured. -/
def Dev.sweepSample (d : Dev) (p : Nat) (x : Int) (env : Nat) : Dev :=
  match (d.servoS p).cap with
  | none => d
  | some c =>
    if c.step ≠ CapStep.sweep ∨ d.axState p 0 ≠ axSearch then d
    else
      let crossed : Bool := match c.lastX with
        | some a => decide ((0 < a ∧ x ≤ 0) ∨ (a < 0 ∧ 0 ≤ x))
        | none => false
      let d := d.updServo p fun k => { k with cap := some { c with samples := c.samples + 1, lastX := some x } }
      if crossed && decide (d.rd .fcEnvThr (pjIx p) ≤ env) then d.captured p else d

/-! ### Layer jumps (R136, R137) -/

/-- One sample of a jump: its counters, and what it adds to the held output. -/
def Dev.jumpStep (d : Dev) (p : Nat) (x : Int) : Int × Dev :=
  match (d.servoS p).jump with
  | none => (0, d)
  | some j =>
    let sign : Int := if j.origin < j.next then 1 else -1
    let ix := pjIx p
    let thr := d.rdS .jpBrakeThr ix
    let mag : Int := x.natAbs
    let coasting := decide (j.step = .coast ∨ (j.step = .kick ∧ d.rd .jpKickN ix ≤ j.samples))
    let risen := j.risen || (decide (j.step = .kick ∨ j.step = .coast) && decide (thr < mag))
    let late := decide (j.step = .coast ∧ d.rd .jpCoastMax ix ≤ j.samples)
    let triggered := j.triggered || (coasting && !late && j.risen && decide (mag < thr))
    -- the brake begins in the sample that triggers it
    let braking := decide (j.step = .brake) || (coasting && (triggered || late))
    let kick := if braking then (if j.braked < d.rd .jpBrakeN ix then -sign * d.rdS .jpBrakeAmp ix else 0)
      else if j.step = .kick ∧ !coasting then sign * d.rdS .jpKickAmp ix else 0
    let j' := { j with
      samples := j.samples + 1,
      risen := risen,
      triggered := triggered,
      braked := if braking then j.braked + 1 else j.braked,
      within := if j.step = .window then (if overNm x (d.rd .jpCaptTol ix) then 0 else j.within + 1) else j.within }
    (kick, d.updServo p fun k => { k with jump := some j' })

/-! ### A pickup's sample (R107, R123 to R125, R133) -/

/-- The runs of samples by which focus and tracking are declared lost (R133). -/
def Dev.lossCounts (d : Dev) (p : Nat) (env : Nat) (xf xt : Int) : Dev :=
  let f := d.closed p 0
  let t := d.closed p 1
  let low := decide (2 * env < d.rd .fcEnvThr (pjIx p))
  d.updServo p fun k => { k with
    envLow := if f && low then k.envLow + 1 else 0,
    focusHigh := if f && decide (2 * one29 < (xf.natAbs : Int)) then k.focusHigh + 1 else 0,
    trackHigh := if t && decide (4 * one29 < 5 * (xt.natAbs : Int)) then k.trackHigh + 1 else 0 }

/-- R155 step 4: after the profile of a seek, tracking closes in the first sample with |x_tpp| below 0.2. -/
def Dev.landTracking (d : Dev) (p : Nat) (xtpp : Int) : Dev :=
  if (d.seekS p).map Seek.step = some SeekStep.landing ∧ d.axState p 1 = axOff ∧ 5 * (xtpp.natAbs : Int) < one29 then
    d.seqAx p 1 axClosed
  else d

/-- Focus and tracking of pickup p in a sample. -/
def Dev.fastAxes (d : Dev) (p : Nat) (x : ServoIn) : Dev :=
  let vf := codeInput x.fe
  let vt := codeInput x.tpp
  let xf := d.scaled p 0 vf
  let xtpp := d.scaled p 1 vt
  let xt := sat29 (xtpp + d.rdS .wdC (pjIx p))
  let d := d.landTracking p xtpp
  let d := d.updServo p fun k => { k with
    tle := x.tle :: k.tle, followed := if d.closed p 1 then min 16 (k.followed + 1) else 0 }
  let d := (d.lossCounts p x.env xf xt).gateFocus p xf
  let sweep := d.sweepOut p
  let d := d.sweepSample p xf x.env
  let j := d.jumpStep p xf
  let d := j.2.axisSample p 0 vf xf sweep j.1 (x.coils.getD 0 0)
  let d := d.axisSample p 1 vt xt 0 0 (x.coils.getD 1 0)
  d.updSled p fun s => { s with
    uSum := s.uSum + (d.axS p 1).nodes.getD 12 0, uCount := s.uCount + 1, phase := s.phase + 1, still := s.still + 1 }

/-- The tilt axis in its sample: the mean of the conversions since the last (R107, R125). -/
def Dev.tiltAxis (d : Dev) (p : Nat) (coil : Int) : Dev :=
  let l := (d.servoS p).tle
  let v := sat29 (roundDiv (sumI l * 2 ^ 16) (l.length : Int))
  (d.axisSample p 2 v (d.scaled p 2 v) 0 0 coil).updServo p fun k => { k with tle := [] }

/-- The yaw axis in its sample: the mean v_yaw since the last, or HOLD for the sample when there is none (R124). -/
def Dev.yawAxis (d : Dev) (p : Nat) (coil : Int) : Dev :=
  let l := (d.servoS p).yaw
  if l = [] then
    if d.closed p 3 then d.updAx p 3 fun k => { k with spoiled := true } else d.axisSample p 3 0 0 0 0 coil
  else
    let v := sat29 (roundDiv (sumI l) (l.length : Int))
    (d.axisSample p 3 v (d.scaled p 3 v) 0 0 coil).updServo p fun k => { k with yaw := [] }

/-! ### The position loop (R149 to R152, R165 to R168) -/

/-- The follow law (R151). -/
def Dev.followStep (d : Dev) (p : Nat) : Int :=
  let s := d.sledS p
  if s.uCount = 0 then d.slP p
  else d.slP p + roundDiv (256 * (d.rd .slFollowGain [p] : Int) * s.uSum) ((s.uCount : Int) * one29)

/-- P_new by state (Table 05-2). -/
def Dev.nextP (d : Dev) (p : Nat) : Int :=
  let s := d.sledS p
  if d.slSt p = slUnhomed then d.slP p
  else match s.ramp, s.move with
    | some r, _ => r.at d.time
    | none, some m => m.at d.time
    | none, none => if d.slSt p = slFollow then d.followStep p else d.slP p

/-- A move of a homing starts toward P. -/
def Dev.homingGo (d : Dev) (p : Nat) (h : Homing) (step : HomeStep) (target : Int) : Dev :=
  (d.setHoming p { h with step := step }).homeMove p target

/-- The move or the ramp of a homing has come to its end: the next step (R165, R167). -/
def Dev.homingNext (d : Dev) (p : Nat) (h : Homing) : Dev :=
  match h.step with
  | .ramp => d.homingGo p h .toFirst h.first
  | .toFirst => d.setHoming p { h with step := .settleFirst }
  | .toSecond => d.setHoming p { h with step := .settleSecond }
  | .switchRamp => d.homingGo p h .fromSwitch (h.home.getD 0 + d.stepsOf p 3000000)
  | _ => d

/-- The move or ramp of the sled is over. The run that finds it over has set P to its target (R152) and forgets it, so that a
sled in SEEK with no move has ended its profile. -/
def Dev.moveOver (d : Dev) (p : Nat) : Bool :=
  match (d.sledS p).ramp, (d.sledS p).move with
  | some r, _ => r.done d.time
  | none, some m => m.done d.time
  | none, none => d.slSt p == slSeek

/-- The move or ramp is over, and a run of the position loop has made its end the last set-point (R152). -/
def Dev.moveEnded (d : Dev) (p : Nat) : Bool :=
  d.moveOver p && (match (d.sledS p).ramp, (d.sledS p).move with
    | some r, _ => d.slP p == r.at d.time
    | none, some m => d.slP p == m.target
    | none, none => true)

/-- One run of the position loop of sled p. A move that has reached its target is forgotten, and a MANUAL one ends in HOLD. -/
def Dev.positionLoop (d : Dev) (p : Nat) : Dev :=
  let old := d.slP p
  let new := d.nextP p
  let ended := d.moveOver p
  let d := (d.wrS .slPos [p] new).updSled p fun s => { s with prev := old, phase := 0, uSum := 0, uCount := 0 }
  let d := if new = old then d else d.wake p
  if !ended then d
  else match d.homingS p with
    | some h => (d.updSled p fun s => { s with ramp := none }).homingNext p h
    | none =>
      if (d.sledS p).ramp.isSome then d
      else
        let d := d.updSled p fun s => { s with move := none }
        if d.slSt p = slSeek ∧ !thas d.seek p then d.setSl p slHold else d

/-! ### Madder trace (R139 to R142) -/

/-- The microstep address in the present sample (R144, R150), or the one frozen by an immediate stop (R160). -/
def Dev.microstep (d : Dev) (p : Nat) : Nat := (roundDiv (d.sledOut80 p) (80 * 256) % 1024).toNat

/-- The value of a node of engine e (Table 04-7). -/
def Dev.node (d : Dev) (e code : Nat) : Int :=
  let group := code / 1024 % 4
  let index := code / 16 % 64
  let point := code % 16
  match group with
  | 0 => if index < 16 then (d.axS (4 * e + index / 4) (index % 4)).nodes.getD point 0 else 0
  | 1 => if index < 2 ∧ point < 9 then (d.spinS (2 * e + index)).nodes.getD point 0 else 0
  | 2 =>
    let p := 4 * e + index
    if 4 ≤ index then 0
    else match point with
      | 0 => d.slP p
      | 1 => d.sledOut p
      | 2 => (d.microstep p : Int)
      | 3 => roundDiv (d.sledS p).coilA 32767
      | 4 => roundDiv (d.sledS p).coilB 32767
      | _ => 0
  | _ =>
    if 32 ≤ index then 0
    else (tget [] (d.servoS (4 * e + index / 8)).bursts (index % 8) : List Int).getD point 0

/-- What a channel records of a node: bits [31 − SHIFT : 16 − SHIFT], saturated to 16 bits. -/
def traceValue (shift : Nat) (v : Int) : Int :=
  let w := floorDiv (v * 2 ^ shift) (2 ^ 16)
  max (-32768) (min 32767 w)

/-- The 16-bit value of a node code. -/
def Dev.nodeValue (d : Dev) (e code : Nat) : Int := traceValue (code / 4096 % 16) (d.node e code)

/-- A level trigger met now, or an edge between two recorded samples (Table 04-8): a value crosses LEVEL upward from below it
to it or above, and downward from above it to it or below (DESIGN CHOICE, log entry 112). -/
def Dev.levelHit (d : Dev) (e : Nat) (v : Int) : Bool :=
  let l := d.rdS .trLevel [e]
  if d.rd .trDir [e] = 0 then decide (l ≤ v) else decide (v ≤ l)

def Dev.edgeHit (d : Dev) (e : Nat) (last : Option Int) (v : Int) : Bool :=
  let l := d.rdS .trLevel [e]
  match last with
  | none => false
  | some a => if d.rd .trDir [e] = 0 then decide (a < l ∧ l ≤ v) else decide (l < a ∧ v ≤ l)

/-- The trace of engine e at the end of a sample; `clamps` are the axes whose CLAMP rose in it. -/
def Dev.traceSample (d : Dev) (e : Nat) (clamps : List Nat) : Dev :=
  let t : Trace := tget {} d.trace e
  let st := d.rd .trState [e]
  if st ≠ trFilling ∧ st ≠ trArmed ∧ st ≠ trTriggered then d
  else
    let put := fun (d : Dev) (t : Trace) => { d with trace := tset d.trace e t }
    let kind := d.rd .trKind [e]
    let armed := decide (st = trArmed)
    let v := d.nodeValue e (d.rd .trTrigSel [e])
    let met := armed && ((kind == 0 && d.levelHit e v) || (kind == 2 && clamps.any fun a => (d.rd .trClampmask [e]).testBit a))
    let t := if met && t.armedHit.isNone then { t with armedHit := some kind } else t
    if t.skipped + 1 < t.decim then put d { t with skipped := t.skipped + 1 }
    else if st = trTriggered ∧ 8191 ≤ t.pretrig + t.count then d
    else
      let hit := if armed && kind == 1 && t.armedHit.isNone && d.edgeHit e t.lastValue v then some 1 else t.armedHit
      let t := { t with
        skipped := 0, lastValue := some v, records := ((t.sel.map (d.nodeValue e)) :: t.records).take 8192 }
      match armed, hit with
      | true, some k =>
        (put d { t with count := 0, armedHit := none, kind := k, time := d.time }).wr .trState [e] trTriggered
      | _, _ => put d { t with count := t.count + 1, armedHit := none }

/-! ### The sample (R105, R106) -/

/-- The spindle loops that Table 04-1 names for sample i of engine e. -/
def Dev.spindleLoops (d : Dev) (e i : Nat) (xs : List ServoIn) (ys : List SpindleIn) : Dev :=
  (List.range 2).foldl (fun (d : Dev) h =>
    let n := 2 * e + h
    let y : SpindleIn := ys.getD h {}
    let d := if i % 8 = 4 * h then d.currentSample n y ((xs.drop (2 * h)).map ServoIn.rail) else d
    if i % 80 = 40 * h + 5 then ((d.speedSample n y).homingSpeed (2 * n)).homingSpeed (2 * n + 1) else d) d

/-- The slow axes and the position loop that Table 04-1 names for sample i of engine e. -/
def Dev.slowLoops (d : Dev) (e i : Nat) (xs : List ServoIn) : Dev :=
  let d := (List.range 4).foldl (fun (d : Dev) j =>
    let p := 4 * e + j
    let x : ServoIn := xs.getD j {}
    let d := if i % 16 = 4 * j then d.tiltAxis p (x.coils.getD 2 0) else d
    let d := if i % 16 = 4 * j + 2 then d.yawAxis p (x.coils.getD 3 0) else d
    d) d
  (List.range 4).foldl (fun (d : Dev) j => if i % 80 = 20 * j + 15 then d.positionLoop (4 * e + j) else d) d

/-- One sample of engine e. The causes of abandonment that it may find are taken in the order of their codes, so that the
lowest is the one reported (R262): a spindle (2), an axis (4), the focus part of the gate (8). -/
def Dev.sample (d : Dev) (e : Nat) (xs : List ServoIn) (ys : List SpindleIn) : Dev :=
  let i := d.time / 250
  let d := d.spindleLoops e i xs ys
  let d := (List.range 4).foldl (fun (d : Dev) j => (d.wedgeSettle (4 * e + j)).jumpResume (4 * e + j)) d
  let d := d.boundary e
  let was := (List.range 16).filter fun a => d.on .axClamp [e, a]
  let d := (List.range 4).foldl (fun (d : Dev) j => d.fastAxes (4 * e + j) (xs.getD j {})) d
  let d := d.slowLoops e i xs
  let rose := (List.range 16).filter fun a => d.on .axClamp [e, a] && !was.contains a
  d.traceSample e rose

/-- LOOP_SAMPLE, R105 to R107: sample i begins at the REFCLK edge at which device time is 250 × i. -/
def execLoopSample (e : Fin 8) (pickups : List ServoIn) (spindles : List SpindleIn) (s : State) :
    Host.Outcome State Fault Refusal :=
  serve s fun d => if d.time % 250 = 0 then d.sample e pickups spindles else d

/-- The outputs of pickup p at edge 200: the coil set-points of its axes, and the currents of its sled's coils (R144, R150). -/
def Dev.pickupOut (d : Dev) (p : Nat) : Dev :=
  let d := (List.range 4).foldl (fun (d : Dev) x =>
    d.updAx p x fun k => { k with coil := if k.tripped then 0 else setPoint k.out }) d
  let a := d.microstep p
  let b := d.rd .slTabsel [p]
  let cur : Int := d.coilCur p
  d.updSled p fun s => { s with coilA := d.rdS .slTableA [b, a] * cur, coilB := d.rdS .slTableB [b, a] * cur }

/-- LOOP_OUTPUT, R106, R108, R176, R199: the outputs are written whether or not the program has completed. -/
def execLoopOutput (e : Fin 8) (complete : Bool) (s : State) : Host.Outcome State Fault Refusal :=
  act s fun d =>
    let d := (List.range 4).foldl (fun (d : Dev) j =>
      if d.on .pkPresent [4 * e + j] then d.pickupOut (4 * e + j) else d.noOutput (4 * e + j)) d
    let d := (List.range 2).foldl (fun (d : Dev) h => d.spindleOut (2 * e + h)) d
    if complete then d else (d.wr .lpOverrun [e] 1).raise globalSrc evLoopOverrun [e]

/-! ### Writes that set an engine up -/

/-- BANK_SWAP, R118, R119: a request per bit; one already pending is not added to. -/
def execBankSwap (e : Fin 8) (mask : Nat) (s : State) : Host.Outcome State Fault Refusal :=
  hostAct s fun d => (bitsOf mask 16).foldl (fun (d : Dev) a => d.wr .bankPending [e, a] 1) d

/-- AXIS_MODE_WRITE, R116, R506: in force from the next sample boundary; held off while the axis is measured. -/
def execAxisModeWrite (e : Fin 8) (a : Fin 16) (mode : Fin 4) (s : State) : Host.Outcome State Fault Refusal :=
  hostAct s fun d =>
    let p := 4 * e.val + a.val / 4
    if d.axisMeasured p (a.val % 4) then
      { d with measureHeld := d.measureHeld ++ [(⟨.axMode, [e, a]⟩, mode.val)] }
    else d.updAx p (a.val % 4) fun k => { k with modePending := some mode.val }

/-- FF_CLEAR, R131: the table is zeroed at the next sample boundary. -/
def execFfClear (e : Fin 8) (a : Fin 16) (s : State) : Host.Outcome State Fault Refusal :=
  hostAct s fun d => d.updAx (4 * e.val + a.val / 4) (a.val % 4) fun k => { k with clearPending := true }

/-- RRO_WRITE, R131: discarded while FF.LEARN is 1. -/
def execRroWrite (e : Fin 8) (a : Fin 16) (w : Fin 384) (value : Nat) (s : State) : Host.Outcome State Fault Refusal :=
  hostAct s fun d => if d.on .axFfLearn [e, a] then d else d.wr .axRro [e, a, w] value

/-! ### Arming a trace -/

/-- R139: the contents are cleared and recording starts in FILLING. SEL, DECIM and PRETRIG are those of this instant for the
whole trace; the trigger's fields are read in each sample (DESIGN CHOICE, log entry 112). -/
def Dev.armTrace (d : Dev) (e : Nat) : Dev :=
  let t : Trace := { decim := d.rd .trDecim [e], pretrig := d.rd .trPretrig [e],
                     sel := (List.range 16).map fun c => d.rd .trSel [e, c] }
  ({ d with trace := tset d.trace e t }).wr .trState [e] trFilling

/-- TRACE_ARM, R139. A TRACE_READ is one step, so that an arming falls before or after it (R142). -/
def execTraceArm (e : Fin 8) (s : State) : Host.Outcome State Fault Refusal := hostAct s fun d => d.armTrace e

/-- TRACE_ARMED, R139: PRETRIG samples have been recorded in FILLING. -/
def execTraceArmed (e : Fin 8) (s : State) : Host.Outcome State Fault Refusal :=
  act s fun d =>
    let t : Trace := tget {} d.trace e
    if d.rd .trState [e] = trFilling ∧ t.pretrig ≤ t.count then
      ({ d with trace := tset d.trace e { t with count := 0, armedHit := none } }).wr .trState [e] trArmed
    else d

/-- TRACE_FORCE, R140: the next recorded sample of an ARMED trace is the trigger sample; 0x80 marks the kind. -/
def execTraceForce (e : Fin 8) (s : State) : Host.Outcome State Fault Refusal :=
  hostAct s fun d =>
    let t : Trace := tget {} d.trace e
    if d.rd .trState [e] = trArmed ∧ t.armedHit.isNone then
      { d with trace := tset d.trace e { t with armedHit := some (d.rd .trKind [e] + 0x80) } }
    else d

/-- TRACE_DONE, R139: 8,191 − PRETRIG further samples have been recorded. -/
def execTraceDone (e : Fin 8) (s : State) : Host.Outcome State Fault Refusal :=
  act s fun d =>
    let t : Trace := tget {} d.trace e
    if d.rd .trState [e] = trTriggered ∧ 8191 ≤ t.pretrig + t.count then
      (d.wr .trState [e] trDone).raise globalSrc evTraceDone [e]
    else d

end Sys2Proof.Machine
end

