-- ==== Sys2Proof/Machine/Focus.lean ====
section
/-! DEFINITION. The rail and the wedges, focus capture and its loss, and layer jumps (R18, R19, R52 to R58, R123 to R138). -/

namespace Sys2Proof.Machine

/-! ### Rail address marks (R18, R52, R129, R130) -/

/-- The mark one interval further along the spiral. -/
def Mark.next (m : Mark) : Mark :=
  if m.angle + 1 < 3072 then { m with angle := m.angle + 1 } else { m with angle := 0, band := m.band + 1 }

/-- R130: at the end of a wedge interval, the table entry of the interval takes the mean of u_fb, when learning was allowed
throughout it: at its start, in each of its samples, at its end, and with no write of 0 to FF.LEARN in it. -/
def Dev.learnRro (d : Dev) (p x w : Nat) : Dev :=
  let k := d.axS p x
  let ix := axIx p x
  let may := d.mayLearn p x
  let d := d.updAx p x fun k => { k with ufbSum := 0, ufbCount := 0, spoiled := !may }
  if k.spoiled || k.ufbCount == 0 || !may then d
  else
    let mean := roundDiv k.ufbSum (k.ufbCount : Int)
    d.wrS .axRro (ix ++ [w % 384]) (sat29 (d.rro ix w + roundDiv mean (2 ^ d.rd .axFfMu ix)))

/-- Periods are counted to the mark at an angle index: the wedge interval and the marks passed in it; at a new interval the
old one ends. -/
def Dev.passMark (d : Dev) (p angle : Nat) : Dev :=
  let k := d.servoS p
  let w := angle / 8 % 384
  let d := if w = k.wedge then d
    else
      -- the wedge of the interval is over for every spot
      let d := if k.reported = [] then d else d.wedgeEnd p
      let d := (List.range 4).foldl (fun (d : Dev) x => d.learnRro p x k.wedge) d
      d.updServo p fun k => { k with wedgeOver := false, sinceLock := if d.on .pkMtoLock [p] then min 384 (k.sinceLock + 1) else 0 }
  d.updServo p fun k => { k with wedge := w, marks := angle % 8 }

/-- Focus is on the target of a jump, or on L0 after a capture: the way back to the layer wanted goes on, or is over
(R134, R138). -/
def Dev.arrived (d : Dev) (p L : Nat) : Dev :=
  let finish := fun (d : Dev) => (d.updServo p fun q => { q with returnTo := none, lastChance := false }).seekJumped p
  let d := d.updServo p fun q => { q with jump := none }
  match (d.servoS p).returnTo with
  | some t => if t = L then finish d else d.jumpTo p L t 1
  | none => finish d

/-- The layer is known while focus is captured anew: the jump to L0, back to the layer wanted, or a further attempt
(R132 step 5, R134, R138). While no LAYER is read, within the 50 ms or after, the pickup waits in this step (DESIGN CHOICE,
log entry 113). -/
def Dev.identified (d : Dev) (p L : Nat) : Dev :=
  let k := d.servoS p
  let d := (d.updPk p fun q => { q with layer := L }).updServo p fun q => { q with cap := none }
  match k.jump with
  | some j => if L = j.target then d.arrived p L else d.jumpTo p L j.target (j.attempt + 1)
  | none => if L ≠ 0 then d.jumpTo p L 0 1 else d.arrived p 0

/-- R282: a row that the ladder reads again has passed the last spot: the spot steps inward by one band, and the marks are expected
there. -/
def Dev.stepBack (d : Dev) (p : Nat) : Dev :=
  match (d.servoS p).expect, d.rowPassed p with
  | some m, some (layer, row) =>
    let again := fun (e : Ladder) => e.rereading && !e.waiting && !e.seekFirst && !e.stepped && pbaSurface e.pba == p
      && pbaLayer e.pba == layer && decide (pbaRow e.pba < row)
    if d.on .pkMtoLock [p] && d.closed p 1 && 1 ≤ m.band && d.ladder.any again then
      let d := { d with ladder := d.ladder.map fun e => if again e then { e with stepped := true } else e }
      (d.updServo p fun k => { k with expect := some { m with band := m.band - 1 } }).emit (.stepBack p)
    else d
  | _, _ => d

/-- A good mark of S0. -/
def Dev.goodMark (d : Dev) (p : Nat) (m : Mark) : Dev :=
  let d := d.updPk p fun k => { k with
    goodMarks := min 8 (k.goodMarks + 1), missedMarks := 0, lastMark := some m, marked := true,
    bandFollowed := if d.closed p 1 then some m.band else k.bandFollowed,
    scoutMap := freshDefects m.band k.scoutMap }
  let d := d.wr .rcScoutCount [p] (d.pkS p).scoutMap.length
  let d := (((d.passMark p m.angle).updServo p fun k => { k with expect := some m.next }).rowBegins p).stepBack p
  let k := d.servoS p
  if (k.cap.map FocusCap.step) = some CapStep.identify then d.identified p m.layer
  else if k.jump.isNone ∧ k.cap.isNone then d.updPk p fun q => { q with layer := m.layer }
  else d

/-- A mark missed, or counted as missed. The device goes on counting periods from the last good mark; while the MTO is
unlocked, four missed marks in a row end that count, and the next good mark anchors it anew (DEDUCED, log entry 114). -/
def Dev.missedMark (d : Dev) (p : Nat) : Dev :=
  let d := d.updPk p fun k => { k with goodMarks := 0, missedMarks := min 4 (k.missedMarks + 1) }
  match (d.servoS p).expect with
  | some e =>
    let stray := !d.on .pkMtoLock [p] && decide (4 ≤ (d.pkS p).missedMarks)
    ((d.passMark p e.angle).updServo p fun k => { k with expect := if stray then none else some e.next }).rowBegins p
  | none => d

/-- RAIL_ADDRESS_MARK, R18, R52: the 40 bits of a mark, decoded within ±2 channel bits of its predicted position
(`near`). A CRC that fails counts as a miss, and so does a LAYER, BAND or ANGLE other than counting periods from the last
good mark predicts. -/
def execRailAddressMark (p : Fin 32) (near : Bool) (word : Nat) (s : State) : Host.Outcome State Fault Refusal :=
  act s fun d =>
    match railAddress word with
    | none => d.missedMark p
    | some (layer, band, angle) =>
      let m : Mark := { layer := layer, band := band, angle := angle }
      let fits : Bool := match (d.servoS p).expect with | some e => e == m | none => true
      if near && fits then d.goodMark p m else d.missedMark p

/-- MTO_LOCK, R17, R18, R180, R208: eight consecutive good marks, at a channel rate of 0.10 Gbit/s to 1.60 Gbit/s. The deskew of every enabled spot but S0 is verified, and the
spindle tries the handover to media angle again. -/
def execMtoLock (p : Fin 32) (s : State) : Host.Outcome State Fault Refusal :=
  act s fun d =>
    if d.on .pkMtoLock [p] ∨ (d.pkS p).goodMarks < 8 ∨ !d.channelRuns p ∨ 1600000000 < d.channelRate p then d
    else
      let d := (d.wr .pkMtoLock [p] 1).updPk p fun k => { k with marked := false }
      let d := d.updServo p fun k => { k with sinceLock := 0 }
      let d := ((List.range 15).map (· + 1)).foldl (fun (d : Dev) sp =>
        if d.spotOn p sp then (d.wr .rcDeskewStatus [p, sp] 1).updSpot p sp fun q => { q with check := 16, found := [] } else d) d
      d.updSpin (spindleOf p) fun k => { k with trying := true, mismatchPosted := false }

/-- MTO_UNLOCK, R18, R19, R240: four consecutive missed marks. The MTO holds its frequency; the row being written is abandoned, and
the reads under way fail with outcome RAIL. -/
def execMtoUnlock (p : Fin 32) (s : State) : Host.Outcome State Fault Refusal :=
  serve s fun d =>
    let k := d.pkS p
    if !d.on .pkMtoLock [p] ∨ k.missedMarks < 4 then d
    else
      let d := (((d.loseVerify p).railReads p).wr .pkMtoLock [p] 0).abandonNow p abRail
      let d := d.updServo p fun q => { q with expect := none }
      match k.marked, k.lastMark with
      | true, some m => d.raisePk p 21 evRailUnlock ([m.layer] ++ le 4 m.band)
      | _, _ => d.raisePk p 21 evRailUnlock ([0xFF] ++ le 4 0xFFFFFFFF)

/-! ### Wedges (R56 to R58, R123 to R128, R258 to R260) -/

/-- R208, R211: the offset in channel bits at which a spot has found the mark of a wedge. -/
def Dev.markAt (d : Dev) (p sp : Nat) (offset : Int) : Dev :=
  d.updSpot p sp fun q => { q with
    found := if q.check = 0 then [] else q.found ++ [offset],
    offset := offset, offsetRun := if q.offset = offset then min 16 (q.offsetRun + 1) else 1 }

/-- A wedge without the mark breaks a run of equal offsets (R211). -/
def Dev.markMissed (d : Dev) (p sp : Nat) : Dev :=
  if (d.spotS p sp).offsetRun = 0 then d else d.updSpot p sp fun q => { q with offsetRun := 0 }

/-- WEDGE, R56, R126 to R128, R208, R211: a spot that is enabled and has not had this wedge, which is not over, finds its servo address mark. An index field
that fails its parity or names another wedge than the rail's makes it a missed one. -/
def execWedge (p : Fin 32) (sp : Fin 16) (index : Nat) (a b c d : Nat) (offset : Int) (s : State) :
    Host.Outcome State Fault Refusal :=
  act s fun x =>
    let x := x.wedgeSettle p
    if !x.spotOn p sp ∨ (x.servoS p).wedgeOver ∨ (x.servoS p).reported.contains sp.val then x
    else if indexField index ≠ some (x.servoS p).wedge then (x.markMissed p sp).missWedge p sp
    else
      let x := x.markAt p sp offset
      let x := if 1 ≤ sp.val ∧ sp.val ≤ 7 then x.laneBursts p sp a b c d else x
      x.wedgeSpot p sp

/-- WEDGE_TIMER_EXPIRY, R126, R128: the search of a spot ends without a mark. -/
def execWedgeTimerExpiry (p : Fin 32) (sp : Fin 16) (s : State) : Host.Outcome State Fault Refusal :=
  act s fun d =>
    let d := d.wedgeSettle p
    if !d.spotOn p sp ∨ (d.servoS p).wedgeOver ∨ (d.servoS p).reported.contains sp.val then d else (d.markMissed p sp).missWedge p sp

/-- WEDGE_STALE, R127, R258: four consecutive wedges without a valid ek of lane k = lane + 1. -/
def execWedgeStale (p : Fin 32) (lane : Fin 7) (s : State) : Host.Outcome State Fault Refusal :=
  act s fun d =>
    let ix := pjIx p ++ [lane.val]
    if d.on .wdStale ix ∨ tget 0 (d.servoS p).missed (lane.val + 1) < 4 then d
    else
      let d := (d.wr .wdStale ix 1).raisePk p 17 evWedgeStale [lane.val + 1]
      (d.updPk p fun k => { k with goodWedges := 0 }).closeGate p abGateTrack

/-! ### Focus capture and losses (R132 to R134) -/

/-- The frame with the SA set-point has not gone out yet. -/
def Dev.saWaits (d : Dev) (p : Nat) : Bool := (d.pkS p).frames.any fun (f : Frame) => f.op == 1 && f.reg == 0x0B

/-- FOCUS_SEARCH, R132 step 2: SEARCH from −SEARCH_AMP, 2.0 ms after the frame with SA has ended, and not while the axis is being
measured (R506). -/
def execFocusSearch (p : Fin 32) (s : State) : Host.Outcome State Fault Refusal :=
  act s fun d =>
    match (d.servoS p).cap with
    | none => d
    | some c =>
      if c.step ≠ CapStep.corrector ∨ d.saWaits p ∨ d.axisMeasured p 0 then d
      else (d.seqAx p 0 axSearch).updServo p fun k => { k with cap := some { c with step := .sweep, samples := 0, lastX := none } }

/-- FOCUS_SWEEP_END, R132: a second sweep, or FOCUS_FAIL with the axis OFF. A homing that needed the focus has no radius to
read, and fails with cause READ. -/
def execFocusSweepEnd (p : Fin 32) (s : State) : Host.Outcome State Fault Refusal :=
  serve s fun d =>
    match (d.servoS p).cap with
    | none => d
    | some c =>
      if c.step ≠ CapStep.sweep ∨ c.samples < d.sweepLength p then d
      else if c.sweep = 1 then
        d.updServo p fun k => { k with cap := some { c with sweep := 2, samples := 0, lastX := none } }
      else
        let d := (d.raiseMotion p 16 evFocusFail).seqAx p 0 axOff
        let d := d.motionLost p detFocus
        d.homeFails p 2 5

/-- FOCUS_LOSS, R133, R134: HOLD, and in AUTO focus is captured on L0 again, to return to the present layer. A homing in
progress goes on without. -/
def execFocusLoss (p : Fin 32) (s : State) : Host.Outcome State Fault Refusal :=
  serve s fun d =>
    let k := d.servoS p
    if !d.closed p 0 ∨ (k.envLow < 8 ∧ k.focusHigh < 4) then d
    else
      let L := (d.pkS p).layer
      let d := (d.raisePk p 16 evFocusLoss [L]).setAx p 0 axHold
      let back := k.returnTo.getD (match k.jump with | some j => j.target | none => L)
      if d.axMode p 0 = 0 then
        (d.updServo p fun q => { q with returnTo := some back }).beginCapture p
      else d

/-- TRACK_LOSS, R133, R134: HOLD, and in AUTO a re-seek of the band last followed. The model asks for AUTO of the tracking axis
and of the sled, and makes no re-seek while a seek, a homing, a jump or a focus capture is in progress (DESIGN CHOICE, log
entry 115). -/
def execTrackLoss (p : Fin 32) (s : State) : Host.Outcome State Fault Refusal :=
  serve s fun d =>
    let k := d.servoS p
    if !d.closed p 1 ∨ k.trackHigh < 4 then d
    else
      let band := (d.pkS p).bandFollowed
      let d := (d.raisePk p 17 evTrackLoss (le 4 (band.getD 0xFFFFFFFF))).setAx p 1 axHold
      match band with
      | none => d
      | some b =>
        let angle := ((d.pkS p).lastMark.map Mark.angle).getD 0
        if d.sledAuto p && d.pickupQuiet p && k.cap.isNone && d.axMode p 1 == 0 then
          (d.setSeek p { band := b, angle := angle, layer := (d.pkS p).layer, recovery := true }).trySeek p
        else d

/-! ### Layer jumps (R135 to R138) -/

/-- LAYER_JUMP_START, R135: with focus CLOSED, no row being written and no other motion on the pickup. -/
def execLayerJumpStart (p : Fin 32) (layer : Fin 4) (s : State) : Host.Outcome State Fault Refusal :=
  act s fun d =>
    let L := (d.pkS p).layer
    if d.pickupQuiet p && (d.servoS p).cap.isNone && d.closed p 0 && d.axMode p 0 == 0 && decide (L ≠ layer.val) then
      d.jumpTo p L layer 1
    else d

/-- The next step of a jump, in a step whose length has been reached. -/
def Dev.advanceJump (d : Dev) (p : Nat) (j : Jump) (step : JumpStep) : Dev :=
  d.updServo p fun k => { k with jump := some { j with step := step, samples := 0 } }

/-- LAYER_JUMP_KICK, R135 to R137: 2.0 ms after the frame with SA has ended, the kick begins; all four axes leave CLOSED, and tracking, tilt and yaw hold. -/
def execLayerJumpKick (p : Fin 32) (s : State) : Host.Outcome State Fault Refusal :=
  act s fun d =>
    match (d.servoS p).jump with
    | some j =>
      if j.step = .corrector ∧ !d.saWaits p then ((d.seqAx p 0 axJump).seqAxes p axHold [1, 2, 3]).advanceJump p j .kick else d
    | none => d

/-- LAYER_JUMP_COAST, R136: KICK_N samples have passed. -/
def execLayerJumpCoast (p : Fin 32) (s : State) : Host.Outcome State Fault Refusal :=
  act s fun d =>
    match (d.servoS p).jump with
    | some j => if j.step = .kick ∧ d.rd .jpKickN (pjIx p) ≤ j.samples then d.advanceJump p j .coast else d
    | none => d

/-- LAYER_JUMP_BRAKE, R136: |x| has risen above BRAKE_THR and fallen below it, or COAST_MAX samples have passed. -/
def execLayerJumpBrake (p : Fin 32) (s : State) : Host.Outcome State Fault Refusal :=
  act s fun d =>
    match (d.servoS p).jump with
    | some j =>
      if j.step = .coast ∧ (j.triggered ∨ d.rd .jpCoastMax (pjIx p) ≤ j.samples) then d.advanceJump p j .brake else d
    | none => d

/-- LAYER_JUMP_CAPTURE, R137: BRAKE_N samples have passed; focus is CLOSED with its frozen integrator. -/
def execLayerJumpCapture (p : Fin 32) (s : State) : Host.Outcome State Fault Refusal :=
  act s fun d =>
    match (d.servoS p).jump with
    | some j =>
      if j.step = .brake ∧ d.rd .jpBrakeN (pjIx p) ≤ j.braked then
        (d.seqAx p 0 axClosed).advanceJump p { j with within := 0 } .window
      else d
    | none => d

/-- LAYER_JUMP_WINDOW_END, R137: CAPT_N samples have passed; tracking, tilt and yaw close. -/
def execLayerJumpWindowEnd (p : Fin 32) (s : State) : Host.Outcome State Fault Refusal :=
  act s fun d =>
    match (d.servoS p).jump with
    | some j =>
      if j.step = .window ∧ d.rd .jpCaptN (pjIx p) ≤ j.samples then
        (d.seqAxes p axClosed [1, 2, 3]).advanceJump p j .confirm
      else d
    | none => d

/-- A one-layer jump has succeeded: the next one, the way back to the layer wanted, or the end. -/
def Dev.jumpDone (d : Dev) (p : Nat) (j : Jump) : Dev :=
  let d := d.updPk p fun k => { k with layer := j.next }
  if j.next ≠ j.target then d.jumpTo p j.next j.target 1 else d.arrived p j.target

/-- R138: a jump has failed: a retry after a capture on the nearest layer, after the third failure the way over L0, and
when that fails LAYER_JUMP_FAIL with MEDIA for what needed the jump. -/
def Dev.jumpFails (d : Dev) (p : Nat) (j : Jump) (found : Nat) : Dev :=
  if (d.servoS p).lastChance then
    (d.raiseMotion p 16 evLayerJumpFail [(d.servoS p).returnTo.getD j.target]).motionLost p detLayerJump
  else
    let d := d.raiseMotion p 16 evLayerJumpRetry [found, j.target]
    if j.attempt < 3 then
      let c : FocusCap := { step := .sweep, retry := true, centre := (d.axS p 0).held }
      (d.seqAx p 0 axSearch).updServo p fun k => { k with cap := some c, jump := some { j with step := .recapture } }
    else
      let back := (d.servoS p).returnTo.getD j.target
      let d := d.updServo p fun k => { k with returnTo := some back, lastChance := true }
      ((d.seqAx p 0 axHold).seqAxes p axHold [1, 2, 3]).beginCapture p

/-- LAYER_JUMP_CONFIRM, R137, R138: the brake was triggered by BRAKE_THR, |x| stayed within CAPT_TOL for the last 40 samples,
MTO p has locked and a mark reads the target layer; else the jump has failed. -/
def execLayerJumpConfirm (p : Fin 32) (layer : Option (Fin 4)) (s : State) : Host.Outcome State Fault Refusal :=
  serve s fun d =>
    match (d.servoS p).jump with
    | some j =>
      if j.step ≠ .confirm then d
      else if j.triggered && decide (40 ≤ j.within) && d.on .pkMtoLock [p] && (layer.map Fin.val) == some j.next then
        d.jumpDone p j
      else d.jumpFails p j ((layer.map Fin.val).getD 0xFF)
    | none => d

end Sys2Proof.Machine
end

