-- ==== Sys2Proof/Machine/Load.lean ====
section
/-! DEFINITION. MEDIA_LOAD, MEDIA_UNLOAD, SPINDLE_SET and TRACE_READ (chapters 02, 04, 05, 06, 10 and 12): what a load takes
from the discs and the catalogue and how it sets the surfaces up. -/

namespace Sys2Proof.Machine

/-! ### Format words (R45, R49) -/

/-- R49: the format word of a layer: that of the first of 16 revolutions whose CRC checks. -/
def formatWord (revolutions : List Nat) : Option Nat :=
  (revolutions.take 16).find? fun w => crc16 80 (w / 2 ^ 16) == w % 2 ^ 16

/-- The format words that surface p gives, layer by layer. -/
def formatWords (x : LoadRead) (p : Nat) : List (Nat × Option Nat) :=
  (List.range 4).map fun L => (L, (x.formats.find? fun f => f.1 == p && f.2.1 == L).bind fun f => formatWord f.2.2)

/-- R45: each surface that was read, whether some layer gives a word of version 0x01, and the disc serial that word holds. -/
def loadSurfaces (x : LoadRead) : List (Nat × Bool × Nat) :=
  ((List.range 32).filter fun p => x.formats.any fun f => f.1 == p).map fun p =>
    match ((formatWords x p).filterMap Prod.snd).find? fun w => w / 2 ^ 88 == 1 with
    | some w => (p, true, w / 2 ^ 16 % 2 ^ 64)
    | none => (p, false, 0)

/-! ### The scan of the catalogue (R71, R72) -/

/-- The lanes of copy i in a row that was read. -/
def copyLanes (row : List (List CatBlock)) (i : Nat) : List CatBlock := row.getD i []

/-- The copies, as surfaces, that can be read: formatted, named by the load, with a present pickup, and yielding something
other than failed blocks at some position. -/
def loadCopies (x : LoadRead) (able : List Nat) : List Nat :=
  ([0, 1, 2, 3].filter fun i =>
    able.contains (9 * i) && x.catalogue.any fun row => (copyLanes row i).any fun b => b != CatBlock.failed).map (9 * ·)

/-- R71: the rows up to the first at which every lane of every readable copy is BLANK. -/
def loadScanned (x : LoadRead) (copies : List Nat) : List (List (List CatBlock)) :=
  x.catalogue.takeWhile fun row =>
    !([0, 1, 2, 3].all fun i => !copies.contains (9 * i) || (copyLanes row i).all fun b => b == CatBlock.blank)

/-- R71: at a position, the block of the first readable copy that decodes with a good CRC. -/
def chosenBlock (copies : List Nat) (row : List (List CatBlock)) (lane : Nat) : Option Bytes :=
  [0, 1, 2, 3].findSome? fun i =>
    if !copies.contains (9 * i) then none
    else match (copyLanes row i).getD lane .failed with
      | .good b => some b
      | _ => none

/-- The record slots of the scanned rows in append order; a position that no copy yields is passed over. -/
def loadSlots (x : LoadRead) (copies : List Nat) : List Bytes :=
  (loadScanned x copies).flatMap fun row => (List.range 7).flatMap fun lane =>
    match chosenBlock copies row lane with
    | some b => (List.range 128).map fun i => slice b (512 * i) 512
    | none => []

/-! ### What the catalogue says (R71 to R73, R384, R385, R392, R403) -/

/-- n 4-byte values from a byte of a body. -/
def words (b : Bytes) (pos n : Nat) : List Nat := (List.range n).map fun i => ofLe (slice b (pos + 4 * i) 4)

/-- REALLOC records (Table 09-4): old position, new position, level. -/
def movesOf (rs : List CatRec) : List (Nat × Nat × Nat) :=
  (rs.filter fun r => r.rtype == 0x0020).map fun r =>
    (ofLe (slice r.body 0 4), ofLe (slice r.body 4 4), r.body.getD 8 0)

/-- The moves that REALLOC records give of one block, known by its TAKE_ID and TAKE_OFFSET. -/
def movesFor (rs : List CatRec) (take offset : Nat) : Tab Nat :=
  (rs.filter fun r => r.rtype == 0x0020 && ofLe (slice r.body 12 8) == take && ofLe (slice r.body 20 8) == offset).foldl
    (fun t r => tset t (ofLe (slice r.body 0 4)) (ofLe (slice r.body 4 4))) []

/-- The stripe of a part 0 record (Table 12-4), its UCRCs taken from every part. -/
def stripeOf (rs : List CatRec) (r : CatRec) : Stripe :=
  let b := r.body
  let geometry := b.getD 27 0
  let dd := geometryD geometry
  let G := dd + geometryM geometry
  let id := ofLe (slice b 16 8)
  let part := fun (n : Nat) => match rs.find? fun (x : CatRec) =>
      x.rtype == r.rtype && ofLe (slice x.body 16 8) == id && x.body.getD 24 0 == n with
    | some x => words x.body 32 110
    | none => List.replicate 110 0
  let mask := bitsOf (ofLe (slice b 28 28)) (7 * dd)
  let rows := (words b 56 G).map fun a => if a = 0xFFFFFFFF then none else some a
  let lanes := (mask.map (· % 7)).eraseDups
  let keys := mask ++ (List.range (G - dd)).flatMap fun j => lanes.map fun l => 7 * (dd + j) + l
  -- MEMBER_ROW is the row first allocated; lanes that moved later are found through their REALLOC records
  let range := 7 * dd * ofLe (slice b 8 8)
  let pbas := keys.filterMap fun i => (rows.getD (i / 7) none).map fun a =>
    let moves := movesFor rs (ofLe (slice b 0 8)) (if i < 7 * dd then range + i else range)
    (i, follow moves (moves.length + 1) (a + 2 ^ 17 * (i % 7 + 1)))
  { id := id, take := ofLe (slice b 0 8), range := ofLe (slice b 8 8), group := b.getD 26 0, geometry := geometry,
    mask := mask, surfaces := rows.map fun a => match a with | some a => pbaSurface a | none => 0xFF,
    rows := rows, ucrc := (words b 184 72 ++ part 1 ++ part 2).take (7 * G), first := r.rtype == 0x0010,
    pbas := pbas.foldl (fun t e => tset t e.1 e.2) [], recSeqs := [r.seq] }

/-- The stripes of the log, in SEQ order. -/
def stripesOf (rs : List CatRec) : List Stripe :=
  (rs.filter fun r => (r.rtype == 0x0010 || r.rtype == 0x0011) && r.body.getD 24 0 == 0).map (stripeOf rs)

/-- The positions that stand for another: those of the REALLOC records that no block of a stripe has come to hold since (a lane
that runs behind leaves its member's row, whose lane the block before it takes: Table 08-9, log entry 26). -/
def movedOf (rs : List CatRec) (ss : List Stripe) : Tab Nat :=
  let held := ss.flatMap fun s => s.pbas.map Prod.snd
  (movesOf rs).foldl (fun t m => if held.contains m.1 then t else tset t m.1 m.2.1) []

/-- R392: the blocks of a take as its stripes, in SEQ order, place them. -/
def mapStripe (t : Tab TBlk) (s : Stripe) : Tab TBlk :=
  s.mask.foldl (fun t i =>
    tset t (7 * geometryD s.geometry * s.range + i)
      { stripe := some s.id, pba := tfind s.pbas i, ucrc := s.ucrc.getD i 0 }) t

/-- A take as the log gives it: CLOSED by its TAKE_CLOSE record (Table 12-8), else UNCLOSED with the length of R403. -/
def takeOf (rs : List CatRec) (ss : List Stripe) (id : Nat) : Take :=
  let mine := ss.filter fun s => s.take == id
  let blocks := mine.foldl mapStripe []
  let flagged := rs.any fun r => r.rtype == 0x0040 && ofLe (slice r.body 0 8) == id
  let t : Take := { id := id, state := .unclosed, blocks := blocks, stripes := mine.length,
                    length := blocks.foldl (fun n e => max n (65536 * (e.1 + 1))) 0, flagged := flagged }
  match rs.find? fun r => r.rtype == 0x0012 && ofLe (slice r.body 8 8) == id with
  | some r =>
    let b := r.body
    { t with state := .closed, cert := slice b 0 176, label := slice b 176 32, length := ofLe (slice b 16 8),
             closeTime := ofLe (slice b 24 8), openTime := ofLe (slice b 104 8) }
  | none => t

/-- Every take of the log. -/
def takesOf (rs : List CatRec) (ss : List Stripe) : List Take :=
  let closed := (rs.filter fun r => r.rtype == 0x0012).map fun r => ofLe (slice r.body 8 8)
  ((ss.map Stripe.take ++ closed).eraseDups).map (takeOf rs ss)

/-- DEFECT records of a surface (Table 09-3): dead positions, and abandoned rows with their layers. -/
def deadOf (rs : List CatRec) (p : Nat) : List Nat :=
  (rs.filter fun r => r.rtype == 0x0021 && r.body.getD 0 0 == p).flatMap fun r => words r.body 4 (r.body.getD 1 0)
def abandonedOf (rs : List CatRec) (p : Nat) : List (Nat × Nat) :=
  (rs.filter fun r => r.rtype == 0x0021 && r.body.getD 0 0 == p).flatMap fun r =>
    let base := 4 + 4 * r.body.getD 1 0
    (List.range (r.body.getD 2 0)).flatMap fun i =>
      let e := slice r.body (base + 8 * i) 8
      (List.range (ofLe (slice e 2 2))).map fun k => (e.getD 0 0, ofLe (slice e 4 4) + k)

/-- Rows of a surface that the log names as allocated, with their lanes: key 2^17 × L + row. -/
def rowsOf (rs : List CatRec) (ss : List Stripe) (p : Nat) : Tab (List Nat) :=
  let places := (ss.flatMap fun s => s.pbas.map Prod.snd) ++ ((movesOf rs).flatMap fun m => [m.1, m.2.1]) ++ deadOf rs p
  let t := places.foldl (fun (t : Tab (List Nat)) a =>
    if pbaSurface a ≠ p then t
    else
      let key := 2 ^ 17 * pbaLayer a + pbaRow a
      tset t key ((tfind t key).getD [] ++ [pbaLane a])) []
  (abandonedOf rs p).foldl (fun t x => tset t (2 ^ 17 * x.1 + x.2) []) t

/-- The row after the highest one of layer L in a table of rows, between two bounds. -/
def nextRowOf (t : Tab (List Nat)) (L lo hi : Nat) : Nat :=
  t.foldl (fun n e => if e.1 / 2 ^ 17 = L ∧ lo ≤ e.1 % 2 ^ 17 ∧ e.1 % 2 ^ 17 < hi then max n (e.1 % 2 ^ 17 + 1) else n) lo

/-- R73: of the recorded rows found on surface p: those that count as abandoned (no lanes), because a block's epoch is one that
no accepted record covers, or because the row fails its CRC after the last row the catalogue records as allocated; the others
with their lanes. Spare rows count as user rows do, one lane decides for its row, and the last row recorded as allocated is the
highest that a stripe, REALLOC or DEFECT record names (DESIGN CHOICE, log entry 156). -/
def strayRows (rs : List CatRec) (known : Tab (List Nat)) (found : List FoundRow) (p : Nat) : List (Nat × Nat × List Nat) :=
  (found.filter fun f => f.surface == p).map fun f =>
    let stray := f.lanes.any fun e => !(rs.any fun r => r.epoch == e.2.1)
    let (lo, hi) := if f.row < 98400 then (0, 98400) else (98400, 100000)
    let torn := (f.lanes.any fun e => !e.2.2) && decide (nextRowOf known f.layer lo hi ≤ f.row)
    (f.layer, f.row, if stray || torn then [] else f.lanes.map Prod.fst)

/-- Test bands used up at an end of layer L of surface p (Table 08-8). -/
def bandsOf (rs : List CatRec) (p L side : Nat) : List Nat :=
  (rs.filter fun r => r.rtype == 0x0030 && r.body.getD 0 0 == p && r.body.getD 1 0 == L && r.body.getD 2 0 == side).map
    fun r => ofLe (slice r.body 4 2)

/-! ### The volume -/

/-- R385: why a member surface is missing. -/
def missingCause (mask : Nat) (surfaces : List (Nat × Bool × Nat)) (present : Nat → Bool) (serial p : Nat) : Option Nat :=
  if !mask.testBit p then some 0
  else if !present p then some 2
  else match surfaces.find? fun s => s.1 == p with
    | none => some 1
    | some (_, formatted, found) => if !formatted then some 1 else if found ≠ serial then some 3 else none

/-- Table 12-2: the volume of a VOLUME record. -/
def volumeOf (b : Bytes) : Volume :=
  { id := ofLe (slice b 0 8), geometry := b.getD 8 0, groups := b.getD 9 0, members := bitsOf (ofLe (slice b 12 4)) 32,
    positions := slice b 16 32, serials := (List.range 32).map fun p => (p, ofLe (slice b (48 + 8 * p) 8)) }

/-- R384: the members and their places, when enough surfaces qualify. -/
def newVolume (id geometry : Nat) (able : List Nat) (serials : List (Nat × Nat)) : Option Volume :=
  let G := geometryD geometry + geometryM geometry
  let groups := able.length / G
  if groups = 0 then none
  else
    let members := able.take (G * groups)
    some { id := id, geometry := geometry, groups := groups, members := members,
           positions := members ++ List.replicate (32 - members.length) 0xFF,
           serials := (List.range 32).map fun p => (p, if members.contains p then tget 0 serials p else 0) }

/-- Table 12-2. -/
def Dev.volumeBody (d : Dev) (v : Volume) : Bytes :=
  le 8 v.id ++ [v.geometry, v.groups] ++ le 2 (d.rd .glDevnum []) ++ le 4 (maskOf v.members) ++ slice v.positions 0 32
    ++ (v.serials.flatMap fun e => le 8 e.2) ++ le 8 (d.rd64 .svHostTimeLo .svHostTimeHi [])

/-- Table 12-3: EPOCH_OPEN, the first record of an epoch (R72). -/
def Dev.epochBody (d : Dev) (volume : Nat) : Bytes :=
  le 2 (d.rd .glDevnum []) ++ zeros 6 ++ ((List.range 8).flatMap fun w => le 4 (d.rd .scFwDigest [w]))
    ++ le 8 (d.rd64 .svHostTimeLo .svHostTimeHi []) ++ le 8 volume

/-- Geometries above 4 are geometry 0 (Table 12-1). -/
def geometryTaken (g : Nat) : Nat := if g ≤ 4 then g else 0

/-- A fresh catalogue from the log: the epoch (R72), the SEQ that follows, and the first free row. -/
def catalogueOf (rs : List CatRec) (copies : List Nat) (rows : Nat) : Catalogue :=
  { records := rs, nextSeq := Config.firstSeq.toNat + rs.length, epoch := rs.foldl (fun n r => max n r.epoch) 0 + 1, nextRow := rows,
    copies := copies }

/-- The event source of the volume. -/
def volumeSrc : Nat := 0x701

/-- The volume of the load: the one the log names, with its missing members (R385), or a new one (R384). -/
def Dev.openVolume (d : Dev) (o : Origin) (rs : List CatRec) (mask : Nat) (surfaces : List (Nat × Bool × Nat)) (copies : List Nat) : Dev :=
  let present := fun (p : Nat) => d.on .pkPresent [p]
  match rs.find? fun r => r.rtype == 0x0002 with
  | some r =>
    let v := volumeOf r.body
    let gone := v.members.filterMap fun p => (missingCause mask surfaces present (tget 0 v.serials p) p).map fun c => (p, c)
    let d := { d with volume := some { v with missing := gone.map Prod.fst } }
    let d := d.append1 0x0001 (d.epochBody v.id)
    let d := d.wr64 .svLoadedIdLo .svLoadedIdHi [] v.id
    gone.foldl (fun (d : Dev) e => (d.setUnavailable e.1 unMissing true).raiseFor [o] volumeSrc evMemberMissing [e.1, e.2]) d
  | none =>
    let able := (bitsOf mask 32).filter fun p => present p && surfaces.any fun s => s.1 == p && s.2.1
    let serials := surfaces.map fun s => (s.1, s.2.2)
    let id := d.rd64 .svVolIdLo .svVolIdHi []
    let v := if copies = [] then none else newVolume id (geometryTaken (d.rd .svGeometry [])) able serials
    let d := d.append1 0x0001 (d.epochBody ((v.map Volume.id).getD 0))
    match v with
    | none => d
    | some v =>
      let d := ({ d with volume := some v }).append1 0x0002 (d.volumeBody v)
      (d.wr64 .svLoadedIdLo .svLoadedIdHi [] id).raiseFor [o] volumeSrc evVolumeCreated (le 8 id ++ le 4 (maskOf v.members))

/-! ### The surfaces -/

/-- Fields of some kinds take their reset value on every element. -/
def Dev.clearRows (d : Dev) (rows : List Row) : Dev :=
  { d with regs := d.regs.filter fun (r : Fld × Nat) => !rows.contains r.1.row }

/-- Surface p as the load finds it: the rows ever allocated, the next rows, the defect list, the test bands. -/
def Dev.loadSurface (d : Dev) (rs : List CatRec) (ss : List Stripe) (mask : Nat) (surfaces : List (Nat × Bool × Nat))
    (read : LoadRead) (p : Nat) : Dev :=
  let known := rowsOf rs ss p
  let strays := strayRows rs known read.rows p
  let rows := strays.foldl (fun (t : Tab (List Nat)) f => tset t (2 ^ 17 * f.1 + f.2.1) f.2.2) known
  let lost := (strays.filter fun f => f.2.2.isEmpty).map fun f => (f.1, f.2.1)
  let dead := deadOf rs p
  let gone := abandonedOf rs p ++ lost
  let moved := (movesOf rs).filter fun m => pbaSurface m.1 == p && m.2.2 != 0xFF
  let ok := surfaces.any fun s => s.1 == p && s.2.1
  let used := (List.range 4).filter fun L => (bandsOf rs p L 0).contains 65535
  let opc : Tab Opc := used.foldl (fun t L => tset t L { innerUsed := true }) []
  let d := d.updPk p fun k => { k with
    loaded := mask.testBit p, formatted := ok,
    unreadable := ((formatWords read p).filter fun e => e.2.isNone).map Prod.fst, queues := [[], [], [], [], [], [], []], rows := [], verify := [], sick := [],
    opc := opc, realloc := [], dead := [], abandoned := lost, occupied := rows, deadAll := dead, sparesOut := false,
    reserved := false, settling := none, readOut := [], rowBegun := none, reading := [], passRow := none, passLanes := [], passSpots := [], known := [] }
  let d := ((d.wr .defectDead [p] dead.length).wr .defectAbandoned [p] gone.length).wr .defectReallocFrom [p] moved.length
  let d := (List.range 4).foldl (fun (d : Dev) L =>
      let d := (d.wr .rowNext [p, L] (nextRowOf rows L 0 98400)).wr .rowSpareNext [p, L] (nextRowOf rows L 98400 100000)
      let inner := (bandsOf rs p L 0).foldl (fun n b => max n (min 65535 (b + 1))) 65432
      let outer := (bandsOf rs p L 1).foldl (fun n b => max n (b + 1)) 18229
      (d.wr .opcBandIn [p, L] inner).wr .opcBandOut [p, L] outer) d
  if ok then (List.range 4).foldl (fun (d : Dev) L => d.spareEvents p L) d else d

/-- R275: OPC is due on every layer of the surface that holds a free user row. -/
def Dev.loadOpc (d : Dev) (p : Nat) : Dev :=
  if !d.surfaceOk p then d
  else (List.range 4).foldl (fun (d : Dev) L => if d.rd .rowNext [p, L] < 98400 then d.wantOpc p L else d) d

/-- The target a load gives to a spindle: the manual states none but that homing needs 1,200 rpm to 12,000 rpm. -/
def loadTarget : Nat := 1200 + Config.loadSpeed % 10801

/-- The spindles of the load: those under CMDSRC RING turn, and the time out of RUN counts from the load (R394). -/
def Dev.loadSpindles (d : Dev) (mask : Nat) : Dev :=
  ((List.range 16).filter fun n => mask.testBit (2 * n) || mask.testBit (2 * n + 1)).foldl (fun (d : Dev) n =>
    let out := if d.spSt n = spRun then none else some d.time
    let d := d.updSpin n fun k => { k with outSince := out, replaced := false }
    if d.rd .spCmdsrc [n] = 0 then d.setTarget n loadTarget else d) d

/-- Table 10-7: unformatted surfaces and degraded catalogue copies. -/
def loadResult (mask : Nat) (surfaces : List (Nat × Bool × Nat)) (copies : List Nat) : Nat :=
  let bad := (bitsOf mask 32).filter fun p => !(surfaces.any fun s => s.1 == p && s.2.1)
  let degraded := (List.range 4).filter fun i => !copies.contains (9 * i)
  maskOf bad + 2 ^ 32 * maskOf degraded

/-- R179: the offset of every side is to be learned anew. -/
def Dev.oweOffsets (d : Dev) : Dev :=
  (List.range 16).foldl (fun (d : Dev) n =>
    d.updSpin n fun k => { k with learn := [[], []], learnOwed := [true, true] }) d

/-- R247: the blocks that the scan decoded count on their lanes and in the histograms of their spots. -/
def Dev.countScan (d : Dev) (l : List ScanRead) : Dev :=
  l.foldl (fun (d : Dev) x =>
    let out := if x.passed then 0 else 4
    (d.countWords x.pickup x.lane x.words).countBlock (pbaOf x.pickup 0 x.lane 0)
      { outcome := out, fly := x.fly, shifted := x.shifted }) d

/-- The effect of a MEDIA_LOAD that starts. In AUTO it homes the sled of every present pickup, named or not (R164). -/
def Dev.load (d : Dev) (o : Origin) (mask : Nat) (read : LoadRead) : Dev :=
  let d := ((d.presence [o] read.answers).oweOffsets).countScan read.reads
  let surfaces := loadSurfaces read
  let able := (surfaces.filter fun s => s.2.1 && mask.testBit s.1 && d.on .pkPresent [s.1]).map Prod.fst
  let copies := loadCopies read able
  let rows := (loadScanned read copies).length
  let rs := acceptRecords Config.firstSeq.toNat (loadSlots read copies)
  let ss := stripesOf rs
  let d := d.clearRows [.rowAlloc, .rowWritten, .rowAbandoned, .rowInprog, .wsValid, .opcStatus, .spLearned,
    .svCursorLo, .svCursorHi, .svPasses]
  let next := ss.foldl (fun n s => max n (s.id + 1)) 0
  let d := { d with cat := catalogueOf rs copies rows, stripes := ss, takes := takesOf rs ss, moved := movedOf rs ss,
                    nextStripe := next, unavailable := d.unavailable.filter fun u => u.2 == unThermal, blks := [], ladder := [], railWait := [], scrub := {} }
  let d := ((d.wr64 .svStripesLo .svStripesHi [] next).wr .rvActive [] 0).takeCounts
  let d := (List.range 32).foldl (fun (d : Dev) p => d.loadSurface rs ss mask surfaces read p) d
  let d := (d.openVolume o rs mask surfaces copies).postCatalogFull [o]
  let ps := (List.range 32).filter fun p => d.on .pkPresent [p]
  let d := ps.foldl (fun (d : Dev) p => d.updSled p fun k => { k with homeBlocked := false }) d
  let owed := ps.filter fun p => d.sledAuto p && !d.on .slFault [p]
  let d := (bitsOf mask 32).foldl (fun (d : Dev) p => d.loadOpc p) (d.loadSpindles mask)
  d.updCmd o fun c => { c with phase := .running, arg2 := loadResult mask surfaces copies, homing := owed }

/-- Another MEDIA_LOAD or a MEDIA_UNLOAD is in progress (R326). -/
def Dev.loadBusy (d : Dev) (o : Origin) : Bool :=
  d.cmds.any fun (c : Cmd) => (c.op == 0x18 || c.op == 0x19) && c.origin != o

/-- MEDIA_LOAD, R71 to R73, R95, R164, R275, R326, R384, R385, R419, R526. -/
def execMediaLoad (r : Fin 256) (cookie mask : Nat) (read : LoadRead) (s : State) : Host.Outcome State Fault Refusal :=
  descriptor r { origin := .ring r 0, op := 0x18, cookie := cookie, arg := mask } s fun d o =>
    if !d.on .bsReady then d.refuse o clsResource detBasinNotReady
    else if d.loadBusy o ∨ d.boot.fwLoad.isSome then d.refuse o clsResource detBusy
    else if d.loadInForce then d.refuse o clsResource detAlreadyLoaded
    else d.load o mask read

/-- MEDIA_UNLOAD, R301, R326, R403: open takes are committed and become UNCLOSED; without a load it stops the spindles. -/
def execMediaUnload (r : Fin 256) (cookie : Nat) (s : State) : Host.Outcome State Fault Refusal :=
  descriptor r { origin := .ring r 0, op := 0x19, cookie := cookie } s fun d o =>
    if d.loadBusy o then d.refuse o clsResource detBusy
    else if !d.loadInForce then d.updCmd o fun c => { c with phase := .running }
    else
      let d := (d.commitAll o).dueCopies
      let takes := d.takes.map fun (t : Take) => if t.state = .opened then { t with state := .unclosed } else t
      let d := ({ d with takes := takes }).takeCounts
      let ws := d.flushWaits
      d.updCmd o fun c => { c with phase := .medium, waits := ws }

/-- R185: a nonzero ACCEL as taken. -/
def takenAccel (a : Nat) : Nat := min 20000 (max 100 a)

/-- SPINDLE_SET, R185, R186: a spindle whose CMDSRC is not RING refuses the command as a whole. -/
def execSpindleSet (r : Fin 256) (cookie : Nat) (wait : Bool) (mask target accel : Nat) (s : State) :
    Host.Outcome State Fault Refusal :=
  descriptor r { origin := .ring r 0, op := 0x1A, cookie := cookie, wait := wait, arg := mask } s fun d o =>
    let ns := bitsOf mask 16
    if ns.any fun n => d.rd .spCmdsrc [n] != 0 then d.refuse o clsResource detPinMode
    else
      let d := ns.foldl (fun (d : Dev) n =>
        (if accel = 0 then d else d.wr .spAccel [n] (takenAccel accel)).setTarget n (takenTarget target)) d
      if wait then d.updCmd o fun c => { c with phase := .running } else d.finish o clsOk 0

/-- Table 04-9 and the 8,192 records, oldest first. -/
def Trace.image (t : Trace) (e : Nat) : Bytes :=
  le 8 t.time ++ le 2 t.pretrig ++ [e, t.kind] ++ le 4 t.decim ++ (t.sel.flatMap fun c => le 2 c) ++ zeros 16
    ++ t.records.reverse.flatMap fun r => r.flatMap (leI 2)

/-- TRACE_READ, R141, R142. -/
def execTraceRead (r : Fin 256) (cookie engine buf : Nat) (s : State) : Host.Outcome State Fault Refusal :=
  descriptor r { origin := .ring r 0, op := 0x28, cookie := cookie, addr := buf, arg := engine } s fun d o =>
    if d.rd .trState [engine] ≠ trDone then d.refuse o clsResource detTraceNotDone
    else
      let t : Trace := tget {} d.trace engine
      (d.emit (.hostWrite buf (t.image engine) true)).finish o clsOk 0

end Sys2Proof.Machine
end

