-- ==== Sys2Proof/Machine/TakeService.lean ====
section
/-! DEFINITION. The commands of the take service (chapter 12) and the raw block commands (chapters 02 and 10). -/

namespace Sys2Proof.Machine

/-- R399, R566: OFFSET and LENGTH multiples of 64, and for a write OFFSET + LENGTH at most 2^46. A LENGTH of 0 is none of
these cases: the command moves no byte (log entry 106). -/
def takeRangeOk (write : Bool) (offset length : Nat) : Bool :=
  offset % 64 == 0 && length % 64 == 0 && (!write || decide (offset + length ≤ 2 ^ 46))

/-- R346: a data buffer is neither misaligned (its addresses and lengths are multiples of 64 bytes, Table 10-4) nor shorter than
the descriptor says. A scatter-gather list that holds more than LENGTH bytes serves with its first LENGTH (log entry 149). -/
def bufferOk (length addr : Nat) (sgl : List (Nat × Nat)) : Bool :=
  if sgl = [] then addr % 64 == 0
  else (sgl.all fun e => e.1 % 64 == 0 && e.2 % 64 == 0) && decide (length ≤ (sgl.map Prod.snd).sum)

/-- A descriptor whose misuse leaves the device's behaviour undefined (Table 20-2): the fault is met when the
descriptor starts. -/
def guarded (r : Nat) (ok : Bool) (f : Fault) (s : State) (k : Host.Outcome State Fault Refusal) :
    Host.Outcome State Fault Refusal :=
  if s.dev.canStart r && !ok then .fault f else k

/-- RECORD (R330, R328, R398, R401, R74). -/
def execRecord (r : Fin 256) (cookie : Nat) (fua : Bool) (take offset length addr : Nat) (sgl : List (Nat × Nat))
    (hostTime : Nat) (s : State) : Host.Outcome State Fault Refusal :=
  guarded r (takeRangeOk true offset length) .takeMisuse s <|
  guarded r (bufferOk length addr sgl) .bufferMisuse s <|
  descriptor r { origin := .ring r 0, op := 0x01, cookie := cookie, fua := fua, take := take, offset := offset,
                 length := length, addr := addr, sgl := sgl, hostTime := hostTime } s fun d o =>
    match d.serviceRefusal with
    | some st => d.refuse o st.1 st.2
    | none => match (d.cmd o).bind fun c => d.writeRefusal c false with
      | some st => d.refuse o st.1 st.2
      | none => d.beginRanged s.mem o

/-- RETRIEVE (R406, R292). -/
def execRetrieve (r : Fin 256) (cookie take offset length addr : Nat) (sgl : List (Nat × Nat)) (s : State) : Host.Outcome State Fault Refusal :=
  guarded r (takeRangeOk false offset length) .takeMisuse s <|
  guarded r (bufferOk length addr sgl) .bufferMisuse s <|
  descriptor r { origin := .ring r 0, op := 0x02, cookie := cookie, take := take, offset := offset, length := length,
                 addr := addr, sgl := sgl } s fun d o => d.beginRanged s.mem o

/-- FLUSH (R329): every range is committed (R390); without a load nothing is left to wait for. -/
def execFlush (r : Fin 256) (cookie : Nat) (s : State) : Host.Outcome State Fault Refusal :=
  descriptor r { origin := .ring r 0, op := 0x04, cookie := cookie } s fun d o =>
    if !d.loadInForce then d.finish o clsOk 0
    else
      let d := (d.commitAll o).dueCopies
      let ws := d.flushWaits
      d.updCmd o fun c => { c with phase := .medium, waits := ws }

/-- TAKE_OPEN (R396, R397). -/
def execTakeOpen (r : Fin 256) (cookie take hostTime volume : Nat) (label : Bytes) (s : State) :
    Host.Outcome State Fault Refusal :=
  descriptor r { origin := .ring r 0, op := 0x08, cookie := cookie, take := take, hostTime := hostTime, arg := volume,
                 bytes := label } s fun d o => d.beginRanged s.mem o

/-- TAKE_CLOSE (R400 to R403, R582). -/
def execTakeClose (r : Fin 256) (cookie take hostTime buf len : Nat) (s : State) : Host.Outcome State Fault Refusal :=
  descriptor r { origin := .ring r 0, op := 0x09, cookie := cookie, take := take, hostTime := hostTime, addr := buf,
                 len := len } s fun d o => d.beginRanged s.mem o

/-- TAKE_QUERY (R407). -/
def execTakeQuery (r : Fin 256) (cookie take buf len : Nat) (s : State) : Host.Outcome State Fault Refusal :=
  descriptor r { origin := .ring r 0, op := 0x0A, cookie := cookie, take := take, addr := buf, len := len } s
    fun d o => d.beginRanged s.mem o

/-- CATALOG_READ of records (R408), of a deferred log (R409), or with a reserved SELECT (R409). -/
def execCatalogRead (r : Fin 256) (cookie select first max buf len : Nat) (s : State) :
    Host.Outcome State Fault Refusal :=
  descriptor r { origin := .ring r 0, op := 0x0B, cookie := cookie, addr := buf, len := len, arg := select } s
    fun d o =>
      if select < 0xFFF0 ∨ select = 0xFFFE then
        match d.serviceRefusal with
        | some st => d.refuse o st.1 st.2
        | none =>
          let hits := (d.cat.records.filter fun x =>
            decide (first ≤ x.seq) && (select == 0xFFFE || x.rtype == select)).take max
          let n := min (len / 512) hits.length
          let data := (hits.take n).flatMap CatRec.bytes
          (if n = 0 then d else d.emit (.hostWrite buf data true)).finish o clsOk 0
            (reportResult (512 * n) (512 * hits.length))
      else if select < 0xFFF8 then d.readLog o r (some (select - 0xFFF0))
      else if select = 0xFFFF then d.readLog o r none
      else d.finish o clsOk 0 0

/-- R68: the position of a BLOCK_WRITE may be written: a user row that was never allocated, or a lane that a written
row left unrecorded; and no earlier write of it is in flight or queued. -/
def Dev.rawTargetOk (d : Dev) (pba : Nat) : Bool :=
  let k := d.pkS (pbaSurface pba)
  let key := 2 ^ 17 * pbaLayer pba + pbaRow pba
  pbaOk pba && decide (pbaRow pba < 98400)
    && !(k.rows.any fun w => w.layer == pbaLayer pba && w.row == pbaRow pba)
    && (match tfind k.occupied key with
        | none => true
        | some lanes => !lanes.isEmpty && !lanes.contains (pbaLane pba))
    && !(d.blks.any fun b => b.surface == pbaSurface pba && b.lane == pbaLane pba && b.fixed == some key)

/-- BLOCK_WRITE (R330, R328, R251, R269). A target that R68 or R566 leaves undefined is a fault. -/
def execBlockWrite (r : Fin 256) (cookie : Nat) (fua : Bool) (pba addr hostTime : Nat) (s : State) :
    Host.Outcome State Fault Refusal :=
  guarded r (s.dev.rawTargetOk pba) .pbaMisuse s <|
  guarded r (bufferOk 65536 addr []) .bufferMisuse s <|
  descriptor r { origin := .ring r 0, op := 0x10, cookie := cookie, fua := fua, pba := pba, length := 65536,
                 addr := addr, hostTime := hostTime } s fun d o => d.beginRanged s.mem o

/-- BLOCK_READ (R266, R279, R291): OPTIONS bit 0 NOREMAP, bit 1 HEADER. -/
def execBlockRead (r : Fin 256) (cookie pba options addr hdrAddr : Nat) (s : State) :
    Host.Outcome State Fault Refusal :=
  guarded r (pbaOk pba) .pbaMisuse s <|
  guarded r (bufferOk 65536 addr [] && (!options.testBit 1 || hdrAddr % 64 == 0)) .bufferMisuse s <|
  descriptor r { origin := .ring r 0, op := 0x11, cookie := cookie, pba := pba, length := 65536, addr := addr,
                 addr2 := hdrAddr, arg := options } s fun d o => d.beginRanged s.mem o

/-- PEER_EXPORT (R415). -/
def execPeerExport (r : Fin 256) (cookie take offset length addr window : Nat) (s : State) :
    Host.Outcome State Fault Refusal :=
  descriptor r { origin := .ring r 0, op := 0x39, cookie := cookie, take := take, offset := offset, length := length,
                 addr := addr, len := window } s fun d o => d.beginRanged s.mem o

/-- STRIPE_COMMIT (R386 to R393): a range of a take that holds gathered data is committed, when it is complete or has waited
SERVICE.TAKE.STRIPE_WAIT (R390); the other causes commit it within the command that brings them about. -/
def execStripeCommit (take range : Nat) (s : State) : Host.Outcome State Fault Refusal :=
  serve s fun d => if d.rangeDue take range then d.commitRange take range else d

/-- CATALOG_ROW_TIMER, R583: 60 s since the oldest record not yet on the medium was appended. -/
def execCatalogRowTimer (s : State) : Host.Outcome State Fault Refusal :=
  act s fun d => if d.unwritten = [] then d else d.wantRow

/-- ALLOC_RECORD_TIMER, R272: every 60 s while any surface is writing. -/
def execAllocRecordTimer (s : State) : Host.Outcome State Fault Refusal :=
  act s fun d => if d.pk.any fun e => !e.2.rows.isEmpty then d.appendAlloc else d

end Sys2Proof.Machine
end

