-- ==== Sys2Proof/Machine/TrackCache.lean ====
section
/-! DEFINITION. The track cache and its prefetch side buffer (chapter 14). -/

namespace Sys2Proof.Machine

/-! ### Lines, ways and replacement (R450, R452, R461) -/

/-- Set of a line number. -/
def lineSet (line : Nat) : Nat := line % 16384
/-- Tag of a line number. -/
def lineTag (line : Nat) : Nat := line / 16384

/-- The line in a way of a set. -/
def Dev.cline (d : Dev) (set way : Nat) : Line := tget {} d.cache.lines (16 * set + way)

/-- Put a line into a way of a set. -/
def Dev.setLine (d : Dev) (set way : Nat) (x : Line) : Dev :=
  d.updCache fun c => { c with lines := if x.valid then tset c.lines (16 * set + way) x
                                        else tdel c.lines (16 * set + way) }

/-- The way that holds a line, if any (R450). -/
def Dev.findWay (d : Dev) (line : Nat) : Option Nat :=
  (List.range 16).find? fun w => (d.cline (lineSet line) w).valid && (d.cline (lineSet line) w).tag == lineTag line

/-- A way is locked: bits [11:0] of LOCKMASK (R461). -/
def Dev.wayLocked (d : Dev) (w : Nat) : Bool := decide (w < 12) && (d.rd .ccLockmask).testBit w

/-- A fill in progress goes to this way of the set. -/
def Dev.wayFilling (d : Dev) (set w : Nat) : Bool :=
  d.cache.fills.any fun f => !f.fromSide && lineSet f.line == set && f.way == w

/-- The tree bits of a set after way w is used: every node on its path points away from it. Node 1 is the root, and way
w the leaf 16 + w. -/
def plruTouch (t w : Nat) : Nat :=
  [1, 2, 4, 8].foldl (fun t k =>
    let child := (16 + w) / k
    let node := child / 2
    if child % 2 = 0 then t ||| 2 ^ node else if t.testBit node then t - 2 ^ node else t) t

/-- The way the tree points to below node n, passing by subtrees that hold no candidate. -/
def plruWalk (t : Nat) (ok : Nat → Bool) : Nat → Nat → Nat
  | 0, n => n - 16
  | k + 1, n =>
    let pref := 2 * n + (if t.testBit n then 1 else 0)
    let other := 4 * n + 1 - pref
    if (List.range (2 ^ k)).any fun i => ok (pref * 2 ^ k + i - 16) then plruWalk t ok k pref else plruWalk t ok k other

/-- R452 step 2: the victim way among the unlocked ways of a set: an invalid one first, else the pseudo-LRU one. A way
that a fill goes to is no candidate. -/
def Dev.victim (d : Dev) (set : Nat) : Option Nat :=
  let ok := fun w => !d.wayLocked w && !d.wayFilling set w
  match (List.range 16).find? fun w => ok w && !(d.cline set w).valid with
  | some w => some w
  | none => if (List.range 16).any ok then some (plruWalk (tget 0 d.cache.plru set) ok 4 1) else none

/-! ### Side buffer (R467 to R469) -/

/-- PF.READY follows the entries. -/
def Dev.sideCount (d : Dev) : Dev := d.wr .ccPfReady [] (d.cache.side.filter fun e => e.2.state == .ready).length

/-- Change an entry of the side buffer. -/
def Dev.updSide (d : Dev) (n : Nat) (f : Side → Side) : Dev :=
  (d.updCache fun c => { c with side := tset c.side n (f (tget {} c.side n)) }).sideCount

/-- The entry that holds a region. -/
def Dev.sideOf (d : Dev) (region : Nat) : Option Nat :=
  (d.cache.side.find? fun e => e.2.state != .empty && e.2.region == region).map Prod.fst

/-- R469: the side-buffer copy of a line is discarded. -/
def Dev.discardSide (d : Dev) (line : Nat) : Dev :=
  match d.sideOf (line / 128) with
  | some n => d.updSide n fun x => x.without line
  | none => d

/-- R451: the words of a line are read through port P4, for fill or prefetch `id`. -/
def Dev.fetchLine (d : Dev) (line id : Nat) : Dev :=
  (List.range 4).foldl (fun (d : Dev) i => d.enqueueWord { word := 4 * line + i, port := 4, cache := some id }) d

/-- A fill of a line through port P4 starts. -/
def Dev.startFill (d : Dev) (f : Fill) : Dev :=
  let id := d.cache.nextId
  (d.updCache fun c => { c with fills := c.fills ++ [{ f with id := id }], nextId := id + 1 }).fetchLine f.line id

/-- The line is in the cache with a dirty word. -/
def Dev.lineDirty (d : Dev) (line : Nat) : Bool :=
  match d.findWay line with
  | some w => (d.cline (lineSet line) w).dirty.any id
  | none => false

/-- R467, R469: a request for the prefetch of a region, whose words are read through port P4. The entry takes no copy of a line that
the cache holds dirty, since it would be older. -/
def Dev.requestPrefetch (d : Dev) (g : Nat) : Dev :=
  if !d.on .ccPfEn || !d.on .ccEn then d
  else
    let d := d.inc .ccPfReq []
    let empty := (List.range 64).find? fun n => (tget ({} : Side) d.cache.side n).state == .empty
    let lru := (d.cache.side.filter fun e => e.2.state == .ready).foldl
      (fun (b : Option (Nat × Nat)) e => match b with
        | some (_, u) => if e.2.used < u then some (e.1, e.2.used) else b
        | none => some (e.1, e.2.used)) none
    let take := match empty with | some n => some n | none => lru.map Prod.fst
    match d.sideOf g, take with
    | none, some n =>
      let id := d.cache.nextId
      let lines := (List.range 128).filter fun l => !d.lineDirty (128 * g + l)
      let d := (d.updSide n fun _ => { state := .filling, id := id, region := g, lines := lines, used := d.cache.tick }).updCache
        fun c => { c with nextId := id + 1 }
      (List.range 128).foldl (fun (d : Dev) l => d.fetchLine (128 * g + l) id) d
    | _, _ => d.inc .ccPfDrop []

/-! ### Basin words (R451, R452) -/

/-- Words of a line that a write-back writes. -/
def Line.dirtyWords (x : Line) : List Nat := (List.range 4).filter fun i => x.valid && x.dirty.getD i false

/-- R452 step 3: the dirty words of a line go to the basin as whole words; the side-buffer copy is discarded (R469). -/
def Dev.writeBack (d : Dev) (set way : Nat) : Dev :=
  let x := d.cline set way
  let line := x.tag * 16384 + set
  let ws := x.dirtyWords
  let d := ws.foldl (fun d i =>
    (d.inc .ccWb []).enqueueWord { word := 4 * line + i, port := 4, data := slice (x.data.getD i []) 0 64 }) d
  let d := if ws = [] then d else d.discardSide line
  if x.valid then d.setLine set way { x with dirty := [false, false, false, false] } else d

/-- A line becomes invalid. -/
def Dev.dropLine (d : Dev) (set way : Nat) : Dev := d.setLine set way {}

/-- Put four words into a way as a clean line, of which some may be lost. -/
def Dev.installLine (d : Dev) (line way : Nat) (ws : List Bytes) (lost : List Nat := []) : Dev :=
  d.setLine (lineSet line) way { valid := true, tag := lineTag line, data := ws, lost := lost }

/-! ### Accesses (R452, R467, R468, R470) -/

/-- Serve a request from the line in a way (R452 step 5): a read returns its bytes to the user, a write marks dirty the words it
touches. A lost word ends the
access as port P4 does, unless the request writes all of it (Table 14-3). -/
def Dev.serveLine (d : Dev) (way : Nat) (q : CacheReq) : Dev :=
  let line := q.addr / 256
  let set := lineSet line
  let x := d.cline set way
  let off := q.addr % 256
  let touched := (List.range 4).filter fun i => decide (off < 64 * (i + 1) ∧ 64 * i < off + q.len)
  let whole := fun (i : Nat) => q.write && decide (off ≤ 64 * i ∧ 64 * (i + 1) ≤ off + q.len)
  let d := d.updCache fun c => { c with plru := tset c.plru set (plruTouch (tget 0 c.plru set) way), tick := c.tick + 1 }
  if touched.any fun i => x.lost.contains i && !whole i then d.portFails 4 q.use
  else if q.write then
    let flat := overwrite ((x.data.map fun w => slice w 0 64).flatten) off (slice q.data 0 q.len)
    let y := { x with data := (List.range 4).map fun i => slice flat (64 * i) 64,
                      dirty := (List.range 4).map fun i => x.dirty.getD i false || touched.contains i,
                      lost := x.lost.filter fun i => !touched.contains i }
    (d.setLine set way y).discardSide line
  else d.emit (.cacheData q.user q.addr (slice (x.data.map fun w => slice w 0 64).flatten off q.len))

/-- A request that missed (R452 steps 1 to 4, R468). -/
def Dev.startMiss (d : Dev) (q : CacheReq) : Dev :=
  let line := q.addr / 256
  let set := lineSet line
  if d.cache.fills.any fun f => f.line == line then
    d.updCache fun c => { c with fills := c.fills.map fun f => if f.line = line then { f with reqs := f.reqs ++ [q] } else f }
  else
    let holder := (d.sideOf (line / 128)).bind fun n =>
      let x : Side := tget {} d.cache.side n
      if x.lines.contains (line % 128) then some (n, x) else none
    match holder with
    | some (n, x) =>
      if x.state = .filling then
        d.updCache fun c => { c with 
          fills := c.fills ++ [{ id := c.nextId, line := line, reqs := [q], fromSide := true }], nextId := c.nextId + 1 }
      else match d.victim set with
        | none => d.updCache fun c => { c with stalled := c.stalled ++ [q] }
        | some way =>
          let d := (d.writeBack set way).installLine line way (tget [] x.data (line % 128))
          let d := (d.inc .ccPfUsed []).updSide n fun y => { y.without line with used := d.cache.tick }
          d.serveLine way q
    | none =>
      match d.victim set with
      | none => d.updCache fun c => { c with stalled := c.stalled ++ [q] }
      | some way =>
        ((d.writeBack set way).dropLine set way).startFill { line := line, way := way, reqs := [q] }

/-- R451: the byte range lies in the service area. -/
def Dev.inService (d : Dev) (addr len : Nat) : Bool :=
  decide (d.serviceStart * 2 ^ 20 ≤ addr ∧ addr + len ≤ d.installed * 2 ^ 20)

/-- One request within one line: a hit is served, a miss starts a fill and may ask for the next region (R467), within the service
area (R451). While the cache is disabled it waits (R472). -/
def Dev.cacheRequest (d : Dev) (q : CacheReq) : Dev :=
  if !d.on .ccEn then d.updCache fun c => { c with waiting := c.waiting ++ [q] }
  else match d.findWay (q.addr / 256) with
    | some way => (d.inc .ccHit []).serveLine way q
    | none =>
      let g := q.addr / 32768
      let seq := d.on .ccPfSeq && d.inService (32768 * (g + 1)) 32768 && decide (1 ≤ g) && tfind d.cache.lastRegion q.user == some (g - 1)
      let d := ((d.inc .ccMiss []).updCache fun c => { c with lastRegion := tset c.lastRegion q.user g }).startMiss q
      if seq then d.requestPrefetch (g + 1) else d

/-- Table 14-3: the SRAM finding of a kind in a word of a way: 0 one bit, 1 two bits in data, 2 two bits in the tag. The
answer says whether data was lost. -/
def Dev.sramFinding (mem : List Host.Cell) (d : Dev) (kind set way word : Nat) : Dev × Bool :=
  let x := d.cline set way
  let addr := 256 * (x.tag * 16384 + set) + 64 * word
  let place := le 4 set ++ le 4 way
  if kind = 0 then ((d.inc .ccCe []).raise 0x6C0 evCacheCe (place ++ le 4 word), false)
  else if kind = 1 then
    if !x.valid then (d, false)
    else if x.dirty.getD word false then
      let y := { x with dirty := x.dirty.set word false, lost := x.lost ++ [word] }
      (((d.setLine set way y).inc .ccUeDirty []).raise 0x6C1 evCacheUe ([1] ++ place ++ le 8 addr), true)
    else
      let y := { x with data := x.data.set word (wordNow mem d (addr / 64)) }
      (((d.setLine set way y).inc .ccUeClean []).raise 0x6C1 evCacheUe ([0] ++ place ++ le 8 addr), false)
  else (((d.dropLine set way).inc .ccUeTag []).raise 0x6C1 evCacheUe ([2] ++ place), false)

/-- The parts of an access in each line it touches. -/
def linePieces (user : Nat) (use : WordUse) (write : Bool) (addr len : Nat) (data : Bytes) : List CacheReq :=
  let n := min len (256 - addr % 256)
  let first : CacheReq := { user := user, write := write, addr := addr, len := n, data := data.take n, use := use }
  if len = 0 then [] else if n = len then [first]
  else [first, { first with addr := addr + n, len := len - n, data := data.drop n }]

/-- CACHE_ACCESS, R451, R452, R467, R470. -/
def execCacheAccess (user : Fin 3) (use : WordUse) (write : Bool) (addr len : Nat) (data : Bytes)
    (prefetch : Option Nat) (sram : Option (Nat × Nat)) (s : State) : Host.Outcome State Fault Refusal :=
  serve s fun d =>
    if !d.inService addr len ∨ 64 < len then d
    else
      let d := match sram with
        | some (kind, way) => (Dev.sramFinding s.mem d kind (lineSet (addr / 256)) (way % 16) (addr / 64 % 4)).1
        | none => d
      let d := (linePieces user use write addr len data).foldl Dev.cacheRequest d
      match prefetch with
      | some g => if d.inService (32768 * g) 32768 then d.requestPrefetch g else d
      | none => d

/-- Requests that waited for a way are tried again. -/
def Dev.retryStalled (d : Dev) : Dev :=
  let qs := d.cache.stalled
  qs.foldl (fun d q => match d.findWay (q.addr / 256) with
    | some way => d.serveLine way q
    | none => d.startMiss q) (d.updCache fun c => { c with stalled := [] })

/-- Every word of the line has been read. -/
def Fill.complete (f : Fill) : Bool := (List.range 4).all fun i => thas f.words i

/-- The words of the line, in order. -/
def Fill.line4 (f : Fill) : List Bytes := (List.range 4).map fun i => tget [] f.words i

/-- CACHE_ENABLE_WRITE, R472, R474: lookups that waited are served once EN is 1. -/
def execCacheEnableWrite (en : Bool) (s : State) : Host.Outcome State Fault Refusal :=
  if !s.dev.ready then .next s
  else if en && !s.dev.on .ccCleared then .fault .cacheMisuse
  else serve s fun d =>
    let d := d.wr .ccEn [] (if en then 1 else 0)
    if en then
      let qs := d.cache.waiting
      qs.foldl Dev.cacheRequest (d.updCache fun c => { c with waiting := [] })
    else d

/-- LOCKMASK_WRITE, R461, R462, R466: bits [15:12] are ignored. -/
def execLockmaskWrite (mask : Fin 65536) (s : State) : Host.Outcome State Fault Refusal :=
  let d := s.dev
  if !d.ready then .next s
  else if d.running && (List.range 8).any fun i => (d.rd .ccLockmask).testBit i && !mask.val.testBit i then
    .fault .lockmaskCleared
  else act s fun d => d.wr .ccLockmask [] (mask.val % 4096)

/-! ### Maintenance (R454 to R459, R463, R464, R473, R474) -/

/-- The lines an operation covers in a mode: MODE 1 by set and way, else by address. -/
def maintCovers (mode wayMask addr length line way : Nat) : Bool :=
  if mode = 1 then decide (addr ≤ lineSet line ∧ lineSet line < addr + length) && wayMask.testBit way
  else decide (length ≠ 0) && decide (addr / 256 ≤ line ∧ 256 * line < addr + length)

/-- Lines present that an operation covers: set and way. -/
def Dev.coveredLines (d : Dev) (mode wayMask addr length : Nat) : List (Nat × Nat) :=
  (d.cache.lines.filter fun e => e.2.valid
    && maintCovers mode wayMask addr length (e.2.tag * 16384 + e.1 / 16) (e.1 % 16)).map fun e => (e.1 / 16, e.1 % 16)

/-- R474: the set range reaches past 16,383, or the address range past the installed basin. -/
def Dev.maintRangeOk (d : Dev) (mode addr length : Nat) : Bool :=
  length == 0 || (if mode = 1 then decide (addr + length ≤ 16384) else decide (addr + length ≤ d.installed * 2 ^ 20))

/-- Act on one line: OP 0 clean, 1 invalidate, 2 clean and invalidate. -/
def Dev.maintLine (d : Dev) (op set way : Nat) : Dev :=
  let d := if op = 1 then d else d.writeBack set way
  if op = 0 then d else d.dropLine set way

/-- Words that acting on a line writes back. -/
def Dev.maintWords (d : Dev) (op set way : Nat) : List Nat :=
  let x := d.cline set way
  if op = 1 then [] else x.dirtyWords.map fun i => 4 * (x.tag * 16384 + set) + i

/-- R454: what OP 1 and OP 2 do to the side buffer. -/
def Dev.maintSide (d : Dev) (op mode addr length : Nat) : Dev :=
  if op = 0 then d
  else (d.cache.side.map Prod.fst).foldl (fun d n => d.updSide n fun x =>
    if mode = 1 then (if x.state = .filling then { x with lines := [], data := [] } else {})
    else (x.lines.filter fun l => maintCovers 0 0 addr length (128 * x.region + l) 0).foldl
      (fun y l => y.without (128 * x.region + l)) x) d

/-- Change the maintenance operation of an origin. -/
def Dev.updMaint (d : Dev) (o : Origin) (f : Maint → Maint) : Dev :=
  d.updCache fun c => { c with maints := c.maints.map fun m => if m.origin = o then f m else m }

/-- A CACHE_MAINT of OP 0 to 2 is accepted (R455): lines not being filled are acted on at once, lines being filled once
their fills end (R457). -/
def Dev.startMaint (mem : List Host.Cell) (d : Dev) (o : Origin) (op mode wayMask addr length : Nat)
    (sram : Option (Nat × Nat × Nat × Nat)) : Dev :=
  if length = 0 then d.finish o clsOk 0
  else
    let found := match sram with
      | some (kind, set, way, word) => if op = 1 ∧ mode = 1 then (d, false)
          else Dev.sramFinding mem d kind (set % 16384) (way % 16) (word % 4)
      | none => (d, false)
    let d := found.1
    let lines := d.coveredLines mode wayMask addr length
    let filling := (d.cache.fills.filter fun f => maintCovers mode wayMask addr length f.line f.way).map Fill.id
    let words := lines.flatMap fun x => d.maintWords op x.1 x.2
    let d := lines.foldl (fun d x => d.maintLine op x.1 x.2) d
    let d := d.maintSide op mode addr length
    let full := op == 1 && mode == 1 && addr == 0 && length == 16384 && wayMask % 65536 == 65535
    d.updCache fun c => { c with maints := c.maints ++ [{ origin := o, op := op, covered := filling, words := words,
                                                          full := full, error := found.2 }] }

/-- The descriptor of a CACHE_MAINT, with the misuses of R474 and R466. -/
def maint (r : Fin 256) (cookie op mode wayMask addr length : Nat) (s : State) (k : Dev → Origin → Dev) :
    Host.Outcome State Fault Refusal :=
  let d := s.dev
  guarded r (d.maintRangeOk mode addr length && (op == 1 || op == 3 || length == 0 || d.on .ccCleared)) .cacheMisuse s <|
  guarded r (op != 1 || !((d.coveredLines mode wayMask addr length).any fun x => (d.cline x.1 x.2).dirtyWords != []))
    .invalidateDirty s <|
  descriptor r { origin := .ring r 0, op := 0x20, cookie := cookie, phase := .running } s k

/-- CLEAN, OP 0. -/
def execClean (r : Fin 256) (cookie mode wayMask addr length : Nat) (sram : Option (Nat × Nat × Nat × Nat))
    (s : State) : Host.Outcome State Fault Refusal :=
  maint r cookie 0 mode wayMask addr length s fun d o => Dev.startMaint s.mem d o 0 mode wayMask addr length sram

/-- INVALIDATE, OP 1, R473. -/
def execInvalidate (r : Fin 256) (cookie mode wayMask addr length : Nat) (sram : Option (Nat × Nat × Nat × Nat))
    (s : State) : Host.Outcome State Fault Refusal :=
  maint r cookie 1 mode wayMask addr length s fun d o => Dev.startMaint s.mem d o 1 mode wayMask addr length sram

/-- CLEAN_AND_INVALIDATE, OP 2. -/
def execCleanAndInvalidate (r : Fin 256) (cookie mode wayMask addr length : Nat)
    (sram : Option (Nat × Nat × Nat × Nat)) (s : State) : Host.Outcome State Fault Refusal :=
  maint r cookie 2 mode wayMask addr length s fun d o => Dev.startMaint s.mem d o 2 mode wayMask addr length sram

/-- Lock-fill of one line (R463): kept where it is in a locked way of the mask; moved, promoted or filled into the lowest
invalid one; else counted as missed. -/
def Dev.lockFillLine (d : Dev) (o : Origin) (ways : List Nat) (line : Nat) : Dev :=
  let set := lineSet line
  let present := d.findWay line
  if (present.map ways.contains).getD false then d
  else match ways.find? fun w => !(d.cline set w).valid && !d.wayFilling set w with
    | none =>
      (d.inc .ccLockMissed []).updMaint o fun m =>
        { m with missed := m.missed + 1, firstMissed := if m.missed = 0 then 256 * line else m.firstMissed }
    | some way =>
      match present with
      | some old =>
        let x := d.cline set old
        (d.dropLine set old).setLine set way x
      | none =>
        let held := (d.sideOf (line / 128)).bind fun n =>
          let x : Side := tget {} d.cache.side n
          if x.state = .ready ∧ x.lines.contains (line % 128) then some (n, tget [] x.data (line % 128)) else none
        match held with
        | some (n, ws) =>
          ((d.installLine line way ws).inc .ccPfUsed []).updSide n fun y => y.without line
        | none =>
          (d.updMaint o fun m => { m with covered := m.covered ++ [d.cache.nextId] }).startFill { line := line, way := way }

/-- A lock-fill goes on line by line in increasing order (R463), up to one that is still being filled, for which it waits (R457). -/
def Dev.lockRun (o : Origin) : Nat → Dev → Dev
  | 0, d => d
  | n + 1, d =>
    match d.cache.maints.find? fun m => m.origin == o with
    | none => d
    | some m =>
      match m.deferred with
      | [] => d
      | l :: rest =>
        if d.cache.fills.any fun f => f.line == l then d
        else Dev.lockRun o n ((d.updMaint o fun m => { m with deferred := rest }).lockFillLine o m.ways l)

/-- Every lock-fill goes on as far as it can. -/
def Dev.lockRuns (d : Dev) : Dev :=
  (d.cache.maints.filter fun m => m.deferred != []).foldl (fun d m => Dev.lockRun m.origin m.deferred.length d) d

/-- R457, R458: a fill has ended and its requester been served: a CACHE_MAINT that found it in progress acts on its line, and waits
for it no more; a later fill of the line is not its concern. -/
def Dev.fillEnded (d : Dev) (id line : Nat) : Dev :=
  (d.cache.maints.filter fun m => m.covered.contains id).foldl (fun d m =>
    let d := d.updMaint m.origin fun x => { x with covered := x.covered.filter fun i => i != id }
    match (if m.op = 3 then none else d.findWay line) with
    | some w =>
      let words := d.maintWords m.op (lineSet line) w
      (d.updMaint m.origin fun x => { x with words := x.words ++ words }).maintLine m.op (lineSet line) w
    | none => d) d

/-- CACHE_FILL_COMPLETE, R452: the words have been read and are in the line, and the requests that waited for it are served in
order; one that needs an uncorrectable word ends as port P4 does (Table 13-5). -/
def execCacheFillComplete (line : Nat) (s : State) : Host.Outcome State Fault Refusal :=
  serve s fun d =>
    match d.cache.fills.find? fun f => f.line == line && !f.fromSide with
    | none => d
    | some f =>
      if !f.complete then d
      else
        let d := d.updCache fun c => { c with fills := c.fills.filter fun x => !(x.line == line && !x.fromSide) }
        let d := d.installLine line f.way f.line4 f.lost
        (((f.reqs.foldl (fun d q => d.serveLine f.way q) d).fillEnded f.id line).retryStalled).lockRuns

/-- Every word of the lines that the entry still takes has been read. -/
def Side.complete (x : Side) : Bool := x.lines.all fun l => (List.range 4).all fun i => thas x.words (4 * l + i)

/-- PREFETCH_FILL_COMPLETE, R467 to R469: the copies not discarded in flight are READY; misses that waited for one of
them are served, and a miss whose copy was discarded goes to the basin. -/
def execPrefetchFillComplete (entry : Fin 64) (s : State) : Host.Outcome State Fault Refusal :=
  serve s fun d =>
    let x : Side := tget {} d.cache.side entry
    if x.state ≠ .filling ∨ !x.complete then d
    else
      let data := x.lines.map fun l => (l, (List.range 4).map fun i => tget [] x.words (4 * l + i))
      let d := d.updSide entry fun y =>
        { y with state := if y.lines = [] then .empty else .ready, data := data, words := [] }
      let mine := d.cache.fills.filter fun f => f.fromSide && f.line / 128 == x.region
      let d := d.updCache fun c => { c with fills := c.fills.filter fun f => !(f.fromSide && f.line / 128 == x.region) }
      (mine.foldl (fun d f => (f.reqs.foldl (fun d q => match d.findWay f.line with
        | some way => d.serveLine way q
        | none => d.startMiss q) d).fillEnded f.id f.line) d).lockRuns

/-- LOCK_FILL, OP 3, R463: MODE 1 changes nothing. -/
def execLockFill (r : Fin 256) (cookie mode wayMask addr length : Nat) (sram : Option (Nat × Nat × Nat × Nat))
    (s : State) : Host.Outcome State Fault Refusal :=
  maint r cookie 3 mode wayMask addr length s fun d o =>
    if length = 0 ∨ mode = 1 then d.finish o clsOk 0
    else
      let found := match sram with
        | some (kind, set, way, word) => Dev.sramFinding s.mem d kind (set % 16384) (way % 16) (word % 4)
        | none => (d, false)
      let d := found.1
      let ways := (List.range 16).filter fun w => wayMask.testBit w && d.wayLocked w
      let lines := (List.range ((addr + length - 1) / 256 - addr / 256 + 1)).map (addr / 256 + ·)
      let d := d.updCache fun c => { c with maints := c.maints ++ [{ origin := o, op := 3, ways := ways, deferred := lines,
                                                                     error := found.2 }] }
      Dev.lockRun o lines.length d

/-- CACHE_MAINT_COMPLETE, R455 to R457, R463, R473: the oldest CACHE_MAINT completes once the fills it waits for have ended, it has
come to every line, and every word it wrote back is in its channel's write queue. -/
def execCacheMaintComplete (s : State) : Host.Outcome State Fault Refusal :=
  serve s fun d =>
    match d.cache.maints with
    | [] => d
    | m :: rest =>
      let queued := fun (w : Nat) => (d.chan (d.chanOf w)).overflow.any fun e => e.data != [] && e.word == w
      if m.covered ≠ [] ∨ m.deferred ≠ [] ∨ m.words.any queued then d
      else
        let o := m.origin
        let d := d.updCache fun c => { c with maints := rest }
        let d := if m.full then d.wr .ccCleared [] 1 else d
        let d := if m.missed = 0 then d
          else d.raiseFor [o] 0x6C2 evLockfillMiss (le 4 m.missed ++ le 8 m.firstMissed)
        if m.error then d.finish o clsDevice detInternal else d.finish o clsOk 0

end Sys2Proof.Machine
end

