-- ==== Sys2Proof/Machine/SelfTest.lean ====
section
/-! DEFINITION. Self-tests and scrubbing (chapter 12, R410 to R414). -/

namespace Sys2Proof.Machine

/-! ### Self-tests (R413, R414, Table 12-11) -/

/-- Items of a kind of test; no item carries another kind. -/
def selftestItems (kind : Nat) : List Nat := match kind with | 1 => [1, 2, 3, 4] | 2 => [1, 2, 3, 4, 5, 6] | _ => []

/-- What an item needs is absent: it reports SKIPPED (Table 12-11, R419). -/
def Dev.itemSkipped (d : Dev) (item : Nat) : Bool :=
  match item with
  | 1 => !((List.range 32).any fun p => d.on .pkPresent [p])
  | 3 => !d.on .bsReady && !d.on .bsConfigErr && !d.on .bsTrainErr
  | 4 => false
  | _ => !d.loadInForce || !((List.range 32).any d.surfaceOk)

/-- An item begins: the BASIN item takes 1 GiB of units. A basin that could not be trained fails it. -/
def Dev.itemBegins (d : Dev) (item : Nat) : Dev :=
  let d := (d.wr .svStItem [] item).wr .svStState [] 1
  let d := { d with selftest := d.selftest.map fun (t : SelfTest) =>
    -- a measurement that waits for what the item uses makes it yield (R506)
    { t with suspended := false, needed := itemNeeds item 0x29 && d.measures.any (fun m => !m.running && m.item != 1), failing := item == 3 && !d.on .bsReady } }
  if item = 3 ∧ d.on .bsReady then d.needUnits .selftest 1024 else d

/-- The items that can be skipped are, and the next one begins; none is left at the end. -/
def Dev.nextItem : List Nat → Dev → Dev
  | [], d => { d with selftest := d.selftest.map fun (t : SelfTest) => { t with items := [] } }
  | i :: is, d =>
    if d.itemSkipped i then
      let skipped := { d with selftest := d.selftest.map fun (t : SelfTest) =>
        { t with results := t.results ++ [(i, 2, 0xFFFF, 0, 0)] } }
      Dev.nextItem is skipped
    else ({ d with selftest := d.selftest.map fun (t : SelfTest) => { t with items := i :: is } }).itemBegins i

/-- R414: the report. -/
def SelfTest.report (t : SelfTest) (now : Nat) : Bytes :=
  [t.kind, t.results.length] ++ le 2 t.suspensions ++ zeros 4 ++ le 8 t.start ++ le 8 now ++ zeros 8
    ++ t.results.flatMap fun e => [e.1, e.2.1] ++ le 2 e.2.2.1 ++ le 4 e.2.2.2.1 ++ le 8 e.2.2.2.2

/-- The test ends when no item is left. -/
def Dev.selftestEnd (d : Dev) : Dev :=
  match d.selftest with
  | none => d
  | some t =>
    if t.items ≠ [] then d
    else
      let failed := t.results.any fun e => e.2.1 == 1
      let d := ({ d with selftest := none }).wr .svStState [] 0
      let d := d.wr .svStItem [] 0
      if failed then d.report t.origin clsDevice detSelfTestFailed (t.report d.time)
      else d.report t.origin clsOk 0 (t.report d.time)

/-- What the running item used is released: units, and the sleds, whose stops are immediate (R160). -/
def Dev.itemReleases (d : Dev) : Dev :=
  let item := d.rd .svStItem
  let d := if item = 3 then d.dropOwner .selftest else d
  (List.range 32).foldl (fun (d : Dev) p =>
    if d.selftestUses p ∧ d.slSt p ≠ slUnhomed then d.stopSled p false else d) d

/-- SELF_TEST, R413, R414, R526. -/
def execSelfTest (r : Fin 256) (cookie kind buf len : Nat) (s : State) : Host.Outcome State Fault Refusal :=
  descriptor r { origin := .ring r 0, op := 0x2A, cookie := cookie, arg := kind, addr := buf, len := len } s fun d o =>
    let loading := d.cmds.any fun (c : Cmd) => c.op == 0x18
    if d.selftest.isSome ∨ loading ∨ d.boot.fwLoad.isSome then d.refuse o clsResource detBusy
    else
      let d := d.updCmd o fun c => { c with phase := .running }
      let t : SelfTest := { origin := o, kind := kind, items := selftestItems kind, start := d.time }
      (Dev.nextItem (selftestItems kind) { d with selftest := some t }).selftestEnd

/-- The CACHE item has cleaned and invalidated every unlocked way. -/
def Dev.cacheItem (d : Dev) : Dev :=
  (d.cache.lines.map Prod.fst).foldl (fun (d : Dev) k =>
    if d.wayLocked (k % 16) then d else d.maintLine 2 (k / 16) (k % 16)) d

/-- SELFTEST_ITEM_DONE, R414: the result (0 PASS, 1 FAIL), the first failing pickup, engine or channel, the duration in ms
and the measured value of the running item. -/
def execSelftestItemDone (result firstFail duration value : Nat) (s : State) : Host.Outcome State Fault Refusal :=
  serve s fun d =>
    match d.selftest with
    | none => d
    | some t =>
      match t.items with
      | [] => d
      | i :: is =>
        if t.suspended then d
        else
          let bad := t.failing || result != 0
          let entry := (i, if bad then 1 else 0, if bad then firstFail else 0xFFFF, duration, value)
          let d := d.itemReleases
          let d := if i = 4 then d.cacheItem else d
          let d := { d with selftest := d.selftest.map fun (x : SelfTest) => { x with results := x.results ++ [entry] } }
          (Dev.nextItem is d).selftestEnd

/-- SELFTEST_SUSPENDED, R413: a command that needs what the item is using has been consumed or accepted. -/
def execSelftestSuspended (s : State) : Host.Outcome State Fault Refusal :=
  serve s fun d =>
    match d.selftest with
    | none => d
    | some t =>
      if t.suspended ∨ !t.needed then d
      else
        let d := d.itemReleases
        let d := { d with selftest := d.selftest.map fun (x : SelfTest) =>
          { x with suspended := true, suspensions := x.suspensions + 1 } }
        (d.wr .svStState [] 2).raiseFor [t.origin] 0x704 evSelftestSuspended [d.rd .svStItem]

/-- SELFTEST_RESUMED, R413: no command uses what the item needs: it starts from its beginning. -/
def execSelftestResumed (s : State) : Host.Outcome State Fault Refusal :=
  act s fun d =>
    match d.selftest with
    | none => d
    | some t =>
      let item := d.rd .svStItem
      if !t.suspended ∨ d.cmds.any (fun (c : Cmd) => c.origin != t.origin && itemNeeds item c.op) then d
      else
        (d.itemBegins item).raiseFor [t.origin] 0x704 evSelftestResumed [item]

/-! ### Scrubbing (R410 to R412) -/

/-- R412: why a take is flagged, as the bits of REASON. -/
def Dev.migrateReason (d : Dev) (take : Nat) (c : TakeScrub) : Nat :=
  let mine := d.stripes.filter fun s => s.take == take
  let spares := mine.any fun s => (s.surfaces ++ (d.holders s).map Prod.snd).any fun p => p != 0xFF && (d.pkS p).sparesOut
  (if c.blocks * d.rd .svMigratePpm < c.weak * 1000000 then 1 else 0) + (if 0 < c.unrecovered then 2 else 0)
    + (if 0 < c.atRisk then 4 else 0) + (if spares then 8 else 0)

/-- The pass through a take's stripes ends (R412). -/
def Dev.takeScrubbed (d : Dev) (take : Nat) : Dev :=
  let c : TakeScrub := tget {} d.scrub.takes take
  let d := { d with scrub := { d.scrub with takes := tdel d.scrub.takes take } }
  let why := d.migrateReason take c
  match d.take? take with
  | none => d
  | some t =>
    if why = 0 ∨ t.flaggedNow then d
    else
      let d := d.updTake take fun x => { x with flagged := true, flaggedNow := true }
      let d := d.append1 0x0040 (le 8 take ++ [why, 0, 0, 0] ++ le 4 c.weak ++ le 4 c.unrecovered ++ le 4 c.atRisk ++ le 8 c.blocks)
      d.raise 0x703 evMigrateFlagged (le 8 take ++ [why])

/-- The pass over the whole volume ends: it is counted, and the cursor wraps to stripe 0. -/
def Dev.passScrubbed (d : Dev) : Dev :=
  let c := d.scrub
  let d := ({ d with scrub := { c with stripes := 0, weak := 0, unrecovered := 0 } }).inc .svPasses []
  (d.wr64 .svCursorLo .svCursorHi [] 0).raise 0x703 evScrubPassDone (le 4 c.stripes ++ le 4 c.weak ++ le 4 c.unrecovered)

/-- R385, R387, R412: the members of a stripe none of whose blocks has just left the ladder failed or lies on a missing surface.
A data member with no block reads as zeros (log entry 129). -/
def Dev.readableMembers (d : Dev) (s : Stripe) : Nat :=
  ((List.range s.surfaces.length).filter fun j => !(s.pbas.any fun e => e.1 / 7 == j
    && (d.scrub.lostNow.contains (d.resolve e.2) || !d.reachable (pbaSurface (d.resolve e.2))))).length

/-- SCRUB_READ, R410 to R412: every block of the next stripe has been read: the counts of its take and of the pass go on. -/
def execScrubRead (s : State) : Host.Outcome State Fault Refusal :=
  serve s fun d =>
    match d.scrubNext with
    | none => d
    | some st =>
      if !d.loadInForce ∨ !d.on .svScrubEn
          ∨ !((d.stripeBlocks st).all fun a => d.scrub.done.contains a || (d.copyHeld a).isSome) then d
      else
        let weak := d.scrub.weakNow.length
        let lost := d.scrub.lostNow.length
        let thin := decide (geometryM st.geometry ≠ 0 ∧ d.readableMembers st < geometryD st.geometry + 1)
        let c : TakeScrub := tget {} d.scrub.takes st.take
        let c := { c with
          blocks := c.blocks + (d.stripeBlocks st).length, weak := c.weak + weak, unrecovered := c.unrecovered + lost,
          atRisk := c.atRisk + (if thin then 1 else 0) }
        let d := { d with scrub := { d.scrub with
          takes := tset d.scrub.takes st.take c, stripes := d.scrub.stripes + 1, weak := d.scrub.weak + weak,
          unrecovered := d.scrub.unrecovered + lost, done := [], weakNow := [], lostNow := [] } }
        let d := d.wr64 .svCursorLo .svCursorHi [] (st.id + 1)
        let later : List Stripe := d.scrubbable.filter fun x => decide (st.id < x.id)
        let d := if later.any fun x => x.take == st.take then d else d.takeScrubbed st.take
        if later.isEmpty then d.passScrubbed else d

end Sys2Proof.Machine
end

