-- ==== Sys2Proof/Machine/Sled.lean ====
section
/-! DEFINITION. Sleds (chapter 05): the idle current, seeks and their landings, moves in MANUAL, stops, homing, and coil
bridges that trip. -/

namespace Sys2Proof.Machine

/-- SLED_IDLE_CURRENT, R149: P has been constant for 100 ms, which is 40,000 samples. -/
def execSledIdleCurrent (p : Fin 32) (s : State) : Host.Outcome State Fault Refusal :=
  act s fun d => if 40000 ≤ (d.sledS p).still then d.updSled p fun k => { k with idle := true } else d

/-! ### Seeks (R154 to R159) -/

/-- The band that R50 places at a radius in nm and an angle index, rounded to the nearest: of the inner area when the
landing band b lies there, of the data zone otherwise. -/
def nearestBand (b : Nat) (radius : Int) (angle : Nat) : Int :=
  if 65432 ≤ b then 65432 + roundDiv (8 * radius - 176000000 - 5 * angle) 15360
  else roundDiv (8 * radius - 184000000 - 5 * angle) 15360

/-- R156: the band check of a landing in band b at an angle index. -/
def Dev.bandCheck (d : Dev) (p : Nat) (k : Seek) (b angle : Nat) : Bool :=
  decide (b + 1 ≤ k.band ∧ k.band ≤ b + d.rd .slLeadMax [p]) || decide (b = k.band ∧ angle + 64 ≤ k.angle)

/-- R157: the origin is corrected at every landing; an error beyond SLIP_MAX is reported. -/
def Dev.landing (d : Dev) (p b angle : Nat) : Dev :=
  let model := nearestBand b (d.radiusAt p (d.slP p)) angle
  let delta := (b : Int) - model
  let d := d.wrS .slOrigin [p] (d.rdS .slOrigin [p] + 1920 * delta)
  let d := (d.wr .slLastBand [p] b).wrS .slLastDelta [p] delta
  if d.rd .slSlipMax [p] < delta.natAbs then d.raisePk p 20 evSledSlip (le 2 b ++ leI 4 model) else d

/-- A seek in motion ends: the failed seek stops the sled (R158, R160), and goes on or is over. -/
def Dev.endSeek (d : Dev) (p cause : Nat) : Dev :=
  let how := d.immediate p false
  (((d.abandonNow p abSled).seekFails p cause).halt p how).trySeek p

/-- SEEK_START, R154, R155: a seek that a command needs, in AUTO, while the sled is at rest or follows and no row is read
or written on the pickup. A sled found UNHOMED is homed first; the layer jump comes first. -/
def execSeekStart (p : Fin 32) (band : Fin 65536) (angle : Fin 3072) (layer : Fin 4) (s : State) :
    Host.Outcome State Fault Refusal :=
  serve s fun d =>
    let st := d.slSt p
    if d.sledAuto p && d.on .pkPresent [p] && d.pickupQuiet p && (d.pkS p).rows.isEmpty && (d.servoS p).cap.isNone
        && decide (st = slHold ∨ st = slFollow ∨ st = slUnhomed) then
      -- R273: the seek to a fixed row is made anew once the values sent for it have settled
      let d := if d.settled p then d.updPk p fun k => { k with settling := none } else d
      (d.setSeek p { band := band, angle := angle, layer := layer }).trySeek p
    else d

/-- SEEK_PROFILE_END, R155 step 4: from the end of the profile on, tracking closes in the first sample near a rail groove
(Dev.landTracking). -/
def execSeekProfileEnd (p : Fin 32) (s : State) : Host.Outcome State Fault Refusal :=
  act s fun d =>
    match d.seekS p with
    | some k =>
      if k.step = SeekStep.moving ∧ d.moveEnded p then
        d.setSeek p { k with step := .landing }
      else d
    | none => d

/-- R284: a full seek to the row of a block on the ladder has ended well. -/
def Dev.rowSought (d : Dev) (p band : Nat) : Dev :=
  { d with ladder := d.ladder.map fun (e : Ladder) =>
      if pbaSurface e.pba = p ∧ rowBand (pbaRow e.pba) = band then { e with seekFirst := false } else e }

/-- SEEK_LANDING, R155 steps 5 to 7, R156, R157: the band field of S0 from a wedge, once tracking has been CLOSED for 16
samples; a field whose parity fails leaves the landing to the next wedge. -/
def execSeekLanding (p : Fin 32) (field : Nat) (angle : Fin 3072) (s : State) : Host.Outcome State Fault Refusal :=
  serve s fun d =>
    match d.seekS p, bandField field with
    | some k, some b =>
      if k.step ≠ SeekStep.landing ∨ !d.closed p 1 ∨ (d.servoS p).followed < 16 then d
      else
        let pass := d.bandCheck p k b angle
        let d := d.landing p b angle
        if pass then (((d.noSeek p).setSl p slFollow).seqAxes p axClosed [2, 3]).rowSought p k.band
        else if k.corrections < d.rd .slCorrMax [p] then d.launchSeek p { k with corrections := k.corrections + 1 }
        else d.endSeek p 2
    | _, _ => d

/-- SEEK_TIMEOUT, R158, R159: SEEK.TMO expires before the band check has passed. -/
def execSeekTimeout (p : Fin 32) (s : State) : Host.Outcome State Fault Refusal :=
  serve s fun d =>
    match d.seekS p with
    | some k => if k.step = SeekStep.moving ∨ k.step = SeekStep.landing then d.endSeek p 0 else d
    | none => d

/-! ### MANUAL moves and stops -/

/-- GOTO, R152, R153: in MANUAL, from rest, a profile to the target with no band check. -/
def execSledGoto (p : Fin 32) (target : Int) (s : State) : Host.Outcome State Fault Refusal :=
  hostAct s fun d =>
    let st := d.slSt p
    let want := ofTwos 32 (toTwos 32 target)
    let d := d.wrS .slGoto [p] want
    if d.rd .slMode [p] = 2 ∧ !d.on .slFault [p] ∧ (st = slHold ∨ st = slFollow) then
      let ct := (d.abandonNow p abSled).clampTarget p want
      ((ct.2).setSl p slSeek).startMove p ct.1 (ct.2.rd .slAccel [p]) (ct.2.rd .slSpeed [p])
    else d

/-- SLED_STOP, R160, R161, R163: a write of 1 to SLED[p].STOP. -/
def execSledStop (p : Fin 32) (s : State) : Host.Outcome State Fault Refusal :=
  serve s fun d => if d.ready then d.stopAndRetry p false else d

/-- STOP_RAMP_END, R160: the ramp has come to rest; the sled enters HOLD and stays homed. -/
def execStopRampEnd (p : Fin 32) (s : State) : Host.Outcome State Fault Refusal :=
  serve s fun d =>
    if d.slSt p = slStopping ∧ ((d.sledS p).ramp.isNone ∨ d.moveEnded p) then
      ((d.updSled p fun k => { k with ramp := none }).setSl p slHold).trySeek p
    else d

/-! ### Homing (R164 to R168) -/

/-- SLED_HOME, R164, R166: a write of 1 to SLED[p].HOME, with the sled neither OFF nor in fault, nor already in a motion of
the device. -/
def execSledHome (p : Fin 32) (s : State) : Host.Outcome State Fault Refusal :=
  serve s fun d =>
    if d.ready && decide (d.rd .slMode [p] ≠ 1) && !d.on .slFault [p] && d.on .pkPresent [p]
        && !thas d.seek p && !thas d.homing p && decide (d.slSt p ≠ slStopping) then
      (d.abandonNow p abSled).beginHoming p false
    else d

/-- HOMING_START, R164, R165: in AUTO, of an UNHOMED sled, or of any present pickup's while a MEDIA_LOAD is in progress; not after a homing
that failed (R166). -/
def execHomingStart (p : Fin 32) (s : State) : Host.Outcome State Fault Refusal :=
  serve s fun d =>
    let named := d.cmds.any fun (c : Cmd) => c.op == 0x18 && c.phase == .running
    if d.sledAuto p && d.on .pkPresent [p] && !d.on .slFault [p] && !(d.sledS p).homeBlocked && d.pickupQuiet p
        && (d.pkS p).rows.isEmpty && (named || d.slSt p == slUnhomed) then
      d.beginHoming p false
    else d

/-- The homing ramps to rest from its present move, with the homing limits (R165, R167). -/
def Dev.homingRamp (d : Dev) (p : Nat) (h : Homing) : Dev :=
  let r := d.rampFrom p (d.rd .slHomeAccel [p])
  (d.setHoming p h).updSled p fun k => { k with move := none, ramp := some r }

/-! #### Chevron frames (R48, R165)

A frame is given as the times at which S0 crosses its lead arm and its trail arm, in 1/256 of a sample. -/

/-- R48: a crossing, interpolated to 1/16 of a sample. -/
def crossing (t : Nat) : Int := roundDiv (t : Int) 16

/-- Of the chevron frames with the lead arm of the next one, the arms' spacing and the frame pitch. -/
def chevrons : List (Nat × Nat) → List (Int × Int)
  | a :: b :: r => (crossing a.2 - crossing a.1, crossing b.1 - crossing a.1) :: chevrons (b :: r)
  | _ => []

/-- q of a frame in 2^−32 (Table 02-3). -/
def chevronQ (c : Int × Int) : Int := roundDiv (c.1 * 2 ^ 32) c.2

/-- R48: radius in nm of the mean q of n frames: 25.400 mm − 6.000 mm × q. -/
def chevronRadius (l : List (Int × Int)) : Int :=
  25400000 - roundDiv (6000000 * (l.map chevronQ).foldl (· + ·) 0) ((l.length : Int) * 2 ^ 32)

/-- R165 step 2: a frame of the pattern has q within 0.40 to 0.54. -/
def chevronSeen (c : Int × Int) : Bool := decide (0 < c.2 ∧ 40 * c.2 ≤ 100 * c.1 ∧ 100 * c.1 ≤ 54 * c.2)

/-- HOMING_PATTERN_SEEN, R165 steps 2 and 3, R167: eight consecutive chevron frames, with the lead arm of the ninth; the
radius is that of the last. -/
def execHomingPatternSeen (p : Fin 32) (frames : List (Nat × Nat)) (s : State) : Host.Outcome State Fault Refusal :=
  act s fun d =>
    let l := (chevrons frames).take 8
    match d.homingS p with
    | some h =>
      if (h.step = .inward ∨ h.step = .fromSwitch) ∧ l.length = 8 ∧ l.all chevronSeen then
        d.homingRamp p { h with
          step := .ramp, first := d.sledOut p + d.stepsOf p (22300000 - chevronRadius (l.drop 7)) }
      else d
    | none => d

/-- HOMING_SETTLE_END, R165 steps 3 and 4: 20 ms at rest have passed, and the read under R48 begins. -/
def execHomingSettleEnd (p : Fin 32) (s : State) : Host.Outcome State Fault Refusal :=
  act s fun d =>
    match d.homingS p with
    | some h => match h.step with
      | .settleFirst => d.setHoming p { h with step := .readFirst }
      | .settleSecond => d.setHoming p { h with step := .readSecond }
      | _ => d
    | none => d

/-- A homing has succeeded: SCALE in 2^−24 µm, ORIGIN in nm (R165 step 5, R168). -/
def Dev.homedNow (d : Dev) (p : Nat) (coarse : Nat) (scale : Nat) (origin : Int) : Dev :=
  let d := ((d.wr .slScale [p] scale).wrS .slOrigin [p] origin).wr .slCoarse [p] coarse
  let d := ({ d with homing := tdel d.homing p }).updSled p fun k =>
    { k with homed := true, homeBlocked := false, move := none, ramp := none }
  (((d.setSl p slHold).homingOver p true).raisePk p 20 evSledHomed ([coarse] ++ le 4 scale ++ leI 4 (d.rdS .slOrigin [p]))).trySeek p

/-- The second radius: SCALE outside 0.580 µm to 0.592 µm fails the homing (R166). -/
def Dev.secondRadius (d : Dev) (p : Nat) (h : Homing) (r2 : Int) : Dev :=
  let diff := r2 - h.r1
  if diff < 580 * 1024 ∨ 592 * 1024 < diff then d.homeFails p 1 5
  else
    let scale := roundDiv (diff * 2 ^ 14) 1000
    d.homedNow p 0 scale.toNat (h.r1 - roundDiv (scale * h.p1 * 1000) (2 ^ 32))

/-- HOMING_RADIUS_READ, R48, R165 steps 3 to 5: 384 consecutive frames, with the lead arm of the one after them. -/
def execHomingRadiusRead (p : Fin 32) (frames : List (Nat × Nat)) (s : State) : Host.Outcome State Fault Refusal :=
  serve s fun d =>
    let l := (chevrons frames).take 384
    let radius := chevronRadius l
    if l.length < 384 then d
    else match d.homingS p with
    | some h => match h.step with
      | .readFirst =>
        let P := d.slP p
        d.homingGo p { h with r1 := radius, p1 := P } .toSecond (P + 262144)
      | .readSecond => d.secondRadius p h radius
      | _ => d
    | none => d

/-- HOME_N_LOW, R167: during the inward move, before a pattern has been seen. P_home is the interpolated output of R150, rounded
down (DESIGN CHOICE, log entry 78). -/
def execHomeNLow (p : Fin 32) (s : State) : Host.Outcome State Fault Refusal :=
  act s fun d =>
    match d.homingS p with
    | some h =>
      if h.step = .inward then d.homingRamp p { h with step := .switchRamp, home := some (d.sledOut p) } else d
    | none => d

/-- HOMING_SWITCH_SEARCH_END, R168: no pattern within the 3.0 mm; the sled is homed on the switch alone. -/
def execHomingSwitchSearchEnd (p : Fin 32) (s : State) : Host.Outcome State Fault Refusal :=
  serve s fun d =>
    match d.homingS p with
    | some h =>
      if h.step = .fromSwitch ∧ d.moveEnded p then
        d.homedNow p 1 9830400 (21500000 - roundDiv (9830400 * h.home.getD 0 * 1000) (2 ^ 32))
      else d
    | none => d

/-- HOMING_TRAVEL_END, R166: the inward move has reached HOME_TRAVEL with neither a pattern nor the switch. -/
def execHomingTravelEnd (p : Fin 32) (s : State) : Host.Outcome State Fault Refusal :=
  serve s fun d =>
    match d.homingS p with
    | some h => if h.step = .inward ∧ d.moveEnded p then d.homeFails p 0 5 else d
    | none => d

/-- HOMING_READ_TIMEOUT, R166: a read does not complete within 400 frames. -/
def execHomingReadTimeout (p : Fin 32) (s : State) : Host.Outcome State Fault Refusal :=
  serve s fun d =>
    match d.homingS p with
    | some h => if h.step = .readFirst ∨ h.step = .readSecond then d.homeFails p 2 5 else d
    | none => d

/-! ### Bridges (R169, R555) -/

/-- COIL_OVERCURRENT, R169, R555: a bridge turns off: 0 to 3 the axes, 4 coil A, 5 coil B, 6 both coils of the sled. The
device makes no move of a sled in fault. -/
def execCoilOvercurrent (p : Fin 32) (coil : Fin 7) (s : State) : Host.Outcome State Fault Refusal :=
  serve s fun d =>
    if coil.val < 4 then
      if (d.axS p coil).tripped then d
      else
        (d.updAx p coil fun k => { k with tripped := true, coil := 0 }).raisePk p (16 + coil.val) evAxisFault [coil.val]
    else if d.on .slFault [p] then d
    else
      let d := (d.stopSled p true).wr .slFault [p] 1
      (d.raisePk p 20 evSledFault [coil.val - 4]).trySeek p

end Sys2Proof.Machine
end

