-- ==== Sys2Proof/Machine/Spindle.lean ====
section
/-! DEFINITION. Spindles (chapter 06): starts, catches and their retries, RUN and what is reported in it, offsets of the media
angle, stops, the host's writes that act on a spindle, gate faults, and spindles out of RUN too long (R394). -/

namespace Sys2Proof.Machine

/-! ### Starts (R193, R194, R576) -/

/-- A catch begins: all gates off, the observer not locked. -/
def Dev.beginCatch (d : Dev) (n : Nat) : Dev :=
  ((((d.gatesCut n).wr .spSource [n] 0).wr .spObslock [n] 0).updSpin n fun k => { k with obsGood := 0, obsBad := 0 }).setSp n
    spCatch

/-- The gates switch, with the controllers from rest and a source of the angle. Until a sample has computed duties they are 0: all
low sides on (DESIGN CHOICE, log entry 157). -/
def Dev.gatesOn (d : Dev) (n source : Nat) : Dev :=
  (d.wr .spSource [n] source).updSpin n fun k => { k with
    gates := true, braking := false, lowSide := false, ref := 0, idRef := 0, iqRef := 0, intD := 0, intQ := 0, intS := 0,
    openAngle := 0 }

/-- SPINDLE_START, R576, R522: while Riraiz runs, OFF with CTRL.EN, a nonzero target and no FAULT. -/
def execSpindleStart (n : Fin 16) (s : State) : Host.Outcome State Fault Refusal :=
  act s fun d =>
    if d.running ∧ d.spSt n = spOff ∧ d.on .spEn [n] ∧ d.rd .spTarget [n] ≠ 0 ∧ !d.on .spFault [n] then
      (d.updSpin n fun k => { k with attempt := 1, lost := false }).beginCatch n
    else d

/-- R193 step 1: the speed in rpm of a catch, 15 × the electrical frequency, from the time in REFCLK edges between like zero
crossings of one line-to-line voltage (0 when there were none) and the order in which the three crossed: U, V, W is forward
(R170). -/
def catchSpeed (period : Nat) (uvw : Bool) : Int :=
  let rpm : Int := if period = 0 then 0 else min 32767 (1500000000 / period)
  if uvw then rpm else -rpm

/-- CATCH_END, R193 steps 1 to 4: 50 ms of listening have given the back-EMF's period, its phase sequence and its angle. The
observer is seeded with angle and speed. -/
def execCatchEnd (n : Fin 16) (period : Nat) (uvw : Bool) (angle : Nat) (s : State) : Host.Outcome State Fault Refusal :=
  act s fun d =>
    if d.spSt n ≠ spCatch ∨ (d.spinS n).gates then d
    else
      let speed := catchSpeed period uvw
      let d := (d.wrS .spSpeed [n] speed).updSpin n fun k => { k with caught := speed }
      if 300 ≤ speed then
        (d.updSpin n fun k => { k with obsSpeed := speed, obsAngle := angle % 65536 }).gatesOn n 2
      else if speed ≤ -300 then (d.beginBrake n).setSp n spBrake
      else (d.gatesOn n 1).setSp n spAlign

/-- BRAKE_END, R193 step 4: the speed, as the zero crossings of the phase currents give it, has fallen below 300 rpm. -/
def execBrakeEnd (n : Fin 16) (s : State) : Host.Outcome State Fault Refusal :=
  act s fun d =>
    if d.spSt n = spBrake ∧ (d.rdS .spSpeed [n]).natAbs < 300 then ((d.gatesOff n).gatesOn n 1).setSp n spAlign else d

/-- ALIGN_END, R193 step 4: after 200 ms the open-loop speed rises from 0. -/
def execAlignEnd (n : Fin 16) (s : State) : Host.Outcome State Fault Refusal :=
  act s fun d =>
    if d.spSt n = spAlign then (d.updSpin n fun k => { k with ref := 0, openAngle := 0 }).setSp n spRamp else d

/-- RUN begins: the surfaces of the spindle are available again (R394). -/
def Dev.enterRun (d : Dev) (n : Nat) : Dev :=
  let d := (d.setUnavailable (2 * n) unSpindle false).setUnavailable (2 * n + 1) unSpindle false
  ((d.updSpin n fun k => { k with outSince := none, replaced := false }).wr .spSource [n] 2).setSp n spRun

/-- RUN_ENTRY, R193 steps 2 and 4: OBSLOCK is set, and the motor was caught turning forward or the ramp has reached
RAMP_END. -/
def execRunEntry (n : Fin 16) (s : State) : Host.Outcome State Fault Refusal :=
  act s fun d =>
    let st := d.spSt n
    if !d.on .spObslock [n] then d
    else if st = spCatch ∧ (d.spinS n).gates then
      (d.updSpin n fun k => { k with ref := 65536 * d.rdS .spSpeed [n], iqRef := 0, intS := 0 }).enterRun n
    else if st = spRamp ∧ 65536 * (d.rd .spRampEnd [n] : Int) ≤ (d.spinS n).ref then
      (d.updSpin n fun k => { k with iqRef := 0, intS := 0 }).enterRun n
    else d

/-- Attempts that a start, or a catch after ROTOR_LOST, has (R194, R199). -/
def Dev.attempts (d : Dev) (n : Nat) : Nat :=
  if (d.spinS n).lost then d.rd .spLossAttempts [n] else 1 + d.rd .spStartRetry [n]

/-- START_TIMEOUT, R194: no OBSLOCK within 2 s. A further attempt follows 500 ms of WAIT; after the last one the start has
failed. -/
def execStartTimeout (n : Fin 16) (s : State) : Host.Outcome State Fault Refusal :=
  act s fun d =>
    let st := d.spSt n
    let k := d.spinS n
    if d.on .spObslock [n] ∨ !(st = spAlign ∨ st = spRamp ∨ (st = spCatch ∧ k.gates)) then d
    else
      let d := (d.gatesCut n).wr .spSource [n] 0
      if k.attempt < d.attempts n then d.setSp n spWait
      else
        (d.setSp n spFailed).raise (spSrc n 0) evSpindleStartFail
          (le 4 k.attempt ++ leI 2 k.caught ++ [Config.directionCode (decide (0 ≤ k.caught)) % 256])

/-- WAIT_END, R194: the next attempt. -/
def execWaitEnd (n : Fin 16) (s : State) : Host.Outcome State Fault Refusal :=
  act s fun d =>
    if d.spSt n = spWait then (d.updSpin n fun k => { k with attempt := k.attempt + 1 }).beginCatch n else d

/-! ### Observer and media angle (R177 to R183) -/

/-- OBSLOCK_SET, R177: 64 consecutive current samples with the phase error below 10° at 300 rpm or more. -/
def execObslockSet (n : Fin 16) (s : State) : Host.Outcome State Fault Refusal :=
  act s fun d => if 64 ≤ (d.spinS n).obsGood then d.wr .spObslock [n] 1 else d

/-- OBSLOCK_CLEAR, R177, R183: 16 consecutive current samples with the error above 30°, or a speed below 200 rpm. While
media angle commutes the motor this is a warning. -/
def execObslockClear (n : Fin 16) (s : State) : Host.Outcome State Fault Refusal :=
  act s fun d =>
    let k := d.spinS n
    if !d.on .spObslock [n] ∨ (k.obsBad < 16 ∧ 200 ≤ k.obsSpeed.natAbs) then d
    else
      let d := d.wr .spObslock [n] 0
      let src := d.rd .spSource [n]
      if 3 ≤ src then d.raise (spSrc n 1) evObserverLoss (d.speedBytes n ++ [src]) else d

/-- OFFSET_LEARNED, R179: OBSLOCK and the lock of the side's MTO have held for 256 consecutive current samples. -/
def execOffsetLearned (n : Fin 16) (side : Fin 2) (s : State) : Host.Outcome State Fault Refusal :=
  act s fun d =>
    let l := (d.spinS n).learn.getD side []
    if !(d.spinS n).learnOwed.getD side.val false ∨ l.length < 256 then d
    else
      let v := circularMean l
      let d := (d.wr .spOffset [n, side] v).wr .spLearned [n, side] 1
      let d := d.updSpin n fun k => { k with
        learn := k.learn.set side [], learnOwed := k.learnOwed.set side false, trying := true, mismatchPosted := false }
      d.raise (spSrc n 1) evOffsetLearned ([side.val] ++ le 2 v)

/-- ANGLE_MISMATCH, R180: 100 ms with media angle available and no handover; the observer is kept until a new lock. -/
def execAngleMismatch (n : Fin 16) (s : State) : Host.Outcome State Fault Refusal :=
  act s fun d =>
    let k := d.spinS n
    match k.media with
    | some (side, a) =>
      if d.rd .spAnglesrc [n] ≠ 0 ∨ d.rd .spSource [n] ≠ 2 ∨ !k.trying ∨ k.mismatchPosted then d
      else
        (d.updSpin n fun k => { k with trying := false, mismatchPosted := true }).raise (spSrc n 1) evAngleMismatch
          ([side] ++ leI 4 (angleDiff a k.obsAngle))
    | none => d

/-! ### Reports in RUN (R192, R195) -/

/-- SPINDLE_AT_SPEED, R195: within ±0.5 % of the target for 100 ms. -/
def execSpindleAtSpeed (n : Fin 16) (s : State) : Host.Outcome State Fault Refusal :=
  act s fun d =>
    let t : Int := d.rd .spTarget [n]
    let v := d.rdS .spSpeed [n]
    if d.spSt n = spRun ∧ !d.on .spAtspeed [n] ∧ t ≠ 0 ∧ ((200 * (v - t)).natAbs : Int) ≤ t then
      (d.wr .spAtspeed [n] 1).raise (spSrc n 0) evSpindleAtSpeed (d.speedBytes n)
    else d

/-- SPEED_CEILING, R192, R195: steady for 100 ms under VLIMIT with the target not reached; once for a target. -/
def execSpeedCeiling (n : Fin 16) (s : State) : Host.Outcome State Fault Refusal :=
  act s fun d =>
    let t : Int := d.rd .spTarget [n]
    let v := d.rdS .spSpeed [n]
    if d.spSt n = spRun ∧ d.on .spVlimit [n] ∧ !(d.spinS n).ceilingPosted ∧ t < ((200 * (v - t)).natAbs : Int) then
      let was := d.on .spAtspeed [n]
      let d := d.updSpin n fun k => { k with ceilingPosted := true }
      let d := d.raise (spSrc n 3) evSpeedCeiling (d.speedBytes n ++ le 2 (d.rd .spVbus [n]))
      if was then d else (d.wr .spAtspeed [n] 1).raise (spSrc n 0) evSpindleAtSpeed (d.speedBytes n)
    else d

/-! ### Stops, enables and faults (R190, R196, R198, R201) -/

/-- SPINDLE_STOPPED, R196: no zero crossing of the phase currents for 200 ms while the low sides brake. -/
def execSpindleStopped (n : Fin 16) (s : State) : Host.Outcome State Fault Refusal :=
  serve s fun d =>
    if d.spSt n = spStopping ∧ (d.spinS n).braking then
      ((d.spindleOff n).wrS .spSpeed [n] 0).raise (spSrc n 0) evSpindleStopped
    else d

/-- Number of spindles with CTRL.EN set. -/
def Dev.enabledSpindles (d : Dev) : Nat := ((List.range 16).filter fun n => d.on .spEn [n]).length

/-- SPINDLE_EN_WRITE, R189, R198: 0 turns the gates off at the next PWM period boundary, and the disc coasts, with the target
kept; 1 lets a start be requested. A ninth enabled spindle in class S is a case of Table 20-2. -/
def execSpindleEnWrite (n : Fin 16) (en : Bool) (s : State) : Host.Outcome State Fault Refusal :=
  if s.dev.ready ∧ en ∧ !s.dev.on .spEn [n] ∧ s.dev.rd .spClass = 0 ∧ 8 ≤ s.dev.enabledSpindles then .fault .classSpindles
  else hostAct s fun d => if en then d.wr .spEn [n] 1
    else (d.wr .spEn [n] 0).updSpin n fun k => { k with enOff := true }

/-- CMDSRC_WRITE, R187: in effect at the next speed sample. -/
def execCmdsrcWrite (n : Fin 16) (src : Fin 4) (s : State) : Host.Outcome State Fault Refusal :=
  hostAct s fun d => d.updSpin n fun k => { k with cmdsrcPending := some src.val }

/-- CLASS_WRITE, R189, R190. Class S with more than 8 spindles enabled is a case of Table 20-2. -/
def execClassWrite (cls : Fin 2) (s : State) : Host.Outcome State Fault Refusal :=
  if s.dev.ready ∧ cls.val = 0 ∧ 8 < s.dev.enabledSpindles then .fault .classSpindles
  else hostAct s fun d => d.wr .spClass [] cls.val

/-- PIN_CMD_LOST, Table 06-3: a DUTY or FREQ input whose edges stop gives a target of 0; reported once. -/
def execPinCmdLost (n : Fin 16) (s : State) : Host.Outcome State Fault Refusal :=
  act s fun d =>
    let src := d.rd .spCmdsrc [n]
    if src < 2 ∨ (d.spinS n).pinLost then d
    else
      let d := (d.updSpin n fun k => { k with pinLost := true }).wr .spPinValue [n] 0
      (d.setTarget n 0).raise (spSrc n 3) evPinCmdLost [src]

/-- GATE_FAULT, R201: a shunt current in mA above OC_LIMIT drives the six gates low, whatever the state. -/
def execGateFault (n : Fin 16) (phase : Fin 3) (current : Nat) (s : State) : Host.Outcome State Fault Refusal :=
  act s fun d =>
    if current ≤ d.rd .spOcLimit [n] then d
    else ((d.spindleOff n).wr .spFault [n] 1).raise (spSrc n 2) evGateFault ([phase.val] ++ le 4 current)

/-! ### Spindles out of RUN (R394) -/

/-- The take and parity blocks of the lane queues of surface p go to other surfaces. -/
def Dev.replaceHeld (d : Dev) (p : Nat) : Dev :=
  let ids := (d.pkS p).queues.flatten.filter fun i =>
    match d.blk? i with | some b => b.kind != BlkKind.raw | none => false
  ids.foldl (fun (d : Dev) i => d.expel i clsMedia detWriteExhausted detWriteExhausted) d

/-- REPLACE_TIMEOUT, R199, R394: the spindle has been out of RUN for REPLACE_TMO: its surfaces are unavailable for writing, and
their share of held writes is placed elsewhere. -/
def execReplaceTimeout (n : Fin 16) (s : State) : Host.Outcome State Fault Refusal :=
  serve s fun d =>
    if d.spSt n = spRun ∨ (d.spinS n).replaced ∨ (d.spinS n).outSince.isNone then d
    else
      let d := d.updSpin n fun k => { k with replaced := true }
      let d := (d.setUnavailable (2 * n) unSpindle true).setUnavailable (2 * n + 1) unSpindle true
      (d.replaceHeld (2 * n)).replaceHeld (2 * n + 1)

end Sys2Proof.Machine
end

