-- ==== Sys2Proof/Machine/Spring.lean ====
section
/-! DEFINITION. Spring links (chapter 11): link states, sequence and replay, credits and tags, write grants, reads,
status, queue reset, and the sharing of the basin under sustained load. -/

namespace Sys2Proof.Machine

/-! ### Sending (R351 to R355) -/

/-- State of link l (Table 11-4). -/
def Dev.lnState (d : Dev) (l : Nat) : Nat := d.rd .lnState [l]

/-- Set the state of link l. -/
def Dev.setLn (d : Dev) (l st : Nat) : Dev := d.wr .lnState [l] st

/-- The event sources of link l. -/
def lnSrc (l sub : Nat) : Nat := 0x600 + 16 * l + sub

/-- R355: link l is UP and its replay buffer has room. -/
def Dev.canSend (d : Dev) (l : Nat) : Bool := d.lnState l == lnUp && decide ((d.lk l).replay.length < 256)

/-- The bytes of a packet: header, body, CRC-32 (R351, Table 11-1). -/
def Packet.bytes (p : Packet) : Bytes :=
  let b := [p.ptype, if p.init then 1 else 0] ++ le 2 p.seq ++ le 2 p.body.length ++ [0, 0] ++ p.body
  b ++ le 4 (crc32 b)

/-- The blocks that carry a packet: 7 bytes in the start block, 8 in each data block, the rest in the terminate block (R351). -/
def Packet.blocks (p : Packet) : Nat := 2 + (8 + p.body.length + 4 - 7) / 8

/-- Blocks of a link's stream but for alignment blocks in a span of device time: 1,562,500,000 blocks of a link a second, of which one
in 16,384 is an alignment block (R348, R350). -/
def lineBlocks (edges : Nat) : Nat := edges * 125 * 16383 / (8 * 16384)

/-- R348: n more blocks have gone into the link's stream. Alignment blocks stand on all four lanes after each 16,383 other blocks
of a lane, which the packets and the idle blocks between them make up (log entry 125). -/
def Dev.lineOn (d : Dev) (l n : Nat) : Dev :=
  let was := (d.lk l).txBlocks
  let now := was + n
  let due := now / 65532 - was / 65532
  let d := if due = 0 then d else d.emit (.align l ((was / 65532 + 1) % 256) due)
  d.updLk l fun k => { k with txBlocks := now }

/-- Idle blocks fill the stream up to the present device time. -/
def Dev.lineIdle (d : Dev) (l : Nat) : Dev :=
  match (d.lk l).txFrom with
  | none => d
  | some t =>
    let n := lineBlocks (d.time - t) - (d.lk l).txBlocks
    if n = 0 then d else (d.lineOn l n).updLk l fun k => { k with sinceIdle := 0 }

/-- R348, R349: a packet goes into the link's block stream. An idle block stands before it where 2,048 blocks would else go without
one. -/
def Dev.emitPkt (d : Dev) (l : Nat) (p : Packet) : Dev :=
  let d := d.lineIdle l
  let idle := decide (2048 ≤ (d.lk l).sinceIdle + p.blocks)
  let d := if idle then d.emit (.idle l) else d
  let d := d.lineOn l (p.blocks + if idle then 1 else 0)
  (d.updLk l fun k => { k with sinceIdle := (if idle then 0 else k.sinceIdle) + p.blocks }).emit (.spring l p)

/-- Send one sequenced packet: it takes the next SEQ and stays in the replay buffer until it is acknowledged. -/
def Dev.sendPacket (d : Dev) (l ptype : Nat) (body : Bytes) (init : Bool := false) : Dev :=
  let k := d.lk l
  let pkt : Packet := { seq := k.txSeq, ptype := ptype, body := body, init := init }
  (d.updLk l fun k => { k with txSeq := (k.txSeq + 1) % 2 ^ 16, replay := k.replay ++ [pkt] }).emitPkt l pkt

/-- The body of a LACK or LNAK (Table 11-2). -/
def ackBody (kind reason ackSeq grant tag : Nat) : Bytes := [kind, reason] ++ le 2 ackSeq ++ le 2 grant ++ le 2 tag

/-- Send an unsequenced LACK or LNAK. -/
def Dev.sendAck (d : Dev) (l kind reason ackSeq : Nat) (grant tag : Nat := 0) : Dev :=
  d.emitPkt l { seq := 0, ptype := 6, body := ackBody kind reason ackSeq grant tag }

/-- LNAK SEQUENCE with the number expected (R353, R356). -/
def Dev.sendLnak (d : Dev) (l : Nat) : Dev := d.sendAck l 1 0 (d.lk l).rxSeq

/-- Set bit 1 of CLASS in a STAT body while the link's deferred log is unread (R370). -/
def flagStat (unread : Bool) (body : Bytes) : Bytes := body.set 2 (flagged (body.getD 2 0) unread)

/-- A waiting packet goes out. A STAT moves its tag from OPEN to STATTED (R382): type 20 is a STAT that goes without the
flag, types 21 and 22 those that R377 sends again, whose tags have ended, 22 without the flag. -/
def Dev.sendWaiting (d : Dev) (l : Nat) (x : Nat × Bytes) : Dev :=
  let unread := (d.lk l).unread
  if x.1 = 4 then ((d.sendPacket l 4 (flagStat unread x.2)).dec .lnTagOpen [l]).inc .lnTagStatted [l]
  else if x.1 = 20 then ((d.sendPacket l 4 x.2).dec .lnTagOpen [l]).inc .lnTagStatted [l]
  else if x.1 = 21 then d.sendPacket l 4 (flagStat unread x.2)
  else if x.1 = 22 then d.sendPacket l 4 x.2
  else d.sendPacket l x.1 x.2

/-- Send waiting packets in order while there is room, through the first that `last` accepts. -/
def Dev.drainTx (last : Nat → Bool) (l : Nat) : Nat → Dev → Dev
  | 0, d => d
  | n + 1, d =>
    match (d.lk l).txq with
    | [] => d
    | x :: rest =>
      if d.canSend l then
        let d := (d.updLk l fun k => { k with txq := rest }).sendWaiting l x
        if last x.1 then d else Dev.drainTx last l n d
      else d

/-- The resent STATs stand first in the queue; send them as far as there is room (R377). -/
def Dev.sendResent (d : Dev) (l : Nat) : Dev :=
  Dev.drainTx (fun _ => false) l ((d.lk l).txq.takeWhile fun x => x.1 == 21 || x.1 == 22).length d

/-- R355: resend the packets of the replay buffer from `from_` on, in order and unchanged. -/
def Dev.resendFrom (d : Dev) (l seq : Nat) : Dev :=
  let ps := (d.lk l).replay.dropWhile fun p => p.seq != seq
  let d := ps.foldl (fun d p => d.emitPkt l p) d
  d.inc .lnReplays [l] ps.length

/-! ### Receiving -/

/-- R353: a packet is discarded; the first after an accepted one is answered with LNAK SEQUENCE. -/
def Dev.rxDiscard (d : Dev) (l : Nat) : Dev :=
  if (d.lk l).discarded then d else (d.updLk l fun k => { k with discarded := true }).sendLnak l

/-- R354: LACK with the last number accepted. -/
def Dev.sendLack (d : Dev) (l : Nat) : Dev :=
  (d.updLk l fun k => { k with owed := 0 }).sendAck l 0 0 ((d.lk l).rxSeq + 2 ^ 16 - 1)

/-- A sequenced packet with a good CRC arrives: its SEQ is the next expected one, and `k` goes on; else it is
discarded. Only an UP link receives sequenced packets (R357). The 32nd packet not yet acknowledged is answered at once (R354). -/
def Dev.rxAccept (d : Dev) (l seq : Nat) (k : Dev → Dev) : Dev :=
  if d.lnState l ≠ lnUp then d
  else if seq % 2 ^ 16 ≠ (d.lk l).rxSeq then d.rxDiscard l
  else
    let d := k (d.updLk l fun x => { x with rxSeq := (x.rxSeq + 1) % 2 ^ 16, owed := x.owed + 1, discarded := false })
    if 32 ≤ (d.lk l).owed then d.sendLack l else d

/-- The packet with this SEQ would be accepted. -/
def Dev.rxNext (d : Dev) (l seq : Nat) : Bool := d.lnState l == lnUp && seq % 2 ^ 16 == (d.lk l).rxSeq

/-! ### Tags, grants and queue reset (R361 to R366, R373 to R377) -/

/-- Tag t of link l is open: its command is in flight, or its STAT waits to be sent. -/
def Dev.tagOpen (d : Dev) (l t : Nat) : Bool :=
  (d.cmd (.link l t)).isSome
    || ((d.lk l).txq.any fun x => (x.1 == 4 || x.1 == 20) && ofLe (slice x.2 0 2) == t)
    || ((d.lk l).qreset.any fun q => q.2.1.contains t && !q.2.2)

/-- R374 steps 1 and 2, R375: abort a tag: its grants end and their units return to free, its data leaves the basin. -/
def Dev.abortTag (d : Dev) (l t : Nat) : Dev :=
  let gs := (d.lk l).grants.filter fun g => g.tag == t
  let d := gs.foldl (fun d g => d.releaseUnits (.grant l g.id)) d
  let d := d.updLk l fun k => { k with
    grants := k.grants.filter fun g => g.tag != t,
    expired := k.expired ++ gs.map fun g => (g.id, t),
    granted := tdel k.granted t,
    regrant := k.regrant.filter fun g => g.1 != t,
    txq := k.txq.filter fun x => !(x.1 == 3 && ofLe (slice x.2 0 2) == t) }
  d.abort (.link l t)

/-- Tags of the commands of link l in flight, in acceptance order. -/
def Dev.linkTags (d : Dev) (l : Nat) : List Nat :=
  d.cmds.filterMap fun c => match c.origin with | .link l' t => if l' = l then some t else none | _ => none

/-- R374: start a queue reset with a REASON: 1 sender request, 2 register. -/
def Dev.startQreset (d : Dev) (l reason : Nat) : Dev :=
  let ts := d.linkTags l
  let d := ts.foldl (fun d t => d.abortTag l t) d
  d.updLk l fun k => { k with qreset := k.qreset ++ [(reason, ts, false)] }

/-- The STATs of link l that the sender has not acknowledged (R377): those that wait since an earlier reset, those sent, then those
still waiting, which count as sent now. One whose write has failed since goes without the flag again (R370). -/
def Link.unacked (k : Link) : List (Nat × Bytes) :=
  let reported := fun (b : Bytes) => k.deferred.any fun e => e.seq == ofLe (slice b 0 2)
  k.resend ++ ((k.replay.filter fun p => p.ptype == 4).map fun p => (if reported p.body then 22 else 21, p.body))
    ++ ((k.txq.filter fun x => x.1 == 4 || x.1 == 20 || x.1 == 21 || x.1 == 22).map fun x =>
        (if x.1 = 20 ∨ x.1 = 22 then 22 else 21, x.2))

/-- R356, R581: the link reset: open tags aborted with REASON 3, every outstanding credit counted as returned, STATs
kept for the next INIT (R377). -/
def Dev.linkReset (d : Dev) (l : Nat) : Dev :=
  let ts := d.linkTags l
  let d := ts.foldl (fun d t => d.abortTag l t) d
  let k := d.lk l
  let waiting := (k.txq.filter fun x => x.1 == 4 || x.1 == 20).length
  let d := (d.dec .lnTagOpen [l] waiting).inc .lnTagStatted [l] waiting
  let tags := (k.qreset.flatMap fun q => q.2.1) ++ ts
  let aborted := d.rd .lnTagOpen [l]
  let d := (d.inc .lnTagReset [l] aborted).dec .lnTagOpen [l] aborted
  let out := d.rd .lnCreditOutstanding [l]
  let d := (d.inc .lnCreditReturned [l] out).dec .lnCreditOutstanding [l] out
  let d := d.updLk l fun k => { k with
    replay := [], txq := [], resends := 0, owed := 0, discarded := false, creditLimit := 0, grants := [],
    expired := [], granted := [], regrant := [], nextGrant := 1, resend := k.unacked, qreset := [(3, tags, true)] }
  d.raise (lnSrc l 0) evLinkReset (le 4 aborted ++ le 4 out)

/-! ### Link states (Table 11-4, R348, R350, R356, R357, R581) -/

/-- All four lanes of link l hold block lock. -/
def Dev.allLocked (d : Dev) (l : Nat) : Bool := (List.range 4).all fun i => (d.lk l).locked.contains i

/-- Enter TRAIN, the transmitter running; with block lock on every lane the link goes on to ALIGN. -/
def Dev.enterTrain (d : Dev) (l : Nat) : Dev :=
  let d := d.updLk l fun k => { k with txFrom := some (k.txFrom.getD d.time) }
  if d.allLocked l then (d.setLn l lnAlign).updLk l fun k => { k with fromRetrain := false } else d.setLn l lnTrain

/-- Leave UP for RETRAIN, counted and reported with its cause (R356). -/
def Dev.enterRetrain (d : Dev) (l : Nat) : Dev := (d.setLn l lnRetrain).inc .lnRetrains [l]

/-- BLOCK_LOCK_GAIN, R348: with all four lanes the link enters ALIGN. -/
def execBlockLockGain (l : Fin 8) (lane : Fin 4) (s : State) : Host.Outcome State Fault Refusal :=
  act s fun d =>
    let st := d.lnState l
    if st = lnDisabled then d
    else
      let d := (d.lineIdle l).updLk l fun k => { k with locked := if k.locked.contains lane then k.locked else k.locked ++ [lane.val] }
      if d.allLocked l ∧ (st = lnTrain ∨ st = lnRetrain) then
        (d.setLn l lnAlign).updLk l fun k => { k with fromRetrain := st == lnRetrain }
      else d

/-- BLOCK_LOCK_LOSS, Table 11-4, R356. -/
def execBlockLockLoss (l : Fin 8) (lane : Fin 4) (s : State) : Host.Outcome State Fault Refusal :=
  act s fun d =>
    let st := d.lnState l
    if st = lnDisabled then d
    else
      let d := d.updLk l fun k => { k with locked := k.locked.filter fun x => x != lane.val }
      if st = lnUp then (d.enterRetrain l).raise (lnSrc l 0) evLinkDown [lane]
      else if st = lnAlign ∧ (d.lk l).fromRetrain then d.enterRetrain l
      else if st = lnAlign ∨ st = lnInit then d.setLn l lnTrain
      else d

/-- An inverted pair shows a control block's sync header as a data block's (R350). -/
def pairInverted (a : AlignSeen) : Bool := a.sync == 1

/-- The payload with the inversion corrected. -/
def pairPayload (a : AlignSeen) : Nat := if pairInverted a then 2 ^ 64 - 1 - a.word else a.word

/-- R348: an ordered set of type 0x4B with D1 = 0x5C and O code 0. -/
def pairOk (a : AlignSeen) : Bool :=
  (a.sync == 1 || a.sync == 2) && pairPayload a % 2 ^ 16 == 0x5C4B && pairPayload a / 2 ^ 32 % 16 == 0

/-- D2, the lane number. -/
def pairLane (a : AlignSeen) : Nat := pairPayload a / 2 ^ 16 % 2 ^ 8

/-- R350: alignment blocks of the four lanes stand on the four pairs, at most 64 blocks apart. -/
def alignedPairs (pairs : List AlignSeen) : Bool :=
  let skews := pairs.map AlignSeen.skew
  pairs.length == 4 && pairs.all pairOk && ((List.range 4).all fun i => (pairs.map pairLane).contains i)
    && decide (skews.foldl max 0 ≤ skews.foldl min (skews.headD 0) + 64)

/-- LANE_MAP: the lane found on each pair. -/
def laneMapOf (pairs : List AlignSeen) : Nat := pairs.foldr (fun a n => pairLane a + 4 * n) 0

/-- LANE_INV: the inverted pairs. -/
def laneInvOf (pairs : List AlignSeen) : Nat := pairs.foldr (fun a n => (if pairInverted a then 1 else 0) + 2 * n) 0

/-- ALIGNMENT_FOUND, R350, R356, R357: from RETRAIN the link is UP again and says which number it expects; else it
enters INIT, with sequence numbers afresh and CREDIT carrying INIT. -/
def execAlignmentFound (l : Fin 8) (pairs : List AlignSeen) (s : State) : Host.Outcome State Fault Refusal :=
  act s fun d =>
    if d.lnState l ≠ lnAlign ∨ !alignedPairs pairs then d
    else
      let d := d.lineIdle l
      let d := (d.wr .lnLaneMap [l] (laneMapOf pairs)).wr .lnLaneInv [l] (laneInvOf pairs)
      if (d.lk l).fromRetrain then
        ((d.setLn l lnUp).updLk l fun k => { k with resends := 0 }).sendLnak l
      else
        let d := (d.setLn l lnInit).updLk l fun k => { k with
          txSeq := 0, rxSeq := 0, replay := [], discarded := false, owed := 0, resends := 0, creditLimit := 0,
          inits := k.inits + 1, creditAt := some d.time }
        d.sendPacket l 7 (le 4 0 ++ le 2 (d.rd .lnReturnTmo [l])) true

/-- LACK, R354, R357: every packet up to ACK_SEQ is acknowledged; in INIT, LACK 0 brings the link UP, and the STATs of
R377 are sent again. -/
def execLack (l : Fin 8) (ackSeq : Nat) (s : State) : Host.Outcome State Fault Refusal :=
  act s fun d =>
    let k := d.lk l
    let st := d.lnState l
    if (st = lnUp ∨ st = lnInit) ∧ (k.replay.any fun p => p.seq == ackSeq % 2 ^ 16) then
      let rest := (k.replay.dropWhile fun p => p.seq != ackSeq % 2 ^ 16).drop 1
      let d := d.updLk l fun k => { k with replay := rest, resends := 0 }
      if st = lnInit then
        let d := d.setLn l lnUp
        let d := d.updLk l fun k => { k with txq := k.resend ++ k.txq, resend := [] }
        (d.raise (lnSrc l 0) evLinkUp (le 4 k.inits)).sendResent l
      else d
    else d

/-- LNAK, R353: SEQUENCE makes the device resend from ACK_SEQ; GRANT_EXPIRED names a grant of the receiver, and the
device holds none from the sender. -/
def execLnak (l : Fin 8) (expired : Bool) (ackSeq : Nat) (s : State) : Host.Outcome State Fault Refusal :=
  act s fun d =>
    if !expired ∧ (d.lnState l = lnUp ∨ d.lnState l = lnInit) then d.resendFrom l (ackSeq % 2 ^ 16) else d

/-- LINK_PROTOCOL for a packet accepted for sequencing only (R352). -/
def Dev.protocolError (d : Dev) (l seq ptype : Nat) : Dev :=
  d.rxAccept l seq fun d => d.raise (lnSrc l 2) evLinkProtocol [ptype]

/-- R352: the CRC-32 of a frame is good, and its LENGTH agrees with it. -/
def frameGood (frame : Bytes) : Bool :=
  let n := frame.length - 4
  decide (12 ≤ frame.length) && ofLe (slice frame n 4) == crc32 (frame.take n) && ofLe (slice frame 4 2) == frame.length - 12

/-- TYPE of a frame, and whether Table 11-2 lets a sender send it. -/
def frameType (frame : Bytes) : Nat := frame.headD 0 % 16
def senderTypes : List Nat := [1, 3, 5, 6, 7]

/-- PACKET_DISCARD, R352, R353: a frame with a bad CRC or LENGTH is discarded and counted in CRC_ERR; one of a type that its
sender may not send is accepted for sequencing only; a sequenced one out of sequence is discarded. Any other frame is the
packet of another row and does nothing here. -/
def execPacketDiscard (l : Fin 8) (frame : Bytes) (s : State) : Host.Outcome State Fault Refusal :=
  act s fun d =>
    let seq := ofLe (slice frame 2 2)
    if d.lnState l ≠ lnUp ∧ d.lnState l ≠ lnInit then d
    else if !frameGood frame then (d.inc .lnCrcErr [l]).rxDiscard l
    else if d.lnState l = lnInit then d
    else if !senderTypes.contains (frameType frame) then d.protocolError l seq (frameType frame)
    else if frameType frame ≠ 6 ∧ seq ≠ (d.lk l).rxSeq then d.rxDiscard l
    else d

/-- UNSUPPORTED_PACKET_TYPE, R352: a packet of a type that the sender may send is none such. -/
def execUnsupportedPacketType (l : Fin 8) (seq ptype : Nat) (s : State) : Host.Outcome State Fault Refusal :=
  act s fun d => if senderTypes.contains ptype then d else d.protocolError l seq ptype

/-! ### Commands of the sender (R358 to R362, R367, R368, R372) -/

/-- R358, R361, R383: the sender may not send the CMD: no credit is outstanding, or the tag is open. A tag above 1,023 is
none of the cases of R383 (log entry 106). -/
def Dev.cmdMisuse (d : Dev) (l tag : Nat) : Bool := d.rd .lnCreditOutstanding [l] == 0 || d.tagOpen l tag

/-- R382: a CMD moves one credit from OUTSTANDING to CONSUMED and adds one tag to ISSUED and OPEN; its command joins
those in flight, and `k` goes on. -/
def Dev.acceptCmd (d : Dev) (l seq : Nat) (c : Cmd) (k : Dev → Origin → Dev) : Dev :=
  d.rxAccept l seq fun d =>
    let d := (d.dec .lnCreditOutstanding [l]).inc .lnCreditConsumed [l]
    let d := (d.inc .lnTagIssued [l]).inc .lnTagOpen [l]
    k ((d.enlist c).noteNeed c.op) c.origin

/-- A command of link l: against R358 or R361, or against R399 where R362 does not refuse it, the device's behaviour is
undefined (R383). -/
def springCmd (l seq : Nat) (c : Cmd) (rangeOk : Bool) (refusal : Dev → Option (Nat × Nat)) (s : State)
    (k : Dev → Origin → Dev) : Host.Outcome State Fault Refusal :=
  let tag := match c.origin with | .link _ t => t | _ => 0
  if s.dev.rxNext l seq && s.dev.cmdMisuse l tag then .fault .senderMisuse
  else if s.dev.rxNext l seq && !rangeOk && (refusal s.dev).isNone then .fault .senderMisuse
  else serve s fun d => d.acceptCmd l seq c fun d o =>
    match refusal d with
    | some st => d.refuse o st.1 st.2
    | none => k d o

/-- R362 for a WRITE. -/
def Dev.springWriteRefusal (c : Cmd) (d : Dev) : Option (Nat × Nat) :=
  match d.serviceRefusal with
  | some st => some st
  | none => d.writeRefusal c false

/-- R362 for a READ: as a RETRIEVE finds it at its start. -/
def Dev.springReadRefusal (c : Cmd) (d : Dev) : Option (Nat × Nat) :=
  match d.serviceRefusal with
  | some st => some st
  | none => if d.heldWhole c then none else match d.take? c.take with
    | none => some (clsResource, detTakeUnknown)
    | some t => if t.length < c.offset + c.length then some (clsResource, detBeyondEnd) else none

/-- OFFSET and LENGTH of a CMD (R399); a LENGTH of 0 moves no byte (log entry 106). -/
def springRangeOk (write : Bool) (offset length : Nat) : Bool :=
  offset % 64 == 0 && length % 64 == 0 && (!write || decide (offset + length ≤ 2 ^ 46))

/-- WRITE, R363: the command opens its tag and waits for XRDY to ask for its data. -/
def execSpringWrite (l : Fin 8) (seq tag : Nat) (fua : Bool) (cookie take offset length hostTime : Nat) (s : State) :
    Host.Outcome State Fault Refusal :=
  let c : Cmd := { origin := .link l tag, op := 0x01, cookie := cookie, fua := fua, take := take, offset := offset,
                   length := length, hostTime := hostTime }
  springCmd l seq c (springRangeOk true offset length) (Dev.springWriteRefusal c) s fun d o => d.beginRanged s.mem o

/-- READ, R367. -/
def execSpringRead (l : Fin 8) (seq tag cookie take offset length : Nat) (s : State) :
    Host.Outcome State Fault Refusal :=
  let c : Cmd := { origin := .link l tag, op := 0x02, cookie := cookie, take := take, offset := offset,
                   length := length }
  springCmd l seq c (springRangeOk false offset length) (Dev.springReadRefusal c) s fun d o => d.beginRanged s.mem o

/-- LOG, R368: the oldest entries go as DATA at OFFSET 0, 32, 64 and so on, and leave the log. -/
def execSpringLog (l : Fin 8) (seq tag cookie length : Nat) (s : State) : Host.Outcome State Fault Refusal :=
  let c : Cmd := { origin := .link l tag, op := 0x0B, cookie := cookie, length := length }
  springCmd l seq c true (fun _ => none) s fun d o =>
    let log := (d.lk l).deferred
    let n := min (length / 32) log.length
    let left := log.drop n
    let d := (log.take n).zipIdx.foldl (fun d e =>
      d.queuePkt l 3 (le 2 tag ++ zeros 6 ++ le 8 (32 * e.2) ++ e.1.bytes)) d
    let d := (d.updLk l fun k => { k with deferred := left, unread := !left.isEmpty }).wr .lnDeferCount [l] left.length
    d.finish o clsOk 0 (reportResult (32 * n) (32 * log.length))

/-- UNKNOWN_OP, R362: STAT DEVICE 0x0001. -/
def execUnknownOp (l : Fin 8) (seq tag op cookie : Nat) (s : State) : Host.Outcome State Fault Refusal :=
  springCmd l seq { origin := .link l tag, op := op + 0x100, cookie := cookie } true (fun _ => none) s fun d o =>
    d.refuse o clsDevice detUnknownOpcode

/-- The grant of a link. -/
def Link.grant? (k : Link) (id : Nat) : Option Grant := k.grants.find? fun g => g.id == id

/-- R364, R383: a DATA packet names an open grant of its tag, continues it, and carries 4,096 bytes unless it is the
last. -/
def Link.dataOk (k : Link) (tag grant offset : Nat) (payload : Bytes) : Bool :=
  match k.grant? grant with
  | none => false
  | some g =>
    let left := g.length - g.got.length
    g.tag == tag && decide (offset = g.offset + g.got.length) && payload.length == min 4096 left

/-- The grant expired or was aborted. -/
def Link.isExpired (k : Link) (tag grant : Nat) : Bool := (k.grant? grant).isNone && k.expired.contains (grant, tag)

/-- DATA, R364 to R366, R375: the bytes fill their grant, whose units move from reserved to held (R363); the packet that
completes the grant hands its bytes to the command. DATA of an expired or aborted grant is answered with LNAK
GRANT_EXPIRED. -/
def execSpringData (l : Fin 8) (seq tag grant offset : Nat) (payload : Bytes) (s : State) :
    Host.Outcome State Fault Refusal :=
  let k := s.dev.lk l
  if s.dev.rxNext l seq && !k.isExpired tag grant && !k.dataOk tag grant offset payload then .fault .senderMisuse
  else serve s fun d => d.rxAccept l seq fun d =>
    let k := d.lk l
    match k.grant? grant with
    | none => d.sendAck l 1 1 (k.rxSeq + 2 ^ 16 - 1) grant tag
    | some g =>
      let o : Origin := .link l tag
      let d := (d.arriveUnits (.grant l grant) (unitsFor g.length)).noteIngress payload.length
      let got := g.got ++ payload
      if g.length ≤ got.length then
        let d := d.updLk l fun k => { k with grants := k.grants.filter fun x => x.id != grant }
        (d.renameUnits (.grant l grant) (.write o)).updCmd o fun c => c.receive (g.offset - c.offset) got
      else
        d.updLk l fun k => { k with grants := k.grants.map fun x => if x.id = grant then { x with got := got } else x }

/-- QRST, R373: a queue reset at the sender's request. -/
def execQrst (l : Fin 8) (seq : Nat) (s : State) : Host.Outcome State Fault Refusal :=
  serve s fun d => d.rxAccept l seq fun d => d.startQreset l 1

/-- CREDIT, R360: returned credits go back into the pool. -/
def execCredit (l : Fin 8) (seq count : Nat) (s : State) : Host.Outcome State Fault Refusal :=
  act s fun d => d.rxAccept l seq fun d =>
    let n := min count (d.rd .lnCreditOutstanding [l])
    (d.dec .lnCreditOutstanding [l] n).inc .lnCreditReturned [l] n

/-! ### What the device sends -/

/-- Slots of the pool in use: outstanding credits and open tags of every link (R359). -/
def Dev.slotsUsed (d : Dev) : Nat :=
  (List.range 8).foldl (fun a l => a + d.rd .lnCreditOutstanding [l] + d.rd .lnTagOpen [l]) 0

/-- Credits that link l can still take (R359). -/
def Dev.creditRoom (d : Dev) (l : Nat) : Nat := d.rd .lnSlots [l] - (d.rd .lnCreditOutstanding [l] + d.rd .lnTagOpen [l])

/-- How far the open tags of link l are below SLOTS (R360). -/
def Dev.below (d : Dev) (l : Nat) : Nat := d.rd .lnSlots [l] - d.rd .lnTagOpen [l]

/-- R360: while the pool cannot serve every link, its slots go to the links whose open tags are most below SLOTS (DEDUCED, log
entry 125). -/
def Dev.creditTurn (d : Dev) (l : Nat) : Bool :=
  let others := (List.range 8).filter fun m => d.canSend m && d.creditRoom m != 0
  decide (others.foldl (fun n m => n + d.creditRoom m) 0 ≤ d.rd .sprSlotsTotal - d.slotsUsed)
    || others.all fun m => decide (d.below m ≤ d.below l)

/-- A microsecond has passed since the last CREDIT packet of link l (R359). -/
def Dev.creditDue (d : Dev) (l : Nat) : Bool :=
  match (d.lk l).creditAt with | none => true | some t => decide (t + usTicks 1 ≤ d.time)

/-- CREDIT_GRANT, R359, R360: as many of the credits as the pool and SLOTS allow, in one CREDIT packet, at most one each
microsecond. -/
def execCreditGrant (l : Fin 8) (count : Nat) (s : State) : Host.Outcome State Fault Refusal :=
  act s fun d =>
    let n := min count (min (d.rd .sprSlotsTotal - d.slotsUsed) (d.creditRoom l))
    if n = 0 ∨ !d.canSend l ∨ !d.creditTurn l ∨ !d.creditDue l then d
    else
      let d := (d.inc .lnCreditGranted [l] n).inc .lnCreditOutstanding [l] n
      let d := d.updLk l fun k => { k with creditLimit := (k.creditLimit + n) % 2 ^ 32, creditAt := some d.time }
      d.sendPacket l 7 (le 4 (d.lk l).creditLimit ++ le 2 (d.rd .lnReturnTmo [l]))

/-- The next GRANT_ID that no open grant holds (R363). -/
def nextGrantId (open_ : List Nat) : Nat → Nat → Nat
  | 0, i => i
  | n + 1, i => if open_.contains i then nextGrantId open_ n (i % 65535 + 1) else i

/-- Granted and unreceived bytes of a link (R363). -/
def Link.unreceived (k : Link) : Nat := k.grants.foldl (fun a g => a + (g.length - g.got.length)) 0

/-- The expired range of a tag that lies lowest. -/
def Link.lowestAgain (k : Link) (tag : Nat) : Option (Nat × Nat × Nat) :=
  (k.regrant.filter fun g => g.1 == tag).foldl (fun b g => match b with
    | some x => if g.2.1 < x.2.1 then some g else b
    | none => some g) none

/-- The range the device would grant next to a WRITE, in increasing offset order (R363): an expired range again, else the next
`length` bytes. -/
def Dev.nextRange (d : Dev) (l tag length : Nat) : Option (Nat × Nat) :=
  match (d.lk l).lowestAgain tag, d.cmd (.link l tag) with
  | some g, some _ => some (g.2.1, g.2.2)
  | none, some c =>
    let done := tget 0 (d.lk l).granted tag
    if done < c.length then some (c.offset + done, min length (c.length - done)) else none
  | _, none => none

/-- XRDY, R363, R378: a grant of 64 bytes to 1 MiB within GRANT_WINDOW and the budget, once its units are reserved.
While other work waits for units (R579), or anything it needs is missing, no grant is made. -/
def execXrdy (l : Fin 8) (tag length : Nat) (s : State) : Host.Outcome State Fault Refusal :=
  act s fun d =>
    let o : Origin := .link l tag
    match d.cmd o, d.nextRange l tag length with
    | some c, some (off, len) =>
      let k := d.lk l
      let room := d.rd .lnGrantWindow [l] * 2 ^ 20 - k.unreceived
      let budget := if d.share.inForce then d.share.allow.getD l 0 else len
      if c.op ≠ 0x01 ∨ c.phase ≠ .gathering ∨ len % 64 ≠ 0 ∨ len < 64 ∨ 2 ^ 20 < len ∨ room < len ∨ budget < len
          ∨ !d.canSend l ∨ d.basin.waiting ≠ [] then d
      else
        let id := nextGrantId (k.grants.map Grant.id) 65535 k.nextGrant
        match d.takeUnits (.grant l id) (unitsFor len) true with
        | none => d
        | some d =>
          let again := k.regrant.any fun g => g.1 == tag
          let d := d.updLk l fun k => { k with
            grants := k.grants ++ [{ id := id, tag := tag, offset := off, length := len }],
            nextGrant := id % 65535 + 1,
            expired := k.expired.filter fun e => e.1 != id,
            regrant := if again then k.regrant.erase (tag, off, len) else k.regrant,
            granted := if again then k.granted else tset k.granted tag (tget 0 k.granted tag + len) }
          let d := { d with share := { d.share with
            allow := if d.share.inForce then d.share.allow.set l (budget - len) else d.share.allow } }
          d.sendPacket l 2 (le 2 tag ++ le 2 id ++ le 4 len ++ le 8 off)
    | _, _ => d

/-- XRDY_TIMEOUT, R365, R366: the grant's bytes are discarded, its units are free, and its range is to be granted
again. -/
def execXrdyTimeout (l : Fin 8) (grant : Nat) (s : State) : Host.Outcome State Fault Refusal :=
  serve s fun d =>
    match (d.lk l).grant? grant with
    | none => d
    | some g =>
      let d := d.updLk l fun k => { k with
        grants := k.grants.filter fun x => x.id != grant,
        expired := k.expired ++ [(grant, g.tag)],
        regrant := k.regrant ++ [(g.tag, g.offset, g.length)] }
      (d.releaseUnits (.grant l grant)).raise (lnSrc l 5) evXrdyTimeout
        (le 4 g.tag ++ le 8 grant ++ le 4 g.got.length)

/-- LACK_SEND, R354: ACK_SEQ is the last number accepted. -/
def execLackSend (l : Fin 8) (s : State) : Host.Outcome State Fault Refusal :=
  act s fun d =>
    if d.lnState l = lnUp ∧ (d.lk l).owed ≠ 0 then d.sendLack l else d

/-- REPLAY_TIMEOUT, R355: resend from the oldest; after 8 resends of it an UP link goes to RETRAIN, where its lanes
lock anew. -/
def execReplayTimeout (l : Fin 8) (s : State) : Host.Outcome State Fault Refusal :=
  act s fun d =>
    let k := d.lk l
    match k.replay with
    | [] => d
    | p :: _ =>
      if d.lnState l = lnUp ∧ 8 ≤ k.resends then
        ((d.enterRetrain l).updLk l fun k => { k with locked := [], resends := 0 }).raise (lnSrc l 0) evLinkDown [4]
      else if d.lnState l = lnUp ∨ d.lnState l = lnInit then
        (d.updLk l fun k => { k with resends := k.resends + 1 }).resendFrom l p.seq
      else d

/-- DOWN_TIMEOUT, R356: RETRAIN has lasted DOWN_TMO: link reset, then TRAIN. -/
def execDownTimeout (l : Fin 8) (s : State) : Host.Outcome State Fault Refusal :=
  serve s fun d => if d.lnState l = lnRetrain then (d.linkReset l).enterTrain l else d

/-- LINK_DISABLE, R581: a write of 0 to CTRL.EN, or the module leaves: DISABLED from any state, with a link reset from
INIT, UP, RETRAIN, or an ALIGN entered from RETRAIN. -/
def execLinkDisable (l : Fin 8) (byRegister : Bool) (s : State) : Host.Outcome State Fault Refusal :=
  serve s fun d =>
    if byRegister && !d.ready then d
    else
      let st := d.lnState l
      let d := if byRegister then d.wr .lnEn [l] 0 else d.updLk l fun k => { k with present := false }
      let d := if st = lnInit ∨ st = lnUp ∨ st = lnRetrain ∨ (st = lnAlign ∧ (d.lk l).fromRetrain) then d.linkReset l
        else d
      (d.setLn l lnDisabled).updLk l fun k => { k with locked := [], txFrom := none, txBlocks := 0, sinceIdle := 0 }

/-- LINK_ENABLE, R382: a write of 1 to CTRL.EN clears the counters, so that the six totals start from the tags and
credits still open; with a module present a DISABLED link goes to TRAIN, but not in recovery (R522). -/
def execLinkEnable (l : Fin 8) (s : State) : Host.Outcome State Fault Refusal :=
  hostAct s fun d =>
    let d := [Row.lnCreditConsumed, .lnCreditReturned, .lnTagStatted, .lnTagReset].foldl (fun d f => d.wr f [l.val] 0) d
    let d := (d.wr .lnCreditGranted [l] (d.rd .lnCreditOutstanding [l])).wr .lnTagIssued [l] (d.rd .lnTagOpen [l])
    let d := d.wr .lnEn [l] 1
    if d.running ∧ d.lnState l = lnDisabled ∧ (d.lk l).present then d.enterTrain l else d

/-- MODULE_PRESENT, R581, R522: SPMOD_PRS_n falls. -/
def execModulePresent (l : Fin 8) (s : State) : Host.Outcome State Fault Refusal :=
  act s fun d =>
    let d := d.updLk l fun k => { k with present := true }
    if d.running ∧ d.lnState l = lnDisabled ∧ d.on .lnEn [l.val] then d.enterTrain l else d

/-- SPRING_QRESET, R373: a write of 1 to QRESET. -/
def execSpringQreset (l : Fin 8) (s : State) : Host.Outcome State Fault Refusal :=
  serve s fun d => if d.ready then d.startQreset l 2 else d

/-- The 136 bytes of a QRST report (Table 11-2). -/
def qrstBody (reason : Nat) (tags : List Nat) : Bytes :=
  [1, reason] ++ le 2 tags.length ++ zeros 4
    ++ (List.range 128).map fun i => maskOf ((List.range 8).filter fun b => tags.contains (8 * i + b))

/-- QRST_REPORT, R374, R376, R377: the STATs that precede the report go first; then the report marks every aborted tag,
each of which moves from OPEN to RESET (R382). A reset by register or link reset covers the tags accepted before the
report (R373). -/
def execQrstReport (l : Fin 8) (s : State) : Host.Outcome State Fault Refusal :=
  serve s fun d =>
    let k := d.lk l
    match k.qreset with
    | [] => d
    | (reason, _, counted) :: rest =>
      let d := Dev.drainTx (fun _ => false) l k.txq.length d
      if !d.canSend l ∨ (d.lk l).txq ≠ [] then d
      else
        let more := if reason = 1 then [] else d.linkTags l
        let d := more.foldl (fun d t => d.abortTag l t) d
        let ts := ((k.qreset.headD (0, [], false)).2.1) ++ more
        let n := if counted then more.length else ts.length
        let d := (d.dec .lnTagOpen [l] n).inc .lnTagReset [l] n
        let d := d.updLk l fun k => { k with qreset := rest }
        (d.sendPacket l 5 (qrstBody reason ts)).raise (lnSrc l 3) evQrstDone ([reason] ++ le 4 ts.length)

/-- STAT, R369, R355, R370: the packets that wait on link l are sent in order, through the next STAT, as far as the
replay buffer has room. -/
def execSpringStat (l : Fin 8) (s : State) : Host.Outcome State Fault Refusal :=
  act s fun d => Dev.drainTx (fun t => t == 4 || t == 20) l (d.lk l).txq.length d

/-! ### Sharing under sustained load (R378 to R381, R495) -/

/-- Weight of participant i: links 0 to 7, then H. -/
def Dev.weight (d : Dev) (i : Nat) : Nat := if i < 8 then d.rd .lnWeight [i] else d.rd .sprHostWeight
/-- MINSHARE of participant i. -/
def Dev.minshare (d : Dev) (i : Nat) : Nat := if i < 8 then d.rd .lnMinshare [i] else d.rd .sprHostMinshare

/-- Bytes of a participant's writes not yet granted or asked for, within its grant window. -/
def Dev.want (d : Dev) (i : Nat) : Nat :=
  if i < 8 then
    let k := d.lk i
    let ungranted := d.cmds.foldl (fun a c => match c.origin with
      | .link l t => if l = i ∧ c.op = 0x01 ∧ (c.phase = .gathering ∨ c.phase = .held) then a + (c.length - tget 0 k.granted t) else a
      | _ => a) 0 + k.regrant.foldl (fun a g => a + g.2.2) 0
    min ungranted (d.rd .lnGrantWindow [i] * 2 ^ 20 - k.unreceived)
  else
    d.cmds.foldl (fun a c => match c.origin with
      | .ring _ _ => if (c.op = 0x01 ∨ c.op = 0x10) ∧ c.phase = .gathering then
          a + ((if c.op = 0x10 then 65536 else c.length) - c.arg) else a
      | _ => a) 0

/-- One pass of the weighted part of R378, in 1/65,536 byte. -/
def sharePass (want weight give : List Nat) (rest : Nat) : List Nat :=
  let active := (List.range 9).filter fun i => decide (give.getD i 0 < want.getD i 0)
  let w := active.foldl (fun a i => a + weight.getD i 0) 0
  (List.range 9).map fun i =>
    if active.contains i ∧ w ≠ 0 then min (want.getD i 0) (give.getD i 0 + rest * weight.getD i 0 / w)
    else give.getD i 0

/-- R378: the shares of a budget; each pass spends the rest or fills a participant, so ten settle them. -/
def shareOut (want weight minimum : List Nat) (budget : Nat) : List Nat :=
  let give := (List.range 9).map fun i => min (want.getD i 0) (minimum.getD i 0)
  (List.range 10).foldl (fun g _ => sharePass want weight g (budget - g.foldl (· + ·) 0)) give

/-- R379: the minimum of participant i under a budget, scaled when the nine shares exceed 256. -/
def Dev.minimum (d : Dev) (budget i : Nat) : Nat :=
  let sum := (List.range 9).foldl (fun a j => a + d.minshare j) 0
  budget * d.minshare i / max 256 sum

/-- GRANT_BUDGET_PERIOD, R378, R495: at high fill the budget is the bytes released in the last period times F; below it,
while the throttle is enforced, F × B0 × 100 µs. What a participant left unspent carries over, and grants are rounded
down to 64 bytes. -/
def execGrantBudgetPeriod (s : State) : Host.Outcome State Fault Refusal :=
  serve s fun d =>
    let enforced := d.rd .thThrState == thEnforced
    if !d.basin.fillHigh && !enforced then
      { d with share := { d.share with inForce := false, released := 0, carry := 0, allow := [] } }
    else
      let f := if enforced then d.rd .thThrF else 256
      let fresh := if d.basin.fillHigh then d.share.released * f * 256 else f * d.rd .thThrB0 * 100 * 256
      let left := d.share.allow.foldl (· + ·) 0 * 65536
      let budget := fresh + d.share.carry + left
      let want := (List.range 9).map fun i => d.want i * 65536
      let give := shareOut want ((List.range 9).map d.weight) ((List.range 9).map (d.minimum budget)) budget
      let allow := give.map fun g => g / 65536 / 64 * 64
      let spare := budget - allow.foldl (· + ·) 0 * 65536
      let deficits := (List.range 9).map fun i =>
        d.share.deficits.getD i 0
          + if want.getD i 0 = 0 then 0 else (if i < 8 then 1240000 else 5600000) - allow.getD i 0
      { d with share := { d.share with inForce := true, released := 0, carry := spare, allow := allow,
                                       deficits := deficits } }

/-- DEFICIT_SECOND, R381: each nonzero sum is posted to the nearest MB/s (Table 11-5), on sub-source 4 of its link, or on the global source for
H. -/
def execDeficitSecond (s : State) : Host.Outcome State Fault Refusal :=
  act s fun d =>
    let post := fun (d : Dev) (i : Nat) =>
      let sum := d.share.deficits.getD i 0
      if sum = 0 then d
      else
        let mb := (sum + 500000) / 1000000
        if i < 8 then (d.wr .lnDeficit [i] mb).raise (lnSrc i 4) evRateDeficit (le 4 mb)
        else d.raise globalSrc evRateDeficit (le 4 mb)
    let d := (List.range 9).foldl post d
    { d with share := { d.share with deficits := [] } }

end Sys2Proof.Machine
end

