-- ==== Sys2Proof/Machine/Dispatch.lean ====
section
/-! DEFINITION. One arm per command: its meaning, or its rejection by name. -/

namespace Sys2Proof.Machine

def exec (i : Instr) (s : State) : Host.Outcome State Fault Refusal :=
  match i with
  | .powerOnResetEnd spiVselHigh => Sys2Proof.Machine.execPowerOnResetEnd spiVselHigh s
  | .vinBrownout => Sys2Proof.Machine.execVinBrownout s
  | .converterOutOfRegulation => Sys2Proof.Machine.execConverterOutOfRegulation s
  | .vinRise => Sys2Proof.Machine.execVinRise s
  | .perstNAssert => Sys2Proof.Machine.execPerstNAssert s
  | .perstNRelease slotA slotB => Sys2Proof.Machine.execPerstNRelease slotA slotB s
  | .globalReset slotA slotB => Sys2Proof.Machine.execGlobalReset slotA slotB s
  | .functionLevelReset => Sys2Proof.Machine.execFunctionLevelReset s
  | .extestLoad => Sys2Proof.Machine.execExtestLoad s
  | .testLogicReset slotA slotB => Sys2Proof.Machine.execTestLogicReset slotA slotB s
  | .timeLoRead => Sys2Proof.Machine.execTimeLoRead s
  | .vcoreLevelWrite level => Sys2Proof.Machine.execVcoreLevelWrite level s
  | .vcoreSettled => Sys2Proof.Machine.execVcoreSettled s
  | .snapTake => Sys2Proof.Machine.execSnapTake s
  | .snapDone => Sys2Proof.Machine.execSnapDone s
  | .paceUpdate counts => Sys2Proof.Machine.execPaceUpdate counts s
  | .registerWrite addr value => Sys2Proof.Machine.execRegisterWrite addr value s
  | .bootSlotHashed body answers => Sys2Proof.Machine.execBootSlotHashed body answers s
  | .basinSpdRead slots => Sys2Proof.Machine.execBasinSpdRead slots s
  | .basinTrainStep u slot ok => Sys2Proof.Machine.execBasinTrainStep u slot ok s
  | .basinUnitInitialised => Sys2Proof.Machine.execBasinUnitInitialised s
  | .basinPortRead port word use => Sys2Proof.Machine.execBasinPortRead port word use s
  | .basinPortWrite port word data => Sys2Proof.Machine.execBasinPortWrite port word data s
  | .writeAgeExpiry m => Sys2Proof.Machine.execWriteAgeExpiry m s
  | .basinCommandIssue m error address => Sys2Proof.Machine.execBasinCommandIssue m error address s
  | .softRepairDone m => Sys2Proof.Machine.execSoftRepairDone m s
  | .basinRefresh m => Sys2Proof.Machine.execBasinRefresh m s
  | .dimmTempRead m slot temp => Sys2Proof.Machine.execDimmTempRead m slot temp s
  | .patrolRead => Sys2Proof.Machine.execPatrolRead s
  | .basinUnitWaitServed => Sys2Proof.Machine.execBasinUnitWaitServed s
  | .importSizeWrite size => Sys2Proof.Machine.execImportSizeWrite size s
  | .bar2Write addr data => Sys2Proof.Machine.execBar2Write addr data s
  | .bar2Read addr len => Sys2Proof.Machine.execBar2Read addr len s
  | .cacheAccess user use write addr len data prefetch sram => Sys2Proof.Machine.execCacheAccess user use write addr len data prefetch sram s
  | .cacheFillComplete line => Sys2Proof.Machine.execCacheFillComplete line s
  | .prefetchFillComplete entry => Sys2Proof.Machine.execPrefetchFillComplete entry s
  | .cacheEnableWrite en => Sys2Proof.Machine.execCacheEnableWrite en s
  | .lockmaskWrite mask => Sys2Proof.Machine.execLockmaskWrite mask s
  | .cacheMaintComplete => Sys2Proof.Machine.execCacheMaintComplete s
  | .clean r cookie mode wayMask addr length sram => Sys2Proof.Machine.execClean r cookie mode wayMask addr length sram s
  | .invalidate r cookie mode wayMask addr length sram => Sys2Proof.Machine.execInvalidate r cookie mode wayMask addr length sram s
  | .cleanAndInvalidate r cookie mode wayMask addr length sram => Sys2Proof.Machine.execCleanAndInvalidate r cookie mode wayMask addr length sram s
  | .lockFill r cookie mode wayMask addr length sram => Sys2Proof.Machine.execLockFill r cookie mode wayMask addr length sram s
  | .wellheadWrite offset value => Sys2Proof.Machine.execWellheadWrite offset value s
  | .indexWordRead sel value => Sys2Proof.Machine.execIndexWordRead sel value s
  | .hostPoll => Sys2Proof.Machine.execHostPoll s
  | .fullRingReread sel => Sys2Proof.Machine.execFullRingReread sel s
  | .ringEnable sel en => Sys2Proof.Machine.execRingEnable sel en s
  | .commandCompletion c => Sys2Proof.Machine.execCommandCompletion c s
  | .coalesceTimer c => Sys2Proof.Machine.execCoalesceTimer c s
  | .hostReadCompletion r seq data ok => Sys2Proof.Machine.execHostReadCompletion r seq data ok s
  | .fence r cookie scope => Sys2Proof.Machine.execFence r cookie scope s
  | .fenceSatisfied r => Sys2Proof.Machine.execFenceSatisfied r s
  | .queueReset r cookie target tail => Sys2Proof.Machine.execQueueReset r cookie target tail s
  | .queueResetMarker t => Sys2Proof.Machine.execQueueResetMarker t s
  | .deferredLogRead r cookie link buf len => Sys2Proof.Machine.execDeferredLogRead r cookie link buf len s
  | .unknownOpcode r cookie opcode => Sys2Proof.Machine.execUnknownOpcode r cookie opcode s
  | .record r cookie fua take offset length addr sgl hostTime => Sys2Proof.Machine.execRecord r cookie fua take offset length addr sgl hostTime s
  | .retrieve r cookie take offset length addr sgl => Sys2Proof.Machine.execRetrieve r cookie take offset length addr sgl s
  | .flush r cookie => Sys2Proof.Machine.execFlush r cookie s
  | .takeOpen r cookie take hostTime volume label => Sys2Proof.Machine.execTakeOpen r cookie take hostTime volume label s
  | .takeClose r cookie take hostTime buf len => Sys2Proof.Machine.execTakeClose r cookie take hostTime buf len s
  | .takeQuery r cookie take buf len => Sys2Proof.Machine.execTakeQuery r cookie take buf len s
  | .catalogRead r cookie select first max buf len => Sys2Proof.Machine.execCatalogRead r cookie select first max buf len s
  | .blockWrite r cookie fua pba addr hostTime => Sys2Proof.Machine.execBlockWrite r cookie fua pba addr hostTime s
  | .blockRead r cookie pba options addr hdrAddr => Sys2Proof.Machine.execBlockRead r cookie pba options addr hdrAddr s
  | .peerExport r cookie take offset length addr window => Sys2Proof.Machine.execPeerExport r cookie take offset length addr window s
  | .stripeCommit take range => Sys2Proof.Machine.execStripeCommit take range s
  | .catalogRowTimer => Sys2Proof.Machine.execCatalogRowTimer s
  | .allocRecordTimer => Sys2Proof.Machine.execAllocRecordTimer s
  | .mediaLoad r cookie mask read => Sys2Proof.Machine.execMediaLoad r cookie mask read s
  | .mediaUnload r cookie => Sys2Proof.Machine.execMediaUnload r cookie s
  | .spindleSet r cookie wait mask target accel => Sys2Proof.Machine.execSpindleSet r cookie wait mask target accel s
  | .traceRead r cookie engine buf => Sys2Proof.Machine.execTraceRead r cookie engine buf s
  | .calibMeasure r cookie item index buf len => Sys2Proof.Machine.execCalibMeasure r cookie item index buf len s
  | .selfTest r cookie kind buf len => Sys2Proof.Machine.execSelfTest r cookie kind buf len s
  | .selftestItemDone result firstFail duration value => Sys2Proof.Machine.execSelftestItemDone result firstFail duration value s
  | .selftestSuspended => Sys2Proof.Machine.execSelftestSuspended s
  | .selftestResumed => Sys2Proof.Machine.execSelftestResumed s
  | .scrubRead => Sys2Proof.Machine.execScrubRead s
  | .calibMeasureStart => Sys2Proof.Machine.execCalibMeasureStart s
  | .calibMeasureEnd item index elements figSel figProp => Sys2Proof.Machine.execCalibMeasureEnd item index elements figSel figProp s
  | .calibCommit => Sys2Proof.Machine.execCalibCommit s
  | .attest r cookie nonce buf len => Sys2Proof.Machine.execAttest r cookie nonce buf len s
  | .verify r cookie addr len image => Sys2Proof.Machine.execVerify r cookie addr len image s
  | .program r cookie action addr len image => Sys2Proof.Machine.execProgram r cookie action addr len image s
  | .fwProgramEnd back => Sys2Proof.Machine.execFwProgramEnd back s
  | .blockLockGain l lane => Sys2Proof.Machine.execBlockLockGain l lane s
  | .blockLockLoss l lane => Sys2Proof.Machine.execBlockLockLoss l lane s
  | .alignmentFound l pairs => Sys2Proof.Machine.execAlignmentFound l pairs s
  | .lack l ackSeq => Sys2Proof.Machine.execLack l ackSeq s
  | .lnak l expired ackSeq => Sys2Proof.Machine.execLnak l expired ackSeq s
  | .packetDiscard l frame => Sys2Proof.Machine.execPacketDiscard l frame s
  | .springWrite l seq tag fua cookie take offset length hostTime => Sys2Proof.Machine.execSpringWrite l seq tag fua cookie take offset length hostTime s
  | .springRead l seq tag cookie take offset length => Sys2Proof.Machine.execSpringRead l seq tag cookie take offset length s
  | .springLog l seq tag cookie length => Sys2Proof.Machine.execSpringLog l seq tag cookie length s
  | .unknownOp l seq tag op cookie => Sys2Proof.Machine.execUnknownOp l seq tag op cookie s
  | .unsupportedPacketType l seq ptype => Sys2Proof.Machine.execUnsupportedPacketType l seq ptype s
  | .springData l seq tag grant offset payload => Sys2Proof.Machine.execSpringData l seq tag grant offset payload s
  | .qrst l seq => Sys2Proof.Machine.execQrst l seq s
  | .credit l seq count => Sys2Proof.Machine.execCredit l seq count s
  | .creditGrant l count => Sys2Proof.Machine.execCreditGrant l count s
  | .xrdy l tag length => Sys2Proof.Machine.execXrdy l tag length s
  | .xrdyTimeout l grant => Sys2Proof.Machine.execXrdyTimeout l grant s
  | .lackSend l => Sys2Proof.Machine.execLackSend l s
  | .replayTimeout l => Sys2Proof.Machine.execReplayTimeout l s
  | .downTimeout l => Sys2Proof.Machine.execDownTimeout l s
  | .linkDisable l byRegister => Sys2Proof.Machine.execLinkDisable l byRegister s
  | .linkEnable l => Sys2Proof.Machine.execLinkEnable l s
  | .modulePresent l => Sys2Proof.Machine.execModulePresent l s
  | .springQreset l => Sys2Proof.Machine.execSpringQreset l s
  | .qrstReport l => Sys2Proof.Machine.execQrstReport l s
  | .springStat l => Sys2Proof.Machine.execSpringStat l s
  | .grantBudgetPeriod => Sys2Proof.Machine.execGrantBudgetPeriod s
  | .deficitSecond => Sys2Proof.Machine.execDeficitSecond s
  | .rowAllocate p L kind time => Sys2Proof.Machine.execRowAllocate p L kind time s
  | .rowStart p => Sys2Proof.Machine.execRowStart p s
  | .rowWritten p => Sys2Proof.Machine.execRowWritten p s
  | .fetchDeadline p => Sys2Proof.Machine.execFetchDeadline p s
  | .mordantCheck p lane runs => Sys2Proof.Machine.execMordantCheck p lane runs s
  | .opcStart p L => Sys2Proof.Machine.execOpcStart p L s
  | .opcReq p => Sys2Proof.Machine.execOpcReq p s
  | .opcBandDone p L marked samples errors => Sys2Proof.Machine.execOpcBandDone p L marked samples errors s
  | .reallocWaitExpiry p L => Sys2Proof.Machine.execReallocWaitExpiry p L s
  | .blockDecoded pba read => Sys2Proof.Machine.execBlockDecoded pba read s
  | .ladderRereadEnd pba reads => Sys2Proof.Machine.execLadderRereadEnd pba reads s
  | .ladderLevelDecoded pba => Sys2Proof.Machine.execLadderLevelDecoded pba s
  | .railWaitExpiry pba => Sys2Proof.Machine.execRailWaitExpiry pba s
  | .ladderPlaceFree => Sys2Proof.Machine.execLadderPlaceFree s
  | .deskewCheckEnd p sp => Sys2Proof.Machine.execDeskewCheckEnd p sp s
  | .deskewShift p sp => Sys2Proof.Machine.execDeskewShift p sp s
  | .dropout p sp start codes refs => Sys2Proof.Machine.execDropout p sp start codes refs s
  | .dropoutEnd p sp stop codes => Sys2Proof.Machine.execDropoutEnd p sp stop codes s
  | .scoutDefect p start levels => Sys2Proof.Machine.execScoutDefect p start levels s
  | .scoutDefectEnd p stop levels => Sys2Proof.Machine.execScoutDefectEnd p stop levels s
  | .railAddressMark p near word => Sys2Proof.Machine.execRailAddressMark p near word s
  | .mtoLock p => Sys2Proof.Machine.execMtoLock p s
  | .mtoUnlock p => Sys2Proof.Machine.execMtoUnlock p s
  | .loopSample e pickups spindles => Sys2Proof.Machine.execLoopSample e pickups spindles s
  | .loopOutput e complete => Sys2Proof.Machine.execLoopOutput e complete s
  | .bankSwap e mask => Sys2Proof.Machine.execBankSwap e mask s
  | .axisModeWrite e a mode => Sys2Proof.Machine.execAxisModeWrite e a mode s
  | .ffClear e a => Sys2Proof.Machine.execFfClear e a s
  | .rroWrite e a w value => Sys2Proof.Machine.execRroWrite e a w value s
  | .wedge p sp index a b c d offset => Sys2Proof.Machine.execWedge p sp index a b c d offset s
  | .wedgeTimerExpiry p sp => Sys2Proof.Machine.execWedgeTimerExpiry p sp s
  | .wedgeStale p lane => Sys2Proof.Machine.execWedgeStale p lane s
  | .focusSearch p => Sys2Proof.Machine.execFocusSearch p s
  | .focusSweepEnd p => Sys2Proof.Machine.execFocusSweepEnd p s
  | .focusLoss p => Sys2Proof.Machine.execFocusLoss p s
  | .trackLoss p => Sys2Proof.Machine.execTrackLoss p s
  | .layerJumpStart p layer => Sys2Proof.Machine.execLayerJumpStart p layer s
  | .layerJumpKick p => Sys2Proof.Machine.execLayerJumpKick p s
  | .layerJumpCoast p => Sys2Proof.Machine.execLayerJumpCoast p s
  | .layerJumpBrake p => Sys2Proof.Machine.execLayerJumpBrake p s
  | .layerJumpCapture p => Sys2Proof.Machine.execLayerJumpCapture p s
  | .layerJumpWindowEnd p => Sys2Proof.Machine.execLayerJumpWindowEnd p s
  | .layerJumpConfirm p layer => Sys2Proof.Machine.execLayerJumpConfirm p layer s
  | .traceArm e => Sys2Proof.Machine.execTraceArm e s
  | .traceArmed e => Sys2Proof.Machine.execTraceArmed e s
  | .traceForce e => Sys2Proof.Machine.execTraceForce e s
  | .traceDone e => Sys2Proof.Machine.execTraceDone e s
  | .sledIdleCurrent p => Sys2Proof.Machine.execSledIdleCurrent p s
  | .seekStart p band angle layer => Sys2Proof.Machine.execSeekStart p band angle layer s
  | .seekProfileEnd p => Sys2Proof.Machine.execSeekProfileEnd p s
  | .seekLanding p field angle => Sys2Proof.Machine.execSeekLanding p field angle s
  | .seekTimeout p => Sys2Proof.Machine.execSeekTimeout p s
  | .sledGoto p target => Sys2Proof.Machine.execSledGoto p target s
  | .sledStop p => Sys2Proof.Machine.execSledStop p s
  | .stopRampEnd p => Sys2Proof.Machine.execStopRampEnd p s
  | .sledHome p => Sys2Proof.Machine.execSledHome p s
  | .homingStart p => Sys2Proof.Machine.execHomingStart p s
  | .homingPatternSeen p frames => Sys2Proof.Machine.execHomingPatternSeen p frames s
  | .homingSettleEnd p => Sys2Proof.Machine.execHomingSettleEnd p s
  | .homingRadiusRead p frames => Sys2Proof.Machine.execHomingRadiusRead p frames s
  | .homeNLow p => Sys2Proof.Machine.execHomeNLow p s
  | .homingSwitchSearchEnd p => Sys2Proof.Machine.execHomingSwitchSearchEnd p s
  | .homingTravelEnd p => Sys2Proof.Machine.execHomingTravelEnd p s
  | .homingReadTimeout p => Sys2Proof.Machine.execHomingReadTimeout p s
  | .coilOvercurrent p coil => Sys2Proof.Machine.execCoilOvercurrent p coil s
  | .spindleStart n => Sys2Proof.Machine.execSpindleStart n s
  | .catchEnd n period uvw angle => Sys2Proof.Machine.execCatchEnd n period uvw angle s
  | .brakeEnd n => Sys2Proof.Machine.execBrakeEnd n s
  | .alignEnd n => Sys2Proof.Machine.execAlignEnd n s
  | .runEntry n => Sys2Proof.Machine.execRunEntry n s
  | .obslockSet n => Sys2Proof.Machine.execObslockSet n s
  | .obslockClear n => Sys2Proof.Machine.execObslockClear n s
  | .startTimeout n => Sys2Proof.Machine.execStartTimeout n s
  | .waitEnd n => Sys2Proof.Machine.execWaitEnd n s
  | .spindleAtSpeed n => Sys2Proof.Machine.execSpindleAtSpeed n s
  | .speedCeiling n => Sys2Proof.Machine.execSpeedCeiling n s
  | .offsetLearned n side => Sys2Proof.Machine.execOffsetLearned n side s
  | .angleMismatch n => Sys2Proof.Machine.execAngleMismatch n s
  | .spindleStopped n => Sys2Proof.Machine.execSpindleStopped n s
  | .spindleEnWrite n en => Sys2Proof.Machine.execSpindleEnWrite n en s
  | .cmdsrcWrite n src => Sys2Proof.Machine.execCmdsrcWrite n src s
  | .classWrite cls => Sys2Proof.Machine.execClassWrite cls s
  | .pinCmdLost n => Sys2Proof.Machine.execPinCmdLost n s
  | .gateFault n phase current => Sys2Proof.Machine.execGateFault n phase current s
  | .replaceTimeout n => Sys2Proof.Machine.execReplaceTimeout n s
  | .pickupBusFrame p response => Sys2Proof.Machine.execPickupBusFrame p response s
  | .pickupBusPoll p kind => Sys2Proof.Machine.execPickupBusPoll p kind s
  | .ldoffNFall => Sys2Proof.Machine.execLdoffNFall s
  | .ldoffNRise => Sys2Proof.Machine.execLdoffNRise s
  | .laserMaskWrite p mask => Sys2Proof.Machine.execLaserMaskWrite p mask s
  | .eventPost sec => Sys2Proof.Machine.execEventPost sec s
  | .holdoffExpiry v => Sys2Proof.Machine.execHoldoffExpiry v s
  | .routeWrite sec value => Sys2Proof.Machine.execRouteWrite sec value s
  | .dieSensorRead temps => Sys2Proof.Machine.execDieSensorRead temps s
  | .ambientRead n resistance => Sys2Proof.Machine.execAmbientRead n resistance s
  | .writeRelease p => Sys2Proof.Machine.execWriteRelease p s
  | .holdmaxExpiry p => Sys2Proof.Machine.execHoldmaxExpiry p s
  | .rateCheck => Sys2Proof.Machine.execRateCheck s
  | .graceExpiry => Sys2Proof.Machine.execGraceExpiry s
  | .throttleStep => Sys2Proof.Machine.execThrottleStep s
  | .throttleRelease => Sys2Proof.Machine.execThrottleRelease s

end Sys2Proof.Machine
end

