-- ==== Sys2Proof/Machine/Step.lean ====
section
/-! DEFINITION. One step: the command at the front of the queue takes effect with the queue's rest; on an empty queue
one REFCLK edge passes and nothing else happens (DESIGN CHOICE, log entry 1). -/

namespace Sys2Proof.Machine

/-- One REFCLK edge without a command: device time counts (R14). -/
def State.tick (s : State) : State := { s with dev := { s.dev with time := (s.dev.time + 1) % 2 ^ 64 } }

/-- One step of the block. -/
def step (s : State) : Host.Outcome State Fault Refusal :=
  match s.pending with
  | [] => .next s.tick
  | c :: cs => exec c { s with pending := cs }

/-- The state with the command that a word spells at the front of its queue: no word spells one. -/
def State.withFetchWord (s : State) (nbits w : Nat) : State :=
  match Sys2Proof.decodeTableWord nbits w with
  | none => s
  | some c => { s with pending := c :: s.pending }

end Sys2Proof.Machine
end

