-- ==== Sys2Proof/Safety.lean ====
section
/-! DEFINITION. The terms of the statements: the invariant that every step keeps, what the device leaves unchanged, and
how a command's effect on the device becomes a next state. -/

namespace Sys2Proof.Machine

/-- What every step keeps: the basin's bytes stand in their canonical form, every event source conserves its occurrences
(R487), and no occurrence is left uncounted between commands. -/
structure State.Inv (s : State) : Prop where
  mem : Memory.wf s.mem = true
  events : evConserved s.ev = true
  counted : s.dev.raised = []

/-- The records that the device keeps per element: rings, links, pickups, spots (16p + s), axes (4p + x), servos, traces
(per engine), sleds, seeks, homings and spindles. -/
inductive Table where
  | sq | cq | eq | link | pk | spot | ax | servo | trace | sled | seek | homing | spin
  deriving DecidableEq, Repr

/-- The record of element k is the same in two devices. -/
def Table.Same (t : Table) (d e : Dev) (k : Nat) : Prop :=
  match t with
  | .sq => e.sqS k = d.sqS k
  | .cq => e.cqS k = d.cqS k
  | .eq => e.eqS k = d.eqS k
  | .link => e.lk k = d.lk k
  | .pk => e.pkS k = d.pkS k
  | .spot => tget {} e.spot k = tget {} d.spot k
  | .ax => tget {} e.ax k = tget {} d.ax k
  | .servo => e.servoS k = d.servoS k
  | .trace => tget {} e.trace k = tget {} d.trace k
  | .sled => e.sledS k = d.sledS k
  | .seek => e.seekS k = d.seekS k
  | .homing => e.homingS k = d.homingS k
  | .spin => e.spinS k = d.spinS k

/-- The records of which the device keeps one. -/
inductive Part where
  | time | pins | boot | out | raised | freeTick | cmds | msix | vec | lowHeld | deferredWrites | measureHeld | caused
  | load | share | volume | takes | stripes | blks | moved | unavailable | cat | ladder | railWait | selftest | scrub
  | basin | cache | thermal | measures
  deriving DecidableEq, Repr

/-- The record is the same in two devices. -/
def Part.Same (p : Part) (d e : Dev) : Prop :=
  match p with
  | .time => e.time = d.time
  | .pins => e.pins = d.pins
  | .boot => e.boot = d.boot
  | .out => e.out = d.out
  | .raised => e.raised = d.raised
  | .freeTick => e.freeTick = d.freeTick
  | .cmds => e.cmds = d.cmds ∧ e.nextSerial = d.nextSerial
  | .msix => e.msix = d.msix ∧ e.msixPending = d.msixPending ∧ e.pcie = d.pcie
  | .vec => e.vec = d.vec
  | .lowHeld => e.lowHeld = d.lowHeld
  | .deferredWrites => e.deferredWrites = d.deferredWrites
  | .measureHeld => e.measureHeld = d.measureHeld
  | .caused => e.caused = d.caused
  | .load => e.loadInForce = d.loadInForce ∧ e.loadCmd = d.loadCmd ∧ e.unloadCmd = d.unloadCmd
  | .share => e.share = d.share
  | .volume => e.volume = d.volume
  | .takes => e.takes = d.takes
  | .stripes => e.stripes = d.stripes ∧ e.nextStripe = d.nextStripe
  | .blks => e.blks = d.blks ∧ e.nextBlk = d.nextBlk
  | .moved => e.moved = d.moved
  | .unavailable => e.unavailable = d.unavailable
  | .cat => e.cat = d.cat
  | .ladder => e.ladder = d.ladder
  | .railWait => e.railWait = d.railWait
  | .selftest => e.selftest = d.selftest
  | .scrub => e.scrub = d.scrub
  | .basin => e.basin = d.basin
  | .cache => e.cache = d.cache
  | .thermal => e.thermal = d.thermal
  | .measures => e.measures = d.measures

/-- From d to e nothing changes but the register fields `fields`, the element records `entries` and the records
`parts`. -/
def Dev.OnlyChanges (d e : Dev) (fields : List Fld) (entries : List (Table × Nat)) (parts : List Part) : Prop :=
  (∀ f, f ∉ fields → regGet e.regs f = regGet d.regs f) ∧ (∀ t k, (t, k) ∉ entries → t.Same d e k) ∧
    ∀ p, p ∉ parts → p.Same d e

/-- The record of ring x, as the wellhead numbers rings (R315). -/
def ringEntry (x : Nat) : Table × Nat :=
  if x < 256 then (.sq, x) else if x < 512 then (.cq, x - 256) else (.eq, x - 512)

/-- The command makes the device d: the next state is d with its occurrences counted, the basin's bytes and the queue as
they were. -/
def Makes (i : Instr) (s : State) (d : Dev) : Prop := exec i s = .next (s.commit d)

/-- The command makes the device d, and the commands in flight then go on as far as they can. -/
def MakesThenRuns (i : Instr) (s : State) (d : Dev) : Prop := exec i s = .next (s.commit (d.settleDeck s.mem))

/-- The device in which descriptor c of ring r has started: it is counted, and the command is in flight. -/
def Dev.started (d : Dev) (r : Nat) (c : Cmd) : Dev :=
  let seq := (d.sqS r).started
  let d := d.updSq r fun q => { q with started := (seq + 1) % 2 ^ 32 }
  (d.enlist { c with origin := .ring r seq }).noteNeed c.op

/-- The next descriptor of ring r starts and is executed: the ring lets it start, and the boot is not in RECOVERY. -/
def Dev.mayStart (d : Dev) (r : Nat) : Prop := d.canStart r = true ∧ d.rd .glBoot ≠ bootRecovery

/-- The origin of the descriptor of ring r that starts next. -/
def Dev.nextOrigin (d : Dev) (r : Nat) : Origin := .ring r (d.sqS r).started

/-- A field that a write only stores: read and write, with no command of its own, no partner word, no boundary to wait for
and no other effect. -/
def Fld.plain (f : Fld) : Bool :=
  f.row.spec.access == .rw && !f.row.spec.own && (pairHi f.row).isNone && (pairLo f.row).isNone && !isRc f.row
    && !isWs f.row && !isCoef f.row
    && !([Row.axFfLearn, .slTabsel, .slTableA, .slTableB, .pkReadPwr, .pkWritePwr, .pkSaTrim, .pkMonSel, .slMode].contains f.row)

/-- R90, R94: the 40 bits of a response on a pickup bus: STATUS, the address echoed, the data, and the CRC over them. -/
def busResponse (status addr data : Nat) : Nat :=
  let body := status * 2 ^ 24 + addr * 2 ^ 16 + data
  256 * body + crc8 32 body

/-- R382: from d to e a CMD of link l has been accepted: one credit has moved from OUTSTANDING to CONSUMED, one tag is
ISSUED and OPEN, and the next packet is expected. -/
def Dev.TagOpened (d e : Dev) (l : Nat) : Prop :=
  e.rd .lnCreditOutstanding [l] = (d.rd .lnCreditOutstanding [l] - 1) % 2 ^ 32 ∧
    e.rd .lnCreditConsumed [l] = (d.rd .lnCreditConsumed [l] + 1) % 2 ^ 32 ∧
    e.rd .lnTagIssued [l] = (d.rd .lnTagIssued [l] + 1) % 2 ^ 32 ∧
    e.rd .lnTagOpen [l] = (d.rd .lnTagOpen [l] + 1) % 2 ^ 32 ∧ (e.lk l).rxSeq = ((d.lk l).rxSeq + 1) % 2 ^ 16

end Sys2Proof.Machine

/-- The cases of Table 20-2, and of R543, that a command may meet: what the spec leaves undefined. -/
def Sys2Proof.Instr.misuses : Sys2Proof.Instr → List Sys2Proof.Machine.Fault
  | .spindleEnWrite .. => [.classSpindles]
  | .classWrite .. => [.classSpindles]
  | .record .. => [.takeMisuse, .bufferMisuse]
  | .retrieve .. => [.takeMisuse, .bufferMisuse]
  | .blockWrite .. => [.pbaMisuse, .bufferMisuse]
  | .blockRead .. => [.pbaMisuse, .bufferMisuse]
  | .dieSensorRead .. => [.junctionRange, .vcoreTooLow]
  | .vcoreSettled => [.vcoreTooLow]
  | .program .. => [.fwAction]
  | .clean .. => [.cacheMisuse]
  | .invalidate .. => [.cacheMisuse, .invalidateDirty]
  | .cleanAndInvalidate .. => [.cacheMisuse]
  | .lockFill .. => [.cacheMisuse]
  | .cacheEnableWrite .. => [.cacheMisuse]
  | .lockmaskWrite .. => [.lockmaskCleared]
  | .importSizeWrite .. => [.importWindow]
  | .bar2Write .. => [.bar2Misuse]
  | .bar2Read .. => [.bar2Misuse]
  | .springWrite .. => [.senderMisuse]
  | .springRead .. => [.senderMisuse]
  | .springLog .. => [.senderMisuse]
  | .unknownOp .. => [.senderMisuse]
  | .springData .. => [.senderMisuse]
  | .registerWrite .. => [.bar0Access, .calibMisuse, .valueRange, .refModeWhileReady, .ringMisuse, .wmarkOrder]
  | .indexWordRead .. => [.tailMisuse]
  | .ringEnable .. => [.ringMisuse]
  | .calibCommit => [.calibMisuse]
  | _ => []
end

