-- ==== Sys2Proof/Certificates/Slice0/Obligations.lean ====
section
/-! DEFINITION. The statements about the model, family by family. -/

open Sys2Proof
open Sys2Proof.Machine

/-! ### The machine -/

/-- A step takes the command at the front of the queue and answers what exec answers with the queue's rest. -/
def Obligations.StepRunsFrontCommand : Prop :=
  ∀ (s : State) (c : Instr) (cs : List Instr), step { s with pending := c :: cs } = exec c { s with pending := cs }

/-- The model's choice (log entry 1): with no command waiting one REFCLK edge passes, TIME counts (R14), and nothing else
changes. -/
def Obligations.EmptyQueueCountsTime : Prop :=
  ∀ s : State, s.pending = [] →
    ∃ t, step s = .next t ∧ t.dev.time = (s.dev.time + 1) % 2 ^ 64 ∧ t.ev = s.ev ∧ t.mem = s.mem ∧ t.pending = [] ∧
      s.dev.OnlyChanges t.dev [] [] [.time]

/-- The state after reset meets the invariant. -/
def Obligations.ResetMeetsInvariant : Prop := State.reset.Inv

/-- From every state that meets the invariant every step that answers a next state answers one that meets it: the basin
stays in its canonical form, every event source keeps OCCURRED = POSTED + PENDING (R487), and every occurrence a command
raises is counted in its own step. -/
def Obligations.EveryStepKeepsInvariant : Prop :=
  ∀ s t : State, s.Inv → step s = .next t → t.Inv

/-- No command is refused, and none sends another: what waits in the queue is only taken from its front. -/
def Obligations.CommandsAnswerAndLeaveTheQueue : Prop :=
  (∀ (i : Instr) (s : State) (r : Refusal), exec i s ≠ .refused r) ∧
  (∀ (i : Instr) (s t : State), exec i s = .next t → t.pending = s.pending)

/-- The commands that change basin bytes: the issue of a DRAM command, and the starts that clear the basin. -/
def Obligations.OnlyTheseChangeBasinBytes : Prop :=
  ∀ (i : Instr) (s t : State), exec i s = .next t →
    (∃ a : Nat, memGet t.mem a ≠ memGet s.mem a) →
    (∃ m error address, i = .basinCommandIssue m error address) ∨ (∃ v, i = .powerOnResetEnd v) ∨
    i = .vinBrownout ∨ i = .converterOutOfRegulation ∨ i = .perstNAssert ∨ (∃ a b, i = .perstNRelease a b) ∨
    (∃ a b, i = .globalReset a b) ∨ i = .extestLoad ∨ (∃ a b, i = .testLogicReset a b)

/-! ### Host rings -/

/-- R315, R316, R317, R322: a wellhead write that selects an index word of an enabled ring makes the device read it;
while such a read is on its way the write is served by another after it; other offsets and values do nothing, and a read
of BAR4 gives 0. A full completion or event ring's head word is read again. After a poll a read of the tail word of
every enabled submission ring with POLL = 1, and of the head word of every full completion and event ring, is on its
way; while HOSTIF.POLL is 0 it reads nothing. One read of an index word at a time is the model's reading (log entry
122). It concludes that these answer a next state: wellheadWrite, hostPoll, fullRingReread. -/
def Obligations.IndexWordsAreAskedFor : Prop :=
  (∀ (s : State) (v : Nat), s.dev.ready = true → v < 0x240 → s.dev.indexEnabled v = true → s.dev.readIssued v = false →
    ∃ d, Makes (.wellheadWrite 0 v) s d ∧ d.readIssued v = true ∧ d.readOwed v = false ∧
      d.out = s.dev.out ++ [.hostRead (s.dev.indexAddr v) 8 false] ∧ s.dev.OnlyChanges d [] [ringEntry v] [.out]) ∧
  (∀ (s : State) (v : Nat), s.dev.ready = true → v < 0x240 → s.dev.indexEnabled v = true → s.dev.readIssued v = true →
    ∃ d, Makes (.wellheadWrite 0 v) s d ∧ d.readOwed v = true ∧ s.dev.OnlyChanges d [] [ringEntry v] []) ∧
  (∀ (s : State) (o v : Nat), o ≠ 0 ∨ 0x240 ≤ v ∨ s.dev.indexEnabled v = false → Makes (.wellheadWrite o v) s s.dev) ∧
  (∀ offset, bar4Word offset = 0) ∧
  (∀ (s : State) (x : Fin 576), 256 ≤ x.val → s.dev.indexEnabled x = true →
    (x.val < 512 → s.dev.cqFull (x.val - 256) = true) →
    (512 ≤ x.val → s.dev.eqFull (x.val - 512) = true ∨ s.dev.eventWaits s.ev (x.val - 512) = true) →
    ∃ d, Makes (.fullRingReread x) s d ∧ d.readIssued x = true ∧
      d.out = s.dev.out ++ (if s.dev.readIssued x then [] else [.hostRead (s.dev.indexAddr x) 8 false]) ∧
      s.dev.OnlyChanges d [] [ringEntry x] [.out]) ∧
  (∀ s : State, s.dev.rd .hPoll ≠ 0 → s.dev.ready = true →
    ∃ d, Makes .hostPoll s d ∧
      (∀ r, r < 256 → s.dev.on .sqEn [r] = true → s.dev.on .sqPoll [r] = true → d.readIssued r = true) ∧
      (∀ c, c < 256 → s.dev.on .cqEn [c] = true → s.dev.cqFull c = true → d.readIssued (256 + c) = true) ∧
      (∀ q, q < 64 → s.dev.on .eqEn [q] = true → s.dev.eqFull q = true ∨ s.dev.eventWaits s.ev q = true →
        d.readIssued (512 + q) = true) ∧
      d.regs = s.dev.regs ∧ d.cmds = s.dev.cmds ∧ d.raised = s.dev.raised) ∧
  (∀ s : State, s.dev.rd .hPoll = 0 → Makes .hostPoll s s.dev)

/-- R316, R318, R319, R330, R336, R345: a tail word lets its ring fetch and consume up to it, never more than 4,096 in
flight, and what is added to CONSUMED is added to INFLIGHT; a head word is kept as the head last read; a wellhead write
that came meanwhile makes the device read the word again. The data a RECORD or BLOCK_WRITE still gathers is added to
what it has; a host read that ends in an error ends the command with class DEVICE. It concludes that these answer a next
state: indexWordRead, hostReadCompletion. -/
def Obligations.HostReadsComeBack : Prop :=
  (∀ (s : State) (r : Fin 256) (v : Nat), s.dev.on .sqEn [r.val] = true → s.dev.tailBad r (v % 2 ^ 32) = false →
    (s.dev.sqS r).resetting = [] → (s.dev.cqS (s.dev.rd .sqCq [r.val])).waiting.length < 4096 →
    ∃ d n, MakesThenRuns (.indexWordRead (r.castLE (by decide)) v) s d ∧
      n = min ((v % 2 ^ 32 + 2 ^ 32 - s.dev.rd .sqConsumed [r.val]) % 2 ^ 32) (4096 - s.dev.rd .sqInflight [r.val]) ∧
      d.rd .sqConsumed [r.val] % 2 ^ 32 = (s.dev.rd .sqConsumed [r.val] + n) % 2 ^ 32 ∧
      d.rd .sqInflight [r.val] = s.dev.rd .sqInflight [r.val] + n ∧
      d.sqS r = { s.dev.sqS r with tail := v % 2 ^ 32, readOwed := false, readIssued := (s.dev.sqS r).readOwed } ∧
      d.out = s.dev.out ++ (if (s.dev.sqS r).readOwed then [.hostRead (s.dev.indexAddr r) 8 false] else []) ++
        ((List.range n).map fun i => .hostRead (s.dev.rd64 .sqBaseLo .sqBaseHi [r.val] +
          64 * ((s.dev.rd .sqConsumed [r.val] + i) % 2 ^ s.dev.rd .sqSize [r.val])) 64 false) ∧
      s.dev.OnlyChanges d [⟨.sqConsumed, [r.val]⟩, ⟨.sqInflight, [r.val]⟩] [(.sq, r.val)] [.out]) ∧
  (∀ (s : State) (c : Fin 256) (v : Nat), s.dev.on .cqEn [c.val] = true →
    ∃ d, MakesThenRuns (.indexWordRead ⟨256 + c.val, by omega⟩ v) s d ∧
      d.cqS c = { s.dev.cqS c with head := v % 2 ^ 32, readOwed := false, readIssued := (s.dev.cqS c).readOwed } ∧
      s.dev.OnlyChanges d [] [(.cq, c.val)] [.out]) ∧
  (∀ (s : State) (q : Fin 64) (v : Nat), s.dev.on .eqEn [q.val] = true →
    ∃ d, MakesThenRuns (.indexWordRead ⟨512 + q.val, by omega⟩ v) s d ∧
      d.eqS q = { s.dev.eqS q with head := v % 2 ^ 32, readOwed := false, readIssued := (s.dev.eqS q).readOwed } ∧
      s.dev.OnlyChanges d [] [(.eq, q.val)] [.out]) ∧
  (∀ (s : State) (r : Fin 256) (seq : Nat) (data : Bytes) (c : Cmd), s.dev.cmd (.ring r seq) = some c →
    c.op = 0x01 ∨ c.op = 0x10 → c.phase = .gathering → c.delivered < c.arg →
    (∃ d, MakesThenRuns (.hostReadCompletion r seq data true) s d ∧
      d.cmd (.ring r seq) = some (c.receive c.delivered (data.take (c.arg - c.delivered)))) ∧
    (∃ d, MakesThenRuns (.hostReadCompletion r seq data false) s d ∧ d.cmd (.ring r seq) = none ∧
      (d.cqS (s.dev.rd .sqCq [r.val])).waiting = (s.dev.cqS (s.dev.rd .sqCq [r.val])).waiting ++
        [{ ring := r, seq := seq, cookie := c.cookie, cls := clsDevice, detail := detHostMemory, op := c.op, result := 0 }]))

/-- R314: at a write that changes EN from 0 to 1 every count of the ring is 0; a write of 1 to an enabled ring leaves it
and its counts as they are; a write of 0 disables the ring and changes nothing else. What a ring enabled again with
commands of its life before still in flight does with them is the model's reading (log entry 107). It concludes that
these answer a next state: ringEnable. -/
def Obligations.EnablingARingClearsItsCounts : Prop :=
  (∀ (s : State) (r : Fin 256), s.dev.ready = true → s.dev.on .sqEn [r.val] = false → s.dev.ringReady r = true →
    ∃ d, Makes (.ringEnable (r.castLE (by decide)) true) s d ∧ d.on .sqEn [r.val] = true ∧
      d.rd .sqConsumed [r.val] = 0 ∧ d.rd .sqCompleted [r.val] = 0 ∧ d.rd .sqAborted [r.val] = 0 ∧
      d.rd .sqInflight [r.val] = 0 ∧ (d.sqS r).tail = 0 ∧ (d.sqS r).started = 0 ∧
      d.ringBusy r = false ∧
      (s.dev.ringBusy r = false → s.dev.OnlyChanges d [⟨.sqEn, [r.val]⟩, ⟨.sqConsumed, [r.val]⟩, ⟨.sqCompleted, [r.val]⟩, ⟨.sqAborted, [r.val]⟩,
        ⟨.sqInflight, [r.val]⟩] [(.sq, r.val)] [])) ∧
  (∀ (s : State) (c : Fin 256), s.dev.ready = true → s.dev.on .cqEn [c.val] = false →
    s.dev.ringReady (256 + c.val) = true →
    ∃ d, Makes (.ringEnable ⟨256 + c.val, by omega⟩ true) s d ∧ d.on .cqEn [c.val] = true ∧
      d.rd .cqPosted [c.val] = 0 ∧ (d.cqS c).head = 0 ∧
      s.dev.OnlyChanges d [⟨.cqEn, [c.val]⟩, ⟨.cqPosted, [c.val]⟩] [(.cq, c.val)] []) ∧
  (∀ (s : State) (q : Fin 64), s.dev.ready = true → s.dev.on .eqEn [q.val] = false →
    s.dev.ringReady (512 + q.val) = true →
    ∃ d, Makes (.ringEnable ⟨512 + q.val, by omega⟩ true) s d ∧ d.on .eqEn [q.val] = true ∧
      (d.eqS q).posted = 0 ∧ (d.eqS q).head = 0 ∧ s.dev.OnlyChanges d [⟨.eqEn, [q.val]⟩] [(.eq, q.val)] []) ∧
  (∀ (s : State) (x : Fin 576) (en : Bool), s.dev.ready = true → s.dev.indexEnabled x = en →
    exec (.ringEnable x en) s = .next s) ∧
  (∀ (s : State) (x : Fin 576), s.dev.ready = true → s.dev.indexEnabled x = true →
    ∃ d, Makes (.ringEnable x false) s d ∧ d.indexEnabled x = false ∧
      s.dev.OnlyChanges d [if x.val < 256 then ⟨.sqEn, [x.val]⟩ else if x.val < 512 then ⟨.cqEn, [x.val - 256]⟩
        else ⟨.eqEn, [x.val - 512]⟩] [] [])

/-- R36, R324, R325, R344, R573: what a FENCE without a scope, an unknown opcode and a QUEUE_RESET that is not ring 0's
do when they start, when a fence of scope DONE is satisfied, and what a CATALOG_READ of the ring's own deferred log
takes from it and writes. It concludes that these answer a next state: fence, fenceSatisfied, queueReset,
deferredLogRead, unknownOpcode. -/
def Obligations.ShortRingCommandsComplete : Prop :=
  (∀ (s : State) (r : Fin 256) (cookie : Nat), s.dev.mayStart r →
    MakesThenRuns (.fence r cookie 0) s
      ((s.dev.started r { origin := .ring r 0, op := 0x03, cookie := cookie }).finish (s.dev.nextOrigin r) clsOk 0)) ∧
  (∀ (s : State) (r : Fin 256) (cookie : Nat) (op : Fin 256), s.dev.mayStart r →
    MakesThenRuns (.unknownOpcode r cookie op) s
      ((s.dev.started r { origin := .ring r 0, op := op, cookie := cookie }).finish (s.dev.nextOrigin r) clsDevice 1)) ∧
  (∀ (s : State) (r : Fin 256) (cookie t tail : Nat), s.dev.mayStart r → r ≠ 0 ∨ t = 0 →
    MakesThenRuns (.queueReset r cookie t tail) s
      ((s.dev.started r { origin := .ring r 0, op := 0x38, cookie := cookie, arg := t }).finish (s.dev.nextOrigin r)
        clsDevice 2)) ∧
  (∀ (s : State) (r : Fin 256) (c : Cmd), s.dev.cmds = [c] → c.op = 0x03 → c.origin.sameQueue (.ring r 0) = true →
    c.arg = 1 → s.dev.bar2Waiting = [] → MakesThenRuns (.fenceSatisfied r) s (s.dev.finish c.origin clsOk 0)) ∧
  (∀ (s : State) (r : Fin 256) (cookie buf len n : Nat), s.dev.mayStart r → s.dev.cmds = [] →
    n = min (len / 32) (s.dev.sqS r).deferred.length →
    ∃ d, MakesThenRuns (.deferredLogRead r cookie none buf len) s d ∧
      (d.sqS r).deferred = (s.dev.sqS r).deferred.drop n ∧
      d.out = s.dev.out ++
        (if n = 0 then [] else [.hostWrite buf (((s.dev.sqS r).deferred.take n).flatMap Deferred.bytes) true]) ∧
      d.cmds = [] ∧
      s.dev.OnlyChanges d [⟨.sqDeferCount, [r.val]⟩] [(.sq, r.val), (.cq, s.dev.rd .sqCq [r.val])] [.cmds, .out])

/-- R338, R339: a QUEUE_RESET of a ring with nothing in flight takes what the host has placed as consumed and aborted,
restarts the ring at its tail word, and asks for that word; its marker then waits for the ring's completion ring, and
the QUEUE_RESET ends when it is posted (CompletionsArePosted). It concludes that these answer a next state: queueReset,
queueResetMarker. -/
def Obligations.QueueResetAbortsWhatIsPlaced : Prop :=
  (∀ (s : State) (cookie t tail : Nat), s.dev.mayStart 0 → 0 < t → t < 256 → s.dev.cmds = [] →
    (s.dev.cqS (s.dev.rd .sqCq [t])).waiting = [] → (s.dev.sqS t).started = s.dev.rd .sqConsumed [t] →
    tail < 2 ^ 32 →
    ∃ d n, MakesThenRuns (.queueReset 0 cookie t tail) s d ∧ n = (tail + 2 ^ 32 - s.dev.rd .sqConsumed [t]) % 2 ^ 32 ∧
      d.rd .sqConsumed [t] = (s.dev.rd .sqConsumed [t] + n) % 2 ^ 32 ∧
      d.rd .sqAborted [t] = (s.dev.rd .sqAborted [t] + n) % 2 ^ 32 ∧ (s.dev.rd .sqInflight [t] ≤ 4096 → d.rd .sqInflight [t] = s.dev.rd .sqInflight [t]) ∧
      (d.sqS t).tail = tail ∧ (d.sqS t).started = tail ∧
      (d.sqS t).resetting = (s.dev.sqS t).resetting ++ [((s.dev.sqS 0).started, n,
        if n = 0 then tail else s.dev.rd .sqConsumed [t], (tail + 2 ^ 32 - 1) % 2 ^ 32)] ∧
      d.out = s.dev.out ++ [.hostRead (s.dev.rd64 .sqTailLo .sqTailHi [t]) 8 false]) ∧
  (∀ (s : State) (t : Fin 256) (seq n first last c : Nat) (rest : List (Nat × Nat × Nat × Nat)), c = s.dev.rd .sqCq [t.val] →
    (s.dev.sqS t).resetting = (seq, n, first, last) :: rest → (∀ k ∈ (s.dev.cqS c).waiting, ¬(k.marker = true ∧ k.ring = t.val)) →
    (∀ x ∈ s.dev.cmds, x.origin.sameQueue (.ring t 0) = false) →
    ∃ d, MakesThenRuns (.queueResetMarker t) s d ∧ s.dev.OnlyChanges d [] [(.cq, c)] [] ∧
      (d.cqS c).waiting = (s.dev.cqS c).waiting ++
        [⟨t, last, 0, clsAborted, abortDetail n, 0xFF, first + 2 ^ 32 * last, true, seq, false⟩])

/-- R34, R321, R322, R323, R345: what ends a ring's command takes it from those in flight and queues its entry; the
oldest entry waiting for an enabled ring that is not full is written at index P mod 2^SIZE as one 32-byte write without
Relaxed Ordering, P counts it, and one command moves from INFLIGHT to COMPLETED; a full ring posts nothing. A message
goes when COAL_CNT entries are posted, or COAL_US have passed since the first entry not signalled; a masked vector keeps
it as its pending bit (R544, log entry 64). It concludes that these answer a next state: commandCompletion,
coalesceTimer. -/
def Obligations.CompletionsAreQueuedAndPosted : Prop :=
  (∀ (d : Dev) (r seq cls det res : Nat) (c : Cmd), d.cmd (.ring r seq) = some c →
    ∃ e, d.finish (.ring r seq) cls det res = e ∧ e.cmd (.ring r seq) = none ∧
      (e.cqS (d.rd .sqCq [r])).waiting = (d.cqS (d.rd .sqCq [r])).waiting ++
        [{ ring := r, seq := seq, cookie := c.cookie, cls := cls, detail := det, op := c.op, result := res }] ∧
      d.OnlyChanges e [] [(.cq, d.rd .sqCq [r])] [.cmds]) ∧
  (∀ (s : State) (c : Fin 256) (k : Compl) (rest : List Compl), (s.dev.cqS c).waiting = k :: rest →
    s.dev.on .cqEn [c.val] = true → s.dev.cqFull c = false →
    ∃ d later, MakesThenRuns (.commandCompletion c) s d ∧
      d.rd .cqPosted [c.val] = (s.dev.rd .cqPosted [c.val] + 1) % 2 ^ 32 ∧
      d.out = s.dev.out ++ .hostWrite (s.dev.rd64 .cqBaseLo .cqBaseHi [c.val] +
        32 * (s.dev.rd .cqPosted [c.val] % 2 ^ s.dev.rd .cqSize [c.val])) (s.dev.complEntry c k) false :: later ∧
      (k.marker = false → (d.cqS c).waiting = rest ∧ d.cmds = s.dev.cmds ∧
        d.rd .sqCompleted [k.ring] = (s.dev.rd .sqCompleted [k.ring] + 1) % 2 ^ 32) ∧
      (k.marker = true → (d.sqS k.ring).resetting = (s.dev.sqS k.ring).resetting.drop 1 ∧ d.cmd (.ring 0 k.reset) = none ∧
        ∀ q, s.dev.cmd (.ring 0 k.reset) = some q →
          ({ ring := 0, seq := k.reset, cookie := q.cookie, cls := clsOk, detail := k.detail, op := q.op, result := k.result } : Compl)
            ∈ (d.cqS (s.dev.rd .sqCq [0])).waiting) ∧
      (max 1 (s.dev.rd .cqCoalCnt [c.val]) ≤ (s.dev.cqS c).unsignalled + 1 →
        s.dev.msixMasked (s.dev.rd .cqVector [c.val]) = false →
        later.head? = some (s.dev.msixMsg (s.dev.rd .cqVector [c.val]))) ∧
      d.raised = s.dev.raised) ∧
  (∀ (s : State) (c : Fin 256), s.dev.cqFull c = true → MakesThenRuns (.commandCompletion c) s s.dev) ∧
  (∀ (s : State) (c : Fin 256), s.dev.rd .cqCoalUs [c.val] ≠ 0 → (s.dev.cqS c).unsignalled ≠ 0 →
    ∃ d e v, v = s.dev.rd .cqVector [c.val] ∧ Makes (.coalesceTimer c) s d ∧
      e = (s.dev.updCq c fun q => { q with unsignalled := 0 }).interrupt v ∧
      d = { e with vec := tset e.vec v { (tget {} e.vec v : VecState) with last := some s.dev.time } }) ∧
  (∀ (d : Dev) (v : Nat), (d.msixMasked v = false → (d.interrupt v).out = d.out ++ [d.msixMsg v]) ∧
    (d.msixMasked v = true → (d.interrupt v).out = d.out ∧ v ∈ (d.interrupt v).msixPending))

/-! ### The basin -/

/-- R417, R418, R419, R422, R423: with one DIMM of organisation o in slot 0 of every channel, or in all eight slots,
ORG, DPC and the installed units of 1 MiB are shown, all of them held; an empty slot 0 of channel 0 sets CONFIG_ERR and
posts BASIN_CONFIG. A training step that succeeds is followed by the next; the third failure of one step sets TRAIN_ERR
and posts BASIN_TRAIN_FAIL with the channel, subchannel, slot and step. The slot and cause bytes of BASIN_CONFIG and the
step numbers of BASIN_TRAIN_FAIL are the model's reading (log entries 40 and 41). It concludes that these answer a next
state: basinSpdRead, basinTrainStep. -/
def Obligations.BasinComesUp : Prop :=
  (∀ (s : State) (o : Fin 5) (two : Bool) (slots : List (Option Nat)), s.dev.basin.trainStart.isSome = true →
    s.dev.basin.spdRead = false → s.dev.on .bsConfigErr = false →
    slots = (List.range 8).map (fun i => if two || i % 2 == 0 then some o.val else none) →
    ∃ d, Makes (.basinSpdRead slots) s d ∧ d.rd .bsOrg = o.val ∧ d.rd .bsDpc = (if two then 2 else 1) ∧
      d.rd .bsUnitsInstalled = (if two then 8 else 4) * 1024 * [16, 32, 64, 64, 128].getD o.val 0 ∧
      d.rd .bsUnitsHeld = d.rd .bsUnitsInstalled ∧ d.basin.spdRead = true ∧
      s.dev.OnlyChanges d [⟨.bsOrg, []⟩, ⟨.bsDpc, []⟩, ⟨.bsUnitsInstalled, []⟩, ⟨.bsUnitsHeld, []⟩] [] [.basin]) ∧
  (∀ (s : State) (rest : List (Option Nat)), s.dev.basin.trainStart.isSome = true → s.dev.basin.spdRead = false →
    s.dev.on .bsConfigErr = false →
    Makes (.basinSpdRead (none :: rest)) s ((s.dev.wr .bsConfigErr [] 1).raise 0x6A0 0x1306 [0, 0])) ∧
  (∀ (s : State) (u : Fin 8) (slot : Fin 2) (key done n : Nat), s.dev.basin.spdRead = true →
    s.dev.on .bsTrainErr = false → slot.val < s.dev.rd .bsDpc → key = 2 * u.val + slot.val →
    tget 0 s.dev.basin.steps key = done → done < 6 → tget 0 s.dev.basin.attempts key = n →
    (∃ d, Makes (.basinTrainStep u slot true) s d ∧ tget 0 d.basin.steps key = done + 1 ∧
      tget 0 d.basin.attempts key = 0 ∧ s.dev.OnlyChanges d [] [] [.basin]) ∧
    (∃ d, Makes (.basinTrainStep u slot false) s d ∧ tget 0 d.basin.attempts key = n + 1 ∧
      d.basin.steps = s.dev.basin.steps ∧
      (n < 2 → s.dev.OnlyChanges d [] [] [.basin]) ∧
      (2 ≤ n → d.on .bsTrainErr = true ∧
        d.raised = s.dev.raised ++ [⟨0x6A0, 0x1307, [u.val / 2, u.val % 2, slot.val, done + 1]⟩] ∧
        s.dev.OnlyChanges d [⟨.bsTrainErr, []⟩] [] [.basin, .raised])))

/-- R433, R438: a port's read or whole-word write within the basin joins its channel's queue with the deadline of its
port, and waits outside a full queue; the read also of the patrol, whose cursor passes the word (R443). It concludes
that these answer a next state: basinPortRead, basinPortWrite, writeAgeExpiry, patrolRead. -/
def Obligations.WordsJoinTheirQueues : Prop :=
  (∀ (s : State) (p : Fin 8) (w : Nat) (use : WordUse) (k : Chan), w < s.dev.words → k = s.dev.chan (s.dev.chanOf w) →
    ∃ d e, Makes (.basinPortRead p w use) s d ∧
      e = ({ word := w, port := p, use := use, seq := k.next, deadline := s.dev.time + s.dev.rd .bsPortLtarget [p.val] }
        : QEntry) ∧
      (k.reads.length < 64 → (d.chan (s.dev.chanOf w)).reads = k.reads ++ [e]) ∧
      (64 ≤ k.reads.length → (d.chan (s.dev.chanOf w)).overflow = k.overflow ++ [e]) ∧
      (d.chan (s.dev.chanOf w)).writes = k.writes ∧ s.dev.OnlyChanges d [] [] [.basin]) ∧
  (∀ (s : State) (p : Fin 8) (w : Nat) (data : Bytes) (k : Chan), w < s.dev.words → data.length = 64 →
    k = s.dev.chan (s.dev.chanOf w) → k.writes.length < 64 →
    ∃ d e, Makes (.basinPortWrite p w data) s d ∧
      e = ({ word := w, port := p, data := data, seq := k.next,
             deadline := s.dev.time + s.dev.rd .bsPortLtarget [p.val] } : QEntry) ∧
      e ∈ (d.chan (s.dev.chanOf w)).writes ∧ (d.chan (s.dev.chanOf w)).reads = k.reads ∧
      s.dev.OnlyChanges d [] [] [.basin]) ∧
  (∀ (s : State) (w : Nat), s.dev.rd .bsPatrolHours ≠ 0 → s.dev.installed ≠ 0 →
    s.dev.nextInitWord (s.dev.installed + 1) (s.dev.rd64 .bsPatrolCursorLo .bsPatrolCursorHi) = some w →
    (s.dev.chan (s.dev.chanOf w)).reads.length < 64 →
    ∃ d e, Makes .patrolRead s d ∧ e.word = w ∧ e.port = 8 ∧ e ∈ (d.chan (s.dev.chanOf w)).reads ∧
      d.rd .bsPatrolCursorLo = (w + 1) % s.dev.words % 2 ^ 32 ∧
      s.dev.OnlyChanges d [⟨.bsPatrolCursorLo, []⟩, ⟨.bsPatrolCursorHi, []⟩] [] [.basin]) ∧
  (∀ (s : State) (m : Fin 4) (e : QEntry), oldest (s.dev.chan m).writes = some e →
    ∃ d, Makes (.writeAgeExpiry m) s d ∧ e.seq ∈ (d.chan m).aged ∧ s.dev.OnlyChanges d [] [] [.basin])

/-- R310, R430, R431, R435: a write that a channel issues stores its bytes at its word and no other byte of the basin. A
read that the code finds uncorrectable is counted in UE of its subchannel unit and posted with its address, kind and
port; a word the code finds good is neither. A BAR2 read within one word comes back with the bytes of its range,
poisoned and as zeros when the word is uncorrectable. It concludes that these answer a next state: basinCommandIssue. -/
def Obligations.IssuedWordsAreStoredAndChecked : Prop :=
  (∀ (s : State) (m : Fin 4) (error : List (Nat × Nat)) (address : Nat) (e : QEntry), Memory.wf s.mem = true →
    s.dev.nextIssue m = some e → e.data.length = 64 → e.port < 8 →
    ∃ t, exec (.basinCommandIssue m error address) s = .next t ∧
      (∀ i, i < 64 → memGet t.mem (64 * e.word + i) = BitVec.ofNat 8 (e.data.getD i 0)) ∧
      (∀ a, a < 64 * e.word ∨ 64 * e.word + 64 ≤ a → memGet t.mem a = memGet s.mem a) ∧
      t.dev.out = s.dev.out ++ [.dram m true e.word (burstBeats (chipEncode e.data e.word))] ∧ t.pending = s.pending) ∧
  (∀ (s : State) (m : Fin 4) (error : List (Nat × Nat)) (address u : Nat) (e : QEntry), s.dev.nextIssue m = some e →
    e.data = [] → e.want = none → e.port = 3 → s.dev.determinate e.word = true → (s.dev.wordAddr e.word).u = u →
    ∃ d, MakesThenRuns (.basinCommandIssue m error address) s d ∧
      (∀ kind, readCheck s.mem e.word error address = .uncorrectable kind →
        d.rd .bsUe [u] = (s.dev.rd .bsUe [u] + 1) % 2 ^ 32 ∧
        ∃ more, d.raised = s.dev.raised ++ ⟨0x680 + 4 * u + 1, 0x1302, le 8 (64 * e.word) ++ [kind, 3]⟩ :: more) ∧
      (∀ data, readCheck s.mem e.word error address = .good data →
        (∀ v, d.rd .bsUe [v] = s.dev.rd .bsUe [v]) ∧ d.raised = s.dev.raised)) ∧
  (∀ (s : State) (m : Fin 4) (error : List (Nat × Nat)) (address a n id : Nat) (e : QEntry), s.dev.nextIssue m = some e →
    e.data = [] → e.want = some id → e.cache = none → e.port = 1 → s.dev.determinate e.word = true →
    s.dev.basin.barReads = [⟨id, a, n, []⟩] → 0 < n → a / 64 = e.word → (a + n - 1) / 64 = e.word →
    ∃ d, MakesThenRuns (.basinCommandIssue m error address) s d ∧
      (∀ data, readCheck s.mem e.word error address = .good data →
        d.out = s.dev.out ++ [.dram m false e.word [], .barRead (slice data (a % 64) n) false] ∧ d.basin.barReads = []) ∧
      (∀ kind, readCheck s.mem e.word error address = .uncorrectable kind →
        d.out = s.dev.out ++ [.dram m false e.word [], .barRead (slice (zeros 64) (a % 64) n) true] ∧ d.basin.barReads = []))

/-- R427, R428: the check symbols of a word are chosen so that the word reads back as it was stored. -/
def Obligations.ChipCodeReadsAWordBack : Prop :=
  ∀ (b : Bytes) (w : Nat), b.length = 64 → (∀ x ∈ b, x < 256) → chipDecode (chipEncode b w) w = .good b

/-- R440, R420, R421, R442: at a refresh interval boundary a channel takes the rate its sensors ask for and the others
keep theirs, and its ranks are refreshed, all banks or the next bank of each group; a sensor that rises above TS_HOT
posts DIMM_HOT once; the oldest soft repair of a channel ends, the words of its row are written back, its bank is
unblocked, what waited for it goes in its order of arrival, and it is counted. It concludes that these answer a next
state: softRepairDone, basinRefresh, dimmTempRead. -/
def Obligations.SensorsRefreshAndRepair : Prop :=
  (∀ (s : State) (m : Fin 4), ∃ d, Makes (.basinRefresh m) s d ∧
    (∀ k, k < 4 → (d.rd .bsRefDouble).testBit k =
      if k = m.val then s.dev.basin.refWanted.contains m.val else (s.dev.rd .bsRefDouble).testBit k) ∧
    (s.dev.basin.spdRead = true → s.dev.trained = true → ∀ bank : Option Nat,
      bank = (if s.dev.on .bsRefMode then some ((s.dev.chan m).refBank % 4) else none) →
      d.out = s.dev.out ++ ((List.range (s.dev.rd .bsDpc)).flatMap fun j => (List.range s.dev.basin.ranks).map fun r =>
        Msg.refresh m j r bank (s.dev.basin.refWanted.contains m.val)) ∧
      (s.dev.on .bsRefMode = true → (d.chan m).refBank = ((s.dev.chan m).refBank % 4 + 1) % 4)) ∧
    (¬(s.dev.basin.spdRead = true ∧ s.dev.trained = true) → d.out = s.dev.out) ∧
    s.dev.OnlyChanges d [⟨.bsRefDouble, []⟩] [] [.basin, .out]) ∧
  (∀ (s : State) (m : Fin 4) (slot : Fin 2) (temp : Int) (u : Nat), s.dev.basin.spdRead = true →
    slot.val < s.dev.rd .bsDpc → u = 2 * m.val + slot.val → -512 ≤ temp → temp < 512 →
    ∃ d, Makes (.dimmTempRead m slot temp) s d ∧ d.rdS .bsTs [m.val, slot.val] = temp ∧
      ((4 * s.dev.rd .bsTsHot : Nat) < temp → u ∉ s.dev.basin.hot →
        d.raised = s.dev.raised ++ [⟨0x680 + 4 * u + 3, 0x1305, slot.val :: leI 2 (4 * temp)⟩] ∧ u ∈ d.basin.hot) ∧
      (¬(4 * s.dev.rd .bsTsHot : Nat) < temp ∨ u ∈ s.dev.basin.hot → d.raised = s.dev.raised) ∧
      s.dev.OnlyChanges d [⟨.bsTs, [m.val, slot.val]⟩] [] [.basin, .raised]) ∧
  (∀ (s : State) (m : Fin 4) (w sym : Nat) (rest : List (Nat × Nat)), (s.dev.chan m).blocked = (w, sym) :: rest →
    ∃ d, Makes (.softRepairDone m) s d ∧ (d.chan m).blocked = rest ∧
      d.rd .bsPprCount = (s.dev.rd .bsPprCount + 1) % 2 ^ 32 ∧
      d.raised = s.dev.raised ++ [⟨0x680 + 4 * (s.dev.wordAddr w).u + 2, 0x1303, s.dev.repairPayload w sym⟩] ∧
      d.out = s.dev.out ++ (s.dev.rowWords w).map (fun x =>
        .dram m true x (burstBeats (chipEncode (memRead s.mem (64 * x) 64) x))) ∧
      (∀ e ∈ (s.dev.chan m).reads, s.dev.bankBlocked m e.word = true → d.bankBlocked m e.word = false →
        e.seq ∈ (d.chan m).ordered) ∧
      s.dev.OnlyChanges d [⟨.bsPprCount, []⟩] [] [.basin, .raised, .out])

/-- R310, R423, R424, R446, R574, R579: once the basin is trained the units of the service area are initialised first,
then those that BAR2 reads wait for, then the others in ascending order, which join the free pool; freed units go to the
oldest work that waits, which waits on for those it lacks; IMPORT.SIZE sets the window or gives it back; the words of a
BAR2 access enter their channels' queues, those of a read once its units are initialised. Units taken leave FREE for the
term they are claimed in, units whose data arrives leave RESERVED for HELD, and the sum of the three terms stays. It
concludes that these answer a next state: basinUnitInitialised, basinUnitWaitServed, importSizeWrite, bar2Write,
bar2Read. -/
def Obligations.UnitsAndTheWindow : Prop :=
  (∀ s : State, ¬(s.dev.basin.spdRead = true ∧ s.dev.trained = true ∧ s.dev.uninit ≠ 0 ∧ s.dev.on .bsTrainErr = false) →
    MakesThenRuns .basinUnitInitialised s s.dev) ∧
  (∀ s : State, s.dev.basin.spdRead = true → s.dev.trained = true → s.dev.on .bsTrainErr = false → s.dev.uninit ≠ 0 →
    ∃ d, MakesThenRuns .basinUnitInitialised s d ∧ ∀ asked : Option Nat,
      asked = (s.dev.basin.initWait.flatMap fun a => unitsOf a.1 a.2).find? (fun u => !s.dev.unitInit u) →
      (s.dev.basin.initSvc < s.dev.installed / 32 →
        d.basin.initSvc = s.dev.basin.initSvc + 1 ∧ d.basin.initNext = s.dev.basin.initNext) ∧
      (s.dev.installed / 32 ≤ s.dev.basin.initSvc → d.basin.initSvc = s.dev.basin.initSvc ∧
        (∀ u, asked = some u → u < s.dev.serviceStart → d.unitInit u = true) ∧
        (asked = none → d.unitInit s.dev.basin.initNext = true) ∧
        (s.dev.basin.window = none → d.rd .bsUnitsHeld = (s.dev.rd .bsUnitsHeld - 1) % 2 ^ 21 ∧
          d.rd .bsUnitsFree = (s.dev.rd .bsUnitsFree + 1) % 2 ^ 21))) ∧
  (∀ s : State, s.dev.basin.waiting = [] → MakesThenRuns .basinUnitWaitServed s s.dev) ∧
  (∀ (s : State) (o : Owner) (n k : Nat) (ws : List UnitWait), s.dev.basin.waiting = ⟨o, n⟩ :: ws → k = s.dev.couldTake n →
    ∃ d, MakesThenRuns .basinUnitWaitServed s d ∧ d.unitsOwned o = s.dev.unitsOwned o + k ∧
      (k = 0 → d = s.dev) ∧
      (0 < k → d.rd .bsUnitsFree = (s.dev.rd .bsUnitsFree - k) % 2 ^ 21 ∧
        d.basin.waiting = if n ≤ k then ws else ⟨o, n - k⟩ :: ws)) ∧
  (∀ (s : State) (size n : Nat), s.dev.ready = true → n = size % 2 ^ 21 → n ≠ 0 →
    s.dev.rd .svImportBase + n ≤ s.dev.serviceStart →
    ∃ d, MakesThenRuns (.importSizeWrite size) s d ∧ d.rd .svImportSize = n ∧
      d.basin.window = some (s.dev.rd .svImportBase, n)) ∧
  (∀ (s : State) (size : Nat), s.dev.ready = true → size % 2 ^ 21 = 0 →
    ∃ d, MakesThenRuns (.importSizeWrite size) s d ∧ d.rd .svImportSize = 0 ∧ d.rd .svImportReady = 0 ∧
      d.basin.window = none) ∧
  (∀ (s : State) (size : Nat), s.dev.ready = false → exec (.importSizeWrite size) s = .next s) ∧
  (∀ (s : State) (a : Nat) (data : Bytes), s.dev.bar2WriteOk a data = true →
    ∃ d, Makes (.bar2Write a data) s d ∧ (∀ w ∈ wordsOf a data.length, ∃ e : QEntry,
      (e ∈ (d.chan (s.dev.chanOf w)).writes ∨ e ∈ (d.chan (s.dev.chanOf w)).overflow) ∧
      e.word = w ∧ e.data = slice data (64 * w - a) 64 ∧ e.bar2 = true) ∧ s.dev.OnlyChanges d [] [] [.basin]) ∧
  (∀ (s : State) (a n : Nat), a % 4 = 0 → n % 4 = 0 → 4 ≤ n → n ≤ 4096 → a + n ≤ s.dev.installed * 2 ^ 20 →
    s.dev.on .bsReady = true →
    ∃ d, Makes (.bar2Read a n) s d ∧ s.dev.OnlyChanges d [] [] [.basin] ∧
      (s.dev.rangeInit a n = false → d.basin.initWait = s.dev.basin.initWait ++ [(a, n)]) ∧
      (s.dev.rangeInit a n = true → ⟨s.dev.basin.nextRead, a, n, []⟩ ∈ d.basin.barReads ∧ ∀ w ∈ wordsOf a n, ∃ e : QEntry,
        (e ∈ (d.chan (s.dev.chanOf w)).reads ∨ e ∈ (d.chan (s.dev.chanOf w)).overflow) ∧
        e.word = w ∧ e.port = 1 ∧ e.want = some s.dev.basin.nextRead)) ∧
  (∀ (d e : Dev) (o : Owner) (n : Nat) (res : Bool), d.takeUnits o n res = some e →
    d.rd .bsUnitsFree + d.rd .bsUnitsReserved + d.rd .bsUnitsHeld < 2 ^ 21 →
    e.rd .bsUnitsFree = d.rd .bsUnitsFree - n ∧
    e.rd .bsUnitsReserved = d.rd .bsUnitsReserved + (if res then n else 0) ∧
    e.rd .bsUnitsHeld = d.rd .bsUnitsHeld + (if res then 0 else n) ∧
    e.rd .bsUnitsFree + e.rd .bsUnitsReserved + e.rd .bsUnitsHeld =
      d.rd .bsUnitsFree + d.rd .bsUnitsReserved + d.rd .bsUnitsHeld) ∧
  (∀ (d : Dev) (o : Owner) (n : Nat),
    (d.basin.owned.filter fun e => e.2.2).length ≤ d.rd .bsUnitsReserved →
    d.rd .bsUnitsFree + d.rd .bsUnitsReserved + d.rd .bsUnitsHeld < 2 ^ 21 →
    (d.arriveUnits o n).rd .bsUnitsFree + (d.arriveUnits o n).rd .bsUnitsReserved + (d.arriveUnits o n).rd .bsUnitsHeld =
      d.rd .bsUnitsFree + d.rd .bsUnitsReserved + d.rd .bsUnitsHeld)

/-! ### The track cache -/

/-- R452, R470: an access that finds its line is a hit: a read returns the bytes of its range from the line and changes
no line; a write puts its bytes into the line, marks dirty the words it touches, and changes no other line. An access
outside the service area does nothing. It concludes that these answer a next state: cacheAccess. -/
def Obligations.CacheHitServesTheLine : Prop :=
  (∀ (s : State) (user : Fin 3) (use : WordUse) (addr len way : Nat) (data : Bytes) (x : Line), s.dev.inService addr len = true →
    1 ≤ len → len ≤ 64 → addr % 256 + len ≤ 256 → s.dev.on .ccEn = true → s.dev.findWay (addr / 256) = some way →
    x = s.dev.cline (lineSet (addr / 256)) way → x.lost = [] → x.data.length = 4 → (∀ w ∈ x.data, w.length = 64) →
    ∃ d bytes, MakesThenRuns (.cacheAccess user use false addr len data none none) s d ∧
      d.rd .ccHit = (s.dev.rd .ccHit + 1) % 2 ^ 32 ∧ d.cache.lines = s.dev.cache.lines ∧
      d.out = s.dev.out ++ [.cacheData user addr bytes] ∧ bytes.length = len ∧
      (∀ j, j < len → bytes.getD j 0 = (x.data.getD ((addr % 256 + j) / 64) []).getD ((addr % 256 + j) % 64) 0) ∧
      s.dev.OnlyChanges d [⟨.ccHit, []⟩] [] [.cache, .out]) ∧
  (∀ (s : State) (user : Fin 3) (use : WordUse) (write : Bool) (addr len : Nat) (data : Bytes) (prefetch : Option Nat)
    (sram : Option (Nat × Nat)), s.dev.inService addr len = false →
    MakesThenRuns (.cacheAccess user use write addr len data prefetch sram) s s.dev) ∧
  (∀ (s : State) (user : Fin 3) (use : WordUse) (addr len way : Nat) (data : Bytes) (x y : Line),
    s.dev.inService addr len = true → 1 ≤ len → len ≤ 64 → data.length = len → addr % 256 + len ≤ 256 →
    s.dev.on .ccEn = true → s.dev.findWay (addr / 256) = some way → s.dev.sideOf (addr / 256 / 128) = none →
    x = s.dev.cline (lineSet (addr / 256)) way → x.lost = [] → x.data.length = 4 → (∀ w ∈ x.data, w.length = 64) →
    ∃ d, MakesThenRuns (.cacheAccess user use true addr len data none none) s d ∧
      d.rd .ccHit = (s.dev.rd .ccHit + 1) % 2 ^ 32 ∧
      (y = d.cline (lineSet (addr / 256)) way → y.tag = x.tag ∧ y.valid = true ∧
        (∀ j, j < 256 → (y.data.getD (j / 64) []).getD (j % 64) 0 =
          if addr % 256 ≤ j ∧ j < addr % 256 + len then data.getD (j - addr % 256) 0
          else (x.data.getD (j / 64) []).getD (j % 64) 0) ∧
        (∀ i, i < 4 → addr % 256 < 64 * (i + 1) → 64 * i < addr % 256 + len → y.dirty.getD i false = true)) ∧
      (∀ k, k ≠ 16 * lineSet (addr / 256) + way → tget ({} : Line) d.cache.lines k = tget {} s.dev.cache.lines k) ∧
      s.dev.OnlyChanges d [⟨.ccHit, []⟩] [] [.cache])

/-- R451, R452, R457, R458, R468: a miss whose victim way is invalid starts a fill of that way, whose words are read
through port P4; a word read joins its own fill; when all have been read they are the line, clean, a read that waited
returns the bytes of its range, and an invalidate that found the fill in progress drops the line and waits for it no
more; a prefetched region whose copies were not discarded is READY. It concludes that these answer a next state:
cacheAccess, cacheFillComplete, prefetchFillComplete. -/
def Obligations.CacheMissFillsItsLine : Prop :=
  (∀ (s : State) (user : Fin 3) (use : WordUse) (addr len way : Nat), s.dev.inService addr len = true →
    1 ≤ len → len ≤ 64 → addr % 256 + len ≤ 256 → s.dev.on .ccEn = true → s.dev.on .ccPfSeq = false →
    s.dev.findWay (addr / 256) = none → s.dev.sideOf (addr / 256 / 128) = none →
    (∀ f ∈ s.dev.cache.fills, f.line ≠ addr / 256) → s.dev.victim (lineSet (addr / 256)) = some way →
    (s.dev.cline (lineSet (addr / 256)) way).valid = false →
    ∃ d, MakesThenRuns (.cacheAccess user use false addr len [] none none) s d ∧
      d.rd .ccMiss = (s.dev.rd .ccMiss + 1) % 2 ^ 32 ∧
      d.cache.fills = s.dev.cache.fills ++
        [{ id := s.dev.cache.nextId, line := addr / 256, way := way, reqs := [⟨user, false, addr, len, [], use⟩] }] ∧
      (∀ w, w / 4 = addr / 256 →
        ∃ e ∈ (d.chan (d.chanOf w)).reads ++ (d.chan (d.chanOf w)).overflow, e.word = w ∧ e.port = 4 ∧ e.cache = some s.dev.cache.nextId) ∧
      s.dev.OnlyChanges d [⟨.ccMiss, []⟩] [] [.cache, .basin]) ∧
  (∀ (d : Dev) (e : QEntry) (b : Bytes) (f : Fill), e.cache = some f.id → f ∈ d.cache.fills → f.fromSide = false →
    { f with words := tset f.words (e.word % 4) b } ∈ (d.cacheWord e (some b)).cache.fills) ∧
  (∀ (s : State) (line : Nat) (f : Fill), (s.dev.cache.fills.find? fun f => f.line == line && !f.fromSide) = some f →
    f.complete = true → f.reqs = [] → s.dev.cache.stalled = [] → s.dev.cache.maints = [] →
    ∃ d, MakesThenRuns (.cacheFillComplete line) s d ∧
      d.cline (lineSet line) f.way =
        { valid := true, tag := lineTag line, data := (List.range 4).map (fun i => tget [] f.words i), lost := f.lost } ∧
      (∀ g ∈ d.cache.fills, g.line = line → g.fromSide = true)) ∧
  (∀ (s : State) (line : Nat) (f : Fill) (q : CacheReq) (flat : Bytes),
    (s.dev.cache.fills.find? fun f => f.line == line && !f.fromSide) = some f → f.complete = true → f.reqs = [q] → f.lost = [] →
    s.dev.cache.stalled = [] → s.dev.cache.maints = [] → q.write = false → q.addr / 256 = line →
    flat = ((List.range 4).map fun i => slice (tget [] f.words i) 0 64).flatten →
    ∃ d, MakesThenRuns (.cacheFillComplete line) s d ∧
      d.out = s.dev.out ++ [.cacheData q.user q.addr (slice flat (q.addr % 256) q.len)]) ∧
  (∀ (s : State) (line : Nat) (f : Fill) (m : Maint),
    (s.dev.cache.fills.find? fun f => f.line == line && !f.fromSide) = some f → f.complete = true → f.reqs = [] →
    s.dev.cache.stalled = [] → s.dev.cache.maints = [m] → m.op = 1 → m.covered = [f.id] → m.deferred = [] → f.way < 16 →
    (∀ w, w < 16 → w ≠ f.way → (s.dev.cline (lineSet line) w).valid = false) →
    ∃ d, MakesThenRuns (.cacheFillComplete line) s d ∧ (d.cline (lineSet line) f.way).valid = false ∧
      d.cache.maints = [{ m with covered := [] }]) ∧
  (∀ (s : State) (line : Nat), (∀ f ∈ s.dev.cache.fills, f.line = line → f.fromSide = false → f.complete = false) →
    MakesThenRuns (.cacheFillComplete line) s s.dev) ∧
  (∀ (s : State) (n : Fin 64), (tget ({} : Side) s.dev.cache.side n).state = .filling →
    (tget ({} : Side) s.dev.cache.side n).complete = true → (∀ f ∈ s.dev.cache.fills, f.fromSide = false) →
    (∀ m ∈ s.dev.cache.maints, m.deferred = []) →
    ∃ d, MakesThenRuns (.prefetchFillComplete n) s d ∧
      (tget ({} : Side) d.cache.side n).state =
        (if (tget ({} : Side) s.dev.cache.side n).lines = [] then .empty else .ready) ∧
      d.cache.lines = s.dev.cache.lines)

/-- R454 to R456, R461, R463, R472, R473: LOCKMASK keeps bits [11:0]; EN follows its write. Once a CACHE_MAINT is
accepted no covered line that is present is dirty after a clean, and none is valid after an invalidate or a clean and
invalidate; a lock-fill of an absent line starts its fill into the lowest invalid locked way of the mask. It completes
when what it waited for is done, and a full invalidate sets CLEARED. It concludes that these answer a next state:
cacheEnableWrite, lockmaskWrite, cacheMaintComplete, clean, invalidate, cleanAndInvalidate, lockFill. -/
def Obligations.CacheControlAndMaintenance : Prop :=
  (∀ (s : State) (mask : Fin 65536), s.dev.ready = true → s.dev.running = false →
    Makes (.lockmaskWrite mask) s (s.dev.wr .ccLockmask [] (mask.val % 4096))) ∧
  (∀ (s : State) (mask : Fin 65536), s.dev.ready = true →
    (∀ i, i < 8 → (s.dev.rd .ccLockmask).testBit i = true → mask.val.testBit i = true) →
    Makes (.lockmaskWrite mask) s (s.dev.wr .ccLockmask [] (mask.val % 4096))) ∧
  (∀ s : State, s.dev.ready = true → MakesThenRuns (.cacheEnableWrite false) s (s.dev.wr .ccEn [] 0)) ∧
  (∀ s : State, s.dev.ready = true → s.dev.on .ccCleared = true → s.dev.cache.waiting = [] →
    ∃ d, MakesThenRuns (.cacheEnableWrite true) s d ∧ d.on .ccEn = true ∧ s.dev.OnlyChanges d [⟨.ccEn, []⟩] [] []) ∧
  (∀ (s : State) (r : Fin 256) (cookie mode mask addr len : Nat), s.dev.mayStart r → len ≠ 0 →
    s.dev.maintRangeOk mode addr len = true → s.dev.on .ccCleared = true →
    ∃ d, MakesThenRuns (.clean r cookie mode mask addr len none) s d ∧
      ∀ x ∈ s.dev.coveredLines mode mask addr len, (d.cline x.1 x.2).dirtyWords = []) ∧
  (∀ (s : State) (r : Fin 256) (cookie mode mask addr len : Nat), s.dev.mayStart r → len ≠ 0 →
    s.dev.maintRangeOk mode addr len = true →
    (∀ x ∈ s.dev.coveredLines mode mask addr len, (s.dev.cline x.1 x.2).dirtyWords = []) →
    ∃ d, MakesThenRuns (.invalidate r cookie mode mask addr len none) s d ∧
      ∀ x ∈ s.dev.coveredLines mode mask addr len, (d.cline x.1 x.2).valid = false) ∧
  (∀ (s : State) (r : Fin 256) (cookie mode mask addr len : Nat), s.dev.mayStart r → len ≠ 0 →
    s.dev.maintRangeOk mode addr len = true → s.dev.on .ccCleared = true →
    ∃ d, MakesThenRuns (.cleanAndInvalidate r cookie mode mask addr len none) s d ∧
      ∀ x ∈ s.dev.coveredLines mode mask addr len, (d.cline x.1 x.2).valid = false) ∧
  (∀ (s : State) (r : Fin 256) (cookie mask line way : Nat), s.dev.mayStart r →
    s.dev.maintRangeOk 0 (256 * line) 256 = true → (∀ f ∈ s.dev.cache.fills, f.line ≠ line) →
    s.dev.findWay line = none → s.dev.sideOf (line / 128) = none →
    (∀ m ∈ s.dev.cache.maints, m.origin ≠ .ring r (s.dev.sqS r).started) →
    (((List.range 16).filter fun w => mask.testBit w && s.dev.wayLocked w).find? fun w =>
      !(s.dev.cline (lineSet line) w).valid && !s.dev.wayFilling (lineSet line) w) = some way →
    ∃ d, MakesThenRuns (.lockFill r cookie 0 mask (256 * line) 256 none) s d ∧
      d.cache.fills = s.dev.cache.fills ++ [{ id := s.dev.cache.nextId, line := line, way := way }] ∧
      d.cache.maints.map Maint.covered = s.dev.cache.maints.map Maint.covered ++ [[s.dev.cache.nextId]] ∧
      d.cache.maints.map Maint.deferred = s.dev.cache.maints.map Maint.deferred ++ [[]]) ∧
  (∀ (s : State) (m : Maint) (rest : List Maint), s.dev.cache.maints = m :: rest → m.covered = [] → m.deferred = [] →
    m.words = [] → m.missed = 0 → m.error = false → rest.all (fun x => x.origin != m.origin) = true →
    ∃ d, MakesThenRuns .cacheMaintComplete s d ∧ d.cmd m.origin = none ∧ d.cache.maints = rest ∧
      (m.full = true → d.on .ccCleared = true) ∧ (m.full = false → d.regs = s.dev.regs))

/-! ### Events -/

/-- R485, R487: an occurrence adds one to OCCURRED and PENDING of its source in the step that raises it, keeps its code,
time and payload (R480), and touches no other source; at 2^32 − 1 pending it is not counted and OVF is kept. -/
def Obligations.OccurrencesAreCounted : Prop :=
  ∀ (s : State) (d : Dev) (o : Occ) (x : Src), d.raised = [o] → x = tget {} s.ev o.src →
    (x.pending ≠ 2 ^ 32 - 1 → tget {} (s.commit d).ev o.src =
      { x with occurred := (x.occurred + 1) % 2 ^ 32, pending := x.pending + 1, code := o.code, time := d.time,
               payload := o.payload }) ∧
    (x.pending = 2 ^ 32 - 1 → (tget {} (s.commit d).ev o.src).pending = 2 ^ 32 - 1 ∧
      (tget {} (s.commit d).ev o.src).occurred = x.occurred ∧ (tget {} (s.commit d).ev o.src).ovf = true) ∧
    (∀ k, k ≠ o.src → tget ({} : Src) (s.commit d).ev k = tget {} s.ev k)

/-- R480, R481, R482, R484, R486, R487: a source that is not masked, with occurrences pending and room in its enabled
ring, posts one entry for them all: PENDING moves to POSTED, its number counts on, and no other source changes; a masked
source posts nothing. ROUTE names the ring, the vector and the mask of a source from its next entry on; at the end of a
hold-off interval one message goes for all the entries of the interval; a masked vector keeps it as its pending bit
(R544, log entry 64). It concludes that these answer a next state: eventPost, holdoffExpiry, routeWrite. -/
def Obligations.EventsAreRoutedAndPosted : Prop :=
  (∀ (s : State) (src : Fin 2048) (x : Src) (n base : Nat), s.dev.raised = [] → x = tget {} s.ev src → x.pending ≠ 0 →
    x.mask = false → s.dev.on .eqEn [x.ring] = true → s.dev.ready = true →
    n = (if 12 < x.payload.length then 2 else 1) → s.dev.eqRoom x.ring n = true →
    base = s.dev.rd64 .eqBaseLo .eqBaseHi [x.ring] →
    ∃ t, exec (.eventPost src) s = .next t ∧
      tget {} t.ev src = { x with posted := (x.posted + x.pending) % 2 ^ 32, pending := 0, seq := (x.seq + 1) % 65536,
                                  ovf := false } ∧
      (∀ k, k ≠ src.val → tget ({} : Src) t.ev k = tget {} s.ev k) ∧
      (t.dev.eqS x.ring).posted = ((s.dev.eqS x.ring).posted + n) % 2 ^ 32 ∧
      .hostWrite (base + 32 * ((s.dev.eqS x.ring).posted % 2 ^ s.dev.rd .eqSize [x.ring]))
        (s.dev.eventEntry x.ring src (s.dev.eqS x.ring).posted x false) false ∈ t.dev.out ∧
      t.mem = s.mem ∧ t.dev.regs = s.dev.regs) ∧
  (∀ (s : State) (src : Fin 2048), (tget ({} : Src) s.ev src).mask = true → exec (.eventPost src) s = .next s) ∧
  (∀ (s : State) (src : Fin 2048) (v : Nat), s.dev.ready = true →
    ∃ t, exec (.routeWrite src v) s = .next t ∧
      tget {} t.ev src = { tget ({} : Src) s.ev src with
        ring := v % 64, vector := some (v / 65536 % 2048), mask := v.testBit 31 } ∧
      (∀ k, k ≠ src.val → tget ({} : Src) t.ev k = tget {} s.ev k) ∧ t.dev = s.dev ∧ t.mem = s.mem) ∧
  (∀ (s : State) (v : Fin 2048), (tget ({} : VecState) s.dev.vec v).owed = true →
    ∃ d, Makes (.holdoffExpiry v) s d ∧
      (s.dev.msixMasked v = false → d.out = s.dev.out ++ [s.dev.msixMsg v]) ∧
      (s.dev.msixMasked v = true → d.out = s.dev.out ∧ v.val ∈ d.msixPending) ∧
      tget {} d.vec v = ({ last := some s.dev.time, owed := false } : VecState) ∧
      s.dev.OnlyChanges d [] [] [.out, .vec, .msix]) ∧
  (∀ (s : State) (v : Fin 2048), (tget ({} : VecState) s.dev.vec v).owed = false →
    Makes (.holdoffExpiry v) s s.dev)

/-! ### Thermal logic -/

/-- R490, R491, R492: a hold that has been inside its reopening bands for REOPEN ends and posts WRITE_RELEASE; one that
has lasted HOLDMAX makes its surface unavailable until it ends. It concludes that these answer a next state:
writeRelease, holdmaxExpiry. -/
def Obligations.WriteHoldsEndAndExpire : Prop :=
  (∀ (s : State) (p : Fin 32) (w : Window), w = tget {} s.dev.thermal.windows p → s.dev.on .thHold [p.val] = true →
    w.inside.isSome = true →
    ∃ d, Makes (.writeRelease p) s d ∧ d.on .thHold [p.val] = false ∧
      d.raised = s.dev.raised ++ [⟨32 * p.val + 23, 0x1502, le 4 ((s.dev.time - w.since) / 100000)⟩] ∧
      (w.expired = true → (p.val, unThermal) ∉ d.unavailable) ∧ (w.expired = false → d.unavailable = s.dev.unavailable) ∧
      s.dev.OnlyChanges d [⟨.thHold, [p.val]⟩] [] [.thermal, .unavailable, .raised]) ∧
  (∀ (s : State) (p : Fin 32), s.dev.on .thHold [p.val] = false → Makes (.writeRelease p) s s.dev) ∧
  (∀ (s : State) (p : Fin 32), s.dev.on .thHold [p.val] = true →
    (tget ({} : Window) s.dev.thermal.windows p).expired = false → (s.dev.pkS p).queues.flatten = [] →
    ∃ d, MakesThenRuns (.holdmaxExpiry p) s d ∧ (p.val, unThermal) ∈ d.unavailable ∧
      (tget ({} : Window) d.thermal.windows p).expired = true ∧
      s.dev.OnlyChanges d [] [] [.thermal, .unavailable])

/-- R488, R493, R494, R496, R497, R499: the die sensors and an ambient sensor show what was measured; a die sensor that
rises above JHOT posts JUNCTION_HOT and, like a rate above its limit, takes a throttle in NORMAL to REQUESTED; the end
of the grace time enforces it at the requested fraction; a STEP_S with a trigger halves F down to THR.MIN; a throttle
that clears returns to NORMAL and posts THROTTLE_RELEASE. It concludes that these answer a next state: dieSensorRead,
ambientRead, rateCheck, graceExpiry, throttleStep, throttleRelease. -/
def Obligations.SensorsAndTheThrottle : Prop :=
  (∀ (s : State) (temps : List Int), temps.length = 8 → (∀ t ∈ temps, -32768 ≤ t ∧ t ≤ 1680) →
    (∃ t ∈ temps, -160 ≤ t) →
    (temps.zipIdx.foldl (fun d e => d.wrS .thDie [e.2] e.1) s.dev).vcoreNeeded ≤ s.dev.boot.vcore →
    (∀ p, p < 32 → s.dev.rowNow p = none ∧ (s.dev.pkS p).opc = []) →
    ∃ d, Makes (.dieSensorRead temps) s d ∧ (∀ i, i < 8 → d.rdS .thDie [i] = temps.getD i 0) ∧
      (∀ i, i < 8 → 16 * (s.dev.rd .thJhot : Int) < temps.getD i 0 → i ∉ s.dev.thermal.hot →
        ⟨0x6E0 + i, 0x1504, leI 2 (temps.getD i 0)⟩ ∈ d.raised ∧ i ∈ d.thermal.hot) ∧
      (s.dev.rd .thThrState = 0 → (∃ i, i < 8 ∧ 16 * (s.dev.rd .thJhot : Int) < temps.getD i 0) →
        d.rd .thThrState = 1) ∧
      s.dev.OnlyChanges d (⟨.thThrState, []⟩ :: ⟨.thThrB0, []⟩ :: (List.range 8).map (fun i => ⟨.thDie, [i]⟩) ++
        (List.range 32).map fun p => ⟨.thHold, [p]⟩) [] [.thermal, .raised]) ∧
  (∀ (s : State) (n : Fin 16) (r : Nat) (t : Int), t = ambientTemp r (s.dev.rd .thR25 [n.val]) (s.dev.rd .thB [n.val]) →
    s.dev.on .pkPresent [2 * n.val] = false → s.dev.on .pkPresent [2 * n.val + 1] = false →
    ∃ d, Makes (.ambientRead n r) s d ∧ d.rdS .thAmb [n.val] = t ∧
      (t < -640 ∨ 2400 < t → n.val ∉ s.dev.thermal.ambFault →
        d.raised = s.dev.raised ++ [⟨0x6F0 + n.val, 0x1505, le 4 r⟩] ∧ n.val ∈ d.thermal.ambFault) ∧
      (-640 ≤ t → t ≤ 2400 → d.raised = s.dev.raised ∧ n.val ∉ d.thermal.ambFault) ∧
      s.dev.OnlyChanges d [⟨.thAmb, [n.val]⟩] [] [.thermal, .raised]) ∧
  (∀ (s : State) (n : Fin 16) (r : Nat) (t : Int), t = ambientTemp r (s.dev.rd .thR25 [n.val]) (s.dev.rd .thB [n.val]) →
    (∀ p, p < 32 → s.dev.rowNow p = none ∧ (s.dev.pkS p).opc = []) →
    ∃ d, Makes (.ambientRead n r) s d ∧ d.rdS .thAmb [n.val] = t ∧
      (t < -640 ∨ 2400 < t → n.val ∉ s.dev.thermal.ambFault → ⟨0x6F0 + n.val, 0x1505, le 4 r⟩ ∈ d.raised) ∧
      (n.val ∈ d.thermal.ambFault ↔ t < -640 ∨ 2400 < t) ∧
      s.dev.OnlyChanges d [⟨.thAmb, [n.val]⟩, ⟨.thHold, [2 * n.val]⟩, ⟨.thHold, [2 * n.val + 1]⟩] [] [.thermal, .raised]) ∧
  (∀ (s : State) (i : Nat) (x : Int), i < 8 → (tget [] s.dev.thermal.history i)[9]? = some x →
    32 < s.dev.rdS .thDie [i] - x → s.dev.rd .thThrState = 0 →
    ∃ d, Makes .rateCheck s d ∧ d.rd .thThrState = 1 ∧ i ∈ d.thermal.rising ∧
      s.dev.OnlyChanges d [⟨.thThrState, []⟩, ⟨.thThrB0, []⟩] [] [.thermal, .raised]) ∧
  (∀ s : State, s.dev.rd .thThrState = 1 →
    ∃ d, Makes .graceExpiry s d ∧ d.rd .thThrState = 2 ∧ d.rd .thThrF = s.dev.rd .thThrFrac % 2 ^ 9 ∧
      s.dev.OnlyChanges d [⟨.thThrState, []⟩, ⟨.thThrF, []⟩] [] [.thermal]) ∧
  (∀ (s : State) (f : Nat), s.dev.rd .thThrState = 2 → s.dev.thermal.rising ≠ [] ∨ s.dev.thermal.hot ≠ [] →
    f = max (s.dev.rd .thThrMin) (s.dev.rd .thThrF / 2) →
    ∃ d, Makes .throttleStep s d ∧ d.rd .thThrF = f % 2 ^ 9 ∧
      d.raised = s.dev.raised ++ [⟨0x6E8, 0x1506, le 2 f ++ [s.dev.triggerCause]⟩] ∧
      s.dev.OnlyChanges d [⟨.thThrF, []⟩] [] [.raised]) ∧
  (∀ s : State, s.dev.rd .thThrState ≠ 2 ∨ (s.dev.thermal.rising = [] ∧ s.dev.thermal.hot = []) →
    Makes .throttleStep s s.dev) ∧
  (∀ s : State, s.dev.rd .thThrState = 1 ∨ s.dev.rd .thThrState = 2 → s.dev.thermal.clearSince.isSome = true →
    ∃ d ms, Makes .throttleRelease s d ∧ d.rd .thThrState = 0 ∧ d.raised = s.dev.raised ++ [⟨0x6E8, 0x1507, le 4 ms⟩] ∧
      (s.dev.rd .thThrState = 1 → ms = 0) ∧
      s.dev.OnlyChanges d [⟨.thThrState, []⟩, ⟨.thThrF, []⟩] [] [.share, .raised])

/-! ### Calibration -/

/-- R503, R507, R511 to R514: every proposal selects exactly the number of elements of Table 16-1; a commit of valid
entries makes every changed PEND entry the SEL entry, is counted, and posts CALIB_COMMITTED; without a change the
selection and its CRC stay. It concludes that these answer a next state: calibCommit. -/
def Obligations.ProposalsAndCommits : Prop :=
  (∀ (item : Nat) (elements : List (List Int)), 1 ≤ item → item ≤ 5 → calValid item (calProposal item elements) = true) ∧
  (∀ s : State, s.dev.ready = true →
    (∀ e ∈ s.dev.calChanges, calValid e.1 (s.dev.calValue .calPend e.1 e.2) = true) →
    ∃ d, Makes .calibCommit s d ∧ d.rd .calCommits = (s.dev.rd .calCommits + 1) % 2 ^ 32 ∧
      (∀ e ∈ s.dev.calChanges, ∀ w ∈ calEntry e.1 e.2, d.rd .calSel [w] = s.dev.rd .calPend [w] % 2 ^ 32) ∧
      (∀ w, d.rd .calPend [w] = s.dev.rd .calPend [w]) ∧
      ∃ crc, d.raised = s.dev.raised ++ [⟨0x780, 0x1601, le 4 s.dev.calChanges.length ++ le 4 crc⟩]) ∧
  (∀ s : State, s.dev.ready = true → s.dev.calChanges = [] →
    Makes .calibCommit s ((s.dev.inc .calCommits []).raise 0x780 0x1601 (le 4 0 ++ le 4 (s.dev.rd .calSelCrc))))

/-- R505, R506: a CALIB_MEASURE of an instance waits for its start condition; it starts when the condition holds, and
CALIB.BUSY shows it; at its end, which for a LOOP measurement comes with its 65,536th sample, the proposal stands in the
instance's PEND entry and the command completes. An ITEM or INDEX outside Table 16-2 measures nothing (log entry 91). It
concludes that these answer a next state: calibMeasure, calibMeasureStart, calibMeasureEnd. -/
def Obligations.MeasurementsWaitRunAndEnd : Prop :=
  (∀ (s : State) (r : Fin 256) (cookie item index buf len : Nat) (e : Dev), s.dev.mayStart r → index < calInstances item →
    e = s.dev.started r
      { origin := .ring r 0, op := 0x29, cookie := cookie, arg := item, arg2 := index, addr := buf, len := len } →
    MakesThenRuns (.calibMeasure r cookie item index buf len) s
      { e with measures := e.measures ++ [{ origin := s.dev.nextOrigin r, item := item, index := index }] }) ∧
  (∀ (s : State) (r : Fin 256) (cookie item index buf len : Nat) (e : Dev), s.dev.mayStart r → calInstances item ≤ index →
    e = s.dev.started r
      { origin := .ring r 0, op := 0x29, cookie := cookie, arg := item, arg2 := index, addr := buf, len := len } →
    MakesThenRuns (.calibMeasure r cookie item index buf len) s (e.finish (s.dev.nextOrigin r) clsOk 0)) ∧
  (∀ (s : State) (m : Measure), s.dev.measures = [m] → m.running = false → (s.dev.cmd m.origin).isSome = true →
    s.dev.calReady m.item m.index = true → s.dev.calTested m.item m.index = false →
    ∃ d, Makes .calibMeasureStart s d ∧ d.measures = [{ m with running := true, start := s.dev.time }] ∧
      d.rd .calBusy [m.item - 1] = 1 ∧ (d.cmd m.origin).map Cmd.phase = some .running ∧
      s.dev.OnlyChanges d [⟨.calBusy, [m.item - 1]⟩] [] [.cmds, .measures]) ∧
  (∀ (s : State) (item : Fin 7) (index : Nat) (elements : List (List Int)) (fs fp : Int) (m : Measure),
    s.dev.measures = [m] → m.running = true → m.item = item.val → m.index = index → s.dev.measureHeld = [] →
    (m.item = 6 → m.seen = 65536) →
    ∃ d, MakesThenRuns (.calibMeasureEnd item index elements fs fp) s d ∧ d.measures = [] ∧
      (∀ w ∈ (calEntry item.val index).zipIdx,
        d.rd .calPend [w.1] = calProposal item.val elements / 2 ^ (32 * w.2) % 2 ^ 32) ∧
      d.rd .calBusy [item.val - 1] = 0 ∧ d.cmd m.origin = none) ∧
  (∀ (s : State) (index : Nat) (elements : List (List Int)) (fs fp : Int), (∀ m ∈ s.dev.measures, m.seen ≠ 65536) →
    MakesThenRuns (.calibMeasureEnd 6 index elements fs fp) s s.dev)

/-! ### Firmware and attestation -/

/-- R519, R525, R526, R534, R535, R547: an image is checked against the keys in force before anything is changed; VERIFY
ends with the answer; PROGRAM raises FLASH_WP_n, erases the header sector of the other slot first and then its body, and
goes on until body and header have been written and the slot has been read back; ATTEST reports and signs. It concludes
that these answer a next state: attest, verify, program, fwProgramEnd. -/
def Obligations.FirmwareIsCheckedThenWritten : Prop :=
  (∀ (s : State) (r : Fin 256) (cookie addr len : Nat) (image : Bytes) (e : Dev), s.dev.mayStart r →
    s.dev.boot.fwLoad = none →
    e = (s.dev.started r { origin := .ring r 0, op := 0x31, cookie := cookie, addr := addr, length := len, arg := 1 }).emit
      (.hostRead addr len true) →
    MakesThenRuns (.verify r cookie addr len image) s
      (if s.dev.imageOk image then
        (e.raiseFor [s.dev.nextOrigin r] 0x7C0 0x1704 (le 4 (headerSeq image) ++ [headerKey image])).finish
          (s.dev.nextOrigin r) clsOk 0
      else e.finish (s.dev.nextOrigin r) clsDevice detSignature)) ∧
  (∀ (s : State) (r : Fin 256) (cookie addr len slot : Nat) (image : Bytes), s.dev.mayStart r →
    s.dev.boot.fwLoad = none → s.dev.cmds = [] → slot = (if s.dev.rd .scSlot = 0 then 1 else 0) →
    ∃ d, MakesThenRuns (.program r cookie 2 addr len image) s d ∧
      (s.dev.imageOk image = true → d.pins.flashWpHigh = true ∧
        d.boot.fwLoad = some (s.dev.nextOrigin r, slot, image) ∧
        d.out = s.dev.out ++ [.hostRead addr len true, .flashErase (0x2000000 * slot) 4096,
          .flashErase (0x2000000 * slot + 4096) (imageLen image)]) ∧
      (s.dev.imageOk image = false → d.pins = s.dev.pins ∧ d.boot = s.dev.boot ∧
        d.cmd (s.dev.nextOrigin r) = none ∧ d.out = s.dev.out ++ [.hostRead addr len true])) ∧
  (∀ (s : State) (image back : Bytes) (slot : Nat) (o : Origin), s.dev.boot.fwLoad = some (o, slot, image) →
    ∃ d, MakesThenRuns (.fwProgramEnd back) s d ∧ d.boot.fwLoad = none ∧ d.pins.flashWpHigh = false ∧ d.cmd o = none ∧
      .flash (0x2000000 * slot + 4096) (imageBody image) ∈ d.out ∧
      .flash (0x2000000 * slot) (slice image 0 4096) ∈ d.out ∧
      (s.dev.imageOk back = true → d.raised = s.dev.raised ++ [⟨0x7C0, 0x1705, slot :: le 4 (headerSeq back)⟩]) ∧
      (∀ a, s.dev.imageOk back = false → firstMismatch slot image back = some a →
        d.raised = s.dev.raised ++ [⟨0x7C0, 0x1706, slot :: le 4 a⟩])) ∧
  (∀ (s : State) (r : Fin 256) (cookie buf len : Nat) (nonce body : Bytes) (e : Dev), s.dev.mayStart r →
    e = s.dev.started r { origin := .ring r 0, op := 0x30, cookie := cookie, addr := buf, len := len, bytes := nonce } →
    body = e.attestBody s.ev nonce →
    MakesThenRuns (.attest r cookie nonce buf len) s
      ({ e with freeTick := e.freeTick + 1 }.report (s.dev.nextOrigin r) clsOk 0 (body ++ identitySign e.freeTick body)))

/-! ### Self-tests and scrubbing -/

/-- R410 to R414: a QUICK test that finds nothing in progress begins its first item; its last item's result ends it with
the report; a suspension, when a command needs what the item uses, releases it, is counted and posted, and the item
begins again. Once every block of the stripe that the cursor names has been read, or passed over, a scrub goes on to the
next; what it met is counted for the stripe's take and for the pass. The order of a pass and what an item needs beyond
Table 12-11 are the model's (log entry 92). It concludes that these answer a next state: selfTest, selftestItemDone,
selftestSuspended, selftestResumed, scrubRead. -/
def Obligations.SelfTestsAndScrubs : Prop :=
  (∀ (s : State) (r : Fin 256) (cookie buf len p : Nat), s.dev.mayStart r → s.dev.cmds = [] → s.dev.selftest = none →
    s.dev.boot.fwLoad = none → p < 32 → s.dev.on .pkPresent [p] = true →
    ∃ d t, MakesThenRuns (.selfTest r cookie 1 buf len) s d ∧ d.selftest = some t ∧ t.origin = s.dev.nextOrigin r ∧
      t.items = [1, 2, 3, 4] ∧ t.start = s.dev.time ∧ d.rd .svStItem = 1 ∧ d.rd .svStState = 1) ∧
  (∀ (s : State) (t : SelfTest) (result first ms value : Nat), s.dev.selftest = some t → t.items = [4] →
    t.suspended = false → s.dev.rd .svStItem = 4 → s.dev.cache.lines = [] →
    ∃ d, MakesThenRuns (.selftestItemDone result first ms value) s d ∧ d.selftest = none ∧ d.rd .svStState = 0 ∧
      d.rd .svStItem = 0 ∧ d.cmd t.origin = none) ∧
  (∀ (s : State) (t : SelfTest), s.dev.selftest = some t → t.suspended = false → t.needed = true → s.dev.rd .svStItem = 4 →
    ∃ d, MakesThenRuns .selftestSuspended s d ∧ d.rd .svStState = 2 ∧
      d.selftest = some { t with suspended := true, suspensions := t.suspensions + 1 } ∧
      d.raised = s.dev.raised ++ [⟨0x704, 0x1207, [4]⟩]) ∧
  (∀ (s : State) (t : SelfTest), s.dev.selftest = some t → t.suspended = true → s.dev.rd .svStItem = 4 →
    ∃ d, Makes .selftestResumed s d ∧ d.rd .svStState = 1 ∧
      d.selftest = some { t with suspended := false, needed := false, failing := false } ∧
      d.raised = s.dev.raised ++ [⟨0x704, 0x1208, [4]⟩]) ∧
  (∀ (s : State) (x y : Stripe) (c : TakeScrub), s.dev.scrubNext = some x →
    s.dev.loadInForce = true → s.dev.on .svScrubEn = true → y ∈ s.dev.scrubbable → x.id < y.id → y.take = x.take →
    (∀ a ∈ s.dev.stripeBlocks x, s.dev.scrub.done.contains a = true) → c = tget {} s.dev.scrub.takes x.take →
    ∃ d c', MakesThenRuns .scrubRead s d ∧ tget {} d.scrub.takes x.take = c' ∧
      c'.blocks = c.blocks + (s.dev.stripeBlocks x).length ∧ c'.weak = c.weak + s.dev.scrub.weakNow.length ∧
      c'.unrecovered = c.unrecovered + s.dev.scrub.lostNow.length ∧ d.scrub.stripes = s.dev.scrub.stripes + 1 ∧
      d.scrub.done = [] ∧ d.scrub.weakNow = [] ∧ d.scrub.lostNow = [] ∧ d.rd .svCursorLo = (x.id + 1) % 2 ^ 32 ∧
      s.dev.OnlyChanges d [⟨.svCursorLo, []⟩, ⟨.svCursorHi, []⟩] [] [.scrub])

/-! ### Loads -/

/-- R71, R72, R326, R384, R392, R403, R419: what MEDIA_LOAD and MEDIA_UNLOAD do when they start: refused without the
basin, while another is in progress, or while a load is in force; else the load of the catalogue's takes, or the takes
that were open become UNCLOSED. That a load's scan takes effect in the command's own step is the model's choice (log
entry 87). It concludes that these answer a next state: mediaLoad, mediaUnload. -/
def Obligations.LoadsStartOrAreRefused : Prop :=
  (∀ (s : State) (r : Fin 256) (cookie mask : Nat) (read : LoadRead) (e : Dev), s.dev.mayStart r →
    e = s.dev.started r { origin := .ring r 0, op := 0x18, cookie := cookie, arg := mask } →
    (s.dev.on .bsReady = true → e.loadBusy (s.dev.nextOrigin r) = false → s.dev.boot.fwLoad = none →
      s.dev.loadInForce = false →
      MakesThenRuns (.mediaLoad r cookie mask read) s (e.load (s.dev.nextOrigin r) mask read)) ∧
    (s.dev.on .bsReady = false →
      MakesThenRuns (.mediaLoad r cookie mask read) s (e.finish (s.dev.nextOrigin r) clsResource 0x0008)) ∧
    (s.dev.on .bsReady = true → e.loadBusy (s.dev.nextOrigin r) = true ∨ s.dev.boot.fwLoad.isSome = true →
      MakesThenRuns (.mediaLoad r cookie mask read) s (e.finish (s.dev.nextOrigin r) clsResource 0x0009)) ∧
    (s.dev.on .bsReady = true → e.loadBusy (s.dev.nextOrigin r) = false → s.dev.boot.fwLoad = none →
      s.dev.loadInForce = true →
      MakesThenRuns (.mediaLoad r cookie mask read) s (e.finish (s.dev.nextOrigin r) clsResource detAlreadyLoaded))) ∧
  (∀ (rs : List CatRec) (ss : List Stripe) (id : Nat),
    ((takeOf rs ss id).state = .unclosed ∨ (takeOf rs ss id).state = .closed) ∧
    ((takeOf rs ss id).state = .closed ↔ ∃ r ∈ rs, r.rtype = 0x0012 ∧ ofLe (slice r.body 8 8) = id)) ∧
  (∀ (s : State) (r : Fin 256) (cookie : Nat) (e : Dev), s.dev.mayStart r →
    e = s.dev.started r { origin := .ring r 0, op := 0x19, cookie := cookie } →
    e.loadBusy (s.dev.nextOrigin r) = false →
    ∃ d, MakesThenRuns (.mediaUnload r cookie) s d ∧
      (s.dev.loadInForce = false → d = e.updCmd (s.dev.nextOrigin r) fun c => { c with phase := .running }) ∧
      (s.dev.loadInForce = true → (∀ t ∈ d.takes, t.state ≠ .opened)))

/-- R141, R142, R185, R186: SPINDLE_SET gives the named spindles their target, and refuses the whole command when one of
them does not follow the rings; TRACE_READ writes the image of a trace that is DONE. It concludes that these answer a
next state: spindleSet, traceRead. -/
def Obligations.SpindleSetAndTraceRead : Prop :=
  (∀ (s : State) (r : Fin 256) (n : Fin 16) (cookie target : Nat) (e : Dev), s.dev.mayStart r →
    e = s.dev.started r { origin := .ring r 0, op := 0x1A, cookie := cookie, arg := 2 ^ n.val } →
    MakesThenRuns (.spindleSet r cookie false (2 ^ n.val) target 0) s
      (if s.dev.rd .spCmdsrc [n.val] = 0 then
        (e.setTarget n (if target < 300 then 0 else min target 12000)).finish (s.dev.nextOrigin r) clsOk 0
      else e.finish (s.dev.nextOrigin r) clsResource 0x0001)) ∧
  (∀ (s : State) (r : Fin 256) (cookie mask target accel : Nat) (wait : Bool) (e : Dev), s.dev.mayStart r →
    e = s.dev.started r { origin := .ring r 0, op := 0x1A, cookie := cookie, wait := wait, arg := mask } →
    ((∃ n, n < 16 ∧ mask.testBit n = true ∧ s.dev.rd .spCmdsrc [n] ≠ 0) →
      MakesThenRuns (.spindleSet r cookie wait mask target accel) s (e.finish (s.dev.nextOrigin r) clsResource 0x0001)) ∧
    ((∀ n, n < 16 → mask.testBit n = true → s.dev.rd .spCmdsrc [n] = 0) → 300 ≤ target →
      ∃ d, MakesThenRuns (.spindleSet r cookie wait mask target accel) s d ∧
        (∀ n, n < 16 → mask.testBit n = true → d.rd .spTarget [n] = min target 12000) ∧
        (wait = false → d.cmd (s.dev.nextOrigin r) = none) ∧
        (wait = true → (d.cmd (s.dev.nextOrigin r)).isSome = true))) ∧
  (∀ (s : State) (r : Fin 256) (cookie engine buf : Nat) (e : Dev), s.dev.mayStart r →
    e = s.dev.started r { origin := .ring r 0, op := 0x28, cookie := cookie, addr := buf, arg := engine } →
    MakesThenRuns (.traceRead r cookie engine buf) s
      (if s.dev.rd .trState [engine] = trDone then
        (e.emit (.hostWrite buf ((tget ({} : Trace) s.dev.trace engine).image engine) true)).finish (s.dev.nextOrigin r)
          clsOk 0
      else e.finish (s.dev.nextOrigin r) clsResource 0x0002))

/-! ### The pickup bus and the lasers -/

/-- R90, R92, R94, R98: a cyclic read falls due and waits behind the frames of the queue; the next frame of the queue
goes out, else the next read due, else a NOP; what a TEMP read returns is shown; an ALARM bit brings a read of register
0x09 next; a response with a wrong CRC sends the frame again, and after the fourth failed attempt the bus is in FAIL and
PICKUP_BUS_FAIL is posted. It concludes that these answer a next state: pickupBusFrame, pickupBusPoll. -/
def Obligations.PickupBusFrames : Prop :=
  (∀ (s : State) (p : Fin 32), s.dev.on .pkPresent [p.val] = true →
    Makes (.pickupBusPoll p 0) s (s.dev.updPk p fun k => { k with polls := k.polls ++ [{ op := 2, reg := 0x09 }] }) ∧
    Makes (.pickupBusPoll p 2) s (s.dev.updPk p fun k => { k with polls := k.polls ++ [{ op := 2, reg := 0x0A }] })) ∧
  (∀ (s : State) (p : Fin 32) (sp : Nat), s.dev.on .pkPresent [p.val] = true → s.dev.nextMonitor p = some sp →
    ∃ d, Makes (.pickupBusPoll p 1) s d ∧ (d.pkS p).polls = (s.dev.pkS p).polls ++ [{ op := 2, reg := 0x30 + sp }] ∧
      (d.pkS p).monNext = (sp + 1) % 16 ∧ s.dev.OnlyChanges d [] [(.pk, p.val)] []) ∧
  (∀ (s : State) (p : Fin 32) (response : Nat), s.dev.on .pkPresent [p.val] = true → (s.dev.pkS p).sent = none →
    ∃ d f, Makes (.pickupBusFrame p response) s d ∧
      ((s.dev.pkS p).frames ++ (s.dev.pkS p).polls ++ [({ op := 0 } : Frame)]).head? = some f ∧ (d.pkS p).sent = some f ∧
      d.out = s.dev.out ++ [.busFrame p (busFrameBits f.op f.reg f.data)] ∧
      s.dev.OnlyChanges d [] [(.pk, p.val)] [.out]) ∧
  (∀ (s : State) (p : Fin 32) (data : Nat), s.dev.on .pkPresent [p.val] = true → data < 2 ^ 16 →
    (s.dev.pkS p).sent = some { op := 2, reg := 0x0A } → s.dev.on .thHold [p.val] = true → s.dev.rowNow p = none →
    ∃ d, Makes (.pickupBusFrame p (busResponse 0x80 0x0A data)) s d ∧ d.rd .pkTemp [p.val] = data ∧
      d.rd .pkAlarm [p.val] = 0 ∧
      s.dev.OnlyChanges d [⟨.pkAlarm, [p.val]⟩, ⟨.pkTemp, [p.val]⟩] [(.pk, p.val)] [.thermal, .out]) ∧
  (∀ (s : State) (p : Fin 32) (f : Frame) (data : Nat), s.dev.on .pkPresent [p.val] = true → data < 2 ^ 16 →
    (s.dev.pkS p).sent = some f → f.op = 1 → f.reg < 256 →
    ∃ d, Makes (.pickupBusFrame p (busResponse 0x88 f.reg data)) s d ∧ d.rd .pkAlarm [p.val] = 1 ∧
      (d.pkS p).sent.map (fun g => (g.op, g.reg)) = some (2, 0x09) ∧
      s.dev.OnlyChanges d [⟨.pkAlarm, [p.val]⟩] [(.pk, p.val)] [.out]) ∧
  (∀ (s : State) (p : Fin 32) (response : Nat) (f : Frame), s.dev.on .pkPresent [p.val] = true →
    crc8 32 (response / 256 % 2 ^ 32) ≠ response % 256 → (s.dev.pkS p).sent = some f → f.resent < 3 →
    ∃ d, Makes (.pickupBusFrame p response) s d ∧ (d.pkS p).sent = some { f with resent := f.resent + 1 } ∧
      d.out = s.dev.out ++ [.busFrame p (busFrameBits f.op f.reg f.data)] ∧
      s.dev.OnlyChanges d [] [(.pk, p.val)] [.out]) ∧
  (∀ (s : State) (p : Fin 32) (response : Nat) (f : Frame), s.dev.on .pkPresent [p.val] = true →
    crc8 32 (response / 256 % 2 ^ 32) ≠ response % 256 → (s.dev.pkS p).sent = some f → f.resent = 3 →
    s.dev.rowNow p = none →
    ∃ d, Makes (.pickupBusFrame p response) s d ∧ d.on .pkFail [p.val] = true ∧
      d.raised = s.dev.raised ++ [⟨32 * p.val + 23, 0x0301, [f.reg, f.op]⟩] ∧
      s.dev.OnlyChanges d [⟨.pkFail, [p.val]⟩] [(.pk, p.val)] [.raised, .out])

/-- R99, R101, R102: at the fall of LDOFF_n every laser-enable mask is 0 and every present pickup is sent WRITE 0 to
register 0x08; while it is low host writes of a mask are discarded; after it is high again a host write is the mask, and
its frame is queued; one that would light a spot under measurement waits. It concludes that these answer a next state:
ldoffNFall, ldoffNRise, laserMaskWrite. -/
def Obligations.LaserMasks : Prop :=
  (∀ s : State, s.dev.pins.ldoffLow = false → (∀ p, s.dev.rowNow p = none) → s.dev.homing = [] →
    ∃ d, Makes .ldoffNFall s d ∧ d.pins.ldoffLow = true ∧ (∀ p, p < 32 → d.rd .pkLaserMask [p] = 0) ∧
      (∀ p, p < 32 → s.dev.on .pkPresent [p] = true → (d.pkS p).sent = some { op := 1, reg := 0x08 }) ∧
      (∀ w ∈ d.measureHeld, w.1.row ≠ .pkLaserMask) ∧
      d.raised = s.dev.raised ++ [⟨0x7F0, 0x0303, []⟩] ∧ (∀ r ix, r ≠ .pkLaserMask → d.rd r ix = s.dev.rd r ix)) ∧
  (∀ s : State, Makes .ldoffNRise s (s.dev.updPins fun x => { x with ldoffLow := false })) ∧
  (∀ (s : State) (p : Fin 32) (mask : Fin 65536), s.dev.ready = true → s.dev.pins.ldoffLow = true →
    Makes (.laserMaskWrite p mask) s s.dev) ∧
  (∀ (s : State) (p : Fin 32) (mask : Fin 65536) (x : Nat), s.dev.ready = true → s.dev.pins.ldoffLow = false →
    x ∈ s.dev.spotsMeasured p → mask.val.testBit x = true →
    Makes (.laserMaskWrite p mask) s
      { s.dev with measureHeld := s.dev.measureHeld ++ [(⟨.pkLaserMask, [p.val]⟩, mask.val)] }) ∧
  (∀ (s : State) (p : Fin 32) (mask : Fin 65536), s.dev.ready = true →
    (∀ x ∈ s.dev.spotsMeasured p, mask.val.testBit x = false) →
    s.dev.pins.ldoffLow = false → s.dev.rowNow p = none → s.dev.homing = [] →
    ∃ d, Makes (.laserMaskWrite p mask) s d ∧ d.rd .pkLaserMask [p.val] = mask.val ∧
      { op := 1, reg := 0x08, data := mask.val } ∈ (d.pkS p).frames ∧
      s.dev.OnlyChanges d [⟨.pkLaserMask, [p.val]⟩] [(.pk, p.val)] [.out])

/-! ### Rows abandoned -/

/-- R259, R261, R271: a row of user blocks that is abandoned while it is written drives every WSTB output low, leaves INPROG for ABANDONED, is counted by its
cause and in the defect list, and posts ROW_ABANDONED; with no row being written the test writing of OPC on the pickup is void and
every WSTB output low (R276), and with none nothing happens. -/
def Obligations.AbandonedRowsAreCounted : Prop :=
  (∀ (d : Dev) (p cause : Nat) (rw : RowWrite), d.rowNow p = some rw → rw.kind = .user →
    ∃ bits, (d.abandonNow p cause).raised =
        d.raised ++ [⟨32 * p + 21, 0x0801, [rw.layer] ++ le 4 rw.row ++ [cause] ++ le 4 bits⟩] ∧
      (d.abandonNow p cause).out = d.out ++ [.wstbLow p] ∧
      (d.abandonNow p cause).rd .rowInprog [p] = (d.rd .rowInprog [p] - 1) % 2 ^ 32 ∧
      (d.abandonNow p cause).rd .rowAbandoned [p] = (d.rd .rowAbandoned [p] + 1) % 2 ^ 32 ∧
      (d.abandonNow p cause).rd .pkAbandon [p, cause - 1] = (d.rd .pkAbandon [p, cause - 1] + 1) % 2 ^ 32 ∧
      (d.abandonNow p cause).rd .defectAbandoned [p] = (d.rd .defectAbandoned [p] + 1) % 2 ^ 32) ∧
  (∀ (d : Dev) (p cause : Nat), d.rowNow p = none → ((d.pkS p).opc.any fun e => e.2.running) = false →
    d.abandonNow p cause = d) ∧
  (∀ (d : Dev) (p cause L : Nat) (o : Opc), d.rowNow p = none → (d.pkS p).opc = [(L, o)] → o.running = true → o.begun = true →
    o.void = false →
    (d.abandonNow p cause).out = d.out ++ [.wstbLow p] ∧ ((d.abandonNow p cause).pkS p).opc = [(L, { o with void := true })] ∧
    d.OnlyChanges (d.abandonNow p cause) [] [(.pk, p)] [.out])

/-! ### The rail and the wedges -/

/-- R17, R18, R52, R240: a mark whose CRC fails, or that differs from what counting periods from the last good mark
predicts, counts as missed; a good one as good, and names the layer; eight good marks lock the MTO at a channel rate of
0.10 to 1.60 Gbit/s, four missed ones unlock it, fail the verify reads under way and post RAIL_UNLOCK with the last mark
read. (The unlock with no read under way of the row under S0.) Status 1 of a spot while it is verified is the model's
reading (log entry 82). It concludes that these answer a next state: railAddressMark, mtoLock, mtoUnlock. -/
def Obligations.RailMarksAndTheLock : Prop :=
  (∀ (s : State) (p : Fin 32) (near : Bool) (w : Nat), railAddress w = none →
    ∃ d, Makes (.railAddressMark p near w) s d ∧ (d.pkS p).goodMarks = 0 ∧
      (d.pkS p).missedMarks = min 4 ((s.dev.pkS p).missedMarks + 1)) ∧
  (∀ (s : State) (p : Fin 32) (w layer band angle : Nat) (e : Mark), railAddress w = some (layer, band, angle) →
    (s.dev.servoS p).expect = some e → e ≠ ⟨layer, band, angle⟩ →
    ∃ d, Makes (.railAddressMark p true w) s d ∧ (d.pkS p).goodMarks = 0 ∧
      (d.pkS p).missedMarks = min 4 ((s.dev.pkS p).missedMarks + 1)) ∧
  (∀ (s : State) (p : Fin 32) (w layer band angle : Nat), railAddress w = some (layer, band, angle) →
    s.dev.on .pkMtoLock [p.val] = false → (s.dev.servoS p).expect = none → (s.dev.servoS p).cap = none →
    (s.dev.servoS p).jump = none →
    ∃ d, Makes (.railAddressMark p true w) s d ∧ (d.pkS p).goodMarks = min 8 ((s.dev.pkS p).goodMarks + 1) ∧
      (d.pkS p).missedMarks = 0 ∧ (d.pkS p).lastMark = some { layer := layer, band := band, angle := angle } ∧
      (d.pkS p).layer = layer) ∧
  (∀ (s : State) (p : Fin 32), s.dev.on .pkMtoLock [p.val] = false → 8 ≤ (s.dev.pkS p).goodMarks →
    100000000 ≤ s.dev.channelRate p → s.dev.channelRate p ≤ 1600000000 →
    ∃ d, Makes (.mtoLock p) s d ∧ d.on .pkMtoLock [p.val] = true ∧
      (∀ sp, 1 ≤ sp → sp ≤ 15 → s.dev.spotOn p sp = true → d.rd .rcDeskewStatus [p.val, sp] = 1) ∧
      d.raised = s.dev.raised) ∧
  (∀ (s : State) (p : Fin 32) (m : Mark), s.dev.on .pkMtoLock [p.val] = true → 4 ≤ (s.dev.pkS p).missedMarks →
    s.dev.rowNow p = none → s.dev.beingRead p = [] → (s.dev.pkS p).marked = true → (s.dev.pkS p).lastMark = some m →
    ∃ d, MakesThenRuns (.mtoUnlock p) s d ∧ d.on .pkMtoLock [p.val] = false ∧
      d.raised = s.dev.raised ++ [⟨32 * p.val + 21, 0x0101, m.layer :: le 4 m.band⟩] ∧
      (∀ v ∈ (s.dev.pkS p).verify, s.dev.stillVerifying p v = true → { v with lost := true } ∈ (d.pkS p).verify) ∧
      s.dev.OnlyChanges d [⟨.pkMtoLock, [p.val]⟩] [(.servo, p.val), (.pk, p.val)] [.raised, .out])

/-- R57, R126, R127, R128, R258, R259: a data spot's wedge shows its lane's error and clears its stale mark; a spot
whose timer expires, or whose index field names another wedge, counts one missed wedge however many spots miss it; four
wedges without a valid result mark the lane stale, post WEDGE_STALE and close the write gate. A spot that is the last to
miss its wedge completes it; what a spot reports of a wedge that is over does nothing. (The first two in a wedge that
some other enabled spot has still to report.) It concludes that these answer a next state: wedge, wedgeTimerExpiry,
wedgeStale. -/
def Obligations.WedgesAreTakenOrMissed : Prop :=
  (∀ (s : State) (p : Fin 32) (sp : Fin 16) (i index a b c e : Nat) (offset : Int), 1 ≤ sp.val → sp.val ≤ 7 →
    s.dev.spotOn p sp = true → sp.val ∉ (s.dev.servoS p).reported → i < 16 → i ≠ sp.val → s.dev.spotOn p i = true →
    i ∉ (s.dev.servoS p).reported → (s.dev.servoS p).wedgeOver = false → indexField index = some (s.dev.servoS p).wedge →
    burstInvalid sp c e = false → 0 < a + b → (errorNm (burstError sp a b)).natAbs ≤ s.dev.rd .wgTrkLim [p.val] →
    ∃ d, Makes (.wedge p sp index a b c e offset) s d ∧ d.rd .wdStale (pjIx p ++ [sp.val - 1]) = 0 ∧
      d.rd .wdLaneErr (pjIx p ++ [sp.val - 1]) = toTwos Row.wdLaneErr.spec.width (errorNm (burstError sp a b)) ∧
      tfind (d.servoS p).valid sp = some (burstError sp a b) ∧ (d.spotS p sp).offset = offset ∧
      s.dev.OnlyChanges d [⟨.wdStale, pjIx p ++ [sp.val - 1]⟩, ⟨.wdLaneErr, pjIx p ++ [sp.val - 1]⟩]
        [(.servo, p.val), (.spot, 16 * p.val + sp.val)] []) ∧
  (∀ (s : State) (p : Fin 32) (sp : Fin 16) (i index a b c e : Nat) (offset : Int) (x : Instr), s.dev.spotOn p sp = true →
    sp.val ∉ (s.dev.servoS p).reported → i < 16 → i ≠ sp.val → s.dev.spotOn p i = true →
    i ∉ (s.dev.servoS p).reported → (s.dev.servoS p).wedgeOver = false → indexField index ≠ some (s.dev.servoS p).wedge →
    x = .wedgeTimerExpiry p sp ∨ x = .wedge p sp index a b c e offset →
    ∃ d, Makes x s d ∧ (d.servoS p).reported = (s.dev.servoS p).reported ++ [sp.val] ∧
      ((s.dev.servoS p).missedOne = false → d.rd .wdMissed (pjIx p) = (s.dev.rd .wdMissed (pjIx p) + 1) % 2 ^ 32) ∧
      ((s.dev.servoS p).missedOne = true → d.rd .wdMissed (pjIx p) = s.dev.rd .wdMissed (pjIx p)) ∧
      s.dev.OnlyChanges d [⟨.wdMissed, pjIx p⟩] [(.servo, p.val), (.pk, p.val), (.spot, 16 * p.val + sp.val)] []) ∧
  (∀ (s : State) (p : Fin 32) (sp : Fin 16), s.dev.spotOn p sp = true → sp.val ∉ (s.dev.servoS p).reported →
    (s.dev.servoS p).wedgeOver = false → (∀ i, i < 16 → i ≠ sp.val → s.dev.spotOn p i = true → i ∈ (s.dev.servoS p).reported) →
    ∃ d, Makes (.wedgeTimerExpiry p sp) s d ∧ (d.servoS p).reported = [] ∧ (d.servoS p).valid = [] ∧
      (d.servoS p).missedOne = false ∧ (d.servoS p).wedgeOver = (s.dev.servoS p).expect.isSome) ∧
  (∀ (s : State) (p : Fin 32) (sp : Fin 16) (index a b c e : Nat) (offset : Int) (x : Instr), (s.dev.servoS p).wedgeOver = true →
    (s.dev.servoS p).reported = [] → x = .wedgeTimerExpiry p sp ∨ x = .wedge p sp index a b c e offset → Makes x s s.dev) ∧
  (∀ (s : State) (p : Fin 32) (lane : Fin 7), s.dev.on .wdStale (pjIx p ++ [lane.val]) = false →
    4 ≤ tget 0 (s.dev.servoS p).missed (lane.val + 1) → s.dev.rowNow p = none →
    ∃ d, Makes (.wedgeStale p lane) s d ∧ d.on .wdStale (pjIx p ++ [lane.val]) = true ∧
      d.raised = s.dev.raised ++ [⟨32 * p.val + 17, 0x0403, [lane.val + 1]⟩] ∧
      (s.dev.on .wgOpen [p.val] = true → d.on .wgOpen [p.val] = false ∧
        d.rd .wgTrips [p.val] = (s.dev.rd .wgTrips [p.val] + 1) % 2 ^ 32) ∧
      s.dev.OnlyChanges d [⟨.wdStale, pjIx p ++ [lane.val]⟩, ⟨.wgOpen, [p.val]⟩, ⟨.wgTrips, [p.val]⟩] [(.pk, p.val)]
        [.raised, .out])

/-! ### Focus and layer jumps -/

/-- R132, R133, R134: a capture searches once its corrector frame has gone, a first sweep that finds nothing is followed
by a second, and a second by FOCUS_FAIL with the axis OFF; a loss holds the axis and posts FOCUS_LOSS with the layer, or
TRACK_LOSS with the band last followed; in AUTO a focus loss begins a capture that is to return to that layer.
(TRACK_LOSS where no re-seek is made: no band was followed, or the axis is not in AUTO.) It concludes that these answer
a next state: focusSearch, focusSweepEnd, focusLoss, trackLoss. -/
def Obligations.FocusIsSoughtAndLost : Prop :=
  (∀ (s : State) (p : Fin 32) (c : FocusCap), (s.dev.servoS p).cap = some c → c.step = .corrector →
    s.dev.saWaits p = false → s.dev.axMode p 0 = 0 → s.dev.axisMeasured p 0 = false → s.dev.axState p 0 ≠ axClosed →
    ∃ d, Makes (.focusSearch p) s d ∧ d.axState p 0 = axSearch ∧ (d.servoS p).cap.map FocusCap.step = some .sweep ∧
      s.dev.OnlyChanges d [⟨.axState, axIx p 0⟩, ⟨.axInteg, axIx p 0⟩] [(.ax, axKey p 0), (.servo, p.val)] []) ∧
  (∀ (s : State) (p : Fin 32) (c : FocusCap), (s.dev.servoS p).cap = some c → c.step = .sweep → c.sweep = 1 →
    400 * s.dev.rd .fcSearchT (pjIx p) ≤ c.samples →
    ∃ d, MakesThenRuns (.focusSweepEnd p) s d ∧
      (d.servoS p).cap = some { c with sweep := 2, samples := 0, lastX := none } ∧
      s.dev.OnlyChanges d [] [(.servo, p.val)] []) ∧
  (∀ (s : State) (p : Fin 32) (c : FocusCap), (s.dev.servoS p).cap = some c → c.step = .sweep → c.sweep = 2 →
    400 * s.dev.rd .fcSearchT (pjIx p) ≤ c.samples → s.dev.axMode p 0 = 0 → s.dev.axisMeasured p 0 = false → s.dev.axState p 0 = axSearch →
    thas s.dev.homing p = false →
    ∃ d, MakesThenRuns (.focusSweepEnd p) s d ∧ d.axState p 0 = axOff ∧ (d.servoS p).cap = none ∧
      d.raised = s.dev.raised ++ [⟨32 * p.val + 16, 0x0404, []⟩]) ∧
  (∀ (s : State) (p : Fin 32), s.dev.closed p 0 = true → 8 ≤ (s.dev.servoS p).envLow ∨ 4 ≤ (s.dev.servoS p).focusHigh →
    s.dev.axMode p 0 ≠ 0 → s.dev.rowNow p = none →
    ∃ d, MakesThenRuns (.focusLoss p) s d ∧ d.axState p 0 = axHold ∧
      d.raised = s.dev.raised ++ [⟨32 * p.val + 16, 0x0405, [(s.dev.pkS p).layer]⟩] ∧
      s.dev.OnlyChanges d [⟨.axState, axIx p 0⟩] [(.ax, axKey p 0), (.pk, p.val)] [.raised, .out]) ∧
  (∀ (s : State) (p : Fin 32), s.dev.closed p 0 = true → 8 ≤ (s.dev.servoS p).envLow ∨ 4 ≤ (s.dev.servoS p).focusHigh →
    s.dev.axMode p 0 = 0 → s.dev.rowNow p = none → (s.dev.servoS p).jump = none → (s.dev.servoS p).returnTo = none →
    ∃ d, MakesThenRuns (.focusLoss p) s d ∧ d.axState p 0 = axHold ∧
      d.raised = s.dev.raised ++ [⟨32 * p.val + 16, 0x0405, [(s.dev.pkS p).layer]⟩] ∧
      (d.servoS p).cap = some {} ∧ (d.servoS p).returnTo = some (s.dev.pkS p).layer ∧
      (d.pkS p).sa = some (s.dev.saOf p 0)) ∧
  (∀ (s : State) (p : Fin 32), s.dev.closed p 1 = true → 4 ≤ (s.dev.servoS p).trackHigh →
    (s.dev.pkS p).bandFollowed = none ∨ s.dev.axMode p 1 ≠ 0 → s.dev.rowNow p = none →
    ∃ d, MakesThenRuns (.trackLoss p) s d ∧ d.axState p 1 = axHold ∧
      d.raised = s.dev.raised ++ [⟨32 * p.val + 17, 0x0406, le 4 ((s.dev.pkS p).bandFollowed.getD 0xFFFFFFFF)⟩] ∧
      s.dev.OnlyChanges d [⟨.axState, axIx p 1⟩] [(.ax, axKey p 1), (.pk, p.val)] [.raised, .out])

/-- R135 to R138: a jump goes step by step: SA for the next layer, kick, coast, brake, window and confirmation;
confirmed, the pickup is on the next layer and the jump to it is over, or the next one begins, which is held while a
block row is written or read; a failure before the third is posted with the layer found and followed by a capture. It
concludes that these answer a next state: layerJumpStart, layerJumpKick, layerJumpCoast, layerJumpBrake,
layerJumpCapture, layerJumpWindowEnd, layerJumpConfirm. -/
def Obligations.LayerJumpsGoStepByStep : Prop :=
  (∀ (s : State) (p : Fin 32) (layer : Fin 4), s.dev.pickupQuiet p = true → (s.dev.servoS p).cap = none →
    s.dev.closed p 0 = true → s.dev.axMode p 0 = 0 → (s.dev.pkS p).layer < layer.val →
    ∃ d j, Makes (.layerJumpStart p layer) s d ∧ (d.servoS p).jump = some j ∧ j.origin = (s.dev.pkS p).layer ∧
      j.next = (s.dev.pkS p).layer + 1 ∧ j.target = layer.val ∧ j.attempt = 1 ∧
      (d.pkS p).sa = some (s.dev.saOf p ((s.dev.pkS p).layer + 1)) ∧
      s.dev.OnlyChanges d [] [(.pk, p.val), (.servo, p.val)] []) ∧
  (∀ (s : State) (p : Fin 32) (j : Jump), (s.dev.servoS p).jump = some j → j.step = .corrector →
    s.dev.saWaits p = false → (∀ x, x < 4 → s.dev.axMode p x = 0 ∧ s.dev.axisMeasured p x = false) → s.dev.rowNow p = none →
    ∃ d, Makes (.layerJumpKick p) s d ∧ (d.servoS p).jump = some { j with step := .kick, samples := 0 } ∧
      d.axState p 0 = axJump ∧ d.axState p 1 = axHold ∧ d.axState p 2 = axHold ∧ d.axState p 3 = axHold) ∧
  (∀ (s : State) (p : Fin 32) (j : Jump), (s.dev.servoS p).jump = some j → j.step = .kick →
    s.dev.rd .jpKickN (pjIx p) ≤ j.samples →
    Makes (.layerJumpCoast p) s
      (s.dev.updServo p fun k => { k with jump := some { j with step := .coast, samples := 0 } })) ∧
  (∀ (s : State) (p : Fin 32) (j : Jump), (s.dev.servoS p).jump = some j → j.step = .coast →
    j.triggered = true ∨ s.dev.rd .jpCoastMax (pjIx p) ≤ j.samples →
    Makes (.layerJumpBrake p) s
      (s.dev.updServo p fun k => { k with jump := some { j with step := .brake, samples := 0 } })) ∧
  (∀ (s : State) (p : Fin 32) (j : Jump), (s.dev.servoS p).jump = some j → j.step = .brake →
    s.dev.rd .jpBrakeN (pjIx p) ≤ j.braked → s.dev.axMode p 0 = 0 → s.dev.axisMeasured p 0 = false →
    ∃ d, Makes (.layerJumpCapture p) s d ∧ d.axState p 0 = axClosed ∧
      (d.servoS p).jump = some { j with step := .window, samples := 0, within := 0 } ∧
      s.dev.OnlyChanges d [⟨.axState, axIx p 0⟩] [(.ax, axKey p 0), (.servo, p.val)] []) ∧
  (∀ (s : State) (p : Fin 32) (j : Jump), (s.dev.servoS p).jump = some j → j.step = .window →
    s.dev.rd .jpCaptN (pjIx p) ≤ j.samples → (∀ x, x < 4 → s.dev.axMode p x = 0 ∧ s.dev.axisMeasured p x = false) →
    ∃ d, Makes (.layerJumpWindowEnd p) s d ∧ (d.servoS p).jump = some { j with step := .confirm, samples := 0 } ∧
      d.axState p 1 = axClosed ∧ d.axState p 2 = axClosed ∧ d.axState p 3 = axClosed) ∧
  (∀ (s : State) (p : Fin 32) (j : Jump) (L : Fin 4), (s.dev.servoS p).jump = some j → j.step = .confirm →
    j.triggered = true → 40 ≤ j.within → s.dev.on .pkMtoLock [p.val] = true → j.next = L.val → j.target = j.next →
    (s.dev.servoS p).returnTo = none → s.dev.seekS p = none →
    ∃ d, MakesThenRuns (.layerJumpConfirm p (some L)) s d ∧ (d.pkS p).layer = L.val ∧ (d.servoS p).jump = none ∧
      s.dev.OnlyChanges d [] [(.pk, p.val), (.servo, p.val)] []) ∧
  (∀ (s : State) (p : Fin 32) (j : Jump) (L : Fin 4) (busy : Bool), (s.dev.servoS p).jump = some j → j.step = .confirm →
    j.triggered = true → 40 ≤ j.within → s.dev.on .pkMtoLock [p.val] = true → j.next = L.val → L.val < j.target →
    busy = (s.dev.updPk p fun k => { k with layer := L.val }).rowBusy p →
    ∃ d x, MakesThenRuns (.layerJumpConfirm p (some L)) s d ∧ (d.servoS p).jump = some x ∧
      x.origin = L.val ∧ x.next = L.val + 1 ∧ x.target = j.target ∧ x.attempt = 1 ∧
      x.step = (if busy then .held else .corrector) ∧
      (busy = false → (d.pkS p).sa = some (s.dev.saOf p (L.val + 1))) ∧
      s.dev.OnlyChanges d [] [(.pk, p.val), (.servo, p.val)] []) ∧
  (∀ (s : State) (p : Fin 32) (j : Jump) (found : Option (Fin 4)), (s.dev.servoS p).jump = some j → j.step = .confirm →
    j.triggered = false → (s.dev.servoS p).lastChance = false → j.attempt < 3 → s.dev.rowNow p = none →
    ∃ d, MakesThenRuns (.layerJumpConfirm p found) s d ∧
      d.raised = s.dev.raised ++ [⟨32 * p.val + 16, 0x0407, [(found.map Fin.val).getD 0xFF, j.target]⟩] ∧
      (d.servoS p).jump = some { j with step := .recapture })

/-! ### The loop engines -/

/-- R113, R114, R120: an update leaves the integrator within ±ILIM, and a CLOSED axis drives an output within ±OLIM. -/
def Obligations.IntegratorAndOutputStayInTheirLimits : Prop :=
  (∀ i ki x lim : Int, 0 ≤ lim → -lim ≤ (integrate i ki x lim).1 ∧ (integrate i ki x lim).1 ≤ lim) ∧
  (∀ (d : Dev) (p x : Nat) (v xs coil : Int), 0 ≤ d.rdS .cfOlim (d.bankOf (axIx p x)) →
    -(d.rdS .cfOlim (d.bankOf (axIx p x))) ≤ ((d.closedSample p x v xs coil).axS p x).out ∧
    ((d.closedSample p x v xs coil).axS p x).out ≤ d.rdS .cfOlim (d.bankOf (axIx p x)))

/-- R116, R118, R119, R131: host writes that set an engine up: a swap request per bit, and at the boundary every pending
swap of the engine together; a MODE that waits for the boundary; the table of an axis, discarded while it learns. It
concludes that these answer a next state: bankSwap, axisModeWrite, ffClear, rroWrite. -/
def Obligations.EngineSettingsWaitForTheBoundary : Prop :=
  (∀ (s : State) (e : Fin 8) (mask : Nat), s.dev.ready = true →
    ∃ d, Makes (.bankSwap e mask) s d ∧
      (∀ a, a < 16 → d.rd .bankPending [e.val, a] = if mask.testBit a then 1 else s.dev.rd .bankPending [e.val, a]) ∧
      (∀ r ix, r ≠ .bankPending → d.rd r ix = s.dev.rd r ix)) ∧
  (∀ (d : Dev) (e a : Nat), a < 16 →
    (d.on .bankPending [e, a] = true → d.rd .bankActive [e, a] ≤ 1 →
      (d.applySwaps e).rd .bankActive [e, a] = 1 - d.rd .bankActive [e, a] ∧ (d.applySwaps e).rd .bankPending [e, a] = 0) ∧
    (d.on .bankPending [e, a] = false →
      (d.applySwaps e).rd .bankActive [e, a] = d.rd .bankActive [e, a])) ∧
  (∀ (s : State) (e : Fin 8) (a : Fin 16) (m : Fin 4), s.dev.ready = true →
    s.dev.axisMeasured (4 * e.val + a.val / 4) (a.val % 4) = false →
    Makes (.axisModeWrite e a m) s
      (s.dev.updAx (4 * e.val + a.val / 4) (a.val % 4) fun k => { k with modePending := some m.val })) ∧
  (∀ (s : State) (e : Fin 8) (a : Fin 16), s.dev.ready = true →
    Makes (.ffClear e a) s
      (s.dev.updAx (4 * e.val + a.val / 4) (a.val % 4) fun k => { k with clearPending := true })) ∧
  (∀ (s : State) (e : Fin 8) (a : Fin 16) (w : Fin 384) (v : Nat), s.dev.ready = true →
    Makes (.rroWrite e a w v) s
      (if s.dev.on .axFfLearn [e.val, a.val] then s.dev else s.dev.wr .axRro [e.val, a.val, w.val] v))

/-- R105, R106, R108, R115, R176: an engine's sample begins at the edges where device time is a multiple of 250 and at
no other; at edge 200 every coil set-point and duty is written; a program that has not completed sets OVERRUN and posts
LOOP_OVERRUN. It concludes that these answer a next state: loopSample, loopOutput. -/
def Obligations.SamplesAndOutputs : Prop :=
  (∀ (s : State) (e : Fin 8) (xs : List ServoIn) (ys : List SpindleIn),
    MakesThenRuns (.loopSample e xs ys) s (if s.dev.time % 250 = 0 then s.dev.sample e xs ys else s.dev)) ∧
  (∀ (s : State) (e : Fin 8) (j x : Nat), j < 4 → x < 4 → s.dev.on .pkPresent [4 * e.val + j] = true →
    ∃ d, Makes (.loopOutput e true) s d ∧
      (d.axS (4 * e.val + j) x).coil =
        (if (s.dev.axS (4 * e.val + j) x).tripped then 0 else setPoint (s.dev.axS (4 * e.val + j) x).out) ∧
      (d.spinS (2 * e.val)).written = (s.dev.spinS (2 * e.val)).duties ∧
      (d.spinS (2 * e.val + 1)).written = (s.dev.spinS (2 * e.val + 1)).duties ∧
      d.regs = s.dev.regs ∧ d.raised = s.dev.raised) ∧
  (∀ (s : State) (e : Fin 8),
    ∃ d, Makes (.loopOutput e false) s d ∧ d.on .lpOverrun [e.val] = true ∧
      d.raised = s.dev.raised ++ [⟨0x7F0, 0x0401, [e.val]⟩] ∧
      (∀ r ix, r ≠ .lpOverrun → d.rd r ix = s.dev.rd r ix))

/-- R139, R140: a trace is armed empty with the settings in force, ARMED after PRETRIG records, forced only while ARMED,
and DONE after the rest, with TRACE_DONE. It concludes that these answer a next state: traceArm, traceArmed, traceForce,
traceDone. -/
def Obligations.TracesGoFromArmToDone : Prop :=
  (∀ (s : State) (e : Fin 8), s.dev.ready = true →
    ∃ d, Makes (.traceArm e) s d ∧ d.rd .trState [e.val] = trFilling ∧
      (tget ({} : Trace) d.trace e).records = [] ∧ (tget ({} : Trace) d.trace e).count = 0 ∧
      (tget ({} : Trace) d.trace e).pretrig = s.dev.rd .trPretrig [e.val] ∧
      s.dev.OnlyChanges d [⟨.trState, [e.val]⟩] [(.trace, e.val)] []) ∧
  (∀ (s : State) (e : Fin 8), s.dev.rd .trState [e.val] = trFilling →
    (tget ({} : Trace) s.dev.trace e).pretrig ≤ (tget ({} : Trace) s.dev.trace e).count →
    ∃ d, Makes (.traceArmed e) s d ∧ d.rd .trState [e.val] = trArmed ∧
      (tget ({} : Trace) d.trace e).records = (tget ({} : Trace) s.dev.trace e).records ∧
      s.dev.OnlyChanges d [⟨.trState, [e.val]⟩] [(.trace, e.val)] []) ∧
  (∀ (s : State) (e : Fin 8), s.dev.ready = true → s.dev.rd .trState [e.val] = trArmed →
    (tget ({} : Trace) s.dev.trace e).armedHit = none →
    ∃ d, Makes (.traceForce e) s d ∧
      (tget ({} : Trace) d.trace e).armedHit = some (s.dev.rd .trKind [e.val] + 0x80) ∧
      s.dev.OnlyChanges d [] [(.trace, e.val)] []) ∧
  (∀ (s : State) (e : Fin 8), s.dev.rd .trState [e.val] ≠ trArmed → Makes (.traceForce e) s s.dev) ∧
  (∀ (s : State) (e : Fin 8), s.dev.rd .trState [e.val] = trTriggered →
    8191 ≤ (tget ({} : Trace) s.dev.trace e).pretrig + (tget ({} : Trace) s.dev.trace e).count →
    Makes (.traceDone e) s ((s.dev.wr .trState [e.val] trDone).raise 0x7F0 0x0409 [e.val]))

/-! ### Sleds -/

/-- R149, R152, R154 to R158: a sled at rest for 40,000 samples carries IHOLD; a seek moves toward the radius of the
rail one band before its target, after its profile closes tracking in the first sample with |x_tpp| below 0.2, corrects
ORIGIN by every landing and follows once the band check passes; a timeout fails it, and it is retried. It concludes that
these answer a next state: sledIdleCurrent, seekStart, seekProfileEnd, seekLanding, seekTimeout. -/
def Obligations.SeeksMoveLandAndFail : Prop :=
  (∀ (s : State) (p : Fin 32), 40000 ≤ (s.dev.sledS p).still → s.dev.slSt p ≠ slUnhomed → s.dev.rd .slMode [p.val] ≠ 1 →
    ∃ d, Makes (.sledIdleCurrent p) s d ∧ d.coilCur p = s.dev.rd .slIhold [p.val] ∧
      s.dev.OnlyChanges d [] [(.sled, p.val)] []) ∧
  (∀ (s : State) (p : Fin 32) (band : Fin 65536) (angle : Fin 3072) (layer : Fin 4), s.dev.sledAuto p = true →
    s.dev.on .slFault [p.val] = false → s.dev.on .pkPresent [p.val] = true → s.dev.pickupQuiet p = true →
    (s.dev.pkS p).rows = [] → (s.dev.servoS p).cap = none → (s.dev.pkS p).layer = layer.val →
    s.dev.slSt p = slHold ∨ s.dev.slSt p = slFollow →
    ∃ d m, MakesThenRuns (.seekStart p band angle layer) s d ∧ d.slSt p = slSeek ∧
      d.seekS p = some { band := band, angle := angle, layer := layer, step := .moving } ∧
      (d.sledS p).move = some m ∧ m.start = s.dev.slP p ∧ m.began = s.dev.time ∧
      m.target = (s.dev.clampTarget p (s.dev.posAt p (bandRadius band 1536 - 15360))).1 ∧
      m.jerk = s.dev.rd .slJerk [p.val] ∧ m.accel = s.dev.rd .slAccel [p.val] ∧ m.speed = s.dev.rd .slSpeed [p.val] ∧
      (s.dev.axMode p 1 = 0 → s.dev.axisMeasured p 1 = false → d.axState p 1 = axOff)) ∧
  (∀ (s : State) (p : Fin 32) (k : Seek), s.dev.seekS p = some k → k.step = .moving → s.dev.moveEnded p = true →
    Makes (.seekProfileEnd p) s (s.dev.setSeek p { k with step := .landing })) ∧
  (∀ (d : Dev) (p : Nat) (k : Seek) (x : Int), d.seekS p = some k → k.step = .landing → d.axMode p 1 = 0 →
    d.axisMeasured p 1 = false → d.axState p 1 = axOff → (d.landTracking p x).axState p 1 = if 5 * (x.natAbs : Int) < one29 then axClosed else axOff) ∧
  (∀ (s : State) (p : Fin 32) (k : Seek) (field b : Nat) (angle : Fin 3072) (delta : Int), s.dev.seekS p = some k →
    k.step = .landing → s.dev.closed p 1 = true → 16 ≤ (s.dev.servoS p).followed → bandField field = some b → s.dev.bandCheck p k b angle = true →
    delta = (b : Int) - nearestBand b (s.dev.radiusAt p (s.dev.slP p)) angle →
    ∃ d, MakesThenRuns (.seekLanding p field angle) s d ∧ d.seekS p = none ∧ d.slSt p = slFollow ∧
      d.rd .slOrigin [p.val] = toTwos 32 (s.dev.rdS .slOrigin [p.val] + 1920 * delta) ∧
      d.rd .slLastBand [p.val] = b % 2 ^ 16 ∧ d.rd .slLastDelta [p.val] = toTwos 16 delta ∧
      d.raised = s.dev.raised ++ (if s.dev.rd .slSlipMax [p.val] < delta.natAbs then
        [⟨32 * p.val + 20, evSledSlip, le 2 b ++ leI 4 (b - delta)⟩] else [])) ∧
  (∀ (s : State) (p : Fin 32) (k : Seek) (field b : Nat) (angle : Fin 3072), s.dev.seekS p = some k →
    k.step = .landing → s.dev.closed p 1 = true → 16 ≤ (s.dev.servoS p).followed → bandField field = some b → s.dev.bandCheck p k b angle = false →
    k.corrections < s.dev.rd .slCorrMax [p.val] → s.dev.rowNow p = none →
    ∃ d, MakesThenRuns (.seekLanding p field angle) s d ∧ d.slSt p = slSeek ∧
      d.seekS p = some { k with step := .moving, corrections := k.corrections + 1 }) ∧
  (∀ (s : State) (p : Fin 32) (k : Seek), s.dev.seekS p = some k → k.step = .moving ∨ k.step = .landing →
    k.retries < s.dev.rd .slSeekRetry [p.val] → k.recovery = false → s.dev.slSt p = slSeek →
    (s.dev.sledS p).homed = true → s.dev.selftest = none → s.dev.homing = [] → s.dev.on .slStopmode [p.val] = false →
    s.dev.sledAuto p = true → s.dev.on .slFault [p.val] = false → s.dev.rowNow p = none →
    ∃ d, MakesThenRuns (.seekTimeout p) s d ∧ d.slSt p = slStopping ∧ (d.sledS p).ramp.isSome = true ∧
      d.seekS p = some { k with step := .waiting, retries := k.retries + 1, corrections := 0, recovery := true } ∧
      d.raised = s.dev.raised ++ [⟨32 * p.val + 20, evSeekFail, 0 :: leI 4 (s.dev.slP p)⟩])

/-- R152, R153, R160, R161: a MANUAL move goes to its target clamped to the soft limits, and reports a target outside
them; a stop ends a move with a ramp, after which the sled holds once the last set-point is the ramp's end, or at once
with STOPMODE, after which it is UNHOMED. It concludes that these answer a next state: sledGoto, sledStop, stopRampEnd.
-/
def Obligations.ManualMovesAndStops : Prop :=
  (∀ (s : State) (p : Fin 32) (target clamped : Int), s.dev.ready = true → s.dev.rd .slMode [p.val] = 2 →
    s.dev.on .slFault [p.val] = false → s.dev.slSt p = slHold ∨ s.dev.slSt p = slFollow → s.dev.rowNow p = none →
    -2147483648 ≤ target → target < 2147483648 → clamped = (s.dev.clampTarget p target).1 →
    ∃ d m, Makes (.sledGoto p target) s d ∧ d.slSt p = slSeek ∧ (d.sledS p).move = some m ∧ m.target = clamped ∧
      m.start = s.dev.slP p ∧
      d.raised = s.dev.raised ++ (if clamped = target then [] else [⟨32 * p.val + 20, evSledLimit, leI 4 target ++ leI 4 clamped⟩]) ∧
      s.dev.OnlyChanges d [⟨.slGoto, [p.val]⟩, ⟨.slState, [p.val]⟩] [(.sled, p.val), (.pk, p.val)] [.raised, .out]) ∧
  (∀ (s : State) (p : Fin 32) (target : Int), s.dev.ready = true → s.dev.rd .slMode [p.val] ≠ 2 →
    ∃ d, Makes (.sledGoto p target) s d ∧ s.dev.OnlyChanges d [⟨.slGoto, [p.val]⟩] [] []) ∧
  (∀ (s : State) (p : Fin 32), s.dev.ready = true → s.dev.slSt p = slSeek → s.dev.seekS p = none → s.dev.homing = [] →
    (s.dev.sledS p).homed = true → s.dev.selftest = none → s.dev.rowNow p = none →
    (s.dev.on .slStopmode [p.val] = false → ∃ d, MakesThenRuns (.sledStop p) s d ∧ d.slSt p = slStopping ∧
      (d.sledS p).ramp.isSome = true ∧ (d.sledS p).move = none ∧
      s.dev.OnlyChanges d [⟨.slState, [p.val]⟩] [(.sled, p.val), (.pk, p.val)] [.out]) ∧
    (s.dev.on .slStopmode [p.val] = true → ∃ d, MakesThenRuns (.sledStop p) s d ∧ d.slSt p = slUnhomed ∧
      d.slP p = s.dev.slP p ∧ (d.sledS p).frozen = some (s.dev.sledOut80 p) ∧ d.coilCur p = 0 ∧
      d.raised = s.dev.raised ++ [⟨32 * p.val + 20, evSledUnhomed, [0]⟩])) ∧
  (∀ (s : State) (p : Fin 32), s.dev.slSt p = slStopping → (s.dev.sledS p).ramp = none ∨ s.dev.moveEnded p = true →
    s.dev.seekS p = none →
    MakesThenRuns (.stopRampEnd p) s ((s.dev.updSled p fun k => { k with ramp := none }).setSl p slHold))

/-- R164 to R168: a homing starts on a write of HOME, or in AUTO of an UNHOMED sled; it ramps to rest at a pattern,
settles, reads a radius from 384 chevron frames, moves 1,024 microsteps outward and reads another, from which SCALE and
ORIGIN follow; the switch alone homes coarsely; each failure is posted with its cause and leaves the sled UNHOMED. It
concludes that these answer a next state: sledHome, homingStart, homingPatternSeen, homingSettleEnd, homingRadiusRead,
homeNLow, homingSwitchSearchEnd, homingTravelEnd, homingReadTimeout, coilOvercurrent. -/
def Obligations.HomingGoesStepByStep : Prop :=
  (∀ (s : State) (p : Fin 32), s.dev.ready = true → s.dev.rd .slMode [p.val] ≠ 1 → s.dev.on .slFault [p.val] = false →
    s.dev.on .pkPresent [p.val] = true → thas s.dev.seek p = false → thas s.dev.homing p = false →
    s.dev.rowNow p = none → s.dev.slSt p ≠ slStopping → s.dev.homeBlocker p = none →
    ∃ d, MakesThenRuns (.sledHome p) s d ∧ d.slSt p = slHoming ∧ d.homingS p = some {} ∧
      (d.servoS p).cap = some {} ∧ d.slP p = s.dev.slP p ∧ (d.sledS p).homeBlocked = false ∧ d.raised = s.dev.raised) ∧
  (∀ (s : State) (p : Fin 32), s.dev.sledAuto p = true → s.dev.on .pkPresent [p.val] = true →
    s.dev.on .slFault [p.val] = false → (s.dev.sledS p).homeBlocked = false → s.dev.pickupQuiet p = true →
    (s.dev.pkS p).rows = [] → s.dev.slSt p = slUnhomed →
    (s.dev.homeBlocker p = none → ∃ d, MakesThenRuns (.homingStart p) s d ∧ d.slSt p = slHoming ∧
      d.homingS p = some {} ∧ (d.servoS p).cap = some {} ∧ d.slP p = s.dev.slP p) ∧
    (∀ c, s.dev.homeBlocker p = some c → ∃ d, MakesThenRuns (.homingStart p) s d ∧ d.slSt p = slUnhomed ∧
      (d.sledS p).homeBlocked = true ∧ d.raised = s.dev.raised ++ [⟨32 * p.val + 20, evHomeFail, [c]⟩])) ∧
  (∀ (s : State) (p : Fin 32) (h : Homing) (frames : List (Nat × Nat)) (place : Int), s.dev.homingS p = some h →
    h.step = .inward ∨ h.step = .fromSwitch → 8 ≤ (chevrons frames).length →
    (∀ c ∈ (chevrons frames).take 8, chevronSeen c = true) →
    place = s.dev.sledOut p + s.dev.stepsOf p (22300000 - chevronRadius (((chevrons frames).take 8).drop 7)) →
    ∃ d, Makes (.homingPatternSeen p frames) s d ∧ d.homingS p = some { h with step := .ramp, first := place } ∧
      (d.sledS p).ramp.isSome = true ∧ (d.sledS p).move = none ∧
      s.dev.OnlyChanges d [] [(.homing, p.val), (.sled, p.val)] []) ∧
  (∀ (s : State) (p : Fin 32) (h : Homing), s.dev.homingS p = some h →
    (h.step = .settleFirst → Makes (.homingSettleEnd p) s (s.dev.setHoming p { h with step := .readFirst })) ∧
    (h.step = .settleSecond → Makes (.homingSettleEnd p) s (s.dev.setHoming p { h with step := .readSecond }))) ∧
  (∀ (s : State) (p : Fin 32) (h : Homing) (frames : List (Nat × Nat)) (radius : Int), s.dev.homingS p = some h →
    h.step = .readFirst → 384 ≤ (chevrons frames).length → radius = chevronRadius ((chevrons frames).take 384) →
    ∃ d m, MakesThenRuns (.homingRadiusRead p frames) s d ∧
      d.homingS p = some { h with r1 := radius, p1 := s.dev.slP p, step := .toSecond } ∧ (d.sledS p).move = some m ∧
      m.target = s.dev.slP p + 262144 ∧ s.dev.OnlyChanges d [] [(.homing, p.val), (.sled, p.val)] []) ∧
  (∀ (s : State) (p : Fin 32) (h : Homing) (frames : List (Nat × Nat)) (radius diff scale origin : Int),
    s.dev.homingS p = some h → h.step = .readSecond → 384 ≤ (chevrons frames).length →
    radius = chevronRadius ((chevrons frames).take 384) → s.dev.seekS p = none → diff = radius - h.r1 → scale = roundDiv (diff * 2 ^ 14) 1000 →
    origin = h.r1 - roundDiv (scale * h.p1 * 1000) (2 ^ 32) → -2147483648 ≤ origin → origin < 2147483648 →
    (593920 ≤ diff → diff ≤ 606208 → ∃ d, MakesThenRuns (.homingRadiusRead p frames) s d ∧
      (d.rd .slScale [p.val] : Int) = scale ∧ d.rdS .slOrigin [p.val] = origin ∧ d.rd .slCoarse [p.val] = 0 ∧
      d.slSt p = slHold ∧ d.homingS p = none ∧ (d.sledS p).homed = true ∧
      d.raised = s.dev.raised ++ [⟨32 * p.val + 20, evSledHomed, 0 :: le 4 scale.toNat ++ leI 4 origin⟩]) ∧
    (diff < 593920 ∨ 606208 < diff → s.dev.slSt p = slHoming →
      ∃ d, MakesThenRuns (.homingRadiusRead p frames) s d ∧ d.slSt p = slUnhomed ∧ d.homingS p = none ∧
        d.raised = s.dev.raised ++ [⟨32 * p.val + 20, evHomeFail, [1]⟩, ⟨32 * p.val + 20, evSledUnhomed, [5]⟩])) ∧
  (∀ (s : State) (p : Fin 32) (h : Homing), s.dev.homingS p = some h → h.step = .inward →
    ∃ d, Makes (.homeNLow p) s d ∧ d.homingS p = some { h with step := .switchRamp, home := some (s.dev.sledOut p) } ∧
      (d.sledS p).ramp.isSome = true ∧ s.dev.OnlyChanges d [] [(.homing, p.val), (.sled, p.val)] []) ∧
  (∀ (s : State) (p : Fin 32) (h : Homing), s.dev.homingS p = some h → h.step = .fromSwitch →
    s.dev.moveEnded p = true → s.dev.seekS p = none →
    ∃ d, MakesThenRuns (.homingSwitchSearchEnd p) s d ∧ d.rd .slCoarse [p.val] = 1 ∧
      d.rd .slScale [p.val] = 9830400 ∧ d.slSt p = slHold ∧ d.homingS p = none) ∧
  (∀ (s : State) (p : Fin 32) (h : Homing), s.dev.homingS p = some h → s.dev.slSt p = slHoming → s.dev.seekS p = none →
    (h.step = .inward → s.dev.moveEnded p = true → ∃ d, MakesThenRuns (.homingTravelEnd p) s d ∧ d.slSt p = slUnhomed ∧
      d.homingS p = none ∧
      d.raised = s.dev.raised ++ [⟨32 * p.val + 20, evHomeFail, [0]⟩, ⟨32 * p.val + 20, evSledUnhomed, [5]⟩]) ∧
    (h.step = .readFirst ∨ h.step = .readSecond → ∃ d, MakesThenRuns (.homingReadTimeout p) s d ∧
      d.slSt p = slUnhomed ∧ d.homingS p = none ∧
      d.raised = s.dev.raised ++ [⟨32 * p.val + 20, evHomeFail, [2]⟩, ⟨32 * p.val + 20, evSledUnhomed, [5]⟩])) ∧
  (∀ (s : State) (p : Fin 32) (coil : Fin 7),
    (coil.val < 4 → (s.dev.axS p coil).tripped = false → ∃ d, MakesThenRuns (.coilOvercurrent p coil) s d ∧
      (d.axS p coil).tripped = true ∧ (d.axS p coil).coil = 0 ∧
      d.raised = s.dev.raised ++ [⟨32 * p.val + (16 + coil.val), evAxisFault, [coil.val]⟩] ∧
      s.dev.OnlyChanges d [] [(.ax, axKey p coil)] [.raised]) ∧
    (4 ≤ coil.val → s.dev.on .slFault [p.val] = false → s.dev.slSt p ≠ slUnhomed → s.dev.homing = [] →
      s.dev.seekS p = none → s.dev.rowNow p = none → s.dev.rowRead p = false → ∃ d, MakesThenRuns (.coilOvercurrent p coil) s d ∧
      d.on .slFault [p.val] = true ∧ d.slSt p = slUnhomed ∧
      d.raised = s.dev.raised ++ [⟨32 * p.val + 20, evSledUnhomed, [1]⟩, ⟨32 * p.val + 20, evSledFault, [coil.val - 4]⟩]))

/-! ### Spindles -/

/-- R189, R193, R194, R196, R198, R576: a spindle that is OFF, enabled, without a fault and with a target starts while
Riraiz runs; the catch decides by the speed found; the start goes to ALIGN, RAMP and RUN; an attempt without OBSLOCK
waits for the next, and the last one fails and posts SPINDLE_START_FAIL; a stopped spindle is OFF, and so is one whose
EN was written 0, from its next PWM period on, with its target kept. That the last failed attempt goes to FAILED at
once, and the direction code, are the model's (log entry 85). It concludes that these answer a next state: spindleStart,
catchEnd, brakeEnd, alignEnd, runEntry, startTimeout, waitEnd, spindleStopped, spindleEnWrite, classWrite. -/
def Obligations.SpindlesStartAndStop : Prop :=
  (∀ (s : State) (n : Fin 16), s.dev.running = true → s.dev.spSt n = spOff → s.dev.on .spEn [n.val] = true → s.dev.rd .spTarget [n.val] ≠ 0 →
    s.dev.on .spFault [n.val] = false →
    ∃ d, Makes (.spindleStart n) s d ∧ d.spSt n = spCatch ∧ (d.spinS n).attempt = 1 ∧ (d.spinS n).gates = false ∧
      d.on .spObslock [n.val] = false ∧
      s.dev.OnlyChanges d [⟨.spState, [n.val]⟩, ⟨.spSource, [n.val]⟩, ⟨.spObslock, [n.val]⟩] [(.spin, n.val)] []) ∧
  (∀ (s : State) (n : Fin 16) (period angle : Nat) (uvw : Bool) (speed : Int), s.dev.spSt n = spCatch →
    (s.dev.spinS n).gates = false → speed = catchSpeed period uvw →
    ∃ d, Makes (.catchEnd n period uvw angle) s d ∧ d.rd .spSpeed [n.val] = toTwos 16 speed ∧ (d.spinS n).caught = speed ∧
      (300 ≤ speed → (d.spinS n).gates = true ∧ d.spSt n = spCatch ∧ (d.spinS n).obsSpeed = speed ∧
        (d.spinS n).obsAngle = angle % 65536) ∧
      (speed ≤ -300 → (d.spinS n).braking = true ∧ d.spSt n = spBrake) ∧
      (-300 < speed → speed < 300 → (d.spinS n).gates = true ∧ d.spSt n = spAlign) ∧
      s.dev.OnlyChanges d [⟨.spState, [n.val]⟩, ⟨.spSource, [n.val]⟩, ⟨.spSpeed, [n.val]⟩] [(.spin, n.val)] []) ∧
  (∀ (s : State) (n : Fin 16), s.dev.spSt n = spBrake → (s.dev.rdS .spSpeed [n.val]).natAbs < 300 →
    ∃ d, Makes (.brakeEnd n) s d ∧ d.spSt n = spAlign ∧ (d.spinS n).gates = true ∧ (d.spinS n).braking = false) ∧
  (∀ (s : State) (n : Fin 16), s.dev.spSt n = spAlign →
    ∃ d, Makes (.alignEnd n) s d ∧ d.spSt n = spRamp ∧ (d.spinS n).ref = 0 ∧
      s.dev.OnlyChanges d [⟨.spState, [n.val]⟩] [(.spin, n.val)] []) ∧
  (∀ (s : State) (n : Fin 16), s.dev.on .spObslock [n.val] = true →
    (s.dev.spSt n = spCatch ∧ (s.dev.spinS n).gates = true) ∨
      (s.dev.spSt n = spRamp ∧ 65536 * (s.dev.rd .spRampEnd [n.val] : Int) ≤ (s.dev.spinS n).ref) →
    ∃ d, Makes (.runEntry n) s d ∧ d.spSt n = spRun ∧ d.rd .spSource [n.val] = 2 ∧ (d.spinS n).outSince = none ∧
      (s.dev.spSt n = spCatch → (d.spinS n).ref = 65536 * s.dev.rdS .spSpeed [n.val]) ∧
      (s.dev.spSt n = spRamp → (d.spinS n).ref = (s.dev.spinS n).ref) ∧
      (2 * n.val, unSpindle) ∉ d.unavailable ∧ (2 * n.val + 1, unSpindle) ∉ d.unavailable) ∧
  (∀ (s : State) (n : Fin 16), s.dev.on .spObslock [n.val] = false →
    s.dev.spSt n = spAlign ∨ s.dev.spSt n = spRamp ∨ (s.dev.spSt n = spCatch ∧ (s.dev.spinS n).gates = true) →
    ∃ d dir, Makes (.startTimeout n) s d ∧ (d.spinS n).gates = false ∧
      ((s.dev.spinS n).attempt < s.dev.attempts n → d.spSt n = spWait ∧ d.raised = s.dev.raised) ∧
      (s.dev.attempts n ≤ (s.dev.spinS n).attempt → d.spSt n = spFailed ∧
        d.raised = s.dev.raised ++ [⟨0x400 + 16 * n.val, evSpindleStartFail,
          le 4 (s.dev.spinS n).attempt ++ leI 2 (s.dev.spinS n).caught ++ [dir]⟩])) ∧
  (∀ (s : State) (n : Fin 16), s.dev.spSt n = spWait →
    ∃ d, Makes (.waitEnd n) s d ∧ d.spSt n = spCatch ∧ (d.spinS n).attempt = (s.dev.spinS n).attempt + 1) ∧
  (∀ (s : State) (n : Fin 16), s.dev.spSt n = spStopping → (s.dev.spinS n).braking = true →
    ∃ d, MakesThenRuns (.spindleStopped n) s d ∧ d.spSt n = spOff ∧ d.rd .spSpeed [n.val] = 0 ∧
      (d.spinS n).gates = false ∧ (d.spinS n).braking = false ∧
      d.raised = s.dev.raised ++ [⟨0x400 + 16 * n.val, evSpindleStopped, []⟩]) ∧
  (∀ (s : State) (n : Fin 16), s.dev.ready = true →
    Makes (.spindleEnWrite n false) s ((s.dev.wr .spEn [n.val] 0).updSpin n fun k => { k with enOff := true }) ∧
    (s.dev.on .spEn [n.val] = true ∨ s.dev.rd .spClass ≠ 0 ∨ s.dev.enabledSpindles < 8 →
      Makes (.spindleEnWrite n true) s (s.dev.wr .spEn [n.val] 1))) ∧
  (∀ (d : Dev) (n : Nat) (x : SpindleIn) (rails : List Nat), (d.spinS n).enOff = true →
    (d.currentSample n x rails).spSt n = spOff ∧ ((d.currentSample n x rails).spinS n).gates = false ∧
      (d.currentSample n x rails).rd .spTarget [n] = d.rd .spTarget [n]) ∧
  (∀ (s : State) (c : Fin 2), s.dev.ready = true → c.val = 1 ∨ s.dev.enabledSpindles ≤ 8 →
    Makes (.classWrite c) s (s.dev.wr .spClass [] c.val))

/-- R177, R179, R180, R183, R187, R192, R195, R201, R394: what a spindle reports while it runs: OBSLOCK set and cleared,
the learned offset, a mismatch of the media angle, the speed reached or its ceiling, the loss of a command pin, a gate
fault, and surfaces that a spindle out of RUN makes unavailable. It concludes that these answer a next state:
obslockSet, obslockClear, spindleAtSpeed, speedCeiling, offsetLearned, angleMismatch, cmdsrcWrite, pinCmdLost,
gateFault, replaceTimeout. -/
def Obligations.SpindlesReportWhatTheyFind : Prop :=
  (∀ (s : State) (n : Fin 16), 64 ≤ (s.dev.spinS n).obsGood →
    Makes (.obslockSet n) s (s.dev.wr .spObslock [n.val] 1)) ∧
  (∀ (s : State) (n : Fin 16), s.dev.on .spObslock [n.val] = true →
    16 ≤ (s.dev.spinS n).obsBad ∨ (s.dev.spinS n).obsSpeed.natAbs < 200 →
    Makes (.obslockClear n) s
      (if 3 ≤ s.dev.rd .spSource [n.val] then
        (s.dev.wr .spObslock [n.val] 0).raise (0x400 + 16 * n.val + 1) evObserverLoss
          (leI 2 (s.dev.rdS .spSpeed [n.val]) ++ [s.dev.rd .spSource [n.val]])
      else s.dev.wr .spObslock [n.val] 0)) ∧
  (∀ (s : State) (n : Fin 16) (side : Fin 2) (v : Nat), (s.dev.spinS n).learnOwed.getD side.val false = true →
    256 ≤ ((s.dev.spinS n).learn.getD side []).length → v = circularMean ((s.dev.spinS n).learn.getD side []) →
    ∃ d, Makes (.offsetLearned n side) s d ∧ d.on .spLearned [n.val, side.val] = true ∧
      d.rd .spOffset [n.val, side.val] = v % 2 ^ 16 ∧ (d.spinS n).trying = true ∧ (d.spinS n).learnOwed.getD side.val false = false ∧
      d.raised = s.dev.raised ++ [⟨0x400 + 16 * n.val + 1, evOffsetLearned, side.val :: le 2 v⟩] ∧
      s.dev.OnlyChanges d [⟨.spOffset, [n.val, side.val]⟩, ⟨.spLearned, [n.val, side.val]⟩] [(.spin, n.val)] [.raised]) ∧
  (∀ (s : State) (n : Fin 16) (side a : Nat), (s.dev.spinS n).media = some (side, a) → s.dev.rd .spAnglesrc [n.val] = 0 →
    s.dev.rd .spSource [n.val] = 2 → (s.dev.spinS n).trying = true → (s.dev.spinS n).mismatchPosted = false →
    ∃ d, Makes (.angleMismatch n) s d ∧ (d.spinS n).trying = false ∧
      d.raised = s.dev.raised ++
        [⟨0x400 + 16 * n.val + 1, evAngleMismatch, side :: leI 4 (angleDiff a (s.dev.spinS n).obsAngle)⟩] ∧
      s.dev.OnlyChanges d [] [(.spin, n.val)] [.raised]) ∧
  (∀ (s : State) (n : Fin 16) (t v : Int), t = s.dev.rd .spTarget [n.val] → v = s.dev.rdS .spSpeed [n.val] →
    s.dev.spSt n = spRun → s.dev.on .spAtspeed [n.val] = false → t ≠ 0 → -t ≤ 200 * (v - t) → 200 * (v - t) ≤ t →
    Makes (.spindleAtSpeed n) s
      ((s.dev.wr .spAtspeed [n.val] 1).raise (0x400 + 16 * n.val) evSpindleAtSpeed (leI 2 v))) ∧
  (∀ (s : State) (n : Fin 16) (t v : Int), t = s.dev.rd .spTarget [n.val] → v = s.dev.rdS .spSpeed [n.val] →
    s.dev.spSt n = spRun → s.dev.on .spVlimit [n.val] = true → (s.dev.spinS n).ceilingPosted = false →
    200 * (v - t) < -t ∨ t < 200 * (v - t) →
    ∃ d, Makes (.speedCeiling n) s d ∧ (d.spinS n).ceilingPosted = true ∧ d.on .spAtspeed [n.val] = true ∧
      d.raised = s.dev.raised ++
        ⟨0x400 + 16 * n.val + 3, evSpeedCeiling, leI 2 v ++ le 2 (s.dev.rd .spVbus [n.val])⟩ ::
          (if s.dev.on .spAtspeed [n.val] then [] else [⟨0x400 + 16 * n.val, evSpindleAtSpeed, leI 2 v⟩])) ∧
  (∀ (s : State) (n : Fin 16) (src : Fin 4), s.dev.ready = true →
    Makes (.cmdsrcWrite n src) s (s.dev.updSpin n fun k => { k with cmdsrcPending := some src.val })) ∧
  (∀ (s : State) (n : Fin 16), 2 ≤ s.dev.rd .spCmdsrc [n.val] → (s.dev.spinS n).pinLost = false →
    s.dev.spSt n = spOff →
    ∃ d, Makes (.pinCmdLost n) s d ∧ d.rd .spPinValue [n.val] = 0 ∧ d.rd .spTarget [n.val] = 0 ∧
      (d.spinS n).pinLost = true ∧
      d.raised = s.dev.raised ++ [⟨0x400 + 16 * n.val + 3, evPinCmdLost, [s.dev.rd .spCmdsrc [n.val]]⟩]) ∧
  (∀ (s : State) (n : Fin 16) (phase : Fin 3) (current : Nat), s.dev.rd .spOcLimit [n.val] < current →
    (s.dev.pkS (2 * n.val)).rows = [] → (s.dev.pkS (2 * n.val + 1)).rows = [] →
    ∃ d, Makes (.gateFault n phase current) s d ∧ d.on .spFault [n.val] = true ∧ d.spSt n = spOff ∧
      (d.spinS n).gates = false ∧
      d.raised = s.dev.raised ++ [⟨0x400 + 16 * n.val + 2, evGateFault, phase.val :: le 4 current⟩]) ∧
  (∀ (s : State) (n : Fin 16) (phase : Fin 3) (current : Nat), current ≤ s.dev.rd .spOcLimit [n.val] →
    Makes (.gateFault n phase current) s s.dev) ∧
  (∀ (s : State) (n : Fin 16), s.dev.spSt n ≠ spRun → (s.dev.spinS n).replaced = false →
    (s.dev.spinS n).outSince.isSome = true → (s.dev.pkS (2 * n.val)).queues.flatten = [] →
    (s.dev.pkS (2 * n.val + 1)).queues.flatten = [] →
    ∃ d, MakesThenRuns (.replaceTimeout n) s d ∧ (d.spinS n).replaced = true ∧
      (2 * n.val, unSpindle) ∈ d.unavailable ∧ (2 * n.val + 1, unSpindle) ∈ d.unavailable ∧
      s.dev.OnlyChanges d [] [(.spin, n.val)] [.unavailable])

/-! ### Power, resets and boot -/

/-- R14, R23, R515, R516, R517, R528, R529, R530, R549, R557: power-on reset clears the device and holds device time at
0 until it ends, which needs its converters; a row being written sees WSTB go low; PERST_n, GLOBAL.RESET and EXTEST
clear what Table 17-5 marks, the basin and the event logic, and keep device time and the sensors' readings; VCORE is
settled after a reset only where it stood at the reset level of 700 mV; a reset that is over starts the boot; a
function-level reset leaves the basin. It concludes that these answer a next state: powerOnResetEnd, vinBrownout,
converterOutOfRegulation, vinRise, perstNAssert, perstNRelease, globalReset, functionLevelReset, extestLoad,
testLogicReset. -/
def Obligations.ResetsClearTheDevice : Prop :=
  (∀ (s : State) (v : Bool), s.dev.pins.por = true → s.dev.pins.converters = true → s.dev.raised = [] →
    ∃ t, exec (.powerOnResetEnd v) s = .next t ∧ t.dev.time = 0 ∧ t.dev.pins.por = false ∧ t.dev.pins.pwrOk = true ∧
      t.dev.pins.spiVselHigh = v ∧ t.mem = [] ∧
      (s.dev.pins.perstLow = true ∨ s.dev.boot.headers = [] → t.ev = [] ∧ s.dev.OnlyChanges t.dev [] [] [.time, .pins]) ∧
      (s.dev.pins.perstLow = false → s.dev.boot.headers ≠ [] →
        t.dev.rd .glBoot = bootLoading ∨ t.dev.rd .glBoot = bootRecovery)) ∧
  (∀ (s : State) (i : Instr), i = .vinBrownout ∨ i = .converterOutOfRegulation →
    ∃ t, exec i s = .next t ∧ t.dev.pins.por = true ∧ t.dev.pins.pwrOk = false ∧ t.dev.regs = [] ∧ t.dev.cmds = [] ∧
      t.dev.time = 0 ∧ t.mem = [] ∧ t.ev = [] ∧
      (∀ e ∈ s.dev.pk, e.2.rows.any RowWrite.started = true → .wstbLow e.1 ∈ t.dev.out) ∧
      t.dev.pins.converters = (s.dev.pins.converters && decide (i ≠ .vinBrownout))) ∧
  (∀ s : State, s.dev.pins.por = true → Makes .vinRise s (s.dev.updPins fun p => { p with converters := true })) ∧
  (∀ s : State, s.dev.pins.por = false →
    ∃ t, exec .perstNAssert s = .next t ∧ t.dev.pins.perstLow = true ∧ t.dev.time = s.dev.time ∧ t.mem = [] ∧ t.ev = [] ∧
      t.dev.cmds = [] ∧ (∀ r ix, r ∈ keptRows → t.dev.rd r ix = s.dev.rd r ix) ∧
      (∀ r ix, r ∉ keptRows → r ≠ .glVcoreSettled → t.dev.rd r ix = Fld.reset ⟨r, ix⟩) ∧
      (t.dev.on .glVcoreSettled = true ↔ s.dev.on .glVcoreSettled = true ∧ s.dev.boot.vcore = 700) ∧
      (∀ e ∈ s.dev.pk, e.2.rows.any RowWrite.started = true → .wstbLow e.1 ∈ t.dev.out)) ∧
  (∀ (s : State) (a b : Bytes), s.dev.pins.perstLow = true → s.dev.pins.extest = false →
    (s.dev.pins.por = false → Makes (.perstNRelease a b) s
      ((s.dev.updPins fun p => { p with perstLow := false }).bootStart .perst a b)) ∧
    (s.dev.pins.por = true → ∃ d, Makes (.perstNRelease a b) s d ∧ d.pins.perstLow = false ∧
      d.boot.headers = [(0, { bytes := a }), (1, { bytes := b })] ∧ s.dev.OnlyChanges d [] [] [.pins, .boot])) ∧
  (∀ (s : State) (a b : Bytes), s.dev.ready = true →
    ∃ t, exec (.globalReset a b) s = .next t ∧ t.dev.time = s.dev.time ∧ t.mem = [] ∧ t.dev.cmds = [] ∧
      (t.dev.rd .glBoot = bootLoading ∨ t.dev.rd .glBoot = bootRecovery) ∧
      (∀ r, t.dev.on .sqEn [r] = false) ∧ (∀ p, t.dev.rd .pkLaserMask [p] = 0)) ∧
  (∀ (s : State) (a b : Bytes), s.dev.ready = false → exec (.globalReset a b) s = .next s) ∧
  (∀ s : State, s.dev.ready = true →
    ∃ d : Dev, exec .functionLevelReset s = .next (({ s with ev := [] } : State).commit (d.settleDeck s.mem)) ∧
      d.sq = [] ∧ d.cq = [] ∧ d.eq = [] ∧ d.msix = [] ∧ d.msixPending = [] ∧ d.pcie = {} ∧ d.raised = [] ∧
      (∀ r ix, r ∈ hostRows → d.rd r ix = Fld.reset ⟨r, ix⟩) ∧ (∀ c ∈ d.cmds, ∀ r q, c.origin ≠ .ring r q)) ∧
  (∀ s : State, s.dev.pins.por = false →
    ∃ t, exec .extestLoad s = .next t ∧ t.dev.pins.extest = true ∧ t.dev.time = s.dev.time ∧ t.mem = [] ∧ t.ev = [] ∧
      t.dev.cmds = [] ∧ (∀ r ix, r ∉ keptRows → r ≠ .glVcoreSettled → t.dev.rd r ix = Fld.reset ⟨r, ix⟩)) ∧
  (∀ (s : State) (a b : Bytes), s.dev.pins.extest = true → s.dev.pins.perstLow = false →
    ∃ t, exec (.testLogicReset a b) s = .next t ∧ t.dev.pins.extest = false ∧ t.mem = [] ∧ t.dev.cmds = [] ∧
      (t.dev.rd .glBoot = bootLoading ∨ t.dev.rd .glBoot = bootRecovery))

/-- R16, R23, R31, R41, R520 to R524: the boot takes the valid slot of the higher SEQUENCE, slot 0 of equals, the other
one when its body fails, and RECOVERY when neither is left; device time is read through its latch, VCORE settles, the
counters are copied at one instant, and the pace is the lowest count of the six dice. The cause numbers of
BOOT_SLOT_FAIL are the model's reading (log entry 32). It concludes that these answer a next state: timeLoRead,
vcoreLevelWrite, vcoreSettled, snapTake, snapDone, paceUpdate, bootSlotHashed. -/
def Obligations.BootTimeAndSnapshots : Prop :=
  (∀ (d : Dev) (k : ResetKind) (a b : Bytes) (ca cb : Nat), ca = headerCheck d.custkey a → cb = headerCheck d.custkey b →
    (ca = 0 → cb ≠ 0 ∨ headerSeq b ≤ headerSeq a → (d.bootStart k a b).boot.hashing = some 0 ∧
      (d.bootStart k a b).rd .glBoot = bootLoading) ∧
    (cb = 0 → ca ≠ 0 ∨ headerSeq a < headerSeq b → (d.bootStart k a b).boot.hashing = some 1 ∧
      (d.bootStart k a b).rd .glBoot = bootLoading) ∧
    (ca ≠ 0 → cb ≠ 0 → (d.bootStart k a b).boot.hashing = none ∧ (d.bootStart k a b).rd .glBoot = bootRecovery ∧
      (d.bootStart k a b).raised = d.raised ++ [⟨0x7C0, evBootSlotFail, [0, ca - 1]⟩, ⟨0x7C0, evBootSlotFail, [1, cb - 1]⟩,
        ⟨0x7C0, evBootRecovery, [ca - 1, cb - 1]⟩])) ∧
  (∀ (s : State) (slot : Nat) (body : Bytes) (answers : List PickupAnswer) (h : Bytes), s.dev.boot.hashing = some slot →
    slot ≤ 1 → h = s.dev.header slot →
    (bodyOk h body = true → ∃ d, Makes (.bootSlotHashed body answers) s d ∧ d.rd .glBoot = bootRunning ∧
      d.rd .scSlot = slot ∧ d.rd .scSequence = headerSeq h % 2 ^ 32 ∧ d.on .ccEn = true ∧ d.on .ccCleared = true ∧
      (∀ p, p < 32 → (d.on .pkPresent [p] = true ↔ ∃ e, answers.find? (fun e => e.pickup == p) = some e ∧ e.contract = 1 ∧
        e.resent.getD 0 0 ≤ 3)) ∧
      d.basin.trainStart = some s.dev.time ∧
      (∃ more, d.raised = s.dev.raised ++ more ++ [⟨0x7C0, evBootDone, [slot, headerKey h] ++ le 4 (headerSeq h)⟩] ∧
        ((∀ p, p < 32 → ∃ e, answers.find? (fun e => e.pickup == p) = some e ∧ ∀ n ∈ e.resent, n ≤ 3) → more = []) ∧
        ∀ p, p < 32 → answers.find? (fun e => e.pickup == p) = none → ∃ e ∈ more, e.src = 32 * p + 23 ∧ e.code = evPickupBusFail)) ∧
    (bodyOk h body = false → s.dev.rd .scSlotStatus [1 - slot] = 5 →
      headerCheck s.dev.custkey (s.dev.header (1 - slot)) = 0 → ∃ d, Makes (.bootSlotHashed body answers) s d ∧
      d.boot.hashing = some (1 - slot) ∧ d.rd .scSlotStatus [slot] = 4 ∧
      d.raised = s.dev.raised ++ [⟨0x7C0, evBootSlotFail, [slot, 3]⟩]) ∧
    (bodyOk h body = false → s.dev.rd .scSlotStatus [1 - slot] ≠ 5 → ∃ d, Makes (.bootSlotHashed body answers) s d ∧
      d.rd .glBoot = bootRecovery)) ∧
  (∀ s : State, s.dev.ready = true →
    ∃ d, Makes .timeLoRead s d ∧ d.out = s.dev.out ++ [.barRead (le 4 s.dev.time) false] ∧
      d.rd .glTimeHi = s.dev.time / 2 ^ 32 % 2 ^ 32 ∧ s.dev.OnlyChanges d [⟨.glTimeHi, []⟩] [] [.out]) ∧
  (∀ s : State, s.dev.ready = false → Makes .timeLoRead s (s.dev.emit (.barRead [0, 0, 0, 0] false))) ∧
  (∀ (s : State) (level : Fin 256), s.dev.ready = true →
    Makes (.vcoreLevelWrite level) s ((s.dev.wr .glVcoreLevel [] level).wr .glVcoreSettled [] 0)) ∧
  (∀ (s : State) (v : Nat), s.dev.pins.por = false → s.dev.on .glVcoreSettled = false →
    v = 600 + 5 * min (s.dev.rd .glVcoreLevel) 50 →
    (s.dev.vcoreNeeded ≤ v → ∃ d, Makes .vcoreSettled s d ∧ d.on .glVcoreSettled = true ∧ d.boot.vcore = v) ∧
    (v < s.dev.vcoreNeeded → exec .vcoreSettled s = .fault .vcoreTooLow)) ∧
  (∀ s : State, s.dev.ready = true →
    ∃ t, exec .snapTake s = .next t ∧ t.ev = s.ev.map (fun e => (e.1, e.2.snap)) ∧ t.dev.on .glSnapDone = false ∧
      t.dev.boot.snapBusy = true ∧
      (∀ r, r < 256 → t.dev.rd .sqSnapConsumed [r] % 2 ^ 32 = s.dev.rd .sqConsumed [r] % 2 ^ 32 ∧
        t.dev.rd .sqSnapCompleted [r] % 2 ^ 32 = s.dev.rd .sqCompleted [r] % 2 ^ 32 ∧
        t.dev.rd .sqSnapAborted [r] % 2 ^ 32 = s.dev.rd .sqAborted [r] % 2 ^ 32 ∧
        t.dev.rd .sqSnapInflight [r] % 2 ^ 32 = s.dev.rd .sqInflight [r] % 2 ^ 32) ∧
      t.dev.rd .bsSnapFree % 2 ^ 21 = s.dev.rd .bsUnitsFree % 2 ^ 21 ∧
      t.dev.rd .bsSnapReserved % 2 ^ 21 = s.dev.rd .bsUnitsReserved % 2 ^ 21 ∧
      t.dev.rd .bsSnapHeld % 2 ^ 21 = s.dev.rd .bsUnitsHeld % 2 ^ 21) ∧
  (∀ s : State, s.dev.boot.snapBusy = true →
    ∃ d, Makes .snapDone s d ∧ d.on .glSnapDone = true ∧ d.boot.snapBusy = false ∧
      s.dev.OnlyChanges d [⟨.glSnapDone, []⟩] [] [.boot]) ∧
  (∀ (s : State) (counts : List Nat), s.dev.pins.por = false → counts.length = 6 →
    ∃ d, Makes (.paceUpdate counts) s d ∧ (∀ i, i < 6 → d.rd .glPaceDie [i] = counts.getD i 0 % 65536) ∧
      (∀ i, i < 6 → d.rd .glPace ≤ counts.getD i 0 % 65536) ∧ (∃ i, i < 6 ∧ d.rd .glPace = counts.getD i 0 % 65536) ∧
      (∀ r ix, r ≠ .glPace → r ≠ .glPaceDie → d.rd r ix = s.dev.rd r ix) ∧ d.out = s.dev.out)

/-! ### Registers -/

/-- R6, R7, R308, R309, R528, R536, R537, R540, R541, R542: a write of BAR0 stores every plain field of its word and
touches nothing else; an offset that no table allocates, and read-only fields, take no write; a write of 1 clears a
flag; the low word of a pair takes effect with its high word; unmasking a vector of the MSI-X table sends the message it
kept pending. A read of a write-only field gives 0, of a read-channel field what was last written, also before the next
block takes it; bits that no field covers read 0, and until BAR0 works so does everything but GLOBAL.STATUS.BOOT. It
concludes that these answer a next state: registerWrite. -/
def Obligations.RegisterWritesStoreTheirFields : Prop :=
  (∀ (s : State) (a v : Nat), s.dev.ready = true → a % 4 = 0 → a < 2 ^ 23 → v < 2 ^ 32 → inMsix a = false →
    s.dev.writeFault (fieldsAt a) v = none → (∀ f ∈ fieldsAt a, f.plain = true) → (fieldsAt a).Nodup →
    ∃ d, MakesThenRuns (.registerWrite a v) s d ∧ (∀ f ∈ fieldsAt a, regGet d.regs f = f.bits v) ∧
      s.dev.OnlyChanges d (fieldsAt a) [] []) ∧
  (∀ (s : State) (a v : Nat), s.dev.ready = true → a % 4 = 0 → a < 2 ^ 23 → v < 2 ^ 32 → inMsix a = false →
    (∀ f ∈ fieldsAt a, f.row.spec.access = .ro ∧ f.row ≠ .calSel) → MakesThenRuns (.registerWrite a v) s s.dev) ∧
  (∀ (s : State) (a v : Nat), s.dev.ready = true → a % 4 = 0 → v < 2 ^ 32 → inMsix a = true →
    (s.dev.msixPending.contains ((a - 0x180000) / 16) = false →
      Makes (.registerWrite a v) s { s.dev with msix := tset s.dev.msix a v }) ∧
    ((a - 0x180000) / 16 ∈ s.dev.msixPending → a % 16 = 12 → v.testBit 0 = false →
      ∃ d, Makes (.registerWrite a v) s d ∧ d.out = s.dev.out ++ [s.dev.msixMsg ((a - 0x180000) / 16)] ∧
        (a - 0x180000) / 16 ∉ d.msixPending ∧ s.dev.OnlyChanges d [] [] [.msix, .out])) ∧
  (∀ (s : State) (a v : Nat), s.dev.ready = false → exec (.registerWrite a v) s = .next s) ∧
  (∀ (s : State) (a v : Nat), s.dev.ready = true → a % 4 ≠ 0 ∨ 2 ^ 23 ≤ a → exec (.registerWrite a v) s = .fault .bar0Access) ∧
  (∀ (d : Dev) (f : Fld), f.row.spec.own = false → f.row.spec.access = .w1c →
    d.writeField f 0 = d ∧ d.writeField f 1 = d.wr f.row f.ix 0) ∧
  (∀ (d : Dev) (r hi : Row) (ix : List Nat) (x y : Nat), pairHi r = some hi → r.spec.own = false → hi.spec.own = false →
    r.spec.access = .rw → hi.spec.access = .rw → pairHi hi = none → pairLo hi = some r → r ≠ hi →
    (d.writeField ⟨r, ix⟩ x).regs = d.regs ∧
    ((d.writeField ⟨r, ix⟩ x).writeField ⟨hi, ix⟩ y).rd r ix = x % 2 ^ r.spec.width ∧
    ((d.writeField ⟨r, ix⟩ x).writeField ⟨hi, ix⟩ y).rd hi ix = y % 2 ^ hi.spec.width) ∧
  (∀ (d : Dev) (ev : Tab Src) (f : Fld), f.row.spec.access = .wo ∨ f.row.spec.access = .w1p → d.readField ev f = 0) ∧
  (∀ (d : Dev) (ev : Tab Src) (f : Fld) (v : Nat), isRc f.row = true → f.row.spec.access = .rw → f.row.spec.own = false →
    lastWrite d.measureHeld f = none → lastWrite d.deferredWrites f = none →
    (d.writeField f v).readField ev f = v % 2 ^ f.row.spec.width ∧ (d.writeField f v).regs = d.regs) ∧
  (∀ (d : Dev) (ev : Tab Src) (a bit : Nat), d.ready = true → inMsix a = false → inPba a = false →
    (fieldsAt a).Pairwise (fun f g => f.lsb + f.row.spec.width ≤ g.lsb ∨ g.lsb + g.row.spec.width ≤ f.lsb) →
    (∀ f ∈ fieldsAt a, bit < f.lsb ∨ f.lsb + f.row.spec.width ≤ bit) → (d.readWord ev a).testBit bit = false) ∧
  (∀ (d : Dev) (ev : Tab Src) (a : Nat), d.ready = false → d.pcie.d3hot = true ∨ (∀ f ∈ fieldsAt a, f.row ≠ .glBoot) →
    d.readWord ev a = 0) ∧
  (∀ (d : Dev) (ev : Tab Src), d.ready = false → d.pcie.d3hot = false → d.readWord ev 0 = d.rd .glBoot % 4)

/-- Table 20-2 and R543: a command answers a fault only of the cases that the spec leaves undefined for it; every other
command always answers a next state. -/
def Obligations.FaultsOnlyFromMisuse : Prop :=
  ∀ (i : Instr) (s : State) (f : Fault), exec i s = .fault f → f ∈ i.misuses

/-! ### Recording -/

/-- R250, R251, R254, R256, R260, R263, R271, R273, R295, R70: a row is allocated at the next position of its kind, for
the blocks at the heads of the lane queues, and counted; new powers or a new corrector setting are sent before it, and
rows are passed over, or a fixed row waits, until they have settled; it starts when its conditions hold and is abandoned
with the cause when one fails; its last bit counts it as written and makes its verify reports due. It concludes that
these answer a next state: rowAllocate, rowStart, rowWritten, fetchDeadline. -/
def Obligations.RowsGoFromAllocationToVerify : Prop :=
  (∀ (s : State) (p : Fin 32) (L : Fin 4) (time next k r : Nat) (changed : Bool) (lanes : List (Nat × Nat)),
    s.dev.writeLayer p = some L.val → s.dev.mayAllocate p L = true → s.dev.opcDrift p L = false →
    next = s.dev.rd .rowNext [p.val, L.val] →
    ((s.dev.pkS p).rows = [] ∨ ∃ c, (s.dev.pkS p).rows = [c] ∧ c.started = true ∧ c.layer = L.val ∧ c.row + 1 = next) →
    changed = s.dev.needsValues p L (zoneOf (rowBand next)) →
    k = (if changed || ((s.dev.pkS p).rows.isEmpty && !s.dev.settled p) then s.dev.passedOver p next time changed else 0) →
    r = next + k → r < 98400 → s.dev.setValid p L r = true → lanes = s.dev.rowLanes p → lanes ≠ [] →
    ∃ d rw, MakesThenRuns (.rowAllocate p L 0 time) s d ∧ (d.pkS p).rows = (s.dev.pkS p).rows ++ [rw] ∧
      rw.layer = L.val ∧ rw.row = r ∧ rw.kind = .user ∧ rw.lanes = lanes ∧ rw.started = false ∧
      rw.time = (if (s.dev.pkS p).rows = [] then time + k * s.dev.rowTime p next else time) ∧
      rw.zone = zoneOf (rowBand r) ∧ rw.set = s.dev.setOf p L rw.zone ∧
      rw.newValues = changed ∧
      d.rd .rowNext [p.val, L.val] = r + 1 ∧
      d.rd .rowAlloc [p.val] = (s.dev.rd .rowAlloc [p.val] + 1) % 2 ^ 32 ∧
      d.rd .rowInprog [p.val] = (s.dev.rd .rowInprog [p.val] + 1) % 2 ^ 32) ∧
  (∀ (s : State) (p : Fin 32) (L : Fin 4) (time f : Nat), s.dev.mayAllocate p L = true → s.dev.opcDrift p L = false →
    (s.dev.pkS p).rows = [] → f / 2 ^ 17 = L.val →
    (((s.dev.heads p Blk.waitsForRow).filterMap fun e => (s.dev.blk? e.2).bind Blk.fixed).find? fun f =>
      f / 2 ^ 17 == L.val) = some f → s.dev.setValid p L (f % 2 ^ 17) = true →
    (∀ k, s.dev.laneTaken p L (f % 2 ^ 17) k = false) →
    (s.dev.needsValues p L (zoneOf (rowBand (f % 2 ^ 17))) = false → (s.dev.pkS p).settling = none →
      ∃ d rw, MakesThenRuns (.rowAllocate p L 1 time) s d ∧ (d.pkS p).rows = [rw] ∧ rw.layer = L.val ∧
        rw.row = f % 2 ^ 17 ∧ rw.kind = .fixed ∧ rw.time = time ∧
        rw.lanes = s.dev.heads p (fun b => b.waitsForRow && b.fixed == some f) ∧
        d.rd .rowAlloc [p.val] = (s.dev.rd .rowAlloc [p.val] + 1) % 2 ^ 32) ∧
    (s.dev.needsValues p L (zoneOf (rowBand (f % 2 ^ 17))) = true →
      ∃ d, MakesThenRuns (.rowAllocate p L 1 time) s d ∧ (d.pkS p).rows = [] ∧ (d.pkS p).pendingFrames = [] ∧
        (d.pkS p).settling = some (s.dev.time, s.dev.saPending p || ((s.dev.pkS p).settling.map Prod.snd).getD false))) ∧
  (∀ (s : State) (p : Fin 32) (L : Fin 4) (time X : Nat), 7 ≤ ((tget ({} : Realloc) (s.dev.pkS p).realloc L).queue.filter fun b => !s.dev.unitsWait (.copy b)).length →
    (∀ i, i < 7 → s.dev.on .wrLaneDis [p.val, i] = false) → s.dev.spareLayer p L = some X →
    s.dev.mayAllocate p X = true → s.dev.opcDrift p X = false → (s.dev.pkS p).rows = [] →
    s.dev.setValid p X (s.dev.rd .rowSpareNext [p.val, X]) = true →
    s.dev.needsValues p X (zoneOf (rowBand (s.dev.rd .rowSpareNext [p.val, X]))) = false → (s.dev.pkS p).settling = none →
    ∃ d rw, MakesThenRuns (.rowAllocate p L 2 time) s d ∧ (d.pkS p).rows = [rw] ∧ rw.layer = X ∧
      rw.row = s.dev.rd .rowSpareNext [p.val, X] ∧ rw.kind = .spare ∧
      d.rd .rowSpareNext [p.val, X] = s.dev.rd .rowSpareNext [p.val, X] + 1) ∧
  (∀ (s : State) (p : Fin 32) (L : Fin 4) (time : Nat) (w : CatRow), s.dev.cat.writing = some w →
    s.dev.cat.copies.contains p.val = true → s.dev.mayAllocate p (catPosition w.index).1 = true →
    s.dev.opcDrift p (catPosition w.index).1 = false → (s.dev.pkS p).rows = [] →
    s.dev.setValid p (catPosition w.index).1 (catPosition w.index).2 = true →
    s.dev.needsValues p (catPosition w.index).1 (zoneOf (rowBand (catPosition w.index).2)) = false →
    (s.dev.pkS p).settling = none → (∀ b ∈ s.dev.blks, b.kind = .catalogue → b.surface ≠ p.val) →
    (∃ x ∈ w.waits, x.1 = p.val ∧ s.dev.on .wrLaneDis [p.val, x.2 - 1] = false) →
    ∃ d rw, MakesThenRuns (.rowAllocate p L 3 time) s d ∧ (d.pkS p).rows = [rw] ∧
      (rw.layer, rw.row) = catPosition w.index ∧ rw.kind = .catalogue) ∧
  (∀ (s : State) (p : Fin 32) (rw : RowWrite), (s.dev.pkS p).rows = [rw] → rw.started = false →
    (s.dev.startCause p = none → ∃ d, Makes (.rowStart p) s d ∧
      (d.pkS p).rows = [{ rw with started := true }] ∧
      d.out = s.dev.out ++ rw.lanes.filterMap (d.laneOut p rw) ∧
      s.dev.OnlyChanges d ((s.dev.pkS p).rcPending.map RcWrite.fld ++ (List.range 16).map fun i => ⟨.rcDeskew, [p.val, i]⟩)
        ((.pk, p.val) :: (List.range 16).map fun i => (.spot, 16 * p.val + i)) [.out]) ∧
    (∀ c, s.dev.startCause p = some c → Makes (.rowStart p) s (s.dev.abandon p rw c)) ∧
    Makes (.fetchDeadline p) s (s.dev.abandon p rw abFetch)) ∧
  (∀ (s : State) (p : Fin 32) (rw : RowWrite), (s.dev.pkS p).rows = [rw] → rw.started = true →
    ∃ d, Makes (.rowWritten p) s d ∧ (d.pkS p).rows = [] ∧
      (d.pkS p).verify = (s.dev.pkS p).verify ++ (rw.lanes.map fun e => ({ lane := e.1, block := e.2, pba := pbaOf p rw.layer e.1 rw.row, ended := s.dev.time } : VerifyDue)) ∧
      d.rd .rowWritten [p.val] = (s.dev.rd .rowWritten [p.val] + 1) % 2 ^ 32 ∧
      d.rd .rowInprog [p.val] = (s.dev.rd .rowInprog [p.val] - 1) % 2 ^ 32)

/-- R240, R242, R264, R265, R270, R271, R275 to R278, R295: a mordant check counts, shows and judges its block, and a
block that failed leaves its position dead; an OPC runs from its request over the test bands, whose sectors it writes,
to the powers of every zone; a copy that has waited REALLOC_WAIT is due. It concludes that these answer a next state:
mordantCheck, opcStart, opcReq, opcBandDone, reallocWaitExpiry. -/
def Obligations.ChecksAndPowerCalibrations : Prop :=
  (∀ (s : State) (p : Fin 32) (lane : Fin 7) (runs : List SpotRun) (e : VerifyDue) (x : Decoded) (cause : Nat),
    ((s.dev.pkS p).verify.find? fun v => v.lane == lane.val + 1) = some e →
    x = (((s.dev.asBegun e.old).verifyStart p (lane.val + 1) e runs).verifyDecode p (lane.val + 1) e runs).1 →
    cause = s.dev.mordantCause x.outcome x.maxCw x.total x.fly →
    ∃ d, MakesThenRuns (.mordantCheck p lane runs) s d ∧
      d.rd .mordChecked [p.val, lane.val] = (s.dev.rd .mordChecked [p.val, lane.val] + 1) % 2 ^ 32 ∧
      d.rd .mordLastCause [p.val, lane.val] = cause % 2 ^ Row.mordLastCause.spec.width ∧
      d.rd .mordLastMaxCw [p.val, lane.val] = x.maxCw % 2 ^ Row.mordLastMaxCw.spec.width ∧
      d.rd .mordLastTotal [p.val, lane.val] = x.total % 2 ^ Row.mordLastTotal.spec.width ∧
      d.rd .mordLastFly [p.val, lane.val] = x.fly % 2 ^ Row.mordLastFly.spec.width ∧
      (cause = 0 → d.rd .mordFailed [p.val, lane.val] = s.dev.rd .mordFailed [p.val, lane.val]) ∧
      (cause ≠ 0 → d.rd .mordFailed [p.val, lane.val] = (s.dev.rd .mordFailed [p.val, lane.val] + 1) % 2 ^ 32) ∧
      (e.lost = true → cause = 1) ∧ (d.pkS p).verify = (s.dev.pkS p).verify.erase e ∧
      (∀ b, s.dev.blk? e.block = some b → (cause ≠ 0 → (d.pkS p).deadAll = (s.dev.pkS p).deadAll ++ [e.pba]) ∧
        (cause = 0 → d.blk? b.id = none))) ∧
  (∀ (s : State) (p : Fin 32) (L : Fin 4) (band : Nat), (s.dev.opcS p L).pending = true → (s.dev.pkS p).rows = [] →
    (∀ e ∈ (s.dev.pkS p).opc, e.2.running = false) → s.dev.surfaceOk p = true → s.dev.pickupTaken p = false →
    (∀ c ∈ s.dev.cmds, c.homing.contains p.val = false) → s.dev.on .pkFail [p.val] = false → (s.dev.pkS p).busOk = true →
    s.dev.spSt (spindleOf p) = spRun → s.dev.testBand p L false = some band →
    ∃ d, MakesThenRuns (.opcStart p L) s d ∧ (d.opcS p L).running = true ∧ (d.opcS p L).pending = false ∧
      (d.opcS p L).begun = s.dev.mayTest p ∧ d.rd .opcStatus [p.val, L.val] = 1 ∧ d.testBand p L false = some band ∧
      s.dev.OnlyChanges d [⟨.opcStatus, [p.val, L.val]⟩] [(.pk, p.val)] []) ∧
  (∀ (s : State) (p : Fin 32), s.dev.ready = true →
    ∃ d, Makes (.opcReq p) s d ∧
      (∀ L, L < 4 → (s.dev.opcS p L).running = false → (d.opcS p L).pending = true) ∧
      (∀ L z, L < 4 → z < 8 → d.rd .wsValid [p, L, z] = 0) ∧
      (∀ r ix, r ≠ .wsValid → d.rd r ix = s.dev.rd r ix)) ∧
  (∀ (s : State) (p : Fin 32) (L : Fin 4) (band : Nat) (samples errors : List (List (List Int))),
    (s.dev.opcS p L).running = true → (s.dev.opcS p L).outer = true →
    s.dev.testBand p L true = some band → band < 18488 →
    ∃ d, MakesThenRuns (.opcBandDone p L true samples errors) s d ∧
      d.rd .opcBandOut [p.val, L.val] = band + 1 ∧ d.opcS p L = { s.dev.opcS p L with void := false, begun := s.dev.mayTest p }) ∧
  (∀ (s : State) (p : Fin 32) (L : Fin 4) (samples errors : List (List (List Int))), (s.dev.opcS p L).begun = false →
    s.dev.mayTest p = false → MakesThenRuns (.opcBandDone p L false samples errors) s s.dev) ∧
  (∀ (s : State) (p : Fin 32) (L : Fin 4) (band : Nat) (samples errors : List (List (List Int))) (powers : List Nat),
    (s.dev.opcS p L).running = true → (s.dev.opcS p L).outer = false → (s.dev.opcS p L).void = false →
    s.dev.mayTest p = true → s.dev.testBand p L false = some band →
    (s.dev.testBand p L true).isSome = true → band < 65535 →
    (powers.map some = (List.range 7).map fun i => optimumPower (s.dev.rd .opcPcenter [p.val, L.val]) (1000 * s.dev.rdS .opcBetaTgt [p.val]) 0 (((samples.getD i []).take 11).map (betaOf (ofTwos 32 s.dev.fresh.1)))) →
    (∀ x ∈ powers, 4000 ≤ x ∧ x ≤ 20000) →
    ∃ d, MakesThenRuns (.opcBandDone p L false samples errors) s d ∧
      (d.opcS p L).inner = some (powers, bestShift ((errors.take 7).map fun l => l.map (sectorEye s.dev.fresh.1)), band) ∧
      (d.opcS p L).outer = true ∧ d.rd .opcBandIn [p.val, L.val] = band + 1 ∧
      (∃ more, d.out = s.dev.out ++ .testBand p L band ((List.range 11).map fun i =>
        (List.replicate 7 (roundDiv ((s.dev.rd .opcPcenter [p.val, L.val] : Int) * (70 + 6 * (i : Int))) 100).toNat, 0)) :: more) ∧
      ∀ i, i < 7 → d.rd .pkWritePwr [p.val, i] = powers.getD i 0) ∧
  (∀ (d : Dev) (p L : Nat) (a b : List Nat × Int × Nat), (d.opcS p L).inner = some a →
    (d.opcS p L).outerResult = some b →
    (d.opcEnd p L).rd .opcStatus [p, L] = 2 ∧ ((d.opcEnd p L).opcS p L).running = false ∧
    (∀ z, z < 8 → (d.opcEnd p L).rd .wsValid [p, L, z] = 1) ∧
    (d.opcEnd p L).raised = d.raised ++ [⟨32 * p + 21, evOpcDone,
      L :: (((List.range 7).flatMap fun i => le 2 (a.1.getD i 0)) ++ (List.range 7).flatMap fun i => le 2 (b.1.getD i 0))⟩]) ∧
  (∀ (s : State) (p : Fin 32) (L : Fin 4), (tget ({} : Realloc) (s.dev.pkS p).realloc L).queue ≠ [] →
    ∃ d, Makes (.reallocWaitExpiry p L) s d ∧ (tget ({} : Realloc) (d.pkS p).realloc L).due = true ∧
      s.dev.OnlyChanges d [] [(.pk, p.val)] [])

/-! ### Reads, the ladder, deskew and dropouts -/

/-- R209, R213, R215, R240, R279 to R284, R287, R290, R293, R300, R304, R306: a block whose lane and neighbours have a
valid deskew is read and counted on its lane; its tap c[0] and, without adaptation, every tap keep their values, and the
taps are saved for the layer; one lost for the rail waits, one that fails enters the ladder; a re-read adds a record; a
level that fails is followed by the next, a level that passes or the last one ends the ladder; a place that is free goes
to the oldest block waiting. It concludes that these answer a next state: blockDecoded, ladderRereadEnd,
ladderLevelDecoded, railWaitExpiry, ladderPlaceFree. -/
def Obligations.BlocksClimbTheLadder : Prop :=
  (∀ (s : State) (pba p k : Nat) (read : SpotRead) (old : List (Fld × Nat)) (d0 : Dev) (live : LivePass) (x : Decoded),
    p = pbaSurface pba → k = pbaLane pba → k ≠ 0 → s.dev.readers pba ≠ [] → s.dev.neededNow pba = true →
    (∀ e ∈ s.dev.ladder, e.pba ≠ pba) → (s.dev.pkS p).rcPending = [] → s.dev.mayRead p k = true →
    old = ((s.dev.readBegun pba).map ReadDue.old).getD [] → d0 = (s.dev.asBegun old).readStart pba read →
    live = (d0.livePass pba false false (d0.laneTaps p k) read).1 → x = d0.decodePass p pba true live →
    ∃ d, MakesThenRuns (.blockDecoded pba read) s d ∧
      (old = [] → (s.dev.spotS p k).lastLayer = some (pbaLayer pba) → s.dev.rd .rcFirTap [p, k, 7] < 2 ^ 12 →
        d.rd .rcFirTap [p, k, 7] = s.dev.rd .rcFirTap [p, k, 7]) ∧
      (old = [] → (s.dev.spotS p k).lastLayer = some (pbaLayer pba) → s.dev.on .rcFirAdapt [p] = false →
        ∀ i, i < 15 → d.rd .rcFirTap [p, k, i] = s.dev.rd .rcFirTap [p, k, i]) ∧
      (old = [] → ∀ i, i < 15 → d.rd .rcFirSaved [p, k, pbaLayer pba, i] = d.rd .rcFirTap [p, k, i] % 2 ^ 12) ∧
      d.rd .rcLaneBlocks [p, k - 1] = (s.dev.rd .rcLaneBlocks [p, k - 1] + 1) % 2 ^ 32 ∧
      (∀ w ∈ d.railWait, w.pba ≠ pba) ∧
      (x.outcome = 0 → d.rd .rcLaneFails [p, k - 1] = s.dev.rd .rcLaneFails [p, k - 1] ∧ ∀ e ∈ d.ladder, e.pba ≠ pba) ∧
      (x.outcome ≠ 0 → d.rd .rcLaneFails [p, k - 1] = (s.dev.rd .rcLaneFails [p, k - 1] + 1) % 2 ^ 32) ∧
      (x.outcome ≠ 0 → s.dev.neverAllocated pba = false → s.dev.rd .rvMaxlevel ≠ 0 →
        s.dev.rd .rvActive < s.dev.rd .rvMaxActive → (∀ e ∈ s.dev.ladder, e.waiting = false) →
        d.ladder = s.dev.ladder ++ [{ pba := pba, outcome := x.outcome, decoded := x, start := d0.laneTaps p k, seekFirst := wrongBand pba x.outcome read.fields, rereading := true, live := live }])) ∧
  (∀ (d : Dev) (pba : Nat),
    (d.railWait.find? (fun w => w.pba == pba) = none → d.rd .rvRailRetry ≠ 0 →
      (d.railFailed pba).railWait = d.railWait ++ [{ pba := pba, repeats := 0 }]) ∧
    (∀ w, d.railWait.find? (fun w => w.pba == pba) = some w → w.repeats + 1 < d.rd .rvRailRetry →
      (d.railFailed pba).railWait = d.railWait.map fun x => if x.pba = pba then { x with repeats := x.repeats + 1 } else x) ∧
    (∀ w, d.railWait.find? (fun w => w.pba == pba) = some w → d.rd .rvRailRetry ≤ w.repeats + 1 →
      ∀ x ∈ (d.railFailed pba).railWait, x.pba ≠ pba)) ∧
  (∀ (s : State) (pba lacks : Nat) (reads : List (Nat × SpotRead)) (e : Ladder), s.dev.ladder = [e] → e.pba = pba →
    lacks = unitsFor (recordBytes * min (max 1 (s.dev.rd .rvSoftRevs)) (e.records.length + 1)) - s.dev.unitsOwned (.ladder pba) →
    s.dev.unitsWait (.ladder pba) = false → lacks = 0 ∨ (s.dev.basin.waiting = [] ∧ s.dev.couldTake lacks = lacks) →
    e.rereading = true → e.waiting = false → e.seekFirst = false → (s.dev.pkS (pbaSurface pba)).rcPending = [] →
    (s.dev.pkS (pbaSurface pba)).rows = [] → s.dev.mayRead (pbaSurface pba) (pbaLane pba) = true →
    ∃ d e', Makes (.ladderRereadEnd pba reads) s d ∧
      d.rd .recovRevs [pbaSurface pba] = (s.dev.rd .recovRevs [pbaSurface pba] + 1) % 2 ^ 32 ∧ d.ladder = [e'] ∧
      e'.pba = pba ∧ e'.level = e.level ∧ e'.rereading = false ∧ e'.stepped = false ∧
      e'.records.length = min (max 1 (s.dev.rd .rvSoftRevs)) (e.records.length + 1)) ∧
  (∀ (s : State) (pba p : Nat) (e : Ladder) (x : Decoded), s.dev.ladder = [e] → e.pba = pba →
    e.rereading = false → e.waiting = false → s.dev.readers pba ≠ [] → p = pbaSurface pba → x = s.dev.ladderDecode e →
    ∃ d, MakesThenRuns (.ladderLevelDecoded pba) s d ∧
      (e.level < 6 → x.outcome = 0 → d.ladder = [] ∧
        d.rd .recovOk [p, e.level - 1] = (s.dev.rd .recovOk [p, e.level - 1] + 1) % 2 ^ 32) ∧
      (e.level < 6 → x.outcome ≠ 0 → ∀ n r, s.dev.nextLevel e = some (n, r) →
        d.ladder = [{ e with level := n, rereading := r, outcome := x.outcome, decoded := x }]) ∧
      (e.level < 6 → x.outcome ≠ 0 → s.dev.nextLevel e = none → d.ladder = [] ∧
        d.rd .recovFail [p] = (s.dev.rd .recovFail [p] + 1) % 2 ^ 32) ∧
      (e.level = 6 → s.dev.levelSixWants e ≠ [] → d = s.dev) ∧
      (e.level = 6 → s.dev.levelSixWants e = [] → s.dev.stripeOf pba = none →
        (∀ b, e.gather.findSome? Prod.snd = some b → d.ladder = [] ∧
          d.rd .recovOk [p, 5] = (s.dev.rd .recovOk [p, 5] + 1) % 2 ^ 32) ∧
        (e.gather.findSome? Prod.snd = none → d.ladder = [] ∧
          d.rd .recovFail [p] = (s.dev.rd .recovFail [p] + 1) % 2 ^ 32)) ∧
      (∀ t key, e.level = 6 → s.dev.levelSixWants e = [] → s.dev.stripeOf pba = some (t, key) →
        s.dev.memberPba t (key % 7) (key / 7) = some pba → key / 7 < geometryD t.geometry + geometryM t.geometry →
        (∀ i, s.dev.memberLost e t (key % 7) i = decide (i = key / 7)) →
        ((Dev.rebuild t key (s.dev.survivors e t (key % 7))).isSome = true → d.ladder = [] ∧
          d.rd .recovOk [p, 5] = (s.dev.rd .recovOk [p, 5] + 1) % 2 ^ 32) ∧
        (Dev.rebuild t key (s.dev.survivors e t (key % 7)) = none → d.ladder = [] ∧
          d.rd .recovFail [p] = (s.dev.rd .recovFail [p] + 1) % 2 ^ 32))) ∧
  (∀ (s : State) (pba : Nat), (∃ w ∈ s.dev.railWait, w.pba = pba) → s.dev.on .pkMtoLock [pbaSurface pba] = false →
    ∃ d, MakesThenRuns (.railWaitExpiry pba) s d ∧ (∀ w ∈ d.railWait, w.pba ≠ pba) ∧
      (s.dev.levelSix pba = true → 6 ≤ s.dev.rd .rvMaxlevel → s.dev.readers pba ≠ [] →
        ∃ e, d.ladder = s.dev.ladder ++ [e] ∧ e.pba = pba ∧ e.level = 6 ∧ e.outcome = 1)) ∧
  (∀ (s : State) (e : Ladder), s.dev.ladder = [e] → e.waiting = true → s.dev.stillNeeded e.pba = false →
    ∃ d, MakesThenRuns .ladderPlaceFree s d ∧ d.ladder = []) ∧
  (∀ (s : State) (e : Ladder), s.dev.ladder = [e] → e.waiting = true → s.dev.stillNeeded e.pba = true →
    s.dev.rd .rvActive < s.dev.rd .rvMaxActive →
    ∃ d, MakesThenRuns .ladderPlaceFree s d ∧ d.ladder = [{ e with waiting := false }] ∧
      s.dev.OnlyChanges d [⟨.rvActive, []⟩] [(.pk, pbaSurface e.pba)] [.ladder])

/-- R207, R208, R211, R230 to R232: deskew is verified by the marks found within 8 channel bits of their place, else
acquired by those within 32, else fails; an offset seen in 16 wedges moves D by 64 for each channel bit at the next
block boundary; dropouts and scout defects are kept with their extents, and a full scout map is posted. SCOUT_MAP_FULL
for every defect that finds the map full is the model's reading (log entry 70). It concludes that these answer a next
state: deskewCheckEnd, deskewShift, dropout, dropoutEnd, scoutDefect, scoutDefectEnd. -/
def Obligations.DeskewDropoutsAndScout : Prop :=
  (∀ (s : State) (p : Fin 32) (sp : Fin 16) (l : List Int) (v : Int), (s.dev.spotS p sp).check = 16 →
    l = (s.dev.spotS p sp).found.filter (fun o => decide (-8 ≤ o ∧ o ≤ 8)) →
    v = s.dev.rdS .rcDeskew [p.val, sp.val] + meanOffset l →
    (12 ≤ l.length → -2048 ≤ v → v ≤ 2047 → ∃ d, Makes (.deskewCheckEnd p sp) s d ∧
      d.rdS .rcDeskew [p.val, sp.val] = v ∧ d.rd .rcDeskewStatus [p.val, sp.val] = 2 ∧ (d.spotS p sp).check = 0) ∧
    ((l.length < 12 ∨ v < -2048 ∨ 2047 < v) → ∃ d, Makes (.deskewCheckEnd p sp) s d ∧
      d.rd .rcDeskewStatus [p.val, sp.val] = 1 ∧ (d.spotS p sp).check = 64 ∧ (d.spotS p sp).found = [] ∧
      s.dev.OnlyChanges d [⟨.rcDeskewStatus, [p.val, sp.val]⟩] [(.spot, 16 * p.val + sp.val)] [])) ∧
  (∀ (s : State) (p : Fin 32) (sp : Fin 16) (l : List Int), (s.dev.spotS p sp).check = 64 →
    l = (s.dev.spotS p sp).found.filter (fun o => decide (-32 ≤ o ∧ o ≤ 32)) →
    (48 ≤ l.length → -2048 ≤ meanOffset l → meanOffset l ≤ 2047 → ∃ d, Makes (.deskewCheckEnd p sp) s d ∧
      d.rdS .rcDeskew [p.val, sp.val] = meanOffset l ∧ d.rd .rcDeskewStatus [p.val, sp.val] = 2 ∧ (d.spotS p sp).check = 0) ∧
    (l.length < 48 → ∃ d, Makes (.deskewCheckEnd p sp) s d ∧
      d.rd .rcDeskewStatus [p.val, sp.val] = 3 ∧ (d.spotS p sp).check = 0 ∧
      d.raised = s.dev.raised ++ [⟨32 * p.val + sp.val, evDeskewFail, le 4 l.length⟩])) ∧
  (∀ (s : State) (p : Fin 32) (sp : Fin 16) (shift v : Int), (s.dev.spotS p sp).offset ≠ 0 →
    16 ≤ (s.dev.spotS p sp).offsetRun → shift = (s.dev.spotS p sp).shift + (s.dev.spotS p sp).offset →
    v = max (-2048) (min 2047 (s.dev.rdS .rcDeskew [p.val, sp.val] + 64 * shift)) →
    ∃ d, Makes (.deskewShift p sp) s d ∧ d.spotS p sp = { s.dev.spotS p sp with shift := shift, offsetRun := 0 } ∧
      d.raised = s.dev.raised ++ [⟨32 * p.val + sp.val, evDeskewShift, leI 4 (s.dev.spotS p sp).offset ++ leI 2 v⟩] ∧
      s.dev.OnlyChanges d [] [(.spot, 16 * p.val + sp.val)] [.raised]) ∧
  (∀ (d : Dev) (p sp : Nat), (d.spotS p sp).shift ≠ 0 →
    (d.applyShift p sp).rdS .rcDeskew [p, sp] = max (-2048) (min 2047 (d.rdS .rcDeskew [p, sp] + 64 * (d.spotS p sp).shift)) ∧
    ((d.applyShift p sp).spotS p sp).shift = 0) ∧
  (∀ (s : State) (p : Fin 32) (sp : Fin 16) (start : Nat) (codes : List Int) (refs : List Nat),
    (s.dev.spotS p sp).dropout = none → 8 ≤ (lastEnvelopes codes).length →
    (∀ e ∈ lastEnvelopes codes, lowEnvelope (s.dev.rd .rcDropThr [p.val]) (refs.sum, max 1 refs.length) e = true) →
    Makes (.dropout p sp start codes refs) s (s.dev.updSpot p sp fun q => { q with dropout := some start, dropRef := (refs.sum, max 1 refs.length) })) ∧
  (∀ (s : State) (p : Fin 32) (sp : Fin 16) (a b : Nat) (codes : List Int), (s.dev.spotS p sp).dropout = some a →
    8 ≤ (lastEnvelopes codes).length →
    (∀ e ∈ lastEnvelopes codes, lowEnvelope (s.dev.rd .rcDropThr [p.val]) (s.dev.spotS p sp).dropRef e = false) →
    ∃ d, Makes (.dropoutEnd p sp b codes) s d ∧ (d.spotS p sp).dropout = none ∧
      (d.spotS p sp).drops = (s.dev.spotS p sp).drops ++ [(a, b)] ∧
      s.dev.OnlyChanges d [] [(.spot, 16 * p.val + sp.val)] []) ∧
  (∀ (s : State) (p : Fin 32) (start band : Nat) (levels : List Nat), (s.dev.pkS p).lastMark.map Mark.band = some band →
    s.dev.spotOn p 15 = true → (s.dev.pkS p).scoutOpen = none → levels.length = 4096 + s.dev.rd .rcScoutLen [p.val] →
    (∀ x ∈ scoutDiffers (s.dev.rd .rcScoutThr [p.val]) levels, x = true) →
    ((freshDefects band (s.dev.pkS p).scoutMap).length < 256 → ∃ d, Makes (.scoutDefect p start levels) s d ∧
      (d.pkS p).scoutMap = freshDefects band (s.dev.pkS p).scoutMap ++ [{ band := band, start := start, stop := start, slope := 0 }] ∧
      (d.pkS p).scoutOpen = some start ∧
      d.rd .rcScoutCount [p.val] = (freshDefects band (s.dev.pkS p).scoutMap).length + 1) ∧
    (256 ≤ (freshDefects band (s.dev.pkS p).scoutMap).length → ∃ d, Makes (.scoutDefect p start levels) s d ∧
      (d.pkS p).scoutMap = freshDefects band (s.dev.pkS p).scoutMap ∧
      d.raised = s.dev.raised ++ [⟨32 * p.val + 22, evScoutMapFull, le 4 band⟩])) ∧
  (∀ (s : State) (p : Fin 32) (a stop : Nat) (levels : List Nat), (s.dev.pkS p).scoutOpen = some a →
    levels.length = 4096 + s.dev.rd .rcScoutLen [p.val] →
    (∀ x ∈ scoutDiffers (s.dev.rd .rcScoutThr [p.val]) levels, x = false) →
    ∃ d, Makes (.scoutDefectEnd p stop levels) s d ∧ (d.pkS p).scoutOpen = none ∧
      (d.pkS p).scoutMap.length = (s.dev.pkS p).scoutMap.length ∧
      (∀ x ∈ (d.pkS p).scoutMap, x.start = a → x.stop = a → stop = a) ∧ s.dev.OnlyChanges d [] [(.pk, p.val)] [])

/-! ### Spring links -/

/-- R348 to R350, R352 to R357, R581: a link aligns when its four lanes hold block lock, starts afresh in INIT or
resumes from RETRAIN, is UP on LACK 0, leaves UP for RETRAIN on a lost lane or an exhausted replay, and is reset when
RETRAIN lasts too long or it is disabled; after a reset no credit is outstanding and no tag is open. A frame that fails
its CRC or LENGTH, or that comes out of sequence, is discarded; the 32nd packet not yet acknowledged is acknowledged at
once; every packet sent goes into a block stream with idle and alignment blocks between. That a RETRAIN by replay
exhaustion drops the lane locks is the model's reading (log entry 34). It concludes that these answer a next state:
blockLockGain, blockLockLoss, alignmentFound, lack, lnak, packetDiscard, unsupportedPacketType, lackSend, replayTimeout,
downTimeout, linkDisable, linkEnable, modulePresent. -/
def Obligations.LinksComeUpAndGoDown : Prop :=
  (∀ (s : State) (l : Fin 8) (lane : Fin 4), s.dev.lnState l = lnTrain →
    ∃ d, Makes (.blockLockGain l lane) s d ∧ lane.val ∈ (d.lk l).locked ∧
      (d.allLocked l = true → d.lnState l = lnAlign ∧ (d.lk l).fromRetrain = false) ∧
      (d.allLocked l = false → d.lnState l = lnTrain) ∧
      s.dev.OnlyChanges d [⟨.lnState, [l.val]⟩] [(.link, l.val)] [.out]) ∧
  (∀ (s : State) (l : Fin 8) (lane : Fin 4),
    (s.dev.lnState l = lnUp → ∃ d, Makes (.blockLockLoss l lane) s d ∧ d.lnState l = lnRetrain ∧
      lane.val ∉ (d.lk l).locked ∧ d.rd .lnRetrains [l.val] = (s.dev.rd .lnRetrains [l.val] + 1) % 2 ^ 32 ∧
      d.raised = s.dev.raised ++ [⟨0x600 + 16 * l.val, evLinkDown, [lane.val]⟩]) ∧
    (s.dev.lnState l = lnInit → ∃ d, Makes (.blockLockLoss l lane) s d ∧ d.lnState l = lnTrain ∧
      s.dev.OnlyChanges d [⟨.lnState, [l.val]⟩] [(.link, l.val)] [])) ∧
  (∀ (s : State) (l : Fin 8) (pairs : List AlignSeen), s.dev.lnState l = lnAlign → alignedPairs pairs = true →
    ((s.dev.lk l).fromRetrain = false → ∃ d, Makes (.alignmentFound l pairs) s d ∧ d.lnState l = lnInit ∧
      d.rd .lnLaneMap [l.val] = laneMapOf pairs % 2 ^ 8 ∧ d.rd .lnLaneInv [l.val] = laneInvOf pairs % 2 ^ 4 ∧ (d.lk l).rxSeq = 0 ∧ (d.lk l).txSeq = 1 ∧
      (d.lk l).replay = [⟨0, 7, le 4 0 ++ le 2 (s.dev.rd .lnReturnTmo [l.val]), true⟩]) ∧
    ((s.dev.lk l).fromRetrain = true → ∃ d, Makes (.alignmentFound l pairs) s d ∧ d.lnState l = lnUp ∧
      (d.lk l).replay = (s.dev.lk l).replay ∧ (d.lk l).rxSeq = (s.dev.lk l).rxSeq ∧
      d.out = (s.dev.emitPkt l ⟨0, 6, ackBody 1 0 (s.dev.lk l).rxSeq 0 0, false⟩).out)) ∧
  (∀ (s : State) (l : Fin 8) (p : Packet) (rest : List Packet), (s.dev.lk l).replay = p :: rest → p.seq < 2 ^ 16 →
    (s.dev.lnState l = lnUp → Makes (.lack l p.seq) s
      (s.dev.updLk l fun k => { k with replay := rest, resends := 0 })) ∧
    (s.dev.lnState l = lnInit → ∃ d, Makes (.lack l p.seq) s d ∧ d.lnState l = lnUp ∧ (d.lk l).resend = [] ∧
      d.raised = s.dev.raised ++ [⟨0x600 + 16 * l.val, evLinkUp, le 4 (s.dev.lk l).inits⟩])) ∧
  (∀ (s : State) (l : Fin 8) (p : Packet) (rest : List Packet), s.dev.lnState l = lnUp → (s.dev.lk l).replay = p :: rest →
    p.seq < 2 ^ 16 →
    (∃ d, Makes (.lnak l false p.seq) s d ∧ d.out = ((p :: rest).foldl (fun e x => e.emitPkt l x) s.dev).out ∧
      d.rd .lnReplays [l.val] = (s.dev.rd .lnReplays [l.val] + (p :: rest).length) % 2 ^ 32 ∧
      s.dev.OnlyChanges d [⟨.lnReplays, [l.val]⟩] [(.link, l.val)] [.out]) ∧
    ((s.dev.lk l).resends < 8 → ∃ d, Makes (.replayTimeout l) s d ∧
      d.out = ((p :: rest).foldl (fun e x => e.emitPkt l x) s.dev).out ∧ (d.lk l).resends = (s.dev.lk l).resends + 1) ∧
    (8 ≤ (s.dev.lk l).resends → ∃ d, Makes (.replayTimeout l) s d ∧ d.lnState l = lnRetrain ∧ (d.lk l).locked = [] ∧
      d.raised = s.dev.raised ++ [⟨0x600 + 16 * l.val, evLinkDown, [4]⟩])) ∧
  (∀ (s : State) (l : Fin 8), s.dev.lnState l = lnRetrain →
    ∃ d payload, MakesThenRuns (.downTimeout l) s d ∧ d.lnState l ≠ lnRetrain ∧ d.rd .lnCreditOutstanding [l.val] = 0 ∧
      d.rd .lnTagOpen [l.val] = 0 ∧ d.linkTags l = [] ∧ (d.lk l).replay = [] ∧
      ⟨0x600 + 16 * l.val, evLinkReset, payload⟩ ∈ d.raised) ∧
  (∀ (s : State) (l : Fin 8) (byRegister : Bool), byRegister = false ∨ s.dev.ready = true →
    ∃ d, MakesThenRuns (.linkDisable l byRegister) s d ∧ d.lnState l = lnDisabled ∧ (d.lk l).locked = [] ∧
      (byRegister = true → d.on .lnEn [l.val] = false) ∧ (byRegister = false → (d.lk l).present = false) ∧
      (s.dev.lnState l = lnUp → d.rd .lnCreditOutstanding [l.val] = 0 ∧ d.rd .lnTagOpen [l.val] = 0)) ∧
  (∀ (s : State) (l : Fin 8), s.dev.ready = true →
    ∃ d, Makes (.linkEnable l) s d ∧ d.on .lnEn [l.val] = true ∧ d.rd .lnCreditConsumed [l.val] = 0 ∧
      d.rd .lnCreditReturned [l.val] = 0 ∧ d.rd .lnTagStatted [l.val] = 0 ∧ d.rd .lnTagReset [l.val] = 0 ∧
      d.rd .lnCreditGranted [l.val] = s.dev.rd .lnCreditOutstanding [l.val] % 2 ^ 32 ∧
      d.rd .lnTagIssued [l.val] = s.dev.rd .lnTagOpen [l.val] % 2 ^ 32 ∧
      (s.dev.running = true → s.dev.lnState l = lnDisabled → (s.dev.lk l).present = true → (s.dev.lk l).locked = [] → d.lnState l = lnTrain)) ∧
  (∀ (s : State) (l : Fin 8), ∃ d, Makes (.modulePresent l) s d ∧ (d.lk l).present = true ∧
    (s.dev.running = true → s.dev.lnState l = lnDisabled → s.dev.on .lnEn [l.val] = true → (s.dev.lk l).locked = [] → d.lnState l = lnTrain)) ∧
  (∀ (s : State) (l : Fin 8), s.dev.lnState l = lnUp → (s.dev.lk l).owed ≠ 0 →
    Makes (.lackSend l) s ((s.dev.updLk l fun k => { k with owed := 0 }).emitPkt l
      ⟨0, 6, ackBody 0 0 ((s.dev.lk l).rxSeq + 2 ^ 16 - 1) 0 0, false⟩)) ∧
  (∀ (s : State) (l : Fin 8) (frame : Bytes), s.dev.lnState l = lnUp ∨ s.dev.lnState l = lnInit ∧ frameGood frame = false →
    (s.dev.lk l).discarded = false → frameGood frame = false ∨ senderTypes.contains (frameType frame) = true ∧ frameType frame ≠ 6 ∧
      ofLe (slice frame 2 2) ≠ (s.dev.lk l).rxSeq →
    ∃ d, Makes (.packetDiscard l frame) s d ∧ (d.lk l).discarded = true ∧ (d.lk l).rxSeq = (s.dev.lk l).rxSeq ∧
      d.rd .lnCrcErr [l.val] = (if frameGood frame then s.dev.rd .lnCrcErr [l.val] else (s.dev.rd .lnCrcErr [l.val] + 1) % 2 ^ 32) ∧
      d.out = (s.dev.emitPkt l ⟨0, 6, ackBody 1 0 (s.dev.lk l).rxSeq 0 0, false⟩).out) ∧
  (∀ (s : State) (l : Fin 8) (seq ptype : Nat) (i : Instr), s.dev.rxNext l seq = true → senderTypes.contains ptype = false →
    (∃ frame, i = .packetDiscard l frame ∧ frameGood frame = true ∧ frameType frame = ptype ∧ ofLe (slice frame 2 2) = seq) ∨
      i = .unsupportedPacketType l seq ptype →
    ∃ d, Makes i s d ∧ (d.lk l).rxSeq = ((s.dev.lk l).rxSeq + 1) % 2 ^ 16 ∧
      d.raised = s.dev.raised ++ [⟨0x600 + 16 * l.val + 2, evLinkProtocol, [ptype]⟩] ∧
      ((s.dev.lk l).owed < 31 → (d.lk l).owed = (s.dev.lk l).owed + 1 ∧ d.out = s.dev.out) ∧
      (31 ≤ (s.dev.lk l).owed → (d.lk l).owed = 0 ∧ ∃ more, d.out = s.dev.out ++ more ++
        [.spring l ⟨0, 6, ackBody 0 0 ((d.lk l).rxSeq + 2 ^ 16 - 1) 0 0, false⟩]) ∧
      s.dev.OnlyChanges d [] [(.link, l.val)] [.raised, .out]) ∧
  (∀ (d : Dev) (l : Nat) (p : Packet), ∃ before, (d.emitPkt l p).out = d.out ++ before ++ [.spring l p] ∧
    (∀ x ∈ before, x = .idle l ∨ ∃ marker n, marker < 256 ∧ n ≠ 0 ∧ x = .align l marker n) ∧
    (2048 ≤ ((d.lineIdle l).lk l).sinceIdle + p.blocks → .idle l ∈ before) ∧
    ((∀ x ∈ before, x = .idle l) ↔ ((d.emitPkt l p).lk l).txBlocks / 65532 = (d.lk l).txBlocks / 65532) ∧
    ((d.lk l).sinceIdle < 2048 → p.blocks < 2048 → ((d.emitPkt l p).lk l).sinceIdle < 2048))

/-- R358, R360 to R369, R382: a CMD moves a credit from OUTSTANDING to CONSUMED and opens a tag; a WRITE then waits for
its grants, a READ reads, a LOG sends its entries and an unknown OP is refused, each with a STAT; DATA fills its grant
and its command; STATs close tags, and returned credits are counted. It concludes that these answer a next state:
springWrite, springRead, springLog, unknownOp, springData, credit, springStat. -/
def Obligations.CommandsOpenTagsAndStatsCloseThem : Prop :=
  (∀ (s : State) (l : Fin 8) (seq tag cookie take offset length time : Nat) (fua : Bool) (t : Take),
    s.dev.rxNext l seq = true → s.dev.cmdMisuse l tag = false → s.dev.cmds = [] → s.dev.on .bsReady = true →
    s.dev.loadInForce = true → s.dev.take? take = some t →
    (springRangeOk true offset length = true → t.state = .opened → s.dev.catalogFull = false →
      ∃ d c, MakesThenRuns (.springWrite l seq tag fua cookie take offset length time) s d ∧ s.dev.TagOpened d l ∧
        d.cmds = [c] ∧ c.origin = .link l tag ∧ c.phase = .gathering ∧ c.fua = fua ∧ c.take = take ∧
        c.offset = offset ∧ c.length = length) ∧
    (springRangeOk false offset length = true → offset + length ≤ t.length →
      ∃ d c, MakesThenRuns (.springRead l seq tag cookie take offset length) s d ∧ s.dev.TagOpened d l ∧
        d.cmds = [c] ∧ c.origin = .link l tag ∧ c.phase = .reading)) ∧
  (∀ (s : State) (l : Fin 8) (seq tag cookie length n : Nat), s.dev.rxNext l seq = true →
    s.dev.cmdMisuse l tag = false → s.dev.cmds = [] → n = min (length / 32) (s.dev.lk l).deferred.length →
    ∃ d data, MakesThenRuns (.springLog l seq tag cookie length) s d ∧ s.dev.TagOpened d l ∧ d.cmds = [] ∧
      (d.lk l).deferred = (s.dev.lk l).deferred.drop n ∧ data.length = n ∧ (∀ x ∈ data, x.1 = 3) ∧
      (d.lk l).txq = (s.dev.lk l).txq ++ data ++ [(4, le 2 tag ++ [clsOk, 0] ++ le 2 0 ++ [0, 0] ++
        le 8 (reportResult (32 * n) (32 * (s.dev.lk l).deferred.length)))]) ∧
  (∀ (s : State) (l : Fin 8) (seq tag op cookie : Nat), s.dev.rxNext l seq = true →
    s.dev.cmdMisuse l tag = false → s.dev.cmds = [] →
    ∃ d, MakesThenRuns (.unknownOp l seq tag op cookie) s d ∧ s.dev.TagOpened d l ∧ d.cmds = [] ∧
      (d.lk l).txq = (s.dev.lk l).txq ++ [(4, le 2 tag ++ [clsDevice, 0] ++ le 2 1 ++ [0, 0] ++ le 8 0)]) ∧
  (∀ (s : State) (l : Fin 8) (seq tag grant offset : Nat) (payload : Bytes) (g : Grant), s.dev.rxNext l seq = true →
    (s.dev.lk l).grants = [g] → g.id = grant → g.tag = tag → offset = g.offset + g.got.length →
    payload.length = min 4096 (g.length - g.got.length) →
    (g.got.length + payload.length < g.length → ∃ d, MakesThenRuns (.springData l seq tag grant offset payload) s d ∧
      (d.lk l).grants = [{ g with got := g.got ++ payload }] ∧ d.cmds = s.dev.cmds) ∧
    (g.length ≤ g.got.length + payload.length → ∀ c, s.dev.cmd (.link l tag) = some c →
      ∃ d, MakesThenRuns (.springData l seq tag grant offset payload) s d ∧ (d.lk l).grants = [] ∧
      d.cmd (.link l tag) = some (c.receive (g.offset - c.offset) (g.got ++ payload)))) ∧
  (∀ (s : State) (l : Fin 8) (x : Nat × Bytes) (rest : List (Nat × Bytes)), (s.dev.lk l).txq = x :: rest → x.1 = 4 →
    s.dev.canSend l = true →
    ∃ d pkt, Makes (.springStat l) s d ∧ (d.lk l).txq = rest ∧ (d.lk l).replay = (s.dev.lk l).replay ++ [pkt] ∧
      pkt.ptype = 4 ∧ pkt.seq = (s.dev.lk l).txSeq ∧ d.out = (s.dev.emitPkt l pkt).out ∧
      d.rd .lnTagOpen [l.val] = (s.dev.rd .lnTagOpen [l.val] - 1) % 2 ^ 32 ∧
      d.rd .lnTagStatted [l.val] = (s.dev.rd .lnTagStatted [l.val] + 1) % 2 ^ 32) ∧
  (∀ (s : State) (l : Fin 8) (seq count n : Nat), s.dev.rxNext l seq = true →
    n = min count (s.dev.rd .lnCreditOutstanding [l.val]) →
    ∃ d, Makes (.credit l seq count) s d ∧
      d.rd .lnCreditOutstanding [l.val] = (s.dev.rd .lnCreditOutstanding [l.val] - n) % 2 ^ 32 ∧
      d.rd .lnCreditReturned [l.val] = (s.dev.rd .lnCreditReturned [l.val] + n) % 2 ^ 32 ∧
      s.dev.OnlyChanges d [⟨.lnCreditOutstanding, [l.val]⟩, ⟨.lnCreditReturned, [l.val]⟩] [(.link, l.val)] [.out])

/-- R359, R363, R365, R373, R374, R378, R381: credits are granted within the pool; a grant is made when its units are
reserved, and expires into a range to be granted again; a queue reset aborts the open tags and reports them; the shares
of a budget never pass it, and what is left is carried over; deficits are posted each second. The number a grant gets is
the model's choice (log entry 9). It concludes that these answer a next state: qrst, creditGrant, xrdy, xrdyTimeout,
springQreset, qrstReport, grantBudgetPeriod, deficitSecond. -/
def Obligations.GrantsResetsAndShares : Prop :=
  (∀ (s : State) (l : Fin 8) (count mine n : Nat),
    mine = s.dev.rd .lnCreditOutstanding [l.val] + s.dev.rd .lnTagOpen [l.val] →
    n = min count (min (s.dev.rd .sprSlotsTotal - s.dev.slotsUsed) (s.dev.rd .lnSlots [l.val] - mine)) → n ≠ 0 →
    s.dev.canSend l = true → s.dev.creditTurn l = true → s.dev.creditDue l = true →
    ∃ d pkt, Makes (.creditGrant l count) s d ∧ (d.lk l).creditAt = some s.dev.time ∧
      d.rd .lnCreditGranted [l.val] = (s.dev.rd .lnCreditGranted [l.val] + n) % 2 ^ 32 ∧
      d.rd .lnCreditOutstanding [l.val] = (s.dev.rd .lnCreditOutstanding [l.val] + n) % 2 ^ 32 ∧
      (d.lk l).creditLimit = ((s.dev.lk l).creditLimit + n) % 2 ^ 32 ∧ pkt.ptype = 7 ∧
      pkt.body = le 4 (d.lk l).creditLimit ++ le 2 (s.dev.rd .lnReturnTmo [l.val]) ∧
      d.out = (s.dev.emitPkt l pkt).out) ∧
  (∀ (s : State) (l : Fin 8) (tag length off len id : Nat) (c : Cmd) (e : Dev), s.dev.cmd (.link l tag) = some c →
    c.op = 0x01 → c.phase = .gathering → s.dev.nextRange l tag length = some (off, len) → len % 64 = 0 → 64 ≤ len →
    len ≤ 2 ^ 20 → len + (s.dev.lk l).unreceived ≤ s.dev.rd .lnGrantWindow [l.val] * 2 ^ 20 →
    s.dev.share.inForce = false → s.dev.canSend l = true → s.dev.basin.waiting = [] →
    id = nextGrantId ((s.dev.lk l).grants.map Grant.id) 65535 (s.dev.lk l).nextGrant →
    s.dev.takeUnits (.grant l id) (unitsFor len) true = some e →
    ∃ d pkt, Makes (.xrdy l tag length) s d ∧
      (d.lk l).grants = (s.dev.lk l).grants ++ [{ id := id, tag := tag, offset := off, length := len }] ∧
      pkt.ptype = 2 ∧ pkt.body = le 2 tag ++ le 2 id ++ le 4 len ++ le 8 off ∧ d.out = (s.dev.emitPkt l pkt).out) ∧
  (∀ (s : State) (l : Fin 8) (grant : Nat) (g : Grant), (s.dev.lk l).grants = [g] → g.id = grant →
    ∃ d, MakesThenRuns (.xrdyTimeout l grant) s d ∧ (d.lk l).grants = [] ∧
      (d.lk l).expired = (s.dev.lk l).expired ++ [(grant, g.tag)] ∧
      (d.lk l).regrant = (s.dev.lk l).regrant ++ [(g.tag, g.offset, g.length)] ∧
      ⟨0x600 + 16 * l.val + 5, evXrdyTimeout, le 4 g.tag ++ le 8 grant ++ le 4 g.got.length⟩ ∈ d.raised) ∧
  (∀ (s : State) (l : Fin 8) (seq : Nat),
    (s.dev.rxNext l seq = true → ∃ d, MakesThenRuns (.qrst l seq) s d ∧ d.linkTags l = [] ∧
      (d.lk l).qreset = (s.dev.lk l).qreset ++ [(1, s.dev.linkTags l, false)]) ∧
    (s.dev.ready = true → ∃ d, MakesThenRuns (.springQreset l) s d ∧ d.linkTags l = [] ∧
      (d.lk l).qreset = (s.dev.lk l).qreset ++ [(2, s.dev.linkTags l, false)])) ∧
  (∀ (s : State) (l : Fin 8) (ts : List Nat), (s.dev.lk l).qreset = [(1, ts, false)] → (s.dev.lk l).txq = [] →
    s.dev.canSend l = true →
    ∃ d pkt, MakesThenRuns (.qrstReport l) s d ∧ (d.lk l).qreset = [] ∧ pkt.ptype = 5 ∧ pkt.body = qrstBody 1 ts ∧
      d.out = (s.dev.emitPkt l pkt).out ∧
      d.rd .lnTagOpen [l.val] = (s.dev.rd .lnTagOpen [l.val] - ts.length) % 2 ^ 32 ∧
      d.rd .lnTagReset [l.val] = (s.dev.rd .lnTagReset [l.val] + ts.length) % 2 ^ 32 ∧
      d.raised = s.dev.raised ++ [⟨0x600 + 16 * l.val + 3, evQrstDone, 1 :: le 4 ts.length⟩]) ∧
  (∀ (s : State), s.dev.basin.fillHigh = false → s.dev.rd .thThrState ≠ thEnforced →
    MakesThenRuns .grantBudgetPeriod s
      { s.dev with share := { s.dev.share with inForce := false, released := 0, carry := 0, allow := [] } }) ∧
  (∀ (s : State) (budget : Nat), s.dev.basin.fillHigh = true → s.dev.rd .thThrState ≠ thEnforced →
    budget = s.dev.share.released * 256 * 256 + s.dev.share.carry + s.dev.share.allow.foldl (· + ·) 0 * 65536 →
    ∃ d, MakesThenRuns .grantBudgetPeriod s d ∧ d.share.inForce = true ∧ d.share.released = 0 ∧
      d.share.allow.foldl (· + ·) 0 * 65536 + d.share.carry = budget ∧ (∀ a ∈ d.share.allow, a % 64 = 0) ∧
      s.dev.OnlyChanges d [] [] [.share]) ∧
  (∀ s : State, ∃ d, Makes .deficitSecond s d ∧ d.share.deficits = [] ∧
    (∀ l mb, l < 8 → s.dev.share.deficits.getD l 0 ≠ 0 → mb = (s.dev.share.deficits.getD l 0 + 500000) / 1000000 →
      d.rd .lnDeficit [l] = mb % 2 ^ 32 ∧ ⟨0x600 + 16 * l + 4, evRateDeficit, le 4 mb⟩ ∈ d.raised) ∧
    (∀ l, l < 8 → s.dev.share.deficits.getD l 0 = 0 → d.rd .lnDeficit [l] = s.dev.rd .lnDeficit [l]))

/-! ### The take service -/

/-- R74, R328 to R330, R396 to R398, R400, R402, R406, R407, R415: with the basin ready and a load in force a RECORD
gathers its data when its take is OPEN, a RETRIEVE and a PEER_EXPORT of what is committed read, TAKE_OPEN adds an empty
OPEN take, TAKE_CLOSE begins the close of one or returns the certificate of a closed one, TAKE_QUERY reports, and FLUSH
waits for the medium. It concludes that these answer a next state: record, retrieve, flush, takeOpen, takeClose,
takeQuery, peerExport. -/
def Obligations.TakesOpenRecordAndClose : Prop :=
  ∀ (s : State) (r : Fin 256) (o : Origin), s.dev.mayStart r → s.dev.cmds = [] → s.dev.on .bsReady = true →
    o = s.dev.nextOrigin r →
    (∀ cookie, s.dev.loadInForce = false →
      MakesThenRuns (.flush r cookie) s
        ((s.dev.started r { origin := .ring r 0, op := 0x04, cookie := cookie }).finish o clsOk 0)) ∧
    (s.dev.loadInForce = true →
      (∀ (cookie : Nat) (e : Dev), e = ((s.dev.started r { origin := .ring r 0, op := 0x04, cookie := cookie }).commitAll o).dueCopies →
        MakesThenRuns (.flush r cookie) s (e.updCmd o fun c => { c with phase := .medium, waits := e.flushWaits })) ∧
      (∀ (fua : Bool) (cookie take offset length addr time : Nat) (sgl : List (Nat × Nat)) (t : Take),
        takeRangeOk true offset length = true → bufferOk length addr sgl = true → s.dev.take? take = some t → t.state = .opened →
        s.dev.catalogFull = false →
        ∃ d c, MakesThenRuns (.record r cookie fua take offset length addr sgl time) s d ∧ d.cmds = [c] ∧ c.origin = o ∧
          c.phase = .gathering ∧ c.fua = fua ∧ c.take = take ∧ c.offset = offset ∧ c.length = length) ∧
      (∀ (fua : Bool) (cookie take offset length addr time : Nat) (sgl : List (Nat × Nat)),
        takeRangeOk true offset length = true → bufferOk length addr sgl = true → s.dev.take? take = none →
        ∃ d, MakesThenRuns (.record r cookie fua take offset length addr sgl time) s d ∧ d.cmds = [] ∧
          (⟨r, (s.dev.sqS r).started, cookie, clsResource, detTakeUnknown, 0x01, 0, false, 0, false⟩ : Compl) ∈
            (d.cqS (s.dev.rd .sqCq [r.val])).waiting) ∧
      (∀ (cookie take offset length addr window : Nat) (t : Take), s.dev.take? take = some t →
        offset + length ≤ t.length →
        (∀ sgl, takeRangeOk false offset length = true → bufferOk length addr sgl = true →
          ∃ d c, MakesThenRuns (.retrieve r cookie take offset length addr sgl) s d ∧ d.cmds = [c] ∧ c.origin = o ∧
            c.phase = .reading) ∧
        ∃ d c, MakesThenRuns (.peerExport r cookie take offset length addr window) s d ∧ d.cmds = [c] ∧ c.origin = o ∧
          c.phase = .reading) ∧
      (∀ (cookie take time volume : Nat) (label : Bytes) (v : Volume), s.dev.volume = some v → volume = 0 ∨ volume = v.id →
        s.dev.rd .svTakeOpen < 64 → s.dev.takes.length < 1048576 → take ≠ 0 → s.dev.take? take = none →
        ∃ d, MakesThenRuns (.takeOpen r cookie take time volume label) s d ∧ d.cmds = [] ∧
          d.takes = s.dev.takes ++ [{ id := take, label := slice label 0 32, openTime := time }] ∧
          (⟨r, (s.dev.sqS r).started, cookie, clsOk, 0, 0x08, take, false, 0, false⟩ : Compl) ∈
            (d.cqS (s.dev.rd .sqCq [r.val])).waiting) ∧
      (∀ (cookie take time buf len : Nat) (t : Take) (e : Dev), s.dev.take? take = some t →
        e = s.dev.started r
          { origin := .ring r 0, op := 0x09, cookie := cookie, take := take, hostTime := time, addr := buf, len := len } →
        (t.state = .opened ∨ t.state = .unclosed → ∃ d t', MakesThenRuns (.takeClose r cookie take time buf len) s d ∧
          d.take? take = some t' ∧ t'.state = .closing ∧ t'.length = t.length ∧
          (d.cmd o).map Cmd.phase = some .gathering) ∧
        (t.state = .closed →
          MakesThenRuns (.takeClose r cookie take time buf len) s (e.report o clsOk 0 t.cert))) ∧
      (∀ (cookie take buf len : Nat) (t : Take) (e : Dev), s.dev.take? take = some t →
        e = s.dev.started r { origin := .ring r 0, op := 0x0A, cookie := cookie, take := take, addr := buf, len := len } →
        MakesThenRuns (.takeQuery r cookie take buf len) s (e.report o clsOk 0 (e.takeReport t))))

/-- R266, R269, R272, R279, R390, R408, R409, R582, R583: a raw block is gathered for its position and read at the
position itself or where it moved; catalogue records are read in append order; a range that is complete or has waited
its time is committed and leaves the gathered blocks; the timers of the catalogue want a row and append the allocation
record; a close whose blocks cannot reach the medium leaves its take UNCLOSED without a certificate and ends with every
TAKE_CLOSE that waits for it. That a block lost before the close counts too is the model's reading (log entry 29). It
concludes that these answer a next state: catalogRead, blockWrite, blockRead, stripeCommit, catalogRowTimer,
allocRecordTimer. -/
def Obligations.RawBlocksAndTheCatalogue : Prop :=
  (∀ (s : State) (r : Fin 256) (fua : Bool) (cookie pba addr time : Nat), s.dev.mayStart r → s.dev.cmds = [] →
    s.dev.on .bsReady = true → s.dev.loadInForce = true → s.dev.rawTargetOk pba = true → addr % 64 = 0 →
    s.dev.catalogFull = false →
    s.dev.surfaceOk (pbaSurface pba) = true → s.dev.on .wrLaneDis [pbaSurface pba, pbaLane pba - 1] = false →
    ∃ d c, MakesThenRuns (.blockWrite r cookie fua pba addr time) s d ∧ d.cmds = [c] ∧
      c.origin = s.dev.nextOrigin r ∧ c.phase = .gathering ∧ c.pba = pba ∧ c.length = 65536) ∧
  (∀ (s : State) (r : Fin 256) (cookie pba options addr hdr : Nat), s.dev.mayStart r → s.dev.cmds = [] →
    s.dev.on .bsReady = true → s.dev.loadInForce = true → pbaOk pba = true → options.testBit 0 = true →
    addr % 64 = 0 → (options.testBit 1 = true → hdr % 64 = 0) →
    s.dev.surfaceOk (pbaSurface pba) = true →
    ∃ d c, MakesThenRuns (.blockRead r cookie pba options addr hdr) s d ∧ d.cmds = [c] ∧
      c.origin = s.dev.nextOrigin r ∧ c.phase = .reading ∧ c.needs = [(pba, 0)]) ∧
  (∀ (s : State) (r : Fin 256) (cookie select first max buf len : Nat) (e : Dev) (hits : List CatRec) (n : Nat),
    s.dev.mayStart r →
    e = s.dev.started r { origin := .ring r 0, op := 0x0B, cookie := cookie, addr := buf, len := len, arg := select } →
    (select < 0xFFF0 ∨ select = 0xFFFE → s.dev.on .bsReady = true → s.dev.loadInForce = true →
      hits = (s.dev.cat.records.filter fun x => decide (first ≤ x.seq) && (select == 0xFFFE || x.rtype == select)).take max →
      n = min (len / 512) hits.length →
      MakesThenRuns (.catalogRead r cookie select first max buf len) s
        ((if n = 0 then e else e.emit (.hostWrite buf ((hits.take n).flatMap CatRec.bytes) true)).finish
          (s.dev.nextOrigin r) clsOk 0 (reportResult (512 * n) (512 * hits.length)))) ∧
    (0xFFF8 ≤ select → select < 0xFFFE →
      MakesThenRuns (.catalogRead r cookie select first max buf len) s (e.finish (s.dev.nextOrigin r) clsOk 0 0))) ∧
  (∀ (s : State) (take range : Nat) (t : Take) (v : Volume) (due : Prop), s.dev.take? take = some t → s.dev.volume = some v →
    (due ↔ t.rangeComplete (geometryD v.geometry) range = true ∨
      ∃ x, tfind t.since range = some x ∧ x + msTicks (s.dev.rd .svStripeWait) ≤ s.dev.time) →
    ∃ d t', MakesThenRuns (.stripeCommit take range) s d ∧ d.take? take = some t' ∧
      (¬due ∨ rangeBlocks (geometryD v.geometry) range t.gather = [] → d = s.dev) ∧
      (due → rangeBlocks (geometryD v.geometry) range t.gather ≠ [] →
        t'.gather = t.gather.filter fun b => b.block / (7 * geometryD v.geometry) != range) ∧
      t'.length = t.length ∧ t'.state = t.state) ∧
  (∀ s : State, s.dev.unwritten ≠ [] →
    ∃ d, Makes .catalogRowTimer s d ∧ d.cat.wanted = true ∧ s.dev.OnlyChanges d [] [] [.cat]) ∧
  (∀ s : State, (∃ e ∈ s.dev.pk, e.2.rows ≠ []) →
    ∃ d more, Makes .allocRecordTimer s d ∧ d.cat.records = s.dev.cat.records ++ more ∧
      (∃ x, more.head? = some x ∧ x.rtype = 0x0022 ∧ x.body = s.dev.allocBody) ∧
      (∀ p, p < 32 → (d.pkS p).dead = [] ∧ (d.pkS p).abandoned = []) ∧ d.regs = s.dev.regs) ∧
  (∀ (d : Dev) (o : Origin) (c : Cmd) (t : Take), d.take? c.take = some t → c.phase = .medium → c.waits = [] →
    c.failed.isSome = true ∨ t.lost = true → d.advanceClose o c = d.closeFails c.take detWriteExhausted) ∧
  (∀ (d : Dev) (take detail : Nat) (t : Take), d.take? take = some t →
    ∃ e t', e = d.closeFails take detail ∧ e.take? take = some t' ∧ t'.state = .unclosed ∧ t'.cert = t.cert ∧
      (e.cat.records = d.cat.records.filter fun r => r.onMedium || r.rtype != 0x0012 || ofLe (slice r.body 8 8) != take) ∧
      ∀ c ∈ e.cmds, c.op = 0x09 → c.take = take → c.phase = .held)
end

