-- ==== Sys2Proof/Laws/State.lean ====
section
/-! SUPPORT. Laws of the state's updates: what each named update leaves unchanged, field by field, so that no proof
unfolds a record update. -/

namespace Sys2Proof.Machine

variable (d : Dev)

/-- `Dev.wr` changes `regs` only. -/
@[simp] theorem wr_frame (r : Row) (ix : List Nat) (v : Nat) :
    (d.wr r ix v).time = d.time ∧ (d.wr r ix v).pins = d.pins ∧ (d.wr r ix v).pcie = d.pcie ∧
    (d.wr r ix v).boot = d.boot ∧ (d.wr r ix v).out = d.out ∧ (d.wr r ix v).raised = d.raised ∧
    (d.wr r ix v).freeTick = d.freeTick ∧ (d.wr r ix v).cmds = d.cmds ∧ (d.wr r ix v).sq = d.sq ∧
    (d.wr r ix v).cq = d.cq ∧ (d.wr r ix v).eq = d.eq ∧ (d.wr r ix v).msix = d.msix ∧
    (d.wr r ix v).msixPending = d.msixPending ∧ (d.wr r ix v).vec = d.vec ∧ (d.wr r ix v).lowHeld = d.lowHeld ∧
    (d.wr r ix v).deferredWrites = d.deferredWrites ∧ (d.wr r ix v).measureHeld = d.measureHeld ∧
    (d.wr r ix v).caused = d.caused ∧ (d.wr r ix v).loadInForce = d.loadInForce ∧ (d.wr r ix v).loadCmd = d.loadCmd ∧
    (d.wr r ix v).unloadCmd = d.unloadCmd ∧ (d.wr r ix v).link = d.link ∧ (d.wr r ix v).share = d.share ∧
    (d.wr r ix v).volume = d.volume ∧ (d.wr r ix v).takes = d.takes ∧ (d.wr r ix v).stripes = d.stripes ∧
    (d.wr r ix v).nextStripe = d.nextStripe ∧ (d.wr r ix v).blks = d.blks ∧ (d.wr r ix v).nextBlk = d.nextBlk ∧
    (d.wr r ix v).moved = d.moved ∧ (d.wr r ix v).unavailable = d.unavailable ∧ (d.wr r ix v).cat = d.cat ∧
    (d.wr r ix v).ladder = d.ladder ∧ (d.wr r ix v).railWait = d.railWait ∧ (d.wr r ix v).selftest = d.selftest ∧
    (d.wr r ix v).scrub = d.scrub ∧ (d.wr r ix v).basin = d.basin ∧ (d.wr r ix v).cache = d.cache ∧
    (d.wr r ix v).thermal = d.thermal ∧ (d.wr r ix v).measures = d.measures ∧ (d.wr r ix v).pk = d.pk ∧
    (d.wr r ix v).spot = d.spot ∧ (d.wr r ix v).ax = d.ax ∧ (d.wr r ix v).servo = d.servo ∧
    (d.wr r ix v).trace = d.trace ∧ (d.wr r ix v).sled = d.sled ∧ (d.wr r ix v).seek = d.seek ∧
    (d.wr r ix v).homing = d.homing ∧ (d.wr r ix v).spin = d.spin := by
  refine ⟨rfl, rfl, rfl, rfl, rfl, rfl, rfl, rfl, rfl, rfl, rfl, rfl, rfl, rfl, rfl, rfl, rfl, rfl, rfl, rfl, rfl,
    rfl, rfl, rfl, rfl, rfl, rfl, rfl, rfl, rfl, rfl, rfl, rfl, rfl, rfl, rfl, rfl, rfl, rfl, rfl, rfl, rfl, rfl, rfl,
    rfl, rfl, rfl, rfl, rfl⟩
/-- `Dev.wrS` changes `regs` only. -/
@[simp] theorem wrS_frame (r : Row) (ix : List Nat) (v : Int) :
    (d.wrS r ix v).time = d.time ∧ (d.wrS r ix v).pins = d.pins ∧ (d.wrS r ix v).pcie = d.pcie ∧
    (d.wrS r ix v).boot = d.boot ∧ (d.wrS r ix v).out = d.out ∧ (d.wrS r ix v).raised = d.raised ∧
    (d.wrS r ix v).freeTick = d.freeTick ∧ (d.wrS r ix v).cmds = d.cmds ∧ (d.wrS r ix v).sq = d.sq ∧
    (d.wrS r ix v).cq = d.cq ∧ (d.wrS r ix v).eq = d.eq ∧ (d.wrS r ix v).msix = d.msix ∧
    (d.wrS r ix v).msixPending = d.msixPending ∧ (d.wrS r ix v).vec = d.vec ∧ (d.wrS r ix v).lowHeld = d.lowHeld ∧
    (d.wrS r ix v).deferredWrites = d.deferredWrites ∧ (d.wrS r ix v).measureHeld = d.measureHeld ∧
    (d.wrS r ix v).caused = d.caused ∧ (d.wrS r ix v).loadInForce = d.loadInForce ∧
    (d.wrS r ix v).loadCmd = d.loadCmd ∧ (d.wrS r ix v).unloadCmd = d.unloadCmd ∧ (d.wrS r ix v).link = d.link ∧
    (d.wrS r ix v).share = d.share ∧ (d.wrS r ix v).volume = d.volume ∧ (d.wrS r ix v).takes = d.takes ∧
    (d.wrS r ix v).stripes = d.stripes ∧ (d.wrS r ix v).nextStripe = d.nextStripe ∧ (d.wrS r ix v).blks = d.blks ∧
    (d.wrS r ix v).nextBlk = d.nextBlk ∧ (d.wrS r ix v).moved = d.moved ∧
    (d.wrS r ix v).unavailable = d.unavailable ∧ (d.wrS r ix v).cat = d.cat ∧ (d.wrS r ix v).ladder = d.ladder ∧
    (d.wrS r ix v).railWait = d.railWait ∧ (d.wrS r ix v).selftest = d.selftest ∧ (d.wrS r ix v).scrub = d.scrub ∧
    (d.wrS r ix v).basin = d.basin ∧ (d.wrS r ix v).cache = d.cache ∧ (d.wrS r ix v).thermal = d.thermal ∧
    (d.wrS r ix v).measures = d.measures ∧ (d.wrS r ix v).pk = d.pk ∧ (d.wrS r ix v).spot = d.spot ∧
    (d.wrS r ix v).ax = d.ax ∧ (d.wrS r ix v).servo = d.servo ∧ (d.wrS r ix v).trace = d.trace ∧
    (d.wrS r ix v).sled = d.sled ∧ (d.wrS r ix v).seek = d.seek ∧ (d.wrS r ix v).homing = d.homing ∧
    (d.wrS r ix v).spin = d.spin := by
  refine ⟨rfl, rfl, rfl, rfl, rfl, rfl, rfl, rfl, rfl, rfl, rfl, rfl, rfl, rfl, rfl, rfl, rfl, rfl, rfl, rfl, rfl,
    rfl, rfl, rfl, rfl, rfl, rfl, rfl, rfl, rfl, rfl, rfl, rfl, rfl, rfl, rfl, rfl, rfl, rfl, rfl, rfl, rfl, rfl, rfl,
    rfl, rfl, rfl, rfl, rfl⟩
/-- `Dev.inc` changes `regs` only. -/
@[simp] theorem inc_frame (r : Row) (ix : List Nat) (n : Nat) :
    (d.inc r ix n).time = d.time ∧ (d.inc r ix n).pins = d.pins ∧ (d.inc r ix n).pcie = d.pcie ∧
    (d.inc r ix n).boot = d.boot ∧ (d.inc r ix n).out = d.out ∧ (d.inc r ix n).raised = d.raised ∧
    (d.inc r ix n).freeTick = d.freeTick ∧ (d.inc r ix n).cmds = d.cmds ∧ (d.inc r ix n).sq = d.sq ∧
    (d.inc r ix n).cq = d.cq ∧ (d.inc r ix n).eq = d.eq ∧ (d.inc r ix n).msix = d.msix ∧
    (d.inc r ix n).msixPending = d.msixPending ∧ (d.inc r ix n).vec = d.vec ∧ (d.inc r ix n).lowHeld = d.lowHeld ∧
    (d.inc r ix n).deferredWrites = d.deferredWrites ∧ (d.inc r ix n).measureHeld = d.measureHeld ∧
    (d.inc r ix n).caused = d.caused ∧ (d.inc r ix n).loadInForce = d.loadInForce ∧
    (d.inc r ix n).loadCmd = d.loadCmd ∧ (d.inc r ix n).unloadCmd = d.unloadCmd ∧ (d.inc r ix n).link = d.link ∧
    (d.inc r ix n).share = d.share ∧ (d.inc r ix n).volume = d.volume ∧ (d.inc r ix n).takes = d.takes ∧
    (d.inc r ix n).stripes = d.stripes ∧ (d.inc r ix n).nextStripe = d.nextStripe ∧ (d.inc r ix n).blks = d.blks ∧
    (d.inc r ix n).nextBlk = d.nextBlk ∧ (d.inc r ix n).moved = d.moved ∧
    (d.inc r ix n).unavailable = d.unavailable ∧ (d.inc r ix n).cat = d.cat ∧ (d.inc r ix n).ladder = d.ladder ∧
    (d.inc r ix n).railWait = d.railWait ∧ (d.inc r ix n).selftest = d.selftest ∧ (d.inc r ix n).scrub = d.scrub ∧
    (d.inc r ix n).basin = d.basin ∧ (d.inc r ix n).cache = d.cache ∧ (d.inc r ix n).thermal = d.thermal ∧
    (d.inc r ix n).measures = d.measures ∧ (d.inc r ix n).pk = d.pk ∧ (d.inc r ix n).spot = d.spot ∧
    (d.inc r ix n).ax = d.ax ∧ (d.inc r ix n).servo = d.servo ∧ (d.inc r ix n).trace = d.trace ∧
    (d.inc r ix n).sled = d.sled ∧ (d.inc r ix n).seek = d.seek ∧ (d.inc r ix n).homing = d.homing ∧
    (d.inc r ix n).spin = d.spin := by
  refine ⟨rfl, rfl, rfl, rfl, rfl, rfl, rfl, rfl, rfl, rfl, rfl, rfl, rfl, rfl, rfl, rfl, rfl, rfl, rfl, rfl, rfl,
    rfl, rfl, rfl, rfl, rfl, rfl, rfl, rfl, rfl, rfl, rfl, rfl, rfl, rfl, rfl, rfl, rfl, rfl, rfl, rfl, rfl, rfl, rfl,
    rfl, rfl, rfl, rfl, rfl⟩
/-- `Dev.dec` changes `regs` only. -/
@[simp] theorem dec_frame (r : Row) (ix : List Nat) (n : Nat) :
    (d.dec r ix n).time = d.time ∧ (d.dec r ix n).pins = d.pins ∧ (d.dec r ix n).pcie = d.pcie ∧
    (d.dec r ix n).boot = d.boot ∧ (d.dec r ix n).out = d.out ∧ (d.dec r ix n).raised = d.raised ∧
    (d.dec r ix n).freeTick = d.freeTick ∧ (d.dec r ix n).cmds = d.cmds ∧ (d.dec r ix n).sq = d.sq ∧
    (d.dec r ix n).cq = d.cq ∧ (d.dec r ix n).eq = d.eq ∧ (d.dec r ix n).msix = d.msix ∧
    (d.dec r ix n).msixPending = d.msixPending ∧ (d.dec r ix n).vec = d.vec ∧ (d.dec r ix n).lowHeld = d.lowHeld ∧
    (d.dec r ix n).deferredWrites = d.deferredWrites ∧ (d.dec r ix n).measureHeld = d.measureHeld ∧
    (d.dec r ix n).caused = d.caused ∧ (d.dec r ix n).loadInForce = d.loadInForce ∧
    (d.dec r ix n).loadCmd = d.loadCmd ∧ (d.dec r ix n).unloadCmd = d.unloadCmd ∧ (d.dec r ix n).link = d.link ∧
    (d.dec r ix n).share = d.share ∧ (d.dec r ix n).volume = d.volume ∧ (d.dec r ix n).takes = d.takes ∧
    (d.dec r ix n).stripes = d.stripes ∧ (d.dec r ix n).nextStripe = d.nextStripe ∧ (d.dec r ix n).blks = d.blks ∧
    (d.dec r ix n).nextBlk = d.nextBlk ∧ (d.dec r ix n).moved = d.moved ∧
    (d.dec r ix n).unavailable = d.unavailable ∧ (d.dec r ix n).cat = d.cat ∧ (d.dec r ix n).ladder = d.ladder ∧
    (d.dec r ix n).railWait = d.railWait ∧ (d.dec r ix n).selftest = d.selftest ∧ (d.dec r ix n).scrub = d.scrub ∧
    (d.dec r ix n).basin = d.basin ∧ (d.dec r ix n).cache = d.cache ∧ (d.dec r ix n).thermal = d.thermal ∧
    (d.dec r ix n).measures = d.measures ∧ (d.dec r ix n).pk = d.pk ∧ (d.dec r ix n).spot = d.spot ∧
    (d.dec r ix n).ax = d.ax ∧ (d.dec r ix n).servo = d.servo ∧ (d.dec r ix n).trace = d.trace ∧
    (d.dec r ix n).sled = d.sled ∧ (d.dec r ix n).seek = d.seek ∧ (d.dec r ix n).homing = d.homing ∧
    (d.dec r ix n).spin = d.spin := by
  refine ⟨rfl, rfl, rfl, rfl, rfl, rfl, rfl, rfl, rfl, rfl, rfl, rfl, rfl, rfl, rfl, rfl, rfl, rfl, rfl, rfl, rfl,
    rfl, rfl, rfl, rfl, rfl, rfl, rfl, rfl, rfl, rfl, rfl, rfl, rfl, rfl, rfl, rfl, rfl, rfl, rfl, rfl, rfl, rfl, rfl,
    rfl, rfl, rfl, rfl, rfl⟩
/-- `Dev.wr64` changes `regs` only. -/
@[simp] theorem wr64_frame (l h : Row) (ix : List Nat) (v : Nat) :
    (d.wr64 l h ix v).time = d.time ∧ (d.wr64 l h ix v).pins = d.pins ∧ (d.wr64 l h ix v).pcie = d.pcie ∧
    (d.wr64 l h ix v).boot = d.boot ∧ (d.wr64 l h ix v).out = d.out ∧ (d.wr64 l h ix v).raised = d.raised ∧
    (d.wr64 l h ix v).freeTick = d.freeTick ∧ (d.wr64 l h ix v).cmds = d.cmds ∧ (d.wr64 l h ix v).sq = d.sq ∧
    (d.wr64 l h ix v).cq = d.cq ∧ (d.wr64 l h ix v).eq = d.eq ∧ (d.wr64 l h ix v).msix = d.msix ∧
    (d.wr64 l h ix v).msixPending = d.msixPending ∧ (d.wr64 l h ix v).vec = d.vec ∧
    (d.wr64 l h ix v).lowHeld = d.lowHeld ∧ (d.wr64 l h ix v).deferredWrites = d.deferredWrites ∧
    (d.wr64 l h ix v).measureHeld = d.measureHeld ∧ (d.wr64 l h ix v).caused = d.caused ∧
    (d.wr64 l h ix v).loadInForce = d.loadInForce ∧ (d.wr64 l h ix v).loadCmd = d.loadCmd ∧
    (d.wr64 l h ix v).unloadCmd = d.unloadCmd ∧ (d.wr64 l h ix v).link = d.link ∧ (d.wr64 l h ix v).share = d.share ∧
    (d.wr64 l h ix v).volume = d.volume ∧ (d.wr64 l h ix v).takes = d.takes ∧ (d.wr64 l h ix v).stripes = d.stripes ∧
    (d.wr64 l h ix v).nextStripe = d.nextStripe ∧ (d.wr64 l h ix v).blks = d.blks ∧
    (d.wr64 l h ix v).nextBlk = d.nextBlk ∧ (d.wr64 l h ix v).moved = d.moved ∧
    (d.wr64 l h ix v).unavailable = d.unavailable ∧ (d.wr64 l h ix v).cat = d.cat ∧
    (d.wr64 l h ix v).ladder = d.ladder ∧ (d.wr64 l h ix v).railWait = d.railWait ∧
    (d.wr64 l h ix v).selftest = d.selftest ∧ (d.wr64 l h ix v).scrub = d.scrub ∧ (d.wr64 l h ix v).basin = d.basin ∧
    (d.wr64 l h ix v).cache = d.cache ∧ (d.wr64 l h ix v).thermal = d.thermal ∧
    (d.wr64 l h ix v).measures = d.measures ∧ (d.wr64 l h ix v).pk = d.pk ∧ (d.wr64 l h ix v).spot = d.spot ∧
    (d.wr64 l h ix v).ax = d.ax ∧ (d.wr64 l h ix v).servo = d.servo ∧ (d.wr64 l h ix v).trace = d.trace ∧
    (d.wr64 l h ix v).sled = d.sled ∧ (d.wr64 l h ix v).seek = d.seek ∧ (d.wr64 l h ix v).homing = d.homing ∧
    (d.wr64 l h ix v).spin = d.spin := by
  refine ⟨rfl, rfl, rfl, rfl, rfl, rfl, rfl, rfl, rfl, rfl, rfl, rfl, rfl, rfl, rfl, rfl, rfl, rfl, rfl, rfl, rfl,
    rfl, rfl, rfl, rfl, rfl, rfl, rfl, rfl, rfl, rfl, rfl, rfl, rfl, rfl, rfl, rfl, rfl, rfl, rfl, rfl, rfl, rfl, rfl,
    rfl, rfl, rfl, rfl, rfl⟩
/-- `Dev.emit` changes `out` only. -/
@[simp] theorem emit_frame (m : Msg) :
    (d.emit m).time = d.time ∧ (d.emit m).regs = d.regs ∧ (d.emit m).pins = d.pins ∧ (d.emit m).pcie = d.pcie ∧
    (d.emit m).boot = d.boot ∧ (d.emit m).raised = d.raised ∧ (d.emit m).freeTick = d.freeTick ∧
    (d.emit m).cmds = d.cmds ∧ (d.emit m).sq = d.sq ∧ (d.emit m).cq = d.cq ∧ (d.emit m).eq = d.eq ∧
    (d.emit m).msix = d.msix ∧ (d.emit m).msixPending = d.msixPending ∧ (d.emit m).vec = d.vec ∧
    (d.emit m).lowHeld = d.lowHeld ∧ (d.emit m).deferredWrites = d.deferredWrites ∧
    (d.emit m).measureHeld = d.measureHeld ∧ (d.emit m).caused = d.caused ∧ (d.emit m).loadInForce = d.loadInForce ∧
    (d.emit m).loadCmd = d.loadCmd ∧ (d.emit m).unloadCmd = d.unloadCmd ∧ (d.emit m).link = d.link ∧
    (d.emit m).share = d.share ∧ (d.emit m).volume = d.volume ∧ (d.emit m).takes = d.takes ∧
    (d.emit m).stripes = d.stripes ∧ (d.emit m).nextStripe = d.nextStripe ∧ (d.emit m).blks = d.blks ∧
    (d.emit m).nextBlk = d.nextBlk ∧ (d.emit m).moved = d.moved ∧ (d.emit m).unavailable = d.unavailable ∧
    (d.emit m).cat = d.cat ∧ (d.emit m).ladder = d.ladder ∧ (d.emit m).railWait = d.railWait ∧
    (d.emit m).selftest = d.selftest ∧ (d.emit m).scrub = d.scrub ∧ (d.emit m).basin = d.basin ∧
    (d.emit m).cache = d.cache ∧ (d.emit m).thermal = d.thermal ∧ (d.emit m).measures = d.measures ∧
    (d.emit m).pk = d.pk ∧ (d.emit m).spot = d.spot ∧ (d.emit m).ax = d.ax ∧ (d.emit m).servo = d.servo ∧
    (d.emit m).trace = d.trace ∧ (d.emit m).sled = d.sled ∧ (d.emit m).seek = d.seek ∧ (d.emit m).homing = d.homing ∧
    (d.emit m).spin = d.spin := by
  refine ⟨rfl, rfl, rfl, rfl, rfl, rfl, rfl, rfl, rfl, rfl, rfl, rfl, rfl, rfl, rfl, rfl, rfl, rfl, rfl, rfl, rfl,
    rfl, rfl, rfl, rfl, rfl, rfl, rfl, rfl, rfl, rfl, rfl, rfl, rfl, rfl, rfl, rfl, rfl, rfl, rfl, rfl, rfl, rfl, rfl,
    rfl, rfl, rfl, rfl, rfl⟩
/-- `Dev.raise` changes `raised` only. -/
@[simp] theorem raise_frame (a c : Nat) (b : Bytes) :
    (d.raise a c b).time = d.time ∧ (d.raise a c b).regs = d.regs ∧ (d.raise a c b).pins = d.pins ∧
    (d.raise a c b).pcie = d.pcie ∧ (d.raise a c b).boot = d.boot ∧ (d.raise a c b).out = d.out ∧
    (d.raise a c b).freeTick = d.freeTick ∧ (d.raise a c b).cmds = d.cmds ∧ (d.raise a c b).sq = d.sq ∧
    (d.raise a c b).cq = d.cq ∧ (d.raise a c b).eq = d.eq ∧ (d.raise a c b).msix = d.msix ∧
    (d.raise a c b).msixPending = d.msixPending ∧ (d.raise a c b).vec = d.vec ∧ (d.raise a c b).lowHeld = d.lowHeld ∧
    (d.raise a c b).deferredWrites = d.deferredWrites ∧ (d.raise a c b).measureHeld = d.measureHeld ∧
    (d.raise a c b).caused = d.caused ∧ (d.raise a c b).loadInForce = d.loadInForce ∧
    (d.raise a c b).loadCmd = d.loadCmd ∧ (d.raise a c b).unloadCmd = d.unloadCmd ∧ (d.raise a c b).link = d.link ∧
    (d.raise a c b).share = d.share ∧ (d.raise a c b).volume = d.volume ∧ (d.raise a c b).takes = d.takes ∧
    (d.raise a c b).stripes = d.stripes ∧ (d.raise a c b).nextStripe = d.nextStripe ∧ (d.raise a c b).blks = d.blks ∧
    (d.raise a c b).nextBlk = d.nextBlk ∧ (d.raise a c b).moved = d.moved ∧
    (d.raise a c b).unavailable = d.unavailable ∧ (d.raise a c b).cat = d.cat ∧ (d.raise a c b).ladder = d.ladder ∧
    (d.raise a c b).railWait = d.railWait ∧ (d.raise a c b).selftest = d.selftest ∧ (d.raise a c b).scrub = d.scrub ∧
    (d.raise a c b).basin = d.basin ∧ (d.raise a c b).cache = d.cache ∧ (d.raise a c b).thermal = d.thermal ∧
    (d.raise a c b).measures = d.measures ∧ (d.raise a c b).pk = d.pk ∧ (d.raise a c b).spot = d.spot ∧
    (d.raise a c b).ax = d.ax ∧ (d.raise a c b).servo = d.servo ∧ (d.raise a c b).trace = d.trace ∧
    (d.raise a c b).sled = d.sled ∧ (d.raise a c b).seek = d.seek ∧ (d.raise a c b).homing = d.homing ∧
    (d.raise a c b).spin = d.spin := by
  refine ⟨rfl, rfl, rfl, rfl, rfl, rfl, rfl, rfl, rfl, rfl, rfl, rfl, rfl, rfl, rfl, rfl, rfl, rfl, rfl, rfl, rfl,
    rfl, rfl, rfl, rfl, rfl, rfl, rfl, rfl, rfl, rfl, rfl, rfl, rfl, rfl, rfl, rfl, rfl, rfl, rfl, rfl, rfl, rfl, rfl,
    rfl, rfl, rfl, rfl, rfl⟩
/-- `Dev.raisePk` changes `raised` only. -/
@[simp] theorem raisePk_frame (p a c : Nat) (b : Bytes) :
    (d.raisePk p a c b).time = d.time ∧ (d.raisePk p a c b).regs = d.regs ∧ (d.raisePk p a c b).pins = d.pins ∧
    (d.raisePk p a c b).pcie = d.pcie ∧ (d.raisePk p a c b).boot = d.boot ∧ (d.raisePk p a c b).out = d.out ∧
    (d.raisePk p a c b).freeTick = d.freeTick ∧ (d.raisePk p a c b).cmds = d.cmds ∧ (d.raisePk p a c b).sq = d.sq ∧
    (d.raisePk p a c b).cq = d.cq ∧ (d.raisePk p a c b).eq = d.eq ∧ (d.raisePk p a c b).msix = d.msix ∧
    (d.raisePk p a c b).msixPending = d.msixPending ∧ (d.raisePk p a c b).vec = d.vec ∧
    (d.raisePk p a c b).lowHeld = d.lowHeld ∧ (d.raisePk p a c b).deferredWrites = d.deferredWrites ∧
    (d.raisePk p a c b).measureHeld = d.measureHeld ∧ (d.raisePk p a c b).caused = d.caused ∧
    (d.raisePk p a c b).loadInForce = d.loadInForce ∧ (d.raisePk p a c b).loadCmd = d.loadCmd ∧
    (d.raisePk p a c b).unloadCmd = d.unloadCmd ∧ (d.raisePk p a c b).link = d.link ∧
    (d.raisePk p a c b).share = d.share ∧ (d.raisePk p a c b).volume = d.volume ∧
    (d.raisePk p a c b).takes = d.takes ∧ (d.raisePk p a c b).stripes = d.stripes ∧
    (d.raisePk p a c b).nextStripe = d.nextStripe ∧ (d.raisePk p a c b).blks = d.blks ∧
    (d.raisePk p a c b).nextBlk = d.nextBlk ∧ (d.raisePk p a c b).moved = d.moved ∧
    (d.raisePk p a c b).unavailable = d.unavailable ∧ (d.raisePk p a c b).cat = d.cat ∧
    (d.raisePk p a c b).ladder = d.ladder ∧ (d.raisePk p a c b).railWait = d.railWait ∧
    (d.raisePk p a c b).selftest = d.selftest ∧ (d.raisePk p a c b).scrub = d.scrub ∧
    (d.raisePk p a c b).basin = d.basin ∧ (d.raisePk p a c b).cache = d.cache ∧
    (d.raisePk p a c b).thermal = d.thermal ∧ (d.raisePk p a c b).measures = d.measures ∧
    (d.raisePk p a c b).pk = d.pk ∧ (d.raisePk p a c b).spot = d.spot ∧ (d.raisePk p a c b).ax = d.ax ∧
    (d.raisePk p a c b).servo = d.servo ∧ (d.raisePk p a c b).trace = d.trace ∧ (d.raisePk p a c b).sled = d.sled ∧
    (d.raisePk p a c b).seek = d.seek ∧ (d.raisePk p a c b).homing = d.homing ∧ (d.raisePk p a c b).spin = d.spin := by
  refine ⟨rfl, rfl, rfl, rfl, rfl, rfl, rfl, rfl, rfl, rfl, rfl, rfl, rfl, rfl, rfl, rfl, rfl, rfl, rfl, rfl, rfl,
    rfl, rfl, rfl, rfl, rfl, rfl, rfl, rfl, rfl, rfl, rfl, rfl, rfl, rfl, rfl, rfl, rfl, rfl, rfl, rfl, rfl, rfl, rfl,
    rfl, rfl, rfl, rfl, rfl⟩
/-- `Dev.updSq` changes `sq` only. -/
@[simp] theorem updSq_frame (r : Nat) (f : SqState → SqState) :
    (d.updSq r f).time = d.time ∧ (d.updSq r f).regs = d.regs ∧ (d.updSq r f).pins = d.pins ∧
    (d.updSq r f).pcie = d.pcie ∧ (d.updSq r f).boot = d.boot ∧ (d.updSq r f).out = d.out ∧
    (d.updSq r f).raised = d.raised ∧ (d.updSq r f).freeTick = d.freeTick ∧ (d.updSq r f).cmds = d.cmds ∧
    (d.updSq r f).cq = d.cq ∧ (d.updSq r f).eq = d.eq ∧ (d.updSq r f).msix = d.msix ∧
    (d.updSq r f).msixPending = d.msixPending ∧ (d.updSq r f).vec = d.vec ∧ (d.updSq r f).lowHeld = d.lowHeld ∧
    (d.updSq r f).deferredWrites = d.deferredWrites ∧ (d.updSq r f).measureHeld = d.measureHeld ∧
    (d.updSq r f).caused = d.caused ∧ (d.updSq r f).loadInForce = d.loadInForce ∧ (d.updSq r f).loadCmd = d.loadCmd ∧
    (d.updSq r f).unloadCmd = d.unloadCmd ∧ (d.updSq r f).link = d.link ∧ (d.updSq r f).share = d.share ∧
    (d.updSq r f).volume = d.volume ∧ (d.updSq r f).takes = d.takes ∧ (d.updSq r f).stripes = d.stripes ∧
    (d.updSq r f).nextStripe = d.nextStripe ∧ (d.updSq r f).blks = d.blks ∧ (d.updSq r f).nextBlk = d.nextBlk ∧
    (d.updSq r f).moved = d.moved ∧ (d.updSq r f).unavailable = d.unavailable ∧ (d.updSq r f).cat = d.cat ∧
    (d.updSq r f).ladder = d.ladder ∧ (d.updSq r f).railWait = d.railWait ∧ (d.updSq r f).selftest = d.selftest ∧
    (d.updSq r f).scrub = d.scrub ∧ (d.updSq r f).basin = d.basin ∧ (d.updSq r f).cache = d.cache ∧
    (d.updSq r f).thermal = d.thermal ∧ (d.updSq r f).measures = d.measures ∧ (d.updSq r f).pk = d.pk ∧
    (d.updSq r f).spot = d.spot ∧ (d.updSq r f).ax = d.ax ∧ (d.updSq r f).servo = d.servo ∧
    (d.updSq r f).trace = d.trace ∧ (d.updSq r f).sled = d.sled ∧ (d.updSq r f).seek = d.seek ∧
    (d.updSq r f).homing = d.homing ∧ (d.updSq r f).spin = d.spin := by
  refine ⟨rfl, rfl, rfl, rfl, rfl, rfl, rfl, rfl, rfl, rfl, rfl, rfl, rfl, rfl, rfl, rfl, rfl, rfl, rfl, rfl, rfl,
    rfl, rfl, rfl, rfl, rfl, rfl, rfl, rfl, rfl, rfl, rfl, rfl, rfl, rfl, rfl, rfl, rfl, rfl, rfl, rfl, rfl, rfl, rfl,
    rfl, rfl, rfl, rfl, rfl⟩
/-- `Dev.updCq` changes `cq` only. -/
@[simp] theorem updCq_frame (r : Nat) (f : CqState → CqState) :
    (d.updCq r f).time = d.time ∧ (d.updCq r f).regs = d.regs ∧ (d.updCq r f).pins = d.pins ∧
    (d.updCq r f).pcie = d.pcie ∧ (d.updCq r f).boot = d.boot ∧ (d.updCq r f).out = d.out ∧
    (d.updCq r f).raised = d.raised ∧ (d.updCq r f).freeTick = d.freeTick ∧ (d.updCq r f).cmds = d.cmds ∧
    (d.updCq r f).sq = d.sq ∧ (d.updCq r f).eq = d.eq ∧ (d.updCq r f).msix = d.msix ∧
    (d.updCq r f).msixPending = d.msixPending ∧ (d.updCq r f).vec = d.vec ∧ (d.updCq r f).lowHeld = d.lowHeld ∧
    (d.updCq r f).deferredWrites = d.deferredWrites ∧ (d.updCq r f).measureHeld = d.measureHeld ∧
    (d.updCq r f).caused = d.caused ∧ (d.updCq r f).loadInForce = d.loadInForce ∧ (d.updCq r f).loadCmd = d.loadCmd ∧
    (d.updCq r f).unloadCmd = d.unloadCmd ∧ (d.updCq r f).link = d.link ∧ (d.updCq r f).share = d.share ∧
    (d.updCq r f).volume = d.volume ∧ (d.updCq r f).takes = d.takes ∧ (d.updCq r f).stripes = d.stripes ∧
    (d.updCq r f).nextStripe = d.nextStripe ∧ (d.updCq r f).blks = d.blks ∧ (d.updCq r f).nextBlk = d.nextBlk ∧
    (d.updCq r f).moved = d.moved ∧ (d.updCq r f).unavailable = d.unavailable ∧ (d.updCq r f).cat = d.cat ∧
    (d.updCq r f).ladder = d.ladder ∧ (d.updCq r f).railWait = d.railWait ∧ (d.updCq r f).selftest = d.selftest ∧
    (d.updCq r f).scrub = d.scrub ∧ (d.updCq r f).basin = d.basin ∧ (d.updCq r f).cache = d.cache ∧
    (d.updCq r f).thermal = d.thermal ∧ (d.updCq r f).measures = d.measures ∧ (d.updCq r f).pk = d.pk ∧
    (d.updCq r f).spot = d.spot ∧ (d.updCq r f).ax = d.ax ∧ (d.updCq r f).servo = d.servo ∧
    (d.updCq r f).trace = d.trace ∧ (d.updCq r f).sled = d.sled ∧ (d.updCq r f).seek = d.seek ∧
    (d.updCq r f).homing = d.homing ∧ (d.updCq r f).spin = d.spin := by
  refine ⟨rfl, rfl, rfl, rfl, rfl, rfl, rfl, rfl, rfl, rfl, rfl, rfl, rfl, rfl, rfl, rfl, rfl, rfl, rfl, rfl, rfl,
    rfl, rfl, rfl, rfl, rfl, rfl, rfl, rfl, rfl, rfl, rfl, rfl, rfl, rfl, rfl, rfl, rfl, rfl, rfl, rfl, rfl, rfl, rfl,
    rfl, rfl, rfl, rfl, rfl⟩
/-- `Dev.updEq` changes `eq` only. -/
@[simp] theorem updEq_frame (r : Nat) (f : EqState → EqState) :
    (d.updEq r f).time = d.time ∧ (d.updEq r f).regs = d.regs ∧ (d.updEq r f).pins = d.pins ∧
    (d.updEq r f).pcie = d.pcie ∧ (d.updEq r f).boot = d.boot ∧ (d.updEq r f).out = d.out ∧
    (d.updEq r f).raised = d.raised ∧ (d.updEq r f).freeTick = d.freeTick ∧ (d.updEq r f).cmds = d.cmds ∧
    (d.updEq r f).sq = d.sq ∧ (d.updEq r f).cq = d.cq ∧ (d.updEq r f).msix = d.msix ∧
    (d.updEq r f).msixPending = d.msixPending ∧ (d.updEq r f).vec = d.vec ∧ (d.updEq r f).lowHeld = d.lowHeld ∧
    (d.updEq r f).deferredWrites = d.deferredWrites ∧ (d.updEq r f).measureHeld = d.measureHeld ∧
    (d.updEq r f).caused = d.caused ∧ (d.updEq r f).loadInForce = d.loadInForce ∧ (d.updEq r f).loadCmd = d.loadCmd ∧
    (d.updEq r f).unloadCmd = d.unloadCmd ∧ (d.updEq r f).link = d.link ∧ (d.updEq r f).share = d.share ∧
    (d.updEq r f).volume = d.volume ∧ (d.updEq r f).takes = d.takes ∧ (d.updEq r f).stripes = d.stripes ∧
    (d.updEq r f).nextStripe = d.nextStripe ∧ (d.updEq r f).blks = d.blks ∧ (d.updEq r f).nextBlk = d.nextBlk ∧
    (d.updEq r f).moved = d.moved ∧ (d.updEq r f).unavailable = d.unavailable ∧ (d.updEq r f).cat = d.cat ∧
    (d.updEq r f).ladder = d.ladder ∧ (d.updEq r f).railWait = d.railWait ∧ (d.updEq r f).selftest = d.selftest ∧
    (d.updEq r f).scrub = d.scrub ∧ (d.updEq r f).basin = d.basin ∧ (d.updEq r f).cache = d.cache ∧
    (d.updEq r f).thermal = d.thermal ∧ (d.updEq r f).measures = d.measures ∧ (d.updEq r f).pk = d.pk ∧
    (d.updEq r f).spot = d.spot ∧ (d.updEq r f).ax = d.ax ∧ (d.updEq r f).servo = d.servo ∧
    (d.updEq r f).trace = d.trace ∧ (d.updEq r f).sled = d.sled ∧ (d.updEq r f).seek = d.seek ∧
    (d.updEq r f).homing = d.homing ∧ (d.updEq r f).spin = d.spin := by
  refine ⟨rfl, rfl, rfl, rfl, rfl, rfl, rfl, rfl, rfl, rfl, rfl, rfl, rfl, rfl, rfl, rfl, rfl, rfl, rfl, rfl, rfl,
    rfl, rfl, rfl, rfl, rfl, rfl, rfl, rfl, rfl, rfl, rfl, rfl, rfl, rfl, rfl, rfl, rfl, rfl, rfl, rfl, rfl, rfl, rfl,
    rfl, rfl, rfl, rfl, rfl⟩
/-- `Dev.updLk` changes `link` only. -/
@[simp] theorem updLk_frame (l : Nat) (f : Link → Link) :
    (d.updLk l f).time = d.time ∧ (d.updLk l f).regs = d.regs ∧ (d.updLk l f).pins = d.pins ∧
    (d.updLk l f).pcie = d.pcie ∧ (d.updLk l f).boot = d.boot ∧ (d.updLk l f).out = d.out ∧
    (d.updLk l f).raised = d.raised ∧ (d.updLk l f).freeTick = d.freeTick ∧ (d.updLk l f).cmds = d.cmds ∧
    (d.updLk l f).sq = d.sq ∧ (d.updLk l f).cq = d.cq ∧ (d.updLk l f).eq = d.eq ∧ (d.updLk l f).msix = d.msix ∧
    (d.updLk l f).msixPending = d.msixPending ∧ (d.updLk l f).vec = d.vec ∧ (d.updLk l f).lowHeld = d.lowHeld ∧
    (d.updLk l f).deferredWrites = d.deferredWrites ∧ (d.updLk l f).measureHeld = d.measureHeld ∧
    (d.updLk l f).caused = d.caused ∧ (d.updLk l f).loadInForce = d.loadInForce ∧ (d.updLk l f).loadCmd = d.loadCmd ∧
    (d.updLk l f).unloadCmd = d.unloadCmd ∧ (d.updLk l f).share = d.share ∧ (d.updLk l f).volume = d.volume ∧
    (d.updLk l f).takes = d.takes ∧ (d.updLk l f).stripes = d.stripes ∧ (d.updLk l f).nextStripe = d.nextStripe ∧
    (d.updLk l f).blks = d.blks ∧ (d.updLk l f).nextBlk = d.nextBlk ∧ (d.updLk l f).moved = d.moved ∧
    (d.updLk l f).unavailable = d.unavailable ∧ (d.updLk l f).cat = d.cat ∧ (d.updLk l f).ladder = d.ladder ∧
    (d.updLk l f).railWait = d.railWait ∧ (d.updLk l f).selftest = d.selftest ∧ (d.updLk l f).scrub = d.scrub ∧
    (d.updLk l f).basin = d.basin ∧ (d.updLk l f).cache = d.cache ∧ (d.updLk l f).thermal = d.thermal ∧
    (d.updLk l f).measures = d.measures ∧ (d.updLk l f).pk = d.pk ∧ (d.updLk l f).spot = d.spot ∧
    (d.updLk l f).ax = d.ax ∧ (d.updLk l f).servo = d.servo ∧ (d.updLk l f).trace = d.trace ∧
    (d.updLk l f).sled = d.sled ∧ (d.updLk l f).seek = d.seek ∧ (d.updLk l f).homing = d.homing ∧
    (d.updLk l f).spin = d.spin := by
  refine ⟨rfl, rfl, rfl, rfl, rfl, rfl, rfl, rfl, rfl, rfl, rfl, rfl, rfl, rfl, rfl, rfl, rfl, rfl, rfl, rfl, rfl,
    rfl, rfl, rfl, rfl, rfl, rfl, rfl, rfl, rfl, rfl, rfl, rfl, rfl, rfl, rfl, rfl, rfl, rfl, rfl, rfl, rfl, rfl, rfl,
    rfl, rfl, rfl, rfl, rfl⟩
/-- `Dev.queuePkt` changes `link` only. -/
@[simp] theorem queuePkt_frame (l t : Nat) (b : Bytes) :
    (d.queuePkt l t b).time = d.time ∧ (d.queuePkt l t b).regs = d.regs ∧ (d.queuePkt l t b).pins = d.pins ∧
    (d.queuePkt l t b).pcie = d.pcie ∧ (d.queuePkt l t b).boot = d.boot ∧ (d.queuePkt l t b).out = d.out ∧
    (d.queuePkt l t b).raised = d.raised ∧ (d.queuePkt l t b).freeTick = d.freeTick ∧
    (d.queuePkt l t b).cmds = d.cmds ∧ (d.queuePkt l t b).sq = d.sq ∧ (d.queuePkt l t b).cq = d.cq ∧
    (d.queuePkt l t b).eq = d.eq ∧ (d.queuePkt l t b).msix = d.msix ∧
    (d.queuePkt l t b).msixPending = d.msixPending ∧ (d.queuePkt l t b).vec = d.vec ∧
    (d.queuePkt l t b).lowHeld = d.lowHeld ∧ (d.queuePkt l t b).deferredWrites = d.deferredWrites ∧
    (d.queuePkt l t b).measureHeld = d.measureHeld ∧ (d.queuePkt l t b).caused = d.caused ∧
    (d.queuePkt l t b).loadInForce = d.loadInForce ∧ (d.queuePkt l t b).loadCmd = d.loadCmd ∧
    (d.queuePkt l t b).unloadCmd = d.unloadCmd ∧ (d.queuePkt l t b).share = d.share ∧
    (d.queuePkt l t b).volume = d.volume ∧ (d.queuePkt l t b).takes = d.takes ∧
    (d.queuePkt l t b).stripes = d.stripes ∧ (d.queuePkt l t b).nextStripe = d.nextStripe ∧
    (d.queuePkt l t b).blks = d.blks ∧ (d.queuePkt l t b).nextBlk = d.nextBlk ∧ (d.queuePkt l t b).moved = d.moved ∧
    (d.queuePkt l t b).unavailable = d.unavailable ∧ (d.queuePkt l t b).cat = d.cat ∧
    (d.queuePkt l t b).ladder = d.ladder ∧ (d.queuePkt l t b).railWait = d.railWait ∧
    (d.queuePkt l t b).selftest = d.selftest ∧ (d.queuePkt l t b).scrub = d.scrub ∧
    (d.queuePkt l t b).basin = d.basin ∧ (d.queuePkt l t b).cache = d.cache ∧
    (d.queuePkt l t b).thermal = d.thermal ∧ (d.queuePkt l t b).measures = d.measures ∧
    (d.queuePkt l t b).pk = d.pk ∧ (d.queuePkt l t b).spot = d.spot ∧ (d.queuePkt l t b).ax = d.ax ∧
    (d.queuePkt l t b).servo = d.servo ∧ (d.queuePkt l t b).trace = d.trace ∧ (d.queuePkt l t b).sled = d.sled ∧
    (d.queuePkt l t b).seek = d.seek ∧ (d.queuePkt l t b).homing = d.homing ∧ (d.queuePkt l t b).spin = d.spin := by
  refine ⟨rfl, rfl, rfl, rfl, rfl, rfl, rfl, rfl, rfl, rfl, rfl, rfl, rfl, rfl, rfl, rfl, rfl, rfl, rfl, rfl, rfl,
    rfl, rfl, rfl, rfl, rfl, rfl, rfl, rfl, rfl, rfl, rfl, rfl, rfl, rfl, rfl, rfl, rfl, rfl, rfl, rfl, rfl, rfl, rfl,
    rfl, rfl, rfl, rfl, rfl⟩
/-- `Dev.updBasin` changes `basin` only. -/
@[simp] theorem updBasin_frame (f : Basin → Basin) :
    (d.updBasin f).time = d.time ∧ (d.updBasin f).regs = d.regs ∧ (d.updBasin f).pins = d.pins ∧
    (d.updBasin f).pcie = d.pcie ∧ (d.updBasin f).boot = d.boot ∧ (d.updBasin f).out = d.out ∧
    (d.updBasin f).raised = d.raised ∧ (d.updBasin f).freeTick = d.freeTick ∧ (d.updBasin f).cmds = d.cmds ∧
    (d.updBasin f).sq = d.sq ∧ (d.updBasin f).cq = d.cq ∧ (d.updBasin f).eq = d.eq ∧ (d.updBasin f).msix = d.msix ∧
    (d.updBasin f).msixPending = d.msixPending ∧ (d.updBasin f).vec = d.vec ∧ (d.updBasin f).lowHeld = d.lowHeld ∧
    (d.updBasin f).deferredWrites = d.deferredWrites ∧ (d.updBasin f).measureHeld = d.measureHeld ∧
    (d.updBasin f).caused = d.caused ∧ (d.updBasin f).loadInForce = d.loadInForce ∧
    (d.updBasin f).loadCmd = d.loadCmd ∧ (d.updBasin f).unloadCmd = d.unloadCmd ∧ (d.updBasin f).link = d.link ∧
    (d.updBasin f).share = d.share ∧ (d.updBasin f).volume = d.volume ∧ (d.updBasin f).takes = d.takes ∧
    (d.updBasin f).stripes = d.stripes ∧ (d.updBasin f).nextStripe = d.nextStripe ∧ (d.updBasin f).blks = d.blks ∧
    (d.updBasin f).nextBlk = d.nextBlk ∧ (d.updBasin f).moved = d.moved ∧
    (d.updBasin f).unavailable = d.unavailable ∧ (d.updBasin f).cat = d.cat ∧ (d.updBasin f).ladder = d.ladder ∧
    (d.updBasin f).railWait = d.railWait ∧ (d.updBasin f).selftest = d.selftest ∧ (d.updBasin f).scrub = d.scrub ∧
    (d.updBasin f).cache = d.cache ∧ (d.updBasin f).thermal = d.thermal ∧ (d.updBasin f).measures = d.measures ∧
    (d.updBasin f).pk = d.pk ∧ (d.updBasin f).spot = d.spot ∧ (d.updBasin f).ax = d.ax ∧
    (d.updBasin f).servo = d.servo ∧ (d.updBasin f).trace = d.trace ∧ (d.updBasin f).sled = d.sled ∧
    (d.updBasin f).seek = d.seek ∧ (d.updBasin f).homing = d.homing ∧ (d.updBasin f).spin = d.spin := by
  refine ⟨rfl, rfl, rfl, rfl, rfl, rfl, rfl, rfl, rfl, rfl, rfl, rfl, rfl, rfl, rfl, rfl, rfl, rfl, rfl, rfl, rfl,
    rfl, rfl, rfl, rfl, rfl, rfl, rfl, rfl, rfl, rfl, rfl, rfl, rfl, rfl, rfl, rfl, rfl, rfl, rfl, rfl, rfl, rfl, rfl,
    rfl, rfl, rfl, rfl, rfl⟩
/-- `Dev.updCache` changes `cache` only. -/
@[simp] theorem updCache_frame (f : Cache → Cache) :
    (d.updCache f).time = d.time ∧ (d.updCache f).regs = d.regs ∧ (d.updCache f).pins = d.pins ∧
    (d.updCache f).pcie = d.pcie ∧ (d.updCache f).boot = d.boot ∧ (d.updCache f).out = d.out ∧
    (d.updCache f).raised = d.raised ∧ (d.updCache f).freeTick = d.freeTick ∧ (d.updCache f).cmds = d.cmds ∧
    (d.updCache f).sq = d.sq ∧ (d.updCache f).cq = d.cq ∧ (d.updCache f).eq = d.eq ∧ (d.updCache f).msix = d.msix ∧
    (d.updCache f).msixPending = d.msixPending ∧ (d.updCache f).vec = d.vec ∧ (d.updCache f).lowHeld = d.lowHeld ∧
    (d.updCache f).deferredWrites = d.deferredWrites ∧ (d.updCache f).measureHeld = d.measureHeld ∧
    (d.updCache f).caused = d.caused ∧ (d.updCache f).loadInForce = d.loadInForce ∧
    (d.updCache f).loadCmd = d.loadCmd ∧ (d.updCache f).unloadCmd = d.unloadCmd ∧ (d.updCache f).link = d.link ∧
    (d.updCache f).share = d.share ∧ (d.updCache f).volume = d.volume ∧ (d.updCache f).takes = d.takes ∧
    (d.updCache f).stripes = d.stripes ∧ (d.updCache f).nextStripe = d.nextStripe ∧ (d.updCache f).blks = d.blks ∧
    (d.updCache f).nextBlk = d.nextBlk ∧ (d.updCache f).moved = d.moved ∧
    (d.updCache f).unavailable = d.unavailable ∧ (d.updCache f).cat = d.cat ∧ (d.updCache f).ladder = d.ladder ∧
    (d.updCache f).railWait = d.railWait ∧ (d.updCache f).selftest = d.selftest ∧ (d.updCache f).scrub = d.scrub ∧
    (d.updCache f).basin = d.basin ∧ (d.updCache f).thermal = d.thermal ∧ (d.updCache f).measures = d.measures ∧
    (d.updCache f).pk = d.pk ∧ (d.updCache f).spot = d.spot ∧ (d.updCache f).ax = d.ax ∧
    (d.updCache f).servo = d.servo ∧ (d.updCache f).trace = d.trace ∧ (d.updCache f).sled = d.sled ∧
    (d.updCache f).seek = d.seek ∧ (d.updCache f).homing = d.homing ∧ (d.updCache f).spin = d.spin := by
  refine ⟨rfl, rfl, rfl, rfl, rfl, rfl, rfl, rfl, rfl, rfl, rfl, rfl, rfl, rfl, rfl, rfl, rfl, rfl, rfl, rfl, rfl,
    rfl, rfl, rfl, rfl, rfl, rfl, rfl, rfl, rfl, rfl, rfl, rfl, rfl, rfl, rfl, rfl, rfl, rfl, rfl, rfl, rfl, rfl, rfl,
    rfl, rfl, rfl, rfl, rfl⟩
/-- `Dev.updTh` changes `thermal` only. -/
@[simp] theorem updTh_frame (f : Thermal → Thermal) :
    (d.updTh f).time = d.time ∧ (d.updTh f).regs = d.regs ∧ (d.updTh f).pins = d.pins ∧ (d.updTh f).pcie = d.pcie ∧
    (d.updTh f).boot = d.boot ∧ (d.updTh f).out = d.out ∧ (d.updTh f).raised = d.raised ∧
    (d.updTh f).freeTick = d.freeTick ∧ (d.updTh f).cmds = d.cmds ∧ (d.updTh f).sq = d.sq ∧ (d.updTh f).cq = d.cq ∧
    (d.updTh f).eq = d.eq ∧ (d.updTh f).msix = d.msix ∧ (d.updTh f).msixPending = d.msixPending ∧
    (d.updTh f).vec = d.vec ∧ (d.updTh f).lowHeld = d.lowHeld ∧ (d.updTh f).deferredWrites = d.deferredWrites ∧
    (d.updTh f).measureHeld = d.measureHeld ∧ (d.updTh f).caused = d.caused ∧
    (d.updTh f).loadInForce = d.loadInForce ∧ (d.updTh f).loadCmd = d.loadCmd ∧ (d.updTh f).unloadCmd = d.unloadCmd ∧
    (d.updTh f).link = d.link ∧ (d.updTh f).share = d.share ∧ (d.updTh f).volume = d.volume ∧
    (d.updTh f).takes = d.takes ∧ (d.updTh f).stripes = d.stripes ∧ (d.updTh f).nextStripe = d.nextStripe ∧
    (d.updTh f).blks = d.blks ∧ (d.updTh f).nextBlk = d.nextBlk ∧ (d.updTh f).moved = d.moved ∧
    (d.updTh f).unavailable = d.unavailable ∧ (d.updTh f).cat = d.cat ∧ (d.updTh f).ladder = d.ladder ∧
    (d.updTh f).railWait = d.railWait ∧ (d.updTh f).selftest = d.selftest ∧ (d.updTh f).scrub = d.scrub ∧
    (d.updTh f).basin = d.basin ∧ (d.updTh f).cache = d.cache ∧ (d.updTh f).measures = d.measures ∧
    (d.updTh f).pk = d.pk ∧ (d.updTh f).spot = d.spot ∧ (d.updTh f).ax = d.ax ∧ (d.updTh f).servo = d.servo ∧
    (d.updTh f).trace = d.trace ∧ (d.updTh f).sled = d.sled ∧ (d.updTh f).seek = d.seek ∧
    (d.updTh f).homing = d.homing ∧ (d.updTh f).spin = d.spin := by
  refine ⟨rfl, rfl, rfl, rfl, rfl, rfl, rfl, rfl, rfl, rfl, rfl, rfl, rfl, rfl, rfl, rfl, rfl, rfl, rfl, rfl, rfl,
    rfl, rfl, rfl, rfl, rfl, rfl, rfl, rfl, rfl, rfl, rfl, rfl, rfl, rfl, rfl, rfl, rfl, rfl, rfl, rfl, rfl, rfl, rfl,
    rfl, rfl, rfl, rfl, rfl⟩
/-- `Dev.updBoot` changes `boot` only. -/
@[simp] theorem updBoot_frame (f : Boot → Boot) :
    (d.updBoot f).time = d.time ∧ (d.updBoot f).regs = d.regs ∧ (d.updBoot f).pins = d.pins ∧
    (d.updBoot f).pcie = d.pcie ∧ (d.updBoot f).out = d.out ∧ (d.updBoot f).raised = d.raised ∧
    (d.updBoot f).freeTick = d.freeTick ∧ (d.updBoot f).cmds = d.cmds ∧ (d.updBoot f).sq = d.sq ∧
    (d.updBoot f).cq = d.cq ∧ (d.updBoot f).eq = d.eq ∧ (d.updBoot f).msix = d.msix ∧
    (d.updBoot f).msixPending = d.msixPending ∧ (d.updBoot f).vec = d.vec ∧ (d.updBoot f).lowHeld = d.lowHeld ∧
    (d.updBoot f).deferredWrites = d.deferredWrites ∧ (d.updBoot f).measureHeld = d.measureHeld ∧
    (d.updBoot f).caused = d.caused ∧ (d.updBoot f).loadInForce = d.loadInForce ∧ (d.updBoot f).loadCmd = d.loadCmd ∧
    (d.updBoot f).unloadCmd = d.unloadCmd ∧ (d.updBoot f).link = d.link ∧ (d.updBoot f).share = d.share ∧
    (d.updBoot f).volume = d.volume ∧ (d.updBoot f).takes = d.takes ∧ (d.updBoot f).stripes = d.stripes ∧
    (d.updBoot f).nextStripe = d.nextStripe ∧ (d.updBoot f).blks = d.blks ∧ (d.updBoot f).nextBlk = d.nextBlk ∧
    (d.updBoot f).moved = d.moved ∧ (d.updBoot f).unavailable = d.unavailable ∧ (d.updBoot f).cat = d.cat ∧
    (d.updBoot f).ladder = d.ladder ∧ (d.updBoot f).railWait = d.railWait ∧ (d.updBoot f).selftest = d.selftest ∧
    (d.updBoot f).scrub = d.scrub ∧ (d.updBoot f).basin = d.basin ∧ (d.updBoot f).cache = d.cache ∧
    (d.updBoot f).thermal = d.thermal ∧ (d.updBoot f).measures = d.measures ∧ (d.updBoot f).pk = d.pk ∧
    (d.updBoot f).spot = d.spot ∧ (d.updBoot f).ax = d.ax ∧ (d.updBoot f).servo = d.servo ∧
    (d.updBoot f).trace = d.trace ∧ (d.updBoot f).sled = d.sled ∧ (d.updBoot f).seek = d.seek ∧
    (d.updBoot f).homing = d.homing ∧ (d.updBoot f).spin = d.spin := by
  refine ⟨rfl, rfl, rfl, rfl, rfl, rfl, rfl, rfl, rfl, rfl, rfl, rfl, rfl, rfl, rfl, rfl, rfl, rfl, rfl, rfl, rfl,
    rfl, rfl, rfl, rfl, rfl, rfl, rfl, rfl, rfl, rfl, rfl, rfl, rfl, rfl, rfl, rfl, rfl, rfl, rfl, rfl, rfl, rfl, rfl,
    rfl, rfl, rfl, rfl, rfl⟩
/-- `Dev.updPins` changes `pins` only. -/
@[simp] theorem updPins_frame (f : Pins → Pins) :
    (d.updPins f).time = d.time ∧ (d.updPins f).regs = d.regs ∧ (d.updPins f).pcie = d.pcie ∧
    (d.updPins f).boot = d.boot ∧ (d.updPins f).out = d.out ∧ (d.updPins f).raised = d.raised ∧
    (d.updPins f).freeTick = d.freeTick ∧ (d.updPins f).cmds = d.cmds ∧ (d.updPins f).sq = d.sq ∧
    (d.updPins f).cq = d.cq ∧ (d.updPins f).eq = d.eq ∧ (d.updPins f).msix = d.msix ∧
    (d.updPins f).msixPending = d.msixPending ∧ (d.updPins f).vec = d.vec ∧ (d.updPins f).lowHeld = d.lowHeld ∧
    (d.updPins f).deferredWrites = d.deferredWrites ∧ (d.updPins f).measureHeld = d.measureHeld ∧
    (d.updPins f).caused = d.caused ∧ (d.updPins f).loadInForce = d.loadInForce ∧ (d.updPins f).loadCmd = d.loadCmd ∧
    (d.updPins f).unloadCmd = d.unloadCmd ∧ (d.updPins f).link = d.link ∧ (d.updPins f).share = d.share ∧
    (d.updPins f).volume = d.volume ∧ (d.updPins f).takes = d.takes ∧ (d.updPins f).stripes = d.stripes ∧
    (d.updPins f).nextStripe = d.nextStripe ∧ (d.updPins f).blks = d.blks ∧ (d.updPins f).nextBlk = d.nextBlk ∧
    (d.updPins f).moved = d.moved ∧ (d.updPins f).unavailable = d.unavailable ∧ (d.updPins f).cat = d.cat ∧
    (d.updPins f).ladder = d.ladder ∧ (d.updPins f).railWait = d.railWait ∧ (d.updPins f).selftest = d.selftest ∧
    (d.updPins f).scrub = d.scrub ∧ (d.updPins f).basin = d.basin ∧ (d.updPins f).cache = d.cache ∧
    (d.updPins f).thermal = d.thermal ∧ (d.updPins f).measures = d.measures ∧ (d.updPins f).pk = d.pk ∧
    (d.updPins f).spot = d.spot ∧ (d.updPins f).ax = d.ax ∧ (d.updPins f).servo = d.servo ∧
    (d.updPins f).trace = d.trace ∧ (d.updPins f).sled = d.sled ∧ (d.updPins f).seek = d.seek ∧
    (d.updPins f).homing = d.homing ∧ (d.updPins f).spin = d.spin := by
  refine ⟨rfl, rfl, rfl, rfl, rfl, rfl, rfl, rfl, rfl, rfl, rfl, rfl, rfl, rfl, rfl, rfl, rfl, rfl, rfl, rfl, rfl,
    rfl, rfl, rfl, rfl, rfl, rfl, rfl, rfl, rfl, rfl, rfl, rfl, rfl, rfl, rfl, rfl, rfl, rfl, rfl, rfl, rfl, rfl, rfl,
    rfl, rfl, rfl, rfl, rfl⟩
/-- `Dev.updCmd` changes `cmds` only. -/
@[simp] theorem updCmd_frame (o : Origin) (f : Cmd → Cmd) :
    (d.updCmd o f).time = d.time ∧ (d.updCmd o f).regs = d.regs ∧ (d.updCmd o f).pins = d.pins ∧
    (d.updCmd o f).pcie = d.pcie ∧ (d.updCmd o f).boot = d.boot ∧ (d.updCmd o f).out = d.out ∧
    (d.updCmd o f).raised = d.raised ∧ (d.updCmd o f).freeTick = d.freeTick ∧ (d.updCmd o f).sq = d.sq ∧
    (d.updCmd o f).cq = d.cq ∧ (d.updCmd o f).eq = d.eq ∧ (d.updCmd o f).msix = d.msix ∧
    (d.updCmd o f).msixPending = d.msixPending ∧ (d.updCmd o f).vec = d.vec ∧ (d.updCmd o f).lowHeld = d.lowHeld ∧
    (d.updCmd o f).deferredWrites = d.deferredWrites ∧ (d.updCmd o f).measureHeld = d.measureHeld ∧
    (d.updCmd o f).caused = d.caused ∧ (d.updCmd o f).loadInForce = d.loadInForce ∧
    (d.updCmd o f).loadCmd = d.loadCmd ∧ (d.updCmd o f).unloadCmd = d.unloadCmd ∧ (d.updCmd o f).link = d.link ∧
    (d.updCmd o f).share = d.share ∧ (d.updCmd o f).volume = d.volume ∧ (d.updCmd o f).takes = d.takes ∧
    (d.updCmd o f).stripes = d.stripes ∧ (d.updCmd o f).nextStripe = d.nextStripe ∧ (d.updCmd o f).blks = d.blks ∧
    (d.updCmd o f).nextBlk = d.nextBlk ∧ (d.updCmd o f).moved = d.moved ∧
    (d.updCmd o f).unavailable = d.unavailable ∧ (d.updCmd o f).cat = d.cat ∧ (d.updCmd o f).ladder = d.ladder ∧
    (d.updCmd o f).railWait = d.railWait ∧ (d.updCmd o f).selftest = d.selftest ∧ (d.updCmd o f).scrub = d.scrub ∧
    (d.updCmd o f).basin = d.basin ∧ (d.updCmd o f).cache = d.cache ∧ (d.updCmd o f).thermal = d.thermal ∧
    (d.updCmd o f).measures = d.measures ∧ (d.updCmd o f).pk = d.pk ∧ (d.updCmd o f).spot = d.spot ∧
    (d.updCmd o f).ax = d.ax ∧ (d.updCmd o f).servo = d.servo ∧ (d.updCmd o f).trace = d.trace ∧
    (d.updCmd o f).sled = d.sled ∧ (d.updCmd o f).seek = d.seek ∧ (d.updCmd o f).homing = d.homing ∧
    (d.updCmd o f).spin = d.spin := by
  refine ⟨rfl, rfl, rfl, rfl, rfl, rfl, rfl, rfl, rfl, rfl, rfl, rfl, rfl, rfl, rfl, rfl, rfl, rfl, rfl, rfl, rfl,
    rfl, rfl, rfl, rfl, rfl, rfl, rfl, rfl, rfl, rfl, rfl, rfl, rfl, rfl, rfl, rfl, rfl, rfl, rfl, rfl, rfl, rfl, rfl,
    rfl, rfl, rfl, rfl, rfl⟩
/-- `Dev.updPk` changes `pk` only. -/
@[simp] theorem updPk_frame (p : Nat) (f : Pk → Pk) :
    (d.updPk p f).time = d.time ∧ (d.updPk p f).regs = d.regs ∧ (d.updPk p f).pins = d.pins ∧
    (d.updPk p f).pcie = d.pcie ∧ (d.updPk p f).boot = d.boot ∧ (d.updPk p f).out = d.out ∧
    (d.updPk p f).raised = d.raised ∧ (d.updPk p f).freeTick = d.freeTick ∧ (d.updPk p f).cmds = d.cmds ∧
    (d.updPk p f).sq = d.sq ∧ (d.updPk p f).cq = d.cq ∧ (d.updPk p f).eq = d.eq ∧ (d.updPk p f).msix = d.msix ∧
    (d.updPk p f).msixPending = d.msixPending ∧ (d.updPk p f).vec = d.vec ∧ (d.updPk p f).lowHeld = d.lowHeld ∧
    (d.updPk p f).deferredWrites = d.deferredWrites ∧ (d.updPk p f).measureHeld = d.measureHeld ∧
    (d.updPk p f).caused = d.caused ∧ (d.updPk p f).loadInForce = d.loadInForce ∧ (d.updPk p f).loadCmd = d.loadCmd ∧
    (d.updPk p f).unloadCmd = d.unloadCmd ∧ (d.updPk p f).link = d.link ∧ (d.updPk p f).share = d.share ∧
    (d.updPk p f).volume = d.volume ∧ (d.updPk p f).takes = d.takes ∧ (d.updPk p f).stripes = d.stripes ∧
    (d.updPk p f).nextStripe = d.nextStripe ∧ (d.updPk p f).blks = d.blks ∧ (d.updPk p f).nextBlk = d.nextBlk ∧
    (d.updPk p f).moved = d.moved ∧ (d.updPk p f).unavailable = d.unavailable ∧ (d.updPk p f).cat = d.cat ∧
    (d.updPk p f).ladder = d.ladder ∧ (d.updPk p f).railWait = d.railWait ∧ (d.updPk p f).selftest = d.selftest ∧
    (d.updPk p f).scrub = d.scrub ∧ (d.updPk p f).basin = d.basin ∧ (d.updPk p f).cache = d.cache ∧
    (d.updPk p f).thermal = d.thermal ∧ (d.updPk p f).measures = d.measures ∧ (d.updPk p f).spot = d.spot ∧
    (d.updPk p f).ax = d.ax ∧ (d.updPk p f).servo = d.servo ∧ (d.updPk p f).trace = d.trace ∧
    (d.updPk p f).sled = d.sled ∧ (d.updPk p f).seek = d.seek ∧ (d.updPk p f).homing = d.homing ∧
    (d.updPk p f).spin = d.spin := by
  refine ⟨rfl, rfl, rfl, rfl, rfl, rfl, rfl, rfl, rfl, rfl, rfl, rfl, rfl, rfl, rfl, rfl, rfl, rfl, rfl, rfl, rfl,
    rfl, rfl, rfl, rfl, rfl, rfl, rfl, rfl, rfl, rfl, rfl, rfl, rfl, rfl, rfl, rfl, rfl, rfl, rfl, rfl, rfl, rfl, rfl,
    rfl, rfl, rfl, rfl, rfl⟩
/-- `Dev.updTake` changes `takes` only. -/
@[simp] theorem updTake_frame (i : Nat) (f : Take → Take) :
    (d.updTake i f).time = d.time ∧ (d.updTake i f).regs = d.regs ∧ (d.updTake i f).pins = d.pins ∧
    (d.updTake i f).pcie = d.pcie ∧ (d.updTake i f).boot = d.boot ∧ (d.updTake i f).out = d.out ∧
    (d.updTake i f).raised = d.raised ∧ (d.updTake i f).freeTick = d.freeTick ∧ (d.updTake i f).cmds = d.cmds ∧
    (d.updTake i f).sq = d.sq ∧ (d.updTake i f).cq = d.cq ∧ (d.updTake i f).eq = d.eq ∧
    (d.updTake i f).msix = d.msix ∧ (d.updTake i f).msixPending = d.msixPending ∧ (d.updTake i f).vec = d.vec ∧
    (d.updTake i f).lowHeld = d.lowHeld ∧ (d.updTake i f).deferredWrites = d.deferredWrites ∧
    (d.updTake i f).measureHeld = d.measureHeld ∧ (d.updTake i f).caused = d.caused ∧
    (d.updTake i f).loadInForce = d.loadInForce ∧ (d.updTake i f).loadCmd = d.loadCmd ∧
    (d.updTake i f).unloadCmd = d.unloadCmd ∧ (d.updTake i f).link = d.link ∧ (d.updTake i f).share = d.share ∧
    (d.updTake i f).volume = d.volume ∧ (d.updTake i f).stripes = d.stripes ∧
    (d.updTake i f).nextStripe = d.nextStripe ∧ (d.updTake i f).blks = d.blks ∧ (d.updTake i f).nextBlk = d.nextBlk ∧
    (d.updTake i f).moved = d.moved ∧ (d.updTake i f).unavailable = d.unavailable ∧ (d.updTake i f).cat = d.cat ∧
    (d.updTake i f).ladder = d.ladder ∧ (d.updTake i f).railWait = d.railWait ∧
    (d.updTake i f).selftest = d.selftest ∧ (d.updTake i f).scrub = d.scrub ∧ (d.updTake i f).basin = d.basin ∧
    (d.updTake i f).cache = d.cache ∧ (d.updTake i f).thermal = d.thermal ∧ (d.updTake i f).measures = d.measures ∧
    (d.updTake i f).pk = d.pk ∧ (d.updTake i f).spot = d.spot ∧ (d.updTake i f).ax = d.ax ∧
    (d.updTake i f).servo = d.servo ∧ (d.updTake i f).trace = d.trace ∧ (d.updTake i f).sled = d.sled ∧
    (d.updTake i f).seek = d.seek ∧ (d.updTake i f).homing = d.homing ∧ (d.updTake i f).spin = d.spin := by
  refine ⟨rfl, rfl, rfl, rfl, rfl, rfl, rfl, rfl, rfl, rfl, rfl, rfl, rfl, rfl, rfl, rfl, rfl, rfl, rfl, rfl, rfl,
    rfl, rfl, rfl, rfl, rfl, rfl, rfl, rfl, rfl, rfl, rfl, rfl, rfl, rfl, rfl, rfl, rfl, rfl, rfl, rfl, rfl, rfl, rfl,
    rfl, rfl, rfl, rfl, rfl⟩
/-- `Dev.updStripe` changes `stripes` only. -/
@[simp] theorem updStripe_frame (i : Nat) (f : Stripe → Stripe) :
    (d.updStripe i f).time = d.time ∧ (d.updStripe i f).regs = d.regs ∧ (d.updStripe i f).pins = d.pins ∧
    (d.updStripe i f).pcie = d.pcie ∧ (d.updStripe i f).boot = d.boot ∧ (d.updStripe i f).out = d.out ∧
    (d.updStripe i f).raised = d.raised ∧ (d.updStripe i f).freeTick = d.freeTick ∧ (d.updStripe i f).cmds = d.cmds ∧
    (d.updStripe i f).sq = d.sq ∧ (d.updStripe i f).cq = d.cq ∧ (d.updStripe i f).eq = d.eq ∧
    (d.updStripe i f).msix = d.msix ∧ (d.updStripe i f).msixPending = d.msixPending ∧ (d.updStripe i f).vec = d.vec ∧
    (d.updStripe i f).lowHeld = d.lowHeld ∧ (d.updStripe i f).deferredWrites = d.deferredWrites ∧
    (d.updStripe i f).measureHeld = d.measureHeld ∧ (d.updStripe i f).caused = d.caused ∧
    (d.updStripe i f).loadInForce = d.loadInForce ∧ (d.updStripe i f).loadCmd = d.loadCmd ∧
    (d.updStripe i f).unloadCmd = d.unloadCmd ∧ (d.updStripe i f).link = d.link ∧ (d.updStripe i f).share = d.share ∧
    (d.updStripe i f).volume = d.volume ∧ (d.updStripe i f).takes = d.takes ∧
    (d.updStripe i f).nextStripe = d.nextStripe ∧ (d.updStripe i f).blks = d.blks ∧
    (d.updStripe i f).nextBlk = d.nextBlk ∧ (d.updStripe i f).moved = d.moved ∧
    (d.updStripe i f).unavailable = d.unavailable ∧ (d.updStripe i f).cat = d.cat ∧
    (d.updStripe i f).ladder = d.ladder ∧ (d.updStripe i f).railWait = d.railWait ∧
    (d.updStripe i f).selftest = d.selftest ∧ (d.updStripe i f).scrub = d.scrub ∧ (d.updStripe i f).basin = d.basin ∧
    (d.updStripe i f).cache = d.cache ∧ (d.updStripe i f).thermal = d.thermal ∧
    (d.updStripe i f).measures = d.measures ∧ (d.updStripe i f).pk = d.pk ∧ (d.updStripe i f).spot = d.spot ∧
    (d.updStripe i f).ax = d.ax ∧ (d.updStripe i f).servo = d.servo ∧ (d.updStripe i f).trace = d.trace ∧
    (d.updStripe i f).sled = d.sled ∧ (d.updStripe i f).seek = d.seek ∧ (d.updStripe i f).homing = d.homing ∧
    (d.updStripe i f).spin = d.spin := by
  refine ⟨rfl, rfl, rfl, rfl, rfl, rfl, rfl, rfl, rfl, rfl, rfl, rfl, rfl, rfl, rfl, rfl, rfl, rfl, rfl, rfl, rfl,
    rfl, rfl, rfl, rfl, rfl, rfl, rfl, rfl, rfl, rfl, rfl, rfl, rfl, rfl, rfl, rfl, rfl, rfl, rfl, rfl, rfl, rfl, rfl,
    rfl, rfl, rfl, rfl, rfl⟩
/-- `Dev.updBlk` changes `blks` only. -/
@[simp] theorem updBlk_frame (i : Nat) (f : Blk → Blk) :
    (d.updBlk i f).time = d.time ∧ (d.updBlk i f).regs = d.regs ∧ (d.updBlk i f).pins = d.pins ∧
    (d.updBlk i f).pcie = d.pcie ∧ (d.updBlk i f).boot = d.boot ∧ (d.updBlk i f).out = d.out ∧
    (d.updBlk i f).raised = d.raised ∧ (d.updBlk i f).freeTick = d.freeTick ∧ (d.updBlk i f).cmds = d.cmds ∧
    (d.updBlk i f).sq = d.sq ∧ (d.updBlk i f).cq = d.cq ∧ (d.updBlk i f).eq = d.eq ∧ (d.updBlk i f).msix = d.msix ∧
    (d.updBlk i f).msixPending = d.msixPending ∧ (d.updBlk i f).vec = d.vec ∧ (d.updBlk i f).lowHeld = d.lowHeld ∧
    (d.updBlk i f).deferredWrites = d.deferredWrites ∧ (d.updBlk i f).measureHeld = d.measureHeld ∧
    (d.updBlk i f).caused = d.caused ∧ (d.updBlk i f).loadInForce = d.loadInForce ∧
    (d.updBlk i f).loadCmd = d.loadCmd ∧ (d.updBlk i f).unloadCmd = d.unloadCmd ∧ (d.updBlk i f).link = d.link ∧
    (d.updBlk i f).share = d.share ∧ (d.updBlk i f).volume = d.volume ∧ (d.updBlk i f).takes = d.takes ∧
    (d.updBlk i f).stripes = d.stripes ∧ (d.updBlk i f).nextStripe = d.nextStripe ∧
    (d.updBlk i f).nextBlk = d.nextBlk ∧ (d.updBlk i f).moved = d.moved ∧
    (d.updBlk i f).unavailable = d.unavailable ∧ (d.updBlk i f).cat = d.cat ∧ (d.updBlk i f).ladder = d.ladder ∧
    (d.updBlk i f).railWait = d.railWait ∧ (d.updBlk i f).selftest = d.selftest ∧ (d.updBlk i f).scrub = d.scrub ∧
    (d.updBlk i f).basin = d.basin ∧ (d.updBlk i f).cache = d.cache ∧ (d.updBlk i f).thermal = d.thermal ∧
    (d.updBlk i f).measures = d.measures ∧ (d.updBlk i f).pk = d.pk ∧ (d.updBlk i f).spot = d.spot ∧
    (d.updBlk i f).ax = d.ax ∧ (d.updBlk i f).servo = d.servo ∧ (d.updBlk i f).trace = d.trace ∧
    (d.updBlk i f).sled = d.sled ∧ (d.updBlk i f).seek = d.seek ∧ (d.updBlk i f).homing = d.homing ∧
    (d.updBlk i f).spin = d.spin := by
  refine ⟨rfl, rfl, rfl, rfl, rfl, rfl, rfl, rfl, rfl, rfl, rfl, rfl, rfl, rfl, rfl, rfl, rfl, rfl, rfl, rfl, rfl,
    rfl, rfl, rfl, rfl, rfl, rfl, rfl, rfl, rfl, rfl, rfl, rfl, rfl, rfl, rfl, rfl, rfl, rfl, rfl, rfl, rfl, rfl, rfl,
    rfl, rfl, rfl, rfl, rfl⟩
/-- `Dev.updCat` changes `cat` only. -/
@[simp] theorem updCat_frame (f : Catalogue → Catalogue) :
    (d.updCat f).time = d.time ∧ (d.updCat f).regs = d.regs ∧ (d.updCat f).pins = d.pins ∧
    (d.updCat f).pcie = d.pcie ∧ (d.updCat f).boot = d.boot ∧ (d.updCat f).out = d.out ∧
    (d.updCat f).raised = d.raised ∧ (d.updCat f).freeTick = d.freeTick ∧ (d.updCat f).cmds = d.cmds ∧
    (d.updCat f).sq = d.sq ∧ (d.updCat f).cq = d.cq ∧ (d.updCat f).eq = d.eq ∧ (d.updCat f).msix = d.msix ∧
    (d.updCat f).msixPending = d.msixPending ∧ (d.updCat f).vec = d.vec ∧ (d.updCat f).lowHeld = d.lowHeld ∧
    (d.updCat f).deferredWrites = d.deferredWrites ∧ (d.updCat f).measureHeld = d.measureHeld ∧
    (d.updCat f).caused = d.caused ∧ (d.updCat f).loadInForce = d.loadInForce ∧ (d.updCat f).loadCmd = d.loadCmd ∧
    (d.updCat f).unloadCmd = d.unloadCmd ∧ (d.updCat f).link = d.link ∧ (d.updCat f).share = d.share ∧
    (d.updCat f).volume = d.volume ∧ (d.updCat f).takes = d.takes ∧ (d.updCat f).stripes = d.stripes ∧
    (d.updCat f).nextStripe = d.nextStripe ∧ (d.updCat f).blks = d.blks ∧ (d.updCat f).nextBlk = d.nextBlk ∧
    (d.updCat f).moved = d.moved ∧ (d.updCat f).unavailable = d.unavailable ∧ (d.updCat f).ladder = d.ladder ∧
    (d.updCat f).railWait = d.railWait ∧ (d.updCat f).selftest = d.selftest ∧ (d.updCat f).scrub = d.scrub ∧
    (d.updCat f).basin = d.basin ∧ (d.updCat f).cache = d.cache ∧ (d.updCat f).thermal = d.thermal ∧
    (d.updCat f).measures = d.measures ∧ (d.updCat f).pk = d.pk ∧ (d.updCat f).spot = d.spot ∧
    (d.updCat f).ax = d.ax ∧ (d.updCat f).servo = d.servo ∧ (d.updCat f).trace = d.trace ∧
    (d.updCat f).sled = d.sled ∧ (d.updCat f).seek = d.seek ∧ (d.updCat f).homing = d.homing ∧
    (d.updCat f).spin = d.spin := by
  refine ⟨rfl, rfl, rfl, rfl, rfl, rfl, rfl, rfl, rfl, rfl, rfl, rfl, rfl, rfl, rfl, rfl, rfl, rfl, rfl, rfl, rfl,
    rfl, rfl, rfl, rfl, rfl, rfl, rfl, rfl, rfl, rfl, rfl, rfl, rfl, rfl, rfl, rfl, rfl, rfl, rfl, rfl, rfl, rfl, rfl,
    rfl, rfl, rfl, rfl, rfl⟩
/-- `Dev.updAx` changes `ax` only. -/
@[simp] theorem updAx_frame (p x : Nat) (f : Ax → Ax) :
    (d.updAx p x f).time = d.time ∧ (d.updAx p x f).regs = d.regs ∧ (d.updAx p x f).pins = d.pins ∧
    (d.updAx p x f).pcie = d.pcie ∧ (d.updAx p x f).boot = d.boot ∧ (d.updAx p x f).out = d.out ∧
    (d.updAx p x f).raised = d.raised ∧ (d.updAx p x f).freeTick = d.freeTick ∧ (d.updAx p x f).cmds = d.cmds ∧
    (d.updAx p x f).sq = d.sq ∧ (d.updAx p x f).cq = d.cq ∧ (d.updAx p x f).eq = d.eq ∧
    (d.updAx p x f).msix = d.msix ∧ (d.updAx p x f).msixPending = d.msixPending ∧ (d.updAx p x f).vec = d.vec ∧
    (d.updAx p x f).lowHeld = d.lowHeld ∧ (d.updAx p x f).deferredWrites = d.deferredWrites ∧
    (d.updAx p x f).measureHeld = d.measureHeld ∧ (d.updAx p x f).caused = d.caused ∧
    (d.updAx p x f).loadInForce = d.loadInForce ∧ (d.updAx p x f).loadCmd = d.loadCmd ∧
    (d.updAx p x f).unloadCmd = d.unloadCmd ∧ (d.updAx p x f).link = d.link ∧ (d.updAx p x f).share = d.share ∧
    (d.updAx p x f).volume = d.volume ∧ (d.updAx p x f).takes = d.takes ∧ (d.updAx p x f).stripes = d.stripes ∧
    (d.updAx p x f).nextStripe = d.nextStripe ∧ (d.updAx p x f).blks = d.blks ∧ (d.updAx p x f).nextBlk = d.nextBlk ∧
    (d.updAx p x f).moved = d.moved ∧ (d.updAx p x f).unavailable = d.unavailable ∧ (d.updAx p x f).cat = d.cat ∧
    (d.updAx p x f).ladder = d.ladder ∧ (d.updAx p x f).railWait = d.railWait ∧
    (d.updAx p x f).selftest = d.selftest ∧ (d.updAx p x f).scrub = d.scrub ∧ (d.updAx p x f).basin = d.basin ∧
    (d.updAx p x f).cache = d.cache ∧ (d.updAx p x f).thermal = d.thermal ∧ (d.updAx p x f).measures = d.measures ∧
    (d.updAx p x f).pk = d.pk ∧ (d.updAx p x f).spot = d.spot ∧ (d.updAx p x f).servo = d.servo ∧
    (d.updAx p x f).trace = d.trace ∧ (d.updAx p x f).sled = d.sled ∧ (d.updAx p x f).seek = d.seek ∧
    (d.updAx p x f).homing = d.homing ∧ (d.updAx p x f).spin = d.spin := by
  refine ⟨rfl, rfl, rfl, rfl, rfl, rfl, rfl, rfl, rfl, rfl, rfl, rfl, rfl, rfl, rfl, rfl, rfl, rfl, rfl, rfl, rfl,
    rfl, rfl, rfl, rfl, rfl, rfl, rfl, rfl, rfl, rfl, rfl, rfl, rfl, rfl, rfl, rfl, rfl, rfl, rfl, rfl, rfl, rfl, rfl,
    rfl, rfl, rfl, rfl, rfl⟩
/-- `Dev.updServo` changes `servo` only. -/
@[simp] theorem updServo_frame (p : Nat) (f : Servo → Servo) :
    (d.updServo p f).time = d.time ∧ (d.updServo p f).regs = d.regs ∧ (d.updServo p f).pins = d.pins ∧
    (d.updServo p f).pcie = d.pcie ∧ (d.updServo p f).boot = d.boot ∧ (d.updServo p f).out = d.out ∧
    (d.updServo p f).raised = d.raised ∧ (d.updServo p f).freeTick = d.freeTick ∧ (d.updServo p f).cmds = d.cmds ∧
    (d.updServo p f).sq = d.sq ∧ (d.updServo p f).cq = d.cq ∧ (d.updServo p f).eq = d.eq ∧
    (d.updServo p f).msix = d.msix ∧ (d.updServo p f).msixPending = d.msixPending ∧ (d.updServo p f).vec = d.vec ∧
    (d.updServo p f).lowHeld = d.lowHeld ∧ (d.updServo p f).deferredWrites = d.deferredWrites ∧
    (d.updServo p f).measureHeld = d.measureHeld ∧ (d.updServo p f).caused = d.caused ∧
    (d.updServo p f).loadInForce = d.loadInForce ∧ (d.updServo p f).loadCmd = d.loadCmd ∧
    (d.updServo p f).unloadCmd = d.unloadCmd ∧ (d.updServo p f).link = d.link ∧ (d.updServo p f).share = d.share ∧
    (d.updServo p f).volume = d.volume ∧ (d.updServo p f).takes = d.takes ∧ (d.updServo p f).stripes = d.stripes ∧
    (d.updServo p f).nextStripe = d.nextStripe ∧ (d.updServo p f).blks = d.blks ∧
    (d.updServo p f).nextBlk = d.nextBlk ∧ (d.updServo p f).moved = d.moved ∧
    (d.updServo p f).unavailable = d.unavailable ∧ (d.updServo p f).cat = d.cat ∧
    (d.updServo p f).ladder = d.ladder ∧ (d.updServo p f).railWait = d.railWait ∧
    (d.updServo p f).selftest = d.selftest ∧ (d.updServo p f).scrub = d.scrub ∧ (d.updServo p f).basin = d.basin ∧
    (d.updServo p f).cache = d.cache ∧ (d.updServo p f).thermal = d.thermal ∧
    (d.updServo p f).measures = d.measures ∧ (d.updServo p f).pk = d.pk ∧ (d.updServo p f).spot = d.spot ∧
    (d.updServo p f).ax = d.ax ∧ (d.updServo p f).trace = d.trace ∧ (d.updServo p f).sled = d.sled ∧
    (d.updServo p f).seek = d.seek ∧ (d.updServo p f).homing = d.homing ∧ (d.updServo p f).spin = d.spin := by
  refine ⟨rfl, rfl, rfl, rfl, rfl, rfl, rfl, rfl, rfl, rfl, rfl, rfl, rfl, rfl, rfl, rfl, rfl, rfl, rfl, rfl, rfl,
    rfl, rfl, rfl, rfl, rfl, rfl, rfl, rfl, rfl, rfl, rfl, rfl, rfl, rfl, rfl, rfl, rfl, rfl, rfl, rfl, rfl, rfl, rfl,
    rfl, rfl, rfl, rfl, rfl⟩
/-- `Dev.updSled` changes `sled` only. -/
@[simp] theorem updSled_frame (p : Nat) (f : Sled → Sled) :
    (d.updSled p f).time = d.time ∧ (d.updSled p f).regs = d.regs ∧ (d.updSled p f).pins = d.pins ∧
    (d.updSled p f).pcie = d.pcie ∧ (d.updSled p f).boot = d.boot ∧ (d.updSled p f).out = d.out ∧
    (d.updSled p f).raised = d.raised ∧ (d.updSled p f).freeTick = d.freeTick ∧ (d.updSled p f).cmds = d.cmds ∧
    (d.updSled p f).sq = d.sq ∧ (d.updSled p f).cq = d.cq ∧ (d.updSled p f).eq = d.eq ∧
    (d.updSled p f).msix = d.msix ∧ (d.updSled p f).msixPending = d.msixPending ∧ (d.updSled p f).vec = d.vec ∧
    (d.updSled p f).lowHeld = d.lowHeld ∧ (d.updSled p f).deferredWrites = d.deferredWrites ∧
    (d.updSled p f).measureHeld = d.measureHeld ∧ (d.updSled p f).caused = d.caused ∧
    (d.updSled p f).loadInForce = d.loadInForce ∧ (d.updSled p f).loadCmd = d.loadCmd ∧
    (d.updSled p f).unloadCmd = d.unloadCmd ∧ (d.updSled p f).link = d.link ∧ (d.updSled p f).share = d.share ∧
    (d.updSled p f).volume = d.volume ∧ (d.updSled p f).takes = d.takes ∧ (d.updSled p f).stripes = d.stripes ∧
    (d.updSled p f).nextStripe = d.nextStripe ∧ (d.updSled p f).blks = d.blks ∧ (d.updSled p f).nextBlk = d.nextBlk ∧
    (d.updSled p f).moved = d.moved ∧ (d.updSled p f).unavailable = d.unavailable ∧ (d.updSled p f).cat = d.cat ∧
    (d.updSled p f).ladder = d.ladder ∧ (d.updSled p f).railWait = d.railWait ∧
    (d.updSled p f).selftest = d.selftest ∧ (d.updSled p f).scrub = d.scrub ∧ (d.updSled p f).basin = d.basin ∧
    (d.updSled p f).cache = d.cache ∧ (d.updSled p f).thermal = d.thermal ∧ (d.updSled p f).measures = d.measures ∧
    (d.updSled p f).pk = d.pk ∧ (d.updSled p f).spot = d.spot ∧ (d.updSled p f).ax = d.ax ∧
    (d.updSled p f).servo = d.servo ∧ (d.updSled p f).trace = d.trace ∧ (d.updSled p f).seek = d.seek ∧
    (d.updSled p f).homing = d.homing ∧ (d.updSled p f).spin = d.spin := by
  refine ⟨rfl, rfl, rfl, rfl, rfl, rfl, rfl, rfl, rfl, rfl, rfl, rfl, rfl, rfl, rfl, rfl, rfl, rfl, rfl, rfl, rfl,
    rfl, rfl, rfl, rfl, rfl, rfl, rfl, rfl, rfl, rfl, rfl, rfl, rfl, rfl, rfl, rfl, rfl, rfl, rfl, rfl, rfl, rfl, rfl,
    rfl, rfl, rfl, rfl, rfl⟩
/-- `Dev.updSpin` changes `spin` only. -/
@[simp] theorem updSpin_frame (n : Nat) (f : Spin → Spin) :
    (d.updSpin n f).time = d.time ∧ (d.updSpin n f).regs = d.regs ∧ (d.updSpin n f).pins = d.pins ∧
    (d.updSpin n f).pcie = d.pcie ∧ (d.updSpin n f).boot = d.boot ∧ (d.updSpin n f).out = d.out ∧
    (d.updSpin n f).raised = d.raised ∧ (d.updSpin n f).freeTick = d.freeTick ∧ (d.updSpin n f).cmds = d.cmds ∧
    (d.updSpin n f).sq = d.sq ∧ (d.updSpin n f).cq = d.cq ∧ (d.updSpin n f).eq = d.eq ∧
    (d.updSpin n f).msix = d.msix ∧ (d.updSpin n f).msixPending = d.msixPending ∧ (d.updSpin n f).vec = d.vec ∧
    (d.updSpin n f).lowHeld = d.lowHeld ∧ (d.updSpin n f).deferredWrites = d.deferredWrites ∧
    (d.updSpin n f).measureHeld = d.measureHeld ∧ (d.updSpin n f).caused = d.caused ∧
    (d.updSpin n f).loadInForce = d.loadInForce ∧ (d.updSpin n f).loadCmd = d.loadCmd ∧
    (d.updSpin n f).unloadCmd = d.unloadCmd ∧ (d.updSpin n f).link = d.link ∧ (d.updSpin n f).share = d.share ∧
    (d.updSpin n f).volume = d.volume ∧ (d.updSpin n f).takes = d.takes ∧ (d.updSpin n f).stripes = d.stripes ∧
    (d.updSpin n f).nextStripe = d.nextStripe ∧ (d.updSpin n f).blks = d.blks ∧ (d.updSpin n f).nextBlk = d.nextBlk ∧
    (d.updSpin n f).moved = d.moved ∧ (d.updSpin n f).unavailable = d.unavailable ∧ (d.updSpin n f).cat = d.cat ∧
    (d.updSpin n f).ladder = d.ladder ∧ (d.updSpin n f).railWait = d.railWait ∧
    (d.updSpin n f).selftest = d.selftest ∧ (d.updSpin n f).scrub = d.scrub ∧ (d.updSpin n f).basin = d.basin ∧
    (d.updSpin n f).cache = d.cache ∧ (d.updSpin n f).thermal = d.thermal ∧ (d.updSpin n f).measures = d.measures ∧
    (d.updSpin n f).pk = d.pk ∧ (d.updSpin n f).spot = d.spot ∧ (d.updSpin n f).ax = d.ax ∧
    (d.updSpin n f).servo = d.servo ∧ (d.updSpin n f).trace = d.trace ∧ (d.updSpin n f).sled = d.sled ∧
    (d.updSpin n f).seek = d.seek ∧ (d.updSpin n f).homing = d.homing := by
  refine ⟨rfl, rfl, rfl, rfl, rfl, rfl, rfl, rfl, rfl, rfl, rfl, rfl, rfl, rfl, rfl, rfl, rfl, rfl, rfl, rfl, rfl,
    rfl, rfl, rfl, rfl, rfl, rfl, rfl, rfl, rfl, rfl, rfl, rfl, rfl, rfl, rfl, rfl, rfl, rfl, rfl, rfl, rfl, rfl, rfl,
    rfl, rfl, rfl, rfl, rfl⟩
/-- `Dev.updSpot` changes `spot` only. -/
@[simp] theorem updSpot_frame (p x : Nat) (f : Spot → Spot) :
    (d.updSpot p x f).time = d.time ∧ (d.updSpot p x f).regs = d.regs ∧ (d.updSpot p x f).pins = d.pins ∧
    (d.updSpot p x f).pcie = d.pcie ∧ (d.updSpot p x f).boot = d.boot ∧ (d.updSpot p x f).out = d.out ∧
    (d.updSpot p x f).raised = d.raised ∧ (d.updSpot p x f).freeTick = d.freeTick ∧ (d.updSpot p x f).cmds = d.cmds ∧
    (d.updSpot p x f).sq = d.sq ∧ (d.updSpot p x f).cq = d.cq ∧ (d.updSpot p x f).eq = d.eq ∧
    (d.updSpot p x f).msix = d.msix ∧ (d.updSpot p x f).msixPending = d.msixPending ∧ (d.updSpot p x f).vec = d.vec ∧
    (d.updSpot p x f).lowHeld = d.lowHeld ∧ (d.updSpot p x f).deferredWrites = d.deferredWrites ∧
    (d.updSpot p x f).measureHeld = d.measureHeld ∧ (d.updSpot p x f).caused = d.caused ∧
    (d.updSpot p x f).loadInForce = d.loadInForce ∧ (d.updSpot p x f).loadCmd = d.loadCmd ∧
    (d.updSpot p x f).unloadCmd = d.unloadCmd ∧ (d.updSpot p x f).link = d.link ∧ (d.updSpot p x f).share = d.share ∧
    (d.updSpot p x f).volume = d.volume ∧ (d.updSpot p x f).takes = d.takes ∧ (d.updSpot p x f).stripes = d.stripes ∧
    (d.updSpot p x f).nextStripe = d.nextStripe ∧ (d.updSpot p x f).blks = d.blks ∧
    (d.updSpot p x f).nextBlk = d.nextBlk ∧ (d.updSpot p x f).moved = d.moved ∧
    (d.updSpot p x f).unavailable = d.unavailable ∧ (d.updSpot p x f).cat = d.cat ∧
    (d.updSpot p x f).ladder = d.ladder ∧ (d.updSpot p x f).railWait = d.railWait ∧
    (d.updSpot p x f).selftest = d.selftest ∧ (d.updSpot p x f).scrub = d.scrub ∧ (d.updSpot p x f).basin = d.basin ∧
    (d.updSpot p x f).cache = d.cache ∧ (d.updSpot p x f).thermal = d.thermal ∧
    (d.updSpot p x f).measures = d.measures ∧ (d.updSpot p x f).pk = d.pk ∧ (d.updSpot p x f).ax = d.ax ∧
    (d.updSpot p x f).servo = d.servo ∧ (d.updSpot p x f).trace = d.trace ∧ (d.updSpot p x f).sled = d.sled ∧
    (d.updSpot p x f).seek = d.seek ∧ (d.updSpot p x f).homing = d.homing ∧ (d.updSpot p x f).spin = d.spin := by
  refine ⟨rfl, rfl, rfl, rfl, rfl, rfl, rfl, rfl, rfl, rfl, rfl, rfl, rfl, rfl, rfl, rfl, rfl, rfl, rfl, rfl, rfl,
    rfl, rfl, rfl, rfl, rfl, rfl, rfl, rfl, rfl, rfl, rfl, rfl, rfl, rfl, rfl, rfl, rfl, rfl, rfl, rfl, rfl, rfl, rfl,
    rfl, rfl, rfl, rfl, rfl⟩
/-- `Dev.setSeek` changes `seek` only. -/
@[simp] theorem setSeek_frame (p : Nat) (k : Seek) :
    (d.setSeek p k).time = d.time ∧ (d.setSeek p k).regs = d.regs ∧ (d.setSeek p k).pins = d.pins ∧
    (d.setSeek p k).pcie = d.pcie ∧ (d.setSeek p k).boot = d.boot ∧ (d.setSeek p k).out = d.out ∧
    (d.setSeek p k).raised = d.raised ∧ (d.setSeek p k).freeTick = d.freeTick ∧ (d.setSeek p k).cmds = d.cmds ∧
    (d.setSeek p k).sq = d.sq ∧ (d.setSeek p k).cq = d.cq ∧ (d.setSeek p k).eq = d.eq ∧
    (d.setSeek p k).msix = d.msix ∧ (d.setSeek p k).msixPending = d.msixPending ∧ (d.setSeek p k).vec = d.vec ∧
    (d.setSeek p k).lowHeld = d.lowHeld ∧ (d.setSeek p k).deferredWrites = d.deferredWrites ∧
    (d.setSeek p k).measureHeld = d.measureHeld ∧ (d.setSeek p k).caused = d.caused ∧
    (d.setSeek p k).loadInForce = d.loadInForce ∧ (d.setSeek p k).loadCmd = d.loadCmd ∧
    (d.setSeek p k).unloadCmd = d.unloadCmd ∧ (d.setSeek p k).link = d.link ∧ (d.setSeek p k).share = d.share ∧
    (d.setSeek p k).volume = d.volume ∧ (d.setSeek p k).takes = d.takes ∧ (d.setSeek p k).stripes = d.stripes ∧
    (d.setSeek p k).nextStripe = d.nextStripe ∧ (d.setSeek p k).blks = d.blks ∧ (d.setSeek p k).nextBlk = d.nextBlk ∧
    (d.setSeek p k).moved = d.moved ∧ (d.setSeek p k).unavailable = d.unavailable ∧ (d.setSeek p k).cat = d.cat ∧
    (d.setSeek p k).ladder = d.ladder ∧ (d.setSeek p k).railWait = d.railWait ∧
    (d.setSeek p k).selftest = d.selftest ∧ (d.setSeek p k).scrub = d.scrub ∧ (d.setSeek p k).basin = d.basin ∧
    (d.setSeek p k).cache = d.cache ∧ (d.setSeek p k).thermal = d.thermal ∧ (d.setSeek p k).measures = d.measures ∧
    (d.setSeek p k).pk = d.pk ∧ (d.setSeek p k).spot = d.spot ∧ (d.setSeek p k).ax = d.ax ∧
    (d.setSeek p k).servo = d.servo ∧ (d.setSeek p k).trace = d.trace ∧ (d.setSeek p k).sled = d.sled ∧
    (d.setSeek p k).homing = d.homing ∧ (d.setSeek p k).spin = d.spin := by
  refine ⟨rfl, rfl, rfl, rfl, rfl, rfl, rfl, rfl, rfl, rfl, rfl, rfl, rfl, rfl, rfl, rfl, rfl, rfl, rfl, rfl, rfl,
    rfl, rfl, rfl, rfl, rfl, rfl, rfl, rfl, rfl, rfl, rfl, rfl, rfl, rfl, rfl, rfl, rfl, rfl, rfl, rfl, rfl, rfl, rfl,
    rfl, rfl, rfl, rfl, rfl⟩
/-- `Dev.noSeek` changes `seek` only. -/
@[simp] theorem noSeek_frame (p : Nat) :
    (d.noSeek p).time = d.time ∧ (d.noSeek p).regs = d.regs ∧ (d.noSeek p).pins = d.pins ∧
    (d.noSeek p).pcie = d.pcie ∧ (d.noSeek p).boot = d.boot ∧ (d.noSeek p).out = d.out ∧
    (d.noSeek p).raised = d.raised ∧ (d.noSeek p).freeTick = d.freeTick ∧ (d.noSeek p).cmds = d.cmds ∧
    (d.noSeek p).sq = d.sq ∧ (d.noSeek p).cq = d.cq ∧ (d.noSeek p).eq = d.eq ∧ (d.noSeek p).msix = d.msix ∧
    (d.noSeek p).msixPending = d.msixPending ∧ (d.noSeek p).vec = d.vec ∧ (d.noSeek p).lowHeld = d.lowHeld ∧
    (d.noSeek p).deferredWrites = d.deferredWrites ∧ (d.noSeek p).measureHeld = d.measureHeld ∧
    (d.noSeek p).caused = d.caused ∧ (d.noSeek p).loadInForce = d.loadInForce ∧ (d.noSeek p).loadCmd = d.loadCmd ∧
    (d.noSeek p).unloadCmd = d.unloadCmd ∧ (d.noSeek p).link = d.link ∧ (d.noSeek p).share = d.share ∧
    (d.noSeek p).volume = d.volume ∧ (d.noSeek p).takes = d.takes ∧ (d.noSeek p).stripes = d.stripes ∧
    (d.noSeek p).nextStripe = d.nextStripe ∧ (d.noSeek p).blks = d.blks ∧ (d.noSeek p).nextBlk = d.nextBlk ∧
    (d.noSeek p).moved = d.moved ∧ (d.noSeek p).unavailable = d.unavailable ∧ (d.noSeek p).cat = d.cat ∧
    (d.noSeek p).ladder = d.ladder ∧ (d.noSeek p).railWait = d.railWait ∧ (d.noSeek p).selftest = d.selftest ∧
    (d.noSeek p).scrub = d.scrub ∧ (d.noSeek p).basin = d.basin ∧ (d.noSeek p).cache = d.cache ∧
    (d.noSeek p).thermal = d.thermal ∧ (d.noSeek p).measures = d.measures ∧ (d.noSeek p).pk = d.pk ∧
    (d.noSeek p).spot = d.spot ∧ (d.noSeek p).ax = d.ax ∧ (d.noSeek p).servo = d.servo ∧
    (d.noSeek p).trace = d.trace ∧ (d.noSeek p).sled = d.sled ∧ (d.noSeek p).homing = d.homing ∧
    (d.noSeek p).spin = d.spin := by
  refine ⟨rfl, rfl, rfl, rfl, rfl, rfl, rfl, rfl, rfl, rfl, rfl, rfl, rfl, rfl, rfl, rfl, rfl, rfl, rfl, rfl, rfl,
    rfl, rfl, rfl, rfl, rfl, rfl, rfl, rfl, rfl, rfl, rfl, rfl, rfl, rfl, rfl, rfl, rfl, rfl, rfl, rfl, rfl, rfl, rfl,
    rfl, rfl, rfl, rfl, rfl⟩
/-- `Dev.setHoming` changes `homing` only. -/
@[simp] theorem setHoming_frame (p : Nat) (k : Homing) :
    (d.setHoming p k).time = d.time ∧ (d.setHoming p k).regs = d.regs ∧ (d.setHoming p k).pins = d.pins ∧
    (d.setHoming p k).pcie = d.pcie ∧ (d.setHoming p k).boot = d.boot ∧ (d.setHoming p k).out = d.out ∧
    (d.setHoming p k).raised = d.raised ∧ (d.setHoming p k).freeTick = d.freeTick ∧ (d.setHoming p k).cmds = d.cmds ∧
    (d.setHoming p k).sq = d.sq ∧ (d.setHoming p k).cq = d.cq ∧ (d.setHoming p k).eq = d.eq ∧
    (d.setHoming p k).msix = d.msix ∧ (d.setHoming p k).msixPending = d.msixPending ∧ (d.setHoming p k).vec = d.vec ∧
    (d.setHoming p k).lowHeld = d.lowHeld ∧ (d.setHoming p k).deferredWrites = d.deferredWrites ∧
    (d.setHoming p k).measureHeld = d.measureHeld ∧ (d.setHoming p k).caused = d.caused ∧
    (d.setHoming p k).loadInForce = d.loadInForce ∧ (d.setHoming p k).loadCmd = d.loadCmd ∧
    (d.setHoming p k).unloadCmd = d.unloadCmd ∧ (d.setHoming p k).link = d.link ∧ (d.setHoming p k).share = d.share ∧
    (d.setHoming p k).volume = d.volume ∧ (d.setHoming p k).takes = d.takes ∧ (d.setHoming p k).stripes = d.stripes ∧
    (d.setHoming p k).nextStripe = d.nextStripe ∧ (d.setHoming p k).blks = d.blks ∧
    (d.setHoming p k).nextBlk = d.nextBlk ∧ (d.setHoming p k).moved = d.moved ∧
    (d.setHoming p k).unavailable = d.unavailable ∧ (d.setHoming p k).cat = d.cat ∧
    (d.setHoming p k).ladder = d.ladder ∧ (d.setHoming p k).railWait = d.railWait ∧
    (d.setHoming p k).selftest = d.selftest ∧ (d.setHoming p k).scrub = d.scrub ∧ (d.setHoming p k).basin = d.basin ∧
    (d.setHoming p k).cache = d.cache ∧ (d.setHoming p k).thermal = d.thermal ∧
    (d.setHoming p k).measures = d.measures ∧ (d.setHoming p k).pk = d.pk ∧ (d.setHoming p k).spot = d.spot ∧
    (d.setHoming p k).ax = d.ax ∧ (d.setHoming p k).servo = d.servo ∧ (d.setHoming p k).trace = d.trace ∧
    (d.setHoming p k).sled = d.sled ∧ (d.setHoming p k).seek = d.seek ∧ (d.setHoming p k).spin = d.spin := by
  refine ⟨rfl, rfl, rfl, rfl, rfl, rfl, rfl, rfl, rfl, rfl, rfl, rfl, rfl, rfl, rfl, rfl, rfl, rfl, rfl, rfl, rfl,
    rfl, rfl, rfl, rfl, rfl, rfl, rfl, rfl, rfl, rfl, rfl, rfl, rfl, rfl, rfl, rfl, rfl, rfl, rfl, rfl, rfl, rfl, rfl,
    rfl, rfl, rfl, rfl, rfl⟩

end Sys2Proof.Machine
end

