-- ==== Sys2Proof/Laws/Ops.lean ====
section
/-! SUPPORT. Laws of the shared operations: tables, registers, memory, event sources, and how a command's effect becomes
the next state. -/

namespace Sys2Proof.Machine

/-! ### Tables -/

@[simp] theorem tget_tset {α : Type} (x : α) (t : Tab α) (k j : Nat) (v : α) :
    tget x (tset t k v) j = if j = k then v else tget x t j := by
  by_cases h : j = k
  · simp [tset, tget, h]
  · have h' : ¬ k = j := fun e => h e.symm
    simp only [tset, tget, h', if_false, h]
    induction t with
    | nil => rfl
    | cons e t ih =>
      by_cases he : e.1 = k
      · have : ¬ e.1 = j := fun x => h (x ▸ he)
        simp [he, tget, h', ih]
      · simp [he, tget, ih]

/-- Finding key j in a table from which the entries of another key are taken. -/
theorem find_filter_ne {α : Type} (t : Tab α) (k j : Nat) (h : ¬ j = k) :
    (t.filter fun e => e.1 != k).find? (fun e => e.1 == j) = t.find? fun e => e.1 == j := by
  induction t with
  | nil => rfl
  | cons e t ih =>
    by_cases he : e.1 = k
    · have hkj : ¬ k = j := fun x => h x.symm
      have hj : (e.1 == j) = false := by simp [he, hkj]
      have hb : (e.1 != k) = false := by simp [he]
      rw [List.filter_cons, hb, List.find?_cons, hj]
      exact ih
    · have hb : (e.1 != k) = true := by simp [he]
      rw [List.filter_cons, hb, if_pos rfl, List.find?_cons, List.find?_cons, ih]

@[simp] theorem tfind_tset {α : Type} (t : Tab α) (k j : Nat) (v : α) :
    tfind (tset t k v) j = if j = k then some v else tfind t j := by
  by_cases h : j = k
  · simp [tset, tfind, h]
  · have hkj : ¬ k = j := fun x => h x.symm
    have hb : (k == j) = false := by simp [hkj]
    simp only [tset, tfind, List.find?_cons, hb, h, if_false, find_filter_ne t k j h]

@[simp] theorem tfind_tdel {α : Type} (t : Tab α) (k j : Nat) :
    tfind (tdel t k) j = if j = k then none else tfind t j := by
  by_cases h : j = k
  · subst h
    simp [tdel, tfind]
  · simp only [tdel, tfind, h, if_false, find_filter_ne t k j h]

theorem thas_eq_isSome {α : Type} (t : Tab α) (k : Nat) : thas t k = (tfind t k).isSome := by
  unfold thas tfind
  induction t with
  | nil => rfl
  | cons e t ih =>
    simp only [List.any_cons, List.find?_cons]
    by_cases h : e.1 = k
    · simp [h]
    · have hb : (e.1 == k) = false := by simp [h]
      simp only [hb, Bool.false_or]
      exact ih

/-! ### Registers -/

@[simp] theorem regGet_regSet (regs : List (Fld × Nat)) (f g : Fld) (v : Nat) :
    regGet (regSet regs f v) g = if g = f then v % 2 ^ f.row.spec.width else regGet regs g := by
  by_cases h : g = f
  · simp [regSet, regGet, h]
  · have h' : ¬ f = g := fun e => h e.symm
    simp only [regSet, regGet, h', if_false, h]
    induction regs with
    | nil => rfl
    | cons e t ih =>
      by_cases he : e.1 = f
      · simp [he, regGet, h', ih]
      · simp [he, regGet, ih]

/-- What a write leaves in every field. -/
@[simp] theorem regGet_wr (d : Dev) (r : Row) (ix : List Nat) (v : Nat) (g : Fld) :
    regGet (d.wr r ix v).regs g = if g = ⟨r, ix⟩ then v % 2 ^ r.spec.width else regGet d.regs g :=
  regGet_regSet d.regs ⟨r, ix⟩ g v

@[simp] theorem rd_wr (d : Dev) (r r' : Row) (ix ix' : List Nat) (v : Nat) :
    (d.wr r ix v).rd r' ix' = if r' = r ∧ ix' = ix then v % 2 ^ r.spec.width else d.rd r' ix' := by
  simp [Dev.rd]

/-! ### Memory -/

theorem memWfFrom_cons (lo : Option Nat) (k : Nat) (w : BitVec 8) (m : List Host.Cell) :
    memWfFrom lo ((k, w) :: m) = true ↔ (∀ l, lo = some l → l < k) ∧ w ≠ 0#8 ∧ memWfFrom (some k) m = true := by
  cases lo <;> simp [memWfFrom, and_assoc]

/-- A memory above a bound is one above any bound below it. -/
theorem memWfFrom_weaken (m : List Host.Cell) (k : Nat) (lo : Option Nat) (hlo : ∀ l, lo = some l → l < k)
    (h : memWfFrom (some k) m = true) : memWfFrom lo m = true := by
  cases m with
  | nil => rfl
  | cons e m =>
    obtain ⟨j, w⟩ := e
    rw [memWfFrom_cons] at h ⊢
    exact ⟨fun l hl => lt_trans (hlo l hl) (h.1 k rfl), h.2⟩

theorem memGet_below (m : List Host.Cell) (a j : Nat) (h : memWfFrom (some a) m = true) (hj : j ≤ a) :
    memGet m j = 0 := by
  cases m with
  | nil => rfl
  | cons e m =>
    obtain ⟨k, w⟩ := e
    have hk := ((memWfFrom_cons _ _ _ _).1 h).1 a rfl
    have h1 : ¬ k = j := by omega
    have h2 : j < k := by omega
    simp [memGet, h1, h2]

theorem memSet_wfFrom (m : List Host.Cell) (a : Nat) (v : BitVec 8) (lo : Option Nat)
    (hlo : ∀ l, lo = some l → l < a) (h : memWfFrom lo m = true) : memWfFrom lo (memSet m a v) = true := by
  induction m generalizing lo with
  | nil =>
    unfold memSet
    split
    · rfl
    · next hv => rw [memWfFrom_cons]; exact ⟨hlo, hv, rfl⟩
  | cons e m ih =>
    obtain ⟨k, w⟩ := e
    have hk := (memWfFrom_cons _ _ _ _).1 h
    unfold memSet
    split
    · next h1 =>
      rw [memWfFrom_cons]
      exact ⟨hk.1, hk.2.1, ih (some k) (by simpa using h1) hk.2.2⟩
    · next h1 =>
      split
      · next h2 =>
        subst h2
        split
        · exact memWfFrom_weaken m k lo hk.1 hk.2.2
        · next hv => rw [memWfFrom_cons]; exact ⟨hk.1, hv, hk.2.2⟩
      · next h2 =>
        split
        · exact h
        · next hv =>
          rw [memWfFrom_cons]
          refine ⟨hlo, hv, ?_⟩
          rw [memWfFrom_cons]
          exact ⟨fun l hl => by injection hl; omega, hk.2⟩

/-- A write of one byte keeps the canonical form. -/
theorem memSet_wf (m : List Host.Cell) (a : Nat) (v : BitVec 8) (h : Memory.wf m = true) :
    Memory.wf (memSet m a v) = true :=
  memSet_wfFrom m a v none (by simp) h

/-- A write of a byte string keeps the canonical form. -/
theorem memWrite_wf (b : Bytes) (m : List Host.Cell) (a : Nat) (h : Memory.wf m = true) :
    Memory.wf (memWrite m a b) = true := by
  induction b generalizing m a with
  | nil => exact h
  | cons x b ih => exact ih _ _ (memSet_wf _ _ _ h)

/-- Read after write of one byte, over a canonical memory. -/
theorem memGet_memSet (m : List Host.Cell) (a j : Nat) (v : BitVec 8) (lo : Option Nat)
    (h : memWfFrom lo m = true) : memGet (memSet m a v) j = if j = a then v else memGet m j := by
  induction m generalizing lo with
  | nil =>
    by_cases hv : v = 0
    · simp only [memSet, hv, if_true, memGet, ite_self]
    · by_cases hj : j = a
      · simp only [memSet, hv, if_false, memGet, hj, if_true]
      · have hj' : ¬ a = j := fun x => hj x.symm
        simp only [memSet, hv, if_false, memGet, hj, hj', ite_self]
  | cons e m ih =>
    obtain ⟨k, w⟩ := e
    have hk := (memWfFrom_cons _ _ _ _).1 h
    have ihk := ih (some k) hk.2.2
    rcases lt_trichotomy k a with hka | hka | hka
    · have hs : memSet ((k, w) :: m) a v = (k, w) :: memSet m a v := by simp only [memSet, hka, if_true]
      rw [hs]
      by_cases hja : j = a
      · have h2 : ¬ k = j := by omega
        have h3 : ¬ j < k := by omega
        simp only [memGet, h2, h3, ihk, if_false]
      · simp only [memGet, ihk, hja, if_false]
    · subst hka
      by_cases hv : v = 0
      · have hs : memSet ((k, w) :: m) k v = m := by simp only [memSet, lt_irrefl, if_false, if_true, hv]
        rw [hs]
        by_cases hj : j = k
        · rw [hj, memGet_below m k k hk.2.2 le_rfl]; simp only [if_true, hv]
        · have hj' : ¬ k = j := fun x => hj x.symm
          by_cases hlt : j < k
          · simp only [memGet, hj, hj', hlt, if_true, if_false, memGet_below m k j hk.2.2 (le_of_lt hlt)]
          · simp only [memGet, hj, hj', hlt, if_false]
      · have hs : memSet ((k, w) :: m) k v = (k, v) :: m := by
          simp only [memSet, lt_irrefl, if_false, if_true, hv]
        rw [hs]
        by_cases hj : j = k
        · simp only [memGet, hj, if_true]
        · have hj' : ¬ k = j := fun x => hj x.symm
          simp only [memGet, hj, hj', if_false]
    · have h1 : ¬ k < a := by omega
      have h2 : ¬ k = a := by omega
      by_cases hv : v = 0
      · have hs : memSet ((k, w) :: m) a v = (k, w) :: m := by simp only [memSet, h1, h2, if_false, if_true, hv]
        rw [hs]
        by_cases hj : j = a
        · subst hj; simp only [memGet, h2, hka, hv, if_true, if_false]
        · simp only [hj, if_false]
      · have hs : memSet ((k, w) :: m) a v = (a, v) :: (k, w) :: m := by
          simp only [memSet, h1, h2, if_false, hv]
        rw [hs]
        by_cases hj : j = a
        · simp only [memGet, hj, if_true]
        · have hj' : ¬ a = j := fun x => hj x.symm
          by_cases hlt : j < a
          · have h3 : ¬ k = j := by omega
            have h4 : j < k := by omega
            simp only [memGet, hj, hj', hlt, h3, h4, if_true, if_false]
          · simp only [memGet, hj, hj', hlt, if_false]

/-! ### Event sources (R485, R487) -/

/-- An occurrence keeps OCCURRED = POSTED + PENDING. -/
theorem occur_conserved (x : Src) (t c : Nat) (b : Bytes) (h : x.conserved = true) :
    (x.occur t c b).conserved = true := by
  simp only [Src.conserved, Bool.and_eq_true, decide_eq_true_eq] at h ⊢
  unfold Src.occur
  by_cases hp : x.pending = 2 ^ 32 - 1
  · simp only [hp, if_true]
    simp only [hp] at h
    omega
  · simp only [hp, if_false]
    omega

/-- A posting keeps it. -/
theorem post_conserved (x : Src) (h : x.conserved = true) : x.post.conserved = true := by
  simp only [Src.conserved, Bool.and_eq_true, decide_eq_true_eq] at h ⊢
  obtain ⟨h1, h2⟩ := h
  have e1 : x.post.occurred = x.occurred := rfl
  have e2 : x.post.posted = (x.posted + x.pending) % 2 ^ 32 := rfl
  have e3 : x.post.pending = 0 := rfl
  rw [e1, e2, e3, h1]
  omega

theorem tset_conserved (ev : Tab Src) (k : Nat) (x : Src) (h : evConserved ev = true) (hx : x.conserved = true) :
    evConserved (tset ev k x) = true := by
  have h' : ∀ e ∈ ev, e.2.conserved = true := by simpa [evConserved] using h
  simp only [evConserved, tset, List.all_cons, Bool.and_eq_true, hx, true_and, List.all_eq_true]
  intro e he
  exact h' e (List.mem_of_mem_filter he)

theorem tget_conserved (ev : Tab Src) (k : Nat) (h : evConserved ev = true) :
    (tget ({} : Src) ev k).conserved = true := by
  induction ev with
  | nil => rfl
  | cons e t ih =>
    simp only [evConserved, List.all_cons, Bool.and_eq_true] at h
    by_cases he : e.1 = k
    · simpa [tget, he] using h.1
    · simpa [tget, he] using ih h.2

/-- Counting the occurrences of a command keeps every source's balance. -/
theorem countRaised_conserved (time : Nat) (l : List Occ) (ev : Tab Src) (h : evConserved ev = true) :
    evConserved (countRaised time l ev) = true := by
  induction l generalizing ev with
  | nil => exact h
  | cons o os ih =>
    exact ih _ (tset_conserved _ _ _ h (occur_conserved _ _ _ _ (tget_conserved _ _ h)))

/-! ### From effect to next state -/

@[simp] theorem commit_mem (s : State) (d : Dev) : (s.commit d).mem = s.mem := rfl
@[simp] theorem commit_pending (s : State) (d : Dev) : (s.commit d).pending = s.pending := rfl
@[simp] theorem commit_raised (s : State) (d : Dev) : (s.commit d).dev.raised = [] := rfl
@[simp] theorem commit_dev (s : State) (d : Dev) : (s.commit d).dev = { d with raised := [] } := rfl
@[simp] theorem commit_rd (s : State) (d : Dev) (r : Row) (ix : List Nat) : (s.commit d).dev.rd r ix = d.rd r ix := rfl

/-- A commit keeps the invariant. -/
theorem commit_inv (s : State) (d : Dev) (h : s.Inv) : (s.commit d).Inv :=
  ⟨h.mem, countRaised_conserved _ _ _ h.events, rfl⟩

theorem act_eq (s : State) (f : Dev → Dev) : act s f = .next (s.commit (f s.dev)) := rfl

theorem serve_eq (s : State) (f : Dev → Dev) : serve s f = .next (s.commit ((f s.dev).settleDeck s.mem)) := rfl

theorem hostAct_ready (s : State) (f : Dev → Dev) (h : s.dev.ready = true) :
    hostAct s f = .next (s.commit (f s.dev)) := by simp [hostAct, act, h]

theorem hostAct_not_ready (s : State) (f : Dev → Dev) (h : s.dev.ready = false) :
    hostAct s f = .next (s.commit s.dev) := by simp [hostAct, act, h]

/-- With no command in flight, catalogue rows left and no stripe to record, nothing goes on. -/
theorem settleDeck_idle (mem : List Host.Cell) (d : Dev) (h : d.cmds = []) (hc : d.catExhausted = false)
    (hr : d.recordStripes = d) : d.settleDeck mem = d := by
  have h1 : Dev.settle mem d = d := by
    simp [Dev.settle, Dev.settleN, Dev.settleOnce, h]
  have h2 : d.lostNeeds = [] := by simp [Dev.lostNeeds, h]
  simp [Dev.settleDeck, Dev.reportUnmapped, h1, h2, h, hc, hr]

/-- A descriptor that cannot start changes nothing before the commands in flight go on. -/
theorem descriptor_waits (r : Nat) (c : Cmd) (s : State) (k : Dev → Origin → Dev) (h : s.dev.canStart r = false) :
    descriptor r c s k = .next (s.commit (s.dev.settleDeck s.mem)) := by
  simp [descriptor, serve, Dev.begin, h]

/-- A descriptor that may start on a running device does, and takes its effect. -/
theorem descriptor_starts (r : Nat) (c : Cmd) (s : State) (k : Dev → Origin → Dev) (h : s.dev.canStart r = true)
    (hb : s.dev.rd .glBoot ≠ bootRecovery) :
    descriptor r c s k =
      .next (s.commit ((k (s.dev.started r c) (.ring r (s.dev.sqS r).started)).settleDeck s.mem)) := by
  have hb' : (s.dev.started r c).rd .glBoot = s.dev.rd .glBoot := rfl
  simp only [descriptor, serve, Dev.begin, h]
  simp only [Bool.not_true, Bool.false_eq_true, if_false]
  split
  · next hh => exact absurd hh.1 hb
  · rfl

/-- In RECOVERY every opcode but ATTEST and FW_LOAD completes with RESOURCE 0x0009 (R522). -/
theorem descriptor_in_recovery (r : Nat) (c : Cmd) (s : State) (k : Dev → Origin → Dev) (h : s.dev.canStart r = true)
    (hb : s.dev.rd .glBoot = bootRecovery) (h1 : c.op ≠ 0x30) (h2 : c.op ≠ 0x31) :
    descriptor r c s k = .next (s.commit
      (((s.dev.started r c).refuse (.ring r (s.dev.sqS r).started) clsResource detBusy).settleDeck s.mem)) := by
  simp only [descriptor, serve, Dev.begin, h]
  simp only [Bool.not_true, Bool.false_eq_true, if_false]
  split
  · rfl
  · next hh => exact absurd ⟨hb, h1, h2⟩ hh

end Sys2Proof.Machine
end

