-- ==== Sys2Proof/Tests/Slice0.lean ====
section
/-! SUPPORT. Tests: small states on which the commands run, and for every statement with hypotheses a state and operands
that meet them all, clause by clause. Expected values come from the spec's rules and tables. -/

-- one theorem at a time: evaluated side by side they need more memory than the check allows
set_option Elab.async false

open Sys2Proof
open Sys2Proof.Machine

namespace Sys2Proof.Tests

/-- A device that runs Riraiz, with the given fields. -/
def dev (fs : List (Row × List Nat × Nat)) : Dev :=
  { State.reset.dev with regs := fs.map (fun e => (⟨e.1, e.2.1⟩, e.2.2)) ++ [(⟨.glBoot, []⟩, 2)] }

/-- A state with such a device, changed by f. -/
def st (fs : List (Row × List Nat × Nat)) (f : Dev → Dev := id) : State := { State.reset with dev := f (dev fs) }

/-- The command answers a next state of which p holds. -/
def gives (i : Instr) (s : State) (p : State → Bool) : Bool :=
  match exec i s with
  | .next t => p t
  | _ => false

/-- The command answers the fault. -/
def faults (i : Instr) (s : State) (f : Fault) : Bool :=
  match exec i s with
  | .fault g => g == f
  | _ => false

/-- Code and payload of the latest occurrence of a source, and how many there were. -/
def seen (t : State) (src : Nat) : Nat × Nat × Bytes :=
  let x := tget {} t.ev src
  (x.occurred, x.code, x.payload)

/-! ### Well-formedness: a term that each check refuses, and one at the edge that it accepts -/

/-- One past the largest value of 32 and of 64 bits. -/
def b32 : Nat := 2 ^ 32
def b64 : Nat := 2 ^ 64

/-- Every command is ill formed. -/
def refused (l : List Instr) : Bool := l.all fun i => !i.wf

theorem test_wf_power : refused [.perstNRelease [256] [], .perstNRelease [] [256], .globalReset [256] [], .globalReset [] [256],
    .testLogicReset [256] [], .testLogicReset [] [256], .paceUpdate [1, 2, 3, 4, 5], .registerWrite 2 0, .registerWrite (2 ^ 23) 0,
    .registerWrite 0 b32, .bootSlotHashed [256] [], .bootSlotHashed [] [⟨32, 0, 0, []⟩],
    .bootSlotHashed [] [⟨0, 65536, 0, []⟩], .bootSlotHashed [] [⟨0, 0, b64, []⟩]] = true ∧
    (Instr.registerWrite (2 ^ 23 - 4) (b32 - 1)).wf = true ∧ (Instr.bootSlotHashed [255] [⟨31, 65535, b64 - 1, []⟩]).wf = true := by decide +kernel

theorem test_wf_basin : refused [.basinSpdRead [], .basinPortRead 0 0 (.ringCmd 256 0), .basinPortRead 0 0 (.ringCmd 0 b32),
    .basinPortRead 0 0 (.linkCmd 8 0), .basinPortRead 0 0 (.linkCmd 0 1024), .basinPortRead 0 0 (.position b32), .basinPortWrite 0 0 (zeros 63),
    .basinPortWrite 0 0 (256 :: zeros 63), .basinCommandIssue 0 [(0, 256)] 0, .bar2Write 0 [256],
    .cacheAccess 0 (.linkCmd 8 0) false 0 1 [] none none, .cacheAccess 0 .other true 0 1 [256] none none, .clean 0 b32 0 0 0 0 none,
    .clean 0 0 256 0 0 0 none, .invalidate 0 0 0 b32 0 0 none, .cleanAndInvalidate 0 0 0 0 b64 0 none, .lockFill 0 0 0 0 0 b64 none] = true ∧
    (Instr.basinPortRead 0 0 (.linkCmd 7 1023)).wf = true ∧ (Instr.lockFill 0 0 255 (b32 - 1) 0 (b64 - 1) none).wf = true := by decide +kernel

theorem test_wf_host : refused [.wellheadWrite 0 b32, .indexWordRead 0 b32, .hostReadCompletion 0 b32 [] true, .hostReadCompletion 0 0 [256] true,
    .fence 0 b32 0, .queueReset 0 b32 1 0, .queueReset 0 0 256 0, .queueReset 0 0 1 b32, .deferredLogRead 0 b32 none 0 0,
    .deferredLogRead 0 0 none b64 0, .deferredLogRead 0 0 none 0 b32, .unknownOpcode 0 b32 0] = true ∧
    (Instr.queueReset 255 (b32 - 1) 255 (b32 - 1)).wf = true := by decide +kernel

theorem test_wf_takes : refused [.record 0 b32 false 0 0 0 0 [] 0, .record 0 0 false b64 0 0 0 [] 0, .record 0 0 false 0 b64 0 0 [] 0,
    .record 0 0 false 0 0 b32 0 [] 0, .record 0 0 false 0 0 0 b64 [] 0, .record 0 0 false 0 0 0 0 [(b64, 0)] 0,
    .record 0 0 false 0 0 0 0 [(0, b32)] 0, .record 0 0 false 0 0 0 0 [] b64, .retrieve 0 0 0 0 0 0 [(0, b32)], .flush 0 b32,
    .takeOpen 0 0 0 0 0 (zeros 31), .takeOpen 0 0 0 0 b64 (zeros 32), .takeClose 0 0 0 b64 0 0, .takeQuery 0 0 0 0 b32,
    .catalogRead 0 0 65536 0 0 0 0, .blockWrite 0 0 false b32 0 0, .blockRead 0 0 0 256 0 0, .peerExport 0 0 0 0 0 0 b32] = true ∧
    (Instr.record 0 0 true 0 (b64 - 1) (b32 - 1) 0 [(b64 - 1, b32 - 1)] (b64 - 1)).wf = true := by decide +kernel

/-- A load's reads at the edge of every field. -/
def edgeLoad : LoadRead :=
  { answers := [⟨31, 65535, 0, [4, 0, 0, 0, 4]⟩], reads := [⟨31, 7, false, 496, 0, [some 32, none]⟩], formats := [(31, 3, [2 ^ 96 - 1])], catalogue := [List.replicate 4 (List.replicate 7 .blank)], rows := [⟨31, 3, 0, [(7, 0, true)]⟩] }

theorem test_wf_load : refused [.mediaLoad 0 0 0 { answers := [⟨0, 0, 0, [5]⟩] }, .mediaLoad 0 0 0 { reads := [⟨0, 0, true, 0, 0, []⟩] },
    .mediaLoad 0 0 0 { reads := [⟨0, 1, true, 0, 0, [some 33]⟩] },
    .mediaLoad 0 0 b32 {}, .mediaLoad 0 0 0 { answers := [⟨32, 0, 0, []⟩] }, .mediaLoad 0 0 0 { formats := [(32, 0, [])] },
    .mediaLoad 0 0 0 { formats := [(0, 4, [])] }, .mediaLoad 0 0 0 { formats := [(0, 0, [2 ^ 96])] }, .mediaLoad 0 0 0 { catalogue := [[]] },
    .mediaLoad 0 0 0 { catalogue := [List.replicate 4 []] }, .mediaLoad 0 0 0 { catalogue := [List.replicate 4 (List.replicate 7 (.good []))] },
    .mediaLoad 0 0 0 { rows := [⟨32, 0, 0, []⟩] }, .mediaLoad 0 0 0 { rows := [⟨0, 4, 0, []⟩] }, .mediaLoad 0 0 0 { rows := [⟨0, 0, 0, [(8, 0, true)]⟩] }] = true ∧
    (Instr.mediaLoad 255 0 (b32 - 1) edgeLoad).wf = true := by decide +kernel

theorem test_wf_media : refused [
    .mediaUnload 0 b32, .spindleSet 0 0 false 65536 0 0, .spindleSet 0 0 false 0 65536 0, .spindleSet 0 0 false 0 0 65536, .traceRead 0 0 256 0,
    .calibMeasure 0 0 65536 0 0 0, .calibMeasure 0 0 0 65536 0 0, .selfTest 0 0 256 0 0, .selftestItemDone 256 0 0 0, .selftestItemDone 0 0 0 b32] = true ∧
    (Instr.spindleSet 255 0 true 65535 65535 65535).wf = true := by decide +kernel

theorem test_wf_firmware : refused [.attest 0 0 (zeros 31) 0 0, .attest 0 0 (zeros 32) b64 0, .verify 0 0 0 b32 [], .verify 0 0 0 1 [256],
    .verify 0 0 0 2 [0], .program 0 0 256 0 0 [], .program 0 0 0 b64 0 [], .program 0 0 0 0 1 [], .fwProgramEnd [256]] = true ∧
    (Instr.verify 0 0 (b64 - 1) 1 [255]).wf = true := by decide +kernel

theorem test_wf_spring : refused [.alignmentFound 0 [], .alignmentFound 0 (List.replicate 4 ⟨4, 0, 0⟩), .alignmentFound 0 (List.replicate 4 ⟨0, b64, 0⟩),
    .lack 0 65536, .lnak 0 false 65536, .packetDiscard 0 [256], .springWrite 0 65536 0 false 0 0 0 0 0, .springWrite 0 0 65536 false 0 0 0 0 0,
    .springRead 0 0 0 0 b64 0 0, .springLog 0 0 0 0 b32, .unknownOp 0 0 0 256 0, .unsupportedPacketType 0 0 16, .springData 0 0 0 65536 0 [],
    .springData 0 0 0 0 0 [256], .qrst 0 65536, .credit 0 0 b32, .creditGrant 0 b32, .xrdy 0 1024 0, .xrdyTimeout 0 65536] = true ∧
    (Instr.springWrite 7 65535 65535 true 0 0 0 0 0).wf = true := by decide +kernel

theorem test_wf_optics : refused [.rowAllocate 0 0 0 b64, .blockDecoded b32 {}, .ladderRereadEnd b32 [], .ladderRereadEnd 0 [(b32, {})],
    .ladderLevelDecoded b32, .railWaitExpiry b32, .dropout 0 0 0 [] (zeros 8192), .dropoutEnd 0 0 0 [], .scoutDefect 0 0 (zeros 4103),
    .scoutDefectEnd 0 0 [], .railAddressMark 0 true (2 ^ 40), .loopSample 0 [] [], .bankSwap 0 65536, .rroWrite 0 0 0 65536,
    .wedge 0 0 1024 0 0 0 0 0, .wedge 0 0 0 65536 0 0 0 0, .wedge 0 0 0 0 0 0 65536 0, .seekLanding 0 (2 ^ 18) 0,
    .sledGoto 0 (2 ^ 31), .sledGoto 0 (-(2 ^ 31) - 1), .homingPatternSeen 0 [], .homingRadiusRead 0 (List.replicate 384 (0, 0)), .catchEnd 0 0 true 65536,
    .gateFault 0 0 b32, .pickupBusFrame 0 (2 ^ 40), .routeWrite 0 b32, .dieSensorRead []] = true ∧
    (Instr.sledGoto 0 (-(2 ^ 31))).wf = true ∧ (Instr.wedge 31 15 1023 65535 65535 65535 65535 (-32)).wf = true ∧
    (Instr.scoutDefect 31 0 (zeros 4104)).wf = true := by decide +kernel

/-! ### Codes and tables of the format -/

/-- The bytes that each frame carries: R60's 496 frames of 152 bytes hold 304 codewords of 248. -/
theorem test_frames : 496 * 152 = 304 * 248 ∧ 304 * 216 = 65664 ∧ framePos 0 = 960 ∧ framePos 495 = 960 + 1854 * 495 := by decide +kernel

/-- NRZI turns a channel bit into a change of level, and reading turns it back. -/
theorem test_levels : nrzi false [true, false, false, true] = [true, true, true, false] ∧
    channelBits false [true, true, true, false] = [true, false, false, true] := by decide +kernel

/-! ### The machine -/

theorem test_step_front : step { st [] with pending := [.timeLoRead, .snapTake] } =
    exec .timeLoRead { st [] with pending := [.snapTake] } := rfl

theorem test_idle_counts : (st [] (fun d => { d with time := 2 ^ 64 - 1 })).pending = [] ∧
    (match step (st [] fun d => { d with time := 2 ^ 64 - 1 }) with | .next t => t.dev.time == 0 | _ => false) = true := by
  decide +kernel

theorem test_reset_inv : State.reset.Inv := ⟨by decide +kernel, by decide +kernel, by decide +kernel⟩

/-- A state whose basin is not empty, and which meets the invariant. -/
def touched : State := { st [] with mem := [(0, 1), (64, 255)], ev := [(7, { occurred := 5, posted := 3, pending := 2 })] }

theorem test_inv_step : touched.Inv ∧ (∃ t, step touched = .next t) := ⟨⟨by decide +kernel, by decide +kernel, by decide +kernel⟩, _, rfl⟩

theorem test_inv_shut_out : Memory.wf [(64, 1), (0, 1)] = false ∧ Memory.wf [(0, 0)] = false ∧
    evConserved [(7, { occurred := 5, posted := 3, pending := 1 })] = false := by decide +kernel

theorem test_queue_kept : gives .timeLoRead { st [] with pending := [.snapTake] } (fun t => t.pending == [.snapTake]) = true := by
  decide +kernel

theorem test_wipe_changes_basin : gives .vinBrownout { touched with dev := { touched.dev with pins := { touched.dev.pins with perstLow := false } } }
    (fun t => memGet t.mem 64 == 0 && memGet touched.mem 64 == 255) = true := by decide +kernel

/-! ### Host rings -/

theorem test_wellhead_asks : (st [(.sqEn, [255], 1), (.sqTailLo, [255], 64)]).dev.ready = true ∧
    (st [(.sqEn, [255], 1), (.sqTailLo, [255], 64)]).dev.indexEnabled 255 = true ∧
    (st [(.sqEn, [255], 1), (.sqTailLo, [255], 64)]).dev.readIssued 255 = false ∧
    gives (.wellheadWrite 0 255) (st [(.sqEn, [255], 1), (.sqTailLo, [255], 64)])
      (fun t => t.dev.readIssued 255 && !t.dev.readOwed 255 && t.dev.out == [.hostRead 64 8 false]) = true := by decide +kernel

theorem test_wellhead_asks_event_ring : (st [(.eqEn, [63], 1)]).dev.indexEnabled 575 = true ∧
    gives (.wellheadWrite 0 0x23F) (st [(.eqEn, [63], 1)]) (fun t => t.dev.readIssued 575) = true := by decide +kernel

/-- A read of the head word of completion ring 0 is on its way. -/
def headOnItsWay : State := st [(.cqEn, [0], 1)] fun d => d.updCq 0 fun q => { q with readIssued := true }

theorem test_wellhead_pending : headOnItsWay.dev.readIssued 256 = true ∧ headOnItsWay.dev.indexEnabled 256 = true ∧
    gives (.wellheadWrite 0 256) headOnItsWay (fun t => t.dev.out == [] && t.dev.readOwed 256) = true ∧
    gives (.indexWordRead 256 3) (st [(.cqEn, [0], 1)] fun d => d.updCq 0 fun q => { q with readIssued := true, readOwed := true })
      (fun t => t.dev.out == [.hostRead 0 8 false] && t.dev.readIssued 256 && !t.dev.readOwed 256) = true := by decide +kernel

theorem test_wellhead_ignored : gives (.wellheadWrite 0 0x240) (st [(.eqEn, [63], 1)]) (fun t => t.dev.out == []) = true ∧
    gives (.wellheadWrite 4 0) (st [(.sqEn, [0], 1)]) (fun t => t.dev.out == []) = true ∧
    (st []).dev.indexEnabled 1 = false ∧ gives (.wellheadWrite 0 1) (st []) (fun t => t.dev.out == []) = true := by decide +kernel

/-- A full completion ring 0 and a full event ring 63, each of 16 entries. -/
def fullRings : State := st [(.cqEn, [0], 1), (.cqSize, [0], 4), (.cqPosted, [0], 16), (.eqEn, [63], 1), (.eqSize, [63], 4),
  (.hPoll, [], 1), (.sqEn, [255], 1), (.sqPoll, [255], 1)] fun d => d.updEq 63 fun q => { q with posted := 16 }

theorem test_full_rings_reread : fullRings.dev.cqFull 0 = true ∧ fullRings.dev.eqFull 63 = true ∧
    fullRings.dev.indexEnabled 256 = true ∧ fullRings.dev.indexEnabled 575 = true ∧ 
    gives (.fullRingReread 256) fullRings (fun t => t.dev.readIssued 256) = true ∧
    gives (.fullRingReread 575) fullRings (fun t => t.dev.readIssued 575) = true := by decide +kernel

theorem test_poll : fullRings.dev.rd .hPoll ≠ 0 ∧ fullRings.dev.ready = true ∧
    gives .hostPoll fullRings (fun t => t.dev.readIssued 255 && t.dev.readIssued 256 && t.dev.readIssued 575 && !t.dev.readIssued 0) =
      true := by decide +kernel

theorem test_poll_off : (st [(.sqEn, [0], 1), (.sqPoll, [0], 1), (.hPoll, [], 0)]).dev.rd .hPoll = 0 ∧
    gives .hostPoll (st [(.sqEn, [0], 1), (.sqPoll, [0], 1), (.hPoll, [], 0)]) (fun t => t.dev.out == []) = true := by decide +kernel

/-- Submission ring 255 of 16 entries on completion ring 0, its counts about to wrap. -/
def wrapRing (fs : List (Row × List Nat × Nat)) (f : Dev → Dev := id) : State :=
  st (fs ++ [(.sqEn, [255], 1), (.sqSize, [255], 4), (.sqCq, [255], 0), (.sqConsumed, [255], 2 ^ 32 - 1), (.sqInflight, [255], 0),
    (.cqEn, [0], 1), (.cqSize, [0], 4)]) fun d => f (d.updSq 255 fun q => { q with tail := 2 ^ 32 - 1, started := 2 ^ 32 - 1 })

theorem test_tail_consumed : (wrapRing []).dev.on .sqEn [255] = true ∧ (wrapRing []).dev.tailBad 255 14 = false ∧
    ((wrapRing []).dev.sqS 255).resetting = [] ∧ ((wrapRing []).dev.cqS ((wrapRing []).dev.rd .sqCq [255])).waiting.length < 4096 ∧
    gives (.indexWordRead 255 14) (wrapRing []) (fun t => t.dev.rd .sqConsumed [255] == 14 && t.dev.rd .sqInflight [255] == 15 &&
      t.dev.out.take 2 == [.hostRead (64 * 15) 64 false, .hostRead 0 64 false]) = true := by decide +kernel

theorem test_tail_bad : (wrapRing []).dev.tailBad 255 15 = true ∧ faults (.indexWordRead 255 15) (wrapRing []) .tailMisuse = true ∧
    (wrapRing []).dev.tailBad 255 (2 ^ 32 - 2) = true := by decide +kernel

theorem test_consumption_stops_at_4096 : gives (.indexWordRead 255 14) (wrapRing [(.sqInflight, [255], 4095)])
    (fun t => t.dev.rd .sqConsumed [255] == 0 && t.dev.rd .sqInflight [255] == 4096) = true := by decide +kernel

theorem test_head_words : (wrapRing []).dev.on .cqEn [0] = true ∧
    gives (.indexWordRead 256 (2 ^ 32 + 5)) (wrapRing []) (fun t => (t.dev.cqS 0).head == 5) = true ∧
    fullRings.dev.on .eqEn [63] = true ∧ gives (.indexWordRead 575 16) fullRings (fun t => (t.dev.eqS 63).head == 16) = true := by
  decide +kernel

/-- A RECORD of 128 bytes on ring 0 whose first 4 bytes have arrived. -/
def gathering : State := st [] fun d => { d with
  cmds := [{ origin := .ring 0 7, op := 0x01, cookie := 9, length := 128, arg := 128, delivered := 4, phase := .gathering,
             got := [1, 2, 3, 4] }] }

theorem test_host_read_completion : (∃ c, gathering.dev.cmd (.ring 0 7) = some c ∧ (c.op = 0x01 ∨ c.op = 0x10) ∧
      c.phase = .gathering ∧ c.delivered < c.arg) ∧
    gives (.hostReadCompletion 0 7 [] false) gathering
      (fun t => (t.dev.cqS 0).waiting.map (fun k => (k.cookie, k.cls, k.detail)) == [(9, clsDevice, detHostMemory)]) = true :=
  ⟨⟨_, rfl, by decide +kernel⟩, by decide +kernel⟩

theorem test_host_read_data : gives (.hostReadCompletion 0 7 [5, 6, 7, 8] true) gathering
    (fun t => t.dev.cmds.map (fun c => (c.delivered, c.got)) == [(8, [1, 2, 3, 4, 5, 6, 7, 8])]) = true := by decide +kernel

/-- Rings ready to be enabled: bases and index words aligned, SIZE at its two ends. -/
def offRings : State := st [(.sqSize, [255], 16), (.cqEn, [3], 1), (.cqSize, [3], 4), (.sqCq, [255], 3), (.sqConsumed, [255], 77),
  (.cqSize, [255], 4), (.eqSize, [63], 16), (.cqPosted, [255], 5)]

theorem test_enable_sq : offRings.dev.ready = true ∧ offRings.dev.on .sqEn [255] = false ∧ offRings.dev.ringReady 255 = true ∧
    gives (.ringEnable 255 true) offRings (fun t => t.dev.on .sqEn [255] && t.dev.rd .sqConsumed [255] == 0) = true := by decide +kernel

theorem test_enable_cq_eq : offRings.dev.on .cqEn [255] = false ∧ offRings.dev.ringReady 511 = true ∧
    gives (.ringEnable 511 true) offRings (fun t => t.dev.on .cqEn [255] && t.dev.rd .cqPosted [255] == 0) = true ∧
    offRings.dev.on .eqEn [63] = false ∧ offRings.dev.ringReady 575 = true ∧
    gives (.ringEnable 575 true) offRings (fun t => t.dev.on .eqEn [63]) = true := by decide +kernel

theorem test_enable_again : offRings.dev.indexEnabled 259 = true ∧ gives (.ringEnable 259 true) offRings (· == offRings) = true ∧
    offRings.dev.indexEnabled 0 = false ∧ gives (.ringEnable 0 false) offRings (· == offRings) = true := by decide +kernel

theorem test_disable_rings : (wrapRing []).dev.ready = true ∧ (wrapRing []).dev.indexEnabled 255 = true ∧
    gives (.ringEnable 255 false) (wrapRing [(.sqInflight, [255], 1)]) (fun t => !t.dev.on .sqEn [255]) = true ∧
    offRings.dev.indexEnabled 259 = true ∧ gives (.ringEnable 259 false) offRings (fun t => !t.dev.on .cqEn [3]) = true ∧
    gives (.ringEnable 575 false) (st [(.eqEn, [63], 1)]) (fun t => !t.dev.on .eqEn [63]) = true := by decide +kernel

theorem test_enable_misused : faults (.ringEnable 255 true) (st [(.cqEn, [0], 1), (.sqBaseLo, [255], 2048)]) .ringMisuse = true ∧
    faults (.ringEnable 255 true) (st []) .ringMisuse = true := by decide +kernel

/-- Ring r with one consumed descriptor that has not started, and completion ring 0. -/
def oneConsumed (r : Nat) (fs : List (Row × List Nat × Nat) := []) (f : Dev → Dev := id) : State :=
  st (fs ++ [(.sqEn, [r], 1), (.sqSize, [r], 4), (.sqConsumed, [r], 1), (.sqInflight, [r], 1), (.cqEn, [0], 1), (.cqSize, [0], 4)])
    fun d => f (d.updSq r fun q => { q with tail := 1 })

/-- Class and detail of the completions waiting for completion ring 0. -/
def ends (t : State) : List (Nat × Nat) := (t.dev.cqS 0).waiting.map fun k => (k.cls, k.detail)

theorem test_fence_empty : (oneConsumed 255).dev.mayStart 255 ∧
    gives (.fence 255 0xC0 0) (oneConsumed 255) (fun t => ends t == [(clsOk, 0)] && t.dev.cmds == []) = true := by
  refine ⟨⟨by decide +kernel, by decide +kernel⟩, by decide +kernel⟩

theorem test_unknown_opcode : gives (.unknownOpcode 255 1 0xFF) (oneConsumed 255)
    (fun t => ends t == [(clsDevice, 1)]) = true := by decide +kernel

theorem test_queue_reset_refused : (255 : Fin 256) ≠ 0 ∧
    gives (.queueReset 255 1 2 3) (oneConsumed 255) (fun t => ends t == [(clsDevice, 2)]) = true ∧
    (oneConsumed 0).dev.mayStart 0 ∧
    gives (.queueReset 0 1 0 3) (oneConsumed 0) (fun t => ends t == [(clsDevice, 2)]) = true := by
  refine ⟨by decide +kernel, by decide +kernel, ⟨by decide +kernel, by decide +kernel⟩, by decide +kernel⟩

/-- A FENCE of scope DONE with nothing before it. -/
def fenced : State := st [] fun d => { d with cmds := [{ origin := .ring 255 3, op := 0x03, arg := 1 }] }

theorem test_fence_satisfied : fenced.dev.cmds = [{ origin := .ring 255 3, op := 0x03, arg := 1 }] ∧
    Origin.sameQueue (.ring 255 3) (.ring 255 0) = true ∧ fenced.dev.bar2Waiting = [] ∧
    gives (.fenceSatisfied 255) fenced (fun t => ends t == [(clsOk, 0)] && t.dev.cmds == []) = true := by decide +kernel

theorem test_fence_waits : gives (.fenceSatisfied 255)
    (st [] fun d => { d with cmds := [{ origin := .ring 255 2, op := 0x10, arg := 64, phase := .gathering }, { origin := .ring 255 3, op := 0x03, arg := 1 }] })
    (fun t => t.dev.cmds.length == 2) = true := by decide +kernel

/-- Ring 255 with a deferred log of two entries. -/
def logged : State := oneConsumed 255 [] fun d =>
  d.updSq 255 fun q => { q with unread := true, deferred := [⟨1, 2, 1, 0x301, 4, 0⟩, ⟨2, 3, 1, 0x301, 4, 65536⟩] }

theorem test_deferred_log : logged.dev.mayStart 255 ∧ logged.dev.cmds = [] ∧
    gives (.deferredLogRead 255 1 none 4096 63) logged
      (fun t => (t.dev.sqS 255).deferred == [⟨2, 3, 1, 0x301, 4, 65536⟩] &&
        t.dev.out == [.hostWrite 4096 (le 4 1 ++ le 4 2 ++ [1, 0] ++ le 2 0x301 ++ zeros 4 ++ le 8 4 ++ le 8 0) true]) = true := by
  refine ⟨⟨by decide +kernel, by decide +kernel⟩, by decide +kernel, by decide +kernel⟩

/-- Ring 0 with a QUEUE_RESET to start; ring 255 idle at count 5, with two more placed. -/
def resetting : State := oneConsumed 0 [(.sqEn, [255], 1), (.sqConsumed, [255], 5)] fun d => d.updSq 255 fun q => { q with started := 5 }

theorem test_queue_reset : resetting.dev.mayStart 0 ∧ resetting.dev.cmds = [] ∧
    (resetting.dev.cqS (resetting.dev.rd .sqCq [255])).waiting = [] ∧
    (resetting.dev.sqS 255).started = resetting.dev.rd .sqConsumed [255] ∧ resetting.dev.rd .sqInflight [255] ≤ 4096 ∧
    gives (.queueReset 0 1 255 7) resetting (fun t => t.dev.rd .sqConsumed [255] == 7 && t.dev.rd .sqAborted [255] == 2 &&
      (t.dev.sqS 255).resetting == [(0, 2, 5, 6)] && t.dev.out == [.hostRead 0 8 false]) = true := by
  refine ⟨⟨by decide +kernel, by decide +kernel⟩, by decide +kernel, by decide +kernel, by decide +kernel, by decide +kernel, by decide +kernel⟩

/-- Ring 255 after its QUEUE_RESET. -/
def marking : State := st [] fun d => { d.updSq 255 fun q => { q with resetting := [(4, 2, 5, 6)] } with
  cmds := [{ origin := .ring 0 4, op := 0x38, cookie := 1 }] }

theorem test_queue_reset_marker : (marking.dev.sqS 255).resetting = [(4, 2, 5, 6)] ∧
    (∀ c ∈ marking.dev.cmds, c.origin.sameQueue (.ring 255 0) = false) ∧
    (∀ k ∈ (marking.dev.cqS (marking.dev.rd .sqCq [255])).waiting, ¬(k.marker = true ∧ k.ring = 255)) ∧
    gives (.queueResetMarker 255) marking (fun t => ends t == [(clsAborted, 2)] && t.dev.cmds.length == 1) = true := by
  decide +kernel

/-- That marker at the head of completion ring 0, before one more completion. -/
def marked : State := st [(.cqEn, [0], 1), (.cqSize, [0], 4)] fun d => { marking.dev with
  regs := d.regs, cq := [(0, { waiting := [⟨255, 6, 0, clsAborted, 2, 0xFF, 5 + 2 ^ 32 * 6, true, 4, false⟩] })] }

theorem test_marker_posted : marked.dev.cqFull 0 = false ∧ marked.dev.on .cqEn [0] = true ∧
    gives (.commandCompletion 0) marked (fun t => ends t == [(clsOk, 2)] && t.dev.cmds == [] && (t.dev.sqS 255).resetting == []) = true := by
  decide +kernel

/-- Event ring 63 of 16 entries with one free, for a source that has two to post. -/
def oneFree : State := { st [(.eqEn, [63], 1), (.eqSize, [63], 4)] fun d => d.updEq 63 fun q => { q with posted := 15 } with
  ev := [(7, { ring := 63, mask := false, pending := 1, occurred := 1, payload := zeros 13 })] }

theorem test_event_waits_for_two : oneFree.dev.eqFull 63 = false ∧ oneFree.dev.eventWaits oneFree.ev 63 = true ∧
    gives (.fullRingReread 575) oneFree (fun t => t.dev.readIssued 575) = true := by decide +kernel

/-- Two completions waiting for completion ring 0, whose count wraps its index. -/
def posting : State := st [(.cqEn, [0], 1), (.cqSize, [0], 4), (.cqPosted, [0], 31), (.cqBaseLo, [0], 4096), (.sqInflight, [2], 1),
    (.cqCoalUs, [0], 1), (.cqCoalCnt, [0], 1), (.cqVector, [0], 2047)] fun d => { d.updCq 0 fun q => { q with
  head := 16, unsignalled := 1, waiting := [⟨2, 9, 7, clsOk, 0, 1, 0, false, 0, false⟩, ⟨2, 10, 8, clsOk, 0, 1, 0, false, 0, false⟩] } with
  msix := [(0x187FF0, 0xFEE00000), (0x187FF8, 77), (0x187FFC, 0)] }

theorem test_finish : marking.dev.cmd (.ring 0 4) = some { origin := .ring 0 4, op := 0x38, cookie := 1 } ∧
    (marking.dev.finish (.ring 0 4) clsOk 3 5).cqS 0 = { waiting := [⟨0, 4, 1, clsOk, 3, 0x38, 5, false, 0, false⟩] } := by decide +kernel

theorem test_completion : (posting.dev.cqS 0).waiting = [⟨2, 9, 7, clsOk, 0, 1, 0, false, 0, false⟩, ⟨2, 10, 8, clsOk, 0, 1, 0, false, 0, false⟩] ∧
    posting.dev.on .cqEn [0] = true ∧ posting.dev.cqFull 0 = false ∧
    gives (.commandCompletion 0) posting (fun t => t.dev.rd .cqPosted [0] == 32 && t.dev.rd .sqCompleted [2] == 1 &&
      t.dev.rd .sqInflight [2] == 0 && t.dev.out == [.hostWrite (4096 + 32 * 15)
        (le 4 9 ++ le 4 7 ++ [0, 2, 0, 0, 0, 0, 0, 1] ++ zeros 8 ++ zeros 8) false, .msix 2047 0xFEE00000 77]) = true := by decide +kernel

theorem test_completion_full : fullRings.dev.cqFull 0 = true ∧
    gives (.commandCompletion 0) fullRings (fun t => t.dev.rd .cqPosted [0] == 16) = true := by decide +kernel

theorem test_masked_vector : posting.dev.msixMasked 2047 = false ∧ (st []).dev.msixMasked 3 = true ∧
    ((st []).dev.interrupt 3).msixPending = [3] := by decide +kernel

theorem test_coalesce : posting.dev.rd .cqCoalUs [0] ≠ 0 ∧ (posting.dev.cqS 0).unsignalled ≠ 0 ∧
    gives (.coalesceTimer 0) posting (fun t => t.dev.out == [.msix 2047 0xFEE00000 77] && (t.dev.cqS 0).unsignalled == 0) = true := by decide +kernel

/-! ### The basin -/

/-- A basin in training whose SPD has not been read. -/
def untrained : State := st [] fun d => d.updBasin fun b => { b with trainStart := some 0 }

theorem test_spd_smallest : untrained.dev.basin.trainStart.isSome = true ∧ untrained.dev.basin.spdRead = false ∧
    untrained.dev.on .bsConfigErr = false ∧
    gives (.basinSpdRead [some 0, none, some 0, none, some 0, none, some 0, none]) untrained
      (fun t => t.dev.rd .bsUnitsInstalled == 65536 && t.dev.rd .bsUnitsHeld == 65536 && t.dev.rd .bsDpc == 1) = true := by decide +kernel

theorem test_spd_largest : gives (.basinSpdRead (List.replicate 8 (some 4))) untrained
    (fun t => t.dev.rd .bsUnitsInstalled == 2 ^ 20 && t.dev.rd .bsOrg == 4 && t.dev.rd .bsDpc == 2) = true := by decide +kernel

theorem test_spd_empty_slot : gives (.basinSpdRead (none :: List.replicate 7 (some 4))) untrained
    (fun t => t.dev.on .bsConfigErr && seen t 0x6A0 == (1, 0x1306, [0, 0])) = true := by decide +kernel

/-- A basin of one DIMM per channel whose unit 15 has failed its last step twice. -/
def training : State := st [(.bsDpc, [], 1)] fun d => d.updBasin fun b =>
  { b with spdRead := true, steps := [(14, 5)], attempts := [(14, 2)] }

theorem test_train_step : training.dev.basin.spdRead = true ∧ training.dev.on .bsTrainErr = false ∧
    tget 0 training.dev.basin.steps 14 = 5 ∧ tget 0 training.dev.basin.attempts 14 = 2 ∧
    gives (.basinTrainStep 7 0 true) training (fun t => tget 0 t.dev.basin.steps 14 == 6) = true ∧
    gives (.basinTrainStep 7 0 false) training
      (fun t => t.dev.on .bsTrainErr && seen t 0x6A0 == (1, 0x1307, [3, 1, 0, 6])) = true := by decide +kernel

theorem test_train_first_failures : tget 0 training.dev.basin.attempts 0 = 0 ∧
    gives (.basinTrainStep 0 0 false) training (fun t => !t.dev.on .bsTrainErr && tget 0 t.dev.basin.attempts 0 == 1) = true := by
  decide +kernel

/-- A basin of 64 units in service, organised as the first row of Table 13-1. -/
def basin (fs : List (Row × List Nat × Nat) := []) (f : Dev → Dev := id) : State :=
  st (fs ++ [(.bsUnitsInstalled, [], 64), (.bsDpc, [], 1), (.bsReady, [], 1), (.bsUnitsFree, [], 62)]) fun d =>
    f (d.updBasin fun b => { b with spdRead := true, rows := 65536, bursts := 64, ranks := 1, wide := true, initNext := 62,
                                    initSvc := 2, steps := (List.range 16).map fun k => (k, 6) })

theorem test_port_read : 1048575 < (basin []).dev.words ∧ (basin []).dev.chanOf 1048575 = 0 ∧
    gives (.basinPortRead 7 1048575 .other) (basin []) (fun t => (t.dev.chan 0).reads.map (fun e => (e.word, e.port, e.deadline)) ==
      [(1048575, 7, 1000)]) = true := by decide +kernel

theorem test_port_read_full : gives (.basinPortRead 0 0 .other)
    (basin [] fun d => d.updChan 0 fun k => { k with reads := List.replicate 64 { word := 16, port := 2 } })
    (fun t => (t.dev.chan 0).reads.length == 64 && (t.dev.chan 0).overflow.length == 1) = true := by decide +kernel

theorem test_port_write : (zeros 64).length = 64 ∧
    gives (.basinPortWrite 2 0 (zeros 64)) (basin []) (fun t => (t.dev.chan 0).writes.map QEntry.word == [0]) = true := by decide +kernel

theorem test_write_in_part_refused : gives (.basinPortWrite 2 0 (zeros 63)) (basin []) (fun t => (t.dev.chan 0).writes == []) = true := by
  decide +kernel

theorem test_patrol : (basin [(.bsPatrolCursorLo, [], 1048575)]).dev.rd .bsPatrolHours ≠ 0 ∧
    (basin [(.bsPatrolCursorLo, [], 1048575)]).dev.nextInitWord 65 1048575 = some 1048575 ∧
    gives .patrolRead (basin [(.bsPatrolCursorLo, [], 1048575)])
      (fun t => (t.dev.chan 0).reads.map QEntry.port == [8] && t.dev.rd .bsPatrolCursorLo == 0) = true := by decide +kernel

/-- Channel 0 with two writes and a read. -/
def queued : State := basin [] fun d => d.updChan 0 fun k => { k with
  writes := [{ word := 0, port := 2, data := List.replicate 64 7, seq := 4 }, { word := 1, port := 2, data := zeros 64, seq := 2 }] }

theorem test_write_age : (oldest (queued.dev.chan 0).writes).map QEntry.seq = some 2 ∧
    gives (.writeAgeExpiry 0) queued (fun t => (t.dev.chan 0).aged == [2]) = true := by decide +kernel

/-- Channel 0 with one write of word 0. -/
def oneWrite : State := basin [] fun d => d.updChan 0 fun k => { k with
  writes := [{ word := 0, port := 2, data := List.replicate 64 7, seq := 4 }] }

theorem test_issue_write : Memory.wf oneWrite.mem = true ∧
    (oneWrite.dev.nextIssue 0).map (fun e => (e.word, e.data.length, e.port)) = some (0, 64, 2) ∧
    gives (.basinCommandIssue 0 [] 0) oneWrite (fun t => memGet t.mem 0 == 7 && memGet t.mem 63 == 7 && memGet t.mem 64 == 0 &&
      t.dev.out == [.dram 0 true 0 (burstBeats (chipEncode (List.replicate 64 7) 0))]) = true := by decide +kernel

/-- Channel 0 with one read of word 0 by port 3. -/
def oneRead : State := { basin [] fun d => d.updChan 0 fun k => { k with reads := [{ word := 0, port := 3 }] } with mem := [(0, 1)] }

theorem test_issue_read : (oneRead.dev.nextIssue 0).map (fun e => (e.word, e.data, e.want, e.port)) = some (0, [], none, 3) ∧
    oneRead.dev.determinate 0 = true ∧ (oneRead.dev.wordAddr 0).u = 0 ∧
    readCheck oneRead.mem 0 [] 0 = .good (1 :: zeros 63) ∧
    gives (.basinCommandIssue 0 [] 0) oneRead (fun t => t.dev.rd .bsUe [0] == 0 && seen t 0x681 == (0, 0, [])) = true := by decide +kernel

/-- Channel 0 with the one word of a BAR2 read of 4 bytes. -/
def oneBarRead : State := { basin [] fun d => (d.updChan 0 fun k => { k with reads := [{ word := 0, port := 1, want := some 3 }] }).updBasin
  fun b => { b with barReads := [⟨3, 60, 4, []⟩] } with mem := [(61, 9)] }

theorem test_bar2_data : (oneBarRead.dev.nextIssue 0).map (fun e => (e.word, e.data, e.want, e.cache, e.port)) = some (0, [], some 3, none, 1) ∧
    oneBarRead.dev.determinate 0 = true ∧
    gives (.basinCommandIssue 0 [] 0) oneBarRead (fun t => t.dev.out == [.dram 0 false 0 [], .barRead [0, 9, 0, 0] false]) = true ∧
    gives (.basinCommandIssue 0 [(0, 1), (1, 1)] 0) oneBarRead
      (fun t => t.dev.out == [.dram 0 false 0 [], .barRead (zeros 4) true]) = true := by decide +kernel

theorem test_issue_read_uncorrectable : readCheck oneRead.mem 0 [(0, 1), (1, 1)] 0 = .uncorrectable 0 ∧
    gives (.basinCommandIssue 0 [(0, 1), (1, 1)] 0) oneRead
      (fun t => t.dev.rd .bsUe [0] == 1 && seen t 0x681 == (1, 0x1302, zeros 8 ++ [0, 3])) = true := by decide +kernel

theorem test_issue_read_corrected : readCheck oneRead.mem 0 [(9, 0x5A)] 0 = .corrected (1 :: zeros 63) 9 ∧
    gives (.basinCommandIssue 0 [(9, 0x5A)] 0) oneRead (fun t => t.dev.rd .bsCe [0, 9] == 1) = true := by decide +kernel

theorem test_chip_code : (List.replicate 64 255).length = 64 ∧ (∀ x ∈ List.replicate 64 255, x < 256) ∧
    chipDecode (chipEncode (List.replicate 64 255) (2 ^ 34 - 1)) (2 ^ 34 - 1) = .good (List.replicate 64 255) := by decide +kernel

theorem test_refresh_ranks : (basin []).dev.trained = true ∧
    gives (.basinRefresh 1) (basin [(.bsRefMode, [], 1)] fun d => d.updChan 1 fun k => { k with refBank := 3 }) (fun t =>
      t.dev.out == [.refresh 1 0 0 (some 3) false] && (t.dev.chan 1).refBank == 0) = true := by decide +kernel

theorem test_refresh : gives (.basinRefresh 3) (st [(.bsRefDouble, [], 5)] fun d => d.updBasin fun b => { b with refWanted := [3] })
      (fun t => t.dev.rd .bsRefDouble == 13) = true ∧
    gives (.basinRefresh 0) (st [(.bsRefDouble, [], 5)]) (fun t => t.dev.rd .bsRefDouble == 4) = true := by decide +kernel

theorem test_dimm_hot : (basin []).dev.basin.spdRead = true ∧ (basin []).dev.rd .bsTsHot = 95 ∧
    gives (.dimmTempRead 3 0 381) (basin []) (fun t => seen t 0x69B == (1, 0x1305, [0, 0xF4, 5]) && t.dev.rdS .bsTs [3, 0] == 381) =
      true ∧
    gives (.dimmTempRead 3 0 380) (basin []) (fun t => (seen t 0x69B).1 == 0) = true := by decide +kernel

theorem test_dimm_cold : gives (.dimmTempRead 0 0 (-512)) (basin []) (fun t => t.dev.rdS .bsTs [0, 0] == -512) = true := by decide +kernel

theorem test_soft_repair : gives (.softRepairDone 0) (basin [] fun d => d.updChan 0 fun k => { k with blocked := [(1048575, 9), (0, 3)] })
    (fun t => (t.dev.chan 0).blocked == [(0, 3)] && t.dev.rd .bsPprCount == 1 && (seen t 0x682).1 == 1) = true := by decide +kernel

theorem test_repair_order : gives (.softRepairDone 0)
    (basin [] fun d => d.updChan 0 fun k => { k with blocked := [(0, 3)], reads := [{ word := 0, port := 3, seq := 7 }] })
    (fun t => (t.dev.chan 0).ordered == [7] && !t.dev.bankBlocked 0 0 && t.dev.out.length == 64) = true := by decide +kernel

/-- The basin with its last unit still to be initialised. -/
def lastUnit : State := basin [(.bsUnitsHeld, [], 1), (.bsUnitsFree, [], 61)] fun d => d.updBasin fun b => { b with initNext := 61 }

theorem test_last_unit : lastUnit.dev.trained = true ∧ lastUnit.dev.on .bsReady = true ∧
    lastUnit.dev.basin.initSvc = lastUnit.dev.installed / 32 ∧ lastUnit.dev.basin.window = none ∧ lastUnit.dev.uninit ≠ 0 ∧
    gives .basinUnitInitialised lastUnit (fun t => t.dev.rd .bsUnitsHeld == 0 && t.dev.rd .bsUnitsFree == 62 &&
      t.dev.on .bsInitDone) = true := by decide +kernel

/-- Two pieces of work waiting for units. -/
def unitQueue : State := basin [] fun d => d.updBasin fun b => { b with waiting := [⟨.parity 3, 2⟩, ⟨.parity 4, 1⟩] }

theorem test_unit_wait : unitQueue.dev.basin.waiting = ⟨.parity 3, 2⟩ :: [⟨.parity 4, 1⟩] ∧
    (unitQueue.dev.takeUnits (.parity 3) 2 false).isSome = true ∧
    gives .basinUnitWaitServed unitQueue (fun t => t.dev.rd .bsUnitsFree == 60 && t.dev.rd .bsUnitsHeld == 2 &&
      t.dev.basin.waiting == [⟨.parity 4, 1⟩]) = true := by decide +kernel

/-- Work that waits for more units than are free. -/
def shortQueue : State := basin [] fun d => d.updBasin fun b => { b with waiting := [⟨.parity 3, 70⟩] }

theorem test_unit_wait_in_part : shortQueue.dev.couldTake 70 = 62 ∧
    gives .basinUnitWaitServed shortQueue (fun t => t.dev.basin.waiting == [⟨.parity 3, 8⟩] && t.dev.unitsOwned (.parity 3) == 62) = true ∧
    gives .basinUnitWaitServed (basin []) (fun t => t.dev.basin.waiting == []) = true := by decide +kernel

/-- The basin with unit 60 asked for by a BAR2 read, and the service area done, or one unit of it still to come. -/
def askedUnit (n : Nat) : State := basin [] fun d => d.updBasin fun b => { b with initNext := 50, initSvc := n, initWait := [(60 * 2 ^ 20, 4)] }

theorem test_units_in_order :
    gives .basinUnitInitialised (askedUnit 1) (fun t => t.dev.basin.initSvc == 2 && t.dev.basin.initNext == 50) = true ∧
    gives .basinUnitInitialised (askedUnit 2) (fun t => t.dev.unitInit 60 && !t.dev.unitInit 50 && t.dev.basin.initWait == []) = true ∧
    gives .basinUnitInitialised (basin []) (fun t => t.dev.basin.initNext == 62) = true := by decide +kernel

theorem test_import_size : (basin [(.svImportBase, [], 61)]).dev.ready = true ∧
    (basin [(.svImportBase, [], 61)]).dev.rd .svImportBase + 1 ≤ (basin [(.svImportBase, [], 61)]).dev.serviceStart ∧
    gives (.importSizeWrite 1) (basin [(.svImportBase, [], 61)]) (fun t => t.dev.basin.window == some (61, 1) &&
      t.dev.on .svImportReady) = true ∧
    faults (.importSizeWrite 2) (basin [(.svImportBase, [], 61)]) .importWindow = true := by decide +kernel

theorem test_import_not_ready : gives (.importSizeWrite 1) (basin [(.glBoot, [], 1)]) (fun t => t.dev.basin.window == none) = true := by
  decide +kernel

theorem test_import_off : gives (.importSizeWrite 0) (basin [] fun d => d.updBasin fun b => { b with window := some (0, 1) })
    (fun t => t.dev.basin.window == none) = true := by decide +kernel

/-- The basin with unit 0 as its import window. -/
def imported : State := basin [(.svImportSize, [], 1), (.svImportReady, [], 1)] fun d => d.updBasin fun b => { b with window := some (0, 1) }

theorem test_bar2_write : imported.dev.bar2WriteOk (64 * 16383) (zeros 64) = true ∧
    (imported.dev.chan (imported.dev.chanOf 16383)).writes.length < 64 ∧
    gives (.bar2Write (64 * 16383) (zeros 64)) imported (fun t =>
      (t.dev.chan (t.dev.chanOf 16383)).writes.map (fun e => (e.word, e.bar2)) == [(16383, true)]) = true ∧
    faults (.bar2Write (64 * 16384) (zeros 64)) imported .bar2Misuse = true := by decide +kernel

theorem test_bar2_write_two : imported.dev.bar2WriteOk 0 (zeros 64 ++ List.replicate 64 1) = true ∧
    gives (.bar2Write 0 (zeros 64 ++ List.replicate 64 1)) imported (fun t =>
      (t.dev.chan 0).writes.map (fun e => (e.word, e.data)) == [(0, zeros 64), (1, List.replicate 64 1)]) = true := by decide +kernel

theorem test_bar2_read_waits : lastUnit.dev.rangeInit (61 * 2 ^ 20) 4096 = false ∧
    61 * 2 ^ 20 + 4096 ≤ lastUnit.dev.installed * 2 ^ 20 ∧
    gives (.bar2Read (61 * 2 ^ 20) 4096) lastUnit (fun t => t.dev.basin.initWait == [(61 * 2 ^ 20, 4096)]) = true := by decide +kernel

theorem test_bar2_read : (basin []).dev.rangeInit (64 * 1048575) 64 = true ∧
    64 * 1048575 + 64 ≤ (basin []).dev.installed * 2 ^ 20 ∧
    gives (.bar2Read (64 * 1048575) 64) (basin []) (fun t =>
      (t.dev.chan 0).reads.map (fun e => (e.word, e.port, e.want)) == [(1048575, 1, some 0)] && t.dev.basin.barReads == [⟨0, 64 * 1048575, 64, []⟩]) = true ∧
    faults (.bar2Read (64 * 1048576) 4) (basin []) .bar2Misuse = true := by decide +kernel

theorem test_take_units : ((basin []).dev.takeUnits (.parity 3) 62 true).map (fun e =>
      (e.rd .bsUnitsFree, e.rd .bsUnitsReserved, e.rd .bsUnitsHeld)) = some (0, 62, 0) ∧
    ((basin []).dev.takeUnits (.parity 3) 63 true).isNone = true := by decide +kernel

theorem test_arrive_units : (((basin []).dev.takeUnits (.parity 3) 2 true).map fun e => e.arriveUnits (.parity 3) 1).map
    (fun e => (e.rd .bsUnitsFree, e.rd .bsUnitsReserved, e.rd .bsUnitsHeld)) = some (60, 1, 1) := by decide +kernel

/-! ### The track cache -/

/-- First line of the service area of the 64-unit basin. -/
def svcLine : Nat := 62 * 4096

/-- A line whose second word is dirty. -/
def someLine : Line :=
  { valid := true, tag := lineTag svcLine, data := [zeros 64, List.replicate 64 9, zeros 64, zeros 64],
    dirty := [false, true, false, false] }

/-- The basin with the cache enabled, and a line in way 15 of its set. -/
def cached (fs : List (Row × List Nat × Nat) := []) (f : Dev → Dev := id) : State :=
  basin (fs ++ [(.ccEn, [], 1), (.ccCleared, [], 1)]) fun d => f (d.updCache fun c => { c with lines := [(16 * lineSet svcLine + 15, someLine)] })

theorem test_cache_hit : (cached []).dev.inService (256 * svcLine + 192) 64 = true ∧ (256 * svcLine + 192) % 256 + 64 ≤ 256 ∧
    (cached []).dev.on .ccEn = true ∧ (cached []).dev.findWay ((256 * svcLine + 192) / 256) = some 15 ∧
    ((cached []).dev.cline (lineSet svcLine) 15).lost = [] ∧
    gives (.cacheAccess 2 .other false (256 * svcLine + 192) 64 [] none none) (cached [])
      (fun t => t.dev.rd .ccHit == 1 && t.dev.rd .ccMiss == 0 &&
        t.dev.out == [.cacheData 2 (256 * svcLine + 192) (zeros 64)]) = true ∧
    gives (.cacheAccess 2 .other false (256 * svcLine + 63) 2 [] none none) (cached [])
      (fun t => t.dev.out == [.cacheData 2 (256 * svcLine + 63) [0, 9]]) = true := by decide +kernel

theorem test_cache_write : (cached []).dev.sideOf (svcLine / 128) = none ∧
    ((cached []).dev.cline (lineSet svcLine) 15).data.length = 4 ∧
    (∀ w ∈ ((cached []).dev.cline (lineSet svcLine) 15).data, w.length = 64) ∧
    gives (.cacheAccess 0 .other true (256 * svcLine + 63) 2 [5, 6] none none) (cached []) (fun t =>
      let y := t.dev.cline (lineSet svcLine) 15
      y.dirty == [true, true, false, false] && (y.data.getD 0 []).getD 63 0 == 5 && (y.data.getD 1 []).getD 0 0 == 6 &&
        (y.data.getD 1 []).getD 1 0 == 9) = true := by decide +kernel

/-- The cache enabled and empty. -/
def emptyCache (f : Dev → Dev := id) : State := basin [(.ccEn, [], 1), (.ccCleared, [], 1), (.ccPfSeq, [], 0)] f

theorem test_cache_miss : emptyCache.dev.on .ccPfSeq = false ∧ emptyCache.dev.findWay svcLine = none ∧
    (∀ f ∈ emptyCache.dev.cache.fills, f.line ≠ svcLine) ∧ emptyCache.dev.victim (lineSet svcLine) = some 0 ∧
    (emptyCache.dev.cline (lineSet svcLine) 0).valid = false ∧
    gives (.cacheAccess 1 .other false (256 * svcLine) 1 [] none none) emptyCache (fun t => t.dev.rd .ccMiss == 1 &&
      t.dev.cache.fills.map (fun f => (f.line, f.way)) == [(svcLine, 0)] &&
      (List.range 4).all fun i => (t.dev.chan (t.dev.chanOf (4 * svcLine + i))).reads.any fun e => e.word == 4 * svcLine + i && e.cache == some 0) = true := by decide +kernel

theorem test_cache_outside_service : gives (.cacheAccess 1 .other false (256 * svcLine - 1) 1 [] none none) emptyCache
    (fun t => t.dev.rd .ccMiss == 0 && t.dev.cache.fills == []) = true := by decide +kernel

/-- A line is being filled into way 3, its words read. -/
def filling : State := emptyCache fun d => d.updCache fun c => { c with
  fills := [{ line := svcLine, way := 3, words := [(0, 7 :: zeros 63), (1, zeros 64), (2, zeros 64), (3, zeros 63 ++ [8])] }] }

theorem test_cache_fill : ((filling.dev.cache.fills.find? fun f => f.line == svcLine && !f.fromSide).map fun f => (f.complete, f.reqs)) =
      some (true, []) ∧ filling.dev.cache.stalled = [] ∧ filling.dev.cache.maints = [] ∧
    gives (.cacheFillComplete svcLine) filling (fun t =>
      let y := t.dev.cline (lineSet svcLine) 3
      y.valid && y.tag == lineTag svcLine && (y.data.getD 0 []).getD 0 0 == 7 && (y.data.getD 3 []).getD 63 0 == 8 &&
        t.dev.cache.fills == []) = true := by decide +kernel

/-- That fill with a read that waits for it, and with an invalidate that found it in progress. -/
def fillingRead : State := emptyCache fun d => d.updCache fun c => { c with
  fills := filling.dev.cache.fills.map fun f => { f with reqs := [⟨1, false, 256 * svcLine + 255, 1, [], .other⟩] } }

def fillingInvalid : State := emptyCache fun d => d.updCache fun c => { c with
  fills := filling.dev.cache.fills, maints := [{ origin := .ring 0 1, op := 1, covered := [0] }] }

theorem test_cache_fill_read : ((fillingRead.dev.cache.fills.find? fun f => f.line == svcLine && !f.fromSide).map fun f =>
      (f.complete, f.reqs, f.lost)) = some (true, [⟨1, false, 256 * svcLine + 255, 1, [], .other⟩], []) ∧
    (256 * svcLine + 255) / 256 = svcLine ∧
    gives (.cacheFillComplete svcLine) fillingRead (fun t => t.dev.out == [.cacheData 1 (256 * svcLine + 255) [8]]) = true := by
  decide +kernel

theorem test_cache_fill_invalid : (∀ w, w < 16 → w ≠ 3 → (fillingInvalid.dev.cline (lineSet svcLine) w).valid = false) ∧
    ((fillingInvalid.dev.cache.fills.find? fun f => f.line == svcLine && !f.fromSide).map fun f => (f.complete, f.reqs, f.id, f.way)) =
      some (true, [], 0, 3) ∧
    gives (.cacheFillComplete svcLine) fillingInvalid (fun t => !(t.dev.cline (lineSet svcLine) 3).valid &&
      t.dev.cache.maints == [{ origin := .ring 0 1, op := 1 }]) = true ∧
    gives (.cacheFillComplete svcLine) emptyCache (fun t => t.dev.cache.lines == []) = true := by decide +kernel

/-- The read of its last word for a line that is being filled. -/
def lastWord : State := { emptyCache fun d => (d.updCache fun c => { c with fills := [{ id := 4, line := svcLine, way := 3 }] }).updChan
    (d.chanOf (4 * svcLine + 3)) fun k => { k with reads := [{ word := 4 * svcLine + 3, port := 4, cache := some 4 }] } with
  mem := [(256 * svcLine + 255, 8)] }

theorem test_cache_word : (lastWord.dev.cache.fills.map fun f => (f.line, f.fromSide, f.complete)) = [((4 * svcLine + 3) / 4, false, false)] ∧
    gives (.basinCommandIssue ⟨lastWord.dev.chanOf (4 * svcLine + 3), by decide +kernel⟩ [] 0) lastWord (fun t =>
      t.dev.cache.fills.map Fill.words == [[(3, zeros 63 ++ [8])]]) = true := by decide +kernel

/-- Entry 63 of the side buffer is filling, with one line left, and entry 0 with none. -/
def prefetching : State := emptyCache fun d => d.updCache fun c => { c with
  side := [(63, { state := .filling, region := svcLine / 128, lines := [5], words := (List.range 4).map fun i => (20 + i, zeros 64) }), (0, { state := .filling, region := svcLine / 128 + 1 })] }

theorem test_prefetch_fill : (tget ({} : Side) prefetching.dev.cache.side 63).state = .filling ∧
    (tget ({} : Side) prefetching.dev.cache.side 63).complete = true ∧ (tget ({} : Side) prefetching.dev.cache.side 0).complete = true ∧
    (∀ f ∈ prefetching.dev.cache.fills, f.fromSide = false) ∧
    gives (.prefetchFillComplete 63) prefetching (fun t => (tget ({} : Side) t.dev.cache.side 63).state == .ready &&
      t.dev.rd .ccPfReady == 1) = true ∧
    gives (.prefetchFillComplete 0) prefetching (fun t => (tget ({} : Side) t.dev.cache.side 0).state == .empty) = true := by
  decide +kernel

theorem test_lockmask : (st [(.glBoot, [], 3), (.ccLockmask, [], 255)]).dev.running = false ∧
    gives (.lockmaskWrite 0xF00F) (st [(.glBoot, [], 3), (.ccLockmask, [], 255)]) (fun t => t.dev.rd .ccLockmask == 0x00F) = true := by
  decide +kernel

theorem test_lockmask_running : (∀ i, i < 8 → (st [(.ccLockmask, [], 255)]).dev.running = true ∧ (0xFFFF).testBit i = true) ∧
    gives (.lockmaskWrite 0xFFFF) (st [(.ccLockmask, [], 255)]) (fun t => t.dev.rd .ccLockmask == 0xFFF) = true ∧
    faults (.lockmaskWrite 0xFF7F) (st [(.ccLockmask, [], 255)]) .lockmaskCleared = true := by decide +kernel

theorem test_cache_enable : (st [(.ccCleared, [], 1)]).dev.on .ccCleared = true ∧ (st [(.ccCleared, [], 1)]).dev.cache.waiting = [] ∧
    gives (.cacheEnableWrite true) (st [(.ccCleared, [], 1)]) (fun t => t.dev.on .ccEn) = true ∧
    gives (.cacheEnableWrite false) (cached []) (fun t => !t.dev.on .ccEn) = true ∧
    faults (.cacheEnableWrite true) (st []) .cacheMisuse = true := by decide +kernel

/-- The cached line, and a descriptor of ring 255 that may start. -/
def maintained (fs : List (Row × List Nat × Nat) := []) (f : Dev → Dev := id) : State :=
  cached (fs ++ [(.sqConsumed, [255], 1), (.sqInflight, [255], 1)]) f

theorem test_clean : (maintained []).dev.mayStart 255 ∧ (maintained []).dev.maintRangeOk 0 (256 * svcLine) 1 = true ∧
    (maintained []).dev.coveredLines 0 0 (256 * svcLine) 1 = [(lineSet svcLine, 15)] ∧
    gives (.clean 255 1 0 0 (256 * svcLine) 1 none) (maintained []) (fun t =>
      (t.dev.cline (lineSet svcLine) 15).dirty == [false, false, false, false] && (t.dev.cline (lineSet svcLine) 15).valid &&
        (t.dev.chan (t.dev.chanOf (4 * svcLine + 1))).writes.map QEntry.data == [List.replicate 64 9]) = true := by
  refine ⟨⟨by decide +kernel, by decide +kernel⟩, by decide +kernel, by decide +kernel, by decide +kernel⟩

theorem test_invalidate : (maintained [] fun d => d.setLine (lineSet svcLine) 15 { valid := true, tag := lineTag svcLine }).dev.coveredLines
      1 0x8000 0 16384 = [(lineSet svcLine, 15)] ∧
    gives (.invalidate 255 1 1 0x8000 0 16384 none)
      (maintained [] fun d => d.setLine (lineSet svcLine) 15 { valid := true, tag := lineTag svcLine })
      (fun t => t.dev.cache.lines == []) = true ∧
    faults (.invalidate 255 1 1 0x8000 0 16384 none) (maintained []) .invalidateDirty = true ∧
    faults (.invalidate 255 1 1 0x8000 0 16385 none) (maintained []) .cacheMisuse = true := by decide +kernel

theorem test_clean_and_invalidate : gives (.cleanAndInvalidate 255 1 1 0x8000 (lineSet svcLine) 1 none) (maintained [])
    (fun t => t.dev.cache.lines == [] && (t.dev.chan (t.dev.chanOf (4 * svcLine + 1))).writes.length == 1) = true := by decide +kernel

theorem test_lock_fill : (maintained [(.ccLockmask, [], 0x800)]).dev.findWay (svcLine + 1) = none ∧
    (((List.range 16).filter fun w => (0x800).testBit w && (maintained [(.ccLockmask, [], 0x800)]).dev.wayLocked w).find? fun w =>
      !((maintained [(.ccLockmask, [], 0x800)]).dev.cline (lineSet (svcLine + 1)) w).valid &&
      !(maintained [(.ccLockmask, [], 0x800)]).dev.wayFilling (lineSet (svcLine + 1)) w) = some 11 ∧
    gives (.lockFill 255 1 0 0x800 (256 * (svcLine + 1)) 256 none) (maintained [(.ccLockmask, [], 0x800)])
      (fun t => t.dev.cache.fills.map (fun f => (f.line, f.way)) == [(svcLine + 1, 11)]) = true := by decide +kernel

/-- A full invalidate that waits for nothing. -/
def maintDone : State := emptyCache fun d => { d.updCache (fun c => { c with maints := [{ origin := .ring 0 1, op := 1, full := true }] }) with
  cmds := [{ origin := .ring 0 1, op := 0x20, phase := .running }] }

theorem test_maint_complete : maintDone.dev.cache.maints = { origin := .ring 0 1, op := 1, full := true } :: [] ∧
    gives .cacheMaintComplete maintDone (fun t => t.dev.cmds == [] && t.dev.on .ccCleared && ends t == [(clsOk, 0)]) = true := by
  decide +kernel

/-! ### Events -/

theorem test_occurrence_counted : gives (.softRepairDone 0)
    { (basin [] fun d => d.updChan 0 fun k => { k with blocked := [(1048575, 9)] }) with
      ev := [(0x682, { occurred := 2 ^ 32 - 1, posted := 2 ^ 32 - 2, pending := 1 })] }
    (fun t => (tget {} t.ev 0x682).occurred == 0 && (tget {} t.ev 0x682).pending == 2 && evConserved t.ev) = true := by decide +kernel

theorem test_occurrence_saturates : (Src.occur { pending := 2 ^ 32 - 1 } 5 1 []).ovf = true ∧
    (Src.occur { pending := 2 ^ 32 - 1 } 5 1 []).occurred = 0 := by decide +kernel

/-- Vector 2047 unmasked, with its message. -/
def unmasked : Tab Nat := [(0x187FF0, 0xFEE00000), (0x187FF8, 77), (0x187FFC, 0)]

/-- Source 2047 with three occurrences to post to event ring 63, of 16 entries, one of which is free. -/
def eventful (f : Dev → Dev := id) : State :=
  { st [(.eqEn, [63], 1), (.eqSize, [63], 4), (.eqBaseLo, [63], 8192)] fun d =>
      { f (d.updEq 63 fun e => { e with posted := 31, head := 16 }) with msix := unmasked } with
    ev := [(2047, { ring := 63, mask := false, occurred := 3, pending := 3, code := 7, payload := [1], time := 9 })] }

theorem test_event_post : (tget {} eventful.ev 2047).pending ≠ 0 ∧ (tget {} eventful.ev 2047).mask = false ∧
    eventful.dev.on .eqEn [63] = true ∧ eventful.dev.eqRoom 63 1 = true ∧
    gives (.eventPost 2047) eventful (fun t => (tget {} t.ev 2047).posted == 3 && (tget {} t.ev 2047).pending == 0 &&
      (t.dev.eqS 63).posted == 32 && t.dev.out == [.hostWrite (8192 + 32 * 15)
        (le 2 2047 ++ le 2 0 ++ le 2 7 ++ [0, 1] ++ le 4 3 ++ le 8 9 ++ [1] ++ zeros 11) false, .msix 2047 0xFEE00000 77]) = true := by decide +kernel

theorem test_event_two_entries : gives (.eventPost 2047)
    { eventful with ev := [(2047, { ring := 63, mask := false, occurred := 1, pending := 1, payload := zeros 13 })] }
    (fun t => (t.dev.eqS 63).posted == 31 && (tget {} t.ev 2047).pending == 1) = true ∧
    gives (.eventPost 2047) { (eventful fun d => d.updEq 63 fun e => { e with head := 17 }) with
        ev := [(2047, { ring := 63, mask := false, occurred := 1, pending := 1, payload := zeros 13 })] }
      (fun t => (t.dev.eqS 63).posted == 33 && t.dev.out.length == 3) = true := by decide +kernel

theorem test_event_masked : (tget ({} : Src) (st []).ev 0).mask = true ∧ gives (.eventPost 0) (st []) (· == st []) = true := by decide +kernel

theorem test_route : (st []).dev.ready = true ∧
    gives (.routeWrite 0 (63 + 2047 * 2 ^ 16 + 2 ^ 31)) eventful
      (fun t => tget {} t.ev 0 == { ring := 63, vector := some 2047, mask := true }) = true := by decide +kernel

theorem test_holdoff : gives (.holdoffExpiry 2047) (st [] fun d => { d with time := 8, vec := [(2047, { last := some 1, owed := true })], msix := unmasked })
      (fun t => t.dev.out == [.msix 2047 0xFEE00000 77] && tget {} t.dev.vec 2047 == { last := some 8, owed := false }) = true ∧
    gives (.holdoffExpiry 2046) (st [] fun d => { d with vec := [(2046, { last := some 1, owed := true })] })
      (fun t => t.dev.out == [] && t.dev.msixPending == [2046]) = true ∧
    gives (.holdoffExpiry 2047) (st []) (fun t => t.dev.out == []) = true := by decide +kernel

/-! ### Thermal logic -/

/-- Pickup 31 holds writes since 1 ms, inside its bands from 2 ms. -/
def held (f : Window → Window := id) : State := st [(.thHold, [31], 1)] fun d => { d with
  time := 301000000, thermal := { d.thermal with windows := [(31, f { since := 100000, inside := some 200000 })] } }

theorem test_write_release : held.dev.on .thHold [31] = true ∧ (tget {} held.dev.thermal.windows 31).inside.isSome = true ∧
    (tget {} held.dev.thermal.windows 31).expired = false ∧
    gives (.writeRelease 31) held (fun t => !t.dev.on .thHold [31] && seen t (32 * 31 + 23) == (1, 0x1502, le 4 3009)) = true := by
  decide +kernel

theorem test_write_release_expired : (held fun w => { w with expired := true }).dev.on .thHold [31] = true ∧
    gives (.writeRelease 31) { held (fun w => { w with expired := true }) with
        dev := (held fun w => { w with expired := true }).dev.setUnavailable 31 unThermal true }
      (fun t => !t.dev.on .thHold [31] && t.dev.unavailable == []) = true ∧
    gives (.writeRelease 30) held (· == held) = true := by decide +kernel

theorem test_holdmax : (held.dev.pkS 31).queues.flatten = [] ∧
    gives (.holdmaxExpiry 31) held (fun t => t.dev.unavailable == [(31, unThermal)] &&
      (tget {} t.dev.thermal.windows 31).expired) = true := by decide +kernel

/-- Die temperatures at the ends of what a sensor shows, JHOT passed by one sixteenth. -/
def hotDie : List Int := [-32768, 0, 0, 0, 0, 0, 0, 1521]

theorem test_die_sensors : hotDie.length = 8 ∧ (∀ t ∈ hotDie, -32768 ≤ t ∧ t ≤ 1680) ∧ (∃ t ∈ hotDie, -160 ≤ t) ∧
    (hotDie.zipIdx.foldl (fun d e => d.wrS .thDie [e.2] e.1) (st []).dev).vcoreNeeded ≤ (st []).dev.boot.vcore ∧
    (∀ p, p < 32 → (st []).dev.rowNow p = none ∧ ((st []).dev.pkS p).opc = []) ∧ (st []).dev.rd .thJhot = 95 ∧ (st []).dev.rd .thThrState = 0 ∧
    gives (.dieSensorRead hotDie) (st []) (fun t => t.dev.rdS .thDie [0] == -32768 && t.dev.rd .thThrState == 1 &&
      seen t 0x6E7 == (1, 0x1504, leI 2 1521)) = true := by decide +kernel

theorem test_die_out_of_range : faults (.dieSensorRead (List.replicate 8 (-161))) (st []) .junctionRange = true ∧
    gives (.dieSensorRead [1520, 0, 0, 0, 0, 0, 0, 0]) (st []) (fun t => t.dev.rd .thThrState == 0) = true := by decide +kernel

/-- R488: 10,000 Ω, R25 10,000 Ω and B 3,435 K read 25.0 °C. -/
theorem test_ambient : ambientTemp 10000 10000 3435 = 400 ∧ (st [(.thR25, [15], 10000), (.thB, [15], 3435)]).dev.on .pkPresent [30] = false ∧
    gives (.ambientRead 15 10000) (st [(.thR25, [15], 10000), (.thB, [15], 3435)])
      (fun t => t.dev.rdS .thAmb [15] == 400 && t.dev.thermal.ambFault == []) = true := by decide +kernel

theorem test_ambient_fault : gives (.ambientRead 15 0) (st [(.thR25, [15], 10000), (.thB, [15], 3435)])
    (fun t => t.dev.thermal.ambFault == [15] && seen t 0x6FF == (1, 0x1505, le 4 0)) = true := by decide +kernel

/-- Die sensor 7 has risen 2.0625 °C in a second. -/
def rising : State := st [(.thDie, [7], 33)] fun d => { d with
  thermal := { d.thermal with history := [(7, List.replicate 10 0)] } }

theorem test_rate_check : (tget [] rising.dev.thermal.history 7)[9]? = some 0 ∧ 32 < rising.dev.rdS .thDie [7] - 0 ∧
    rising.dev.rd .thThrState = 0 ∧
    gives .rateCheck rising (fun t => t.dev.rd .thThrState == 1 && t.dev.thermal.rising == [7] &&
      (seen t 0x6E7).2.1 == evRiseLimit) = true := by decide +kernel

theorem test_grace : gives .graceExpiry (st [(.thThrState, [], 1), (.thThrFrac, [], 128)])
    (fun t => t.dev.rd .thThrState == 2 && t.dev.rd .thThrF == 128) = true := by decide +kernel

theorem test_throttle_step : gives .throttleStep (st [(.thThrState, [], 2), (.thThrF, [], 128), (.thThrMin, [], 100)] fun d =>
      { d with thermal := { d.thermal with rising := [7] } })
    (fun t => t.dev.rd .thThrF == 100 && seen t 0x6E8 == (1, 0x1506, [100, 0, 0])) = true ∧
    gives .throttleStep (st [(.thThrState, [], 2), (.thThrF, [], 128)]) (fun t => t.dev.rd .thThrF == 128) = true := by decide +kernel

theorem test_throttle_release : gives .throttleRelease (st [(.thThrState, [], 2)] fun d =>
      { d with time := 500000, thermal := { d.thermal with clearSince := some 1, enforced := 100000 } })
    (fun t => t.dev.rd .thThrState == 0 && t.dev.rd .thThrF == 256 && seen t 0x6E8 == (1, 0x1507, le 4 4)) = true ∧
    gives .throttleRelease (st [(.thThrState, [], 1)] fun d => { d with thermal := { d.thermal with clearSince := some 1 } })
      (fun t => seen t 0x6E8 == (1, 0x1507, le 4 0)) = true := by decide +kernel

/-! ### Calibration -/

/-- The example of chapter 16: deviations of the six legs in ppm. -/
def legs : List (List Int) := [[12000], [-9000], [4000], [-15000], [20000], [-2000]]

theorem test_cal_legs : calProposal 4 legs = 0x1E ∧ calFigure 4 0x1E legs 0 = -179 ∧ calFigure 4 0x0F legs 0 = -2113 ∧
    calValid 4 0x1E = true ∧ calValid 4 0x1F = false := by decide +kernel

theorem test_cal_proposals : calProposal 1 [[5], [-3], [3], [9], [9], [9], [9], [9]] = 1 ∧ calValid 1 7 = true ∧
    calProposal 5 [] = 2 ^ 32 - 1 ∧ calValid 5 (2 ^ 32 - 1) = true := by decide +kernel

/-- PEND of instance 5 of the bandgaps differs from SEL. -/
def pended (v : Nat) : State := st [(.calPend, [5], v), (.calSel, [5], 1)]

theorem test_cal_commit : (pended 7).dev.calChanges = [(1, 5)] ∧ calValid 1 ((pended 7).dev.calValue .calPend 1 5) = true ∧
    gives .calibCommit (pended 7) (fun t => t.dev.rd .calSel [5] == 7 && t.dev.rd .calCommits == 1) = true ∧
    faults .calibCommit (pended 8) .calibMisuse = true := by decide +kernel

theorem test_cal_commit_nothing : (st []).dev.calChanges = [] ∧
    gives .calibCommit (st [(.calCommits, [], 2 ^ 32 - 1)]) (fun t => t.dev.rd .calCommits == 0 && (seen t 0x780).2.1 == 0x1601) = true := by
  decide +kernel

theorem test_cal_measure : 63 < calInstances 5 ∧
    gives (.calibMeasure 255 1 5 63 0 0) (oneConsumed 255) (fun t => t.dev.measures.map (fun m => (m.item, m.index, m.running)) ==
      [(5, 63, false)]) = true ∧
    gives (.calibMeasure 255 1 5 64 0 0) (oneConsumed 255) (fun t => ends t == [(clsOk, 0)]) = true := by decide +kernel

/-- A measurement of bandgap 5 by a command in flight. -/
def measuring (go : Bool) : State := st [] fun d => { d with
  measures := [{ origin := .ring 0 1, item := 1, index := 5, running := go }], cmds := [{ origin := .ring 0 1, op := 0x29, len := 512 }] }

theorem test_cal_start : (measuring false).dev.measures = [{ origin := .ring 0 1, item := 1, index := 5 }] ∧
    ((measuring false).dev.cmd (.ring 0 1)).isSome = true ∧ (measuring false).dev.calReady 1 5 = true ∧
    gives .calibMeasureStart (measuring false) (fun t => t.dev.rd .calBusy [0] == 1 && t.dev.measures.map Measure.running == [true]) =
      true := by decide +kernel

theorem test_cal_end : (measuring true).dev.measures = [{ origin := .ring 0 1, item := 1, index := 5, running := true }] ∧
    (measuring true).dev.measureHeld = [] ∧
    gives (.calibMeasureEnd 1 5 [[5], [-3], [3], [9], [9], [9], [9], [-1]] 0 0) (measuring true)
      (fun t => t.dev.rd .calPend [5] == 7 && t.dev.measures == [] && t.dev.cmds == [] && t.dev.rd .calBusy [0] == 0) = true := by
  decide +kernel

/-- A LOOP measurement that has taken n samples. -/
def measuringLoop (n : Nat) : State := st [] fun d => { d with
  measures := [{ origin := .ring 0 1, item := 6, index := 3, running := true, seen := n }],
  cmds := [{ origin := .ring 0 1, op := 0x29, len := 512 }] }

theorem test_cal_loop_end : gives (.calibMeasureEnd 6 3 [] 0 0) (measuringLoop 65535) (fun t => t.dev.measures.length == 1) = true ∧
    gives (.calibMeasureEnd 6 3 [] 0 0) (measuringLoop 65536) (fun t => t.dev.measures == [] && t.dev.cmds == []) = true := by
  decide +kernel

/-! ### Firmware and attestation -/

/-- FIPS 180-4, "abc". -/
theorem test_sha256 : sha256 [97, 98, 99] = be 32 0xba7816bf8f01cfea414140de5dae2223b00361a396177a9cb410ff61f20015ad := by decide +kernel

/-- The key of RFC 6979 A.2.5. -/
def testKey : Nat := 0xc9afa9d845ba75166b5c215767b1d6934e50c3db36e89b127b8a622b120f6721
def testPub : Bytes := be 32 0x60fed4ba255a9d31c961eb74c6356d68c049b8923b61fa6ce669622e60f29fb6 ++
  be 32 0x7903fe1008b8bc99a41ae9e95628bc64f2f1b20c2d7e9f5177a3c294d4462299

/-- RFC 6979 A.2.5, SHA-256, "sample". -/
theorem test_ecdsa : ecdsaPublic testKey = testPub ∧
    ecdsaSign testKey 0xa6e3c57dd01abe90086538398355dd4c3b17aa873382b0f24d6129493d8aad60 (sha256 [115, 97, 109, 112, 108, 101]) =
      be 32 0xefd48b2aacb6a8fd1140dd9cd45e81d69d2c877b56aaf991c34d0ea84eaf3716 ++
      be 32 0xf7cb1c942d657c41d436c7a1b6e29f65f3e900dbb9aff4064dc4ab2f843acda8 := by decide +kernel

/-- The header of an image with SEQUENCE 42 and a body of 4,096 zeros, signed with that key as the customer key. -/
def signed : Bytes :=
  [0x52, 0x49, 0x46, 0x57] ++ le 4 1 ++ le 4 4096 ++ le 4 42 ++ [1] ++ zeros 15 ++
    be 32 0xad7facb2586fc6e966c004d7d1d16b024f5805ff7cb47c7a85dabd8b48892ca7 ++ testPub ++
    be 32 0xefd48b2aacb6a8fd1140dd9cd45e81d69d2c877b56aaf991c34d0ea84eaf3716 ++
    be 32 0xbe52a884cfcda2034ff4194195145000bfc17d7f27414bb8d3ed76214f912348

/-- CUSTKEY: the SHA-256 of the public key. -/
def custkey : List (Row × List Nat × Nat) :=
  [0x273ec2d6, 0xcb40a844, 0xb6145a3a, 0x7cce4c55, 0xc4570007, 0xb98c29e3, 0x68de7735, 0x59e6ec7e].zipIdx.map
    fun e => (.scCustkey, [e.2], e.1)

theorem test_header_valid : headerCheck (st custkey).dev.custkey signed = 0 ∧ headerSeq signed = 42 ∧ imageLen signed = 4096 := by
  decide +kernel

theorem test_header_causes : headerCheck (st custkey).dev.custkey (signed.set 0 0) = 1 ∧ headerCheck (st []).dev.custkey signed = 2 ∧
    headerCheck (st custkey).dev.custkey (signed.set 12 43) = 3 := by decide +kernel

/-- The image is good against CUSTKEY. -/
def goodImage : Bytes := slice signed 0 4096 ++ zeros 4096

theorem test_verify : (oneConsumed 255).dev.boot.fwLoad = none ∧ (oneConsumed 255).dev.imageOk (zeros 512) = false ∧
    gives (.verify 255 1 4096 512 (zeros 512)) (oneConsumed 255) (fun t => ends t == [(clsDevice, detSignature)] &&
      t.dev.out == [.hostRead 4096 512 true]) = true := by decide +kernel

theorem test_program : (oneConsumed 255 custkey).dev.cmds = [] ∧
    gives (.program 255 1 2 4096 8192 goodImage) (oneConsumed 255 ((.scSlot, [], 0) :: custkey)) (fun t => ends t == [] && t.dev.pins.flashWpHigh &&
      (t.dev.boot.fwLoad.map fun x => x.2.1) == some 1 && seen t 0x7C0 == (1, 0x1704, le 4 42 ++ [1]) &&
      t.dev.out == [.hostRead 4096 8192 true, .flashErase 0x2000000 4096, .flashErase 0x2001000 4096]) = true := by decide +kernel

theorem test_program_misused : (oneConsumed 255).dev.imageOk [] = false ∧
    gives (.program 255 1 2 4096 0 []) (oneConsumed 255) (fun t => ends t == [(clsDevice, detSignature)] && !t.dev.pins.flashWpHigh) = true ∧
    faults (.program 255 1 3 4096 0 []) (oneConsumed 255) .fwAction = true := by decide +kernel

/-- Slot 1 is being written with three bytes. -/
def programming : State := st [] fun d => { d with
  boot := { d.boot with fwLoad := some (.ring 0 1, 1, [1, 2, 3]) }, pins := { d.pins with flashWpHigh := true },
  cmds := [{ origin := .ring 0 1, op := 0x31, phase := .running }] }

theorem test_program_end : programming.dev.boot.fwLoad = some (.ring 0 1, 1, [1, 2, 3]) ∧ programming.dev.imageOk [1, 2, 4] = false ∧
    firstMismatch 1 [1, 2, 3] [1, 2, 4] = some 0x2000002 ∧
    gives (.fwProgramEnd [1, 2, 4]) programming (fun t => t.dev.boot.fwLoad == none && !t.dev.pins.flashWpHigh &&
      seen t 0x7C0 == (1, 0x1706, 1 :: le 4 0x2000002) && ends t == [(clsDevice, detInternal)]) = true := by decide +kernel

theorem test_attest : ∃ e body, (oneConsumed 255).dev.mayStart 255 ∧
    e = (oneConsumed 255).dev.started 255 { origin := .ring 255 0, op := 0x30, cookie := 1, addr := 0, len := 256, bytes := zeros 32 } ∧
    body = e.attestBody [] (zeros 32) := ⟨_, _, ⟨by decide +kernel, by decide +kernel⟩, rfl, rfl⟩

/-! ### Self-tests and scrubbing -/

theorem test_selftest : (oneConsumed 255 [(.pkPresent, [31], 1)]).dev.selftest = none ∧
    (oneConsumed 255 [(.pkPresent, [31], 1)]).dev.on .pkPresent [31] = true ∧
    gives (.selfTest 255 1 1 0 0) (oneConsumed 255 [(.pkPresent, [31], 1)]) (fun t => t.dev.rd .svStItem == 1 &&
      t.dev.rd .svStState == 1 && t.dev.selftest.map SelfTest.items == some [1, 2, 3, 4]) = true := by decide +kernel

/-- The last item of a QUICK test, running or suspended, needed by a command or not. -/
def testing (stopped : Bool) (needed : Bool := false) : State := st [(.svStItem, [], 4), (.svStState, [], 1)] fun d => { d with
  selftest := some { origin := .ring 0 1, kind := 1, items := [4], suspended := stopped, needed := needed }, cmds := [{ origin := .ring 0 1, op := 0x2A, phase := .running }] }

theorem test_selftest_done : (testing false).dev.selftest = some { origin := .ring 0 1, kind := 1, items := [4] } ∧
    (testing false).dev.rd .svStItem = 4 ∧ (testing false).dev.cache.lines = [] ∧
    gives (.selftestItemDone 0 0xFFFF 20 0) (testing false) (fun t => t.dev.selftest == none && ends t == [(clsOk, 0)]) = true ∧
    gives (.selftestItemDone 1 3 20 0) (testing false) (fun t => ends t == [(clsDevice, detSelfTestFailed)]) = true := by decide +kernel

theorem test_selftest_suspended : gives .selftestSuspended (testing false) (fun t => t.dev.rd .svStState == 1 && t.dev.raised == []) = true ∧
    gives .selftestSuspended (testing false true) (fun t => t.dev.rd .svStState == 2 &&
    seen t 0x704 == (1, 0x1207, [4]) && t.dev.selftest.map (fun x => (x.suspended, x.suspensions)) == some (true, 1)) = true := by decide +kernel

theorem test_selftest_resumed : (testing true).dev.selftest = some { origin := .ring 0 1, kind := 1, items := [4], suspended := true } ∧
    gives .selftestResumed (testing true) (fun t => t.dev.rd .svStState == 1 && seen t 0x704 == (1, 0x1208, [4]) &&
      t.dev.selftest.map SelfTest.suspended == some false) = true := by decide +kernel

/-- Stripe k of take 9, with blocks on the medium. -/
def onMedium (k : Nat) : Stripe :=
  { id := k, take := 9, range := k, group := 0, geometry := 0, mask := [0, 1], surfaces := [0], rows := [some 0], ucrc := [], first := true,
    pbas := [(0, 5), (1, 6)] }

/-- Two such stripes, the scrub at the first, whose blocks it has read and found weak. -/
def scrubbing : State := st [(.svScrubEn, [], 1), (.svCursorLo, [], 3), (.pkPresent, [0], 1)] fun d => { d.updPk 0 fun k =>
    { k with loaded := true, formatted := true } with
  scrub := { done := [5, 6], weakNow := [5, 6] }, loadInForce := true, stripes := [onMedium 5, onMedium 3], takes := [{ id := 9 }] }

theorem test_scrub : scrubbing.dev.scrubNext = some (onMedium 3) ∧ scrubbing.dev.loadInForce = true ∧
    scrubbing.dev.on .svScrubEn = true ∧ onMedium 5 ∈ scrubbing.dev.scrubbable ∧ (onMedium 3).id < (onMedium 5).id ∧
    (∀ a ∈ scrubbing.dev.stripeBlocks (onMedium 3), scrubbing.dev.scrub.done.contains a = true) ∧
    gives .scrubRead scrubbing (fun t => t.dev.rd .svCursorLo == 4 && t.dev.scrub.stripes == 1 &&
      (tget {} t.dev.scrub.takes 9).blocks == 2 && (tget {} t.dev.scrub.takes 9).weak == 2) = true := by decide +kernel

/-! ### Loads -/

theorem test_load_refused : (oneConsumed 255).dev.on .bsReady = false ∧
    gives (.mediaLoad 255 1 0 {}) (oneConsumed 255) (fun t => ends t == [(clsResource, 8)]) = true := by decide +kernel

theorem test_load_starts : (oneConsumed 255 [(.bsReady, [], 1)]).dev.on .bsReady = true ∧
    (oneConsumed 255 [(.bsReady, [], 1)]).dev.loadInForce = false ∧ (oneConsumed 255 [(.bsReady, [], 1)]).dev.boot.fwLoad = none ∧
    ((oneConsumed 255 [(.bsReady, [], 1)]).dev.started 255 { origin := .ring 255 0, op := 0x18, cookie := 1 }).loadBusy
      ((oneConsumed 255 [(.bsReady, [], 1)]).dev.nextOrigin 255) = false := by decide +kernel

theorem test_take_of : (takeOf [] [] 9).state = .unclosed ∧
    (takeOf [{ rtype := 0x0012, epoch := 0, seq := 0, time := 0, body := zeros 8 ++ le 8 9 }] [] 9).state = .closed := by decide +kernel

theorem test_unload : (oneConsumed 255).dev.loadInForce = false ∧
    ((oneConsumed 255).dev.started 255 { origin := .ring 255 0, op := 0x19, cookie := 1 }).loadBusy ((oneConsumed 255).dev.nextOrigin 255) =
      false ∧
    gives (.mediaUnload 255 1) (oneConsumed 255 [] fun d => { d with loadInForce := true, takes := [{ id := 9 }] })
      (fun t => t.dev.takes.all fun x => x.state != .opened) = true := by decide +kernel

theorem test_spindle_set : gives (.spindleSet 255 1 false 0x8000 12001 0) (oneConsumed 255)
      (fun t => ends t == [(clsOk, 0)] && t.dev.rd .spTarget [15] == 12000) = true ∧
    gives (.spindleSet 255 1 true 0x8001 300 5) (oneConsumed 255)
      (fun t => t.dev.rd .spAccel [0] == 100 && t.dev.rd .spTarget [0] == 300 && t.dev.rd .spTarget [15] == 300) = true ∧
    gives (.spindleSet 255 1 false 0x8000 299 0) (oneConsumed 255) (fun t => t.dev.rd .spTarget [15] == 0) = true ∧
    gives (.spindleSet 255 1 false 0x8000 300 0) (oneConsumed 255 [(.spCmdsrc, [15], 1)]) (fun t => ends t == [(clsResource, 1)]) =
      true := by decide +kernel

theorem test_trace_read : gives (.traceRead 255 1 7 0) (oneConsumed 255) (fun t => ends t == [(clsResource, 2)]) = true ∧
    gives (.traceRead 255 1 7 4096) (oneConsumed 255 [(.trState, [7], trDone)]) (fun t => ends t == [(clsOk, 0)] && t.dev.out.length == 1) =
      true := by decide +kernel

/-! ### The pickup bus and the lasers -/

/-- Pickup 31 is present. -/
def pickup (fs : List (Row × List Nat × Nat) := []) (k : Pk → Pk := id) (f : Dev → Dev := id) : State :=
  st (fs ++ [(.pkPresent, [31], 1)]) fun d => f (d.updPk 31 k)

theorem test_bus_poll : (pickup []).dev.on .pkPresent [31] = true ∧
    gives (.pickupBusPoll 31 0) (pickup []) (fun t => (t.dev.pkS 31).polls == [{ op := 2, reg := 0x09 }]) = true ∧
    gives (.pickupBusPoll 31 2) (pickup []) (fun t => (t.dev.pkS 31).polls == [{ op := 2, reg := 0x0A }]) = true := by decide +kernel

theorem test_bus_monitor : (pickup [(.pkLaserMask, [31], 0x8001)]).dev.nextMonitor 31 = some 0 ∧
    gives (.pickupBusPoll 31 1) (pickup [(.pkLaserMask, [31], 0x8000)])
      (fun t => (t.dev.pkS 31).polls == [{ op := 2, reg := 0x3F }] && (t.dev.pkS 31).monNext == 0) = true := by decide +kernel

/-- Two writes and a read wait for the bus. -/
def busy : State := pickup [] fun k => { k with frames := [⟨1, 1, 2, 0⟩, ⟨1, 3, 0, 0⟩], polls := [⟨2, 9, 0, 0⟩] }

theorem test_bus_next_frame : (busy.dev.pkS 31).sent = none ∧
    gives (.pickupBusFrame 31 0) busy
      (fun t => t.dev.out == [.busFrame 31 (busFrameBits 1 1 2)] && (t.dev.pkS 31).frames == [⟨1, 3, 0, 0⟩]) = true ∧
    gives (.pickupBusFrame 31 0) (pickup [] fun k => { k with polls := [⟨2, 9, 0, 0⟩] })
      (fun t => t.dev.out == [.busFrame 31 (busFrameBits 2 9 0)] && (t.dev.pkS 31).polls == []) = true ∧
    gives (.pickupBusFrame 31 0) (pickup []) (fun t => t.dev.out == [.busFrame 31 (busFrameBits 0 0 0)]) = true := by decide +kernel

/-- A TEMP read is on the bus during a write hold. -/
def readingTemp : State := pickup [(.thHold, [31], 1)] fun k => { k with sent := some { op := 2, reg := 0x0A } }

theorem test_bus_temp : readingTemp.dev.on .thHold [31] = true ∧ readingTemp.dev.rowNow 31 = none ∧
    gives (.pickupBusFrame 31 (busResponse 0x80 0x0A 65535)) readingTemp
      (fun t => t.dev.rd .pkTemp [31] == 65535 && t.dev.rd .pkAlarm [31] == 0) = true := by decide +kernel

/-- An attempt of a write is on the bus, having been sent again n times. -/
def failing (n : Nat) : State := pickup [] fun k => { k with sent := some ⟨1, 0x08, 1, n⟩ }

theorem test_bus_alarm : gives (.pickupBusFrame 31 (busResponse 0x88 0x08 0)) (failing 0) (fun t => t.dev.rd .pkAlarm [31] == 1 &&
    (t.dev.pkS 31).sent == some ⟨2, 0x09, 0, 0⟩) = true := by decide +kernel

theorem test_bus_fail : crc8 32 (0x80080000 % 2 ^ 32) ≠ 0x01 ∧ 0x8008000001 / 256 = 0x80080000 ∧
    ((failing 3).dev.pkS 31).sent = some ⟨1, 0x08, 1, 3⟩ ∧ (failing 3).dev.rowNow 31 = none ∧
    gives (.pickupBusFrame 31 0x8008000001) (failing 3) (fun t => t.dev.on .pkFail [31] &&
      seen t (32 * 31 + 23) == (1, 0x0301, [0x08, 1])) = true := by decide +kernel

theorem test_bus_resend : gives (.pickupBusFrame 31 0x8008000001) (failing 2)
    (fun t => !t.dev.on .pkFail [31] && t.dev.out == [.busFrame 31 (busFrameBits 1 0x08 1)] &&
      (t.dev.pkS 31).sent == some ⟨1, 0x08, 1, 3⟩) = true := by decide +kernel

/-- Pickups 0 and 31 with every spot lit. -/
def lit : State := st [(.pkPresent, [0], 1), (.pkLaserMask, [0], 0xFFFF), (.pkPresent, [31], 1), (.pkLaserMask, [31], 0xFFFF)]

theorem test_ldoff : lit.dev.pins.ldoffLow = false ∧ (∀ p, lit.dev.rowNow p = none) ∧ lit.dev.homing = [] ∧
    gives .ldoffNFall lit (fun t => t.dev.pins.ldoffLow && t.dev.rd .pkLaserMask [0] == 0 && t.dev.rd .pkLaserMask [31] == 0 &&
      t.dev.out == [.busFrame 0 (busFrameBits 1 0x08 0), .busFrame 31 (busFrameBits 1 0x08 0)] && seen t 0x7F0 == (1, 0x0303, [])) = true :=
  ⟨rfl, fun _ => rfl, rfl, by decide +kernel⟩

theorem test_ldoff_rise : gives .ldoffNRise (pickup [] id fun d => { d with pins := { d.pins with ldoffLow := true } })
    (fun t => !t.dev.pins.ldoffLow) = true := by decide +kernel

theorem test_laser_mask : (pickup []).dev.ready = true ∧ (pickup []).dev.spotsMeasured 31 = [] ∧
    (pickup []).dev.pins.ldoffLow = false ∧ (pickup []).dev.rowNow 31 = none ∧ (pickup []).dev.homing = [] ∧
    gives (.laserMaskWrite 31 0xFFFF) (pickup []) (fun t => t.dev.rd .pkLaserMask [31] == 0xFFFF &&
      (t.dev.pkS 31).frames == [⟨1, 0x08, 0xFFFF, 0⟩]) = true ∧
    gives (.laserMaskWrite 31 0xFFFF) (pickup [] id fun d => { d with pins := { d.pins with ldoffLow := true } })
      (fun t => t.dev.rd .pkLaserMask [31] == 0) = true := by decide +kernel

/-- The ADC of spot 15 of pickup 31 is being measured. -/
def measuredSpot : State := pickup [] id fun d => { d with measures := [{ origin := .ring 0 0, item := 2, index := 16 * 31 + 15, running := true }] }

theorem test_laser_mask_waits : 15 ∈ measuredSpot.dev.spotsMeasured 31 ∧
    gives (.laserMaskWrite 31 0x8000) measuredSpot (fun t => t.dev.measureHeld.length == 1 && t.dev.rd .pkLaserMask [31] == 0) = true := by
  decide +kernel

/-! ### Rows abandoned -/

/-- A user row of pickup 31 is being written. -/
def someRow (kind : RowKind) (started : Bool) : RowWrite :=
  { layer := 3, row := 100639, kind := kind, lanes := [(1, 5)], time := 4000, epoch := 1, devnum := 0, zone := 0, started := started }

def writing (fs : List (Row × List Nat × Nat) := []) (kind : RowKind := .user) (started : Bool := true) : State :=
  pickup (fs ++ [(.rowInprog, [31], 1), (.rowAlloc, [31], 1)]) (fun k => { k with loaded := true, formatted := true, rows := [someRow kind started] })
    fun d => { d with blks := [{ id := 5, kind := .take, data := [], surface := 31, lane := 1 }] }

theorem test_abandon : writing.dev.rowNow 31 = some (someRow .user true) ∧
    (writing.dev.abandonNow 31 abFetch).rd .rowInprog [31] = 0 ∧ (writing.dev.abandonNow 31 abFetch).rd .rowAbandoned [31] = 1 ∧
    (writing.dev.abandonNow 31 abFetch).rd .pkAbandon [31, 9] = 1 ∧
    ((writing.dev.abandonNow 31 abFetch).raised.map fun o => (o.src, o.code, o.payload.take 6)) =
      [(32 * 31 + 21, 0x0801, [3] ++ le 4 100639 ++ [10])] ∧ (writing.dev.abandonNow 31 abFetch).out = [.wstbLow 31] := by decide +kernel

/-- OPC writes on a band of layer 2. -/
def testing31 : State := pickup [] fun k => { k with opc := [(2, { running := true, begun := true })] }

theorem test_abandon_opc : testing31.dev.rowNow 31 = none ∧ (testing31.dev.pkS 31).opc = [(2, { running := true, begun := true })] ∧
    (testing31.dev.abandonNow 31 abRail).out = [.wstbLow 31] ∧
    ((testing31.dev.abandonNow 31 abRail).pkS 31).opc = [(2, { running := true, begun := true, void := true })] := by decide +kernel

theorem test_abandon_none : (st []).dev.rowNow 31 = none ∧ (st []).dev.abandonNow 31 abRail = (st []).dev := by decide +kernel

/-! ### The rail and the wedges -/

/-- The 40 bits of a mark (Table 02-6). -/
def markWord (layer band angle : Nat) : Nat :=
  let h := layer * 2 ^ 28 + band * 2 ^ 12 + angle
  h * 1024 + crc10 30 h

theorem test_mark_words : railAddress (markWord 3 65535 3071) = some (3, 65535, 3071) ∧ railAddress (markWord 0 0 3072) = none ∧
    railAddress (markWord 3 65535 3071 + 1) = none ∧ railAddress (markWord 1 2 3) = some (1, 2, 3) := by decide +kernel

theorem test_mark_good : (pickup []).dev.on .pkMtoLock [31] = false ∧ ((pickup []).dev.servoS 31).expect = none ∧
    ((pickup []).dev.servoS 31).cap = none ∧ ((pickup []).dev.servoS 31).jump = none ∧
    gives (.railAddressMark 31 true (markWord 3 65535 3071)) (pickup [] fun k => { k with goodMarks := 7, missedMarks := 3 })
      (fun t => (t.dev.pkS 31).goodMarks == 8 && (t.dev.pkS 31).missedMarks == 0 &&
        (t.dev.pkS 31).lastMark == some ⟨3, 65535, 3071⟩ && (t.dev.pkS 31).layer == 3) = true := by decide +kernel

theorem test_mark_bad : gives (.railAddressMark 31 true (markWord 3 65535 3071 + 1)) (pickup [] fun k => { k with goodMarks := 7, missedMarks := 3 })
    (fun t => (t.dev.pkS 31).goodMarks == 0 && (t.dev.pkS 31).missedMarks == 4) = true := by decide +kernel

/-- Pickup 31 over a disc at 3,000 rpm, with n good marks in a row. -/
def lockable (n : Nat) (rpm : Nat := 3000) : State :=
  pickup [(.pkLaserMask, [31], 0x8003), (.spSpeed, [15], rpm)] fun k => { k with goodMarks := n, lastMark := some ⟨0, 0, 0⟩ }

theorem test_mark_strays : gives (.railAddressMark 31 true (markWord 3 65535 3071))
    (pickup [] (fun k => { k with goodMarks := 7 }) fun d => d.updServo 31 fun k => { k with expect := some ⟨3, 65535, 3070⟩ })
    (fun t => (t.dev.pkS 31).goodMarks == 0 && (t.dev.pkS 31).missedMarks == 1) = true := by decide +kernel

theorem test_lock : (lockable 8).dev.spotOn 31 15 = true ∧ 100000000 ≤ (lockable 8).dev.channelRate 31 ∧ (lockable 8).dev.channelRate 31 ≤ 1600000000 ∧
    gives (.mtoLock 31) (lockable 8) (fun t => t.dev.on .pkMtoLock [31] &&
      t.dev.rd .rcDeskewStatus [31, 1] == 1 && t.dev.rd .rcDeskewStatus [31, 15] == 1 && t.dev.rd .rcDeskewStatus [31, 2] == 0) = true ∧
    gives (.mtoLock 31) (lockable 7) (fun t => !t.dev.on .pkMtoLock [31]) = true ∧
    gives (.mtoLock 31) (lockable 8 1900) (fun t => !t.dev.on .pkMtoLock [31]) = true := by decide +kernel

theorem test_unlock : gives (.mtoUnlock 31)
      (pickup [(.pkMtoLock, [31], 1)] fun k => { k with missedMarks := 4, marked := true, lastMark := some ⟨3, 65535, 3071⟩ })
      (fun t => !t.dev.on .pkMtoLock [31] && seen t (32 * 31 + 21) == (1, 0x0101, [3, 255, 255, 0, 0])) = true ∧
    (pickup [(.pkMtoLock, [31], 1)] fun k => { k with missedMarks := 4, marked := true }).dev.rowNow 31 = none ∧
    (pickup [(.pkMtoLock, [31], 1)] fun k => { k with missedMarks := 4, marked := true }).dev.beingRead 31 = [] ∧
    gives (.mtoUnlock 31) (pickup [(.pkMtoLock, [31], 1)] fun k => { k with missedMarks := 3 }) (fun t => t.dev.on .pkMtoLock [31]) =
      true := by decide +kernel

/-- Pickup 31 with spots 0, 1 and 7 lit, at wedge 383. -/
def wedging (fs : List (Row × List Nat × Nat) := []) (f : Servo → Servo := id) : State :=
  pickup (fs ++ [(.pkLaserMask, [31], 0x83), (.wgTrkLim, [31], 120), (.wdStale, [7, 3, 6], 1), (.wdMissed, [7, 3], 9)]) id
    fun d => d.updServo 31 fun k => f { k with wedge := 383 }

/-- The index field of a wedge (Table 02-7). -/
def indexWord (w : Nat) : Nat := if parityBits 10 (2 * w) then 2 * w + 1 else 2 * w

theorem test_index_field : indexField (indexWord 383) = some 383 ∧ indexField (indexWord 383 ^^^ 1) = none ∧
    indexField (indexWord 0) = some 0 := by decide +kernel

theorem test_wedge : wedging.dev.spotOn 31 7 = true ∧ 7 ∉ (wedging.dev.servoS 31).reported ∧ wedging.dev.spotOn 31 0 = true ∧
    0 ∉ (wedging.dev.servoS 31).reported ∧ (wedging.dev.servoS 31).wedgeOver = false ∧ burstInvalid 7 10 10 = false ∧ 0 < 110 + 100 ∧
    (errorNm (burstError 7 110 100)).natAbs ≤ wedging.dev.rd .wgTrkLim [31] ∧
    gives (.wedge 31 7 (indexWord 383) 110 100 10 10 (-3)) wedging (fun t => t.dev.rd .wdStale [7, 3, 6] == 0 &&
      t.dev.rdS .wdLaneErr [7, 3, 6] == -6 && t.dev.rd .wdMissed [7, 3] == 9) = true := by decide +kernel

theorem test_wedge_invalid : gives (.wedge 31 7 (indexWord 383) 110 100 11 10 0) wedging
      (fun t => t.dev.rd .wdStale [7, 3, 6] == 1 && tget 0 (t.dev.servoS 31).missed 7 == 1) = true ∧
    gives (.wedge 31 7 (indexWord 382) 110 100 10 10 (-3)) wedging (fun t => t.dev.rd .wdMissed [7, 3] == 10) = true := by decide +kernel

theorem test_wedge_expiry : gives (.wedgeTimerExpiry 31 7) wedging (fun t => t.dev.rd .wdMissed [7, 3] == 10 &&
      (t.dev.servoS 31).reported == [7]) = true ∧
    gives (.wedgeTimerExpiry 31 7) (wedging [] fun k => { k with missedOne := true }) (fun t => t.dev.rd .wdMissed [7, 3] == 9) = true := by
  decide +kernel

theorem test_wedge_over : (∀ i, i < 16 → i ≠ 7 → wedging.dev.spotOn 31 i = true → i ∈ [0, 1]) ∧
    gives (.wedgeTimerExpiry 31 7) (wedging [] fun k => { k with reported := [0, 1], valid := [(1, 5)] }) (fun t =>
      (t.dev.servoS 31).reported == [] && (t.dev.servoS 31).valid == [] && !(t.dev.servoS 31).wedgeOver) = true ∧
    gives (.wedgeTimerExpiry 31 7) (wedging [] fun k => { k with reported := [0, 1], expect := some ⟨0, 0, 0⟩ }) (fun t =>
      (t.dev.servoS 31).wedgeOver) = true ∧
    gives (.wedgeTimerExpiry 31 7) (wedging [] fun k => { k with wedgeOver := true }) (fun t => t.dev.rd .wdMissed [7, 3] == 9) = true := by
  decide +kernel

theorem test_wedge_stale : (wedging [(.wgOpen, [31], 1)] fun k => { k with missed := [(1, 4)] }).dev.on .wdStale [7, 3, 0] = false ∧
    gives (.wedgeStale 31 0) (wedging [(.wgOpen, [31], 1)] fun k => { k with missed := [(1, 4)] })
      (fun t => t.dev.on .wdStale [7, 3, 0] && seen t (32 * 31 + 17) == (1, 0x0403, [1]) && !t.dev.on .wgOpen [31] &&
        t.dev.rd .wgTrips [31] == 1) = true ∧
    gives (.wedgeStale 31 0) (wedging [] fun k => { k with missed := [(1, 3)] }) (fun t => !t.dev.on .wdStale [7, 3, 0]) = true := by
  decide +kernel

/-! ### Focus and layer jumps -/

/-- Pickup 31 with loop records, and its axes in the given states. -/
def focused (sts : List (Nat × Nat)) (fs : List (Row × List Nat × Nat) := []) (f : Servo → Servo := id) (k : Pk → Pk := id) : State :=
  pickup (fs ++ sts.map fun e => (.axState, axIx 31 e.1, e.2)) k fun d => d.updServo 31 f

theorem test_focus_measured : (focused []).dev.axisMeasured 31 0 = false ∧
    gives (.focusSearch 31) (let s := focused [] [] fun k => { k with cap := some {} }
        { s with dev := { s.dev with measures := [{ origin := .ring 0 0, item := 3, index := 4 * 31, running := true }] } })
      (fun t => t.dev.axState 31 0 != axSearch) = true := by decide +kernel

theorem test_focus_search : (focused [] [] fun k => { k with cap := some {} }).dev.axMode 31 0 = 0 ∧
    (focused [] [] fun k => { k with cap := some {} }).dev.axState 31 0 ≠ axClosed ∧
    (focused [] [] fun k => { k with cap := some {} }).dev.saWaits 31 = false ∧
    gives (.focusSearch 31) (focused [] [] fun k => { k with cap := some {} })
      (fun t => t.dev.axState 31 0 == axSearch && (t.dev.servoS 31).cap.map FocusCap.step == some .sweep) = true := by decide +kernel

/-- A sweep at its end. -/
def sweeping (n : Nat) : State := focused [(0, axSearch)] [(.fcSearchT, [7, 3], 1)] fun k => { k with cap := some { step := .sweep, sweep := n, samples := 400 } }

theorem test_focus_sweep : (sweeping 2).dev.axMode 31 0 = 0 ∧ thas (sweeping 2).dev.homing 31 = false ∧ 400 * (sweeping 1).dev.rd .fcSearchT [7, 3] ≤ 400 ∧
    gives (.focusSweepEnd 31) (sweeping 1) (fun t => (t.dev.servoS 31).cap == some { step := .sweep, sweep := 2 }) = true ∧
    gives (.focusSweepEnd 31) (sweeping 2) (fun t => t.dev.axState 31 0 == axOff && (seen t (32 * 31 + 16)).2.1 == 0x0404) = true := by
  decide +kernel

theorem test_focus_loss : (focused [(0, axClosed)] [(.axMode, axIx 31 0, 2)] (fun k => { k with envLow := 8 }) fun k => { k with layer := 3 }).dev.closed 31 0 = true ∧
    gives (.focusLoss 31) (focused [(0, axClosed)] [(.axMode, axIx 31 0, 2)] (fun k => { k with envLow := 8 }) fun k => { k with layer := 3 })
      (fun t => t.dev.axState 31 0 == axHold && seen t (32 * 31 + 16) == (1, 0x0405, [3])) = true ∧
    gives (.focusLoss 31) (focused [(0, axClosed)] [] (fun k => { k with envLow := 7, focusHigh := 3 })) (fun t => t.dev.axState 31 0 == axClosed) =
      true := by decide +kernel

theorem test_focus_loss_auto : gives (.focusLoss 31)
    (focused [(0, axClosed)] [] (fun k => { k with envLow := 8 }) fun k => { k with layer := 3 })
    (fun t => (t.dev.servoS 31).cap == some {} && (t.dev.servoS 31).returnTo == some 3 && (t.dev.pkS 31).sa == some 7000) = true := by
  decide +kernel

theorem test_track_loss : ((focused [(1, axClosed)] [] fun k => { k with trackHigh := 4 }).dev.pkS 31).bandFollowed = none ∧
    gives (.trackLoss 31) (focused [(1, axClosed)] [] fun k => { k with trackHigh := 4 })
      (fun t => t.dev.axState 31 1 == axHold && seen t (32 * 31 + 17) == (1, 0x0406, [255, 255, 255, 255])) = true ∧
    gives (.trackLoss 31) (focused [(1, axClosed)] [] fun k => { k with trackHigh := 3 }) (fun t => t.dev.axState 31 1 == axClosed) = true := by
  decide +kernel

theorem test_track_loss_band : (focused [(1, axClosed)] [(.axMode, axIx 31 1, 2)]).dev.axMode 31 1 ≠ 0 ∧
    gives (.trackLoss 31) (focused [(1, axClosed)] [(.axMode, axIx 31 1, 2)] (fun k => { k with trackHigh := 4 }) fun k =>
        { k with bandFollowed := some 65535 })
      (fun t => seen t (32 * 31 + 17) == (1, 0x0406, [255, 255, 0, 0]) && t.dev.seekS 31 == none) = true := by decide +kernel

theorem test_jump_start : (focused [(0, axClosed)]).dev.pickupQuiet 31 = true ∧ ((focused [(0, axClosed)]).dev.pkS 31).layer < 3 ∧
    gives (.layerJumpStart 31 3) (focused [(0, axClosed)]) (fun t => (t.dev.servoS 31).jump.map (fun j => (j.origin, j.next, j.target, j.attempt)) ==
      some (0, 1, 3, 1)) = true := by decide +kernel

/-- A jump from layer 2 to 3 in a step, its samples counted. -/
def jumping (step : JumpStep) (samples within : Nat := 0) (fs : List (Row × List Nat × Nat) := []) : State :=
  focused [(0, axClosed)] (fs ++ [(.jpKickN, [7, 3], 5), (.jpCoastMax, [7, 3], 6), (.jpBrakeN, [7, 3], 7), (.jpCaptN, [7, 3], 8)])
    (fun k => { k with jump := some { step := step, origin := 2, next := 3, target := 3, samples := samples, braked := samples, within := within, triggered := within == 40 } })
    fun k => { k with layer := 2 }

/-- Step of the jump of pickup 31. -/
def jumpStep (t : State) : Option JumpStep := (t.dev.servoS 31).jump.map Jump.step

theorem test_jump_kick : (∀ x, x < 4 → (jumping .corrector).dev.axMode 31 x = 0 ∧ (jumping .corrector).dev.axisMeasured 31 x = false) ∧ (jumping .corrector).dev.rowNow 31 = none ∧
    (jumping .corrector).dev.saWaits 31 = false ∧
    gives (.layerJumpKick 31) (jumping .corrector) (fun t => jumpStep t == some .kick && t.dev.axState 31 0 == axJump &&
      t.dev.axState 31 3 == axHold) = true := by decide +kernel

theorem test_jump_coast_brake : gives (.layerJumpCoast 31) (jumping .kick 5) (fun t => jumpStep t == some .coast) = true ∧
    gives (.layerJumpCoast 31) (jumping .kick 4) (fun t => jumpStep t == some .kick) = true ∧
    gives (.layerJumpBrake 31) (jumping .coast 6) (fun t => jumpStep t == some .brake) = true ∧
    gives (.layerJumpBrake 31) (jumping .coast 5) (fun t => jumpStep t == some .coast) = true := by decide +kernel

theorem test_jump_capture_window : gives (.layerJumpCapture 31) (jumping .brake 7) (fun t => jumpStep t == some .window &&
      t.dev.axState 31 0 == axClosed) = true ∧
    gives (.layerJumpWindowEnd 31) (jumping .window 8) (fun t => jumpStep t == some .confirm && t.dev.axState 31 1 == axClosed &&
      t.dev.axState 31 3 == axClosed) = true := by decide +kernel

theorem test_jump_confirm : (jumping .confirm 0 40 [(.pkMtoLock, [31], 1)]).dev.seekS 31 = none ∧
    ((jumping .confirm 0 40 [(.pkMtoLock, [31], 1)]).dev.servoS 31).returnTo = none ∧
    gives (.layerJumpConfirm 31 (some 3)) (jumping .confirm 0 40 [(.pkMtoLock, [31], 1)])
      (fun t => (t.dev.pkS 31).layer == 3 && jumpStep t == none) = true ∧
    gives (.layerJumpConfirm 31 none) (jumping .confirm 0 40 [(.pkMtoLock, [31], 1)])
      (fun t => seen t (32 * 31 + 16) == (1, 0x0407, [0xFF, 3])) = true := by decide +kernel

/-- A jump from layer 0 to 3 by way of layer 1, confirmed. -/
def jumpingOn (f : Dev → Dev := id) : State := focused [(0, axClosed)] [(.pkMtoLock, [31], 1)]
  (fun k => { k with jump := some { step := .confirm, origin := 0, next := 1, target := 3, within := 40, triggered := true } })
  |> fun s => { s with dev := f s.dev }

theorem test_jump_goes_on : (jumpingOn.dev.updPk 31 fun k => { k with layer := 1 }).rowBusy 31 = false ∧
    gives (.layerJumpConfirm 31 (some 1)) jumpingOn (fun t => (t.dev.servoS 31).jump.map (fun j => (j.origin, j.next, j.target, j.step)) ==
      some (1, 2, 3, .corrector)) = true ∧
    gives (.layerJumpConfirm 31 (some 1)) (jumpingOn fun d => d.updPk 31 fun k => { k with rows := [someRow .user true] })
      (fun t => jumpStep t == some .held) = true ∧
    (jumping .confirm).dev.rowNow 31 = none ∧
    gives (.layerJumpConfirm 31 (some 3)) (jumping .confirm) (fun t => seen t (32 * 31 + 16) == (1, 0x0407, [3, 3]) &&
      jumpStep t == some .recapture) = true := by decide +kernel

/-! ### The loop engines -/

theorem test_integrate : (0 : Int) ≤ 100 ∧ (integrate 99 (2 ^ 29) (2 ^ 29) 100).1 = 100 ∧ (integrate (-99) (2 ^ 29) (-(2 ^ 29)) 100).1 = -100 := by
  decide +kernel

theorem test_closed_sample : 0 ≤ (st [(.cfOlim, [0, 0, 0], 1000)]).dev.rdS .cfOlim ((st []).dev.bankOf (axIx 0 0)) := by decide +kernel

theorem test_bank_swap : gives (.bankSwap 7 0x8000) (st []) (fun t => t.dev.rd .bankPending [7, 15] == 1 && t.dev.rd .bankPending [7, 0] == 0) =
      true ∧
    (st [(.bankPending, [7, 15], 1), (.bankActive, [7, 15], 1)]).dev.on .bankPending [7, 15] = true ∧
    ((st [(.bankPending, [7, 15], 1), (.bankActive, [7, 15], 1)]).dev.applySwaps 7).rd .bankActive [7, 15] = 0 := by decide +kernel

theorem test_axis_settings : (st []).dev.axisMeasured 31 3 = false ∧
    gives (.axisModeWrite 7 15 3) (st []) (fun t => (t.dev.axS 31 3).modePending == some 3 && t.dev.axMode 31 3 == 0) = true ∧
    gives (.ffClear 7 15) (st []) (fun t => (t.dev.axS 31 3).clearPending) = true := by decide +kernel

theorem test_rro : gives (.rroWrite 7 15 383 77) (st []) (fun t => t.dev.rd .axRro [7, 15, 383] == 77) = true ∧
    gives (.rroWrite 7 15 383 77) (st [(.axFfLearn, [7, 15], 1)]) (fun t => t.dev.rd .axRro [7, 15, 383] == 0) = true := by decide +kernel

theorem test_sample : gives (.loopSample 7 [] []) (st [] fun d => { d with time := 249 }) (fun t => t.dev.time == 249) = true ∧
    gives (.loopSample 7 [] []) (st [] fun d => { d with time := 250 }) (fun t => t.dev.raised == []) = true := by decide +kernel

theorem test_output : (pickup []).dev.on .pkPresent [4 * 7 + 3] = true ∧
    gives (.loopOutput 7 true) (pickup [] id fun d => { d.updAx 31 3 (fun k => { k with out := -(2 ^ 29) }) with
        spin := [(15, { duties := [1, 2, 3] })] })
      (fun t => (t.dev.axS 31 3).coil == setPoint (-(2 ^ 29)) && (t.dev.spinS 15).written == [1, 2, 3]) = true ∧
    gives (.loopOutput 7 false) (pickup []) (fun t => t.dev.on .lpOverrun [7] && seen t 0x7F0 == (1, 0x0401, [7])) = true := by decide +kernel

/-- The trace of engine 7 in a state, with a number of records. -/
def tracing (s : Nat) (f : Trace → Trace) : State := st [(.trState, [7], s), (.trPretrig, [7], 8191), (.trKind, [7], 3)] fun d => { d with trace := [(7, f {})] }

theorem test_trace_arm : gives (.traceArm 7) (tracing trDone fun k => { k with count := 5, records := [[1]] })
      (fun t => t.dev.rd .trState [7] == trFilling && (tget {} t.dev.trace 7).records == [] && (tget {} t.dev.trace 7).pretrig == 8191) =
      true ∧
    gives (.traceArmed 7) (tracing trFilling fun k => { k with count := 5, pretrig := 5 }) (fun t => t.dev.rd .trState [7] == trArmed) = true ∧
    gives (.traceArmed 7) (tracing trFilling fun k => { k with count := 4, pretrig := 5 }) (fun t => t.dev.rd .trState [7] == trFilling) =
      true := by decide +kernel

theorem test_trace_force : gives (.traceForce 7) (tracing trArmed id) (fun t => (tget {} t.dev.trace 7).armedHit == some 0x83) = true ∧
    gives (.traceForce 7) (tracing trFilling id) (fun t => (tget {} t.dev.trace 7).armedHit == none) = true := by decide +kernel

theorem test_trace_done : gives (.traceDone 7) (tracing trTriggered fun k => { k with count := 8186, pretrig := 5 })
      (fun t => t.dev.rd .trState [7] == trDone && seen t 0x7F0 == (1, 0x0409, [7])) = true ∧
    gives (.traceDone 7) (tracing trTriggered fun k => { k with count := 8185, pretrig := 5 })
      (fun t => t.dev.rd .trState [7] == trTriggered) = true := by decide +kernel

/-! ### Sleds -/

/-- Pickup 31 whose sled is in a state. -/
def sled (st : Nat) (fs : List (Row × List Nat × Nat) := []) (f : Sled → Sled := id) (g : Dev → Dev := id) : State :=
  pickup (fs ++ [(.slState, [31], st)]) id fun d => g (d.updSled 31 f)

theorem test_idle_current : 40000 ≤ ((sled slHold).dev.sledS 31).still ∧ (sled slHold).dev.slSt 31 ≠ slUnhomed ∧
    (sled slHold).dev.rd .slMode [31] ≠ 1 ∧
    gives (.sledIdleCurrent 31) (sled slHold [] fun k => { k with idle := false }) (fun t => t.dev.coilCur 31 == t.dev.rd .slIhold [31]) = true ∧
    gives (.sledIdleCurrent 31) (sled slHold [] fun k => { k with idle := false, still := 39999 })
      (fun t => t.dev.coilCur 31 == t.dev.rd .slIrun [31]) = true := by decide +kernel

theorem test_seek_start : (sled slHold).dev.sledAuto 31 = true ∧ (sled slHold).dev.on .slFault [31] = false ∧
    (sled slHold).dev.pickupQuiet 31 = true ∧ ((sled slHold).dev.pkS 31).rows = [] ∧ ((sled slHold).dev.servoS 31).cap = none ∧
    ((sled slHold).dev.pkS 31).layer = 0 ∧ (sled slHold).dev.slSt 31 = slHold ∧
    gives (.seekStart 31 65535 3071 0) (sled slHold) (fun t => t.dev.slSt 31 == slSeek &&
      (t.dev.seekS 31).map (fun k => (k.band, k.step)) == some (65535, .moving) && (t.dev.sledS 31).move.isSome) = true := by decide +kernel

/-- A move that has ended as it began. -/
def still : Move := { start := 0, target := 0, jerk := 2000, accel := 2000, speed := 500, scale := 9830400, began := 0 }

/-- A seek of sled 31 in a step, its move at an end. -/
def seeking (step : SeekStep) (track : Nat := axClosed) (fs : List (Row × List Nat × Nat) := []) : State :=
  sled slSeek (fs ++ [(.axState, axIx 31 1, track)]) (fun k => { k with homed := true, move := some still }) fun d =>
    (d.updServo 31 fun k => { k with followed := 16 }).setSeek 31 { band := 1001, angle := 3071, layer := 0, step := step }

theorem test_seek_profile_end : (seeking .moving).dev.moveEnded 31 = true ∧
    gives (.seekProfileEnd 31) (seeking .moving) (fun t => (t.dev.seekS 31).map Seek.step == some .landing) = true ∧
    -- the last set-point is one run short of the target
    gives (.seekProfileEnd 31) { seeking .moving with dev := (seeking .moving).dev.wrS .slPos [31] (-1) }
      (fun t => (t.dev.seekS 31).map Seek.step == some .moving) = true ∧
    -- |x_tpp| just below 0.2, and at it (0.2 is no Q2.29 number)
    (seeking .landing axOff).dev.axMode 31 1 = 0 ∧ (seeking .landing axOff).dev.axState 31 1 = axOff ∧
    ((seeking .landing axOff).dev.landTracking 31 107374182).axState 31 1 = axClosed ∧
    ((seeking .landing axOff).dev.landTracking 31 (-107374183)).axState 31 1 = axOff := by decide +kernel

/-- A band field of a wedge: 16 bits in Gray code and their parities (R55). -/
def fieldWord (b : Nat) : Nat := ((List.range 4).map fun i => 4 * (b ^^^ (b / 2)) + i).find? (fun f => bandField f == some b) |>.getD 0

theorem test_seek_landing : bandField (fieldWord 1000) = some 1000 ∧ (seeking .landing).dev.closed 31 1 = true ∧ 16 ≤ ((seeking .landing).dev.servoS 31).followed ∧
    (seeking .landing).dev.bandCheck 31 { band := 1001, angle := 3071, layer := 0, step := .landing } 1000 0 = true ∧
    gives (.seekLanding 31 (fieldWord 1000) 0) (seeking .landing) (fun t => t.dev.slSt 31 == slFollow && t.dev.seekS 31 == none &&
      t.dev.rd .slLastBand [31] == 1000) = true := by decide +kernel

theorem test_seek_correction : (seeking .landing axClosed [(.slCorrMax, [31], 1)]).dev.bandCheck 31 { band := 1001, angle := 3071, layer := 0, step := .landing } 1002 0 = false ∧
    gives (.seekLanding 31 (fieldWord 1002) 0) (seeking .landing axClosed [(.slCorrMax, [31], 1)])
      (fun t => (t.dev.seekS 31).map (fun k => (k.step, k.corrections)) == some (.moving, 1)) = true ∧
    -- the band check at its ends (R156)
    (seeking .landing).dev.bandCheck 31 { band := 1001, angle := 64, layer := 0 } 1001 0 = true ∧
    (seeking .landing).dev.bandCheck 31 { band := 1001, angle := 63, layer := 0 } 1001 0 = false := by decide +kernel

theorem test_seek_timeout : (0 : Nat) < (seeking .landing axClosed [(.slSeekRetry, [31], 1)]).dev.rd .slSeekRetry [31] ∧
    ((seeking .landing).dev.sledS 31).homed = true ∧ (seeking .landing).dev.selftest = none ∧ (seeking .landing).dev.homing = [] ∧
    (seeking .landing).dev.on .slStopmode [31] = false ∧ (seeking .landing).dev.rowNow 31 = none ∧
    gives (.seekTimeout 31) (seeking .landing axClosed [(.slSeekRetry, [31], 1)]) (fun t => t.dev.slSt 31 == slStopping &&
      (t.dev.seekS 31).map (fun k => (k.step, k.retries)) == some (.waiting, 1) && (seen t (32 * 31 + 20)).2.1 == 0x0503) = true := by
  decide +kernel

/-- The MANUAL sled of the moves. -/
def manual (st : Nat) (fs : List (Row × List Nat × Nat) := []) (f : Sled → Sled := id) : State :=
  sled st (fs ++ [(.slMode, [31], 2), (.slScale, [31], 9830400), (.slLimitIn, [31], 22000000), (.slLimitOut, [31], 60000000), (.slOrigin, [31], 22300000)])
    fun k => f { k with homed := true }

theorem test_goto : (manual slFollow).dev.rd .slMode [31] = 2 ∧ (manual slFollow).dev.on .slFault [31] = false ∧
    (manual slFollow).dev.rowNow 31 = none ∧ ((manual slFollow).dev.clampTarget 31 (-2147483648)).1 ≠ -2147483648 ∧
    gives (.sledGoto 31 (-2147483648)) (manual slFollow) (fun t => t.dev.slSt 31 == slSeek && (seen t (32 * 31 + 20)).2.1 == 0x0505) = true ∧
    ((manual slHold).dev.clampTarget 31 1000).1 = 1000 ∧
    gives (.sledGoto 31 1000) (manual slHold) (fun t => t.dev.slSt 31 == slSeek && (seen t (32 * 31 + 20)).1 == 0 &&
      (t.dev.sledS 31).move.map Move.target == some 1000) = true := by decide +kernel

theorem test_goto_auto : (sled slHold).dev.rd .slMode [31] ≠ 2 ∧
    gives (.sledGoto 31 1000) (sled slHold) (fun t => t.dev.slSt 31 == slHold && t.dev.rdS .slGoto [31] == 1000) = true := by decide +kernel

/-- The profile of Table 05-4: 34,133 microsteps take 75.0 ms, and 0.333 mm lie behind it after 10.0 ms. -/
def tableMove : Move := { start := 0, target := 34133 * 256, jerk := 2000, accel := 2000, speed := 500, scale := 9830400, began := 1000000 }

theorem test_profile_total : (tableMove.plan.total + 5 * 10 ^ 10) / 10 ^ 11 = 750 ∧ tableMove.at 1000000 = 0 ∧
    tableMove.at 2000000 = 145636 ∧ tableMove.at (1000000 + 7500000) = 34133 * 256 := by decide +kernel

theorem test_stop : (manual slSeek).dev.seekS 31 = none ∧ (manual slSeek).dev.homing = [] ∧ ((manual slSeek).dev.sledS 31).homed = true ∧
    (manual slSeek).dev.selftest = none ∧ (manual slSeek).dev.on .slStopmode [31] = false ∧
    gives (.sledStop 31) (manual slSeek) (fun t => t.dev.slSt 31 == slStopping && (t.dev.sledS 31).ramp.isSome) = true ∧
    gives (.sledStop 31) (manual slSeek [(.slStopmode, [31], 1)]) (fun t => t.dev.slSt 31 == slUnhomed && t.dev.coilCur 31 == 0 &&
      (t.dev.sledS 31).frozen == some 0 &&
      seen t (32 * 31 + 20) == (1, 0x0506, [0])) = true := by decide +kernel

theorem test_ramp_end : (StopRamp.done { start := 0, outward := true, speed := 0, accel := 0, jerk := 1, limit := 1, scale := 1, began := 0 } 0) = true ∧
    gives (.stopRampEnd 31) (manual slStopping [] fun k => { k with ramp := some { start := 0, outward := true, speed := 0, accel := 0, jerk := 1, limit := 1, scale := 1, began := 0 } })
      (fun t => t.dev.slSt 31 == slHold && (t.dev.sledS 31).ramp == none) = true ∧
    (manual slStopping [] fun k => { k with ramp := some { start := 0, outward := true, speed := 0, accel := 0, jerk := 1, limit := 1, scale := 1, began := 0 } }).dev.moveEnded 31 =
      true := by decide +kernel

/-! ### Homing -/

/-- An UNHOMED sled whose S0 is lit and whose spindle turns at an end of the range. -/
def unhomed (rpm : Nat := 1200) (fs : List (Row × List Nat × Nat) := []) : State :=
  sled slUnhomed (fs ++ [(.pkLaserMask, [31], 1), (.spSpeed, [15], rpm)])

theorem test_home : unhomed.dev.homeBlocker 31 = none ∧ (unhomed 12000).dev.homeBlocker 31 = none ∧ unhomed.dev.pickupQuiet 31 = true ∧ thas unhomed.dev.seek 31 = false ∧
    thas unhomed.dev.homing 31 = false ∧ unhomed.dev.rowNow 31 = none ∧
    gives (.sledHome 31) unhomed (fun t => t.dev.slSt 31 == slHoming && t.dev.homingS 31 == some {} && (t.dev.servoS 31).cap == some {}) =
      true := by decide +kernel

theorem test_homing_start : unhomed.dev.sledAuto 31 = true ∧ (unhomed.dev.sledS 31).homeBlocked = false ∧
    gives (.homingStart 31) (unhomed 12000) (fun t => t.dev.slSt 31 == slHoming) = true ∧ (unhomed 1199).dev.homeBlocker 31 = some 3 ∧
    (unhomed 12001).dev.homeBlocker 31 = some 3 ∧
    gives (.homingStart 31) (unhomed 1199) (fun t => t.dev.slSt 31 == slUnhomed && (t.dev.sledS 31).homeBlocked &&
      seen t (32 * 31 + 20) == (1, 0x0502, [3])) = true := by decide +kernel

/-- Sled 31 homing in a step. -/
def homing (step : HomeStep) (h : Homing → Homing := id) : State :=
  sled slHoming [(.slScale, [31], 9830400)] (fun k => { k with move := some still }) fun d => d.setHoming 31 (h { step := step })

/-- Step of the homing of pickup 31. -/
def homeStep (t : State) : Option HomeStep := (t.dev.homingS 31).map Homing.step

/-- n chevron frames of a pitch of 1,000 samples whose arms stand q thousandths of it apart, and one more. -/
def frames (n q : Nat) : List (Nat × Nat) := (List.range (n + 1)).map fun i => (256000 * i, 256000 * i + 256 * q)

theorem test_home_pattern : (chevrons (frames 8 400)).all chevronSeen = true ∧ (chevrons (frames 8 540)).all chevronSeen = true ∧
    (chevrons (frames 8 541)).any chevronSeen = false ∧ (chevrons (frames 8 399)).any chevronSeen = false ∧
    chevronRadius ((chevrons (frames 8 500)).drop 7) = 22400000 ∧
    gives (.homingPatternSeen 31 (frames 8 500)) (homing .inward) (fun t => homeStep t == some .ramp &&
      (t.dev.sledS 31).ramp.isSome) = true ∧
    gives (.homingPatternSeen 31 (frames 8 500)) (homing .fromSwitch) (fun t => homeStep t == some .ramp) = true ∧
    gives (.homingPatternSeen 31 (frames 7 500)) (homing .inward) (fun t => homeStep t == some .inward) = true := by decide +kernel

theorem test_home_settle : gives (.homingSettleEnd 31) (homing .settleFirst) (fun t => homeStep t == some .readFirst) = true ∧
    gives (.homingSettleEnd 31) (homing .settleSecond) (fun t => homeStep t == some .readSecond) = true := by decide +kernel

theorem test_home_first : gives (.homingRadiusRead 31 (frames 384 500)) (homing .readFirst) (fun t => homeStep t == some .toSecond &&
    (t.dev.sledS 31).move.map Move.target == some 262144 && (t.dev.homingS 31).map Homing.r1 == some 22400000) = true ∧
    gives (.homingRadiusRead 31 (frames 383 500)) (homing .readFirst) (fun t => homeStep t == some .readFirst) = true := by decide +kernel

theorem test_home_second : roundDiv (593920 * 2 ^ 14) 1000 = 9730785 ∧
    gives (.homingRadiusRead 31 (frames 384 500)) (homing .readSecond fun h => { h with r1 := 21806080 }) (fun t => t.dev.slSt 31 == slHold &&
      t.dev.rd .slScale [31] == 9730785 && t.dev.rdS .slOrigin [31] == 21806080 && homeStep t == none) = true ∧
    gives (.homingRadiusRead 31 (frames 384 500)) (homing .readSecond fun h => { h with r1 := 21806081 }) (fun t => t.dev.slSt 31 == slUnhomed &&
      (seen t (32 * 31 + 20)).1 == 2) = true ∧
    gives (.homingRadiusRead 31 (frames 384 500)) (homing .readSecond fun h => { h with r1 := 21793791 }) (fun t => t.dev.slSt 31 == slUnhomed) = true := by
  decide +kernel

theorem test_home_switch : gives (.homeNLow 31) (homing .inward) (fun t => homeStep t == some .switchRamp && (t.dev.sledS 31).ramp.isSome) =
      true ∧
    (homing .fromSwitch).dev.moveEnded 31 = true ∧
    gives (.homingSwitchSearchEnd 31) (homing .fromSwitch) (fun t => t.dev.slSt 31 == slHold && t.dev.rd .slScale [31] == 9830400 &&
      t.dev.rd .slCoarse [31] == 1) = true := by decide +kernel

theorem test_home_fails : (homing .inward).dev.moveEnded 31 = true ∧
    gives (.homingTravelEnd 31) (homing .inward) (fun t => t.dev.slSt 31 == slUnhomed && (seen t (32 * 31 + 20)).1 == 2) = true ∧
    gives (.homingReadTimeout 31) (homing .readFirst) (fun t => t.dev.slSt 31 == slUnhomed) = true ∧
    gives (.homingReadTimeout 31) (homing .readSecond) (fun t => t.dev.slSt 31 == slUnhomed) = true := by decide +kernel

theorem test_coil_axis : ((sled slHold).dev.axS 31 3).tripped = false ∧
    gives (.coilOvercurrent 31 3) (sled slHold [] id fun d => d.updAx 31 3 fun k => { k with coil := 9 })
      (fun t => (t.dev.axS 31 3).tripped && (t.dev.axS 31 3).coil == 0 && seen t (32 * 31 + 19) == (1, 0x0304, [3])) = true := by decide +kernel

theorem test_coil_sled : (sled slHold).dev.homing = [] ∧ (sled slHold).dev.rowRead 31 = false ∧ (sled slHold).dev.seekS 31 = none ∧
    gives (.coilOvercurrent 31 4) (sled slHold) (fun t => t.dev.on .slFault [31] && t.dev.slSt 31 == slUnhomed &&
      seen t (32 * 31 + 20) == (2, 0x0507, [0])) = true := by decide +kernel

/-! ### Spindles -/

/-- Spindle 15 in a state. -/
def spindle (s : Nat) (fs : List (Row × List Nat × Nat) := []) (f : Spin → Spin := id) : State :=
  st (fs ++ [(.spState, [15], s)]) fun d => d.updSpin 15 f

theorem test_spindle_start : (spindle spOff [(.spEn, [15], 1), (.spTarget, [15], 300)]).dev.on .spFault [15] = false ∧
    gives (.spindleStart 15) (spindle spOff [(.spEn, [15], 1), (.spTarget, [15], 300)]) (fun t => t.dev.spSt 15 == spCatch &&
      (t.dev.spinS 15).attempt == 1) = true ∧
    gives (.spindleStart 15) (spindle spOff [(.spTarget, [15], 300)]) (fun t => t.dev.spSt 15 == spOff) = true := by decide +kernel

theorem test_catch : catchSpeed 5000000 true = 300 ∧ catchSpeed 5000000 false = -300 ∧ catchSpeed 5000001 true = 299 ∧ catchSpeed 0 true = 0 ∧
    gives (.catchEnd 15 5000000 true 65537) (spindle spCatch) (fun t => t.dev.spSt 15 == spCatch && (t.dev.spinS 15).gates &&
      (t.dev.spinS 15).obsAngle == 1) = true ∧
    gives (.catchEnd 15 5000001 true 0) (spindle spCatch) (fun t => t.dev.spSt 15 == spAlign) = true ∧
    gives (.catchEnd 15 5000001 false 0) (spindle spCatch) (fun t => t.dev.spSt 15 == spAlign) = true ∧
    gives (.catchEnd 15 5000000 false 0) (spindle spCatch) (fun t => t.dev.spSt 15 == spBrake && (t.dev.spinS 15).braking) = true := by decide +kernel

theorem test_brake_align : gives (.brakeEnd 15) (spindle spBrake [(.spSpeed, [15], 299)] fun k => { k with braking := true }) (fun t => t.dev.spSt 15 == spAlign &&
      (t.dev.spinS 15).gates && !(t.dev.spinS 15).braking) = true ∧
    gives (.brakeEnd 15) (spindle spBrake [(.spSpeed, [15], 65236)] fun k => { k with braking := true }) (fun t => t.dev.spSt 15 == spBrake) = true ∧
    gives (.alignEnd 15) (spindle spAlign [] fun k => { k with ref := 7 }) (fun t => t.dev.spSt 15 == spRamp && (t.dev.spinS 15).ref == 0) =
      true := by decide +kernel

theorem test_run_entry : gives (.runEntry 15) (spindle spCatch [(.spObslock, [15], 1), (.spSpeed, [15], 400)] fun k => { k with gates := true })
      (fun t => t.dev.spSt 15 == spRun && (t.dev.spinS 15).ref == 65536 * 400) = true ∧
    gives (.runEntry 15) (spindle spRamp [(.spObslock, [15], 1), (.spRampEnd, [15], 300)] fun k => { k with ref := 65536 * 300 })
      (fun t => t.dev.spSt 15 == spRun && t.dev.rd .spSource [15] == 2) = true ∧
    gives (.runEntry 15) (spindle spRamp [(.spObslock, [15], 1), (.spRampEnd, [15], 300)] fun k => { k with ref := 65536 * 300 - 1 })
      (fun t => t.dev.spSt 15 == spRamp) = true := by decide +kernel

theorem test_start_timeout : (spindle spRamp [(.spStartRetry, [15], 1)] fun k => { k with attempt := 1 }).dev.attempts 15 = 2 ∧
    gives (.startTimeout 15) (spindle spRamp [(.spStartRetry, [15], 1)] fun k => { k with attempt := 1 }) (fun t => t.dev.spSt 15 == spWait) =
      true ∧
    gives (.startTimeout 15) (spindle spAlign [(.spStartRetry, [15], 1)] fun k => { k with attempt := 2 })
      (fun t => t.dev.spSt 15 == spFailed && (seen t 0x4F0).2.1 == 0x0603 && (seen t 0x4F0).2.2.take 6 == [2, 0, 0, 0, 0, 0]) = true ∧
    gives (.waitEnd 15) (spindle spWait [] fun k => { k with attempt := 1 }) (fun t => t.dev.spSt 15 == spCatch && (t.dev.spinS 15).attempt == 2) =
      true := by decide +kernel

theorem test_stopped : gives (.spindleStopped 15) (spindle spStopping [(.spSpeed, [15], 9)] fun k => { k with braking := true })
    (fun t => t.dev.spSt 15 == spOff && t.dev.rd .spSpeed [15] == 0 && seen t 0x4F0 == (1, 0x0602, [])) = true := by decide +kernel

/-- Spindles 0 to 7 enabled in class S. -/
def eight (cls : Nat) : State := st ((.spClass, [], cls) :: (List.range 8).map fun n => (.spEn, [n], 1))

theorem test_spindle_en : (eight 0).dev.enabledSpindles = 8 ∧ faults (.spindleEnWrite 15 true) (eight 0) .classSpindles = true ∧
    gives (.spindleEnWrite 7 true) (eight 0) (fun t => t.dev.on .spEn [7]) = true ∧
    gives (.spindleEnWrite 15 true) (eight 1) (fun t => t.dev.on .spEn [15]) = true ∧
    gives (.spindleEnWrite 15 false) (spindle spRun [(.spEn, [15], 1), (.spTarget, [15], 500)]) (fun t => t.dev.spSt 15 == spRun &&
      (t.dev.spinS 15).enOff && (t.dev.currentSample 15 {} []).spSt 15 == spOff && (t.dev.currentSample 15 {} []).rd .spTarget [15] == 500) = true := by decide +kernel

theorem test_class : gives (.classWrite 0) (eight 1) (fun t => t.dev.rd .spClass == 0) = true ∧
    gives (.classWrite 1) (eight 0) (fun t => t.dev.rd .spClass == 1) = true ∧
    faults (.classWrite 0) { eight 1 with dev := (eight 1).dev.wr .spEn [15] 1 } .classSpindles = true := by decide +kernel

theorem test_obslock : gives (.obslockSet 15) (spindle spRamp [] fun k => { k with obsGood := 64 }) (fun t => t.dev.on .spObslock [15]) = true ∧
    gives (.obslockSet 15) (spindle spRamp [] fun k => { k with obsGood := 63 }) (fun t => !t.dev.on .spObslock [15]) = true ∧
    gives (.obslockClear 15) (spindle spRun [(.spObslock, [15], 1), (.spSource, [15], 3), (.spSpeed, [15], 500)] fun k => { k with obsBad := 16, obsSpeed := 500 })
      (fun t => !t.dev.on .spObslock [15] && seen t 0x4F1 == (1, 0x0607, [244, 1, 3])) = true ∧
    gives (.obslockClear 15) (spindle spRun [(.spObslock, [15], 1), (.spSource, [15], 2)] fun k => { k with obsSpeed := 199 })
      (fun t => !t.dev.on .spObslock [15] && (seen t 0x4F1).1 == 0) = true := by decide +kernel

theorem test_offset_learned : gives (.offsetLearned 15 1) (spindle spRun [] fun k => { k with learn := [[], List.replicate 256 65535], learnOwed := [false, true] })
    (fun t => t.dev.on .spLearned [15, 1] && t.dev.rd .spOffset [15, 1] == 65535 && seen t 0x4F1 == (1, 0x0604, [1, 255, 255])) = true := by
  decide +kernel

theorem test_angle_mismatch : gives (.angleMismatch 15) (spindle spRun [(.spSource, [15], 2), (.spAnglesrc, [15], 0)] fun k =>
      { k with media := some (1, 0), trying := true, obsAngle := 16 })
    (fun t => !(t.dev.spinS 15).trying && (seen t 0x4F1).2.1 == 0x0606) = true := by decide +kernel

theorem test_at_speed : gives (.spindleAtSpeed 15) (spindle spRun [(.spTarget, [15], 400), (.spSpeed, [15], 402)])
      (fun t => t.dev.on .spAtspeed [15] && seen t 0x4F0 == (1, 0x0601, le 2 402)) = true ∧
    gives (.spindleAtSpeed 15) (spindle spRun [(.spTarget, [15], 400), (.spSpeed, [15], 403)]) (fun t => !t.dev.on .spAtspeed [15]) = true := by
  decide +kernel

theorem test_ceiling : gives (.speedCeiling 15) (spindle spRun [(.spTarget, [15], 400), (.spSpeed, [15], 397), (.spVlimit, [15], 1), (.spVbus, [15], 12000)])
    (fun t => t.dev.on .spAtspeed [15] && seen t 0x4F3 == (1, 0x060B, le 2 397 ++ le 2 12000) && (seen t 0x4F0).1 == 1) = true := by decide +kernel

theorem test_pins : gives (.cmdsrcWrite 15 3) (spindle spOff) (fun t => (t.dev.spinS 15).cmdsrcPending == some 3 && t.dev.rd .spCmdsrc [15] == 0) =
      true ∧
    gives (.pinCmdLost 15) (spindle spOff [(.spCmdsrc, [15], 2), (.spTarget, [15], 500)]) (fun t => t.dev.rd .spTarget [15] == 0 &&
      seen t 0x4F3 == (1, 0x060C, [2])) = true := by decide +kernel

theorem test_gate_fault : ((spindle spRun [(.spOcLimit, [15], 5000)]).dev.pkS 31).rows = [] ∧
    gives (.gateFault 15 2 5001) (spindle spRun [(.spOcLimit, [15], 5000)]) (fun t => t.dev.on .spFault [15] && t.dev.spSt 15 == spOff &&
      seen t 0x4F2 == (1, 0x0609, 2 :: le 4 5001)) = true ∧
    gives (.gateFault 15 2 5000) (spindle spRun [(.spOcLimit, [15], 5000)]) (fun t => t.dev.spSt 15 == spRun) = true := by decide +kernel

theorem test_replace_timeout : ((spindle spOff [] fun k => { k with outSince := some 0 }).dev.pkS 31).queues.flatten = [] ∧
    gives (.replaceTimeout 15) (spindle spOff [] fun k => { k with outSince := some 0 }) (fun t => t.dev.unavailable == [(30, 3), (31, 3)] ||
      t.dev.unavailable == [(31, 3), (30, 3)]) = true := by decide +kernel

/-! ### Power, resets and boot -/

/-- A device in power-on reset. -/
def poweringUp (low : Bool) (hs : List (Nat × Header)) : State := st [] fun d => { d with
  regs := [], pins := { d.pins with por := true, pwrOk := false, perstLow := low }, boot := { d.boot with headers := hs } }

theorem test_power_on : (poweringUp true []).dev.raised = [] ∧ (poweringUp true []).dev.pins.converters = true ∧
    gives (.powerOnResetEnd true) (poweringUp true []) (fun t => !t.dev.pins.por && t.dev.pins.pwrOk && t.dev.pins.spiVselHigh) = true ∧
    gives (.powerOnResetEnd false) (poweringUp false [(0, {}), (1, {})]) (fun t => t.dev.rd .glBoot == bootRecovery) = true := by decide +kernel

theorem test_wstb_low : (writing.dev.pk.any fun e => e.2.rows.any RowWrite.started) = true ∧
    gives .vinBrownout writing (fun t => t.dev.out == [.wstbLow 31]) = true ∧
    gives .perstNAssert { writing with dev := writing.dev.updPins fun p => { p with por := false } } (fun t => t.dev.out == [.wstbLow 31]) = true := by
  decide +kernel

theorem test_brownout : gives .vinBrownout touched (fun t => t.dev.pins.por && t.dev.regs == [] && t.mem == [] && t.ev == []) = true ∧
    gives .converterOutOfRegulation touched (fun t => t.dev.pins.por && t.dev.pins.converters) = true ∧
    gives .vinRise (poweringUp true [] ) (fun t => t.dev.pins.converters) = true := by decide +kernel

/-- A device that runs with PERST_n high, with a register kept and one not. -/
def running : State := { (st [(.thDie, [7], 33), (.sqEn, [255], 1), (.pkLaserMask, [31], 5)] fun d => { d with
  time := 77, pins := { d.pins with perstLow := false } }) with mem := [(0, 1)] }

theorem test_perst_vcore : gives .perstNAssert { running with dev := (running.dev.wr .glVcoreSettled [] 1).updBoot fun b => { b with vcore := 700 } }
      (fun t => t.dev.on .glVcoreSettled) = true ∧
    gives .perstNAssert { running with dev := (running.dev.wr .glVcoreSettled [] 1).updBoot fun b => { b with vcore := 600 } }
      (fun t => !t.dev.on .glVcoreSettled) = true := by decide +kernel

theorem test_perst : running.dev.pins.por = false ∧
    gives .perstNAssert running (fun t => t.dev.pins.perstLow && t.dev.time == 77 && t.mem == [] && t.dev.rd .thDie [7] == 33 &&
      !t.dev.on .sqEn [255]) = true := by decide +kernel

theorem test_perst_release : (st []).dev.pins.perstLow = true ∧ (st []).dev.pins.extest = false ∧
    gives (.perstNRelease [] []) (st []) (fun t => !t.dev.pins.perstLow && t.dev.rd .glBoot == bootRecovery) = true ∧
    gives (.perstNRelease [1] [2]) (poweringUp true []) (fun t => t.dev.boot.headers == [(0, { bytes := [1] }), (1, { bytes := [2] })]) = true := by
  decide +kernel

theorem test_global_reset : gives (.globalReset [] []) running (fun t => t.dev.rd .glBoot == bootRecovery && t.dev.time == 77 &&
      t.dev.rd .pkLaserMask [31] == 0 && t.mem == []) = true ∧
    gives (.globalReset [] []) (poweringUp true []) (· == poweringUp true []) = true := by decide +kernel

theorem test_flr : gives .functionLevelReset (wrapRing []) (fun t => !t.dev.on .sqEn [255] && t.dev.sq == [] && t.dev.rd .sqConsumed [255] == 0) =
    true := by decide +kernel

theorem test_extest : gives .extestLoad running (fun t => t.dev.pins.extest && !t.dev.on .sqEn [255] && t.mem == []) = true ∧
    gives (.testLogicReset [] []) { running with dev := running.dev.updPins fun p => { p with extest := true } }
      (fun t => !t.dev.pins.extest && t.dev.rd .glBoot == bootRecovery) = true := by decide +kernel

theorem test_boot_recovery : headerCheck running.dev.custkey [] = 1 ∧
    (running.dev.bootStart .perst [] []).rd .glBoot = bootRecovery ∧ (running.dev.bootStart .perst [] []).boot.hashing = none := by decide +kernel

/-- Slot 1 is being hashed, with the signed header of before; slot 0 is in a state. -/
def hashing (other : Nat) (f : Bytes → Bytes := id) : State :=
  st ([(.glBoot, [], bootLoading), (.scSlotStatus, [0], other), (.scSlotStatus, [1], 5)] ++ custkey) fun d => { d with
    boot := { d.boot with hashing := some 1, headers := [(0, { bytes := signed }), (1, { bytes := f signed })] } }

theorem test_slot_hashed : (hashing 1).dev.boot.hashing = some 1 ∧
    gives (.bootSlotHashed (zeros 4096) [⟨31, 1, 7, []⟩, ⟨30, 2, 9, []⟩]) (hashing 1) (fun t => t.dev.rd .glBoot == bootRunning && t.dev.rd .scSlot == 1 &&
      t.dev.rd .scSequence == 42 && t.dev.on .pkPresent [31] && !t.dev.on .pkPresent [30] && !t.dev.on .pkPresent [0] && t.dev.on .ccEn) = true := by
  decide +kernel

theorem test_slot_fails : gives (.bootSlotHashed [1] []) (hashing 1 fun _ => []) (fun t => t.dev.rd .glBoot == bootRecovery &&
      t.dev.rd .scSlotStatus [1] == 4) = true ∧
    (hashing 5 fun _ => []).dev.rd .scSlotStatus [0] = 5 ∧
    gives (.bootSlotHashed [1] []) (hashing 5 fun _ => []) (fun t => t.dev.boot.hashing == some 0 && seen t 0x7C0 == (1, 0x1702, [1, 3])) = true := by
  decide +kernel

theorem test_time_read : gives .timeLoRead (st [] fun d => { d with time := 2 ^ 64 - 2 })
    (fun t => t.dev.out == [.barRead (le 4 (2 ^ 32 - 2)) false] && t.dev.rd .glTimeHi == 2 ^ 32 - 1) = true ∧
    gives .timeLoRead (poweringUp true []) (fun t => t.dev.out == [.barRead [0, 0, 0, 0] false]) = true := by decide +kernel

theorem test_vcore : gives (.vcoreLevelWrite 255) (st []) (fun t => t.dev.rd .glVcoreLevel == 255 && !t.dev.on .glVcoreSettled) = true ∧
    (st [(.glVcoreSettled, [], 0), (.glVcoreLevel, [], 255)]).dev.vcoreNeeded ≤ 600 + 5 * min 255 50 ∧
    gives .vcoreSettled (st [(.glVcoreSettled, [], 0), (.glVcoreLevel, [], 255)]) (fun t => t.dev.boot.vcore == 850) = true ∧
    faults .vcoreSettled (st [(.glVcoreSettled, [], 0), (.glVcoreLevel, [], 0), (.axState, [0, 0], axClosed)]) .vcoreTooLow = true := by decide +kernel

theorem test_snap : gives .snapTake { st [] with ev := [(2047, { occurred := 4, posted := 1, pending := 3 })] }
      (fun t => !t.dev.on .glSnapDone && (tget {} t.ev 2047).snapOccurred == 4) = true ∧
    gives .snapDone (st [] fun d => { d with boot := { d.boot with snapBusy := true } }) (fun t => t.dev.on .glSnapDone) = true := by decide +kernel

theorem test_pace : gives (.paceUpdate [65536 + 9, 8, 65535, 10, 11, 12]) (st []) (fun t => t.dev.rd .glPaceDie [0] == 9 && t.dev.rd .glPace == 8 &&
    t.dev.rd .glPaceDie [5] == 12) = true := by decide +kernel

/-! ### Registers -/

theorem test_register_write : (st []).dev.ready = true ∧ inMsix 0x680108 = false ∧
    (st []).dev.writeFault (fieldsAt 0x680108) 0x02580064 = none ∧ (∀ f ∈ fieldsAt 0x680108, f.plain = true) ∧
    (fieldsAt 0x680108).Nodup ∧
    gives (.registerWrite 0x680108 0x02580064) (st [(.thHyst, [], 7)]) (fun t => t.dev.rd .thHyst == 100 && t.dev.rd .thReopen == 600) = true ∧
    gives (.registerWrite 0x6FFFFC 0xFFFFFFFF) (st []) (· == st []) = true := by decide +kernel

theorem test_register_range : faults (.registerWrite 0x680108 0x02590064) (st []) .valueRange = true ∧
    faults (.registerWrite 0x680106 0) (st []) .bar0Access = true ∧ faults (.registerWrite (2 ^ 23) 0) (st []) .bar0Access = true := by
  decide +kernel

theorem test_register_read_only : (∀ f ∈ fieldsAt 12, f.row.spec.access = .ro ∧ f.row ≠ .calSel) ∧
    gives (.registerWrite 12 0xFFFFFFFF) (st []) (· == st []) = true ∧
    gives (.registerWrite 0x680108 0x02580064) (poweringUp true []) (· == poweringUp true []) = true := by decide +kernel

theorem test_msix_write : inMsix 0x180000 = true ∧ inMsix 0x187FFC = true ∧ inMsix 0x188000 = false ∧ inMsix 0x17FFFC = false ∧
    gives (.registerWrite 0x187FFC 9) (st []) (fun t => tget 0 t.dev.msix 0x187FFC == 9) = true ∧
    -- vector 2,047 kept a message pending
    2047 ∈ (st [] fun d => d.interrupt 2047).dev.msixPending ∧ (0x187FFC - 0x180000) / 16 = 2047 ∧
    gives (.registerWrite 0x187FFC 0) (st [] fun d => d.interrupt 2047) (fun t => t.dev.out == [.msix 2047 0 0] && t.dev.msixPending == []) =
      true := by decide +kernel

theorem test_register_read : Row.slGoto.spec.access = .wo ∧ Row.rcQClear.spec.access = .w1p ∧
    (st [(.slGoto, [31], 5)]).dev.readField [] ⟨.slGoto, [31]⟩ = 0 ∧
    isRc .rcBoost = true ∧ Row.rcBoost.spec.access = .rw ∧ Row.rcBoost.spec.own = false ∧
    ((st []).dev.writeField ⟨.rcBoost, [31]⟩ 24).readField [] ⟨.rcBoost, [31]⟩ = 24 ∧
    (fieldsAt 0x680108).Pairwise (fun f g => f.lsb + f.row.spec.width ≤ g.lsb ∨ g.lsb + g.row.spec.width ≤ f.lsb) ∧
    (∀ f ∈ fieldsAt 0x680108, 15 < f.lsb ∨ f.lsb + f.row.spec.width ≤ 15) ∧
    (st [(.thHyst, [], 100), (.thReopen, [], 600)]).dev.readWord [] 0x680108 = 0x02580064 := by decide +kernel

/-- PICKUP[31].FAIL at bit 1 of its word. -/
theorem test_write_one_clears : Row.pkFail.spec.own = false ∧ Row.pkFail.spec.access = .w1c ∧
    gives (.registerWrite 0x47C100 2) (pickup [(.pkFail, [31], 1)]) (fun t => !t.dev.on .pkFail [31] && t.dev.on .pkPresent [31]) = true ∧
    gives (.registerWrite 0x47C100 1) (pickup [(.pkFail, [31], 1)]) (fun t => t.dev.on .pkFail [31]) = true := by decide +kernel

theorem test_pair : pairHi .svVolIdLo = some .svVolIdHi ∧ pairLo .svVolIdHi = some .svVolIdLo ∧ pairHi .svVolIdHi = none ∧
    Row.svVolIdLo.spec.access = .rw ∧ Row.svVolIdHi.spec.access = .rw ∧ Row.svVolIdLo.spec.own = false ∧ Row.svVolIdHi.spec.own = false ∧
    gives (.registerWrite 0x780004 5) (st []) (fun t => t.dev.rd .svVolIdLo == 0) = true ∧
    gives (.registerWrite 0x780008 6) (st [] fun d => d.writeField ⟨.svVolIdLo, []⟩ 5)
      (fun t => t.dev.rd .svVolIdLo == 5 && t.dev.rd .svVolIdHi == 6) = true := by decide +kernel

theorem test_fault_listed : Fault.valueRange ∈ (Instr.registerWrite 0x680108 0x02590064).misuses ∧
    Fault.senderMisuse ∈ (Instr.springData 7 0 4 0 0 []).misuses ∧ (Instr.timeLoRead).misuses = [] := by decide +kernel

/-! ### Recording -/

/-- Every condition of a row holds on pickup 31, with focus on layer L and a valid set for zone 7 and zone 0. -/
def fit (L : Nat) (fs : List (Row × List Nat × Nat) := []) (k : Pk → Pk := id) (f : Dev → Dev := id) : State :=
  pickup (fs ++ [(.pkMtoLock, [31], 1), (.spState, [15], spRun), (.spAtspeed, [15], 1), (.spSpeed, [15], 12000), (.pkLaserMask, [31], 0xFFFF),
      (.axState, [7, 12], axClosed), (.axState, [7, 13], axClosed), (.slState, [31], slFollow), (.pkTemp, [31], 400),
      (.thAmb, [15], 400), (.wgOpen, [31], 1), (.wsValid, [31, L, 0], 1), (.wsValid, [31, L, 7], 1)] ++
      (List.range 14).map fun i => (.rcDeskewStatus, [31, i + 1], 2))
    (fun x => k { x with loaded := true, formatted := true, layer := L }) f

/-- A raw block, number 5, waits on lane 3, for row r of layer L when one is named. -/
def queuedBlk (fixed : Option Nat) : Dev → Dev := fun d =>
  { d.updPk 31 (fun k => { k with queues := [[], [], [5], [], [], [], []] }) with
    blks := [{ id := 5, kind := .raw, data := [], surface := 31, lane := 3, fixed := fixed }] }

theorem test_allocate_user : (fit 0 [] id (queuedBlk none)).dev.writeLayer 31 = some 0 ∧
    (fit 0 [] id (queuedBlk none)).dev.mayAllocate 31 0 = true ∧ (fit 0 [] id (queuedBlk none)).dev.opcDrift 31 0 = false ∧
    (fit 0 [] id (queuedBlk none)).dev.needsValues 31 0 0 = false ∧ ((fit 0 [] id (queuedBlk none)).dev.pkS 31).rows = [] ∧
    (fit 0 [] id (queuedBlk none)).dev.rd .rowNext [31, 0] = 0 ∧ (fit 0 [] id (queuedBlk none)).dev.setValid 31 0 0 = true ∧
    (fit 0 [] id (queuedBlk none)).dev.heads 31 (fun b => !b.waitsForRow) = [(3, 5)] ∧
    gives (.rowAllocate 31 0 0 9) (fit 0 [] id (queuedBlk none)) (fun t => t.dev.rd .rowNext [31, 0] == 1 &&
      t.dev.rd .rowAlloc [31] == 1 && t.dev.rd .rowInprog [31] == 1 &&
      (t.dev.pkS 31).rows.map (fun r => (r.layer, r.row, r.lanes, r.time)) == [(0, 0, [(3, 5)], 9)]) = true := by decide +kernel

/-- A new power for zone 0 passes one row over, behind a row in progress. -/
def rowsFollow : State := fit 0 [(.wsPwr, [31, 0, 0, 6], 9000), (.rowNext, [31, 0], 1)]
  (fun k => { k with rows := [{ layer := 0, row := 0, kind := .user, lanes := [], time := 0, epoch := 0, devnum := 0, zone := 0, started := true }] })
  (queuedBlk none)

theorem test_allocate_next : rowsFollow.dev.writeLayer 31 = some 0 ∧ rowsFollow.dev.mayAllocate 31 0 = true ∧
    rowsFollow.dev.needsValues 31 0 0 = true ∧ rowsFollow.dev.passedOver 31 1 9 = 1 ∧ rowsFollow.dev.setValid 31 0 2 = true ∧
    gives (.rowAllocate 31 0 0 9) rowsFollow (fun t => t.dev.rd .rowNext [31, 0] == 3 &&
      ((t.dev.pkS 31).rows.drop 1).map (fun r => (r.row, r.time, r.newValues)) == [(2, 9, true)]) = true := by decide +kernel

/-- The last user row of the last layer may be allocated. -/
def lastRow : State :=
  fit 3 ((List.range 4).map fun L => (.rowNext, [31, L], if L < 3 then 98400 else 98399)) id (queuedBlk none)

theorem test_allocate_last : lastRow.dev.writeLayer 31 = some 3 ∧ lastRow.dev.mayAllocate 31 3 = true ∧
    lastRow.dev.rd .rowNext [31, 3] = 98399 ∧ lastRow.dev.setValid 31 3 98399 = true := by decide +kernel

theorem test_allocate_fixed : (fit 3 [] id (queuedBlk (some (3 * 2 ^ 17 + 2)))).dev.mayAllocate 31 3 = true ∧
    (((fit 3 [] id (queuedBlk (some (3 * 2 ^ 17 + 2)))).dev.heads 31 Blk.waitsForRow).filterMap fun e =>
      ((fit 3 [] id (queuedBlk (some (3 * 2 ^ 17 + 2)))).dev.blk? e.2).bind Blk.fixed) = [3 * 2 ^ 17 + 2] ∧
    (fit 3 [] id (queuedBlk (some (3 * 2 ^ 17 + 2)))).dev.setValid 31 3 2 = true ∧
    ((fit 3 [] id (queuedBlk (some (3 * 2 ^ 17 + 2)))).dev.pkS 31).settling = none ∧
    ((fit 3 [] id (queuedBlk (some (3 * 2 ^ 17 + 2)))).dev.pkS 31).occupied = [] ∧
    gives (.rowAllocate 31 3 1 9) (fit 3 [(.wsPwr, [31, 3, 0, 6], 9000)] id (queuedBlk (some (3 * 2 ^ 17 + 2)))) (fun t =>
      (t.dev.pkS 31).rows.isEmpty && (t.dev.pkS 31).settling == some (0, false)) = true ∧
    gives (.rowAllocate 31 3 1 9) (fit 3 [] id (queuedBlk (some (3 * 2 ^ 17 + 2)))) (fun t =>
      (t.dev.pkS 31).rows.map (fun r => (r.layer, r.row, r.kind == .fixed)) == [(3, 2, true)] &&
      t.dev.rd .rowNext [31, 3] == 3) = true := by decide +kernel

/-- Seven recovered copies wait in the queue of layer 1. -/
def copies : Dev → Dev := fun d => { d.updPk 31 (fun k => { k with realloc := [(1, { queue := [1, 2, 3, 4, 5, 6, 7] })] }) with
  blks := (List.range 7).map fun i => { id := i + 1, kind := .take, data := [], surface := 31, lane := 1, copyOf := some (5, 1) } }

theorem test_allocate_spare : (tget ({} : Realloc) ((fit 1 [(.rowSpareNext, [31, 1], 2)] id copies).dev.pkS 31).realloc 1).queue.length = 7 ∧
    (∀ i, i < 7 → (fit 1 [(.rowSpareNext, [31, 1], 2)] id copies).dev.on .wrLaneDis [31, i] = false) ∧
    (fit 1 [(.rowSpareNext, [31, 1], 2)] id copies).dev.spareLayer 31 1 = some 1 ∧ (fit 1 [(.rowSpareNext, [31, 1], 2)] id copies).dev.mayAllocate 31 1 = true ∧
    (fit 1 [(.rowSpareNext, [31, 1], 2)] id copies).dev.opcDrift 31 1 = false ∧
    (fit 1 [(.rowSpareNext, [31, 1], 2)] id copies).dev.setValid 31 1 ((fit 1 [(.rowSpareNext, [31, 1], 2)] id copies).dev.rd .rowSpareNext [31, 1]) = true ∧
    gives (.rowAllocate 31 1 2 9) (fit 1 [(.rowSpareNext, [31, 1], 2)] id copies) (fun t => t.dev.rd .rowSpareNext [31, 1] == 3 &&
      (t.dev.pkS 31).rows.map (fun r => (r.layer, r.row, r.kind == .spare, r.lanes)) ==
        [(1, 2, true, [(1, 1), (2, 2), (3, 3), (4, 4), (5, 5), (6, 6), (7, 7)])]) = true := by decide +kernel

/-- Catalogue row 2559 is open on the copy of surface 31. -/
def cataloguing : Dev → Dev := fun d => { d with
  cat := { d.cat with copies := [31], writing := some { index := 2559, lanes := [[1]], waits := [(31, 1)] } } }

theorem test_allocate_catalogue : catPosition 2559 = (3, 100639) ∧ (fit 3 [] id cataloguing).dev.mayAllocate 31 3 = true ∧
    (fit 3 [] id cataloguing).dev.opcDrift 31 3 = false ∧ (fit 3 [] id cataloguing).dev.setValid 31 3 100639 = true ∧
    (fit 3 [] id cataloguing).dev.cat.copies.contains 31 = true ∧ (fit 3 [] id cataloguing).dev.blks = [] ∧
    ((fit 3 [] id cataloguing).dev.cat.writing.map CatRow.waits) = some [(31, 1)] := by decide +kernel

theorem test_row_start : (fit 3 [] fun k => { k with rows := [someRow .user false] }).dev.startCause 31 = none ∧
    gives (.rowStart 31) (fit 3 [] fun k => { k with rows := [someRow .user false] })
      (fun t => (t.dev.pkS 31).rows == [someRow .user true]) = true ∧
    (writing [] .user false).dev.startCause 31 = some abRail ∧
    (fit 3 [(.spAtspeed, [15], 0)] fun k => { k with rows := [someRow .user false] }).dev.rowCause 31 = none ∧
    gives (.rowStart 31) (writing [] .user false) (fun t => (t.dev.pkS 31).rows.isEmpty && t.dev.rd .pkAbandon [31, abRail - 1] == 1) = true ∧
    gives (.fetchDeadline 31) (writing [] .user false) (fun t => t.dev.rd .pkAbandon [31, abFetch - 1] == 1) = true := by decide +kernel

theorem test_row_written : gives (.rowWritten 31) writing (fun t => (t.dev.pkS 31).rows.isEmpty && t.dev.rd .rowWritten [31] == 1 &&
    t.dev.rd .rowInprog [31] == 0 && (t.dev.pkS 31).verify == [{ lane := 1, block := 5, pba := pbaOf 31 3 1 100639 }]) = true := by decide +kernel

/-! ### Checks and power calibrations -/

/-- The verify report of block 5 on lane 7 is due. -/
def checked (fs : List (Row × List Nat × Nat) := []) : State :=
  fit 3 fs (fun k => { k with verify := [{ lane := 7, block := 5, pba := pbaOf 31 3 7 98399, lost := true }] }) fun d =>
    { d with blks := [{ id := 5, kind := .raw, data := [], surface := 31, lane := 7, pba := some (pbaOf 31 3 7 98399) }] }

theorem test_mordant_fails : (((checked).dev.pkS 31).verify.find? fun e => e.lane == 7) =
      some { lane := 7, block := 5, pba := pbaOf 31 3 7 98399, lost := true } ∧
    gives (.mordantCheck 31 6 []) checked (fun t => t.dev.rd .mordChecked [31, 6] == 1 &&
      t.dev.rd .mordFailed [31, 6] == 1 && t.dev.rd .mordLastCause [31, 6] == 1 && (t.dev.pkS 31).verify.isEmpty &&
      (t.dev.pkS 31).deadAll == [pbaOf 31 3 7 98399]) = true := by decide +kernel

/-- R264: the causes. -/
theorem test_mordant_causes : (st [(.mdMaxfly, [], 8), (.mdMaxcw, [], 16), (.mdMaxtot, [], 608)]).dev.mordantCause 0 16 608 8 = 0 ∧
    (st [(.mdMaxfly, [], 8), (.mdMaxcw, [], 16), (.mdMaxtot, [], 608)]).dev.mordantCause 0 17 609 9 = 3 ∧
    (st [(.mdMaxfly, [], 8), (.mdMaxcw, [], 16), (.mdMaxtot, [], 608)]).dev.mordantCause 0 17 609 8 = 7 ∧
    (st [(.mdMaxfly, [], 8), (.mdMaxcw, [], 16), (.mdMaxtot, [], 608)]).dev.mordantCause 0 16 609 8 = 8 := by decide +kernel

/-- An OPC of layer 2 is pending, or running with the given state. -/
def opc (o : Opc) (fs : List (Row × List Nat × Nat) := []) : State :=
  fit 2 (fs ++ [(.opcPcenter, [31, 2], 10000), (.opcBetaTgt, [31], 0), (.opcBandOut, [31, 2], 18229), (.opcBandIn, [31, 2], 65432)]) fun k => { k with opc := [(2, o)] }

theorem test_opc_start : ((opc { pending := true }).dev.opcS 31 2).pending = true ∧ (opc { pending := true }).dev.surfaceOk 31 = true ∧
    (opc { pending := true }).dev.pickupTaken 31 = false ∧ ((opc { pending := true }).dev.testBand 31 2 false).isSome = true ∧
    (∀ e ∈ ((opc { pending := true }).dev.pkS 31).opc, e.2.running = false) ∧
    ((opc { pending := true }).dev.pkS 31).busOk = true ∧ (opc { pending := true }).dev.on .pkFail [31] = false ∧
    (opc { pending := true }).dev.testBand 31 2 false = some 65432 ∧
    (opc { pending := true }).dev.spSt (spindleOf 31) = spRun ∧
    gives (.opcStart 31 2) (opc { pending := true }) (fun t => (t.dev.opcS 31 2).running && (t.dev.opcS 31 2).begun && t.dev.out == [] &&
      t.dev.rd .opcStatus [31, 2] == 1) = true ∧
    gives (.opcReq 31) (fit 2) (fun t => (t.dev.opcS 31 3).pending && !t.dev.on .wsValid [31, 2, 7]) = true := by decide +kernel

theorem test_opc_band : (opc { running := true, outer := true }).dev.testBand 31 2 true = some 18229 ∧
    gives (.opcBandDone 31 2 true [] []) (opc { running := true, outer := true })
      (fun t => t.dev.rd .opcBandOut [31, 2] == 18230 && (t.dev.opcS 31 2).running) = true ∧
    (opc { running := true, outer := true } [(.opcBandOut, [31, 2], 18488)]).dev.testBand 31 2 true = some 18488 ∧
    (opc { running := true, outer := true } [(.opcBandOut, [31, 2], 18487)]).dev.testBand 31 2 true = some 18487 ∧
    gives (.opcBandDone 31 2 true [] []) (opc { running := true, outer := true } [(.opcBandOut, [31, 2], 18487)])
      (fun t => t.dev.rd .opcBandOut [31, 2] == 18488 && (t.dev.opcS 31 2).running) = true := by decide +kernel

/-- Samples of a sector with β = (80 + b − 80) ÷ (160 + b): the target 0 lies at the sector with b = 0. -/
def sectors : List (List (List Int)) := List.replicate 7 ((List.range 11).map fun i => [-80, 80 + (i : Int) - 5])

/-- R276: nothing is written while the gate is closed from before the band on. -/
theorem test_opc_waits : (opc { running := true } [(.wgOpen, [31], 0)]).dev.mayTest 31 = false ∧
    gives (.opcBandDone 31 2 false sectors []) (opc { running := true } [(.wgOpen, [31], 0)]) (fun t => t.dev.out == [] &&
      t.dev.rd .opcBandIn [31, 2] == 65432) = true := by decide +kernel

theorem test_opc_result : (opc { running := true }).dev.testBand 31 2 true = some 18229 ∧ (opc { running := true }).dev.mayTest 31 = true ∧
    (List.range 11).map (fun i => betaOf 0 [-80, 80 + (i : Int) - 5]) = [-32258, -25641, -19108, -12658, -6289, 0, 6211, 12346, 18405, 24390, 30303] ∧
    ((List.range 7).map fun i => optimumPower 10000 0 0 (((sectors.getD i []).take 11).map (betaOf 0))) = (List.replicate 7 10000).map some ∧
    gives (.opcBandDone 31 2 false sectors []) (opc { running := true }) (fun t => (t.dev.opcS 31 2).outer && t.dev.out.head? ==
        some (.testBand 31 2 65432 ([7000, 7600, 8200, 8800, 9400, 10000, 10600, 11200, 11800, 12400, 13000].map fun x => (List.replicate 7 x, 0))) &&
      t.dev.rd .opcBandIn [31, 2] == 65433 && t.dev.rd .pkWritePwr [31, 6] == 10000 &&
      ((t.dev.opcS 31 2).inner.map fun x => (x.1, x.2.2)) == some (List.replicate 7 10000, 65432)) = true := by decide +kernel

/-- Both ends have a result. -/
def bothEnds : State := opc { running := true, outer := true, inner := some (List.replicate 7 8000, 1, 65432), outerResult := some (List.replicate 7 9000, 1, 18229) }

theorem test_opc_end : (bothEnds.dev.opcS 31 2).inner = some (List.replicate 7 8000, 1, 65432) ∧
    (bothEnds.dev.opcS 31 2).outerResult = some (List.replicate 7 9000, 1, 18229) ∧
    (bothEnds.dev.opcEnd 31 2).rd .opcStatus [31, 2] = 2 ∧ (bothEnds.dev.opcEnd 31 2).rd .wsValid [31, 2, 7] = 1 ∧
    ((bothEnds.dev.opcEnd 31 2).raised.map fun o => (o.src, o.payload)) =
      [(32 * 31 + 21, 2 :: ((List.range 7).flatMap (fun _ => le 2 8000) ++ (List.range 7).flatMap fun _ => le 2 9000))] := by decide +kernel

/-- R276 step 5: β rises by 100 a sector of 6 % and the target lies half way between the sixth and the seventh. -/
theorem test_opc_power : optimumPower 10000 50 0 [-500, -400, -300, -200, -100, 0, 100] = some 10300 ∧
    optimumPower 10000 50 0 [-500, -400] = none ∧ bestShift [[1, 2, 3, 3, 1]] = 0 := by decide +kernel

theorem test_realloc_wait : gives (.reallocWaitExpiry 31 1) (fit 1 [] id copies) (fun t =>
    (tget ({} : Realloc) (t.dev.pkS 31).realloc 1).due) = true := by decide +kernel

/-! ### The ladder -/

/-- Block lane 7 of row 98399 of layer 3 of surface 31, which a BLOCK_READ needs. -/
def theBlock : Nat := pbaOf 31 3 7 98399

/-- A command reads that block. -/
def reading (fs : List (Row × List Nat × Nat) := []) (f : Dev → Dev := id) : State :=
  fit 3 fs id fun d => f { d with cmds := [{ origin := .ring 0 1, op := 0x11, phase := .reading, needs := [(theBlock, 0)] }] }

theorem test_read_waits : pbaSurface theBlock = 31 ∧ pbaLane theBlock = 7 ∧ reading.dev.readers theBlock ≠ [] ∧
    ((reading [(.rvRailRetry, [], 1)]).dev.railFailed theBlock).railWait = [{ pba := theBlock }] ∧
    ((reading [(.rvRailRetry, [], 2)] fun d => { d with railWait := [{ pba := theBlock }] }).dev.railFailed theBlock).railWait =
      [{ pba := theBlock, repeats := 1 }] ∧
    ((reading [(.rvRailRetry, [], 2)] fun d => { d with railWait := [{ pba := theBlock, repeats := 1 }] }).dev.railFailed theBlock).railWait = [] := by decide +kernel

/-- The row has been allocated; a read without any sync fails its decode and enters the ladder; its spot has read the layer. -/
def noSync : State := reading (f := fun d => d.updSpot 31 7 fun q => { q with lastLayer := some 3 }) [(.rcFirTap, [31, 7, 7], 256), (.rvRailRetry, [], 0), (.rowNext, [31, 3], 98400), (.rvActive, [], 0), (.rvMaxActive, [], 1), (.rvMaxlevel, [], 1)]

theorem test_no_sync : noSync.dev.neededNow theBlock = true ∧ noSync.dev.readBegun theBlock = none ∧
    (noSync.dev.decodePass 31 theBlock true { levels := [], marks := [], rel := [] }).outcome = 2 ∧
    noSync.dev.neverAllocated theBlock = false ∧ noSync.dev.mayRead 31 7 = true ∧ (noSync.dev.pkS 31).rcPending = [] := by decide +kernel

theorem test_read_fails : gives (.blockDecoded theBlock {}) noSync (fun t => t.dev.rd .rcLaneFails [31, 6] == 1 &&
    t.dev.rd .rcFirTap [31, 7, 7] == 256 && t.dev.rd .rcFirSaved [31, 7, 3, 7] == 256 &&
    t.dev.ladder.map (fun e => (e.pba, e.outcome, e.rereading, e.start)) == [(theBlock, 2, true, ⟨List.replicate 7 0 ++ 256 :: List.replicate 7 0, [0, 0, 0], [0, 0, 0]⟩)]) =
      true := by decide +kernel

/-- R212, R213, R216: with c[0] = 1 a filter passes its sample, and one neighbour's tap of 1/512 takes off the code it meets;
twelve bits on, the taps that met a sample of a positive error grow, c[0] stays. -/
def tapsAfter (n : Nat) (x : Int) : TapState :=
  (tapRun (fun _ => false) { scale := 16, adapt := true, mu := 6, iti := true, itiMu := 6, kt := 0 }
    { taps := { fir := [0, 256, 0], inn := [0, 1, 0], out := [0, 0, 0] : Taps }.fine }
    (tapInputs 1 (List.replicate n (false, true, 0)) (List.replicate (n + 2) x) (List.replicate (n + 2) 32) [])).2

theorem test_taps : ((tapsAfter 1 90).past.map fun e => (e.y, e.z)) = [(90 * 512, 90 * 512 - 32)] ∧
    (tapsAfter 12 90).taps.whole = { fir := [0, 256, 0], inn := [0, 1, 0], out := [0, 0, 0] } ∧
    (tapsAfter 13 90).taps.whole = { fir := [8, 256, 8], inn := [3, 4, 3], out := [0, 0, 0] } := by
  decide +kernel

/-- Table 02-5: the first period of an address mark starts its mark two bits late, the third two bits early; a period outside
a mark has 6 bits of mark. R206, R204: a code beyond the end; a swing of half the target raises the gain by 1/32. -/
theorem test_rail_and_gain : ((List.range 8).map fun i => railMark 0 0 250901 i) = [false, false, true, true, true, true, false, false] ∧
    ((List.range 8).map fun i => railMark 0 0 250901 (22 + i)) = [true, true, true, true, true, true, true, true] ∧
    ((List.range 8).map fun i => railMark 0 0 250901 (600 + i)) = [true, true, true, true, true, true, false, false] ∧
    adcCode 200 = 127 ∧ clipCount [200, -128, -129] = 2 ∧ (gainStep 192 4 (2 ^ 32) 96).1 = 2 ^ 32 + 2 ^ 27 ∧
    (gainStep 192 4 gainHigh 0).2 = some 1 := by decide +kernel

/-- The block is in the ladder. -/
def climbing (e : Ladder) (fs : List (Row × List Nat × Nat) := []) : State := reading fs fun d => { d with
  ladder := [e], basin := { d.basin with owned := [(9, .ladder theBlock, false)] } }

/-- Its record has no unit yet, and one is free. -/
def unitless : State := reading [(.bsUnitsInstalled, [], 64), (.bsUnitsFree, [], 1)] fun d => { d with
  ladder := [{ pba := theBlock, outcome := 5, rereading := true }], basin := { d.basin with initNext := 1 } }

theorem test_reread_unit : unitless.dev.unitsWait (.ladder theBlock) = false ∧ unitless.dev.unitsOwned (.ladder theBlock) = 0 ∧
    unitsFor recordBytes = 1 ∧ unitless.dev.couldTake 1 = 1 ∧
    gives (.ladderRereadEnd theBlock []) unitless (fun t => t.dev.rd .recovRevs [31] == 1 && t.dev.unitsOwned (.ladder theBlock) == 1) = true := by
  decide +kernel

theorem test_reread : gives (.ladderRereadEnd theBlock []) (climbing { pba := theBlock, outcome := 5, rereading := true })
    (fun t => t.dev.rd .recovRevs [31] == 1 && t.dev.ladder.map (fun e => (e.level, e.rereading, e.records.length)) == [(1, false, 1)]) = true := by
  decide +kernel

/-- A re-read at level 1 that found no sync. -/
def lost1 : Ladder := { pba := theBlock, outcome := 5, level := 1 }

theorem test_level_fails : ((climbing lost1).dev.ladderDecode lost1).outcome = 2 ∧
    (climbing lost1 [(.rvMaxlevel, [], 2)]).dev.nextLevel lost1 = some (2, false) ∧
    (climbing lost1 [(.rvMaxlevel, [], 1)]).dev.nextLevel lost1 = none := by decide +kernel

theorem test_level_next : gives (.ladderLevelDecoded theBlock) (climbing lost1 [(.rvMaxlevel, [], 2)])
      (fun t => t.dev.ladder.map (fun e => (e.level, e.outcome, e.rereading)) == [(2, 2, false)]) = true ∧
    gives (.ladderLevelDecoded theBlock) (climbing lost1 [(.rvMaxlevel, [], 1)])
      (fun t => t.dev.ladder.isEmpty && t.dev.rd .recovFail [31] == 1) = true := by decide +kernel

/-- The ladder of a catalogue block of which the copy on surface 9 has been read, and of one of which no copy is left. -/
def copied (v : Tab (Option Bytes)) : State := st [(.rvActive, [], 1)] fun d => { d with
  ladder := [{ pba := pbaOf 0 0 1 100000, outcome := 5, level := 6, rereading := false, gather := v }],
  cmds := [{ origin := .ring 0 1, op := 0x11, phase := .reading, needs := [(pbaOf 0 0 1 100000, 0)] }] }

theorem test_level_six : (copied [(1, some (List.replicate 128 1))]).dev.levelSix (pbaOf 0 0 1 100000) = true ∧
    (copied [(1, some (List.replicate 128 1))]).dev.stripeOf (pbaOf 0 0 1 100000) = none ∧
    ((copied [(1, some (List.replicate 128 1))]).dev.ladder.flatMap fun e => (copied [(1, some (List.replicate 128 1))]).dev.levelSixWants e) = [] ∧
    ((copied []).dev.ladder.flatMap fun e => (copied []).dev.levelSixWants e) = [] ∧
    gives (.ladderLevelDecoded (pbaOf 0 0 1 100000)) (copied [(1, some (List.replicate 128 1))])
      (fun t => t.dev.ladder.isEmpty && t.dev.rd .recovOk [0, 5] == 1) = true ∧
    gives (.ladderLevelDecoded (pbaOf 0 0 1 100000)) (copied []) (fun t => t.dev.ladder.isEmpty && t.dev.rd .recovFail [0] == 1) = true := by
  decide +kernel

theorem test_rail_wait : gives (.railWaitExpiry theBlock) (reading [(.pkMtoLock, [31], 0)] fun d => { d with railWait := [{ pba := theBlock }] })
    (fun t => t.dev.railWait.isEmpty) = true := by decide +kernel

theorem test_place_free : gives .ladderPlaceFree (st [] fun d => { d with ladder := [{ pba := theBlock, outcome := 2, waiting := true }] })
      (fun t => t.dev.ladder.isEmpty) = true ∧
    gives .ladderPlaceFree (climbing { pba := theBlock, outcome := 5, waiting := true } [(.rvMaxActive, [], 1)])
    (fun t => t.dev.ladder.map Ladder.waiting == [false]) = true := by decide +kernel

/-! ### Deskew, dropouts and the scout -/

/-- Spot 14 of pickup 31 is being verified (16) or acquired (64), with a present deskew of v and the marks found. -/
def deskewing (check v : Nat) (found : List Int) : State :=
  pickup [(.rcDeskew, [31, 14], v)] id fun d => d.updSpot 31 14 fun q => { q with check := check, found := found }

/-- Twelve marks within 8 bits give the mean of their offsets in 1/64 bit; eleven are too few, whatever lies farther off. -/
theorem test_deskew_verified : gives (.deskewCheckEnd 31 14) (deskewing 16 0 (List.replicate 11 8 ++ [-4, 9, 30]))
      (fun t => t.dev.rdS .rcDeskew [31, 14] == 448 && t.dev.rd .rcDeskewStatus [31, 14] == 2) = true ∧
    gives (.deskewCheckEnd 31 14) (deskewing 16 0 (List.replicate 11 0 ++ [-9])) (fun t => t.dev.rd .rcDeskewStatus [31, 14] == 1 &&
      (t.dev.spotS 31 14).check == 64) = true ∧
    gives (.deskewCheckEnd 31 14) (deskewing 16 2047 (List.replicate 12 1)) (fun t => t.dev.rd .rcDeskewStatus [31, 14] == 1) = true := by
  decide +kernel

theorem test_deskew_acquired : gives (.deskewCheckEnd 31 14) (deskewing 64 5 (List.replicate 48 (-32))) (fun t =>
      t.dev.rdS .rcDeskew [31, 14] == -2048 && t.dev.rd .rcDeskewStatus [31, 14] == 2) = true ∧
    gives (.deskewCheckEnd 31 14) (deskewing 64 5 (List.replicate 47 0 ++ [33])) (fun t => t.dev.rd .rcDeskewStatus [31, 14] == 3 &&
      seen t (32 * 31 + 14) == (1, evDeskewFail, le 4 47)) = true := by decide +kernel

/-- The same offset of one bit inward has been reported in 16 wedges. -/
def shifting : State := pickup [(.rcDeskew, [31, 14], 64)] id fun d => d.updSpot 31 14 fun q => { q with offset := -1, offsetRun := 16 }

theorem test_deskew_shift : gives (.deskewShift 31 14) shifting (fun t => (t.dev.spotS 31 14).shift == -1 &&
      (t.dev.spotS 31 14).offsetRun == 0 && (t.dev.applyShift 31 14).rdS .rcDeskew [31, 14] == 0 &&
      seen t (32 * 31 + 14) == (1, evDeskewShift, leI 4 (-1) ++ leI 2 0)) = true := by decide +kernel

/-- Codes of ±20. -/
def swinging : List Int := (List.range 39).map fun i => if i % 2 = 0 then 20 else -20

/-- A code of 0 through 39 samples has an envelope of 0, below half of a reference of 40 at DROP.THR 128; one of ±20 has 40. -/
theorem test_dropout : (lastEnvelopes (List.replicate 39 0)).length = 8 ∧ (∀ e ∈ lastEnvelopes (List.replicate 39 0), lowEnvelope 128 (40, 1) e = true) ∧
    (lastEnvelopes swinging).length = 8 ∧ (∀ e ∈ lastEnvelopes swinging, lowEnvelope 128 (40, 1) e = false) ∧
    gives (.dropout 31 14 7 (List.replicate 39 0) [40]) (pickup []) (fun t => (t.dev.spotS 31 14).dropout == some 7) = true ∧
    gives (.dropoutEnd 31 14 9 swinging) (pickup [] id fun d => d.updSpot 31 14 fun q => { q with dropout := some 7, dropRef := (40, 1) })
      (fun t => (t.dev.spotS 31 14).dropout == none && (t.dev.spotS 31 14).drops == [(7, 9)]) = true := by decide +kernel

/-- n defects of band 9 that start at rail position 4. -/
def someDefects (n : Nat) : List Defect := List.replicate n { band := 9, start := 4, stop := 4, slope := 0 }

/-- The scout of pickup 31 has n defects of the band at hand, and SCOUT.LEN is 1. -/
def scouting (n : Nat) (open_ : Option Nat := none) : State :=
  pickup [(.pkLaserMask, [31], 2 ^ 15), (.rcScoutLen, [31], 1)] fun k =>
    { k with lastMark := some ⟨3, 9, 0⟩, scoutOpen := open_, scoutMap := someDefects n }

/-- A level of 100, and a sample after it. -/
def levelThen (x : Nat) : List Nat := List.replicate 4096 100 ++ [x]

theorem test_scout_level : (levelThen 0).length = 4096 + (scouting 0).dev.rd .rcScoutLen [31] ∧ scoutDiffers 32 (levelThen 0) = [true] ∧
    scoutDiffers 32 (levelThen 112) = [false] ∧ scoutDiffers 32 (levelThen 113) = [true] := by decide +kernel

theorem test_scout : (freshDefects 9 ((scouting 256).dev.pkS 31).scoutMap).length = 256 ∧
    (freshDefects 9 ((scouting 255).dev.pkS 31).scoutMap).length = 255 ∧ (scouting 255).dev.spotOn 31 15 = true ∧
    gives (.scoutDefect 31 5 (levelThen 0)) (scouting 255) (fun t => t.dev.rd .rcScoutCount [31] == 256 && (t.dev.pkS 31).scoutOpen == some 5) = true ∧
    gives (.scoutDefect 31 5 (levelThen 0)) (scouting 256) (fun t => seen t (32 * 31 + 22) == (1, evScoutMapFull, le 4 9)) = true ∧
    gives (.scoutDefectEnd 31 6 (levelThen 100)) (scouting 1 (some 4)) (fun t => (t.dev.pkS 31).scoutOpen == none &&
      (t.dev.pkS 31).scoutMap.map (fun x => x.stop) == [6]) = true := by decide +kernel

/-! ### Spring links -/

/-- Link 7 in the given state. -/
def link (ln : Nat) (fs : List (Row × List Nat × Nat) := []) (k : Link → Link := id) (f : Dev → Dev := id) : State :=
  st (fs ++ [(.lnState, [7], ln), (.lnEn, [7], 1), (.lnReturnTmo, [7], 100)]) fun d => f (d.updLk 7 fun x => k { x with present := true })

/-- A state of link 7. -/
def ln (t : State) : Nat := t.dev.lnState 7

theorem test_lock_gain : gives (.blockLockGain 7 3) (link lnTrain [] fun k => { k with locked := [0, 1, 2] })
      (fun t => ln t == lnAlign && !(t.dev.lk 7).fromRetrain) = true ∧
    gives (.blockLockGain 7 3) (link lnTrain [] fun k => { k with locked := [0, 1] }) (fun t => ln t == lnTrain) = true := by decide +kernel

theorem test_lock_loss : gives (.blockLockLoss 7 0) (link lnUp [] fun k => { k with locked := [0, 1, 2, 3] })
      (fun t => ln t == lnRetrain && t.dev.rd .lnRetrains [7] == 1 && (t.dev.lk 7).locked == [1, 2, 3] &&
        seen t 0x670 == (1, evLinkDown, [0])) = true ∧
    gives (.blockLockLoss 7 3) (link lnInit) (fun t => ln t == lnTrain) = true := by decide +kernel

/-- Alignment blocks of lane n: a good one, and one on an inverted pair. -/
def onPair (n : Nat) : AlignSeen := ⟨2, 0x5C4B + 2 ^ 16 * n, 5⟩
def inverted (n : Nat) : AlignSeen := ⟨1, 2 ^ 64 - 1 - (0x5C4B + 2 ^ 16 * n), 69⟩

theorem test_pairs : alignedPairs [onPair 0, onPair 1, onPair 2, inverted 3] = true ∧ laneInvOf [onPair 0, onPair 1, onPair 2, inverted 3] = 8 ∧
    alignedPairs [onPair 0, onPair 1, onPair 2, onPair 2] = false ∧
    alignedPairs [onPair 0, onPair 1, onPair 2, { inverted 3 with skew := 70 }] = false := by decide +kernel

theorem test_aligned : gives (.alignmentFound 7 [onPair 0, onPair 1, onPair 2, inverted 3]) (link lnAlign [] fun k => { k with rxSeq := 9, txSeq := 9 })
      (fun t => ln t == lnInit && t.dev.rd .lnLaneMap [7] == 0xE4 && t.dev.rd .lnLaneInv [7] == 8 && (t.dev.lk 7).replay == [⟨0, 7, [0, 0, 0, 0, 100, 0], true⟩] &&
        (t.dev.lk 7).txSeq == 1 && (t.dev.lk 7).rxSeq == 0) = true ∧
    gives (.alignmentFound 7 [onPair 0, onPair 1, onPair 2, onPair 3]) (link lnAlign [] fun k => { k with rxSeq := 65535, fromRetrain := true })
      (fun t => ln t == lnUp && t.dev.out == [.spring 7 ⟨0, 6, [1, 0, 255, 255, 0, 0, 0, 0], false⟩]) = true := by decide +kernel

/-- Two packets wait for their acknowledgement. -/
def twoSent (k : Link) : Link := { k with replay := [⟨65535, 4, [1], false⟩, ⟨0, 4, [2], false⟩] }

theorem test_lack : gives (.lack 7 65535) (link lnUp [] twoSent) (fun t => (t.dev.lk 7).replay == [⟨0, 4, [2], false⟩]) = true ∧
    gives (.lack 7 65535) (link lnInit [] fun k => { twoSent k with inits := 1 })
      (fun t => ln t == lnUp && seen t 0x670 == (1, evLinkUp, [1, 0, 0, 0])) = true := by decide +kernel

theorem test_resend : gives (.lnak 7 false 65535) (link lnUp [] twoSent) (fun t => t.dev.out.length == 2 && t.dev.rd .lnReplays [7] == 2) = true ∧
    gives (.replayTimeout 7) (link lnUp [] fun k => { twoSent k with resends := 7 })
      (fun t => t.dev.out.length == 2 && (t.dev.lk 7).resends == 8 && ln t == lnUp) = true ∧
    gives (.replayTimeout 7) (link lnUp [] fun k => { twoSent k with resends := 8 })
      (fun t => ln t == lnRetrain && (t.dev.lk 7).locked == [] && seen t 0x670 == (1, evLinkDown, [4])) = true := by decide +kernel

/-- Link 7 with a credit outstanding and a command in flight on tag 1023. -/
def carrying (ln : Nat) : State := link ln [(.lnCreditOutstanding, [7], 1), (.lnTagOpen, [7], 1)] twoSent fun d =>
  { d with cmds := [{ origin := .link 7 1023, op := 0x02, phase := .held }] }

theorem test_link_reset : (carrying lnRetrain).dev.linkTags 7 = [1023] ∧
    gives (.downTimeout 7) (carrying lnRetrain) (fun t => ln t == lnTrain && t.dev.rd .lnCreditOutstanding [7] == 0 &&
      t.dev.rd .lnTagOpen [7] == 0 && (t.dev.lk 7).replay == [] && seen t 0x670 == (1, evLinkReset, [1, 0, 0, 0, 1, 0, 0, 0])) = true ∧
    gives (.linkDisable 7 true) (carrying lnUp) (fun t => ln t == lnDisabled && !t.dev.on .lnEn [7] && t.dev.rd .lnTagOpen [7] == 0) = true ∧
    gives (.linkDisable 7 false) (carrying lnUp) (fun t => ln t == lnDisabled && !(t.dev.lk 7).present) = true := by decide +kernel

theorem test_link_enable : gives (.linkEnable 7) (link lnDisabled [(.lnTagOpen, [7], 3), (.lnTagStatted, [7], 8)])
      (fun t => ln t == lnTrain && t.dev.rd .lnTagIssued [7] == 3 && t.dev.rd .lnTagStatted [7] == 0) = true ∧
    gives (.modulePresent 7) (link lnDisabled) (fun t => ln t == lnTrain) = true := by decide +kernel

theorem test_lack_send : gives (.lackSend 7) (link lnUp [] fun k => { k with owed := 3, rxSeq := 0 })
    (fun t => t.dev.out == [.spring 7 ⟨0, 6, [0, 0, 255, 255, 0, 0, 0, 0], false⟩] && (t.dev.lk 7).owed == 0) = true := by decide +kernel

/-- A frame of a type, number and body, its CRC good. -/
def frameOf (ptype seq : Nat) (body : Bytes) : Bytes := Packet.bytes { seq := seq, ptype := ptype, body := body, init := false }

theorem test_frames_read : frameGood (frameOf 9 65535 [1, 2]) = true ∧ frameType (frameOf 9 65535 [1, 2]) = 9 ∧
    ofLe (slice (frameOf 9 65535 [1, 2]) 2 2) = 65535 ∧ frameGood ((frameOf 9 65535 [1, 2]).set 8 3) = false ∧
    frameGood ((frameOf 9 65535 [1, 2]).set 4 1) = false := by decide +kernel

/-- R352: a bad frame in INIT; R354: the 32nd packet not yet acknowledged. -/
theorem test_init_discard : gives (.packetDiscard 7 (zeros 16)) (link lnInit) (fun t => (t.dev.lk 7).discarded && t.dev.rd .lnCrcErr [7] == 1) = true ∧
    gives (.unsupportedPacketType 7 4 9) (link lnUp [] fun k => { k with rxSeq := 4, owed := 31 }) (fun t => (t.dev.lk 7).owed == 0 &&
      t.dev.out == [.spring 7 ⟨0, 6, [0, 0, 4, 0, 0, 0, 0, 0], false⟩]) = true := by decide +kernel

theorem test_discard : gives (.packetDiscard 7 (zeros 16)) (link lnUp) (fun t => (t.dev.lk 7).discarded && t.dev.rd .lnCrcErr [7] == 1 &&
      t.dev.out.length == 1) = true ∧
    gives (.packetDiscard 7 (frameOf 1 8 (zeros 48))) (link lnUp) (fun t => (t.dev.lk 7).discarded && t.dev.rd .lnCrcErr [7] == 0) = true ∧
    gives (.packetDiscard 7 (frameOf 2 0 (zeros 16))) (link lnUp) (fun t => (t.dev.lk 7).rxSeq == 1 &&
      seen t 0x672 == (1, evLinkProtocol, [2])) = true ∧
    (link lnUp [] fun k => { k with rxSeq := 65535 }).dev.rxNext 7 65535 = true ∧
    gives (.unsupportedPacketType 7 65535 9) (link lnUp [] fun k => { k with rxSeq := 65535 })
      (fun t => (t.dev.lk 7).rxSeq == 0 && seen t 0x672 == (1, evLinkProtocol, [9])) = true := by decide +kernel

/-- An idle block stands before the packet with which 2,048 blocks would have passed, and alignment blocks after 65,532. -/
theorem test_block_stream : gives (.lackSend 7) (link lnUp [] fun k => { k with owed := 3, rxSeq := 1, sinceIdle := 2046, txBlocks := 65530 })
    (fun t => t.dev.out == [.idle 7, .align 7 1 1, .spring 7 ⟨0, 6, [0, 0, 0, 0, 0, 0, 0, 0], false⟩]) = true := by decide +kernel

/-! ### Commands of a sender -/

/-- A volume of the default geometry. -/
def volume5 : Volume :=
  { id := 5, geometry := 0, groups := 1, members := List.range 32, positions := List.range 32, serials := [] }

/-- Link 7 is UP with a credit, over a basin in service and a volume with the OPEN take 9 of 128 bytes. -/
def serving (k : Link → Link := id) (f : Dev → Dev := id) : State :=
  basin [(.lnState, [7], lnUp), (.lnCreditOutstanding, [7], 1), (.lnGrantWindow, [7], 1), (.sprSlotsTotal, [], 8), (.lnSlots, [7], 4)]
    fun d => f { d.updLk 7 k with loadInForce := true, takes := [{ id := 9, length := 128 }], volume := some volume5 }

/-- A deferred entry. -/
def entry (n : Nat) : Deferred := { seq := n, cookie := 0, op := 1, detail := 2, target := 9, offset := 0 }

/-- A grant of n bytes is open for tag 4, whose command gathers. -/
def granted (n : Nat) : State := serving (fun k => { k with grants := [{ id := 65535, tag := 4, offset := 64, length := n }] }) fun d =>
  { d with cmds := [{ origin := .link 7 4, op := 0x01, phase := .gathering, take := 9, offset := 64, length := n }] }

theorem test_cmd_write : (serving).dev.rxNext 7 0 = true ∧ (serving).dev.cmdMisuse 7 1023 = false ∧ (serving).dev.on .bsReady = true ∧
    (serving).dev.take? 9 = some { id := 9, length := 128 } ∧ springRangeOk true 64 (2 ^ 32 - 64) = true ∧ (serving).dev.catalogFull = false ∧
    gives (.springWrite 7 0 1023 true 3 9 64 64 0) serving (fun t => t.dev.rd .lnTagOpen [7] == 1 && t.dev.rd .lnTagIssued [7] == 1 &&
      t.dev.rd .lnCreditConsumed [7] == 1 && t.dev.rd .lnCreditOutstanding [7] == 0 &&
      t.dev.cmds.map (fun c => (c.phase == .gathering, c.take, c.offset, c.length, c.fua)) == [(true, 9, 64, 64, true)]) = true ∧
    faults (.springWrite 7 0 4 true 3 9 64 64 0) (granted 64) .senderMisuse = true := by decide +kernel

theorem test_cmd_read : springRangeOk false 64 64 = true ∧
    gives (.springRead 7 0 0 3 9 64 64) serving (fun t => t.dev.rd .lnTagOpen [7] == 1) = true := by decide +kernel

theorem test_cmd_log : gives (.springLog 7 0 5 1 32) (serving fun k => { k with deferred := [entry 1, entry 2] })
      (fun t => (t.dev.lk 7).deferred.length == 1 && (t.dev.lk 7).txq.map Prod.fst == [3, 4] && t.dev.cmds == []) = true ∧
    gives (.unknownOp 7 0 5 0x7F 1) serving (fun t => (t.dev.lk 7).txq == [(4, [5, 0, clsDevice, 0, 1, 0, 0, 0, 0, 0, 0, 0, 0, 0, 0, 0])]) = true := by
  decide +kernel

theorem test_data : (List.replicate 4096 7).length = min 4096 8192 ∧
    gives (.springData 7 0 4 65535 64 (List.replicate 4096 7)) (granted 8192) (fun t => (t.dev.lk 7).grants.map (fun g => g.got.length) == [4096]) = true ∧
    gives (.springData 7 0 4 65535 64 (zeros 64)) (granted 64) (fun t => (t.dev.lk 7).grants == []) = true ∧
    faults (.springData 7 0 4 65535 64 (zeros 63)) (granted 64) .senderMisuse = true ∧
    faults (.springData 7 0 4 65535 0 (zeros 64)) (granted 64) .senderMisuse = true := by decide +kernel

theorem test_stat : (link lnUp [(.lnTagOpen, [7], 1)] fun k => { k with txq := [(4, [5])], txSeq := 65535 }).dev.canSend 7 = true ∧
    gives (.springStat 7) (link lnUp [(.lnTagOpen, [7], 1)] fun k => { k with txq := [(4, [5, 0, 0, 0])], txSeq := 65535 })
      (fun t => (t.dev.lk 7).txq == [] && (t.dev.lk 7).replay.map (fun p => (p.seq, p.ptype)) == [(65535, 4)] &&
        t.dev.rd .lnTagOpen [7] == 0 && t.dev.rd .lnTagStatted [7] == 1) = true := by decide +kernel

theorem test_credit : gives (.credit 7 0 5) (link lnUp [(.lnCreditOutstanding, [7], 3)]) (fun t =>
    t.dev.rd .lnCreditOutstanding [7] == 0 && t.dev.rd .lnCreditReturned [7] == 3) = true := by decide +kernel

theorem test_credit_grant : min 9 (min ((serving).dev.rd .sprSlotsTotal - (serving).dev.slotsUsed) (4 - 1)) = 3 ∧
    gives (.creditGrant 7 9) serving (fun t => t.dev.rd .lnCreditOutstanding [7] == 4 && t.dev.rd .lnCreditGranted [7] == 3 &&
      (t.dev.lk 7).creditLimit == 3) = true ∧ (serving).dev.creditTurn 7 = true ∧ (serving).dev.creditDue 7 = true := by decide +kernel

/-- A WRITE of 1 MiB gathers on tag 4. -/
def asking : State := serving id fun d =>
  { d with cmds := [{ origin := .link 7 4, op := 0x01, phase := .gathering, take := 9, offset := 64, length := 2 ^ 20 }] }

theorem test_xrdy : asking.dev.nextRange 7 4 (2 ^ 20) = some (64, 2 ^ 20) ∧ asking.dev.canSend 7 = true ∧
    2 ^ 20 + (asking.dev.lk 7).unreceived ≤ asking.dev.rd .lnGrantWindow [7] * 2 ^ 20 ∧
    (asking.dev.takeUnits (.grant 7 1) (unitsFor (2 ^ 20)) true).isSome = true ∧
    gives (.xrdy 7 4 (2 ^ 20)) asking (fun t => (t.dev.lk 7).grants.map (fun g => (g.id, g.tag, g.offset, g.length)) == [(1, 4, 64, 2 ^ 20)] &&
      t.dev.rd .bsUnitsReserved == 1 && t.dev.rd .bsUnitsFree == 61) = true := by decide +kernel

theorem test_xrdy_timeout : gives (.xrdyTimeout 7 65535) (granted 64) (fun t => (t.dev.lk 7).grants == [] &&
    (t.dev.lk 7).expired == [(65535, 4)] && (t.dev.lk 7).regrant == [(4, 64, 64)] && (seen t 0x675).2.1 == evXrdyTimeout) = true := by
  decide +kernel

theorem test_qrst : gives (.qrst 7 0) (granted 64) (fun t => t.dev.linkTags 7 == [] && (t.dev.lk 7).qreset == [(1, [4], false)] &&
      (t.dev.lk 7).grants == []) = true ∧
    gives (.springQreset 7) (granted 64) (fun t => (t.dev.lk 7).qreset == [(2, [4], false)]) = true ∧
    gives (.qrstReport 7) (link lnUp [(.lnTagOpen, [7], 2)] fun k => { k with qreset := [(1, [4, 1023], false)] })
      (fun t => t.dev.rd .lnTagOpen [7] == 0 && t.dev.rd .lnTagReset [7] == 2 && (t.dev.lk 7).replay.map (fun p => (p.ptype, p.body.length)) == [(5, 136)] &&
        seen t 0x673 == (1, evQrstDone, [1, 2, 0, 0, 0])) = true := by decide +kernel

/-- High fill, 1 MiB released in the period, and a WRITE that waits. -/
def sharing : State := { asking with dev := { asking.dev.updBasin (fun b => { b with fillHigh := true }) with
  share := { released := 2 ^ 20, carry := 5, deficits := [0, 0, 0, 0, 0, 0, 0, 3000000] } } }

theorem test_budget : sharing.dev.basin.fillHigh = true ∧ sharing.dev.rd .thThrState ≠ thEnforced ∧ asking.dev.basin.fillHigh = false ∧
    gives .grantBudgetPeriod sharing (fun t => t.dev.share.inForce && t.dev.share.released == 0 &&
      t.dev.share.allow.foldl (· + ·) 0 * 65536 + t.dev.share.carry == 2 ^ 36 + 5) = true ∧
    gives .grantBudgetPeriod asking (fun t => !t.dev.share.inForce) = true ∧
    gives .deficitSecond sharing (fun t => t.dev.rd .lnDeficit [7] == 3 && t.dev.share.deficits == [] &&
      seen t 0x674 == (1, evRateDeficit, [3, 0, 0, 0])) = true := by decide +kernel

/-! ### The take service -/

/-- The volume's one take, of 128 bytes whose block is on the medium at theBlock. -/
def take9 (s : TakeState) : Take := { id := 9, state := s, length := 128, blocks := [(0, { pba := some theBlock })] }

/-- A load is in force and the basin serves; ring 255 has one consumed descriptor. -/
def desk (s : TakeState := .opened) (fs : List (Row × List Nat × Nat) := []) (f : Dev → Dev := id) : State :=
  basin (fs ++ [(.sqEn, [255], 1), (.sqSize, [255], 4), (.sqConsumed, [255], 1), (.sqInflight, [255], 1), (.cqEn, [0], 1), (.cqSize, [0], 4)])
    fun d => f { d.updSq 255 (fun q => { q with tail := 1 }) with loadInForce := true, takes := [take9 s], volume := some volume5 }

/-- Phase, take, offset and length of the commands in flight. -/
def flights (t : State) : List (Phase × Nat × Nat × Nat) := t.dev.cmds.map fun c => (c.phase, c.take, c.offset, c.length)

theorem test_desk : (desk).dev.mayStart 255 ∧ (desk).dev.cmds = [] ∧ (desk).dev.on .bsReady = true ∧ (desk).dev.loadInForce = true ∧
    (desk).dev.nextOrigin 255 = .ring 255 0 := by
  refine ⟨⟨by decide +kernel, by decide +kernel⟩, by decide +kernel, by decide +kernel, by decide +kernel, by decide +kernel⟩

theorem test_flush : (oneConsumed 255 [(.bsReady, [], 1)]).dev.loadInForce = false ∧
    gives (.flush 255 1) (oneConsumed 255 [(.bsReady, [], 1)]) (fun t => ends t == [(clsOk, 0)]) = true ∧
    gives (.flush 255 1) desk (fun t => t.dev.cmds.map Cmd.phase == [.records] && t.dev.cat.records.map CatRec.rtype == [0x22]) = true := by decide +kernel

theorem test_record : takeRangeOk true (2 ^ 46 - 64) 64 = true ∧ bufferOk 64 4096 [] = true ∧
    faults (.record 255 1 true 9 64 64 4097 [] 7) desk .bufferMisuse = true ∧
    faults (.record 255 1 true 9 64 128 4096 [(0, 64)] 7) desk .bufferMisuse = true ∧ takeRangeOk true 64 (2 ^ 32 - 64) = true ∧ (desk).dev.catalogFull = false ∧
    (desk).dev.take? 9 = some (take9 .opened) ∧
    gives (.record 255 1 true 9 64 64 4096 [] 7) desk (fun t => flights t == [(.gathering, 9, 64, 64)]) = true ∧
    gives (.record 255 1 true 8 64 64 4096 [] 7) desk (fun t => ends t == [(clsResource, detTakeUnknown)]) = true ∧
    faults (.record 255 1 true 9 63 64 4096 [] 7) desk .takeMisuse = true := by decide +kernel

/-- The desk with surface 31 loaded. -/
def stocked : State := desk .opened [(.pkPresent, [31], 1)] fun d => d.updPk 31 fun k => { k with loaded := true, formatted := true }

theorem test_retrieve : takeRangeOk false 0 128 = true ∧
    gives (.retrieve 255 1 9 0 128 4096 []) stocked (fun t => flights t == [(.reading, 9, 0, 128)] &&
      t.dev.cmds.map Cmd.needs == [[(theBlock, 0)]]) = true ∧
    gives (.retrieve 255 1 9 64 128 4096 []) desk (fun t => ends t == [(clsResource, detBeyondEnd)]) = true ∧
    gives (.peerExport 255 1 9 0 128 4096 0) stocked (fun t => flights t == [(.reading, 9, 0, 128)]) = true := by decide +kernel

theorem test_take_open : (desk).dev.volume = some volume5 ∧ (desk).dev.rd .svTakeOpen < 64 ∧ (desk).dev.take? 8 = none ∧
    gives (.takeOpen 255 1 8 77 5 [65]) desk (fun t => ends t == [(clsOk, 0)] && t.dev.takes.map (fun x => (x.id, x.openTime)) == [(9, 0), (8, 77)]) =
      true ∧
    gives (.takeOpen 255 1 9 77 5 []) desk (fun t => t.dev.takes.length == 1) = true := by decide +kernel

theorem test_take_close : gives (.takeClose 255 1 9 5 4096 64) desk (fun t => t.dev.takes.map (fun x => x.state == .opened) == [false] &&
      t.dev.takes.map Take.length == [128]) = true ∧
    gives (.takeClose 255 1 9 5 4096 64) (desk .closed) (fun t => (ends t).map Prod.fst == [clsOk]) = true ∧
    gives (.takeQuery 255 1 9 4096 64) (desk .closed) (fun t => (ends t).map Prod.fst == [clsOk]) = true := by decide +kernel

/-! ### Raw blocks and the catalogue -/

theorem test_block_write : (desk .opened [(.pkPresent, [31], 1)] fun d => d.updPk 31 fun k => { k with loaded := true, formatted := true }).dev.rawTargetOk theBlock = true ∧
    (desk .opened [(.pkPresent, [31], 1)] fun d => d.updPk 31 fun k => { k with loaded := true, formatted := true }).dev.surfaceOk 31 = true ∧
    gives (.blockWrite 255 1 false theBlock 4096 0) (desk .opened [(.pkPresent, [31], 1)] fun d => d.updPk 31 fun k => { k with loaded := true, formatted := true })
      (fun t => t.dev.cmds.map (fun c => (c.phase == .gathering, c.pba, c.length)) == [(true, theBlock, 65536)]) = true ∧
    faults (.blockWrite 255 1 false (pbaOf 31 3 7 98400) 4096 0) desk .pbaMisuse = true := by decide +kernel

theorem test_block_read : pbaOk theBlock = true ∧ Nat.testBit 1 0 = true ∧
    gives (.blockRead 255 1 theBlock 1 4096 0) (desk .opened [(.pkPresent, [31], 1)] fun d => d.updPk 31 fun k => { k with loaded := true, formatted := true })
      (fun t => t.dev.cmds.map (fun c => (c.phase == .reading, c.needs)) == [(true, [(theBlock, 0)])]) = true := by decide +kernel

/-- Three records of the catalogue. -/
def recs3 : List CatRec := (List.range 3).map fun i => { rtype := 0x20 + i, epoch := 1, seq := i, time := 0, body := [] }

theorem test_catalog_read : ((recs3.filter fun x => decide (1 ≤ x.seq) && (0xFFFE == 0xFFFE || x.rtype == 0xFFFE)).take 5).length = 2 ∧
    gives (.catalogRead 255 1 0x21 0 5 4096 512) (desk .opened [] fun d => d.updCat fun c => { c with records := recs3 })
      (fun t => ends t == [(clsOk, 0)] && t.dev.out.length == 1) = true ∧
    gives (.catalogRead 255 1 0xFFF8 0 5 4096 512) desk (fun t => ends t == [(clsOk, 0)] && t.dev.out.isEmpty) = true ∧
    gives (.catalogRead 255 1 0xFFFD 0 5 4096 512) desk (fun t => ends t == [(clsOk, 0)]) = true := by decide +kernel

theorem test_commit_nothing : rangeBlocks (geometryD 0) 3 (take9 .opened).gather = [] ∧
    gives (.stripeCommit 9 3) desk (fun t => t.dev.takes == [take9 .opened]) = true := by decide +kernel

/-- Block 3 of range 0 is gathered since time 0, on a device without a surface to take it. -/
def gathered (wait : Nat) : State := desk .opened [(.svStripeWait, [], wait)] fun d => { d with
  takes := [{ take9 .opened with gather := [{ block := 3, data := [1], atoms := [0] }], since := [(0, 0)] }] }

theorem test_commit_due : rangeBlocks (geometryD 0) 0 [{ block := 3, data := [1], atoms := [0] }] ≠ [] ∧
    gives (.stripeCommit 9 0) (gathered 0) (fun t => t.dev.takes.map (fun x => x.gather.length) == [0]) = true ∧
    gives (.stripeCommit 9 0) (gathered 10) (fun t => t.dev.takes.map (fun x => x.gather.length) == [1]) = true := by decide +kernel

theorem test_catalogue_timers : (desk .opened [] fun d => d.updCat fun c => { c with records := recs3 }).dev.unwritten ≠ [] ∧
    gives .catalogRowTimer (desk .opened [] fun d => d.updCat fun c => { c with records := recs3 }) (fun t => t.dev.cat.wanted) = true ∧
    gives .allocRecordTimer writing (fun t => t.dev.cat.records.map CatRec.rtype == [0x22]) = true := by decide +kernel

/-- A TAKE_CLOSE of take 9 that waits for the medium; a block of the take is lost. -/
def closer : Cmd := { origin := .ring 255 0, op := 0x09, take := 9, phase := .medium }
def lossy : Dev := { (desk .closing).dev with takes := [{ take9 .closing with lost := true }], cmds := [closer] }

theorem test_close_fails : lossy.take? 9 = some { take9 .closing with lost := true } ∧
    lossy.advanceClose (.ring 255 0) closer = lossy.closeFails 9 detWriteExhausted ∧
    (lossy.closeFails 9 detWriteExhausted).takes.map Take.state = [.unclosed] ∧ (lossy.closeFails 9 detWriteExhausted).cmds = [] ∧
    ((lossy.closeFails 9 detWriteExhausted).cqS 0).waiting.map (fun k => (k.cls, k.detail)) = [(clsMedia, detWriteExhausted)] := by
  decide +kernel

end Sys2Proof.Tests
end

section
/-! SUPPORT. Register writes and reads (chapter 18): what a write of BAR0 does in each of its cases, what a write of a
field does by its kind, and which bits a read of a word can show. -/

namespace Sys2Proof.Machine

/-! ### The cases of a write of BAR0 (R309, R528) -/

/-- The device after every field of a word has taken its bits of the value, in the order of the table (log entry 33). -/
def Dev.writeFields (d : Dev) (fs : List Fld) (v : Nat) : Dev := fs.foldl (fun d f => d.writeField f (f.bits v)) d

theorem exec_registerWrite_not_ready (a v : Nat) (s : State) (hr : s.dev.ready = false) :
    exec (.registerWrite a v) s = .next s := by
  change execRegisterWrite a v s = _
  simp [execRegisterWrite, hr]

theorem exec_registerWrite_bad_access (a v : Nat) (s : State) (hr : s.dev.ready = true) (ha : a % 4 ≠ 0 ∨ 2 ^ 23 ≤ a) :
    exec (.registerWrite a v) s = .fault .bar0Access := by
  have hbad : a % 4 ≠ 0 ∨ 2 ^ 23 ≤ a ∨ 2 ^ 32 ≤ v := ha.imp_right .inl
  change execRegisterWrite a v s = _
  simp only [execRegisterWrite, hr, hbad, Bool.not_true, Bool.false_eq_true, if_false, if_true]

theorem exec_registerWrite_msix (a v : Nat) (s : State) (hr : s.dev.ready = true) (h4 : a % 4 = 0) (hv : v < 2 ^ 32)
    (hm : inMsix a = true) : exec (.registerWrite a v) s = .next (s.commit (s.dev.writeMsix a v)) := by
  have ha : a < 0x188000 := (of_decide_eq_true hm).2
  have hok : ¬ (a % 4 ≠ 0 ∨ 2 ^ 23 ≤ a ∨ 2 ^ 32 ≤ v) := by omega
  change execRegisterWrite a v s = _
  simp only [execRegisterWrite, hr, hok, hm, Bool.not_true, Bool.false_eq_true, if_false, if_true, act_eq]

theorem exec_registerWrite_fields (a v : Nat) (s : State) (hr : s.dev.ready = true) (h4 : a % 4 = 0) (ha : a < 2 ^ 23)
    (hv : v < 2 ^ 32) (hm : inMsix a = false) (hf : s.dev.writeFault (fieldsAt a) v = none) :
    MakesThenRuns (.registerWrite a v) s (s.dev.writeFields (fieldsAt a) v) := by
  have hok : ¬ (a % 4 ≠ 0 ∨ 2 ^ 23 ≤ a ∨ 2 ^ 32 ≤ v) := by omega
  change execRegisterWrite a v s = _
  simp only [execRegisterWrite, hr, hok, hm, hf, Bool.not_true, Bool.false_eq_true, if_false, serve_eq]
  rfl

/-! ### What a change of the registers alone leaves -/

/-- A device that differs from d in its registers only differs in the fields whose values differ. -/
theorem onlyChanges_regs (d : Dev) (regs : List (Fld × Nat)) (fields : List Fld)
    (h : ∀ f, f ∉ fields → regGet regs f = regGet d.regs f) : d.OnlyChanges { d with regs := regs } fields [] [] := by
  refine ⟨h, fun t k _ => ?_, fun p _ => ?_⟩
  · cases t <;> rfl
  · cases p <;> simp [Part.Same]

/-- The register file after each of the fields has been set to its bits of the value. -/
def regSetFields (regs : List (Fld × Nat)) (fs : List Fld) (v : Nat) : List (Fld × Nat) :=
  fs.foldl (fun regs f => regSet regs f (f.bits v)) regs

/-- Each field holds its bits of the value, also one that is set twice. -/
theorem regGet_regSetFields (fs : List Fld) (regs : List (Fld × Nat)) (v : Nat) (g : Fld) :
    regGet (regSetFields regs fs v) g = if g ∈ fs then g.bits v else regGet regs g := by
  induction fs generalizing regs with
  | nil => simp [regSetFields]
  | cons f fs ih =>
    have hstep : regSetFields regs (f :: fs) v = regSetFields (regSet regs f (f.bits v)) fs v := rfl
    rw [hstep, ih, regGet_regSet]
    by_cases hg : g = f
    · simp [hg, Fld.bits]
    · simp [hg]

/-! ### A write of a field, by the field's kind (R6, R540 to R542) -/

theorem writeField_ro (d : Dev) (f : Fld) (v : Nat) (h : f.row.spec.access = .ro) : d.writeField f v = d := by
  simp [Dev.writeField, h]

theorem writeField_w1c_zero (d : Dev) (f : Fld) (h : f.row.spec.access = .w1c) : d.writeField f 0 = d := by
  simp [Dev.writeField, h]

theorem writeField_w1c_one (d : Dev) (f : Fld) (ho : f.row.spec.own = false) (h : f.row.spec.access = .w1c) :
    d.writeField f 1 = d.wr f.row f.ix 0 := by
  simp [Dev.writeField, h, ho]

/-- The low word of a pair only waits (R540). -/
theorem writeField_low (d : Dev) (r hi : Row) (ix : List Nat) (v : Nat) (hp : pairHi r = some hi)
    (ho : r.spec.own = false) (hrw : r.spec.access = .rw) :
    d.writeField ⟨r, ix⟩ v = { d with lowHeld := tset d.lowHeld (Fld.addr ⟨r, ix⟩) v } := by
  simp [Dev.writeField, ho, hrw, hp]

/-- The high word of a pair takes effect with the low word that waits (R540). -/
theorem writeField_high (d : Dev) (lo hi : Row) (ix : List Nat) (x v : Nat) (hn : pairHi hi = none)
    (hp : pairLo hi = some lo) (ho : hi.spec.own = false) (hrw : hi.spec.access = .rw)
    (hx : tfind d.lowHeld (Fld.addr ⟨lo, ix⟩) = some x) :
    d.writeField ⟨hi, ix⟩ v =
      ({ d.wr lo ix x with lowHeld := tdel d.lowHeld (Fld.addr ⟨lo, ix⟩) } : Dev).wr hi ix v := by
  simp [Dev.writeField, ho, hrw, hn, hp, hx]

/-- A field of the read channel is no half of a pair. -/
theorem isRc_unpaired (r : Row) (h : isRc r = true) : pairHi r = none ∧ pairLo r = none := by
  unfold isRc at h
  split at h <;> simp_all [pairHi, pairLo]

/-- A write of a read-channel field joins those that wait for the pickup's next block (R248). -/
theorem writeField_rc (d : Dev) (f : Fld) (v : Nat) (hc : isRc f.row = true) (ho : f.row.spec.own = false)
    (hrw : f.row.spec.access = .rw) :
    d.writeField f v = d.updPk (f.ix.getD 0 0) fun k => { k with
      rcPending := k.rcPending ++ [{ fld := f, value := v, time := d.time, row := d.rowUnder (f.ix.getD 0 0) }] } := by
  obtain ⟨hhi, hlo⟩ := isRc_unpaired f.row hc
  simp [Dev.writeField, ho, hrw, hhi, hlo, hc]

/-- A plain field is only stored. -/
theorem writeField_plain (d : Dev) (f : Fld) (v : Nat) (h : f.plain = true) : d.writeField f v = d.wr f.row f.ix v := by
  simp only [Fld.plain, Bool.and_eq_true, Bool.not_eq_true', beq_iff_eq, Option.isNone_iff_eq_none,
    List.contains_eq_mem, decide_eq_false_iff_not, List.mem_cons, List.not_mem_nil, or_false, not_or] at h
  obtain ⟨⟨⟨⟨⟨⟨⟨hrw, ho⟩, hhi⟩, hlo⟩, hrc⟩, hws⟩, hcoef⟩, hlearn, hsel, hta, htb, hrp, hwp, hsa, hmon, hmode⟩ := h
  have hb : d.atBoundary f = false := by simp [Dev.atBoundary, hcoef, hsel, hta, htb]
  simp [Dev.writeField, ho, hrw, hhi, hlo, hrc, hlearn, hws, hb, hrp, hwp, hsa, hmon, hmode]

/-- Read-only fields take no write. -/
theorem writeFields_ro (d : Dev) (fs : List Fld) (v : Nat) (h : ∀ f ∈ fs, f.row.spec.access = .ro) :
    d.writeFields fs v = d := by
  induction fs with
  | nil => rfl
  | cons f fs ih =>
    obtain ⟨hf, hfs⟩ := List.forall_mem_cons.1 h
    have hstep : d.writeFields (f :: fs) v = (d.writeField f (f.bits v)).writeFields fs v := rfl
    rw [hstep, writeField_ro d f _ hf, ih hfs]

/-- Plain fields are stored in the registers, and nothing else happens. -/
theorem writeFields_plain (d : Dev) (fs : List Fld) (v : Nat) (h : ∀ f ∈ fs, f.plain = true) :
    d.writeFields fs v = { d with regs := regSetFields d.regs fs v } := by
  induction fs generalizing d with
  | nil => rfl
  | cons f fs ih =>
    obtain ⟨hf, hfs⟩ := List.forall_mem_cons.1 h
    have hstep : d.writeFields (f :: fs) v = (d.writeField f (f.bits v)).writeFields fs v := rfl
    rw [hstep, writeField_plain d f _ hf, ih _ hfs]
    rfl

/-- A word of read-only fields meets no case of Table 20-2, CALIB.SEL apart (R514). -/
theorem writeFault_ro (d : Dev) (fs : List Fld) (v : Nat)
    (h : ∀ f ∈ fs, f.row.spec.access = .ro ∧ f.row ≠ .calSel) : d.writeFault fs v = none := by
  have hfields : (fs.findSome? fun f => d.fieldFault f (f.bits v)) = none := by
    rw [List.findSome?_eq_none_iff]
    intro f hf
    obtain ⟨hro, hsel⟩ := h f hf
    simp [Dev.fieldFault, hro, hsel]
  have hmark : (fs.find? fun f => f.row == .bsWmarkHigh) = none := by
    rw [List.find?_eq_none]
    intro f hf hrow
    have hro := (h f hf).1
    rw [beq_iff_eq.1 hrow] at hro
    cases hro
  simp [Dev.writeFault, hfields, hmark]

/-! ### The MSI-X table (R544) -/

/-- A write of a word whose vector keeps no message only stores it. -/
theorem writeMsix_not_pending (d : Dev) (a v : Nat) (h : d.msixPending.contains ((a - 0x180000) / 16) = false) :
    d.writeMsix a v = { d with msix := tset d.msix a v } := by
  simp only [Dev.writeMsix, h, Bool.false_eq_true, false_and, if_false]

/-- A word of the table after a write of it or of another. -/
theorem msixWord_tset (d : Dev) (a v b : Nat) :
    ({ d with msix := tset d.msix a v } : Dev).msixWord b = if b = a then v else d.msixWord b := by
  simp [Dev.msixWord]

/-- A write of a vector control word leaves every vector's message as it is. -/
theorem msixMsg_control_write (d : Dev) (a v n : Nat) (ha : a % 16 = 12) :
    ({ d with msix := tset d.msix a v } : Dev).msixMsg n = d.msixMsg n := by
  have h0 : ¬ 0x180000 + 16 * n = a := by omega
  have h4 : ¬ 0x180000 + 16 * n + 4 = a := by omega
  have h8 : ¬ 0x180000 + 16 * n + 8 = a := by omega
  simp only [Dev.msixMsg, msixWord_tset, h0, h4, h8, if_false]

/-- Unmasking a vector sends the message that it kept pending (log entry 64). -/
theorem writeMsix_unmask (d : Dev) (a v n : Nat) (ha : a = 0x180000 + 16 * n + 12) (hp : n ∈ d.msixPending)
    (hv : v.testBit 0 = false) :
    d.writeMsix a v = { d with msix := tset d.msix a v, out := d.out ++ [d.msixMsg n],
                               msixPending := d.msixPending.filter fun x => x != n } := by
  have hn : (a - 0x180000) / 16 = n := by omega
  have hmsg := msixMsg_control_write d a v n (by omega)
  have hopen : ({ d with msix := tset d.msix a v } : Dev).msixMasked n = false := by
    simp [Dev.msixMasked, msixWord_tset, ha, hv]
  simp [Dev.writeMsix, hn, hp, hmsg, hopen, Dev.emit]

/-- What unmasking a vector changes. -/
theorem onlyChanges_msix_out (d : Dev) (m : Tab Nat) (o : List Msg) (l : List Nat) :
    d.OnlyChanges { d with msix := m, out := o, msixPending := l } [] [] [.msix, .out] := by
  refine ⟨fun f _ => rfl, fun t k _ => ?_, fun p hp => ?_⟩
  · cases t <;> rfl
  · cases p <;> simp_all [Part.Same]

/-! ### Reads (R6, R7) -/

theorem readField_writeOnly (d : Dev) (ev : Tab Src) (f : Fld)
    (h : f.row.spec.access = .wo ∨ f.row.spec.access = .w1p) : d.readField ev f = 0 := by
  rcases h with h | h <;> simp [Dev.readField, h]

/-- What a field reads lies within its width. -/
theorem readField_lt (d : Dev) (ev : Tab Src) (f : Fld) : d.readField ev f < 2 ^ f.row.spec.width := by
  have hmod (n : Nat) : n % 2 ^ f.row.spec.width < 2 ^ f.row.spec.width := Nat.mod_lt _ (Nat.two_pow_pos _)
  unfold Dev.readField
  split
  · exact Nat.two_pow_pos _
  · exact Nat.two_pow_pos _
  · exact hmod _
  · dsimp only
    split
    · next htime => rw [htime]; exact Nat.mod_lt _ (Nat.two_pow_pos 32)
    · exact hmod _

/-- A field of the read channel is no field of an event source. -/
theorem src_field_rc (x : Src) (n : Nat) (r : Row) (h : isRc r = true) : x.field n r = none := by
  unfold isRc at h
  split at h <;> simp_all [Src.field]

theorem lastWrite_append (l : List (Fld × Nat)) (f : Fld) (v : Nat) : lastWrite (l ++ [(f, v)]) f = some v := by
  simp [lastWrite]

/-- Of the writes of a read-channel field that wait, a read shows the last (log entry 124). -/
theorem waitingWrite_rc (d : Dev) (f : Fld) (l : List (Fld × Nat)) (v : Nat) (hc : isRc f.row = true)
    (hm : lastWrite d.measureHeld f = none) (hd : lastWrite d.deferredWrites f = none)
    (hl : ((d.pkS (f.ix.getD 0 0)).rcPending.map fun w => (w.fld, w.value)) = l ++ [(f, v)]) :
    d.waitingWrite f = some v := by
  have hmode : f.row ≠ .axMode := fun e => by rw [e] at hc; cases hc
  have hsrc : f.row ≠ .spCmdsrc := fun e => by rw [e] at hc; cases hc
  simp only [Dev.waitingWrite, hm, hd, hc, hl, hmode, hsrc, lastWrite_append, if_true, if_false]
  rfl

/-- A read-channel field reads what was last written, also while the write waits for the next block. -/
theorem readField_writeField_rc (d : Dev) (ev : Tab Src) (f : Fld) (v : Nat) (hc : isRc f.row = true)
    (hrw : f.row.spec.access = .rw) (ho : f.row.spec.own = false) (hm : lastWrite d.measureHeld f = none)
    (hd : lastWrite d.deferredWrites f = none) :
    (d.writeField f v).readField ev f = v % 2 ^ f.row.spec.width := by
  have hw : (d.writeField f v).waitingWrite f = some v := by
    rw [writeField_rc d f v hc ho hrw]
    refine waitingWrite_rc _ f ((d.pkS (f.ix.getD 0 0)).rcPending.map fun w => (w.fld, w.value)) v hc ?_ ?_ ?_
    · exact hm
    · exact hd
    · simp [Dev.pkS, Dev.updPk]
  simp only [Dev.readField, hrw, src_field_rc _ _ _ hc, hw, Option.getD_none, Option.getD_some]

/-! ### The bits of a word (R7) -/

/-- Numbers without a common bit add up bit by bit. -/
theorem add_eq_or_of_and_eq_zero (x y : Nat) (h : x &&& y = 0) : x + y = x ||| y := by
  have hlt : x + y < 2 ^ (x + y) := Nat.lt_two_pow_self
  have hx : x < 2 ^ (x + y) := by omega
  have hy : y < 2 ^ (x + y) := by omega
  have hand : BitVec.ofNat (x + y) x &&& BitVec.ofNat (x + y) y = 0#(x + y) := by rw [← BitVec.ofNat_and, h]
  have hadd := congrArg BitVec.toNat (BitVec.add_eq_or_of_and_eq_zero _ _ hand)
  simpa [Nat.mod_eq_of_lt, hx, hy, hlt] using hadd

/-- The bit lies outside the field's range. -/
def Fld.Misses (f : Fld) (bit : Nat) : Prop := bit < f.lsb ∨ f.lsb + f.row.spec.width ≤ bit

/-- A value within the field's width fills no bit outside the field's range. -/
theorem testBit_of_misses (f : Fld) (x bit : Nat) (hx : x < 2 ^ f.row.spec.width) (hb : f.Misses bit) :
    (x * 2 ^ f.lsb).testBit bit = false := by
  rw [Nat.testBit_mul_two_pow]
  rcases hb with hb | hb
  · simp [hb]
  · have hle : 2 ^ f.row.spec.width ≤ 2 ^ (bit - f.lsb) := Nat.pow_le_pow_right (by decide) (by omega)
    rw [Nat.testBit_lt_two_pow (lt_of_lt_of_le hx hle), Bool.and_false]

/-- A field whose range is still free in a word adds its bits to it. -/
theorem add_field_eq_or (f : Fld) (n x : Nat) (hx : x < 2 ^ f.row.spec.width)
    (hfree : ∀ b, n.testBit b = true → f.Misses b) : n + x * 2 ^ f.lsb = n ||| x * 2 ^ f.lsb := by
  refine add_eq_or_of_and_eq_zero _ _ (Nat.eq_of_testBit_eq fun b => ?_)
  rw [Nat.testBit_and, Nat.zero_testBit]
  cases hb : n.testBit b with
  | false => rfl
  | true => exact testBit_of_misses f x b hx (hfree b hb)

/-- A word put together from fields that do not overlap shows no bit that none of them covers. -/
theorem testBit_foldl_fields (x : Fld → Nat) (hx : ∀ f, x f < 2 ^ f.row.spec.width) (bit : Nat) (fs : List Fld) (n : Nat)
    (hapart : fs.Pairwise fun f g => f.lsb + f.row.spec.width ≤ g.lsb ∨ g.lsb + g.row.spec.width ≤ f.lsb)
    (hfree : ∀ f ∈ fs, ∀ b, n.testBit b = true → f.Misses b) (hmiss : ∀ f ∈ fs, f.Misses bit)
    (hn : n.testBit bit = false) : (fs.foldl (fun n f => n + x f * 2 ^ f.lsb) n).testBit bit = false := by
  induction fs generalizing n with
  | nil => exact hn
  | cons f fs ih =>
    obtain ⟨hf, hapart⟩ := List.pairwise_cons.1 hapart
    obtain ⟨hffree, hfree⟩ := List.forall_mem_cons.1 hfree
    obtain ⟨hfmiss, hmiss⟩ := List.forall_mem_cons.1 hmiss
    rw [List.foldl_cons, add_field_eq_or f n (x f) (hx f) hffree]
    refine ih _ hapart (fun g hg b hb => ?_) hmiss ?_
    · rw [Nat.testBit_or, Bool.or_eq_true] at hb
      rcases hb with hb | hb
      · exact hfree g hg b hb
      · by_contra hin
        have hout : f.Misses b := by
          have hfg := hf g hg
          unfold Fld.Misses at hin ⊢
          omega
        rw [testBit_of_misses f (x f) b (hx f) hout] at hb
        cases hb
    · rw [Nat.testBit_or, hn, testBit_of_misses f (x f) bit (hx f) hfmiss]
      rfl

/-! ### Reads of a word (R528) -/

theorem d3hot_eq_false_of_ready (d : Dev) (h : d.ready = true) : d.pcie.d3hot = false := by
  simp only [Dev.ready, Bool.and_eq_true, Bool.not_eq_true'] at h
  exact h.2

/-- A read of a word outside the MSI-X table and its pending bits puts the word's fields together. -/
theorem readWord_ready (d : Dev) (ev : Tab Src) (a : Nat) (hr : d.ready = true) (hm : inMsix a = false)
    (hp : inPba a = false) :
    d.readWord ev a = (fieldsAt a).foldl (fun n f => n + d.readField ev f * 2 ^ f.lsb) 0 := by
  simp [Dev.readWord, d3hot_eq_false_of_ready d hr, hr, hm, hp]

/-- Until BAR0 works a read puts together only GLOBAL.STATUS.BOOT. -/
theorem readWord_not_ready (d : Dev) (ev : Tab Src) (a : Nat) (hr : d.ready = false) (hd : d.pcie.d3hot = false) :
    d.readWord ev a =
      ((fieldsAt a).filter fun f => f.row == .glBoot).foldl (fun n f => n + d.readField ev f * 2 ^ f.lsb) 0 := by
  simp [Dev.readWord, hr, hd]

theorem readWord_d3hot (d : Dev) (ev : Tab Src) (a : Nat) (hd : d.pcie.d3hot = true) : d.readWord ev a = 0 := by
  simp [Dev.readWord, hd]

theorem bootField_at_zero : ((fieldsAt 0).filter fun f => f.row == .glBoot) = [⟨.glBoot, []⟩] := by decide +kernel

theorem readField_boot (d : Dev) (ev : Tab Src) : d.readField ev ⟨.glBoot, []⟩ = d.rd .glBoot % 4 := rfl

end Sys2Proof.Machine
end

section
/-! SUPPORT. What REGISTER_WRITE and a read of BAR0 do (O50), statement by statement. -/

namespace Sys2Proof.Machine

/-- A write of a word of plain fields stores each of them and touches nothing else. -/
theorem registerWrite_plain (s : State) (a v : Nat) (hr : s.dev.ready = true) (h4 : a % 4 = 0) (ha : a < 2 ^ 23)
    (hv : v < 2 ^ 32) (hm : inMsix a = false) (hf : s.dev.writeFault (fieldsAt a) v = none)
    (hplain : ∀ f ∈ fieldsAt a, f.plain = true) :
    ∃ d, MakesThenRuns (.registerWrite a v) s d ∧ (∀ f ∈ fieldsAt a, regGet d.regs f = f.bits v) ∧
      s.dev.OnlyChanges d (fieldsAt a) [] [] := by
  have hmakes := exec_registerWrite_fields a v s hr h4 ha hv hm hf
  rw [writeFields_plain _ _ _ hplain] at hmakes
  refine ⟨_, hmakes, fun f hfa => ?_, onlyChanges_regs _ _ _ fun f hfa => ?_⟩
  · simp [regGet_regSetFields, hfa]
  · simp [regGet_regSetFields, hfa]

/-- A write of a word without a field, or of read-only fields, changes nothing. -/
theorem registerWrite_ro (s : State) (a v : Nat) (hr : s.dev.ready = true) (h4 : a % 4 = 0) (ha : a < 2 ^ 23)
    (hv : v < 2 ^ 32) (hm : inMsix a = false) (hro : ∀ f ∈ fieldsAt a, f.row.spec.access = .ro ∧ f.row ≠ .calSel) :
    MakesThenRuns (.registerWrite a v) s s.dev := by
  have hmakes := exec_registerWrite_fields a v s hr h4 ha hv hm (writeFault_ro s.dev _ v hro)
  rwa [writeFields_ro _ _ _ fun f hf => (hro f hf).1] at hmakes

/-- A write of vector control that clears the mask of a vector sends the message kept pending. -/
theorem registerWrite_unmask (s : State) (a v : Nat) (hr : s.dev.ready = true) (h4 : a % 4 = 0) (hv : v < 2 ^ 32)
    (hm : inMsix a = true) (hp : (a - 0x180000) / 16 ∈ s.dev.msixPending) (hc : a % 16 = 12)
    (hopen : v.testBit 0 = false) :
    ∃ d, Makes (.registerWrite a v) s d ∧ d.out = s.dev.out ++ [s.dev.msixMsg ((a - 0x180000) / 16)] ∧
      (a - 0x180000) / 16 ∉ d.msixPending ∧ s.dev.OnlyChanges d [] [] [.msix, .out] := by
  have hlow : 0x180000 ≤ a := (of_decide_eq_true hm).1
  have hmakes := exec_registerWrite_msix a v s hr h4 hv hm
  rw [writeMsix_unmask s.dev a v _ (by omega) hp hopen] at hmakes
  exact ⟨_, hmakes, rfl, by simp, onlyChanges_msix_out _ _ _ _⟩

/-- The low word of a pair takes effect with its high word. -/
theorem writeField_pair (d : Dev) (r hi : Row) (ix : List Nat) (x y : Nat) (hp : pairHi r = some hi)
    (ho : r.spec.own = false) (hho : hi.spec.own = false) (hrw : r.spec.access = .rw) (hhrw : hi.spec.access = .rw)
    (hn : pairHi hi = none) (hlo : pairLo hi = some r) (hne : r ≠ hi) :
    (d.writeField ⟨r, ix⟩ x).regs = d.regs ∧
    ((d.writeField ⟨r, ix⟩ x).writeField ⟨hi, ix⟩ y).rd r ix = x % 2 ^ r.spec.width ∧
    ((d.writeField ⟨r, ix⟩ x).writeField ⟨hi, ix⟩ y).rd hi ix = y % 2 ^ hi.spec.width := by
  have hlow := writeField_low d r hi ix x hp ho hrw
  have hheld : tfind (d.writeField ⟨r, ix⟩ x).lowHeld (Fld.addr ⟨r, ix⟩) = some x := by rw [hlow]; simp
  rw [writeField_high _ r hi ix x y hn hlo hho hhrw hheld]
  refine ⟨by rw [hlow], ?_, by simp⟩
  rw [rd_wr, if_neg fun h => hne h.1]
  exact (rd_wr _ r r ix ix x).trans (if_pos ⟨rfl, rfl⟩)

/-- Bits that no field covers read 0. -/
theorem readWord_uncovered (d : Dev) (ev : Tab Src) (a bit : Nat) (hr : d.ready = true) (hm : inMsix a = false)
    (hp : inPba a = false)
    (hapart : (fieldsAt a).Pairwise fun f g => f.lsb + f.row.spec.width ≤ g.lsb ∨ g.lsb + g.row.spec.width ≤ f.lsb)
    (hmiss : ∀ f ∈ fieldsAt a, f.Misses bit) : (d.readWord ev a).testBit bit = false := by
  have hfree : ∀ f ∈ fieldsAt a, ∀ b, (0 : Nat).testBit b = true → f.Misses b := fun f _ b hb => by simp at hb
  rw [readWord_ready d ev a hr hm hp]
  exact testBit_foldl_fields _ (readField_lt d ev) bit _ 0 hapart hfree hmiss (Nat.zero_testBit bit)

/-- Until BAR0 works every word but that of GLOBAL.STATUS.BOOT reads 0, and in D3hot that one too. -/
theorem readWord_not_ready_zero (d : Dev) (ev : Tab Src) (a : Nat) (hr : d.ready = false)
    (h : d.pcie.d3hot = true ∨ ∀ f ∈ fieldsAt a, f.row ≠ .glBoot) : d.readWord ev a = 0 := by
  cases hd : d.pcie.d3hot with
  | true => exact readWord_d3hot d ev a hd
  | false =>
    have hno : ∀ f ∈ fieldsAt a, f.row ≠ .glBoot := h.resolve_left (by simp [hd])
    have hnil : ((fieldsAt a).filter fun f => f.row == .glBoot) = [] := by simpa using hno
    rw [readWord_not_ready d ev a hr hd, hnil]
    rfl

theorem readWord_zero_not_ready (d : Dev) (ev : Tab Src) (hr : d.ready = false) (hd : d.pcie.d3hot = false) :
    d.readWord ev 0 = d.rd .glBoot % 4 := by
  have hlsb : Fld.lsb ⟨.glBoot, []⟩ = 0 := rfl
  rw [readWord_not_ready d ev 0 hr hd, bootField_at_zero]
  simp [readField_boot, hlsb]

/-- Settles O50: each clause by the lemma of its case. The fields of a word do not have to be distinct for the first. -/
theorem registerWritesStoreTheirFields : Obligations.RegisterWritesStoreTheirFields := by
  unfold Obligations.RegisterWritesStoreTheirFields
  refine ⟨?plain, ?ro, ?msix, ?notReady, ?badAccess, ?w1c, ?pair, ?writeOnly, ?channel, ?uncovered, ?zero, ?boot⟩
  case plain =>
    intro s a v hr h4 ha hv hm hf hplain _
    exact registerWrite_plain s a v hr h4 ha hv hm hf hplain
  case ro => exact registerWrite_ro
  case msix =>
    intro s a v hr h4 hv hm
    refine ⟨fun hp => ?_, registerWrite_unmask s a v hr h4 hv hm⟩
    rw [← writeMsix_not_pending s.dev a v hp]
    exact exec_registerWrite_msix a v s hr h4 hv hm
  case notReady => exact fun s a v => exec_registerWrite_not_ready a v s
  case badAccess => exact fun s a v => exec_registerWrite_bad_access a v s
  case w1c => exact fun d f ho h => ⟨writeField_w1c_zero d f h, writeField_w1c_one d f ho h⟩
  case pair => exact writeField_pair
  case writeOnly => exact readField_writeOnly
  case channel =>
    intro d ev f v hc hrw ho hm hd
    exact ⟨readField_writeField_rc d ev f v hc hrw ho hm hd, by rw [writeField_rc d f v hc ho hrw]; rfl⟩
  case uncovered => exact readWord_uncovered
  case zero => exact readWord_not_ready_zero
  case boot => exact readWord_zero_not_ready

end Sys2Proof.Machine
end

section
/-! SUPPORT. What a device only changes: the relation `Dev.OnlyChanges` along a chain of updates, and each named update as
one link of such a chain. -/

namespace Sys2Proof.Machine

/-! ### Chains -/

theorem Table.Same.trans {t : Table} {d e g : Dev} {k : Nat} (h : t.Same d e k) (h' : t.Same e g k) : t.Same d g k := by
  cases t <;> exact Eq.trans h' h

theorem Part.Same.trans {p : Part} {d e g : Dev} (h : p.Same d e) (h' : p.Same e g) : p.Same d g := by
  cases p <;> simp_all [Part.Same]

theorem Part.Same.refl (p : Part) (d : Dev) : p.Same d d := by
  cases p <;> simp [Part.Same]

section
variable {d e g : Dev} {fs gs : List Fld} {es ts : List (Table × Nat)} {ps qs : List Part}

theorem Dev.OnlyChanges.trans (h : d.OnlyChanges e fs es ps) (h' : e.OnlyChanges g fs es ps) :
    d.OnlyChanges g fs es ps := by
  obtain ⟨hf, ht, hp⟩ := h
  obtain ⟨hf', ht', hp'⟩ := h'
  exact ⟨fun f hm => (hf' f hm).trans (hf f hm), fun t k hm => (ht t k hm).trans (ht' t k hm),
    fun p hm => (hp p hm).trans (hp' p hm)⟩

theorem Dev.OnlyChanges.mono (h : d.OnlyChanges e fs es ps) (hf : fs ⊆ gs) (ht : es ⊆ ts) (hp : ps ⊆ qs) :
    d.OnlyChanges e gs ts qs :=
  ⟨fun f hm => h.1 f fun m => hm (hf m), fun t k hm => h.2.1 t k fun m => hm (ht m), fun p hm => h.2.2 p fun m => hm (hp m)⟩

theorem onlyChanges_refl (d : Dev) (fs : List Fld) (es : List (Table × Nat)) (ps : List Part) : d.OnlyChanges d fs es ps :=
  ⟨fun _ _ => rfl, fun t _ _ => by cases t <;> rfl, fun p _ => .refl p d⟩

/-! ### Links -/

theorem onlyChanges_wr (d : Dev) (r : Row) (ix : List Nat) (v : Nat) (h : ⟨r, ix⟩ ∈ fs) :
    d.OnlyChanges (d.wr r ix v) fs es ps := by
  refine (onlyChanges_regs d _ fs fun f hf => ?_).mono (List.Subset.refl fs) (List.nil_subset es) (List.nil_subset ps)
  have hne : f ≠ ⟨r, ix⟩ := fun he => hf (he ▸ h)
  simp [regGet_regSet, hne]

theorem onlyChanges_updSq (d : Dev) (r : Nat) (f : SqState → SqState) (h : (.sq, r) ∈ es) :
    d.OnlyChanges (d.updSq r f) fs es ps := by
  refine ⟨fun _ _ => rfl, fun t k hk => ?_, fun p _ => ?_⟩
  · cases t
    case sq =>
      have hne : k ≠ r := fun he => hk (he ▸ h)
      simp [Table.Same, Dev.sqS, Dev.updSq, hne]
    all_goals rfl
  · cases p <;> simp [Part.Same, Dev.updSq]

theorem onlyChanges_updCq (d : Dev) (c : Nat) (f : CqState → CqState) (h : (.cq, c) ∈ es) :
    d.OnlyChanges (d.updCq c f) fs es ps := by
  refine ⟨fun _ _ => rfl, fun t k hk => ?_, fun p _ => ?_⟩
  · cases t
    case cq =>
      have hne : k ≠ c := fun he => hk (he ▸ h)
      simp [Table.Same, Dev.cqS, Dev.updCq, hne]
    all_goals rfl
  · cases p <;> simp [Part.Same, Dev.updCq]

theorem onlyChanges_updPk (d : Dev) (p : Nat) (f : Pk → Pk) (h : (.pk, p) ∈ es) :
    d.OnlyChanges (d.updPk p f) fs es ps := by
  refine ⟨fun _ _ => rfl, fun t k hk => ?_, fun q _ => ?_⟩
  · cases t
    case pk =>
      have hne : k ≠ p := fun he => hk (he ▸ h)
      simp [Table.Same, Dev.pkS, Dev.updPk, hne]
    all_goals rfl
  · cases q <;> simp [Part.Same, Dev.updPk]

theorem onlyChanges_updServo (d : Dev) (p : Nat) (f : Servo → Servo) (h : (.servo, p) ∈ es) :
    d.OnlyChanges (d.updServo p f) fs es ps := by
  refine ⟨fun _ _ => rfl, fun t k hk => ?_, fun q _ => ?_⟩
  · cases t
    case servo =>
      have hne : k ≠ p := fun he => hk (he ▸ h)
      simp [Table.Same, Dev.servoS, Dev.updServo, hne]
    all_goals rfl
  · cases q <;> simp [Part.Same, Dev.updServo]

theorem onlyChanges_emit (d : Dev) (m : Msg) (h : .out ∈ ps) : d.OnlyChanges (d.emit m) fs es ps := by
  refine ⟨fun _ _ => rfl, fun t k _ => by cases t <;> rfl, fun p hp => ?_⟩
  cases p
  case out => exact absurd h hp
  all_goals simp [Part.Same, Dev.emit]

theorem onlyChanges_raise (d : Dev) (src code : Nat) (b : Bytes) (h : .raised ∈ ps) :
    d.OnlyChanges (d.raise src code b) fs es ps := by
  refine ⟨fun _ _ => rfl, fun t k _ => by cases t <;> rfl, fun p hp => ?_⟩
  cases p
  case raised => exact absurd h hp
  all_goals simp [Part.Same, Dev.raise]

theorem onlyChanges_updBoot (d : Dev) (f : Boot → Boot) (h : .boot ∈ ps) : d.OnlyChanges (d.updBoot f) fs es ps := by
  refine ⟨fun _ _ => rfl, fun t k _ => by cases t <;> rfl, fun p hp => ?_⟩
  cases p
  case boot => exact absurd h hp
  all_goals simp [Part.Same, Dev.updBoot]

theorem onlyChanges_updPins (d : Dev) (f : Pins → Pins) (h : .pins ∈ ps) : d.OnlyChanges (d.updPins f) fs es ps := by
  refine ⟨fun _ _ => rfl, fun t k _ => by cases t <;> rfl, fun p hp => ?_⟩
  cases p
  case pins => exact absurd h hp
  all_goals simp [Part.Same, Dev.updPins]

theorem onlyChanges_time (d : Dev) (n : Nat) (h : .time ∈ ps) : d.OnlyChanges { d with time := n } fs es ps := by
  refine ⟨fun _ _ => rfl, fun t k _ => by cases t <;> rfl, fun p hp => ?_⟩
  cases p
  case time => exact absurd h hp
  all_goals simp [Part.Same]

theorem onlyChanges_cmds (d : Dev) (l : List Cmd) (n : Nat) (h : .cmds ∈ ps) :
    d.OnlyChanges { d with cmds := l, nextSerial := n } fs es ps := by
  refine ⟨fun _ _ => rfl, fun t k _ => by cases t <;> rfl, fun p hp => ?_⟩
  cases p
  case cmds => exact absurd h hp
  all_goals simp [Part.Same]

end

/-! ### An empty queue (O2) -/

/-- Settles O2: the step is `State.tick`, which sets the time alone. -/
theorem emptyQueueCountsTime : Obligations.EmptyQueueCountsTime := by
  unfold Obligations.EmptyQueueCountsTime
  intro s hs
  have hstep : step s = .next s.tick := by simp [step, hs]
  exact ⟨s.tick, hstep, rfl, rfl, rfl, hs, onlyChanges_time s.dev _ (by simp)⟩

end Sys2Proof.Machine
end

section
/-! SUPPORT. The short commands of a ring (O10): a descriptor that starts, and what ends it. -/

namespace Sys2Proof.Machine

/-! ### A descriptor starts -/

/-- A descriptor that may start does, and its effect is `k`. -/
theorem makesThenRuns_of_mayStart {i : Instr} {s : State} {r : Nat} {c : Cmd} {k : Dev → Origin → Dev}
    (hi : exec i s = descriptor r c s k) (h : s.dev.mayStart r) :
    MakesThenRuns i s (k (s.dev.started r c) (s.dev.nextOrigin r)) :=
  hi.trans (descriptor_starts r c s k h.1 h.2)

/-- The command that `Dev.started` puts in flight. -/
def Dev.startedCmd (d : Dev) (r : Nat) (c : Cmd) : Cmd :=
  { c with origin := d.nextOrigin r, start := d.time, serial := d.nextSerial }

theorem started_cmds (d : Dev) (r : Nat) (c : Cmd) : (d.started r c).cmds = d.cmds ++ [d.startedCmd r c] := rfl

theorem started_rd (d : Dev) (r : Nat) (c : Cmd) (f : Row) (ix : List Nat) : (d.started r c).rd f ix = d.rd f ix := rfl

theorem started_sqS (d : Dev) (r : Nat) (c : Cmd) :
    (d.started r c).sqS r = { d.sqS r with started := ((d.sqS r).started + 1) % 2 ^ 32 } := by
  simp [Dev.started, Dev.noteNeed, Dev.enlist, Dev.sqS, Dev.updSq]

/-- With nothing else in flight the command that started is the one of its origin. -/
theorem started_cmd (d : Dev) (r : Nat) (c : Cmd) (h : d.cmds = []) :
    (d.started r c).cmd (d.nextOrigin r) = some (d.startedCmd r c) := by
  simp [Dev.cmd, started_cmds, h, Dev.startedCmd]

/-- A self-test takes no note of a command that uses nothing of its item's (R413). -/
theorem noteNeed_eq (d : Dev) (op : Nat) (h : itemNeeds (d.rd .svStItem) op = false) : d.noteNeed op = d := by
  simp [Dev.noteNeed, h]

/-- A CATALOG_READ uses nothing of any self-test item's (R413). -/
theorem itemNeeds_catalogRead (item : Nat) : itemNeeds item 0x0B = false := by
  unfold itemNeeds
  split <;> decide

theorem onlyChanges_started (d : Dev) (r : Nat) (c : Cmd) (h : itemNeeds (d.rd .svStItem) c.op = false)
    {fs : List Fld} {es : List (Table × Nat)} {ps : List Part} (hr : (.sq, r) ∈ es) (hc : .cmds ∈ ps) :
    d.OnlyChanges (d.started r c) fs es ps := by
  have hnote : d.started r c = ((d.updSq r fun q => { q with started := ((d.sqS r).started + 1) % 2 ^ 32 }).enlist
      { c with origin := .ring r (d.sqS r).started }) := noteNeed_eq _ _ h
  rw [hnote]
  exact (onlyChanges_updSq d r _ hr).trans (onlyChanges_cmds _ _ _ hc)

/-! ### A ring's command ends -/

theorem sqS_updCq (d : Dev) (c r : Nat) (f : CqState → CqState) : (d.updCq c f).sqS r = d.sqS r := rfl

theorem out_updCq (d : Dev) (c : Nat) (f : CqState → CqState) : (d.updCq c f).out = d.out := rfl

/-- The device after the command of origin `o` has left those in flight. -/
theorem finish_ring (d : Dev) (r seq cls det res : Nat) (c : Cmd) (h : d.cmd (.ring r seq) = some c) :
    d.finish (.ring r seq) cls det res =
      ({ d with cmds := d.cmds.filter fun x => x.origin != .ring r seq } : Dev).updCq (d.rd .sqCq [r]) fun q =>
        { q with waiting := q.waiting ++ [{ ring := r, seq := seq, cookie := c.cookie, cls := cls, detail := det,
                                            op := c.op, result := res }] } := by
  simp only [Dev.finish, h]
  rfl

theorem onlyChanges_finish_ring (d : Dev) (r seq cls det res : Nat) (c : Cmd) (h : d.cmd (.ring r seq) = some c)
    {fs : List Fld} {es : List (Table × Nat)} {ps : List Part} (hq : (.cq, d.rd .sqCq [r]) ∈ es) (hc : .cmds ∈ ps) :
    d.OnlyChanges (d.finish (.ring r seq) cls det res) fs es ps := by
  rw [finish_ring d r seq cls det res c h]
  exact (onlyChanges_cmds d _ d.nextSerial hc).trans (onlyChanges_updCq _ _ _ hq)

/-! ### A fence of scope DONE (R36) -/

/-- A fence of scope DONE that is the one command in flight is satisfied once no BAR2 write waits. -/
theorem fenceSatisfied_alone (s : State) (r : Fin 256) (c : Cmd) (hc : s.dev.cmds = [c]) (hop : c.op = 0x03)
    (ho : c.origin.sameQueue (.ring r 0) = true) (ha : c.arg = 1) (hw : s.dev.bar2Waiting = []) :
    MakesThenRuns (.fenceSatisfied r) s (s.dev.finish c.origin clsOk 0) := by
  have hfind : (s.dev.cmds.find? fun c => c.op == 0x03 && c.origin.sameQueue (.ring r 0)) = some c := by
    simp [hc, hop, ho]
  have hdone : s.dev.fenceDone c.origin = true := by simp [Dev.fenceDone, hc]
  have h0 : Nat.testBit 1 0 = true := by decide
  have h1 : Nat.testBit 1 1 = false := by decide
  have h2 : Nat.testBit 1 2 = false := by decide
  change execFenceSatisfied r s = _
  simp only [execFenceSatisfied, serve_eq, hfind, ha, h0, h1, h2, hdone, hw]
  simp

/-! ### A read of the ring's own deferred log (R344) -/

/-- The device after the first n entries of ring r's deferred log have been taken from it and written to `addr`. -/
def Dev.logTaken (d : Dev) (r n addr : Nat) : Dev :=
  let left := (d.sqS r).deferred.drop n
  let d' := (d.updSq r fun q => { q with deferred := left, unread := !left.isEmpty }).wr .sqDeferCount [r] left.length
  if n = 0 then d' else d'.emit (.hostWrite addr (((d.sqS r).deferred.take n).flatMap Deferred.bytes) true)

theorem readLog_own (d : Dev) (o : Origin) (r : Nat) (c : Cmd) (h : d.cmd o = some c) :
    d.readLog o r none = (d.logTaken r (min (c.len / 32) (d.sqS r).deferred.length) c.addr).finish o clsOk 0
      (reportResult (32 * min (c.len / 32) (d.sqS r).deferred.length) (32 * (d.sqS r).deferred.length)) := by
  simp only [Dev.readLog, h, Dev.logTaken]

theorem logTaken_cmds (d : Dev) (r n addr : Nat) : (d.logTaken r n addr).cmds = d.cmds := by
  unfold Dev.logTaken
  split <;> simp

theorem logTaken_cmd (d : Dev) (r n addr : Nat) (o : Origin) : (d.logTaken r n addr).cmd o = d.cmd o := by
  simp [Dev.cmd, logTaken_cmds]

theorem logTaken_deferred (d : Dev) (r n addr : Nat) :
    ((d.logTaken r n addr).sqS r).deferred = (d.sqS r).deferred.drop n := by
  unfold Dev.logTaken
  split <;> simp [Dev.sqS, Dev.updSq]

theorem logTaken_out (d : Dev) (r n addr : Nat) : (d.logTaken r n addr).out = d.out ++
    if n = 0 then [] else [.hostWrite addr (((d.sqS r).deferred.take n).flatMap Deferred.bytes) true] := by
  unfold Dev.logTaken
  split <;> simp [Dev.emit]

theorem logTaken_sqCq (d : Dev) (r n addr : Nat) : (d.logTaken r n addr).rd .sqCq [r] = d.rd .sqCq [r] := by
  unfold Dev.logTaken
  split <;> exact (rd_wr _ _ _ _ _ _).trans (if_neg (by simp))

theorem onlyChanges_logTaken (d : Dev) (r n addr : Nat) {fs : List Fld} {es : List (Table × Nat)} {ps : List Part}
    (hf : ⟨.sqDeferCount, [r]⟩ ∈ fs) (hr : (.sq, r) ∈ es) (ho : .out ∈ ps) :
    d.OnlyChanges (d.logTaken r n addr) fs es ps := by
  unfold Dev.logTaken
  have hboth := (onlyChanges_updSq (fs := fs) (ps := ps) d r
    (fun q => { q with deferred := (d.sqS r).deferred.drop n, unread := !((d.sqS r).deferred.drop n).isEmpty }) hr).trans
    (onlyChanges_wr _ .sqDeferCount [r] ((d.sqS r).deferred.drop n).length hf)
  split
  · exact hboth
  · exact hboth.trans (onlyChanges_emit _ _ ho)

/-- The descriptor of a CATALOG_READ of the deferred log. -/
def logReadCmd (r cookie buf len : Nat) : Cmd := { origin := .ring r 0, op := 0x0B, cookie := cookie, addr := buf, len := len }

theorem readLog_started (d : Dev) (r cookie buf len n : Nat) (hc : d.cmds = []) (hn : n = min (len / 32) (d.sqS r).deferred.length) :
    (d.started r (logReadCmd r cookie buf len)).readLog (d.nextOrigin r) r none =
      ((d.started r (logReadCmd r cookie buf len)).logTaken r n buf).finish (.ring r (d.sqS r).started) clsOk 0
        (reportResult (32 * n) (32 * (d.sqS r).deferred.length)) := by
  have hlog : ((d.started r (logReadCmd r cookie buf len)).sqS r).deferred = (d.sqS r).deferred := by rw [started_sqS]
  have hmin : min ((d.startedCmd r (logReadCmd r cookie buf len)).len / 32) (d.sqS r).deferred.length = n := hn.symm
  rw [readLog_own _ _ r _ (started_cmd d r _ hc), hlog, hmin]
  rfl

/-- A CATALOG_READ of the deferred log of its own ring, with nothing else in flight. -/
theorem deferredLogRead_alone (s : State) (r : Fin 256) (cookie buf len n : Nat) (hs : s.dev.mayStart r)
    (hc : s.dev.cmds = []) (hn : n = min (len / 32) (s.dev.sqS r).deferred.length) :
    ∃ d, MakesThenRuns (.deferredLogRead r cookie none buf len) s d ∧
      (d.sqS r).deferred = (s.dev.sqS r).deferred.drop n ∧
      d.out = s.dev.out ++
        (if n = 0 then [] else [.hostWrite buf (((s.dev.sqS r).deferred.take n).flatMap Deferred.bytes) true]) ∧
      d.cmds = [] ∧
      s.dev.OnlyChanges d [⟨.sqDeferCount, [r.val]⟩] [(.sq, r.val), (.cq, s.dev.rd .sqCq [r.val])] [.cmds, .out] := by
  have hmakes : MakesThenRuns (.deferredLogRead r cookie none buf len) s
      ((s.dev.started r (logReadCmd r cookie buf len)).readLog (s.dev.nextOrigin r) r none) :=
    makesThenRuns_of_mayStart (c := logReadCmd r cookie buf len) (k := fun d o => d.readLog o r none) rfl hs
  rw [readLog_started s.dev r cookie buf len n hc hn] at hmakes
  have hneeds : itemNeeds (s.dev.rd .svStItem) (logReadCmd r cookie buf len).op = false := itemNeeds_catalogRead _
  have hstart := onlyChanges_started s.dev r (logReadCmd r cookie buf len) hneeds (fs := [⟨.sqDeferCount, [r.val]⟩])
    (es := [(.sq, r.val), (.cq, s.dev.rd .sqCq [r.val])]) (ps := [.cmds, .out]) (by simp) (by simp)
  have hcmd := started_cmd s.dev r (logReadCmd r cookie buf len) hc
  have hlog : ((s.dev.started r (logReadCmd r cookie buf len)).sqS r).deferred = (s.dev.sqS r).deferred := by
    rw [started_sqS]
  have hcq : (s.dev.started r (logReadCmd r cookie buf len)).rd .sqCq [r.val] = s.dev.rd .sqCq [r.val] := rfl
  have hcmds : (s.dev.started r (logReadCmd r cookie buf len)).cmds =
      [s.dev.startedCmd r (logReadCmd r cookie buf len)] := by rw [started_cmds, hc]; rfl
  have hout : (s.dev.started r (logReadCmd r cookie buf len)).out = s.dev.out := rfl
  generalize s.dev.started r (logReadCmd r cookie buf len) = e at *
  have hcmd' := (logTaken_cmd e r n buf _).trans hcmd
  have hend := finish_ring (e.logTaken r n buf) r _ clsOk 0
    (reportResult (32 * n) (32 * (s.dev.sqS r).deferred.length)) _ hcmd'
  refine ⟨_, hmakes, ?log, ?out, ?cmds, ?frame⟩
  case log => rw [hend, sqS_updCq]; exact (logTaken_deferred e r n buf).trans (by rw [hlog])
  case out => rw [hend, out_updCq]; exact (logTaken_out e r n buf).trans (by rw [hlog, hout])
  case cmds => simp [hend, logTaken_cmds, hcmds, Dev.startedCmd, Dev.nextOrigin]
  case frame =>
    refine hstart.trans <| (onlyChanges_logTaken e r n buf (by simp) (by simp) (by simp)).trans ?_
    refine onlyChanges_finish_ring _ r _ _ _ _ _ hcmd' ?_ (by simp)
    rw [logTaken_sqCq, hcq]
    simp

/-- Settles O10: a descriptor that starts is executed (`descriptor_starts`), and each of these ends in its own step. -/
theorem shortRingCommandsComplete : Obligations.ShortRingCommandsComplete := by
  unfold Obligations.ShortRingCommandsComplete
  refine ⟨?fence, ?unknown, ?reset, fenceSatisfied_alone, deferredLogRead_alone⟩
  case fence =>
    intro s r cookie hs
    exact makesThenRuns_of_mayStart (i := .fence r cookie 0) (k := fun d o => d.finish o clsOk 0) rfl hs
  case unknown =>
    intro s r cookie op hs
    exact makesThenRuns_of_mayStart (i := .unknownOpcode r cookie op)
      (k := fun d o => d.refuse o clsDevice detUnknownOpcode) rfl hs
  case reset =>
    intro s r cookie t tail hs hbad
    have hbad' : r.val ≠ 0 ∨ t = 0 ∨ 255 < t := hbad.imp (fun h h0 => h (Fin.ext h0)) .inl
    have hexec : exec (.queueReset r cookie t tail) s = descriptor r
        { origin := .ring r 0, op := 0x38, cookie := cookie, arg := t } s fun d o => d.refuse o clsDevice detAdminOnly := by
      change execQueueReset r cookie t tail s = _
      simp only [execQueueReset, if_pos hbad']
    have hmakes := makesThenRuns_of_mayStart hexec hs
    exact hmakes

end Sys2Proof.Machine
end

section
/-! SUPPORT. What an update of a device keeps: folds, and the records of pickups and servos after an update of one of them. -/

namespace Sys2Proof.Machine

/-- What each step of a fold keeps, the fold keeps. -/
theorem foldl_kept {α β γ : Type} (P : α → γ) (f : α → β → α) (h : ∀ a b, P (f a b) = P a) (l : List β) (a : α) :
    P (l.foldl f a) = P a := by
  induction l generalizing a with
  | nil => rfl
  | cons b l ih => exact (ih (f a b)).trans (h a b)

theorem pkS_updPk (d : Dev) (p q : Nat) (f : Pk → Pk) :
    (d.updPk p f).pkS q = if q = p then f (d.pkS p) else d.pkS q := by
  simp [Dev.pkS, Dev.updPk]

theorem pkS_updPk_self (d : Dev) (p : Nat) (f : Pk → Pk) : (d.updPk p f).pkS p = f (d.pkS p) := by
  simp [pkS_updPk]

theorem pkS_updServo (d : Dev) (p q : Nat) (f : Servo → Servo) : (d.updServo p f).pkS q = d.pkS q := rfl

theorem pkS_wr (d : Dev) (r : Row) (ix : List Nat) (v q : Nat) : (d.wr r ix v).pkS q = d.pkS q := rfl

theorem pkS_raisePk (d : Dev) (p sub code : Nat) (b : Bytes) (q : Nat) : (d.raisePk p sub code b).pkS q = d.pkS q := rfl

theorem on_raisePk (d : Dev) (p sub code : Nat) (b : Bytes) (r : Row) (ix : List Nat) :
    (d.raisePk p sub code b).on r ix = d.on r ix := rfl

theorem raised_raisePk (d : Dev) (p sub code : Nat) (b : Bytes) :
    (d.raisePk p sub code b).raised = d.raised ++ [⟨32 * p + sub, code, b⟩] := rfl

theorem servoS_updServo (d : Dev) (p q : Nat) (f : Servo → Servo) :
    (d.updServo p f).servoS q = if q = p then f (d.servoS p) else d.servoS q := by
  simp [Dev.servoS, Dev.updServo]

end Sys2Proof.Machine
end

section
/-! SUPPORT. The rail marks (O35): the counts of marks and the stages of a capture and a jump, which the work done at a mark
leaves alone. -/

namespace Sys2Proof.Machine

/-- Of pickup p: the counts of good and missed marks, the last mark, and the stages of a focus capture and a layer jump. -/
def Dev.railState (d : Dev) (p : Nat) : Nat × Nat × Option Mark × Option FocusCap × Option Jump :=
  ((d.pkS p).goodMarks, (d.pkS p).missedMarks, (d.pkS p).lastMark, (d.servoS p).cap, (d.servoS p).jump)

theorem railState_congr {d e : Dev} (hp : e.pk = d.pk) (hs : e.servo = d.servo) (q : Nat) :
    e.railState q = d.railState q := by
  simp [Dev.railState, Dev.pkS, Dev.servoS, hp, hs]

theorem railState_updPk (d : Dev) (p q : Nat) (f : Pk → Pk)
    (hf : ∀ k, (f k).goodMarks = k.goodMarks ∧ (f k).missedMarks = k.missedMarks ∧ (f k).lastMark = k.lastMark := by
      exact fun _ => ⟨rfl, rfl, rfl⟩) :
    (d.updPk p f).railState q = d.railState q := by
  have hs : (d.updPk p f).servoS q = d.servoS q := by simp [Dev.servoS]
  by_cases h : q = p
  · subst h
    simp [Dev.railState, hs, pkS_updPk, hf]
  · simp [Dev.railState, hs, pkS_updPk, h]

theorem railState_updServo (d : Dev) (p q : Nat) (f : Servo → Servo)
    (hf : ∀ k, (f k).cap = k.cap ∧ (f k).jump = k.jump := by exact fun _ => ⟨rfl, rfl⟩) :
    (d.updServo p f).railState q = d.railState q := by
  have hs : (d.updServo p f).pkS q = d.pkS q := by simp [Dev.pkS]
  by_cases h : q = p
  · subst h
    simp [Dev.railState, hs, servoS_updServo, hf]
  · simp [Dev.railState, hs, servoS_updServo, h]

theorem railState_emit (d : Dev) (m : Msg) (q : Nat) : (d.emit m).railState q = d.railState q := railState_congr rfl rfl q

theorem railState_openGate (d : Dev) (p q : Nat) : (d.openGate p).railState q = d.railState q := by
  unfold Dev.openGate
  split
  · exact railState_congr (by simp) (by simp) q
  · rfl

theorem railState_wedgeEnd (d : Dev) (p q : Nat) : (d.wedgeEnd p).railState q = d.railState q := by
  refine (railState_openGate _ p q).trans <| (railState_updPk _ _ _ _).trans <| (railState_updServo _ _ _ _).trans ?_
  split
  · exact railState_congr (by simp) (by simp) q
  · rfl

theorem railState_learnRro (d : Dev) (p x w q : Nat) : (d.learnRro p x w).railState q = d.railState q := by
  unfold Dev.learnRro
  simp only []
  split <;> exact railState_congr (by simp) (by simp) q

theorem railState_passMark (d : Dev) (p a q : Nat) : (d.passMark p a).railState q = d.railState q := by
  refine (railState_updServo _ _ _ _).trans ?_
  split
  · rfl
  · refine (railState_updServo _ _ _ _).trans ?_
    refine (foldl_kept (fun d : Dev => d.railState q) _ (fun d x => railState_learnRro d p x _ q) _ _).trans ?_
    split
    · rfl
    · exact railState_wedgeEnd d p q

theorem railState_applyRc (d : Dev) (p : Nat) (starts : Nat → Bool) (since : RcWrite → Bool) (q : Nat) :
    (d.applyRc p starts since).railState q = d.railState q := by
  unfold Dev.applyRc
  simp only []
  split
  · rfl
  · refine (railState_updPk _ _ _ _).trans ?_
    exact foldl_kept (fun d : Dev => d.railState q) _ (fun d e => railState_congr (by simp) (by simp) q) _ _

theorem railState_setEqualiser (d : Dev) (p r q : Nat) : (d.setEqualiser p r).railState q = d.railState q :=
  railState_updPk _ _ _ _

theorem railState_rowBegins (d : Dev) (p q : Nat) : (d.rowBegins p).railState q = d.railState q := by
  unfold Dev.rowBegins
  simp only []
  split
  · rfl
  · refine (railState_updPk _ _ _ _).trans ?_
    split
    · rfl
    · rw [railState_setEqualiser, railState_applyRc]

theorem railState_stepBack (d : Dev) (p q : Nat) : (d.stepBack p).railState q = d.railState q := by
  unfold Dev.stepBack
  split
  · simp only []
    split
    · exact (railState_emit _ _ q).trans (railState_updServo _ _ _ _)
    · rfl
  · rfl

/-! ### A mark (R18, R52) -/

/-- A missed mark starts the count of good ones again and adds to that of missed ones. -/
theorem railState_missedMark (d : Dev) (p : Nat) : (d.missedMark p).railState p =
    (0, min 4 ((d.pkS p).missedMarks + 1), (d.pkS p).lastMark, (d.servoS p).cap, (d.servoS p).jump) := by
  have hcount : (d.updPk p fun k => { k with goodMarks := 0, missedMarks := min 4 (k.missedMarks + 1) }).railState p =
      (0, min 4 ((d.pkS p).missedMarks + 1), (d.pkS p).lastMark, (d.servoS p).cap, (d.servoS p).jump) := by
    simp [Dev.railState, pkS_updPk, Dev.servoS]
  unfold Dev.missedMark
  simp only []
  split
  · exact (railState_rowBegins _ p p).trans <| (railState_updServo _ _ _ _).trans <|
      (railState_passMark _ _ _ _).trans hcount
  · exact hcount

theorem missedMark_counts (d : Dev) (p : Nat) :
    ((d.missedMark p).pkS p).goodMarks = 0 ∧
      ((d.missedMark p).pkS p).missedMarks = min 4 ((d.pkS p).missedMarks + 1) := by
  have h := railState_missedMark d p
  simp only [Dev.railState, Prod.mk.injEq] at h
  exact ⟨h.1, h.2.1⟩

/-- A good mark has been counted and its place taken, before it is looked at for its layer. -/
def Dev.markTaken (d : Dev) (p : Nat) (m : Mark) : Dev :=
  let d := d.updPk p fun k => { k with
    goodMarks := min 8 (k.goodMarks + 1), missedMarks := 0, lastMark := some m, marked := true,
    bandFollowed := if d.closed p 1 then some m.band else k.bandFollowed,
    scoutMap := freshDefects m.band k.scoutMap }
  let d := d.wr .rcScoutCount [p] (d.pkS p).scoutMap.length
  (((d.passMark p m.angle).updServo p fun k => { k with expect := some m.next }).rowBegins p).stepBack p

theorem railState_markTaken (d : Dev) (p : Nat) (m : Mark) : (d.markTaken p m).railState p =
    (min 8 ((d.pkS p).goodMarks + 1), 0, some m, (d.servoS p).cap, (d.servoS p).jump) := by
  unfold Dev.markTaken
  simp only []
  refine (railState_stepBack _ p p).trans <| (railState_rowBegins _ p p).trans <| (railState_updServo _ _ _ _).trans <|
      (railState_passMark _ _ _ _).trans ?_
  simp [Dev.railState, Dev.pkS, Dev.servoS, Dev.updPk]

/-- With no capture and no jump under way, a good mark names the layer. -/
theorem goodMark_idle (d : Dev) (p : Nat) (m : Mark) (hc : (d.servoS p).cap = none) (hj : (d.servoS p).jump = none) :
    d.goodMark p m = (d.markTaken p m).updPk p fun q => { q with layer := m.layer } := by
  have h := railState_markTaken d p m
  simp only [Dev.railState, Prod.mk.injEq, hc, hj] at h
  obtain ⟨-, -, -, hcap, hjump⟩ := h
  have hgood : d.goodMark p m =
      let d := d.markTaken p m
      let k := d.servoS p
      if (k.cap.map FocusCap.step) = some CapStep.identify then d.identified p m.layer
      else if k.jump.isNone ∧ k.cap.isNone then d.updPk p fun q => { q with layer := m.layer }
      else d := rfl
  simp [hgood, hcap, hjump]

theorem goodMark_counts (d : Dev) (p : Nat) (m : Mark) (hc : (d.servoS p).cap = none) (hj : (d.servoS p).jump = none) :
    ((d.goodMark p m).pkS p).goodMarks = min 8 ((d.pkS p).goodMarks + 1) ∧ ((d.goodMark p m).pkS p).missedMarks = 0 ∧
      ((d.goodMark p m).pkS p).lastMark = some m ∧ ((d.goodMark p m).pkS p).layer = m.layer := by
  have h := railState_markTaken d p m
  simp only [Dev.railState, Prod.mk.injEq] at h
  obtain ⟨hgood, hmissed, hlast, -⟩ := h
  simp only [goodMark_idle d p m hc hj, pkS_updPk_self]
  exact ⟨hgood, hmissed, hlast, trivial⟩

/-! ### RAIL_ADDRESS_MARK -/

theorem railAddressMark_badCrc (s : State) (p : Fin 32) (near : Bool) (w : Nat) (h : railAddress w = none) :
    Makes (.railAddressMark p near w) s (s.dev.missedMark p) := by
  change execRailAddressMark p near w s = _
  simp only [execRailAddressMark, act_eq, h]

theorem railAddressMark_unexpected (s : State) (p : Fin 32) (w layer band angle : Nat) (e : Mark)
    (h : railAddress w = some (layer, band, angle)) (he : (s.dev.servoS p).expect = some e)
    (hne : e ≠ ⟨layer, band, angle⟩) : Makes (.railAddressMark p true w) s (s.dev.missedMark p) := by
  change execRailAddressMark p true w s = _
  simp [execRailAddressMark, act_eq, h, he, hne]

theorem railAddressMark_anchor (s : State) (p : Fin 32) (w layer band angle : Nat)
    (h : railAddress w = some (layer, band, angle)) (he : (s.dev.servoS p).expect = none) :
    Makes (.railAddressMark p true w) s (s.dev.goodMark p { layer := layer, band := band, angle := angle }) := by
  change execRailAddressMark p true w s = _
  simp [execRailAddressMark, act_eq, h, he]

end Sys2Proof.Machine
end

section
/-! SUPPORT. The lock of a rail and its loss (O35): the checks that a lock starts, and what an unlock ends. -/

namespace Sys2Proof.Machine

/-! ### MTO_LOCK (R17, R18, R208) -/

/-- The check of the deskew of an enabled spot begins. -/
def Dev.startCheck (d : Dev) (p sp : Nat) : Dev :=
  if d.spotOn p sp then (d.wr .rcDeskewStatus [p, sp] 1).updSpot p sp fun q => { q with check := 16, found := [] } else d

theorem startCheck_rd (d : Dev) (p sp : Nat) (r : Row) (ix : List Nat) (h : r ≠ .rcDeskewStatus) :
    (d.startCheck p sp).rd r ix = d.rd r ix := by
  unfold Dev.startCheck
  split
  · exact (rd_wr d .rcDeskewStatus r [p, sp] ix 1).trans (if_neg fun e => h e.1)
  · rfl

theorem startCheck_spotOn (d : Dev) (p sp x : Nat) : (d.startCheck p sp).spotOn p x = d.spotOn p x := by
  simp only [Dev.spotOn, startCheck_rd d p sp .pkLaserMask [p] (by simp)]

theorem startCheck_raised (d : Dev) (p sp : Nat) : (d.startCheck p sp).raised = d.raised := by
  unfold Dev.startCheck
  split <;> simp

/-- An enabled spot's status is 1 once its check has begun, and stays so while those of other spots begin. -/
theorem startCheck_status (d : Dev) (p sp x : Nat) (hon : d.spotOn p x = true)
    (h : x = sp ∨ d.rd .rcDeskewStatus [p, x] = 1) : (d.startCheck p sp).rd .rcDeskewStatus [p, x] = 1 := by
  by_cases hx : x = sp
  · subst hx
    rw [Dev.startCheck, if_pos hon]
    exact (rd_wr d .rcDeskewStatus .rcDeskewStatus [p, x] [p, x] 1).trans (if_pos ⟨rfl, rfl⟩)
  · have hold := h.resolve_left hx
    unfold Dev.startCheck
    split
    · exact (rd_wr d .rcDeskewStatus .rcDeskewStatus [p, sp] [p, x] 1).trans ((if_neg (by simp [hx])).trans hold)
    · exact hold

theorem startChecks_status (l : List Nat) (d : Dev) (p x : Nat) (hon : d.spotOn p x = true)
    (h : x ∈ l ∨ d.rd .rcDeskewStatus [p, x] = 1) :
    (l.foldl (fun (d : Dev) sp => d.startCheck p sp) d).rd .rcDeskewStatus [p, x] = 1 := by
  induction l generalizing d with
  | nil => exact h.resolve_left (by simp)
  | cons sp l ih =>
    refine ih (d.startCheck p sp) ((startCheck_spotOn d p sp x).trans hon) ?_
    rcases h with h | h
    · rcases List.mem_cons.1 h with hx | hx
      · exact .inr (startCheck_status d p sp x hon (.inl hx))
      · exact .inl hx
    · exact .inr (startCheck_status d p sp x hon (.inr h))

/-- The rail of pickup p is locked, with no check of the deskew begun yet. -/
def Dev.locked (d : Dev) (p : Nat) : Dev :=
  ((d.wr .pkMtoLock [p] 1).updPk p fun k => { k with marked := false }).updServo p fun k => { k with sinceLock := 0 }

theorem mtoLock_makes (s : State) (p : Fin 32) (hoff : s.dev.on .pkMtoLock [p.val] = false)
    (hgood : 8 ≤ (s.dev.pkS p).goodMarks) (hlow : 100000000 ≤ s.dev.channelRate p)
    (hhigh : s.dev.channelRate p ≤ 1600000000) :
    Makes (.mtoLock p) s ((((List.range 15).map (· + 1)).foldl (fun (d : Dev) sp => d.startCheck p sp) (s.dev.locked p)).updSpin
      (spindleOf p) fun k => { k with trying := true, mismatchPosted := false }) := by
  have hgood' : ¬ (s.dev.pkS p).goodMarks < 8 := by omega
  have hhigh' : ¬ 1600000000 < s.dev.channelRate p := by omega
  have hruns : s.dev.channelRuns p = true := by simp [Dev.channelRuns, hlow]
  have hgo : ¬ (s.dev.on .pkMtoLock [p.val] = true ∨ (s.dev.pkS p).goodMarks < 8 ∨ (!s.dev.channelRuns p) = true ∨
      1600000000 < s.dev.channelRate p) := by simp [hoff, hgood', hhigh', hruns]
  change execMtoLock p s = _
  simp only [execMtoLock, act_eq, if_neg hgo]
  rfl

/-- Eight good marks at a rate at which the channels operate lock the rail. -/
theorem mtoLock_locks (s : State) (p : Fin 32) (hoff : s.dev.on .pkMtoLock [p.val] = false)
    (hgood : 8 ≤ (s.dev.pkS p).goodMarks) (hlow : 100000000 ≤ s.dev.channelRate p)
    (hhigh : s.dev.channelRate p ≤ 1600000000) :
    ∃ d, Makes (.mtoLock p) s d ∧ d.on .pkMtoLock [p.val] = true ∧
      (∀ sp, 1 ≤ sp → sp ≤ 15 → s.dev.spotOn p sp = true → d.rd .rcDeskewStatus [p.val, sp] = 1) ∧
      d.raised = s.dev.raised := by
  refine ⟨_, mtoLock_makes s p hoff hgood hlow hhigh, ?lock, ?status, ?raised⟩
  case lock =>
    have hset : (s.dev.locked p).rd .pkMtoLock [p.val] = 1 :=
      (rd_wr s.dev .pkMtoLock .pkMtoLock [p.val] [p.val] 1).trans (if_pos ⟨rfl, rfl⟩)
    have hkept := (foldl_kept (fun d : Dev => d.rd .pkMtoLock [p.val]) (fun (d : Dev) sp => d.startCheck p sp)
      (fun d sp => startCheck_rd d p sp _ _ (by simp)) ((List.range 15).map (· + 1)) (s.dev.locked p)).trans hset
    exact beq_iff_eq.2 hkept
  case status =>
    intro sp h1 h15 hon
    have hmask : (s.dev.locked p).rd .pkLaserMask [p.val] = s.dev.rd .pkLaserMask [p.val] :=
      (rd_wr s.dev .pkMtoLock .pkLaserMask [p.val] [p.val] 1).trans (if_neg (by simp))
    have hon' : (s.dev.locked p).spotOn p sp = true := by rw [← hon, Dev.spotOn, Dev.spotOn, hmask]
    have hmem : sp ∈ (List.range 15).map (· + 1) := by
      simp only [List.mem_map, List.mem_range]
      exact ⟨sp - 1, by omega, by omega⟩
    exact startChecks_status _ (s.dev.locked p) p sp hon' (.inl hmem)
  case raised =>
    exact (foldl_kept Dev.raised (fun (d : Dev) sp => d.startCheck p sp) (fun d sp => startCheck_raised d p sp) _
      (s.dev.locked p)).trans (by simp [Dev.locked])

/-! ### Verify reads that are lost leave every other read as it is (R240) -/

/-- The verify reads of pickup q after those under way on pickup p are lost. -/
def Dev.verifyLost (d : Dev) (p q : Nat) : List VerifyDue :=
  if q = p then (d.pkS p).verify.map fun v => if d.stillVerifying p v then { v with lost := true } else v
  else (d.pkS q).verify

theorem pkS_loseVerify (d : Dev) (p q : Nat) :
    (d.loseVerify p).pkS q = { d.pkS q with verify := d.verifyLost p q } := by
  unfold Dev.loseVerify Dev.verifyLost
  rw [pkS_updPk]
  split
  · next h => subst h; rfl
  · rfl

theorem rowUnder_loseVerify (d : Dev) (p q : Nat) : (d.loseVerify p).rowUnder q = d.rowUnder q := by
  simp only [Dev.rowUnder, Dev.place, pkS_loseVerify]
  rfl

theorem channelRate_loseVerify (d : Dev) (p q : Nat) : (d.loseVerify p).channelRate q = d.channelRate q := by
  simp only [Dev.channelRate, pkS_loseVerify]
  rfl

theorem mayRead_loseVerify (d : Dev) (p q k : Nat) : (d.loseVerify p).mayRead q k = d.mayRead q k := by
  simp only [Dev.mayRead, Dev.channelRuns, channelRate_loseVerify]
  rfl

theorem reachable_loseVerify (d : Dev) (p q : Nat) : (d.loseVerify p).reachable q = d.reachable q := by
  simp only [Dev.reachable, Dev.surfaceOk, pkS_loseVerify]
  rfl

theorem needsPickup_loseVerify (d : Dev) (p q : Nat) : (d.loseVerify p).needsPickup q = d.needsPickup q := by
  simp only [Dev.needsPickup, pkS_loseVerify]
  rfl

theorem stripeBlocks_loseVerify (d : Dev) (p : Nat) (x : Stripe) : (d.loseVerify p).stripeBlocks x = d.stripeBlocks x := by
  simp only [Dev.stripeBlocks, reachable_loseVerify]
  rfl

theorem scrubWants_loseVerify (d : Dev) (p : Nat) : (d.loseVerify p).scrubWants = d.scrubWants := by
  simp only [Dev.scrubWants, stripeBlocks_loseVerify, needsPickup_loseVerify]
  rfl

theorem memberLost_loseVerify (d : Dev) (p : Nat) (e : Ladder) (x : Stripe) (l t : Nat) :
    (d.loseVerify p).memberLost e x l t = d.memberLost e x l t := by
  simp only [Dev.memberLost, pkS_loseVerify, reachable_loseVerify]
  rfl

theorem levelSixWants_loseVerify (d : Dev) (p : Nat) (e : Ladder) :
    (d.loseVerify p).levelSixWants e = d.levelSixWants e := by
  simp only [Dev.levelSixWants, memberLost_loseVerify, Dev.surfaceOk, pkS_loseVerify]
  rfl

theorem readsNow_loseVerify (d : Dev) (p q : Nat) : (d.loseVerify p).readsNow q = d.readsNow q := by
  simp only [Dev.readsNow, Dev.wanted, levelSixWants_loseVerify, scrubWants_loseVerify]
  rfl

theorem beingRead_loseVerify (d : Dev) (p q : Nat) : (d.loseVerify p).beingRead q = d.beingRead q := by
  simp only [Dev.beingRead, rowUnder_loseVerify, mayRead_loseVerify, readsNow_loseVerify, pkS_loseVerify]
  rfl

/-! ### MTO_UNLOCK (R18, R19, R240) -/

theorem holdReads_pkS (d : Dev) (p : Nat) : ∃ l, (d.holdReads p).pkS p = { d.pkS p with readOut := l } := by
  unfold Dev.holdReads
  simp only []
  split
  · exact ⟨_, rfl⟩
  · exact ⟨_, pkS_updPk_self _ _ _⟩

theorem onlyChanges_holdReads (d : Dev) (p : Nat) {fs : List Fld} {es : List (Table × Nat)} {ps : List Part}
    (h : (.pk, p) ∈ es) : d.OnlyChanges (d.holdReads p) fs es ps := by
  unfold Dev.holdReads
  simp only []
  split
  · exact onlyChanges_refl _ _ _ _
  · exact onlyChanges_updPk _ _ _ h

/-- With no read under way at level 0 only the records of what has been read change. -/
theorem railReads_idle (d : Dev) (p : Nat) (h : d.beingRead p = []) :
    d.railReads p = (d.holdReads p).updPk p fun k => { k with
      rowBegun := none, reading := k.reading.filter fun r => d.rowUnder p != some (rowKey r.pba) } := by
  simp only [Dev.railReads, h, List.foldl_nil]

theorem railReads_idle_pkS (d : Dev) (p : Nat) (h : d.beingRead p = []) :
    ((d.railReads p).pkS p).verify = (d.pkS p).verify ∧ ((d.railReads p).pkS p).rows = (d.pkS p).rows := by
  obtain ⟨l, hl⟩ := holdReads_pkS d p
  rw [railReads_idle d p h, pkS_updPk_self, hl]
  exact ⟨rfl, rfl⟩

theorem voidTest_kept (d : Dev) (p : Nat) : (d.voidTest p).regs = d.regs ∧ (d.voidTest p).raised = d.raised ∧
    ((d.voidTest p).pkS p).verify = (d.pkS p).verify := by
  unfold Dev.voidTest
  split
  · refine ⟨rfl, rfl, ?_⟩
    rw [pkS_updPk_self]
    rfl
  · exact ⟨rfl, rfl, rfl⟩

theorem onlyChanges_voidTest (d : Dev) (p : Nat) {fs : List Fld} {es : List (Table × Nat)} {ps : List Part}
    (h : (.pk, p) ∈ es) (ho : .out ∈ ps) : d.OnlyChanges (d.voidTest p) fs es ps := by
  unfold Dev.voidTest
  split
  · exact (onlyChanges_emit d _ ho).trans (onlyChanges_updPk _ _ _ h)
  · exact onlyChanges_refl _ _ _ _

/-- The rail of pickup p is unlocked, with no row being written and none being read. -/
def Dev.railLetGo (d : Dev) (p : Nat) : Dev :=
  ((((d.loseVerify p).railReads p).wr .pkMtoLock [p] 0).voidTest p).updServo p fun q => { q with expect := none }

section
variable (d : Dev) (p : Nat) (h : d.beingRead p = [])
include h

theorem onlyChanges_railLetGo : d.OnlyChanges (d.railLetGo p) [⟨.pkMtoLock, [p]⟩] [(.servo, p), (.pk, p)] [.raised, .out] := by
  have hreads : (d.loseVerify p).OnlyChanges ((d.loseVerify p).railReads p) [⟨.pkMtoLock, [p]⟩] [(.servo, p), (.pk, p)]
      [.raised, .out] := by
    rw [railReads_idle _ p ((beingRead_loseVerify d p p).trans h)]
    exact (onlyChanges_holdReads _ p (by simp)).trans (onlyChanges_updPk _ p _ (by simp))
  exact (onlyChanges_updPk d p _ (by simp)).trans <| hreads.trans <| (onlyChanges_wr _ _ _ _ (by simp)).trans <|
    (onlyChanges_voidTest _ p (by simp) (by simp)).trans (onlyChanges_updServo _ p _ (by simp))

theorem railLetGo_verify : ((d.railLetGo p).pkS p).verify = d.verifyLost p p := by
  have hreads := (railReads_idle_pkS _ p ((beingRead_loseVerify d p p).trans h)).1
  have hvoid := (voidTest_kept (((d.loseVerify p).railReads p).wr .pkMtoLock [p] 0) p).2.2
  rw [Dev.railLetGo, pkS_updServo, hvoid, pkS_wr, hreads, pkS_loseVerify]

theorem railLetGo_raised : (d.railLetGo p).raised = d.raised := by
  have hvoid := (voidTest_kept (((d.loseVerify p).railReads p).wr .pkMtoLock [p] 0) p).2.1
  have hreads : ((d.loseVerify p).railReads p).raised = d.raised := by
    rw [railReads_idle _ p ((beingRead_loseVerify d p p).trans h)]
    unfold Dev.holdReads
    simp only []
    split <;> simp [Dev.loseVerify]
  simp only [Dev.railLetGo, updServo_frame, hvoid, wr_frame, hreads]

theorem rowNow_railReads (hrow : d.rowNow p = none) :
    (((d.loseVerify p).railReads p).wr .pkMtoLock [p] 0).rowNow p = none := by
  have hrows := (railReads_idle_pkS _ p ((beingRead_loseVerify d p p).trans h)).2
  rw [pkS_loseVerify] at hrows
  rw [Dev.rowNow, pkS_wr, hrows]
  exact hrow

end

theorem railLetGo_unlocked (d : Dev) (p : Nat) : (d.railLetGo p).on .pkMtoLock [p] = false := by
  have hregs := (voidTest_kept (((d.loseVerify p).railReads p).wr .pkMtoLock [p] 0) p).1
  have hrd : (d.railLetGo p).rd .pkMtoLock [p] = 0 := by
    simp only [Dev.rd, Dev.railLetGo, updServo_frame, hregs, regGet_wr, if_true, Nat.zero_mod]
  simp [Dev.on, hrd]

/-- Four missed marks end the lock: the verify reads under way are lost and RAIL_UNLOCK names the last mark read. -/
theorem mtoUnlock_unlocks (s : State) (p : Fin 32) (m : Mark) (hon : s.dev.on .pkMtoLock [p.val] = true)
    (hmissed : 4 ≤ (s.dev.pkS p).missedMarks) (hrow : s.dev.rowNow p = none) (hread : s.dev.beingRead p = [])
    (hmarked : (s.dev.pkS p).marked = true) (hlast : (s.dev.pkS p).lastMark = some m) :
    ∃ d, MakesThenRuns (.mtoUnlock p) s d ∧ d.on .pkMtoLock [p.val] = false ∧
      d.raised = s.dev.raised ++ [⟨32 * p.val + 21, 0x0101, m.layer :: le 4 m.band⟩] ∧
      (∀ v ∈ (s.dev.pkS p).verify, s.dev.stillVerifying p v = true → { v with lost := true } ∈ (d.pkS p).verify) ∧
      s.dev.OnlyChanges d [⟨.pkMtoLock, [p.val]⟩] [(.servo, p.val), (.pk, p.val)] [.raised, .out] := by
  have hgo : ¬ ((!s.dev.on .pkMtoLock [p.val]) = true ∨ (s.dev.pkS p).missedMarks < 4) := by
    have : ¬ (s.dev.pkS p).missedMarks < 4 := by omega
    simp [hon, this]
  have habandon : (((s.dev.loseVerify p).railReads p).wr .pkMtoLock [p.val] 0).abandonNow p abRail =
      (((s.dev.loseVerify p).railReads p).wr .pkMtoLock [p.val] 0).voidTest p := by
    simp only [Dev.abandonNow, rowNow_railReads s.dev p hread hrow]
  have hmakes : MakesThenRuns (.mtoUnlock p) s ((s.dev.railLetGo p).raisePk p 21 evRailUnlock ([m.layer] ++ le 4 m.band)) := by
    change execMtoUnlock p s = _
    simp only [execMtoUnlock, serve_eq, if_neg hgo, habandon, hmarked, hlast]
    rfl
  refine ⟨_, hmakes, ?off, ?raised, ?verify, ?frame⟩
  case off => rw [on_raisePk, railLetGo_unlocked]
  case raised => rw [raised_raisePk, railLetGo_raised s.dev p hread]; rfl
  case verify =>
    intro v hv hstill
    have hpk := railLetGo_verify s.dev p hread
    have hmem : { v with lost := true } ∈ s.dev.verifyLost p p := by
      simp only [Dev.verifyLost, if_true]
      exact List.mem_map.2 ⟨v, hv, if_pos hstill⟩
    rw [pkS_raisePk, hpk]
    exact hmem
  case frame => exact (onlyChanges_railLetGo s.dev p hread).trans (onlyChanges_raise _ _ _ _ (by simp))

/-- Settles O35: a mark counts as missed or good (`missedMark_counts`, `goodMark_counts`), and the lock comes and goes. -/
theorem railMarksAndTheLock : Obligations.RailMarksAndTheLock := by
  unfold Obligations.RailMarksAndTheLock
  refine ⟨?badCrc, ?unexpected, ?good, mtoLock_locks, mtoUnlock_unlocks⟩
  case badCrc =>
    intro s p near w hw
    exact ⟨_, railAddressMark_badCrc s p near w hw, missedMark_counts s.dev p⟩
  case unexpected =>
    intro s p w layer band angle e hw he hne
    exact ⟨_, railAddressMark_unexpected s p w layer band angle e hw he hne, missedMark_counts s.dev p⟩
  case good =>
    intro s p w layer band angle hw _ he hc hj
    exact ⟨_, railAddressMark_anchor s p w layer band angle hw he, goodMark_counts s.dev p _ hc hj⟩

end Sys2Proof.Machine
end

section
/-! SUPPORT. The boot's choice of slot (R521, R522), which every reset of O48 and the boot of O49 come to: its steps in order,
what it leaves unchanged, and which state it ends in. -/

namespace Sys2Proof.Machine

theorem onlyChanges_foldl {β : Type} (f : Dev → β → Dev) {fs : List Fld} {es : List (Table × Nat)} {ps : List Part}
    (l : List β) (d : Dev) (h : ∀ d, ∀ b ∈ l, Dev.OnlyChanges d (f d b) fs es ps) : d.OnlyChanges (l.foldl f d) fs es ps := by
  induction l generalizing d with
  | nil => exact onlyChanges_refl d fs es ps
  | cons b l ih =>
    exact (h d b (by simp)).trans (ih (f d b) fun d b' hb' => h d b' (List.mem_cons_of_mem _ hb'))

/-! ### The steps of the boot -/

/-- The fields that the choice of a slot writes. -/
def bootFields : List Fld :=
  ⟨.ccFused, []⟩ :: ⟨.glBoot, []⟩ :: ⟨.scSlotStatus, [0]⟩ :: ⟨.scSlotStatus, [1]⟩ ::
    (List.range 8).map fun w => ⟨.scKeyhash, [w]⟩

/-- Both headers have been read, and the customer key is latched (R521 steps 1 to 3). -/
def Dev.headersRead (d : Dev) (kind : ResetKind) (a b : Bytes) : Dev :=
  ((List.range 8).foldl (fun (d : Dev) w => d.wr .scKeyhash [w] (d.rd .scCustkey [w]))
    ((d.wr .ccFused [] 1).wr .glBoot [] bootLoading)).updBoot fun x => { x with
      headers := [(0, { bytes := a }), (1, { bytes := b })], reset := some kind, causes := [0, 0], hashing := none }

/-- A header's check has come to its cause, 0 where it is valid. -/
def Dev.headerChecked (d : Dev) (slot cause : Nat) : Dev := if cause = 0 then d else d.slotFails slot cause

/-- Both headers have been checked, with the causes ca and cb. -/
def Dev.headersChecked (d : Dev) (kind : ResetKind) (a b : Bytes) (ca cb : Nat) : Dev :=
  ((d.headersRead kind a b).headerChecked 0 ca).headerChecked 1 cb

theorem onlyChanges_headersRead (d : Dev) (kind : ResetKind) (a b : Bytes) :
    d.OnlyChanges (d.headersRead kind a b) bootFields [] [.boot, .raised] := by
  unfold Dev.headersRead
  refine (onlyChanges_wr d .ccFused [] 1 (by simp [bootFields])).trans ?_
  refine (onlyChanges_wr _ .glBoot [] bootLoading (by simp [bootFields])).trans ?_
  refine (onlyChanges_foldl _ (List.range 8) _ fun d w hw => ?_).trans (onlyChanges_updBoot _ _ (by simp))
  exact onlyChanges_wr d .scKeyhash [w] _ (by simpa [bootFields] using hw)

theorem onlyChanges_slotFails (d : Dev) (slot status : Nat) {fs : List Fld} {es : List (Table × Nat)} {ps : List Part}
    (hf : ⟨.scSlotStatus, [slot]⟩ ∈ fs) (hb : .boot ∈ ps) (hr : .raised ∈ ps) :
    d.OnlyChanges (d.slotFails slot status) fs es ps :=
  (onlyChanges_wr d _ _ _ hf).trans <| (onlyChanges_updBoot _ _ hb).trans (onlyChanges_raise _ _ _ _ hr)

theorem onlyChanges_recovery (d : Dev) {fs : List Fld} {es : List (Table × Nat)} {ps : List Part}
    (hf : ⟨.glBoot, []⟩ ∈ fs) (hb : .boot ∈ ps) (hr : .raised ∈ ps) : d.OnlyChanges d.recovery fs es ps :=
  (onlyChanges_wr d _ _ _ hf).trans <| (onlyChanges_updBoot _ _ hb).trans (onlyChanges_raise _ _ _ _ hr)

theorem onlyChanges_headerChecked (d : Dev) (slot cause : Nat) (h : slot ≤ 1) :
    d.OnlyChanges (d.headerChecked slot cause) bootFields [] [.boot, .raised] := by
  have hf : (⟨.scSlotStatus, [slot]⟩ : Fld) ∈ bootFields := by
    rcases (by omega : slot = 0 ∨ slot = 1) with h | h <;> simp [bootFields, h]
  unfold Dev.headerChecked
  split
  · exact onlyChanges_refl d _ _ _
  · exact onlyChanges_slotFails d slot cause hf (by simp) (by simp)

theorem onlyChanges_headersChecked (d : Dev) (kind : ResetKind) (a b : Bytes) (ca cb : Nat) :
    d.OnlyChanges (d.headersChecked kind a b ca cb) bootFields [] [.boot, .raised] :=
  (onlyChanges_headersRead d kind a b).trans <|
    (onlyChanges_headerChecked _ 0 ca (by omega)).trans (onlyChanges_headerChecked _ 1 cb (by omega))

/-- The customer key is what its eight registers hold. -/
theorem custkey_congr {d e : Dev} (h : ∀ w, e.rd .scCustkey [w] = d.rd .scCustkey [w]) : e.custkey = d.custkey := by
  simp only [Dev.custkey, h]

theorem custkey_of_onlyChanges {d e : Dev} {fs : List Fld} {es : List (Table × Nat)} {ps : List Part}
    (h : d.OnlyChanges e fs es ps) (hf : ∀ w, (⟨.scCustkey, [w]⟩ : Fld) ∉ fs) : e.custkey = d.custkey :=
  custkey_congr fun w => h.1 _ (hf w)

/-- The choice: slot 0 or 1, to be hashed, or RECOVERY. -/
theorem bootStart_eq (d : Dev) (kind : ResetKind) (a b : Bytes) (ca cb : Nat) (hca : ca = headerCheck d.custkey a)
    (hcb : cb = headerCheck d.custkey b) : d.bootStart kind a b =
      if ca = 0 ∧ (cb ≠ 0 ∨ headerSeq b ≤ headerSeq a) then
        (d.headersChecked kind a b ca cb).updBoot fun x => { x with hashing := some 0 }
      else if cb = 0 then (d.headersChecked kind a b ca cb).updBoot fun x => { x with hashing := some 1 }
      else (d.headersChecked kind a b ca cb).recovery := by
  have hkey : (d.headersRead kind a b).custkey = d.custkey :=
    custkey_of_onlyChanges (onlyChanges_headersRead d kind a b) fun w => by simp [bootFields]
  rw [← hkey] at hca hcb
  subst hca hcb
  rfl

/-- The boot's first steps change their registers, the boot record and the occurrences, and nothing else. -/
theorem onlyChanges_bootStart (d : Dev) (kind : ResetKind) (a b : Bytes) :
    d.OnlyChanges (d.bootStart kind a b) bootFields [] [.boot, .raised] := by
  rw [bootStart_eq d kind a b _ _ rfl rfl]
  generalize headerCheck d.custkey a = ca
  generalize headerCheck d.custkey b = cb
  refine (onlyChanges_headersChecked d kind a b ca cb).trans ?_
  split
  · exact onlyChanges_updBoot _ _ (by simp)
  · split
    · exact onlyChanges_updBoot _ _ (by simp)
    · exact onlyChanges_recovery _ (by simp [bootFields]) (by simp) (by simp)

theorem headerChecked_glBoot (d : Dev) (slot cause : Nat) : (d.headerChecked slot cause).rd .glBoot = d.rd .glBoot := by
  unfold Dev.headerChecked
  split
  · rfl
  · exact (rd_wr d .scSlotStatus .glBoot [slot] [] cause).trans (if_neg (by simp))

theorem headersChecked_glBoot (d : Dev) (kind : ResetKind) (a b : Bytes) (ca cb : Nat) :
    (d.headersChecked kind a b ca cb).rd .glBoot = bootLoading := by
  have hset : ((d.wr .ccFused [] 1).wr .glBoot [] bootLoading).rd .glBoot = bootLoading :=
    (rd_wr _ .glBoot .glBoot [] [] bootLoading).trans (if_pos ⟨rfl, rfl⟩)
  have hkept := foldl_kept (fun d : Dev => d.rd .glBoot) (fun (d : Dev) w => d.wr .scKeyhash [w] (d.rd .scCustkey [w]))
    (fun d w => (rd_wr d .scKeyhash .glBoot [w] [] _).trans (if_neg (by simp))) (List.range 8)
    ((d.wr .ccFused [] 1).wr .glBoot [] bootLoading)
  rw [Dev.headersChecked, headerChecked_glBoot, headerChecked_glBoot]
  exact hkept.trans hset

theorem recovery_glBoot (d : Dev) : d.recovery.rd .glBoot = bootRecovery :=
  (rd_wr d .glBoot .glBoot [] [] bootRecovery).trans (if_pos ⟨rfl, rfl⟩)

/-- A slot is being checked, or the device is in RECOVERY. -/
theorem bootStart_glBoot (d : Dev) (kind : ResetKind) (a b : Bytes) :
    (d.bootStart kind a b).rd .glBoot = bootLoading ∨ (d.bootStart kind a b).rd .glBoot = bootRecovery := by
  rw [bootStart_eq d kind a b _ _ rfl rfl]
  generalize headerCheck d.custkey a = ca
  generalize headerCheck d.custkey b = cb
  split
  · exact .inl (headersChecked_glBoot d kind a b _ _)
  · split
    · exact .inl (headersChecked_glBoot d kind a b _ _)
    · exact .inr (recovery_glBoot _)

end Sys2Proof.Machine
end

section
/-! SUPPORT. The resets (O48): what each clears and keeps (Table 17-5). -/

namespace Sys2Proof.Machine

/-! ### The state after a reset that clears the event logic and the basin -/

/-- The state whose device is d, with the occurrences of the step counted on cleared sources, and an empty basin. -/
def State.wiped (s : State) (d : Dev) : State :=
  { s with dev := { d with raised := [] }, ev := countRaised d.time d.raised [], mem := [] }

theorem wipe_eq (s : State) (f : Dev → Dev) : s.wipe f = .next (s.wiped (f s.dev)) := rfl

theorem wiped_ev (s : State) (d : Dev) (h : d.raised = []) : (s.wiped d).ev = [] := by
  simp [State.wiped, h, countRaised]

theorem wiped_rd (s : State) (d : Dev) (r : Row) (ix : List Nat) : (s.wiped d).dev.rd r ix = d.rd r ix := rfl

/-! ### Registers of some rows cleared -/

/-- Fields of a row that is not kept read their reset value. -/
theorem regGet_filter_row (q : Row → Bool) (regs : List (Fld × Nat)) (f : Fld) :
    regGet (regs.filter fun e => q e.1.row) f = if q f.row then regGet regs f else f.reset := by
  induction regs with
  | nil => simp [regGet]
  | cons e regs ih =>
    by_cases he : e.1 = f
    · cases hq : q f.row <;> simp_all [regGet]
    · by_cases hk : q e.1.row = true
      · simp [hk, regGet, he, ih]
      · simp [hk, regGet, he, ih]

theorem reset_vcoreSettled : Fld.reset ⟨.glVcoreSettled, []⟩ = 1 := by decide +kernel

theorem vcoreOf_reset : vcoreOf (Fld.reset ⟨.glVcoreLevel, []⟩) = 700 := by decide +kernel

theorem keptRegs_eq (d : Dev) : d.keptRegs =
    if d.on .glVcoreSettled = true ∧ d.boot.vcore = 700 then d.regs.filter fun e => keptRows.contains e.1.row
    else (⟨.glVcoreSettled, []⟩, 0) :: d.regs.filter fun e => keptRows.contains e.1.row := by
  rw [Dev.keptRegs, vcoreOf_reset]

theorem regGet_keptRegs (d : Dev) (f : Fld) (h : f ≠ ⟨.glVcoreSettled, []⟩) :
    regGet d.keptRegs f = if f.row ∈ keptRows then regGet d.regs f else f.reset := by
  have hne : ¬ (⟨.glVcoreSettled, []⟩ : Fld) = f := fun e => h e.symm
  have hfilter := regGet_filter_row keptRows.contains d.regs f
  rw [keptRegs_eq]
  split
  · simpa using hfilter
  · simpa [regGet, hne] using hfilter

/-- VCORE is settled after the reset only where it stood at the reset level of 700 mV (R23). -/
theorem vcoreSettled_keptRegs (d : Dev) :
    regGet d.keptRegs ⟨.glVcoreSettled, []⟩ = 1 ↔ d.on .glVcoreSettled = true ∧ d.boot.vcore = 700 := by
  have hdrop : keptRows.contains Row.glVcoreSettled = false := by decide
  have hfilter := regGet_filter_row keptRows.contains d.regs ⟨.glVcoreSettled, []⟩
  rw [hdrop, reset_vcoreSettled] at hfilter
  rw [keptRegs_eq]
  split
  · next h => exact iff_of_true (hfilter.trans (if_neg (by simp))) h
  · next h => simpa [regGet] using h

/-! ### WSTB goes low -/

/-- A row being written on an entry of the pickup table stops. -/
def Dev.wstbLow (d : Dev) (e : Nat × Pk) : Dev :=
  if e.2.rows.any RowWrite.started then d.emit (.wstbLow e.1) else d

theorem wstbLow_eq (d : Dev) (e : Nat × Pk) :
    d.wstbLow e = { d with out := d.out ++ if e.2.rows.any RowWrite.started then [.wstbLow e.1] else [] } := by
  unfold Dev.wstbLow
  split <;> simp [Dev.emit]

/-- Only the output list changes, and it shows the pickups that are writing. -/
theorem foldl_wstbLow (l : List (Nat × Pk)) (d : Dev) : ∃ more, l.foldl Dev.wstbLow d = { d with out := d.out ++ more } ∧
    ∀ e ∈ l, e.2.rows.any RowWrite.started = true → .wstbLow e.1 ∈ more := by
  induction l generalizing d with
  | nil => exact ⟨[], by simp, by simp⟩
  | cons e l ih =>
    obtain ⟨more, hfold, hmem⟩ := ih (d.wstbLow e)
    refine ⟨(if e.2.rows.any RowWrite.started then [.wstbLow e.1] else []) ++ more, ?_, fun x hx hs => ?_⟩
    · rw [List.foldl_cons, hfold, wstbLow_eq]
      simp
    · rcases List.mem_cons.1 hx with rfl | hx
      · simp [hs]
      · exact List.mem_append_right _ (hmem x hx hs)

theorem wstbAllLow_eq (d : Dev) : ∃ more, d.wstbAllLow = { d with out := d.out ++ more } ∧
    ∀ e ∈ d.pk, e.2.rows.any RowWrite.started = true → .wstbLow e.1 ∈ more :=
  foldl_wstbLow d.pk d

/-- What PERST_n, GLOBAL.RESET and EXTEST leave of a device (Table 17-5), with the output list `out`. -/
def Dev.resetTo (d : Dev) (out : List Msg) : Dev :=
  { time := d.time, freeTick := d.freeTick, out := out, regs := d.keptRegs, pins := { d.pins with flashWpHigh := false },
    link := d.keptLinks, boot := { vcore := d.boot.vcore } }

theorem cleared_eq (d : Dev) : ∃ more, d.cleared = d.resetTo (d.out ++ more) ∧
    ∀ e ∈ d.pk, e.2.rows.any RowWrite.started = true → .wstbLow e.1 ∈ more := by
  obtain ⟨more, hlow, hmem⟩ := wstbAllLow_eq d
  exact ⟨more, by rw [Dev.cleared, hlow]; rfl, hmem⟩

/-- What power-on reset leaves of a device, with the output list `out`. -/
def Dev.powerOffTo (d : Dev) (out : List Msg) : Dev :=
  { freeTick := d.freeTick, out := out, link := d.keptLinks,
    pins := { d.pins with por := true, pwrOk := false, flashWpHigh := false, extest := false } }

theorem powerOff_eq (d : Dev) : ∃ more, d.powerOff = d.powerOffTo (d.out ++ more) ∧
    ∀ e ∈ d.pk, e.2.rows.any RowWrite.started = true → .wstbLow e.1 ∈ more := by
  obtain ⟨more, hlow, hmem⟩ := wstbAllLow_eq d
  exact ⟨more, by rw [Dev.powerOff, hlow]; rfl, hmem⟩

/-- Each field of a kept row keeps its value, each other one but VCORE_SETTLED has its reset value. -/
theorem cleared_regs (d : Dev) : d.cleared.regs = d.keptRegs := by
  obtain ⟨more, h, -⟩ := cleared_eq d
  rw [h]
  rfl

theorem cleared_rd (d : Dev) (r : Row) (ix : List Nat) (h : r ≠ .glVcoreSettled) :
    d.cleared.rd r ix = if r ∈ keptRows then d.rd r ix else Fld.reset ⟨r, ix⟩ := by
  have hne : (⟨r, ix⟩ : Fld) ≠ ⟨.glVcoreSettled, []⟩ := fun e => h (congrArg Fld.row e)
  rw [Dev.rd, cleared_regs, regGet_keptRegs d _ hne]
  rfl

/-! ### Power-on reset (R14, R515, R516, R557) -/

/-- The device at the end of power-on reset, before a boot that a released PERST_n starts. -/
def Dev.poweredOn (d : Dev) (v : Bool) : Dev :=
  { d with time := 0, pins := { d.pins with por := false, pwrOk := true, spiVselHigh := v, converters := true } }

theorem powerOnResetEnd_eq (s : State) (v : Bool) (hpor : s.dev.pins.por = true) (hconv : s.dev.pins.converters = true) :
    exec (.powerOnResetEnd v) s = .next (s.wiped
      (if s.dev.pins.perstLow = true ∨ s.dev.boot.headers = [] then s.dev.poweredOn v
      else (s.dev.poweredOn v).bootStart .powerOn (s.dev.header 0) (s.dev.header 1))) := by
  change execPowerOnResetEnd v s = _
  simp only [execPowerOnResetEnd, hpor, hconv, wipe_eq]
  rfl

theorem onlyChanges_poweredOn (d : Dev) (v : Bool) :
    d.OnlyChanges (d.poweredOn v) [] [] [.time, .pins] :=
  (onlyChanges_time d 0 (by simp)).trans (onlyChanges_updPins _ (fun p => { p with
    por := false, pwrOk := true, spiVselHigh := v, converters := true }) (by simp))

/-- Device time starts at 0 when power-on reset ends, and a PERST_n released before starts the boot. -/
theorem powerOnResetEnd_starts (s : State) (v : Bool) (hpor : s.dev.pins.por = true)
    (hconv : s.dev.pins.converters = true) (hraised : s.dev.raised = []) :
    ∃ t, exec (.powerOnResetEnd v) s = .next t ∧ t.dev.time = 0 ∧ t.dev.pins.por = false ∧ t.dev.pins.pwrOk = true ∧
      t.dev.pins.spiVselHigh = v ∧ t.mem = [] ∧
      (s.dev.pins.perstLow = true ∨ s.dev.boot.headers = [] → t.ev = [] ∧ s.dev.OnlyChanges t.dev [] [] [.time, .pins]) ∧
      (s.dev.pins.perstLow = false → s.dev.boot.headers ≠ [] →
        t.dev.rd .glBoot = bootLoading ∨ t.dev.rd .glBoot = bootRecovery) := by
  have heq := powerOnResetEnd_eq s v hpor hconv
  by_cases hwait : s.dev.pins.perstLow = true ∨ s.dev.boot.headers = []
  · rw [if_pos hwait] at heq
    have hdev : (s.wiped (s.dev.poweredOn v)).dev = s.dev.poweredOn v := by
      rw [State.wiped, ← hraised]
      rfl
    refine ⟨_, heq, rfl, rfl, rfl, rfl, rfl, fun _ => ⟨wiped_ev s _ hraised, ?_⟩, fun hp hh => ?_⟩
    · rw [hdev]
      exact onlyChanges_poweredOn s.dev v
    · simp [hp, hh] at hwait
  · rw [if_neg hwait] at heq
    have hboot := onlyChanges_bootStart (s.dev.poweredOn v) .powerOn (s.dev.header 0) (s.dev.header 1)
    have htime : (s.dev.poweredOn v |>.bootStart .powerOn (s.dev.header 0) (s.dev.header 1)).time = 0 := hboot.2.2 .time (by simp)
    have hpins : (s.dev.poweredOn v |>.bootStart .powerOn (s.dev.header 0) (s.dev.header 1)).pins = (s.dev.poweredOn v).pins :=
      hboot.2.2 .pins (by simp)
    exact ⟨_, heq, htime, congrArg Pins.por hpins, congrArg Pins.pwrOk hpins, congrArg Pins.spiVselHigh hpins, rfl,
      fun h => absurd h hwait, fun _ _ => bootStart_glBoot _ _ _ _⟩

/-- VIN or a converter fails: power-on reset is entered. -/
theorem powerOff_enters (s : State) (i : Instr) (hi : i = .vinBrownout ∨ i = .converterOutOfRegulation) :
    ∃ t, exec i s = .next t ∧ t.dev.pins.por = true ∧ t.dev.pins.pwrOk = false ∧ t.dev.regs = [] ∧ t.dev.cmds = [] ∧
      t.dev.time = 0 ∧ t.mem = [] ∧ t.ev = [] ∧
      (∀ e ∈ s.dev.pk, e.2.rows.any RowWrite.started = true → .wstbLow e.1 ∈ t.dev.out) ∧
      t.dev.pins.converters = (s.dev.pins.converters && decide (i ≠ .vinBrownout)) := by
  obtain ⟨more, hoff, hmem⟩ := powerOff_eq s.dev
  have hlow : ∀ e ∈ s.dev.pk, e.2.rows.any RowWrite.started = true → .wstbLow e.1 ∈ s.dev.out ++ more :=
    fun e he hs => List.mem_append_right _ (hmem e he hs)
  rcases hi with rfl | rfl
  · have heq : exec .vinBrownout s = .next (s.wiped (s.dev.powerOff.updPins fun p => { p with converters := false })) := rfl
    rw [hoff] at heq
    exact ⟨_, heq, rfl, rfl, rfl, rfl, rfl, rfl, rfl, hlow, by simp [State.wiped, Dev.updPins]⟩
  · have heq : exec .converterOutOfRegulation s = .next (s.wiped s.dev.powerOff) := rfl
    rw [hoff] at heq
    exact ⟨_, heq, rfl, rfl, rfl, rfl, rfl, rfl, rfl, hlow, by simp [State.wiped, Dev.powerOffTo]⟩

theorem vinRise_starts (s : State) (hpor : s.dev.pins.por = true) :
    Makes .vinRise s (s.dev.updPins fun p => { p with converters := true }) := by
  change execVinRise s = _
  simp only [execVinRise, act_eq, if_pos hpor]

/-! ### PERST_n (R517, R521, R549) -/

theorem perstNAssert_eq (s : State) (hpor : s.dev.pins.por = false) :
    exec .perstNAssert s = .next (s.wiped (s.dev.cleared.updPins fun p => { p with perstLow := true })) := by
  change execPerstNAssert s = _
  simp only [execPerstNAssert, hpor, wipe_eq]
  rfl

/-- PERST_n low clears what Table 17-5 marks, and keeps device time and the sensors' readings. -/
theorem perstNAssert_clears (s : State) (hpor : s.dev.pins.por = false) :
    ∃ t, exec .perstNAssert s = .next t ∧ t.dev.pins.perstLow = true ∧ t.dev.time = s.dev.time ∧ t.mem = [] ∧ t.ev = [] ∧
      t.dev.cmds = [] ∧ (∀ r ix, r ∈ keptRows → t.dev.rd r ix = s.dev.rd r ix) ∧
      (∀ r ix, r ∉ keptRows → r ≠ .glVcoreSettled → t.dev.rd r ix = Fld.reset ⟨r, ix⟩) ∧
      (t.dev.on .glVcoreSettled = true ↔ s.dev.on .glVcoreSettled = true ∧ s.dev.boot.vcore = 700) ∧
      (∀ e ∈ s.dev.pk, e.2.rows.any RowWrite.started = true → .wstbLow e.1 ∈ t.dev.out) := by
  have heq := perstNAssert_eq s hpor
  obtain ⟨more, hclear, hmem⟩ := cleared_eq s.dev
  have hrd : ∀ r ix, r ≠ .glVcoreSettled → (s.wiped (s.dev.cleared.updPins fun p => { p with perstLow := true })).dev.rd r ix =
      if r ∈ keptRows then s.dev.rd r ix else Fld.reset ⟨r, ix⟩ := cleared_rd s.dev
  have hsettled := vcoreSettled_keptRegs s.dev
  rw [hclear] at heq hrd
  refine ⟨_, heq, rfl, rfl, rfl, rfl, rfl, fun r ix hr => ?kept, fun r ix hr hv => ?cleared, ?settled, fun e he hs => ?low⟩
  case kept =>
    have hv : r ≠ .glVcoreSettled := fun h => absurd (h ▸ hr) (by decide)
    exact (hrd r ix hv).trans (if_pos hr)
  case cleared => exact (hrd r ix hv).trans (if_neg hr)
  case settled => exact beq_iff_eq.trans hsettled
  case low => exact List.mem_append_right _ (hmem e he hs)

/-- PERST_n is released: the boot starts, at once or at the end of power-on reset. -/
theorem perstNRelease_boots (s : State) (a b : Bytes) (hlow : s.dev.pins.perstLow = true)
    (hext : s.dev.pins.extest = false) :
    (s.dev.pins.por = false → Makes (.perstNRelease a b) s
      ((s.dev.updPins fun p => { p with perstLow := false }).bootStart .perst a b)) ∧
    (s.dev.pins.por = true → ∃ d, Makes (.perstNRelease a b) s d ∧ d.pins.perstLow = false ∧
      d.boot.headers = [(0, { bytes := a }), (1, { bytes := b })] ∧ s.dev.OnlyChanges d [] [] [.pins, .boot]) := by
  have hext' : (s.dev.updPins fun p => { p with perstLow := false }).pins.extest = false := hext
  constructor
  · intro hpor
    have hpor' : (s.dev.updPins fun p => { p with perstLow := false }).pins.por = false := hpor
    change execPerstNRelease a b s = _
    simp [execPerstNRelease, act_eq, hlow, hext', hpor']
  · intro hpor
    have hpor' : (s.dev.updPins fun p => { p with perstLow := false }).pins.por = true := hpor
    refine ⟨(s.dev.updPins fun p => { p with perstLow := false }).updBoot fun x => { x with
      headers := [(0, { bytes := a }), (1, { bytes := b })] }, ?_, rfl, rfl, ?_⟩
    · change execPerstNRelease a b s = _
      simp [execPerstNRelease, act_eq, hlow, hext', hpor']
    · exact (onlyChanges_updPins _ _ (by simp)).trans (onlyChanges_updBoot _ _ (by simp))

/-! ### GLOBAL.RESET and EXTEST (R528, R549) -/

/-- A device that was cleared and then boots keeps device time, has no command in flight, and reads the reset values of the
rows that neither the reset keeps nor the boot writes. -/
theorem bootStart_cleared (d e : Dev) (kind : ResetKind) (a b : Bytes) (h : d.cleared.OnlyChanges e [] [] [.pins]) :
    (e.bootStart kind a b).time = d.time ∧ (e.bootStart kind a b).cmds = [] ∧ (e.bootStart kind a b).pins = e.pins ∧
      ∀ r ix, r ≠ .glVcoreSettled → r ∉ keptRows → ⟨r, ix⟩ ∉ bootFields →
        (e.bootStart kind a b).rd r ix = Fld.reset ⟨r, ix⟩ := by
  obtain ⟨more, hclear, -⟩ := cleared_eq d
  have hboot := onlyChanges_bootStart e kind a b
  have htime : e.time = d.cleared.time := h.2.2 .time (by simp)
  have htime' : (e.bootStart kind a b).time = e.time := hboot.2.2 .time (by simp)
  have hcmds : e.cmds = d.cleared.cmds := (h.2.2 .cmds (by simp)).1
  have hcmds' : (e.bootStart kind a b).cmds = e.cmds := (hboot.2.2 .cmds (by simp)).1
  refine ⟨?time, ?cmds, hboot.2.2 .pins (by simp), fun r ix hv hr hf => ?rows⟩
  case time => rw [htime', htime, hclear]; rfl
  case cmds => rw [hcmds', hcmds, hclear]; rfl
  case rows => exact (hboot.1 _ hf).trans <| (h.1 _ (by simp)).trans ((cleared_rd d r ix hv).trans (if_neg hr))

theorem globalReset_eq (s : State) (a b : Bytes) (hr : s.dev.ready = true) :
    exec (.globalReset a b) s = .next (s.wiped (s.dev.cleared.bootStart .global a b)) := by
  change execGlobalReset a b s = _
  simp only [execGlobalReset, if_pos hr]
  rfl

theorem globalReset_boots (s : State) (a b : Bytes) (hr : s.dev.ready = true) :
    ∃ t, exec (.globalReset a b) s = .next t ∧ t.dev.time = s.dev.time ∧ t.mem = [] ∧ t.dev.cmds = [] ∧
      (t.dev.rd .glBoot = bootLoading ∨ t.dev.rd .glBoot = bootRecovery) ∧
      (∀ r, t.dev.on .sqEn [r] = false) ∧ (∀ p, t.dev.rd .pkLaserMask [p] = 0) := by
  obtain ⟨htime, hcmds, -, hrd⟩ := bootStart_cleared s.dev s.dev.cleared .global a b (onlyChanges_refl _ _ _ _)
  refine ⟨_, globalReset_eq s a b hr, htime, rfl, hcmds, bootStart_glBoot _ _ _ _, fun r => ?_, fun p => ?_⟩
  · have h : (s.dev.cleared.bootStart .global a b).rd .sqEn [r] = 0 :=
      hrd .sqEn [r] (by decide) (by decide) (by simp [bootFields])
    exact beq_false_of_ne (by rw [wiped_rd, h]; decide)
  · exact hrd .pkLaserMask [p] (by decide) (by decide) (by simp [bootFields])

theorem globalReset_not_ready (s : State) (a b : Bytes) (hr : s.dev.ready = false) :
    exec (.globalReset a b) s = .next s := by
  change execGlobalReset a b s = _
  simp [execGlobalReset, hr]

theorem extestLoad_clears (s : State) (hpor : s.dev.pins.por = false) :
    ∃ t, exec .extestLoad s = .next t ∧ t.dev.pins.extest = true ∧ t.dev.time = s.dev.time ∧ t.mem = [] ∧ t.ev = [] ∧
      t.dev.cmds = [] ∧ (∀ r ix, r ∉ keptRows → r ≠ .glVcoreSettled → t.dev.rd r ix = Fld.reset ⟨r, ix⟩) := by
  have heq : exec .extestLoad s = .next (s.wiped (s.dev.cleared.updPins fun p => { p with extest := true })) := by
    change execExtestLoad s = _
    simp only [execExtestLoad, hpor, wipe_eq]
    rfl
  have hrd : ∀ r ix, r ≠ .glVcoreSettled → (s.wiped (s.dev.cleared.updPins fun p => { p with extest := true })).dev.rd r ix =
      if r ∈ keptRows then s.dev.rd r ix else Fld.reset ⟨r, ix⟩ := cleared_rd s.dev
  obtain ⟨more, hclear, -⟩ := cleared_eq s.dev
  rw [hclear] at heq hrd
  exact ⟨_, heq, rfl, rfl, rfl, rfl, rfl, fun r ix hr hv => (hrd r ix hv).trans (if_neg hr)⟩

theorem testLogicReset_boots (s : State) (a b : Bytes) (hext : s.dev.pins.extest = true)
    (hlow : s.dev.pins.perstLow = false) :
    ∃ t, exec (.testLogicReset a b) s = .next t ∧ t.dev.pins.extest = false ∧ t.mem = [] ∧ t.dev.cmds = [] ∧
      (t.dev.rd .glBoot = bootLoading ∨ t.dev.rd .glBoot = bootRecovery) := by
  let e := s.dev.cleared.updPins fun p => { p with extest := false }
  have hlow' : e.pins.perstLow = false := by
    obtain ⟨more, hclear, -⟩ := cleared_eq s.dev
    simp only [e, hclear]
    exact hlow
  have heq : exec (.testLogicReset a b) s = .next (s.wiped (e.bootStart .global a b)) := by
    change execTestLogicReset a b s = _
    simp only [execTestLogicReset, hext, wipe_eq]
    simp [e, hlow']
  obtain ⟨-, hcmds, hpins, -⟩ := bootStart_cleared s.dev e .global a b (onlyChanges_updPins _ _ (by simp))
  exact ⟨_, heq, congrArg Pins.extest hpins, rfl, hcmds, bootStart_glBoot _ _ _ _⟩

/-! ### A function-level reset (R529, R530) -/

/-- A retired origin is not one of a ring's present life. -/
theorem retire_all_ne_ring (o : Origin) (r q : Nat) : o.retire (fun _ => true) ≠ .ring r q := by
  cases o <;> simp [Origin.retire]

/-- The device after a function-level reset, before the commands that run on go on: d has aborted the others. -/
def Dev.flrCleared (d : Dev) : Dev :=
  { d.retireRings fun _ => true with
    regs := d.regs.filter (fun e => !hostRows.contains e.1.row), sq := [], cq := [], eq := [], msix := [],
    msixPending := [], pcie := {}, vec := [], caused := [], raised := [] }

theorem flrCleared_cmds (d : Dev) (c : Cmd) (hc : c ∈ d.flrCleared.cmds) (r q : Nat) : c.origin ≠ .ring r q := by
  obtain ⟨x, -, rfl⟩ := List.mem_map.1 hc
  exact retire_all_ne_ring x.origin r q

theorem flrCleared_rd (d : Dev) (r : Row) (ix : List Nat) (h : r ∈ hostRows) :
    d.flrCleared.rd r ix = Fld.reset ⟨r, ix⟩ := by
  have hfilter := regGet_filter_row (fun r => !hostRows.contains r) d.regs ⟨r, ix⟩
  exact hfilter.trans (if_neg (by simp [h]))

/-- The device once the commands that do not run on are aborted (R341). -/
def Dev.flrAborted (d : Dev) : Dev :=
  (d.cmds.filter fun c => (match c.origin with | .ring _ _ => true | _ => false) && !c.runsOn).foldl
    (fun d c => d.abort c.origin) d

theorem functionLevelReset_clears (s : State) (hr : s.dev.ready = true) :
    ∃ d : Dev, exec .functionLevelReset s = .next (({ s with ev := [] } : State).commit (d.settleDeck s.mem)) ∧
      d.sq = [] ∧ d.cq = [] ∧ d.eq = [] ∧ d.msix = [] ∧ d.msixPending = [] ∧ d.pcie = {} ∧ d.raised = [] ∧
      (∀ r ix, r ∈ hostRows → d.rd r ix = Fld.reset ⟨r, ix⟩) ∧ (∀ c ∈ d.cmds, ∀ r q, c.origin ≠ .ring r q) := by
  refine ⟨s.dev.flrAborted.flrCleared, ?_, rfl, rfl, rfl, rfl, rfl, rfl, rfl, flrCleared_rd _, flrCleared_cmds _⟩
  change execFunctionLevelReset s = _
  simp only [execFunctionLevelReset, hr, Bool.not_true, Bool.false_eq_true, if_false]
  rfl

/-- Settles O48: one lemma per command. -/
theorem resetsClearTheDevice : Obligations.ResetsClearTheDevice := by
  unfold Obligations.ResetsClearTheDevice
  exact ⟨powerOnResetEnd_starts, powerOff_enters, vinRise_starts, perstNAssert_clears, perstNRelease_boots,
    globalReset_boots, globalReset_not_ready, functionLevelReset_clears, extestLoad_clears, testLogicReset_boots⟩

end Sys2Proof.Machine
end

section
/-! SUPPORT. The bus work of the boot (R95, O49): what reads of the pickups' registers, a bus that fails and the row write
that it abandons leave as it was, whatever the pickup was doing. -/

namespace Sys2Proof.Machine

/-- From d to e only fields of some rows change among the registers, the basin's training stands where it stood, and
occurrences are only added. -/
structure Dev.Keeps (rows : List Row) (d e : Dev) : Prop where
  regs : ∀ f : Fld, f.row ∉ rows → regGet e.regs f = regGet d.regs f
  training : e.basin.trainStart = d.basin.trainStart
  raised : d.raised <+: e.raised

section
variable {rows more : List Row} {d e g : Dev}

theorem Dev.Keeps.trans (h : Dev.Keeps rows d e) (h' : Dev.Keeps rows e g) : Dev.Keeps rows d g :=
  ⟨fun f hf => (h'.regs f hf).trans (h.regs f hf), h'.training.trans h.training, h.raised.trans h'.raised⟩

theorem Dev.Keeps.mono (h : Dev.Keeps rows d e) (hr : rows ⊆ more) : Dev.Keeps more d e :=
  ⟨fun f hf => h.regs f fun hm => hf (hr hm), h.training, h.raised⟩

theorem Dev.Keeps.rd (h : Dev.Keeps rows d e) (r : Row) (ix : List Nat) (hr : r ∉ rows) : e.rd r ix = d.rd r ix :=
  h.regs ⟨r, ix⟩ hr

/-- An update of other records than these three. -/
theorem keeps_of_eq (hr : e.regs = d.regs) (hb : e.basin.trainStart = d.basin.trainStart) (hs : e.raised = d.raised) :
    Dev.Keeps rows d e :=
  ⟨fun f _ => by rw [hr], hb, by rw [hs]⟩

theorem keeps_refl (d : Dev) : Dev.Keeps rows d d := keeps_of_eq rfl rfl rfl

/-- A write of one of the rows. -/
theorem Dev.Keeps.wr (h : Dev.Keeps rows d e) {r : Row} {ix : List Nat} {v : Nat} (hr : r ∈ rows := by decide) :
    Dev.Keeps rows d (e.wr r ix v) := by
  refine h.trans ⟨fun f hf => ?_, rfl, List.prefix_refl _⟩
  have hne : f ≠ ⟨r, ix⟩ := fun he => hf (by rw [he]; exact hr)
  rw [regGet_wr, if_neg hne]

theorem Dev.Keeps.raise (h : Dev.Keeps rows d e) (src code : Nat) (b : Bytes) : Dev.Keeps rows d (e.raise src code b) :=
  h.trans ⟨fun _ _ => rfl, rfl, List.prefix_append _ _⟩

theorem Dev.Keeps.updBasin (h : Dev.Keeps rows d e) {f : Basin → Basin}
    (hf : (f e.basin).trainStart = e.basin.trainStart := by rfl) : Dev.Keeps rows d (e.updBasin f) :=
  h.trans (keeps_of_eq rfl hf rfl)

theorem Dev.Keeps.share (h : Dev.Keeps rows d e) {x : Share} : Dev.Keeps rows d { e with share := x } :=
  h.trans (keeps_of_eq rfl rfl rfl)

theorem Dev.Keeps.updPk (h : Dev.Keeps rows d e) {p : Nat} {f : Pk → Pk} : Dev.Keeps rows d (e.updPk p f) :=
  h.trans (keeps_of_eq rfl rfl rfl)

/-- Another step of a chain, by its own lemma. -/
theorem Dev.Keeps.step (h' : Dev.Keeps rows e g) (h : Dev.Keeps rows d e) : Dev.Keeps rows d g := h.trans h'

theorem keeps_foldl {β : Type} (f : Dev → β → Dev) (h : ∀ d b, Dev.Keeps rows d (f d b)) (l : List β) (d : Dev) :
    Dev.Keeps rows d (l.foldl f d) := by
  induction l generalizing d with
  | nil => exact keeps_refl d
  | cons b l ih => exact (h d b).trans (ih (f d b))

end

/-! ### A bus fails (R94, R261) -/

/-- The rows that the failure of a bus writes: its flag, the counts of the row write that it abandons, and those of the basin
units that come free. -/
def busFailRows : List Row :=
  [.pkFail, .rowInprog, .rowAbandoned, .pkAbandon, .defectAbandoned, .recovQueued, .bsUnitsReserved, .bsUnitsFree,
    .bsUnitsHeld, .svImportReady, .bsFill]

theorem fillUpdate_keeps (d : Dev) : Dev.Keeps busFailRows d d.fillUpdate := by
  unfold Dev.fillUpdate
  simp only []
  split
  · exact .raise (.updBasin (.wr (keeps_refl d))) _ _ _
  · split
    · refine .raise ?_ _ _ _
      split
      · exact .updBasin (.wr (keeps_refl d))
      · exact .share (.updBasin (.wr (keeps_refl d)))
    · exact .wr (keeps_refl d)

theorem passWindow_keeps (d : Dev) : Dev.Keeps busFailRows d d.passWindow := by
  unfold Dev.passWindow
  split
  · exact .wr (keeps_refl d)
  · exact .wr (.wr (.wr (.updBasin (keeps_refl d))))

theorem releaseUnits_keeps (d : Dev) (o : Owner) : Dev.Keeps busFailRows d (d.releaseUnits o) := by
  unfold Dev.releaseUnits
  simp only []
  split
  · exact keeps_refl d
  · refine .step (fillUpdate_keeps _) ?_
    split
    · exact .step (passWindow_keeps _) (.share (.wr (.wr (.wr (.wr (.updBasin (keeps_refl d)))))))
    · exact .share (.wr (.wr (.wr (.wr (.updBasin (keeps_refl d))))))

theorem blockGone_keeps (d : Dev) (key : Nat × Nat) : Dev.Keeps busFailRows d (d.blockGone key) := by
  unfold Dev.blockGone
  exact .step (keeps_foldl _ releaseUnits_keeps _ _) (keeps_of_eq rfl rfl rfl)

theorem dropBlk_keeps (d : Dev) (id : Nat) : Dev.Keeps busFailRows d (d.dropBlk id) := by
  unfold Dev.dropBlk
  split
  · exact keeps_refl d
  · simp only []
    split
    · refine .step (releaseUnits_keeps _ _) ?_
      split
      · exact .step (blockGone_keeps _ _) (keeps_of_eq rfl rfl rfl)
      · exact keeps_of_eq rfl rfl rfl
    · split
      · exact .step (blockGone_keeps _ _) (keeps_of_eq rfl rfl rfl)
      · exact keeps_of_eq rfl rfl rfl

theorem catProgress_keeps (d : Dev) : Dev.Keeps busFailRows d d.catProgress := by
  unfold Dev.catProgress
  split
  · exact keeps_refl d
  · simp only []
    split <;> exact keeps_of_eq rfl rfl rfl

theorem catSettle_keeps (d : Dev) (p : Nat) (lanes : List Nat) (failed : Option Nat) :
    Dev.Keeps busFailRows d (d.catSettle p lanes failed) := by
  unfold Dev.catSettle
  split
  · exact keeps_refl d
  · exact .step (catProgress_keeps _) (keeps_of_eq rfl rfl rfl)

theorem sendSettings_keeps (d : Dev) (p : Nat) : Dev.Keeps busFailRows d (d.sendSettings p) := by
  unfold Dev.sendSettings
  simp only []
  split
  · exact keeps_refl d
  · refine .updPk (keeps_foldl _ ?_ _ _)
    exact fun d f => keeps_of_eq rfl rfl rfl

theorem raiseFor_keeps {rows : List Row} (d : Dev) (os : List Origin) (src code : Nat) (b : Bytes) :
    Dev.Keeps rows d (d.raiseFor os src code b) :=
  ⟨fun _ _ => rfl, rfl, List.prefix_append _ _⟩

theorem voidTest_keeps (d : Dev) (p : Nat) : Dev.Keeps busFailRows d (d.voidTest p) := by
  unfold Dev.voidTest
  split <;> exact keeps_of_eq rfl rfl rfl

/-- The blocks of an abandoned row go back to where they came from. -/
theorem abandon_keeps (d : Dev) (p : Nat) (rw : RowWrite) (cause : Nat) : Dev.Keeps busFailRows d (d.abandon p rw cause) := by
  have hstop : Dev.Keeps busFailRows d (if rw.started then d.fresh.2.emit (.wstbLow p) else d) := by
    split <;> exact keeps_of_eq rfl rfl rfl
  unfold Dev.abandon
  simp only []
  refine .step (sendSettings_keeps _ p) (.step (raiseFor_keeps _ _ _ _ _) (.wr ?_))
  split
  · refine .step (catSettle_keeps _ _ _ _) (.step (keeps_foldl _ ?_ _ _) ?_)
    · exact fun d e => dropBlk_keeps d e.2
    · exact .wr (.wr (.wr (.wr (.updPk hstop))))
  · exact .updPk (.wr (.wr (.wr (.wr (.updPk hstop)))))
  · refine .step (keeps_foldl _ ?_ _ _) ?_
    · exact fun d e => keeps_of_eq rfl rfl rfl
    · exact .wr (.wr (.wr (.wr (.updPk hstop))))

theorem abandonNow_keeps (d : Dev) (p cause : Nat) : Dev.Keeps busFailRows d (d.abandonNow p cause) := by
  unfold Dev.abandonNow
  split
  · exact abandon_keeps d p _ cause
  · exact voidTest_keeps d p

theorem busFails_keeps (d : Dev) (os : List Origin) (p op reg : Nat) : Dev.Keeps busFailRows d (d.busFails os p op reg) :=
  .step (abandonNow_keeps _ p abPbus) (.step (raiseFor_keeps _ _ _ _ _) (.wr (.updPk (keeps_refl d))))

/-- A bus that fails posts PICKUP_BUS_FAIL, and what it abandons only adds to that. -/
theorem busFails_posts (d : Dev) (os : List Origin) (p op reg : Nat) :
    d.raised ++ [⟨32 * p + 23, evPickupBusFail, [reg, op]⟩] <+: (d.busFails os p op reg).raised := by
  have hadded := (abandonNow_keeps (((d.updPk p fun k => { k with busOk := false }).wr .pkFail [p] 1).raiseFor os (32 * p + 23)
    evPickupBusFail [reg, op]) p abPbus).raised
  exact hadded

/-! ### Reads of a pickup's registers (R94, R95) -/

/-- The frames of a read of a register, resends included, have gone out. -/
def Dev.readFrames (d : Dev) (p reg n : Nat) : Dev :=
  (List.range n).foldl (fun (d : Dev) _ => d.emit (.busFrame p (busFrameBits 2 reg 0))) d

theorem readFrames_keeps (d : Dev) (p reg n : Nat) : Dev.Keeps busFailRows d (d.readFrames p reg n) := by
  refine keeps_foldl _ ?_ _ _
  exact fun d _ => keeps_of_eq rfl rfl rfl

theorem readFrames_raised (d : Dev) (p reg n : Nat) : (d.readFrames p reg n).raised = d.raised :=
  foldl_kept Dev.raised (fun (d : Dev) _ => d.emit (.busFrame p (busFrameBits 2 reg 0))) (fun _ _ => rfl) _ d

theorem probe_eq (d : Dev) (os : List Origin) (p reg n : Nat) : d.probe os p reg n =
    if n ≤ 3 then (d.readFrames p reg (min n 3 + 1)).updPk p fun k => { k with busOk := true }
    else (d.readFrames p reg (min n 3 + 1)).busFails os p 2 reg := rfl

theorem probe_keeps (d : Dev) (os : List Origin) (p reg n : Nat) : Dev.Keeps busFailRows d (d.probe os p reg n) := by
  rw [probe_eq]
  split
  · exact .updPk (readFrames_keeps d p reg _)
  · exact .step (busFails_keeps _ os p 2 reg) (readFrames_keeps d p reg _)

/-- A read that is answered within the attempts posts nothing. -/
theorem probe_answered (d : Dev) (os : List Origin) (p reg n : Nat) (h : n ≤ 3) : (d.probe os p reg n).raised = d.raised := by
  rw [probe_eq, if_pos h]
  exact readFrames_raised d p reg _

/-- A read that is not posts PICKUP_BUS_FAIL. -/
theorem probe_unanswered (d : Dev) (os : List Origin) (p reg n : Nat) (h : ¬ n ≤ 3) :
    d.raised ++ [⟨32 * p + 23, evPickupBusFail, [reg, 2]⟩] <+: (d.probe os p reg n).raised := by
  rw [probe_eq, if_neg h, ← readFrames_raised d p reg (min n 3 + 1)]
  exact busFails_posts _ os p 2 reg

/-! ### Which pickups are present (R95) -/

/-- The rows that the reads of the pickups at the boot write. -/
def presenceRows : List Row := .pkPresent :: .pkIdentLo :: .pkIdentHi :: busFailRows

/-- One identity word of a pickup is read and shown. -/
def Dev.identWord (d : Dev) (os : List Origin) (p : Nat) (a : Option PickupAnswer) (r : Nat) : Dev :=
  let n := resentOf a (r + 1)
  let d := d.probe os p r n
  let old := d.rd .pkIdentLo [p] + 2 ^ 32 * d.rd .pkIdentHi [p]
  let new := if n ≤ 3 then putHalf old r ((a.map PickupAnswer.ident).getD 0 / 2 ^ (16 * r)) else old
  (d.wr .pkIdentLo [p] new).wr .pkIdentHi [p] (new / 2 ^ 32)

/-- The bus of pickup p is read at the boot. -/
def Dev.lookFor (d : Dev) (os : List Origin) (p : Nat) (a : Option PickupAnswer) : Dev :=
  let d := d.probe os p 0x04 (resentOf a 0)
  if answersOne a then (List.range 4).foldl (fun (d : Dev) r => d.identWord os p a r) (d.wr .pkPresent [p] 1)
  else (d.wr .pkPresent [p] 0).noOutput p

theorem presence_eq (d : Dev) (os : List Origin) (answers : List PickupAnswer) : d.presence os answers =
    (List.range 32).foldl (fun (d : Dev) p => d.lookFor os p (answers.find? fun e => e.pickup == p)) d := rfl

/-- The rows that the reads of the identity words write. -/
def identRows : List Row := .pkIdentLo :: .pkIdentHi :: busFailRows

theorem identWord_keeps (d : Dev) (os : List Origin) (p : Nat) (a : Option PickupAnswer) (r : Nat) :
    Dev.Keeps identRows d (d.identWord os p a r) := by
  have hprobe : Dev.Keeps identRows d (d.probe os p r (resentOf a (r + 1))) :=
    (probe_keeps d os p r _).mono fun x hx => by simp [identRows, hx]
  unfold Dev.identWord
  exact .wr (.wr hprobe)

theorem identWord_raised (d : Dev) (os : List Origin) (p : Nat) (a : Option PickupAnswer) (r : Nat)
    (h : resentOf a (r + 1) ≤ 3) : (d.identWord os p a r).raised = d.raised := by
  unfold Dev.identWord
  simp only [wr_frame, probe_answered d os p r _ h]

theorem noOutput_regs (d : Dev) (p : Nat) :
    (d.noOutput p).regs = d.regs ∧ (d.noOutput p).basin = d.basin ∧ (d.noOutput p).raised = d.raised :=
  ⟨foldl_kept Dev.regs (fun (d : Dev) x => d.updAx p x fun k => { k with coil := 0 }) (fun _ _ => rfl) (List.range 4) d,
    foldl_kept Dev.basin (fun (d : Dev) x => d.updAx p x fun k => { k with coil := 0 }) (fun _ _ => rfl) (List.range 4) d,
    foldl_kept Dev.raised (fun (d : Dev) x => d.updAx p x fun k => { k with coil := 0 }) (fun _ _ => rfl) (List.range 4) d⟩

theorem noOutput_keeps {rows : List Row} (d : Dev) (p : Nat) : Dev.Keeps rows d (d.noOutput p) := by
  obtain ⟨hr, hb, hs⟩ := noOutput_regs d p
  exact keeps_of_eq hr (by rw [hb]) hs

theorem lookFor_keeps (d : Dev) (os : List Origin) (p : Nat) (a : Option PickupAnswer) :
    Dev.Keeps presenceRows d (d.lookFor os p a) := by
  have hprobe : Dev.Keeps presenceRows d (d.probe os p 0x04 (resentOf a 0)) :=
    (probe_keeps d os p 0x04 _).mono fun x hx => by simp [presenceRows, hx]
  unfold Dev.lookFor
  simp only []
  split
  · refine .step (keeps_foldl _ ?_ _ _) (.wr hprobe)
    exact fun d r => (identWord_keeps d os p a r).mono fun x hx => List.mem_cons_of_mem _ hx
  · exact .step (noOutput_keeps _ p) (.wr hprobe)

theorem presence_keeps (d : Dev) (os : List Origin) (answers : List PickupAnswer) :
    Dev.Keeps presenceRows d (d.presence os answers) := by
  rw [presence_eq]
  refine keeps_foldl _ ?_ _ _
  exact fun d p => lookFor_keeps d os p _

/-- PRESENT of a pickup follows its answer, and that of the others stays. -/
theorem lookFor_present (d : Dev) (os : List Origin) (p q : Nat) (a : Option PickupAnswer) :
    (d.lookFor os p a).rd .pkPresent [q] =
      if q = p then if answersOne a then 1 else 0 else d.rd .pkPresent [q] := by
  have hprobe := (probe_keeps d os p 0x04 (resentOf a 0)).rd .pkPresent [q] (by decide)
  have hset : ∀ v : Nat, v ≤ 1 → ((d.probe os p 0x04 (resentOf a 0)).wr .pkPresent [p] v).rd .pkPresent [q] =
      if q = p then v else d.rd .pkPresent [q] := by
    intro v hv
    have hw : v % 2 ^ Row.pkPresent.spec.width = v := Nat.mod_eq_of_lt (Nat.lt_of_le_of_lt hv (by decide))
    simp [rd_wr, hprobe, hw]
  unfold Dev.lookFor
  simp only []
  split
  · refine (foldl_kept (fun d : Dev => d.rd .pkPresent [q]) _ ?_ _ _).trans (hset 1 (by omega))
    exact fun d r => (identWord_keeps d os p a r).rd .pkPresent [q] (by decide)
  · exact ((noOutput_keeps (rows := []) _ p).rd .pkPresent [q] (by simp)).trans (hset 0 (by omega))

theorem foldl_lookFor_present (os : List Origin) (a : Nat → Option PickupAnswer) (q : Nat) (l : List Nat) (d : Dev) :
    (l.foldl (fun (d : Dev) p => d.lookFor os p (a p)) d).rd .pkPresent [q] =
      if q ∈ l then if answersOne (a q) then 1 else 0 else d.rd .pkPresent [q] := by
  induction l generalizing d with
  | nil => simp
  | cons p l ih =>
    rw [List.foldl_cons, ih, lookFor_present]
    by_cases hl : q ∈ l
    · simp [hl]
    · by_cases hp : q = p
      · subst hp; simp [hl]
      · simp [hl, hp]

/-- A pickup is present after the boot when it answered 0x0001 within the attempts. -/
theorem presence_present (d : Dev) (os : List Origin) (answers : List PickupAnswer) (p : Nat) (h : p < 32) :
    (d.presence os answers).on .pkPresent [p] = true ↔
      ∃ e, answers.find? (fun e => e.pickup == p) = some e ∧ e.contract = 1 ∧ e.resent.getD 0 0 ≤ 3 := by
  have hrd := foldl_lookFor_present os (fun p => answers.find? fun e => e.pickup == p) p (List.range 32) d
  rw [if_pos (List.mem_range.2 h), ← presence_eq] at hrd
  rw [Dev.on, hrd]
  cases hfind : answers.find? fun e => e.pickup == p with
  | none => simp [answersOne]
  | some e => simp [answersOne]

/-- A pickup whose every read is answered posts nothing; one that does not answer posts PICKUP_BUS_FAIL. -/
theorem lookFor_raised (d : Dev) (os : List Origin) (p : Nat) (a : Option PickupAnswer) :
    ∃ more, (d.lookFor os p a).raised = d.raised ++ more ∧ ((∀ i, resentOf a i ≤ 3) → more = []) ∧
      (a = none → ∃ e ∈ more, e.src = 32 * p + 23 ∧ e.code = evPickupBusFail) := by
  obtain ⟨more, hmore⟩ := (lookFor_keeps d os p a).raised
  refine ⟨more, hmore.symm, fun hall => ?_, fun hnone => ?_⟩
  · have hsame : (d.lookFor os p a).raised = d.raised := by
      have hprobe := probe_answered d os p 0x04 _ (hall 0)
      unfold Dev.lookFor
      simp only []
      split
      · refine (foldl_kept Dev.raised _ ?_ _ _).trans ((wr_frame _ _ _ _).2.2.2.2.2.1.trans hprobe)
        exact fun d r => identWord_raised d os p a r (hall _)
      · exact (noOutput_regs _ p).2.2.trans ((wr_frame _ _ _ _).2.2.2.2.2.1.trans hprobe)
    rw [hsame] at hmore
    exact List.append_right_eq_self.1 hmore
  · subst hnone
    obtain ⟨tail, htail⟩ := probe_unanswered d os p 0x04 (resentOf none 0) (by simp [resentOf])
    have hlook : (d.lookFor os p none).raised = (d.probe os p 0x04 (resentOf none 0)).raised := by
      unfold Dev.lookFor
      simp only [answersOne, Bool.false_eq_true, if_false]
      exact (noOutput_regs _ p).2.2
    rw [hlook, ← htail, List.append_assoc] at hmore
    rw [List.append_cancel_left hmore]
    exact ⟨_, List.mem_append_left _ (List.mem_singleton_self _), rfl, rfl⟩

theorem foldl_lookFor_raised (os : List Origin) (a : Nat → Option PickupAnswer) (l : List Nat) (d : Dev) :
    ∃ more, (l.foldl (fun (d : Dev) p => d.lookFor os p (a p)) d).raised = d.raised ++ more ∧
      ((∀ p ∈ l, ∀ i, resentOf (a p) i ≤ 3) → more = []) ∧
      ∀ p ∈ l, a p = none → ∃ e ∈ more, e.src = 32 * p + 23 ∧ e.code = evPickupBusFail := by
  induction l generalizing d with
  | nil => exact ⟨[], by simp, by simp, by simp⟩
  | cons p l ih =>
    obtain ⟨first, hfirst, hquiet, hpost⟩ := lookFor_raised d os p (a p)
    obtain ⟨rest, hrest, hquiet', hpost'⟩ := ih (d.lookFor os p (a p))
    refine ⟨first ++ rest, ?_, fun hall => ?_, fun q hq hnone => ?_⟩
    · rw [List.foldl_cons, hrest, hfirst, List.append_assoc]
    · rw [hquiet (hall p (by simp)), hquiet' fun q hq => hall q (List.mem_cons_of_mem _ hq)]
      rfl
    · rcases List.mem_cons.1 hq with rfl | hq
      · obtain ⟨e, he, hev⟩ := hpost hnone
        exact ⟨e, List.mem_append_left _ he, hev⟩
      · obtain ⟨e, he, hev⟩ := hpost' q hq hnone
        exact ⟨e, List.mem_append_right _ he, hev⟩

/-- A pickup with at most three resends of each read. -/
theorem resentOf_le (a : Option PickupAnswer) (e : PickupAnswer) (ha : a = some e) (h : ∀ n ∈ e.resent, n ≤ 3) (i : Nat) :
    resentOf a i ≤ 3 := by
  subst ha
  simp only [resentOf, List.getD_eq_getElem?_getD]
  cases hi : e.resent[i]? with
  | none => simp
  | some n => exact h n (List.mem_of_getElem? hi)

theorem presence_raised (d : Dev) (os : List Origin) (answers : List PickupAnswer) :
    ∃ more, (d.presence os answers).raised = d.raised ++ more ∧
      ((∀ p, p < 32 → ∃ e, answers.find? (fun e => e.pickup == p) = some e ∧ ∀ n ∈ e.resent, n ≤ 3) → more = []) ∧
      ∀ p, p < 32 → answers.find? (fun e => e.pickup == p) = none →
        ∃ e ∈ more, e.src = 32 * p + 23 ∧ e.code = evPickupBusFail := by
  obtain ⟨more, hmore, hquiet, hpost⟩ :=
    foldl_lookFor_raised os (fun p => answers.find? fun e => e.pickup == p) (List.range 32) d
  refine ⟨more, hmore, fun hall => hquiet fun p hp i => ?_, fun p hp => hpost p (List.mem_range.2 hp)⟩
  obtain ⟨e, he, hn⟩ := hall p (List.mem_range.1 hp)
  exact resentOf_le _ e he hn i

end Sys2Proof.Machine
end

section
/-! SUPPORT. The boot's choice of slot and its end (O49). -/

namespace Sys2Proof.Machine

/-! ### The slot chosen (R521, R522) -/

theorem slotFails_raised (d : Dev) (slot status : Nat) :
    (d.slotFails slot status).raised = d.raised ++ [⟨0x7C0, evBootSlotFail, [slot, status - 1]⟩] := rfl

theorem slotFails_boot (d : Dev) (slot status : Nat) :
    (d.slotFails slot status).boot = { d.boot with causes := d.boot.causes.set slot (status - 1) } := rfl

theorem recovery_raised (d : Dev) : d.recovery.raised =
    d.raised ++ [⟨0x7C0, evBootRecovery, [d.boot.causes.getD 0 0, d.boot.causes.getD 1 0]⟩] := rfl

theorem headersRead_raised (d : Dev) (kind : ResetKind) (a b : Bytes) : (d.headersRead kind a b).raised = d.raised :=
  foldl_kept Dev.raised (fun (d : Dev) w => d.wr .scKeyhash [w] (d.rd .scCustkey [w])) (fun _ _ => rfl) (List.range 8)
    ((d.wr .ccFused [] 1).wr .glBoot [] bootLoading)

theorem headersRead_causes (d : Dev) (kind : ResetKind) (a b : Bytes) :
    (d.headersRead kind a b).boot.causes = [0, 0] := rfl

/-- Two invalid headers: both are posted, and the device is in RECOVERY. -/
theorem headersChecked_recovery (d : Dev) (kind : ResetKind) (a b : Bytes) (ca cb : Nat) (ha : ca ≠ 0) (hb : cb ≠ 0) :
    (d.headersChecked kind a b ca cb).recovery.raised = d.raised ++
      [⟨0x7C0, evBootSlotFail, [0, ca - 1]⟩, ⟨0x7C0, evBootSlotFail, [1, cb - 1]⟩,
        ⟨0x7C0, evBootRecovery, [ca - 1, cb - 1]⟩] := by
  have hboth : d.headersChecked kind a b ca cb = ((d.headersRead kind a b).slotFails 0 ca).slotFails 1 cb := by
    simp only [Dev.headersChecked, Dev.headerChecked, ha, hb, if_false]
  rw [hboth, recovery_raised, slotFails_raised, slotFails_raised, headersRead_raised, slotFails_boot, slotFails_boot]
  simp [headersRead_causes]

/-- The boot hashes the valid slot of the higher SEQUENCE, slot 0 of equals, and comes to RECOVERY with neither. -/
theorem bootStart_chooses (d : Dev) (k : ResetKind) (a b : Bytes) (ca cb : Nat) (hca : ca = headerCheck d.custkey a)
    (hcb : cb = headerCheck d.custkey b) :
    (ca = 0 → cb ≠ 0 ∨ headerSeq b ≤ headerSeq a → (d.bootStart k a b).boot.hashing = some 0 ∧
      (d.bootStart k a b).rd .glBoot = bootLoading) ∧
    (cb = 0 → ca ≠ 0 ∨ headerSeq a < headerSeq b → (d.bootStart k a b).boot.hashing = some 1 ∧
      (d.bootStart k a b).rd .glBoot = bootLoading) ∧
    (ca ≠ 0 → cb ≠ 0 → (d.bootStart k a b).boot.hashing = none ∧ (d.bootStart k a b).rd .glBoot = bootRecovery ∧
      (d.bootStart k a b).raised = d.raised ++
        [⟨0x7C0, evBootSlotFail, [0, ca - 1]⟩, ⟨0x7C0, evBootSlotFail, [1, cb - 1]⟩,
          ⟨0x7C0, evBootRecovery, [ca - 1, cb - 1]⟩]) := by
  rw [bootStart_eq d k a b ca cb hca hcb]
  have hload := headersChecked_glBoot d k a b ca cb
  refine ⟨fun ha hseq => ?first, fun hb hseq => ?second, fun ha hb => ?none⟩
  case first =>
    rw [if_pos ⟨ha, hseq⟩]
    exact ⟨rfl, hload⟩
  case second =>
    have hnot : ¬ (ca = 0 ∧ (cb ≠ 0 ∨ headerSeq b ≤ headerSeq a)) := by omega
    rw [if_neg hnot, if_pos hb]
    exact ⟨rfl, hload⟩
  case none =>
    have hnot : ¬ (ca = 0 ∧ (cb ≠ 0 ∨ headerSeq b ≤ headerSeq a)) := fun h => ha h.1
    rw [if_neg hnot, if_neg hb]
    exact ⟨rfl, recovery_glBoot _, headersChecked_recovery d k a b ca cb ha hb⟩

/-! ### The chosen slot is valid: Riraiz starts (R523) -/

/-- The facts of the chosen slot are in the registers. -/
def Dev.slotShown (d : Dev) (slot : Nat) : Dev :=
  (List.range 8).foldl (fun (d' : Dev) w => d'.wr .scFwDigest [w] (ofLe (slice (fwDigest (d.header slot)) (4 * w) 4)))
    ((((d.wr .scSlot [] slot).wr .scKey [] (headerKey (d.header slot))).wr .scSequence [] (headerSeq (d.header slot))).wr
      .scSlotStatus [slot] 0)

/-- Riraiz runs, and the pickups have not been looked for. -/
def Dev.riraizRuns (d : Dev) (slot : Nat) : Dev :=
  (((d.slotShown slot).wr .glBoot [] bootRunning).updBoot fun b => { b with hashing := none, reset := none }).riraizStart

theorem bootDone_eq (d : Dev) (slot : Nat) (answers : List PickupAnswer) : d.bootDone slot answers =
    ((d.riraizRuns slot).presence [] answers).raise 0x7C0 evBootDone
      ([slot, headerKey (d.header slot)] ++ le 4 (headerSeq (d.header slot))) := rfl

theorem slotShown_kept {γ : Type} (P : Dev → γ) (h : ∀ d r ix v, P (Dev.wr d r ix v) = P d) (d : Dev) (slot : Nat) :
    P (d.slotShown slot) = P d := by
  unfold Dev.slotShown
  rw [foldl_kept P _ fun d' w => h d' _ _ _]
  simp only [h]

theorem slotShown_rd (d : Dev) (slot : Nat) (r : Row) (ix : List Nat) (h : r ≠ .scFwDigest) :
    (d.slotShown slot).rd r ix =
      ((((d.wr .scSlot [] slot).wr .scKey [] (headerKey (d.header slot))).wr .scSequence [] (headerSeq (d.header slot))).wr
        .scSlotStatus [slot] 0).rd r ix := by
  refine foldl_kept (fun d : Dev => d.rd r ix) _ ?_ _ _
  exact fun d' w => (rd_wr d' .scFwDigest r [w] ix _).trans (if_neg fun e => h e.1)

theorem rd_updBoot (d : Dev) (f : Boot → Boot) (r : Row) (ix : List Nat) : (d.updBoot f).rd r ix = d.rd r ix := rfl

/-- The registers once the cache is cleared, locked for the service area and enabled. -/
theorem riraizStart_rd_eq (d : Dev) (r : Row) (ix : List Nat) : d.riraizStart.rd r ix =
    (((d.wr .ccCleared [] 1).wr .ccLockmask [] (d.rd .ccLockmask ||| 0xFF)).wr .ccEn [] 1).rd r ix := rfl

theorem riraizStart_rd (d : Dev) (r : Row) (ix : List Nat) (h : r ≠ .ccCleared ∧ r ≠ .ccLockmask ∧ r ≠ .ccEn) :
    d.riraizStart.rd r ix = d.rd r ix := by
  obtain ⟨hcleared, hmask, hen⟩ := h
  simp [riraizStart_rd_eq, rd_wr, hcleared, hmask, hen]

theorem riraizStart_enabled (d : Dev) : d.riraizStart.rd .ccEn = 1 ∧ d.riraizStart.rd .ccCleared = 1 := by
  constructor
  · rw [riraizStart_rd_eq, rd_wr, if_pos ⟨rfl, rfl⟩]
    rfl
  · rw [riraizStart_rd_eq, rd_wr, if_neg (by decide), rd_wr, if_neg (by decide), rd_wr, if_pos ⟨rfl, rfl⟩]
    rfl

/-- What the registers show once Riraiz runs. -/
theorem riraizRuns_registers (d : Dev) (slot : Nat) (h : slot ≤ 1) :
    (d.riraizRuns slot).rd .glBoot = bootRunning ∧ (d.riraizRuns slot).rd .scSlot = slot ∧
      (d.riraizRuns slot).rd .scSequence = headerSeq (d.header slot) % 2 ^ 32 ∧
      (d.riraizRuns slot).rd .ccEn = 1 ∧ (d.riraizRuns slot).rd .ccCleared = 1 := by
  have hbefore : ∀ r : Row, r ≠ .glBoot → r ≠ .scFwDigest → r ≠ .ccCleared ∧ r ≠ .ccLockmask ∧ r ≠ .ccEn →
      (d.riraizRuns slot).rd r = ((((d.wr .scSlot [] slot).wr .scKey [] (headerKey (d.header slot))).wr .scSequence []
        (headerSeq (d.header slot))).wr .scSlotStatus [slot] 0).rd r := by
    intro r hb hd hc
    rw [Dev.riraizRuns, riraizStart_rd _ r [] hc, rd_updBoot, rd_wr, if_neg fun e => hb e.1, slotShown_rd d slot r [] hd]
  refine ⟨?boot, ?chosen, ?seq, riraizStart_enabled _⟩
  case boot =>
    rw [Dev.riraizRuns, riraizStart_rd _ .glBoot [] (by decide), rd_updBoot, rd_wr, if_pos ⟨rfl, rfl⟩]
    rfl
  case chosen =>
    have hwidth : slot % 2 ^ Row.scSlot.spec.width = slot := Nat.mod_eq_of_lt (Nat.lt_of_le_of_lt h (by decide))
    rw [hbefore .scSlot (by decide) (by decide) (by decide), rd_wr, if_neg (by simp), rd_wr, if_neg (by simp), rd_wr,
      if_neg (by simp), rd_wr, if_pos ⟨rfl, rfl⟩, hwidth]
  case seq =>
    rw [hbefore .scSequence (by decide) (by decide) (by decide), rd_wr, if_neg (by simp), rd_wr, if_pos ⟨rfl, rfl⟩]
    rfl

theorem riraizRuns_training (d : Dev) (slot : Nat) : (d.riraizRuns slot).basin.trainStart = some d.time :=
  congrArg some (slotShown_kept Dev.time (fun _ _ _ _ => rfl) d slot)

theorem riraizRuns_raised (d : Dev) (slot : Nat) : (d.riraizRuns slot).raised = d.raised :=
  slotShown_kept Dev.raised (fun _ _ _ _ => rfl) d slot

/-- A slot whose body is as its header says runs, and the pickups are looked for. -/
theorem bootDone_runs (d : Dev) (slot : Nat) (answers : List PickupAnswer) (hslot : slot ≤ 1) :
    (d.bootDone slot answers).rd .glBoot = bootRunning ∧ (d.bootDone slot answers).rd .scSlot = slot ∧
      (d.bootDone slot answers).rd .scSequence = headerSeq (d.header slot) % 2 ^ 32 ∧
      (d.bootDone slot answers).on .ccEn = true ∧ (d.bootDone slot answers).on .ccCleared = true ∧
      (∀ p, p < 32 → ((d.bootDone slot answers).on .pkPresent [p] = true ↔
        ∃ e, answers.find? (fun e => e.pickup == p) = some e ∧ e.contract = 1 ∧ e.resent.getD 0 0 ≤ 3)) ∧
      (d.bootDone slot answers).basin.trainStart = some d.time ∧
      (∃ more, (d.bootDone slot answers).raised = d.raised ++ more ++
          [⟨0x7C0, evBootDone, [slot, headerKey (d.header slot)] ++ le 4 (headerSeq (d.header slot))⟩] ∧
        ((∀ p, p < 32 → ∃ e, answers.find? (fun e => e.pickup == p) = some e ∧ ∀ n ∈ e.resent, n ≤ 3) → more = []) ∧
        ∀ p, p < 32 → answers.find? (fun e => e.pickup == p) = none →
          ∃ e ∈ more, e.src = 32 * p + 23 ∧ e.code = evPickupBusFail) := by
  obtain ⟨hboot, hsl, hseq, hen, hcl⟩ := riraizRuns_registers d slot hslot
  obtain ⟨more, hmore, hquiet, hpost⟩ := presence_raised (d.riraizRuns slot) [] answers
  have hkeep := presence_keeps (d.riraizRuns slot) [] answers
  have hrd : ∀ r, r ∉ presenceRows → (d.bootDone slot answers).rd r = (d.riraizRuns slot).rd r := by
    intro r hr
    rw [bootDone_eq]
    exact hkeep.rd r [] hr
  refine ⟨?boot, ?chosen, ?seq, ?en, ?cleared, fun p hp => ?present, ?training, more, ?raised, hquiet, hpost⟩
  case boot => rw [hrd _ (by decide), hboot]
  case chosen => rw [hrd _ (by decide), hsl]
  case seq => rw [hrd _ (by decide), hseq]
  case en => rw [Dev.on, hrd _ (by decide), hen]; rfl
  case cleared => rw [Dev.on, hrd _ (by decide), hcl]; rfl
  case present => exact presence_present (d.riraizRuns slot) [] answers p hp
  case training => exact hkeep.training.trans (riraizRuns_training d slot)
  case raised =>
    rw [bootDone_eq, ← riraizRuns_raised d slot, ← hmore]
    rfl

/-! ### BOOT_SLOT_HASHED -/

section
variable (s : State) (slot : Nat) (body : Bytes) (answers : List PickupAnswer) (hs : s.dev.boot.hashing = some slot)
include hs

theorem bootSlotHashed_good (hok : bodyOk (s.dev.header slot) body = true) :
    Makes (.bootSlotHashed body answers) s (s.dev.bootDone slot answers) := by
  change execBootSlotHashed body answers s = _
  simp only [execBootSlotHashed, act_eq, hs, if_pos hok]

theorem bootSlotHashed_bad (hok : bodyOk (s.dev.header slot) body = false) :
    Makes (.bootSlotHashed body answers) s
      (if (s.dev.slotFails slot 4).rd .scSlotStatus [1 - slot] = 5 ∧
          headerCheck (s.dev.slotFails slot 4).custkey ((s.dev.slotFails slot 4).header (1 - slot)) = 0 then
        (s.dev.slotFails slot 4).updBoot fun b => { b with hashing := some (1 - slot) }
      else (s.dev.slotFails slot 4).recovery) := by
  change execBootSlotHashed body answers s = _
  simp only [execBootSlotHashed, act_eq, hs, hok, Bool.false_eq_true, if_false]

end

/-- The failure of a slot leaves the other one's status, its header and the customer key. -/
theorem slotFails_other (d : Dev) (slot : Nat) (h : slot ≤ 1) :
    (d.slotFails slot 4).rd .scSlotStatus [1 - slot] = d.rd .scSlotStatus [1 - slot] ∧
      (d.slotFails slot 4).custkey = d.custkey ∧ (d.slotFails slot 4).header (1 - slot) = d.header (1 - slot) := by
  have hne : ¬ 1 - slot = slot := by omega
  refine ⟨(rd_wr d .scSlotStatus .scSlotStatus [slot] [1 - slot] 4).trans (if_neg (by simp [hne])), ?_, rfl⟩
  exact custkey_congr fun w => (rd_wr d .scSlotStatus .scCustkey [slot] [w] 4).trans (if_neg (by simp))

/-- The other slot is hashed when the present one's body fails and the other one's header is valid. -/
theorem bootSlotHashed_other (s : State) (slot : Nat) (body : Bytes) (answers : List PickupAnswer)
    (hs : s.dev.boot.hashing = some slot) (hslot : slot ≤ 1) (hok : bodyOk (s.dev.header slot) body = false)
    (h5 : s.dev.rd .scSlotStatus [1 - slot] = 5) (hcheck : headerCheck s.dev.custkey (s.dev.header (1 - slot)) = 0) :
    ∃ d, Makes (.bootSlotHashed body answers) s d ∧ d.boot.hashing = some (1 - slot) ∧ d.rd .scSlotStatus [slot] = 4 ∧
      d.raised = s.dev.raised ++ [⟨0x7C0, evBootSlotFail, [slot, 3]⟩] := by
  obtain ⟨hstatus, hkey, hheader⟩ := slotFails_other s.dev slot hslot
  have hmakes := bootSlotHashed_bad s slot body answers hs hok
  rw [hstatus, hkey, hheader, if_pos ⟨h5, hcheck⟩] at hmakes
  exact ⟨_, hmakes, rfl, (rd_wr s.dev .scSlotStatus .scSlotStatus [slot] [slot] 4).trans (if_pos ⟨rfl, rfl⟩), rfl⟩

/-- RECOVERY follows when the other slot has been checked and failed. -/
theorem bootSlotHashed_neither (s : State) (slot : Nat) (body : Bytes) (answers : List PickupAnswer)
    (hs : s.dev.boot.hashing = some slot) (hslot : slot ≤ 1) (hok : bodyOk (s.dev.header slot) body = false)
    (h5 : s.dev.rd .scSlotStatus [1 - slot] ≠ 5) :
    ∃ d, Makes (.bootSlotHashed body answers) s d ∧ d.rd .glBoot = bootRecovery := by
  obtain ⟨hstatus, -, -⟩ := slotFails_other s.dev slot hslot
  have hmakes := bootSlotHashed_bad s slot body answers hs hok
  rw [hstatus, if_neg fun e => h5 e.1] at hmakes
  exact ⟨_, hmakes, recovery_glBoot _⟩

end Sys2Proof.Machine
end

section
/-! SUPPORT. Device time, VCORE, the snapshot and the pace (O49). -/

namespace Sys2Proof.Machine

/-! ### TIME_LO (R16, R528) -/

theorem fieldsAt_timeLo : fieldsAt 8 = [⟨.glTimeLo, []⟩] := by decide +kernel

theorem readField_timeLo (d : Dev) (ev : Tab Src) : d.readField ev ⟨.glTimeLo, []⟩ = d.time % 2 ^ 32 := rfl

/-- While BAR0 works a read of TIME_LO shows the low word of device time. -/
theorem readWord_timeLo (d : Dev) (ev : Tab Src) (h : d.ready = true) : d.readWord ev 8 = d.time % 2 ^ 32 := by
  have hlsb : Fld.lsb ⟨.glTimeLo, []⟩ = 0 := rfl
  rw [readWord_ready d ev 8 h (by decide) (by decide), fieldsAt_timeLo]
  simp [readField_timeLo, hlsb]

/-- Until BAR0 works it reads 0. -/
theorem readWord_timeLo_not_ready (d : Dev) (ev : Tab Src) (h : d.ready = false) : d.readWord ev 8 = 0 :=
  readWord_not_ready_zero d ev 8 h (.inr (by simp [fieldsAt_timeLo]))

/-- The low four bytes of a number are those of its low word. -/
theorem le_four_mod (n : Nat) : le 4 (n % 2 ^ 32) = le 4 n := by
  simp only [le, List.cons.injEq, and_true]
  omega

theorem timeLoRead_latches (s : State) (hr : s.dev.ready = true) :
    ∃ d, Makes .timeLoRead s d ∧ d.out = s.dev.out ++ [.barRead (le 4 s.dev.time) false] ∧
      d.rd .glTimeHi = s.dev.time / 2 ^ 32 % 2 ^ 32 ∧ s.dev.OnlyChanges d [⟨.glTimeHi, []⟩] [] [.out] := by
  have hmakes : Makes .timeLoRead s
      ((s.dev.wr .glTimeHi [] (s.dev.time / 2 ^ 32)).emit (.barRead (le 4 s.dev.time) false)) := by
    change execTimeLoRead s = _
    simp only [execTimeLoRead, act_eq, if_pos hr, readWord_timeLo s.dev s.ev hr, le_four_mod]
  refine ⟨_, hmakes, rfl, ?_, ?_⟩
  · exact (rd_wr s.dev .glTimeHi .glTimeHi [] [] _).trans (if_pos ⟨rfl, rfl⟩)
  · exact (onlyChanges_wr _ _ _ _ (by simp)).trans (onlyChanges_emit _ _ (by simp))

theorem timeLoRead_not_ready (s : State) (hr : s.dev.ready = false) :
    Makes .timeLoRead s (s.dev.emit (.barRead [0, 0, 0, 0] false)) := by
  change execTimeLoRead s = _
  simp [execTimeLoRead, act_eq, hr, readWord_timeLo_not_ready, le]

/-! ### VCORE (R23, R27) -/

theorem vcoreSettled_ends (s : State) (v : Nat) (hpor : s.dev.pins.por = false)
    (hoff : s.dev.on .glVcoreSettled = false) (hv : v = 600 + 5 * min (s.dev.rd .glVcoreLevel) 50) :
    (s.dev.vcoreNeeded ≤ v → ∃ d, Makes .vcoreSettled s d ∧ d.on .glVcoreSettled = true ∧ d.boot.vcore = v) ∧
    (v < s.dev.vcoreNeeded → exec .vcoreSettled s = .fault .vcoreTooLow) := by
  have hlevel : vcoreOf (s.dev.rd .glVcoreLevel) = v := hv.symm
  have hmoving : ¬ (s.dev.on .glVcoreSettled = true ∨ s.dev.pins.por = true) := by simp [hpor, hoff]
  constructor
  · intro hok
    refine ⟨(s.dev.wr .glVcoreSettled [] 1).updBoot fun b => { b with vcore := v }, ?_, ?_, rfl⟩
    · change execVcoreSettled s = _
      simp only [execVcoreSettled, hlevel, if_neg hmoving, if_neg (Nat.not_lt.2 hok), act_eq]
    · rw [Dev.on, rd_updBoot, rd_wr, if_pos ⟨rfl, rfl⟩]
      rfl
  · intro hlow
    change execVcoreSettled s = _
    simp only [execVcoreSettled, hlevel, if_neg hmoving, if_pos hlow]

/-! ### The snapshot (R41) -/

/-- The counters of the registers with their snapshot rows: those of a ring, a link, a pickup, and the basin. -/
def ringSnaps : List (Row × Row) :=
  [(.sqConsumed, .sqSnapConsumed), (.sqCompleted, .sqSnapCompleted), (.sqAborted, .sqSnapAborted), (.sqInflight, .sqSnapInflight)]
def linkSnaps : List (Row × Row) :=
  [(.lnCreditGranted, .lnSnapCreditGranted), (.lnCreditConsumed, .lnSnapCreditConsumed),
    (.lnCreditReturned, .lnSnapCreditReturned), (.lnCreditOutstanding, .lnSnapCreditOutstanding),
    (.lnTagIssued, .lnSnapTagIssued), (.lnTagStatted, .lnSnapTagStatted), (.lnTagReset, .lnSnapTagReset),
    (.lnTagOpen, .lnSnapTagOpen)]
def rowSnaps : List (Row × Row) :=
  [(.rowAlloc, .rowSnapAlloc), (.rowWritten, .rowSnapWritten), (.rowAbandoned, .rowSnapAbandoned), (.rowInprog, .rowSnapInprog)]
def unitSnaps : List (Row × Row) :=
  [(.bsUnitsInstalled, .bsSnapInstalled), (.bsUnitsFree, .bsSnapFree), (.bsUnitsReserved, .bsSnapReserved),
    (.bsUnitsHeld, .bsSnapHeld)]

/-- Every counter with its snapshot row. -/
def allSnaps : List (Row × Row) := ringSnaps ++ linkSnaps ++ rowSnaps ++ unitSnaps

/-- No counter is a snapshot, each snapshot has one counter, and none is SNAP.DONE. -/
theorem allSnaps_apart : ∀ x ∈ allSnaps, x.2 ≠ .glSnapDone ∧ ∀ y ∈ allSnaps, y.2 ≠ x.1 ∧ (y.2 = x.2 → y.1 = x.1) := by
  decide +kernel

/-- The copies of some rows for each of n elements. -/
def snapsOf (n : Nat) (rows : List (Row × Row)) : List (Row × Row × List Nat) :=
  (List.range n).flatMap fun i => rows.map fun x => (x.1, x.2, [i])

/-- Every copy of a snapshot, in the order in which they are made. -/
def snapPlan : List (Row × Row × List Nat) :=
  snapsOf 256 ringSnaps ++ snapsOf 8 linkSnaps ++ snapsOf 32 rowSnaps ++ unitSnaps.map fun x => (x.1, x.2, [])

theorem foldl_snapsOf (n : Nat) (rows : List (Row × Row)) (d : Dev) :
    (snapsOf n rows).foldl (fun (d : Dev) x => d.snap x.1 x.2.1 x.2.2) d =
      (List.range n).foldl (fun (d : Dev) i => rows.foldl (fun (d : Dev) x => d.snap x.1 x.2 [i]) d) d := by
  simp only [snapsOf, List.foldl_flatMap, List.foldl_map]

theorem snapAll_eq (d : Dev) : d.snapAll = snapPlan.foldl (fun (d : Dev) x => d.snap x.1 x.2.1 x.2.2) d := by
  simp only [snapPlan, List.foldl_append, foldl_snapsOf, List.foldl_map]
  rfl

/-- A copy writes its own field alone. -/
theorem snap_rd_of_ne (d : Dev) (src dst r : Row) (ix jx : List Nat) (h : ¬ (r = dst ∧ jx = ix)) :
    (d.snap src dst ix).rd r jx = d.rd r jx := by
  unfold Dev.snap
  split
  · rfl
  · rw [rd_wr, if_neg h]

/-- After a copy the snapshot holds what its width holds of the counter. -/
theorem snap_rd (d : Dev) (src dst : Row) (ix : List Nat) :
    (d.snap src dst ix).rd dst ix % 2 ^ dst.spec.width = d.rd src ix % 2 ^ dst.spec.width := by
  unfold Dev.snap
  split
  · next h => rw [h]
  · rw [rd_wr, if_pos ⟨rfl, rfl⟩, Nat.mod_mod]

/-- Copies in a list in which no counter is a snapshot and each snapshot has one counter. -/
theorem foldl_snap_rd (src dst : Row) (ix : List Nat) (l : List (Row × Row × List Nat)) (d : Dev)
    (hsrc : ∀ x ∈ l, x.2.1 ≠ src) (hone : ∀ x ∈ l, x.2.1 = dst → x.1 = src)
    (h : (src, dst, ix) ∈ l ∨ d.rd dst ix % 2 ^ dst.spec.width = d.rd src ix % 2 ^ dst.spec.width) :
    (l.foldl (fun (d : Dev) x => d.snap x.1 x.2.1 x.2.2) d).rd dst ix % 2 ^ dst.spec.width =
      d.rd src ix % 2 ^ dst.spec.width := by
  induction l generalizing d with
  | nil => exact h.resolve_left (by simp)
  | cons x l ih =>
    obtain ⟨hx, hl⟩ := List.forall_mem_cons.1 hsrc
    obtain ⟨hxone, hlone⟩ := List.forall_mem_cons.1 hone
    have hkept : (d.snap x.1 x.2.1 x.2.2).rd src ix = d.rd src ix :=
      snap_rd_of_ne d _ _ _ _ _ fun e => hx e.1.symm
    have hstep := ih (d.snap x.1 x.2.1 x.2.2) hl hlone
    rw [hkept] at hstep
    refine hstep ?_
    by_cases hthis : dst = x.2.1 ∧ ix = x.2.2
    · right
      rw [hthis.1, hthis.2, snap_rd, hxone hthis.1.symm]
    · rcases h with h | h
      · rcases List.mem_cons.1 h with he | he
        · exact absurd (by rw [← he]; exact ⟨rfl, rfl⟩) hthis
        · exact .inl he
      · right
        rw [snap_rd_of_ne d _ _ _ _ _ hthis, h]

/-- Of every copy the plan makes, the rows. -/
theorem snapPlan_rows (x : Row × Row × List Nat) (h : x ∈ snapPlan) :
    (x.1, x.2.1) ∈ allSnaps := by
  simp only [snapPlan, snapsOf, allSnaps, List.mem_append, List.mem_flatMap, List.mem_map] at h ⊢
  rcases h with ((⟨_, _, y, hy, rfl⟩ | ⟨_, _, y, hy, rfl⟩) | ⟨_, _, y, hy, rfl⟩) | ⟨y, hy, rfl⟩
  · exact .inl (.inl (.inl hy))
  · exact .inl (.inl (.inr hy))
  · exact .inl (.inr hy)
  · exact .inr hy

theorem snapAll_rd (d : Dev) (x : Row × Row) (ix : List Nat) (hx : x ∈ allSnaps) (hmem : (x.1, x.2, ix) ∈ snapPlan) :
    d.snapAll.rd x.2 ix % 2 ^ x.2.spec.width = d.rd x.1 ix % 2 ^ x.2.spec.width := by
  obtain ⟨-, hapart⟩ := allSnaps_apart x hx
  rw [snapAll_eq]
  exact foldl_snap_rd x.1 x.2 ix snapPlan d (fun y hy => (hapart _ (snapPlan_rows y hy)).1)
    (fun y hy => (hapart _ (snapPlan_rows y hy)).2) (.inl hmem)

theorem ringSnaps_mem (r : Nat) (h : r < 256) (x : Row × Row) (hx : x ∈ ringSnaps) : (x.1, x.2, [r]) ∈ snapPlan := by
  simp only [snapPlan, snapsOf, List.mem_append, List.mem_flatMap, List.mem_map]
  exact .inl (.inl (.inl ⟨r, List.mem_range.2 h, x, hx, rfl⟩))

theorem unitSnaps_mem (x : Row × Row) (hx : x ∈ unitSnaps) : (x.1, x.2, []) ∈ snapPlan := by
  simp only [snapPlan, List.mem_append, List.mem_map]
  exact .inr ⟨x, hx, rfl⟩

/-- The device of a SNAP_TAKE. -/
def Dev.snapTaken (d : Dev) : Dev := (d.snapAll.wr .glSnapDone [] 0).updBoot fun b => { b with snapBusy := true }

theorem snapTaken_rd (d : Dev) (r : Row) (ix : List Nat) (h : r ≠ .glSnapDone) :
    d.snapTaken.rd r ix = d.snapAll.rd r ix := by
  rw [Dev.snapTaken, rd_updBoot, rd_wr, if_neg fun e => h e.1]

/-- The copies of ring r's counters. -/
theorem snapTaken_ring (d : Dev) (r : Nat) (h : r < 256) (x : Row × Row) (hx : x ∈ ringSnaps) :
    d.snapTaken.rd x.2 [r] % 2 ^ x.2.spec.width = d.rd x.1 [r] % 2 ^ x.2.spec.width := by
  have hall : x ∈ allSnaps := by simp only [allSnaps, List.mem_append]; exact .inl (.inl (.inl hx))
  rw [snapTaken_rd d x.2 [r] (allSnaps_apart x hall).1, snapAll_rd d x [r] hall (ringSnaps_mem r h x hx)]

/-- The copies of the basin's counts of units. -/
theorem snapTaken_units (d : Dev) (x : Row × Row) (hx : x ∈ unitSnaps) :
    d.snapTaken.rd x.2 % 2 ^ x.2.spec.width = d.rd x.1 % 2 ^ x.2.spec.width := by
  have hall : x ∈ allSnaps := by simp only [allSnaps, List.mem_append]; exact .inr hx
  rw [snapTaken_rd d x.2 [] (allSnaps_apart x hall).1, snapAll_rd d x [] hall (unitSnaps_mem x hx)]

theorem snapTake_copies (s : State) (hr : s.dev.ready = true) :
    ∃ t, exec .snapTake s = .next t ∧ t.ev = s.ev.map (fun e => (e.1, e.2.snap)) ∧ t.dev.on .glSnapDone = false ∧
      t.dev.boot.snapBusy = true ∧
      (∀ r, r < 256 → t.dev.rd .sqSnapConsumed [r] % 2 ^ 32 = s.dev.rd .sqConsumed [r] % 2 ^ 32 ∧
        t.dev.rd .sqSnapCompleted [r] % 2 ^ 32 = s.dev.rd .sqCompleted [r] % 2 ^ 32 ∧
        t.dev.rd .sqSnapAborted [r] % 2 ^ 32 = s.dev.rd .sqAborted [r] % 2 ^ 32 ∧
        t.dev.rd .sqSnapInflight [r] % 2 ^ 32 = s.dev.rd .sqInflight [r] % 2 ^ 32) ∧
      t.dev.rd .bsSnapFree % 2 ^ 21 = s.dev.rd .bsUnitsFree % 2 ^ 21 ∧
      t.dev.rd .bsSnapReserved % 2 ^ 21 = s.dev.rd .bsUnitsReserved % 2 ^ 21 ∧
      t.dev.rd .bsSnapHeld % 2 ^ 21 = s.dev.rd .bsUnitsHeld % 2 ^ 21 := by
  have heq : exec .snapTake s = .next { s with dev := s.dev.snapTaken, ev := s.ev.map fun e => (e.1, e.2.snap) } := by
    change execSnapTake s = _
    simp only [execSnapTake, hr, Bool.not_true, Bool.false_eq_true, if_false]
    rfl
  refine ⟨_, heq, rfl, ?done, rfl, fun r h => ⟨?consumed, ?completed, ?aborted, ?inflight⟩, ?free, ?reserved, ?held⟩
  case done =>
    have hset : s.dev.snapTaken.rd .glSnapDone = 0 := by rw [Dev.snapTaken, rd_updBoot, rd_wr, if_pos ⟨rfl, rfl⟩]; rfl
    exact beq_false_of_ne (by rw [hset]; decide)
  case consumed => exact snapTaken_ring s.dev r h (.sqConsumed, .sqSnapConsumed) (by decide)
  case completed => exact snapTaken_ring s.dev r h (.sqCompleted, .sqSnapCompleted) (by decide)
  case aborted => exact snapTaken_ring s.dev r h (.sqAborted, .sqSnapAborted) (by decide)
  case inflight => exact snapTaken_ring s.dev r h (.sqInflight, .sqSnapInflight) (by decide)
  case free => exact snapTaken_units s.dev (.bsUnitsFree, .bsSnapFree) (by decide)
  case reserved => exact snapTaken_units s.dev (.bsUnitsReserved, .bsSnapReserved) (by decide)
  case held => exact snapTaken_units s.dev (.bsUnitsHeld, .bsSnapHeld) (by decide)

theorem snapDone_shows (s : State) (h : s.dev.boot.snapBusy = true) :
    ∃ d, Makes .snapDone s d ∧ d.on .glSnapDone = true ∧ d.boot.snapBusy = false ∧
      s.dev.OnlyChanges d [⟨.glSnapDone, []⟩] [] [.boot] := by
  refine ⟨(s.dev.wr .glSnapDone [] 1).updBoot fun b => { b with snapBusy := false }, ?makes, ?done, rfl, ?frame⟩
  case makes =>
    change execSnapDone s = _
    simp only [execSnapDone, act_eq, if_pos h]
  case done =>
    rw [Dev.on, rd_updBoot, rd_wr, if_pos ⟨rfl, rfl⟩]
    rfl
  case frame => exact (onlyChanges_wr _ _ _ _ (by simp)).trans (onlyChanges_updBoot _ _ (by simp))

/-! ### The pace (R31) -/

/-- The least of some numbers is at most each of them, and one of them or the bound. -/
theorem foldl_min_spec (f : Nat → Nat) (l : List Nat) (m : Nat) : l.foldl (fun m i => min m (f i)) m ≤ m ∧
    (∀ i ∈ l, l.foldl (fun m i => min m (f i)) m ≤ f i) ∧
    (l.foldl (fun m i => min m (f i)) m = m ∨ ∃ i ∈ l, l.foldl (fun m i => min m (f i)) m = f i) := by
  induction l generalizing m with
  | nil => simp
  | cons j l ih =>
    obtain ⟨hle, hall, hone⟩ := ih (min m (f j))
    refine ⟨le_trans hle (min_le_left _ _), fun i hi => ?_, ?_⟩
    · rcases List.mem_cons.1 hi with rfl | hi
      · exact le_trans hle (min_le_right _ _)
      · exact hall i hi
    · rcases hone with h | ⟨i, hi, h⟩
      · rcases min_choice m (f j) with hm | hm
        · exact .inl (h.trans hm)
        · exact .inr ⟨j, by simp, h.trans hm⟩
      · exact .inr ⟨i, List.mem_cons_of_mem _ hi, h⟩

/-- Writes of one row at the indices of a list. -/
theorem foldl_wr_rd (r : Row) (v : Nat → Nat) (l : List Nat) (d : Dev) (j : Nat) :
    (l.foldl (fun (d : Dev) i => d.wr r [i] (v i)) d).rd r [j] =
      if j ∈ l then v j % 2 ^ r.spec.width else d.rd r [j] := by
  induction l generalizing d with
  | nil => simp
  | cons i l ih =>
    rw [List.foldl_cons, ih, rd_wr]
    by_cases hl : j ∈ l
    · simp [hl]
    · by_cases hi : j = i
      · subst hi; simp [hl]
      · simp [hl, hi]

/-- The count of die i. -/
def dieCount (counts : List Nat) (i : Nat) : Nat := counts.getD i 0 % 65536

/-- The lowest count of the six dice. -/
def lowestCount (counts : List Nat) : Nat := (List.range 6).foldl (fun m i => min m (dieCount counts i)) 65535

theorem dieCount_lt (counts : List Nat) (i : Nat) : dieCount counts i < 65536 := Nat.mod_lt _ (by decide)

theorem lowestCount_spec (counts : List Nat) : (∀ i, i < 6 → lowestCount counts ≤ dieCount counts i) ∧
    ∃ i, i < 6 ∧ lowestCount counts = dieCount counts i := by
  obtain ⟨hle, hall, hone⟩ := foldl_min_spec (dieCount counts) (List.range 6) 65535
  have hsix : ∀ i, i < 6 → lowestCount counts ≤ dieCount counts i := fun i hi => hall i (List.mem_range.2 hi)
  refine ⟨hsix, ?_⟩
  rcases hone with h | ⟨i, hi, h⟩
  · have hbound : lowestCount counts = 65535 := h
    have hzero := hsix 0 (by decide)
    have hlt := dieCount_lt counts 0
    exact ⟨0, by decide, by omega⟩
  · exact ⟨i, List.mem_range.1 hi, h⟩

/-- The dice's counts are in their registers. -/
def Dev.diceShown (d : Dev) (counts : List Nat) : Dev :=
  (List.range 6).foldl (fun (d : Dev) i => d.wr .glPaceDie [i] (dieCount counts i)) d

theorem diceShown_rd (d : Dev) (counts : List Nat) (i : Nat) (h : i < 6) :
    (d.diceShown counts).rd .glPaceDie [i] = dieCount counts i := by
  rw [Dev.diceShown, foldl_wr_rd, if_pos (List.mem_range.2 h)]
  exact Nat.mod_eq_of_lt (dieCount_lt counts i)

theorem diceShown_kept (d : Dev) (counts : List Nat) (r : Row) (ix : List Nat) (h : r ≠ .glPaceDie) :
    (d.diceShown counts).rd r ix = d.rd r ix := by
  refine foldl_kept (fun d : Dev => d.rd r ix) _ ?_ _ _
  exact fun d i => (rd_wr d .glPaceDie r [i] ix _).trans (if_neg fun e => h e.1)

theorem diceShown_out (d : Dev) (counts : List Nat) : (d.diceShown counts).out = d.out :=
  foldl_kept Dev.out (fun (d : Dev) i => d.wr .glPaceDie [i] (dieCount counts i)) (fun _ _ => rfl) _ d

theorem paceUpdate_lowest (s : State) (counts : List Nat) (hpor : s.dev.pins.por = false) (_ : counts.length = 6) :
    ∃ d, Makes (.paceUpdate counts) s d ∧ (∀ i, i < 6 → d.rd .glPaceDie [i] = counts.getD i 0 % 65536) ∧
      (∀ i, i < 6 → d.rd .glPace ≤ counts.getD i 0 % 65536) ∧ (∃ i, i < 6 ∧ d.rd .glPace = counts.getD i 0 % 65536) ∧
      (∀ r ix, r ≠ .glPace → r ≠ .glPaceDie → d.rd r ix = s.dev.rd r ix) ∧ d.out = s.dev.out := by
  have hmakes : Makes (.paceUpdate counts) s ((s.dev.diceShown counts).wr .glPace [] (lowestCount counts)) := by
    change execPaceUpdate counts s = _
    simp only [execPaceUpdate, act_eq, hpor, Bool.false_eq_true, if_false]
    rfl
  obtain ⟨hall, i, hi, hone⟩ := lowestCount_spec counts
  have hpace : ((s.dev.diceShown counts).wr .glPace [] (lowestCount counts)).rd .glPace = lowestCount counts := by
    rw [rd_wr, if_pos ⟨rfl, rfl⟩, hone]
    exact Nat.mod_eq_of_lt (dieCount_lt counts i)
  refine ⟨_, hmakes, fun j hj => ?dice, fun j hj => ?le, ⟨i, hi, ?eq⟩, fun r ix hp hd => ?frame, ?out⟩
  case dice =>
    rw [rd_wr, if_neg (by simp), diceShown_rd s.dev counts j hj]
    rfl
  case le =>
    rw [hpace]
    exact hall j hj
  case eq =>
    rw [hpace]
    exact hone
  case frame => rw [rd_wr, if_neg fun e => hp e.1, diceShown_kept s.dev counts r ix hd]
  case out => exact diceShown_out s.dev counts

/-- Settles O49: the boot by `bootStart_chooses` and the three ends of a slot's hash, and one lemma per command of the rest. -/
theorem bootTimeAndSnapshots : Obligations.BootTimeAndSnapshots := by
  unfold Obligations.BootTimeAndSnapshots
  refine ⟨bootStart_chooses, ?hashed, timeLoRead_latches, timeLoRead_not_ready, ?vcore, vcoreSettled_ends,
    snapTake_copies, snapDone_shows, paceUpdate_lowest⟩
  case hashed =>
    intro s slot body answers h hs hslot hh
    subst hh
    exact ⟨fun hok => ⟨_, bootSlotHashed_good s slot body answers hs hok, bootDone_runs s.dev slot answers hslot⟩,
      bootSlotHashed_other s slot body answers hs hslot, bootSlotHashed_neither s slot body answers hs hslot⟩
  case vcore => exact fun s level hr => hostAct_ready s (fun d => (d.wr .glVcoreLevel [] level).wr .glVcoreSettled [] 0) hr

end Sys2Proof.Machine
end

section
/-! SUPPORT. The start of MEDIA_LOAD and MEDIA_UNLOAD (O30). -/

namespace Sys2Proof.Machine

/-! ### A load's answers (R326, R419) -/

/-- What MEDIA_LOAD does with a command that has started. -/
def Dev.loadStart (d : Dev) (o : Origin) (mask : Nat) (read : LoadRead) : Dev :=
  if !d.on .bsReady then d.refuse o clsResource detBasinNotReady
  else if d.loadBusy o ∨ d.boot.fwLoad.isSome then d.refuse o clsResource detBusy
  else if d.loadInForce then d.refuse o clsResource detAlreadyLoaded
  else d.load o mask read

theorem mediaLoad_starts (s : State) (r : Fin 256) (cookie mask : Nat) (read : LoadRead) (hs : s.dev.mayStart r) :
    MakesThenRuns (.mediaLoad r cookie mask read) s
      ((s.dev.started r { origin := .ring r 0, op := 0x18, cookie := cookie, arg := mask }).loadStart (s.dev.nextOrigin r)
        mask read) :=
  makesThenRuns_of_mayStart (k := fun d o => d.loadStart o mask read) rfl hs

section
variable (d : Dev) (o : Origin) (mask : Nat) (read : LoadRead)

theorem loadStart_loads (hready : d.on .bsReady = true) (hidle : d.loadBusy o = false) (hfw : d.boot.fwLoad = none)
    (hload : d.loadInForce = false) : d.loadStart o mask read = d.load o mask read := by
  simp [Dev.loadStart, hready, hidle, hfw, hload]

theorem loadStart_without_basin (hready : d.on .bsReady = false) :
    d.loadStart o mask read = d.finish o clsResource 0x0008 := by
  simp [Dev.loadStart, hready, Dev.refuse, detBasinNotReady]

theorem loadStart_busy (hready : d.on .bsReady = true) (hbusy : d.loadBusy o = true ∨ d.boot.fwLoad.isSome = true) :
    d.loadStart o mask read = d.finish o clsResource 0x0009 := by
  simp [Dev.loadStart, hready, hbusy, Dev.refuse, detBusy]

theorem loadStart_loaded (hready : d.on .bsReady = true) (hidle : d.loadBusy o = false) (hfw : d.boot.fwLoad = none)
    (hload : d.loadInForce = true) : d.loadStart o mask read = d.finish o clsResource detAlreadyLoaded := by
  simp [Dev.loadStart, hready, hidle, hfw, hload, Dev.refuse]

end

/-! ### A take of the log (R384, R392) -/

/-- The record that closes a take in the log (Table 12-8). -/
def closeRecord (rs : List CatRec) (id : Nat) : Option CatRec :=
  rs.find? fun r => r.rtype == 0x0012 && ofLe (slice r.body 8 8) == id

theorem takeOf_state (rs : List CatRec) (ss : List Stripe) (id : Nat) :
    (takeOf rs ss id).state = if (closeRecord rs id).isSome then .closed else .unclosed := by
  unfold takeOf closeRecord
  split <;> simp [*]

theorem closeRecord_isSome (rs : List CatRec) (id : Nat) :
    (closeRecord rs id).isSome ↔ ∃ r ∈ rs, r.rtype = 0x0012 ∧ ofLe (slice r.body 8 8) = id := by
  simp [closeRecord, List.find?_isSome]

/-! ### MEDIA_UNLOAD (R326, R403) -/

/-- The takes of an unload: none stays OPEN. -/
def Dev.takesUnclosed (d : Dev) : Dev :=
  let takes := d.takes.map fun (t : Take) => if t.state = .opened then { t with state := .unclosed } else t
  ({ d with takes := takes }).takeCounts

theorem takesUnclosed_none_opened (d : Dev) : ∀ t ∈ d.takesUnclosed.takes, t.state ≠ TakeState.opened := by
  intro t ht
  obtain ⟨u, _, rfl⟩ : ∃ u ∈ d.takes, (if u.state = .opened then { u with state := .unclosed } else u) = t := by
    simpa [Dev.takesUnclosed, Dev.takeCounts] using ht
  split <;> simp_all

/-- What MEDIA_UNLOAD does with a command that has started. -/
def Dev.unloadStart (d : Dev) (o : Origin) : Dev :=
  if d.loadBusy o then d.refuse o clsResource detBusy
  else if !d.loadInForce then d.updCmd o fun c => { c with phase := .running }
  else
    let e := ((d.commitAll o).dueCopies).takesUnclosed
    e.updCmd o fun c => { c with phase := .medium, waits := e.flushWaits }

theorem mediaUnload_starts (s : State) (r : Fin 256) (cookie : Nat) (hs : s.dev.mayStart r) :
    MakesThenRuns (.mediaUnload r cookie) s
      ((s.dev.started r { origin := .ring r 0, op := 0x19, cookie := cookie }).unloadStart (s.dev.nextOrigin r)) :=
  makesThenRuns_of_mayStart (k := fun d o => d.unloadStart o) rfl hs

theorem unloadStart_unloaded (d : Dev) (o : Origin) (hidle : d.loadBusy o = false) (hload : d.loadInForce = false) :
    d.unloadStart o = d.updCmd o fun c => { c with phase := .running } := by
  simp [Dev.unloadStart, hidle, hload]

theorem unloadStart_none_opened (d : Dev) (o : Origin) (hidle : d.loadBusy o = false) (hload : d.loadInForce = true) :
    ∀ t ∈ (d.unloadStart o).takes, t.state ≠ .opened := by
  have htakes : (d.unloadStart o).takes = ((d.commitAll o).dueCopies).takesUnclosed.takes := by
    simp [Dev.unloadStart, hidle, hload]
  rw [htakes]
  exact takesUnclosed_none_opened _

/-- Settles O30: the answers of a load and of an unload that start (`loadStart`, `unloadStart`), case by case, and the
state of a take that the log gives. -/
theorem loadsStartOrAreRefused : Obligations.LoadsStartOrAreRefused := by
  unfold Obligations.LoadsStartOrAreRefused
  refine ⟨?load, ?take, ?unload⟩
  case load =>
    intro s r cookie mask read e hs he
    have hmakes := mediaLoad_starts s r cookie mask read hs
    have hready : e.on .bsReady = s.dev.on .bsReady := by rw [he]; rfl
    have hfw : e.boot = s.dev.boot := by rw [he]; rfl
    have hload : e.loadInForce = s.dev.loadInForce := by rw [he]; rfl
    rw [← he] at hmakes
    rw [← hready, ← hfw, ← hload]
    refine ⟨fun h1 h2 h3 h4 => ?_, fun h1 => ?_, fun h1 h2 => ?_, fun h1 h2 h3 h4 => ?_⟩
    · rwa [loadStart_loads _ _ _ _ h1 h2 h3 h4] at hmakes
    · rwa [loadStart_without_basin _ _ _ _ h1] at hmakes
    · rwa [loadStart_busy _ _ _ _ h1 h2] at hmakes
    · rwa [loadStart_loaded _ _ _ _ h1 h2 h3 h4] at hmakes
  case take =>
    intro rs ss id
    rw [takeOf_state, ← closeRecord_isSome]
    cases (closeRecord rs id).isSome <;> simp
  case unload =>
    intro s r cookie e hs he hidle
    have hload : e.loadInForce = s.dev.loadInForce := by rw [he]; rfl
    have hmakes := mediaUnload_starts s r cookie hs
    rw [← he] at hmakes
    rw [← hload]
    exact ⟨_, hmakes, unloadStart_unloaded e _ hidle, unloadStart_none_opened e _ hidle⟩

end Sys2Proof.Machine
end

section
/-! SUPPORT. Wedges taken and missed, and stale lanes (O36). -/

namespace Sys2Proof.Machine

/-! ### More links of a chain of changes, and signed fields -/

section
variable {fs : List Fld} {es : List (Table × Nat)} {ps : List Part}

theorem onlyChanges_updSpot (d : Dev) (p x : Nat) (f : Spot → Spot) (h : (.spot, 16 * p + x) ∈ es) :
    d.OnlyChanges (d.updSpot p x f) fs es ps := by
  refine ⟨fun _ _ => rfl, fun t k hk => ?_, fun q _ => ?_⟩
  · cases t
    case spot =>
      have hne : k ≠ 16 * p + x := fun he => hk (he ▸ h)
      simp [Table.Same, Dev.updSpot, hne]
    all_goals rfl
  · cases q <;> simp [Part.Same, Dev.updSpot]

end

theorem toTwos_lt (w : Nat) (v : Int) : toTwos w v < 2 ^ w := by
  have hpos : (0 : Int) < 2 ^ w := by positivity
  have hnonneg := Int.emod_nonneg v hpos.ne'
  have hlt := Int.emod_lt_of_pos v hpos
  unfold toTwos
  zify
  rwa [Int.toNat_of_nonneg hnonneg]

theorem rd_wrS (d : Dev) (r r' : Row) (ix ix' : List Nat) (v : Int) :
    (d.wrS r ix v).rd r' ix' = if r' = r ∧ ix' = ix then toTwos r.spec.width v else d.rd r' ix' := by
  rw [Dev.wrS, rd_wr, Nat.mod_eq_of_lt (toTwos_lt _ _)]

theorem servoS_updServo_self (d : Dev) (p : Nat) (f : Servo → Servo) : (d.updServo p f).servoS p = f (d.servoS p) := by
  rw [servoS_updServo, if_pos rfl]

/-! ### Whose wedge is still open (R128) -/

/-- Every enabled spot of pickup p has had the present wedge. -/
def Dev.wedgeReported (d : Dev) (p : Nat) : Bool :=
  (List.range 16).all fun i => !d.spotOn p i || (d.servoS p).reported.contains i

theorem wedgeReported_eq_false {d : Dev} {p i : Nat} (hi : i < 16) (hon : d.spotOn p i = true)
    (hrep : i ∉ (d.servoS p).reported) : d.wedgeReported p = false :=
  List.all_eq_false.2 ⟨i, List.mem_range.2 hi, by simp [hon, hrep]⟩

theorem wedgeReported_eq_true {d : Dev} {p : Nat}
    (h : ∀ i, i < 16 → d.spotOn p i = true → i ∈ (d.servoS p).reported) : d.wedgeReported p = true := by
  refine List.all_eq_true.2 fun i hi => ?_
  cases hon : d.spotOn p i
  · rfl
  · simp [h i (List.mem_range.1 hi) hon]

theorem wedgeSettle_of_open {d : Dev} {p : Nat} (h : d.wedgeReported p = false) : d.wedgeSettle p = d :=
  if_neg fun hall => Bool.false_ne_true (h.symm.trans hall.2)

theorem wedgeSettle_of_none {d : Dev} {p : Nat} (h : (d.servoS p).reported = []) : d.wedgeSettle p = d :=
  if_neg fun hall => hall.1 h

/-- The device after spot sp has reported its wedge. -/
def Dev.spotReported (d : Dev) (p sp : Nat) : Dev :=
  d.updServo p fun q => { q with reported := q.reported ++ [sp] }

theorem wedgeSpot_eq (d : Dev) (p sp : Nat) : d.wedgeSpot p sp =
    if (d.spotReported p sp).wedgeReported p then (d.spotReported p sp).wedgeEnd p else d.spotReported p sp := rfl

theorem spotReported_reported (d : Dev) (p sp : Nat) :
    ((d.spotReported p sp).servoS p).reported = (d.servoS p).reported ++ [sp] := by
  rw [Dev.spotReported, servoS_updServo_self]

/-- With another enabled spot still to report, the wedge stays open. -/
theorem wedgeSpot_of_open {d : Dev} {p sp i : Nat} (hi : i < 16) (hne : i ≠ sp) (hon : d.spotOn p i = true)
    (hrep : i ∉ (d.servoS p).reported) : d.wedgeSpot p sp = d.spotReported p sp := by
  have hopen : (d.spotReported p sp).wedgeReported p = false :=
    wedgeReported_eq_false hi hon (by rw [spotReported_reported]; simp [hne, hrep])
  rw [wedgeSpot_eq, hopen]
  rfl

/-- The last enabled spot to report completes the wedge. -/
theorem wedgeSpot_of_last {d : Dev} {p sp : Nat}
    (h : ∀ i, i < 16 → i ≠ sp → d.spotOn p i = true → i ∈ (d.servoS p).reported) :
    d.wedgeSpot p sp = (d.spotReported p sp).wedgeEnd p := by
  have hall : (d.spotReported p sp).wedgeReported p = true := by
    refine wedgeReported_eq_true fun i hi hon => ?_
    rw [spotReported_reported, List.mem_append, List.mem_singleton]
    exact (em (i = sp)).symm.imp (fun hne => h i hi hne hon) id
  rw [wedgeSpot_eq, if_pos hall]

theorem servoS_openGate (d : Dev) (p q : Nat) : (d.openGate p).servoS q = d.servoS q := by
  unfold Dev.openGate
  split <;> rfl

/-- What the end of a wedge leaves in the servo's record. -/
theorem wedgeEnd_servo (d : Dev) (p : Nat) : ((d.wedgeEnd p).servoS p).reported = [] ∧
    ((d.wedgeEnd p).servoS p).valid = [] ∧ ((d.wedgeEnd p).servoS p).missedOne = false ∧
    ((d.wedgeEnd p).servoS p).wedgeOver = (d.servoS p).expect.isSome := by
  have hkeep : ∀ (e : Dev) (f : Pk → Pk), (e.updPk p f).servoS p = e.servoS p := fun _ _ => rfl
  have hif : ∀ (b : Prop) [Decidable b] (v : Int), (if b then d.wrS .wdC (pjIx p) v else d).servoS p = d.servoS p := by
    intro b _ v
    split <;> rfl
  simp only [Dev.wedgeEnd, servoS_openGate, hkeep, servoS_updServo_self, hif, and_self]

/-! ### A spot misses its wedge (R126 to R128) -/

/-- The counts of a missed wedge, before its spot has reported. -/
def Dev.missCounted (d : Dev) (p sp : Nat) : Dev :=
  let d := if (d.servoS p).missedOne then d else d.inc .wdMissed (pjIx p)
  let d := d.updServo p fun q => { q with missedOne := true }
  if 1 ≤ sp ∧ sp ≤ 7 then (d.laneMissed p sp).badWedge p else d

theorem missWedge_eq (d : Dev) (p sp : Nat) : d.missWedge p sp = (d.missCounted p sp).wedgeSpot p sp := rfl

section
variable (d : Dev) (p sp : Nat)

/-- The spots that have reported, and the mark awaited, which counting a miss leaves as they are. -/
theorem missCounted_servo : ((d.missCounted p sp).servoS p).reported = (d.servoS p).reported ∧
    ((d.missCounted p sp).servoS p).expect = (d.servoS p).expect := by
  have hfirst : (if (d.servoS p).missedOne then d else d.inc .wdMissed (pjIx p)).servoS p = d.servoS p := by
    split <;> rfl
  have hbad : ∀ e : Dev, (e.badWedge p).servoS p = e.servoS p := fun _ => rfl
  unfold Dev.missCounted
  simp only []
  split <;> simp only [hbad, Dev.laneMissed, servoS_updServo_self, hfirst, and_self]

theorem missCounted_regs : (d.missCounted p sp).regs =
    (if (d.servoS p).missedOne then d else d.inc .wdMissed (pjIx p)).regs := by
  unfold Dev.missCounted
  generalize (if (d.servoS p).missedOne then d else d.inc .wdMissed (pjIx p)) = e
  simp only []
  split <;> rfl

theorem missCounted_wdMissed : (d.missCounted p sp).rd .wdMissed (pjIx p) =
    if (d.servoS p).missedOne then d.rd .wdMissed (pjIx p) else (d.rd .wdMissed (pjIx p) + 1) % 2 ^ 32 := by
  rw [Dev.rd, missCounted_regs]
  split
  · rfl
  · exact (rd_wr d .wdMissed .wdMissed (pjIx p) (pjIx p) _).trans (if_pos ⟨rfl, rfl⟩)

theorem missCounted_spotOn (i : Nat) : (d.missCounted p sp).spotOn p i = d.spotOn p i := by
  have hrd : (d.missCounted p sp).rd .pkLaserMask [p] = d.rd .pkLaserMask [p] := by
    rw [Dev.rd, missCounted_regs]
    split
    · rfl
    · exact (rd_wr d .wdMissed .pkLaserMask (pjIx p) [p] _).trans (if_neg (by simp))
  rw [Dev.spotOn, hrd]
  rfl

theorem onlyChanges_missCounted :
    d.OnlyChanges (d.missCounted p sp) [⟨.wdMissed, pjIx p⟩] [(.servo, p), (.pk, p), (.spot, 16 * p + sp)] [] := by
  have hfirst : d.OnlyChanges (if (d.servoS p).missedOne then d else d.inc .wdMissed (pjIx p)) [⟨.wdMissed, pjIx p⟩]
      [(.servo, p), (.pk, p), (.spot, 16 * p + sp)] [] := by
    split
    · exact onlyChanges_refl _ _ _ _
    · exact onlyChanges_wr _ _ _ _ (by simp)
  have hmark := hfirst.trans (onlyChanges_updServo _ p (fun q => { q with missedOne := true }) (by simp))
  unfold Dev.missCounted
  simp only []
  split
  · exact hmark.trans <| (onlyChanges_updServo _ p _ (by simp)).trans (onlyChanges_updPk _ p _ (by simp))
  · exact hmark

end

theorem servoS_markMissed (d : Dev) (p sp q : Nat) : (d.markMissed p sp).servoS q = d.servoS q := by
  unfold Dev.markMissed
  split <;> rfl

theorem regs_markMissed (d : Dev) (p sp : Nat) : (d.markMissed p sp).regs = d.regs := by
  unfold Dev.markMissed
  split <;> rfl

theorem onlyChanges_markMissed (d : Dev) (p sp : Nat) {fs : List Fld} {es : List (Table × Nat)} {ps : List Part}
    (h : (.spot, 16 * p + sp) ∈ es) : d.OnlyChanges (d.markMissed p sp) fs es ps := by
  unfold Dev.markMissed
  split
  · exact onlyChanges_refl _ _ _ _
  · exact onlyChanges_updSpot _ p sp _ h

/-- The counts of spot sp that finds no mark of the wedge, before it has reported. -/
def Dev.spotMissed (d : Dev) (p sp : Nat) : Dev := (d.markMissed p sp).missCounted p sp

theorem spotMissed_servo (d : Dev) (p sp : Nat) : ((d.spotMissed p sp).servoS p).reported = (d.servoS p).reported ∧
    ((d.spotMissed p sp).servoS p).expect = (d.servoS p).expect := by
  rw [← servoS_markMissed d p sp p]
  exact missCounted_servo _ p sp

theorem spotMissed_spotOn (d : Dev) (p sp i : Nat) : (d.spotMissed p sp).spotOn p i = d.spotOn p i := by
  rw [Dev.spotMissed, missCounted_spotOn, Dev.spotOn, Dev.rd, regs_markMissed]
  rfl

theorem spotMissed_wdMissed (d : Dev) (p sp : Nat) : (d.spotMissed p sp).rd .wdMissed (pjIx p) =
    if (d.servoS p).missedOne then d.rd .wdMissed (pjIx p) else (d.rd .wdMissed (pjIx p) + 1) % 2 ^ 32 := by
  rw [Dev.spotMissed, missCounted_wdMissed, servoS_markMissed, Dev.rd, regs_markMissed]
  rfl

theorem onlyChanges_spotMissed (d : Dev) (p sp : Nat) :
    d.OnlyChanges (d.spotMissed p sp) [⟨.wdMissed, pjIx p⟩] [(.servo, p), (.pk, p), (.spot, 16 * p + sp)] [] :=
  (onlyChanges_markMissed d p sp (by simp)).trans (onlyChanges_missCounted _ p sp)

/-! ### WEDGE and WEDGE_TIMER_EXPIRY -/

section
variable {s : State} {p : Fin 32} {sp : Fin 16} (index a b c e : Nat) (offset : Int)

theorem wedgeTimerExpiry_misses (hsettle : s.dev.wedgeSettle p = s.dev) (hon : s.dev.spotOn p sp = true)
    (hover : (s.dev.servoS p).wedgeOver = false) (hrep : sp.val ∉ (s.dev.servoS p).reported) :
    Makes (.wedgeTimerExpiry p sp) s ((s.dev.spotMissed p sp).wedgeSpot p sp) := by
  change execWedgeTimerExpiry p sp s = _
  simp only [execWedgeTimerExpiry, act_eq, hsettle]
  rw [if_neg (by simp [hon, hover, hrep]), missWedge_eq]
  rfl

theorem wedge_misses (hsettle : s.dev.wedgeSettle p = s.dev) (hon : s.dev.spotOn p sp = true)
    (hover : (s.dev.servoS p).wedgeOver = false) (hrep : sp.val ∉ (s.dev.servoS p).reported)
    (hindex : indexField index ≠ some (s.dev.servoS p).wedge) :
    Makes (.wedge p sp index a b c e offset) s ((s.dev.spotMissed p sp).wedgeSpot p sp) := by
  change execWedge p sp index a b c e offset s = _
  simp only [execWedge, act_eq, hsettle]
  rw [if_neg (by simp [hon, hover, hrep]), if_pos hindex, missWedge_eq]
  rfl

/-- A wedge that is over takes no report. -/
theorem wedge_over (hover : (s.dev.servoS p).wedgeOver = true) (hrep : (s.dev.servoS p).reported = []) {x : Instr}
    (hx : x = .wedgeTimerExpiry p sp ∨ x = .wedge p sp index a b c e offset) : Makes x s s.dev := by
  have hsettle := wedgeSettle_of_none hrep
  obtain rfl | rfl := hx
  · change execWedgeTimerExpiry p sp s = _
    simp only [execWedgeTimerExpiry, act_eq, hsettle]
    rw [if_pos (by simp [hover])]
  · change execWedge p sp index a b c e offset s = _
    simp only [execWedge, act_eq, hsettle]
    rw [if_pos (by simp [hover])]

end

/-- A spot misses a wedge in which another enabled spot has still to report. -/
theorem wedge_missed (s : State) (p : Fin 32) (sp : Fin 16) (i index a b c e : Nat) (offset : Int) (x : Instr)
    (hon : s.dev.spotOn p sp = true) (hrep : sp.val ∉ (s.dev.servoS p).reported) (hi : i < 16) (hne : i ≠ sp.val)
    (honi : s.dev.spotOn p i = true) (hrepi : i ∉ (s.dev.servoS p).reported) (hover : (s.dev.servoS p).wedgeOver = false)
    (hindex : indexField index ≠ some (s.dev.servoS p).wedge)
    (hx : x = .wedgeTimerExpiry p sp ∨ x = .wedge p sp index a b c e offset) :
    ∃ d, Makes x s d ∧ (d.servoS p).reported = (s.dev.servoS p).reported ++ [sp.val] ∧
      ((s.dev.servoS p).missedOne = false → d.rd .wdMissed (pjIx p) = (s.dev.rd .wdMissed (pjIx p) + 1) % 2 ^ 32) ∧
      ((s.dev.servoS p).missedOne = true → d.rd .wdMissed (pjIx p) = s.dev.rd .wdMissed (pjIx p)) ∧
      s.dev.OnlyChanges d [⟨.wdMissed, pjIx p⟩] [(.servo, p.val), (.pk, p.val), (.spot, 16 * p.val + sp.val)] [] := by
  have hsettle := wedgeSettle_of_open (wedgeReported_eq_false hi honi hrepi)
  have hmakes : Makes x s ((s.dev.spotMissed p sp).wedgeSpot p sp) := by
    obtain rfl | rfl := hx
    · exact wedgeTimerExpiry_misses hsettle hon hover hrep
    · exact wedge_misses index a b c e offset hsettle hon hover hrep hindex
  have hspot : (s.dev.spotMissed p sp).wedgeSpot p sp = (s.dev.spotMissed p sp).spotReported p sp :=
    wedgeSpot_of_open hi hne ((spotMissed_spotOn _ _ _ _).trans honi) (by rwa [(spotMissed_servo _ _ _).1])
  rw [hspot] at hmakes
  have hcount := spotMissed_wdMissed s.dev p sp
  refine ⟨_, hmakes, ?reported, fun h => ?_, fun h => ?_, ?frame⟩
  case reported => rw [spotReported_reported, (spotMissed_servo _ _ _).1]
  case frame => exact (onlyChanges_spotMissed s.dev p sp).trans (onlyChanges_updServo _ _ _ (by simp))
  · rw [h] at hcount; exact hcount
  · rw [h] at hcount; exact hcount

/-- The last enabled spot misses its wedge, and the wedge is complete. -/
theorem wedge_completed (s : State) (p : Fin 32) (sp : Fin 16) (hon : s.dev.spotOn p sp = true)
    (hrep : sp.val ∉ (s.dev.servoS p).reported) (hover : (s.dev.servoS p).wedgeOver = false)
    (hlast : ∀ i, i < 16 → i ≠ sp.val → s.dev.spotOn p i = true → i ∈ (s.dev.servoS p).reported) :
    ∃ d, Makes (.wedgeTimerExpiry p sp) s d ∧ (d.servoS p).reported = [] ∧ (d.servoS p).valid = [] ∧
      (d.servoS p).missedOne = false ∧ (d.servoS p).wedgeOver = (s.dev.servoS p).expect.isSome := by
  have hsettle := wedgeSettle_of_open (wedgeReported_eq_false sp.isLt hon hrep)
  have hmakes := wedgeTimerExpiry_misses hsettle hon hover hrep
  have hspot : (s.dev.spotMissed p sp).wedgeSpot p sp = ((s.dev.spotMissed p sp).spotReported p sp).wedgeEnd p := by
    refine wedgeSpot_of_last fun i hi hne honi => ?_
    rw [(spotMissed_servo _ _ _).1]
    exact hlast i hi hne ((spotMissed_spotOn _ _ _ _).symm.trans honi)
  rw [hspot] at hmakes
  have hexpect : (((s.dev.spotMissed p sp).spotReported p sp).servoS p).expect = (s.dev.servoS p).expect := by
    rw [Dev.spotReported, servoS_updServo_self]
    exact (spotMissed_servo _ _ _).2
  obtain ⟨hreported, hvalid, hone, hend⟩ := wedgeEnd_servo ((s.dev.spotMissed p sp).spotReported p sp) p
  exact ⟨_, hmakes, hreported, hvalid, hone, hend.trans (by rw [hexpect])⟩

/-! ### A data spot takes its wedge (R57, R58, R127, R258) -/

/-- The values that a good wedge of lane k leaves: its error, its stale mark cleared, and its ek for the fusion. -/
def Dev.laneTakes (d : Dev) (p k a b c e : Nat) : Dev :=
  let err := burstError k a b
  ((((d.updServo p fun q => { q with
      bursts := tset q.bursts k [errorNm err, (a : Int), (b : Int), (c : Int), (e : Int), 1] }).wrS .wdLaneErr
        (pjIx p ++ [k - 1]) (errorNm err)).wr .wdStale (pjIx p ++ [k - 1]) 0).updServo p fun q =>
    { q with valid := tset q.valid k err, missed := tset q.missed k 0 })

section
variable (d : Dev) (p k a b c e : Nat)

theorem laneBursts_good (hvalid : burstInvalid k c e = false) (hsum : 0 < a + b)
    (hlim : (errorNm (burstError k a b)).natAbs ≤ d.rd .wgTrkLim [p]) :
    d.laneBursts p k a b c e = d.laneTakes p k a b c e := by
  have hbad : (burstInvalid k c e || a + b == 0) = false := by
    have : a + b ≠ 0 := by omega
    rw [hvalid, Bool.false_or, beq_eq_false_iff_ne]
    exact this
  have hrd : (d.laneTakes p k a b c e).rd .wgTrkLim [p] = d.rd .wgTrkLim [p] := by
    refine (rd_wr _ .wdStale .wgTrkLim _ _ 0).trans ?_
    rw [if_neg (by simp)]
    exact (rd_wrS _ .wdLaneErr .wgTrkLim _ _ _).trans (if_neg (by simp))
  have hgate : ¬ (d.laneTakes p k a b c e).rd .wgTrkLim [p] < (errorNm (burstError k a b)).natAbs := by
    rw [hrd]
    omega
  rw [Dev.laneBursts]
  simp only [hbad, Bool.false_eq_true, if_false]
  exact if_neg hgate

theorem laneTakes_wdStale : (d.laneTakes p k a b c e).rd .wdStale (pjIx p ++ [k - 1]) = 0 :=
  (rd_wr _ .wdStale .wdStale _ _ 0).trans (if_pos ⟨rfl, rfl⟩)

theorem laneTakes_wdLaneErr : (d.laneTakes p k a b c e).rd .wdLaneErr (pjIx p ++ [k - 1]) =
    toTwos Row.wdLaneErr.spec.width (errorNm (burstError k a b)) := by
  refine (rd_wr _ .wdStale .wdLaneErr _ _ 0).trans ?_
  rw [if_neg (by simp)]
  exact (rd_wrS _ .wdLaneErr .wdLaneErr _ _ _).trans (if_pos ⟨rfl, rfl⟩)

theorem laneTakes_servo : tfind ((d.laneTakes p k a b c e).servoS p).valid k = some (burstError k a b) ∧
    ((d.laneTakes p k a b c e).servoS p).reported = (d.servoS p).reported := by
  have hwr : ∀ (x : Dev) (v : Int) (w : Nat), ((x.wrS .wdLaneErr (pjIx p ++ [k - 1]) v).wr .wdStale (pjIx p ++ [k - 1]) w).servoS p =
      x.servoS p := fun _ _ _ => rfl
  simp only [Dev.laneTakes, servoS_updServo_self, hwr, tfind_tset, if_true, and_self]

theorem laneTakes_spotOn (i : Nat) : (d.laneTakes p k a b c e).spotOn p i = d.spotOn p i := by
  have hrd : (d.laneTakes p k a b c e).rd .pkLaserMask [p] = d.rd .pkLaserMask [p] := by
    refine (rd_wr _ .wdStale .pkLaserMask _ _ 0).trans ?_
    rw [if_neg (by simp)]
    exact (rd_wrS _ .wdLaneErr .pkLaserMask _ _ _).trans (if_neg (by simp))
  rw [Dev.spotOn, hrd]
  rfl

theorem onlyChanges_laneTakes {es : List (Table × Nat)} (h : (.servo, p) ∈ es) : d.OnlyChanges (d.laneTakes p k a b c e)
    [⟨.wdStale, pjIx p ++ [k - 1]⟩, ⟨.wdLaneErr, pjIx p ++ [k - 1]⟩] es [] :=
  (onlyChanges_updServo d p _ h).trans <| (onlyChanges_wr _ .wdLaneErr _ _ (by simp)).trans <|
    (onlyChanges_wr _ .wdStale _ _ (by simp)).trans (onlyChanges_updServo _ p _ h)

end

/-- A data spot whose bursts are good takes its wedge, in which another enabled spot has still to report. -/
theorem wedge_taken (s : State) (p : Fin 32) (sp : Fin 16) (i index a b c e : Nat) (offset : Int) (h1 : 1 ≤ sp.val)
    (h7 : sp.val ≤ 7) (hon : s.dev.spotOn p sp = true) (hrep : sp.val ∉ (s.dev.servoS p).reported) (hi : i < 16)
    (hne : i ≠ sp.val) (honi : s.dev.spotOn p i = true) (hrepi : i ∉ (s.dev.servoS p).reported)
    (hover : (s.dev.servoS p).wedgeOver = false) (hindex : indexField index = some (s.dev.servoS p).wedge)
    (hvalid : burstInvalid sp c e = false) (hsum : 0 < a + b)
    (hlim : (errorNm (burstError sp a b)).natAbs ≤ s.dev.rd .wgTrkLim [p.val]) :
    ∃ d, Makes (.wedge p sp index a b c e offset) s d ∧ d.rd .wdStale (pjIx p ++ [sp.val - 1]) = 0 ∧
      d.rd .wdLaneErr (pjIx p ++ [sp.val - 1]) = toTwos Row.wdLaneErr.spec.width (errorNm (burstError sp a b)) ∧
      tfind (d.servoS p).valid sp = some (burstError sp a b) ∧ (d.spotS p sp).offset = offset ∧
      s.dev.OnlyChanges d [⟨.wdStale, pjIx p ++ [sp.val - 1]⟩, ⟨.wdLaneErr, pjIx p ++ [sp.val - 1]⟩]
        [(.servo, p.val), (.spot, 16 * p.val + sp.val)] [] := by
  have hsettle := wedgeSettle_of_open (wedgeReported_eq_false hi honi hrepi)
  obtain ⟨hek, hreported⟩ := laneTakes_servo (s.dev.markAt p sp offset) p sp a b c e
  have hspot : ((s.dev.markAt p sp offset).laneTakes p sp a b c e).wedgeSpot p sp =
      ((s.dev.markAt p sp offset).laneTakes p sp a b c e).spotReported p sp :=
    wedgeSpot_of_open hi hne ((laneTakes_spotOn _ _ _ _ _ _ _ _).trans honi) (by rw [hreported]; exact hrepi)
  have hmakes : Makes (.wedge p sp index a b c e offset) s
      (((s.dev.markAt p sp offset).laneTakes p sp a b c e).spotReported p sp) := by
    change execWedge p sp index a b c e offset s = _
    simp only [execWedge, act_eq, hsettle]
    rw [if_neg (by simp [hon, hover, hrep]), if_neg (by simp [hindex]), if_pos ⟨h1, h7⟩,
      laneBursts_good (s.dev.markAt p sp offset) p sp a b c e hvalid hsum hlim, hspot]
  refine ⟨_, hmakes, laneTakes_wdStale _ _ _ _ _ _ _, laneTakes_wdLaneErr _ _ _ _ _ _ _, ?ek, ?offset, ?frame⟩
  case ek => rwa [Dev.spotReported, servoS_updServo_self]
  case offset =>
    change (tget {} (s.dev.markAt p sp offset).spot (16 * p.val + sp.val)).offset = offset
    simp [Dev.markAt, Dev.updSpot]
  case frame =>
    exact (onlyChanges_updSpot s.dev p sp _ (by simp)).trans <| (onlyChanges_laneTakes _ p sp a b c e (by simp)).trans
      (onlyChanges_updServo _ p _ (by simp))

/-! ### WEDGE_STALE (R127, R258, R259) -/

/-- The lane shows stale and the event is raised; the count of good wedges starts again. -/
def Dev.laneStale (d : Dev) (p lane : Nat) : Dev :=
  ((d.wr .wdStale (pjIx p ++ [lane]) 1).raisePk p 17 evWedgeStale [lane + 1]).updPk p fun k => { k with goodWedges := 0 }

section
variable (d : Dev) (p lane : Nat)

theorem onlyChanges_laneStale {fs : List Fld} {es : List (Table × Nat)} {ps : List Part}
    (hf : ⟨.wdStale, pjIx p ++ [lane]⟩ ∈ fs) (ht : (.pk, p) ∈ es) (hr : .raised ∈ ps) :
    d.OnlyChanges (d.laneStale p lane) fs es ps :=
  (onlyChanges_wr _ _ _ _ hf).trans <| (onlyChanges_raise _ _ _ _ hr).trans (onlyChanges_updPk _ _ _ ht)

theorem laneStale_rd (r : Row) (ix : List Nat) (h : r ≠ .wdStale) : (d.laneStale p lane).rd r ix = d.rd r ix :=
  (rd_wr d .wdStale r _ ix 1).trans (if_neg fun he => h he.1)

theorem laneStale_rows : ((d.laneStale p lane).pkS p).rows = (d.pkS p).rows := by
  rw [Dev.laneStale, pkS_updPk_self]
  rfl

end

section
variable (d : Dev) (p : Nat) (hrow : d.rowNow p = none)

theorem closeGate_shut (h : d.on .wgOpen [p] = false) (cause : Nat) : d.closeGate p cause = d := by
  simp [Dev.closeGate, h]

include hrow

/-- With no row being written the gate closes alone. -/
theorem closeGate_open (h : d.on .wgOpen [p] = true) (cause : Nat) :
    d.closeGate p cause = ((d.wr .wgOpen [p] 0).inc .wgTrips [p]).voidTest p := by
  have hrow' : ((d.wr .wgOpen [p] 0).inc .wgTrips [p]).rowNow p = none := hrow
  simp [Dev.closeGate, h, Dev.abandonNow, hrow']

theorem onlyChanges_closeGate (cause : Nat) {fs : List Fld} {es : List (Table × Nat)} {ps : List Part}
    (ho : ⟨.wgOpen, [p]⟩ ∈ fs) (ht : ⟨.wgTrips, [p]⟩ ∈ fs) (hp : (.pk, p) ∈ es) (hout : .out ∈ ps) :
    d.OnlyChanges (d.closeGate p cause) fs es ps := by
  cases h : d.on .wgOpen [p]
  · rw [closeGate_shut d p h]
    exact onlyChanges_refl _ _ _ _
  · rw [closeGate_open d p hrow h]
    exact (onlyChanges_wr _ _ _ _ ho).trans <| (onlyChanges_wr _ _ _ _ ht).trans (onlyChanges_voidTest _ p hp hout)

theorem closeGate_raised (cause : Nat) : (d.closeGate p cause).raised = d.raised := by
  cases h : d.on .wgOpen [p]
  · rw [closeGate_shut d p h]
  · rw [closeGate_open d p hrow h]
    exact (voidTest_kept _ p).2.1

theorem closeGate_registers (h : d.on .wgOpen [p] = true) (cause : Nat) :
    (d.closeGate p cause).on .wgOpen [p] = false ∧
      (d.closeGate p cause).rd .wgTrips [p] = (d.rd .wgTrips [p] + 1) % 2 ^ 32 := by
  have hregs := (voidTest_kept ((d.wr .wgOpen [p] 0).inc .wgTrips [p]) p).1
  rw [closeGate_open d p hrow h]
  constructor
  · have hrd : (((d.wr .wgOpen [p] 0).inc .wgTrips [p]).voidTest p).rd .wgOpen [p] = 0 := by
      rw [Dev.rd, hregs]
      refine (rd_wr _ .wgTrips .wgOpen _ _ _).trans ((if_neg (by simp)).trans ?_)
      exact (rd_wr _ .wgOpen .wgOpen _ _ 0).trans (if_pos ⟨rfl, rfl⟩)
    simp [Dev.on, hrd]
  · rw [Dev.rd, hregs]
    refine (rd_wr _ .wgTrips .wgTrips _ _ _).trans ((if_pos ⟨rfl, rfl⟩).trans ?_)
    rw [rd_wr, if_neg (by simp)]
    rfl

end

/-- Four wedges without a valid result of a lane mark it stale, and close the write gate. -/
theorem wedgeStale_marks (s : State) (p : Fin 32) (lane : Fin 7) (hon : s.dev.on .wdStale (pjIx p ++ [lane.val]) = false)
    (hmissed : 4 ≤ tget 0 (s.dev.servoS p).missed (lane.val + 1)) (hrow : s.dev.rowNow p = none) :
    ∃ d, Makes (.wedgeStale p lane) s d ∧ d.on .wdStale (pjIx p ++ [lane.val]) = true ∧
      d.raised = s.dev.raised ++ [⟨32 * p.val + 17, 0x0403, [lane.val + 1]⟩] ∧
      (s.dev.on .wgOpen [p.val] = true → d.on .wgOpen [p.val] = false ∧
        d.rd .wgTrips [p.val] = (s.dev.rd .wgTrips [p.val] + 1) % 2 ^ 32) ∧
      s.dev.OnlyChanges d [⟨.wdStale, pjIx p ++ [lane.val]⟩, ⟨.wgOpen, [p.val]⟩, ⟨.wgTrips, [p.val]⟩] [(.pk, p.val)]
        [.raised, .out] := by
  have hgo : ¬ (s.dev.on .wdStale (pjIx p ++ [lane.val]) = true ∨ tget 0 (s.dev.servoS p).missed (lane.val + 1) < 4) := by
    have : ¬ tget 0 (s.dev.servoS p).missed (lane.val + 1) < 4 := by omega
    simp [hon, this]
  have hmakes : Makes (.wedgeStale p lane) s ((s.dev.laneStale p lane).closeGate p abGateTrack) := by
    change execWedgeStale p lane s = _
    simp only [execWedgeStale, act_eq, if_neg hgo]
    rfl
  have hrow' : (s.dev.laneStale p lane).rowNow p = none := by
    rw [Dev.rowNow, laneStale_rows]
    exact hrow
  refine ⟨_, hmakes, ?stale, ?raised, fun hopen => ?gate, ?frame⟩
  case stale =>
    have hkept := (onlyChanges_closeGate (s.dev.laneStale p lane) p hrow' abGateTrack
      (fs := [⟨.wgOpen, [p.val]⟩, ⟨.wgTrips, [p.val]⟩]) (es := [(.pk, p.val)]) (ps := [.out]) (by simp) (by simp)
      (by simp) (by simp)).1 ⟨.wdStale, pjIx p ++ [lane.val]⟩ (by simp)
    have hset : (s.dev.laneStale p lane).rd .wdStale (pjIx p ++ [lane.val]) = 1 :=
      (rd_wr s.dev .wdStale .wdStale _ _ 1).trans (if_pos ⟨rfl, rfl⟩)
    simp only [Dev.on, Dev.rd, hkept]
    exact beq_iff_eq.2 hset
  case raised =>
    rw [closeGate_raised _ _ hrow']
    rfl
  case gate =>
    have hopen' : (s.dev.laneStale p lane).on .wgOpen [p.val] = true := by
      rw [Dev.on, laneStale_rd _ _ _ _ _ (by decide)]
      exact hopen
    rw [← laneStale_rd s.dev p lane .wgTrips [p.val] (by decide)]
    exact closeGate_registers _ _ hrow' hopen' abGateTrack
  case frame =>
    exact (onlyChanges_laneStale s.dev p lane (by simp) (by simp) (by simp)).trans
      (onlyChanges_closeGate _ p hrow' abGateTrack (by simp) (by simp) (by simp) (by simp))

/-- Settles O36: a wedge is taken (`wedge_taken`), missed, completed by its last spot, or over, and a lane goes stale. -/
theorem wedgesAreTakenOrMissed : Obligations.WedgesAreTakenOrMissed := by
  unfold Obligations.WedgesAreTakenOrMissed
  refine ⟨wedge_taken, wedge_missed, wedge_completed, ?idle, wedgeStale_marks⟩
  case idle =>
    intro s p sp index a b c e offset x hover hrep hx
    exact wedge_over index a b c e offset hover hrep hx

end Sys2Proof.Machine
end

section
/-! SUPPORT. A command that is alone in flight: how one with a range starts, how it is held in the table of commands, and how
it ends (O59, O60). -/

namespace Sys2Proof.Machine

/-! ### The one command in flight -/

section
variable {d : Dev} {c : Cmd} {o : Origin}

theorem cmd_of_alone (h : d.cmds = [c]) (ho : c.origin = o) : d.cmd o = some c := by
  simp [Dev.cmd, h, ho]

theorem updCmd_alone (h : d.cmds = [c]) (ho : c.origin = o) (f : Cmd → Cmd) : (d.updCmd o f).cmds = [f c] := by
  simp [Dev.updCmd, h, ho]

theorem started_alone (h : d.cmds = []) (r : Nat) (c : Cmd) : (d.started r c).cmds = [d.startedCmd r c] := by
  rw [started_cmds, h]
  rfl

/-- The end of the one command in flight, which is a ring's: nothing is left in flight, and its completion waits. -/
theorem finish_alone (h : d.cmds = [c]) {r seq : Nat} (ho : c.origin = .ring r seq) (cls det res : Nat) :
    (d.finish (.ring r seq) cls det res).cmds = [] ∧ (d.finish (.ring r seq) cls det res).takes = d.takes ∧
    (⟨r, seq, c.cookie, cls, det, c.op, res, false, 0, false⟩ : Compl) ∈
      ((d.finish (.ring r seq) cls det res).cqS (d.rd .sqCq [r])).waiting := by
  rw [finish_ring d r seq cls det res c (cmd_of_alone h ho)]
  refine ⟨?_, rfl, ?_⟩
  · simp [h, ho]
  · simp [Dev.cqS, Dev.updCq]

end

/-! ### A command with a range starts (R333, R419, R580) -/

theorem serviceRefusal_none {d : Dev} (hready : d.on .bsReady = true) (hload : d.loadInForce = true) :
    d.serviceRefusal = none := by
  simp [Dev.serviceRefusal, hready, hload]

/-- Nothing holds back a command that is first in flight. -/
theorem heldWhole_alone {d : Dev} {c : Cmd} (h : d.cmds = [c]) : d.heldWhole c = false := by
  simp [Dev.heldWhole, Dev.holders?, h]

theorem beginRanged_alone {d : Dev} {c : Cmd} {o : Origin} (mem : List Host.Cell) (hready : d.on .bsReady = true)
    (hload : d.loadInForce = true) (h : d.cmds = [c]) (ho : c.origin = o) : d.beginRanged mem o = d.startRange mem o := by
  simp [Dev.beginRanged, serviceRefusal_none hready hload, cmd_of_alone h ho, heldWhole_alone h]

/-- A descriptor with a range that may start, with nothing else in flight, goes on with its own start. -/
theorem ranged_starts {i : Instr} {s : State} {r : Nat} {c : Cmd}
    (hi : exec i s = descriptor r c s fun d o => d.beginRanged s.mem o) (hs : s.dev.mayStart r) (hc : s.dev.cmds = [])
    (hready : s.dev.on .bsReady = true) (hload : s.dev.loadInForce = true) :
    MakesThenRuns i s ((s.dev.started r c).startRange s.mem (s.dev.nextOrigin r)) := by
  have hready' : (s.dev.started r c).on .bsReady = true := hready
  have hload' : (s.dev.started r c).loadInForce = true := hload
  have hmakes := makesThenRuns_of_mayStart hi hs
  rwa [beginRanged_alone (o := s.dev.nextOrigin r) s.mem hready' hload' (started_alone hc r c) rfl] at hmakes

theorem guarded_true (r : Nat) (f : Fault) (s : State) (k : Host.Outcome State Fault Refusal) : guarded r true f s k = k := by
  simp [guarded]

/-! ### A write takes its data (R330, R416) -/

/-- A write that starts to take its data gathers it: only its phase and what has arrived of its data change. -/
theorem startData_alone {d : Dev} {c : Cmd} {o : Origin} (mem : List Host.Cell) (h : d.cmds = [c]) (ho : c.origin = o) :
    ∃ arg got delivered, (d.startData mem o).cmds =
      [{ c with phase := .gathering, arg := arg, got := got, delivered := delivered }] := by
  have hlist : (if c.sgl = [] then d else d.emit (.hostRead c.addr (16 * c.sgl.length) true)).cmds = [c] := by
    split <;> exact h
  unfold Dev.startData
  rw [cmd_of_alone h ho]
  simp only []
  generalize (if c.sgl = [] then d else d.emit (.hostRead c.addr (16 * c.sgl.length) true)) = e at hlist
  split
  · split
    · exact ⟨_, _, _, updCmd_alone hlist ho _⟩
    · exact ⟨c.arg, c.got, c.delivered, updCmd_alone hlist ho _⟩
  · exact ⟨c.arg, c.got, c.delivered, updCmd_alone hlist ho _⟩

/-! ### Units of the basin (R446, R447, R579) -/

/-- From d to e the work of the basin's units is done, and no other: registers, the basin's record, the shares and what is
raised may change. -/
def Dev.UnitsOnly (d e : Dev) : Prop :=
  e = { d with regs := e.regs, basin := e.basin, share := e.share, raised := e.raised }

theorem unitsOnly_refl (d : Dev) : d.UnitsOnly d := rfl

theorem Dev.UnitsOnly.trans {d e g : Dev} (h : d.UnitsOnly e) (h' : e.UnitsOnly g) : d.UnitsOnly g := by
  rw [Dev.UnitsOnly, h', h]

theorem Dev.UnitsOnly.cmds {d e : Dev} (h : d.UnitsOnly e) : e.cmds = d.cmds := by rw [h]

theorem unitsOnly_wr (d : Dev) (r : Row) (ix : List Nat) (v : Nat) : d.UnitsOnly (d.wr r ix v) := rfl
theorem unitsOnly_raise (d : Dev) (src code : Nat) (b : Bytes) : d.UnitsOnly (d.raise src code b) := rfl
theorem unitsOnly_updBasin (d : Dev) (f : Basin → Basin) : d.UnitsOnly (d.updBasin f) := rfl
theorem unitsOnly_share (d : Dev) (x : Share) : d.UnitsOnly { d with share := x } := rfl

theorem fillUpdate_unitsOnly (d : Dev) : d.UnitsOnly d.fillUpdate := by
  refine (unitsOnly_wr d .bsFill [] d.fill).trans ?_
  unfold Dev.fillUpdate
  simp only []
  split
  · exact (unitsOnly_updBasin _ _).trans (unitsOnly_raise _ _ _ _)
  · split
    · refine Dev.UnitsOnly.trans ?_ (unitsOnly_raise _ _ _ _)
      split
      · exact unitsOnly_updBasin _ _
      · exact (unitsOnly_updBasin _ _).trans (unitsOnly_share _ _)
    · exact unitsOnly_refl _

theorem takeUnits_unitsOnly (d : Dev) (o : Owner) (n : Nat) (reserved : Bool) :
    d.UnitsOnly ((d.takeUnits o n reserved).getD d) := by
  unfold Dev.takeUnits
  simp only []
  split
  · exact unitsOnly_refl d
  · exact (unitsOnly_updBasin d _).trans <| (unitsOnly_wr _ _ _ _).trans <| (unitsOnly_wr _ _ _ _).trans
      (fillUpdate_unitsOnly _)

theorem needUnits_unitsOnly (d : Dev) (o : Owner) (n : Nat) : d.UnitsOnly (d.needUnits o n) := by
  unfold Dev.needUnits
  generalize (if d.basin.waiting ≠ [] then 0 else d.couldTake n) = k
  have htake : d.UnitsOnly (if k = 0 then d else (d.takeUnits o k false).getD d) := by
    split
    · exact unitsOnly_refl d
    · exact takeUnits_unitsOnly d o k false
  simp only []
  split
  · exact htake
  · exact htake.trans (unitsOnly_updBasin _ _)

end Sys2Proof.Machine
end

section
/-! SUPPORT. The take commands, each alone in flight (O59). -/

namespace Sys2Proof.Machine

/-! ### FLUSH (R329, R390) -/

/-- What FLUSH does with a command that has started. -/
def Dev.flushStart (d : Dev) (o : Origin) : Dev :=
  if !d.loadInForce then d.finish o clsOk 0
  else
    let d := (d.commitAll o).dueCopies
    let ws := d.flushWaits
    d.updCmd o fun c => { c with phase := .medium, waits := ws }

theorem flush_starts (s : State) (r : Fin 256) (cookie : Nat) (hs : s.dev.mayStart r) :
    MakesThenRuns (.flush r cookie) s
      ((s.dev.started r { origin := .ring r 0, op := 0x04, cookie := cookie }).flushStart (s.dev.nextOrigin r)) :=
  makesThenRuns_of_mayStart (k := fun d o => d.flushStart o) rfl hs

theorem flushStart_unloaded (d : Dev) (o : Origin) (h : d.loadInForce = false) : d.flushStart o = d.finish o clsOk 0 := by
  simp [Dev.flushStart, h]

theorem flushStart_loaded (d e : Dev) (o : Origin) (h : d.loadInForce = true) (he : e = (d.commitAll o).dueCopies) :
    d.flushStart o = e.updCmd o fun c => { c with phase := .medium, waits := e.flushWaits } := by
  simp [Dev.flushStart, h, he]

/-! ### RECORD (R330, R398, R401) -/

theorem writeRefusal_opened {d : Dev} {c : Cmd} {t : Take} (ht : d.take? c.take = some t) (hopen : t.state = .opened)
    (hfull : d.catalogFull = false) (starting : Bool) : d.writeRefusal c starting = none := by
  simp [Dev.writeRefusal, ht, hopen, hfull]

/-- A take that no TAKE_OPEN in flight may open is unknown. -/
theorem writeRefusal_unknown {d : Dev} {c : Cmd} (ht : d.take? c.take = none) (halone : d.cmds = [c]) (starting : Bool) :
    d.writeRefusal c starting = some (clsResource, detTakeUnknown) := by
  simp [Dev.writeRefusal, ht, halone]

/-- The descriptor of a RECORD. -/
def recordCmd (r cookie : Nat) (fua : Bool) (take offset length addr : Nat) (sgl : List (Nat × Nat)) (time : Nat) : Cmd :=
  { origin := .ring r 0, op := 0x01, cookie := cookie, fua := fua, take := take, offset := offset, length := length,
    addr := addr, sgl := sgl, hostTime := time }

/-- What RECORD does with a command that has started. -/
def Dev.recordStart (mem : List Host.Cell) (d : Dev) (o : Origin) : Dev :=
  match d.serviceRefusal with
  | some st => d.refuse o st.1 st.2
  | none => match (d.cmd o).bind fun c => d.writeRefusal c false with
    | some st => d.refuse o st.1 st.2
    | none => d.beginRanged mem o

section
variable {s : State} {r : Fin 256} {cookie : Nat} {fua : Bool} {take offset length addr time : Nat} {sgl : List (Nat × Nat)}

theorem record_starts (hs : s.dev.mayStart r) (hrange : takeRangeOk true offset length = true)
    (hbuf : bufferOk length addr sgl = true) : MakesThenRuns (.record r cookie fua take offset length addr sgl time) s
      ((s.dev.started r (recordCmd r cookie fua take offset length addr sgl time)).recordStart s.mem (s.dev.nextOrigin r)) := by
  refine makesThenRuns_of_mayStart (k := fun d o => d.recordStart s.mem o) ?_ hs
  change execRecord r cookie fua take offset length addr sgl time s = _
  rw [execRecord, hrange, hbuf, guarded_true, guarded_true]
  rfl

variable {d : Dev} {c : Cmd} {o : Origin} (mem : List Host.Cell) (hready : d.on .bsReady = true)
  (hload : d.loadInForce = true) (h : d.cmds = [c]) (ho : c.origin = o)
include hready hload h ho

theorem recordStart_gathers (hop : c.op = 0x01) {t : Take} (ht : d.take? c.take = some t) (hopen : t.state = .opened)
    (hfull : d.catalogFull = false) : d.recordStart mem o = d.startData mem o := by
  have hnone := writeRefusal_opened ht hopen hfull
  simp only [Dev.recordStart, serviceRefusal_none hready hload, cmd_of_alone h ho, Option.bind_some, hnone,
    beginRanged_alone mem hready hload h ho, Dev.startRange, hop]

theorem recordStart_unknown (ht : d.take? c.take = none) :
    d.recordStart mem o = d.finish o clsResource detTakeUnknown := by
  simp only [Dev.recordStart, serviceRefusal_none hready hload, cmd_of_alone h ho, Option.bind_some,
    writeRefusal_unknown ht h]
  rfl

end

/-! ### RETRIEVE and PEER_EXPORT (R406, R415) -/

/-- The command of origin o is alone in flight, and reads. -/
def Dev.ReadsAlone (d : Dev) (o : Origin) : Prop := ∃ c, d.cmds = [c] ∧ c.origin = o ∧ c.phase = .reading

section
variable {d : Dev} {o : Origin}

theorem Dev.ReadsAlone.congr {e : Dev} (h : d.ReadsAlone o) (he : e.cmds = d.cmds) : e.ReadsAlone o := by
  rwa [Dev.ReadsAlone, he]

theorem Dev.ReadsAlone.updCmd (h : d.ReadsAlone o) {f : Cmd → Cmd} (hf : ∀ c, (f c).origin = c.origin ∧ (f c).phase = c.phase) :
    (d.updCmd o f).ReadsAlone o := by
  obtain ⟨c, hc, ho, hp⟩ := h
  exact ⟨f c, updCmd_alone hc ho f, (hf c).1.trans ho, (hf c).2.trans hp⟩

theorem fail_origin_phase (c : Cmd) (offset detail : Nat) :
    (c.fail offset detail).origin = c.origin ∧ (c.fail offset detail).phase = c.phase := by
  unfold Cmd.fail
  split
  · split <;> exact ⟨rfl, rfl⟩
  · exact ⟨rfl, rfl⟩

theorem sendData_cmds (d : Dev) (l tag off : Nat) (data : Bytes) : (d.sendData l tag off data).cmds = d.cmds := by
  unfold Dev.sendData
  refine foldl_kept Dev.cmds _ ?_ _ _
  exact fun _ _ => rfl

theorem Dev.ReadsAlone.deliver (h : d.ReadsAlone o) (i : Nat) (data : Bytes) : (d.deliver o i data).ReadsAlone o := by
  unfold Dev.deliver
  split
  · exact h
  · have hcount : ∀ n, (d.updCmd o fun x => { x with delivered := x.delivered + n }).ReadsAlone o :=
      fun _ => h.updCmd fun _ => ⟨rfl, rfl⟩
    simp only []
    split
    · exact (hcount _).congr (sendData_cmds _ _ _ _ _)
    · split
      · split
        · exact (hcount _).congr rfl
        · exact (hcount _).updCmd fun _ => ⟨rfl, rfl⟩
      · exact (hcount _).congr rfl

theorem Dev.ReadsAlone.sample (h : d.ReadsAlone o) (t : Take) (i : Nat) : (Dev.sample? t o d i).ReadsAlone o := by
  unfold Dev.sample?
  split
  · exact h.deliver i _
  · exact h.updCmd fun _ => ⟨rfl, rfl⟩
  · exact h.updCmd fun c => fail_origin_phase c _ _

theorem Dev.ReadsAlone.samples (h : d.ReadsAlone o) (t : Take) (l : List Nat) : (l.foldl (Dev.sample? t o) d).ReadsAlone o := by
  induction l generalizing d with
  | nil => exact h
  | cons i l ih => exact ih (h.sample t i)

/-- A read of what is committed starts. -/
theorem startRead_reads {c : Cmd} (h : d.cmds = [c]) (ho : c.origin = o) {t : Take} (ht : d.take? c.take = some t)
    (hlen : c.offset + c.length ≤ t.length) : (d.startRead o).ReadsAlone o := by
  have hlist : (if c.sgl = [] then d else d.emit (.hostRead c.addr (16 * c.sgl.length) true)).cmds = [c] := by
    split <;> exact h
  unfold Dev.startRead
  rw [cmd_of_alone h ho]
  simp only [ht, if_neg (Nat.not_lt.2 hlen)]
  generalize (if c.sgl = [] then d else d.emit (.hostRead c.addr (16 * c.sgl.length) true)) = e at hlist
  have hreads : ∀ held, (e.updCmd o fun x => { x with phase := .reading, held := held }).ReadsAlone o :=
    fun _ => ⟨_, updCmd_alone hlist ho _, ho, rfl⟩
  split
  · exact (hreads _).samples t _
  · exact ((hreads _).samples t _).congr (needUnits_unitsOnly _ _ _).cmds

end

/-- A RETRIEVE and a PEER_EXPORT of what is committed read. -/
theorem reads_start {i : Instr} {s : State} {r : Nat} {c : Cmd} (hop : c.op = 0x02 ∨ c.op = 0x39)
    (hi : exec i s = descriptor r c s fun d o => d.beginRanged s.mem o) (hs : s.dev.mayStart r) (hc : s.dev.cmds = [])
    (hready : s.dev.on .bsReady = true) (hload : s.dev.loadInForce = true) {t : Take} (ht : s.dev.take? c.take = some t)
    (hlen : c.offset + c.length ≤ t.length) :
    ∃ d x, MakesThenRuns i s d ∧ d.cmds = [x] ∧ x.origin = s.dev.nextOrigin r ∧ x.phase = .reading := by
  have hmakes := ranged_starts hi hs hc hready hload
  have hcmd := started_alone hc r c
  have hread : (s.dev.started r c).startRange s.mem (s.dev.nextOrigin r) =
      (s.dev.started r c).startRead (s.dev.nextOrigin r) := by
    have hop' : (s.dev.startedCmd r c).op = 0x02 ∨ (s.dev.startedCmd r c).op = 0x39 := hop
    rw [Dev.startRange, cmd_of_alone (o := s.dev.nextOrigin r) hcmd rfl]
    obtain h | h := hop' <;> simp only [h]
  obtain ⟨x, hx, ho, hp⟩ := startRead_reads (o := s.dev.nextOrigin r) hcmd rfl (t := t) ht hlen
  exact ⟨_, x, hread ▸ hmakes, hx, ho, hp⟩

/-! ### TAKE_OPEN (R396, R397) -/

/-- TAKE_OPEN opens an empty take under the id it names. -/
theorem startOpen_opens {d : Dev} {c : Cmd} {r seq : Nat} (h : d.cmds = [c]) (ho : c.origin = .ring r seq) {v : Volume}
    (hv : d.volume = some v) (hvol : c.arg = 0 ∨ c.arg = v.id) (hopen : d.rd .svTakeOpen < 64)
    (hcount : d.takes.length < 1048576) (hid : c.take ≠ 0) (hnew : d.take? c.take = none) :
    (d.startOpen (.ring r seq)).cmds = [] ∧
    (d.startOpen (.ring r seq)).takes = d.takes ++ [{ id := c.take, label := slice c.bytes 0 32, openTime := c.hostTime }] ∧
    (⟨r, seq, c.cookie, clsOk, 0, c.op, c.take, false, 0, false⟩ : Compl) ∈
      ((d.startOpen (.ring r seq)).cqS (d.rd .sqCq [r])).waiting := by
  have hvol' : ¬ (c.arg ≠ 0 ∧ c.arg ≠ v.id) := by tauto
  have heq : d.startOpen (.ring r seq) = Dev.finish (Dev.takeCounts { d with takes := d.takes ++
      [{ id := c.take, label := slice c.bytes 0 32, openTime := c.hostTime }] }) (.ring r seq) clsOk 0 c.take := by
    simp only [Dev.startOpen, cmd_of_alone h ho, hv, if_neg hvol', if_neg (Nat.not_le.2 hopen), if_neg (Nat.not_le.2 hcount),
      hnew, Option.isSome_none, Bool.false_eq_true, and_false, if_false, if_pos hid]
  have hcq : ∀ e : Dev, e.takeCounts.rd .sqCq [r] = e.rd .sqCq [r] := by
    intro e
    simp [Dev.takeCounts]
  have hcmds : (Dev.takeCounts { d with takes := d.takes ++
      [{ id := c.take, label := slice c.bytes 0 32, openTime := c.hostTime }] }).cmds = [c] := h
  have hfin := finish_alone hcmds ho clsOk 0 c.take
  rw [hcq] at hfin
  rw [heq]
  exact hfin

/-! ### TAKE_CLOSE (R400, R402, R403) -/

/-- A take after an update of it that keeps its id. -/
theorem take?_updTake (d : Dev) (id : Nat) (f : Take → Take) (hf : ∀ t, (f t).id = t.id) :
    (d.updTake id f).take? id = (d.take? id).map f := by
  unfold Dev.updTake Dev.take?
  simp only []
  induction d.takes with
  | nil => rfl
  | cons t ts ih =>
    by_cases h : t.id = id
    · simp [h, hf]
    · simp [h, ih]

section
variable {d : Dev} {c : Cmd} {o : Origin} (h : d.cmds = [c]) (ho : c.origin = o) {t : Take} (ht : d.take? c.take = some t)
include h ho ht

theorem startClose_closes (hstate : t.state = .opened ∨ t.state = .unclosed) :
    (d.startClose o).take? c.take = some { t with state := .closing } ∧
      ((d.startClose o).cmd o).map Cmd.phase = some .gathering := by
  have heq : d.startClose o = ((d.updTake c.take fun t => { t with state := .closing }).takeCounts).updCmd o
      fun x => { x with phase := .gathering } := by
    obtain hst | hst := hstate <;> simp only [Dev.startClose, cmd_of_alone h ho, ht, hst]
  rw [heq]
  constructor
  · have htake := take?_updTake d c.take (fun t => { t with state := .closing }) fun _ => rfl
    rw [ht] at htake
    exact htake
  · have hcmds : ((d.updTake c.take fun t => { t with state := .closing }).takeCounts).cmds = [c] := h
    rw [cmd_of_alone (c := { c with phase := .gathering }) (updCmd_alone hcmds ho _) ho]
    rfl

theorem startClose_closed (hstate : t.state = .closed) : d.startClose o = d.report o clsOk 0 t.cert := by
  simp only [Dev.startClose, cmd_of_alone h ho, ht, hstate]

end

/-! ### The statement -/

section
variable {s : State} {r : Fin 256} (hs : s.dev.mayStart r) (hc : s.dev.cmds = []) (hready : s.dev.on .bsReady = true)
  (hload : s.dev.loadInForce = true)
include hs hc hready hload

theorem record_gathers (fua : Bool) (cookie take offset length addr time : Nat) (sgl : List (Nat × Nat)) (t : Take)
    (hrange : takeRangeOk true offset length = true) (hbuf : bufferOk length addr sgl = true)
    (ht : s.dev.take? take = some t) (hopen : t.state = .opened) (hfull : s.dev.catalogFull = false) :
    ∃ d c, MakesThenRuns (.record r cookie fua take offset length addr sgl time) s d ∧ d.cmds = [c] ∧
      c.origin = s.dev.nextOrigin r ∧ c.phase = .gathering ∧ c.fua = fua ∧ c.take = take ∧ c.offset = offset ∧
      c.length = length := by
  have hmakes := record_starts (s := s) (cookie := cookie) (fua := fua) (take := take) (time := time) hs hrange hbuf
  have hcmd := started_alone hc r (recordCmd r cookie fua take offset length addr sgl time)
  rw [recordStart_gathers (d := s.dev.started r _) (o := s.dev.nextOrigin r) s.mem hready hload hcmd rfl rfl ht hopen hfull] at hmakes
  obtain ⟨arg, got, delivered, hdata⟩ := startData_alone (o := s.dev.nextOrigin r) s.mem hcmd rfl
  exact ⟨_, _, hmakes, hdata, rfl, rfl, rfl, rfl, rfl, rfl⟩

theorem record_unknown (fua : Bool) (cookie take offset length addr time : Nat) (sgl : List (Nat × Nat))
    (hrange : takeRangeOk true offset length = true) (hbuf : bufferOk length addr sgl = true)
    (ht : s.dev.take? take = none) :
    ∃ d, MakesThenRuns (.record r cookie fua take offset length addr sgl time) s d ∧ d.cmds = [] ∧
      (⟨r, (s.dev.sqS r).started, cookie, clsResource, detTakeUnknown, 0x01, 0, false, 0, false⟩ : Compl) ∈
        (d.cqS (s.dev.rd .sqCq [r.val])).waiting := by
  have hmakes := record_starts (s := s) (cookie := cookie) (fua := fua) (take := take) (time := time) hs hrange hbuf
  have hcmd := started_alone hc r (recordCmd r cookie fua take offset length addr sgl time)
  rw [recordStart_unknown (d := s.dev.started r _) (o := s.dev.nextOrigin r) s.mem hready hload hcmd rfl ht] at hmakes
  obtain ⟨hcmds, _, hwait⟩ := finish_alone hcmd (r := r) (seq := (s.dev.sqS r).started) rfl clsResource detTakeUnknown 0
  exact ⟨_, hmakes, hcmds, hwait⟩

theorem retrieve_reads (cookie take offset length addr : Nat) (sgl : List (Nat × Nat)) (t : Take)
    (ht : s.dev.take? take = some t) (hlen : offset + length ≤ t.length) (hrange : takeRangeOk false offset length = true)
    (hbuf : bufferOk length addr sgl = true) :
    ∃ d c, MakesThenRuns (.retrieve r cookie take offset length addr sgl) s d ∧ d.cmds = [c] ∧
      c.origin = s.dev.nextOrigin r ∧ c.phase = .reading := by
  let c : Cmd := { origin := .ring r 0, op := 0x02, cookie := cookie, take := take, offset := offset, length := length,
                   addr := addr, sgl := sgl }
  refine reads_start (c := c) (.inl rfl) ?_ hs hc hready hload ht hlen
  change execRetrieve r cookie take offset length addr sgl s = _
  rw [execRetrieve, hrange, hbuf, guarded_true, guarded_true]

theorem takeOpen_opens (cookie take time volume : Nat) (label : Bytes) (v : Volume) (hv : s.dev.volume = some v)
    (hvol : volume = 0 ∨ volume = v.id) (hopen : s.dev.rd .svTakeOpen < 64) (hcount : s.dev.takes.length < 1048576)
    (hid : take ≠ 0) (hnew : s.dev.take? take = none) :
    ∃ d, MakesThenRuns (.takeOpen r cookie take time volume label) s d ∧ d.cmds = [] ∧
      d.takes = s.dev.takes ++ [{ id := take, label := slice label 0 32, openTime := time }] ∧
      (⟨r, (s.dev.sqS r).started, cookie, clsOk, 0, 0x08, take, false, 0, false⟩ : Compl) ∈
        (d.cqS (s.dev.rd .sqCq [r.val])).waiting := by
  let c : Cmd := { origin := .ring r 0, op := 0x08, cookie := cookie, take := take, hostTime := time, arg := volume,
                   bytes := label }
  have hmakes := ranged_starts (i := .takeOpen r cookie take time volume label) (c := c) rfl hs hc hready hload
  have hcmd := started_alone hc r c
  have hstart : (s.dev.started r c).startRange s.mem (s.dev.nextOrigin r) =
      (s.dev.started r c).startOpen (.ring r (s.dev.sqS r).started) := by
    rw [Dev.startRange, cmd_of_alone (o := s.dev.nextOrigin r) hcmd rfl]
    rfl
  rw [hstart] at hmakes
  exact ⟨_, hmakes, startOpen_opens hcmd rfl hv hvol hopen hcount hid hnew⟩

theorem takeClose_starts (cookie take time buf len : Nat) (t : Take) (e : Dev) (ht : s.dev.take? take = some t)
    (he : e = s.dev.started r
      { origin := .ring r 0, op := 0x09, cookie := cookie, take := take, hostTime := time, addr := buf, len := len }) :
    (t.state = .opened ∨ t.state = .unclosed → ∃ d t', MakesThenRuns (.takeClose r cookie take time buf len) s d ∧
      d.take? take = some t' ∧ t'.state = .closing ∧ t'.length = t.length ∧
      (d.cmd (s.dev.nextOrigin r)).map Cmd.phase = some .gathering) ∧
    (t.state = .closed → MakesThenRuns (.takeClose r cookie take time buf len) s (e.report (s.dev.nextOrigin r) clsOk 0 t.cert)) := by
  subst he
  let c : Cmd := { origin := .ring r 0, op := 0x09, cookie := cookie, take := take, hostTime := time, addr := buf, len := len }
  have hmakes := ranged_starts (i := .takeClose r cookie take time buf len) (c := c) rfl hs hc hready hload
  have hcmd := started_alone hc r c
  have hstart : (s.dev.started r c).startRange s.mem (s.dev.nextOrigin r) =
      (s.dev.started r c).startClose (s.dev.nextOrigin r) := by
    rw [Dev.startRange, cmd_of_alone (o := s.dev.nextOrigin r) hcmd rfl]
    rfl
  rw [hstart] at hmakes
  refine ⟨fun hstate => ?_, fun hstate => ?_⟩
  · obtain ⟨htake, hphase⟩ := startClose_closes (o := s.dev.nextOrigin r) hcmd rfl ht hstate
    exact ⟨_, _, hmakes, htake, rfl, rfl, hphase⟩
  · rwa [startClose_closed (o := s.dev.nextOrigin r) hcmd rfl ht hstate] at hmakes

theorem takeQuery_reports (cookie take buf len : Nat) (t : Take) (e : Dev) (ht : s.dev.take? take = some t)
    (he : e = s.dev.started r { origin := .ring r 0, op := 0x0A, cookie := cookie, take := take, addr := buf, len := len }) :
    MakesThenRuns (.takeQuery r cookie take buf len) s (e.report (s.dev.nextOrigin r) clsOk 0 (e.takeReport t)) := by
  subst he
  let c : Cmd := { origin := .ring r 0, op := 0x0A, cookie := cookie, take := take, addr := buf, len := len }
  have hmakes := ranged_starts (i := .takeQuery r cookie take buf len) (c := c) rfl hs hc hready hload
  have hcmd := started_alone hc r c
  have ht' : (s.dev.started r c).take? (s.dev.startedCmd r c).take = some t := ht
  have hop : (s.dev.startedCmd r c).op = 0x0A := rfl
  have hstart : (s.dev.started r c).startRange s.mem (s.dev.nextOrigin r) =
      (s.dev.started r c).report (s.dev.nextOrigin r) clsOk 0 ((s.dev.started r c).takeReport t) := by
    rw [Dev.startRange, cmd_of_alone (o := s.dev.nextOrigin r) hcmd rfl]
    simp only [hop, ht']
  rwa [hstart] at hmakes

end

/-- Settles O59: one lemma per command. -/
theorem takesOpenRecordAndClose : Obligations.TakesOpenRecordAndClose := by
  unfold Obligations.TakesOpenRecordAndClose
  intro s r o hs hc hready ho
  subst ho
  refine ⟨fun cookie hload => ?idle, fun hload => ⟨?flush, record_gathers hs hc hready hload,
    record_unknown hs hc hready hload, ?reads, takeOpen_opens hs hc hready hload, takeClose_starts hs hc hready hload,
    takeQuery_reports hs hc hready hload⟩⟩
  case idle =>
    have hmakes := flush_starts s r cookie hs
    rwa [flushStart_unloaded (s.dev.started r _) _ hload] at hmakes
  case flush =>
    intro cookie e he
    have hmakes := flush_starts s r cookie hs
    rwa [flushStart_loaded (s.dev.started r _) e _ hload he] at hmakes
  case reads =>
    intro cookie take offset length addr window t ht hlen
    let c : Cmd := { origin := .ring r 0, op := 0x39, cookie := cookie, take := take, offset := offset, length := length,
                     addr := addr, len := window }
    exact ⟨fun sgl => retrieve_reads hs hc hready hload cookie take offset length addr sgl t ht hlen,
      reads_start (c := c) (.inr rfl) rfl hs hc hready hload ht hlen⟩

end Sys2Proof.Machine
end

section
/-! SUPPORT. What the work on blocks, lane queues and the catalogue leaves of the rows of every pickup and of their counts
(O52). -/

namespace Sys2Proof.Machine

/-- The counts of rows that only allocation, start, end and abandonment of a row move (R251, R271, R295). -/
def rowCountRows : List Row := [.rowAlloc, .rowWritten, .rowInprog, .rowNext, .rowSpareNext]

/-- From d to e the rows of every pickup and their counts stay. -/
structure Dev.RowsKept (d e : Dev) : Prop where
  rows : ∀ p, (e.pkS p).rows = (d.pkS p).rows
  counts : ∀ r ∈ rowCountRows, ∀ ix, e.rd r ix = d.rd r ix

section
variable {d e g : Dev}

theorem rowsKept_of_eq (hp : e.pk = d.pk) (hr : e.regs = d.regs) : d.RowsKept e :=
  ⟨fun p => by rw [Dev.pkS, hp, Dev.pkS], fun r _ ix => by rw [Dev.rd, hr, Dev.rd]⟩

theorem rowsKept_refl (d : Dev) : d.RowsKept d := rowsKept_of_eq rfl rfl

theorem Dev.RowsKept.trans (h : d.RowsKept e) (h' : e.RowsKept g) : d.RowsKept g :=
  ⟨fun p => (h'.rows p).trans (h.rows p), fun r hr ix => (h'.counts r hr ix).trans (h.counts r hr ix)⟩

theorem rowsKept_updPk (d : Dev) (p : Nat) (f : Pk → Pk) (hf : ∀ k, (f k).rows = k.rows) : d.RowsKept (d.updPk p f) := by
  refine ⟨fun q => ?_, fun _ _ _ => rfl⟩
  rw [pkS_updPk]
  split
  · next h => rw [h]; exact hf _
  · rfl

/-- Another step of a chain, by its own lemma. -/
theorem Dev.RowsKept.step (h' : e.RowsKept g) (h : d.RowsKept e) : d.RowsKept g := h.trans h'

/-- A write of a field that is no count of rows. -/
theorem Dev.RowsKept.wr (h : d.RowsKept e) {r : Row} {ix : List Nat} {v : Nat} (hr : r ∉ rowCountRows := by decide) :
    d.RowsKept (e.wr r ix v) := by
  refine h.trans ⟨fun _ => rfl, fun r' hr' ix' => (rd_wr e r r' ix ix' v).trans (if_neg fun he => hr ?_)⟩
  rw [← he.1]
  exact hr'

theorem Dev.RowsKept.updBasin (h : d.RowsKept e) {f : Basin → Basin} : d.RowsKept (e.updBasin f) :=
  h.trans (rowsKept_of_eq rfl rfl)

theorem Dev.RowsKept.share (h : d.RowsKept e) {x : Share} : d.RowsKept { e with share := x } :=
  h.trans (rowsKept_of_eq rfl rfl)

theorem Dev.RowsKept.raise (h : d.RowsKept e) {src code : Nat} {b : Bytes} : d.RowsKept (e.raise src code b) :=
  h.trans (rowsKept_of_eq rfl rfl)

theorem Dev.RowsKept.updSq (h : d.RowsKept e) {r : Nat} {f : SqState → SqState} : d.RowsKept (e.updSq r f) :=
  h.trans (rowsKept_of_eq rfl rfl)

theorem Dev.RowsKept.updLk (h : d.RowsKept e) {l : Nat} {f : Link → Link} : d.RowsKept (e.updLk l f) :=
  h.trans (rowsKept_of_eq rfl rfl)

theorem Dev.RowsKept.updTake (h : d.RowsKept e) {id : Nat} {f : Take → Take} : d.RowsKept (e.updTake id f) :=
  h.trans (rowsKept_of_eq rfl rfl)

theorem Dev.RowsKept.updStripe (h : d.RowsKept e) {x : Nat} {f : Stripe → Stripe} : d.RowsKept (e.updStripe x f) :=
  h.trans (rowsKept_of_eq rfl rfl)

theorem Dev.RowsKept.updCat (h : d.RowsKept e) {f : Catalogue → Catalogue} : d.RowsKept (e.updCat f) :=
  h.trans (rowsKept_of_eq rfl rfl)

theorem Dev.RowsKept.updPk (h : d.RowsKept e) {p : Nat} {f : Pk → Pk} (hf : ∀ k, (f k).rows = k.rows := by exact fun _ => rfl) :
    d.RowsKept (e.updPk p f) :=
  h.trans (rowsKept_updPk e p f hf)

/-- A step taken on a condition only. -/
theorem rowsKept_ite {c : Prop} [Decidable c] (h : d.RowsKept e) (h' : d.RowsKept g) : d.RowsKept (if c then e else g) := by
  split
  · exact h
  · exact h'

theorem rowsKept_foldl {β : Type} {f : Dev → β → Dev} (h : ∀ (d : Dev) b, d.RowsKept (f d b)) (l : List β) (d : Dev) :
    d.RowsKept (l.foldl f d) := by
  induction l generalizing d with
  | nil => exact rowsKept_refl d
  | cons b l ih => exact (h d b).trans (ih (f d b))

end

/-! ### Units and blocks -/

theorem fillUpdate_rowsKept (d : Dev) : d.RowsKept d.fillUpdate := by
  unfold Dev.fillUpdate
  simp only []
  split
  · exact .raise (.updBasin (.wr (rowsKept_refl d)))
  · split
    · refine .raise ?_
      split
      · exact .updBasin (.wr (rowsKept_refl d))
      · exact .share (.updBasin (.wr (rowsKept_refl d)))
    · exact .wr (rowsKept_refl d)

theorem passWindow_rowsKept (d : Dev) : d.RowsKept d.passWindow := by
  unfold Dev.passWindow
  split
  · exact .wr (rowsKept_refl d)
  · exact .wr (.wr (.wr (.updBasin (rowsKept_refl d))))

theorem releaseUnits_rowsKept (d : Dev) (o : Owner) : d.RowsKept (d.releaseUnits o) := by
  unfold Dev.releaseUnits
  simp only []
  split
  · exact rowsKept_refl d
  · refine .step (fillUpdate_rowsKept _) ?_
    split
    · exact .step (passWindow_rowsKept _) (.share (.wr (.wr (.wr (.wr (.updBasin (rowsKept_refl d)))))))
    · exact .share (.wr (.wr (.wr (.wr (.updBasin (rowsKept_refl d))))))

theorem blockGone_rowsKept (d : Dev) (key : Nat × Nat) : d.RowsKept (d.blockGone key) :=
  .step (rowsKept_foldl releaseUnits_rowsKept _ _) (rowsKept_of_eq rfl rfl)

theorem dropBlk_rowsKept (d : Dev) (id : Nat) : d.RowsKept (d.dropBlk id) := by
  unfold Dev.dropBlk
  split
  · exact rowsKept_refl d
  · simp only []
    split
    · refine .step (releaseUnits_rowsKept _ _) ?_
      split
      · exact .step (blockGone_rowsKept _ _) (rowsKept_of_eq rfl rfl)
      · exact rowsKept_of_eq rfl rfl
    · split
      · exact .step (blockGone_rowsKept _ _) (rowsKept_of_eq rfl rfl)
      · exact rowsKept_of_eq rfl rfl

/-! ### Writes that fail (R343, R370) -/

theorem finish_rowsKept (d : Dev) (o : Origin) (cls det res : Nat) : d.RowsKept (d.finish o cls det res) := by
  unfold Dev.finish
  split
  · exact rowsKept_refl d
  · split <;> exact rowsKept_of_eq rfl rfl

theorem noteFailed_rowsKept (d : Dev) (w : Writer) : d.RowsKept (d.noteFailed w) := by
  unfold Dev.noteFailed
  split <;> exact rowsKept_of_eq rfl rfl

theorem deferError_rowsKept (d : Dev) (w : Writer) (detail : Nat) : d.RowsKept (d.deferError w detail) := by
  have hring : ∀ (r : Nat) (f : CqState → CqState), d.RowsKept (if (d.sqS r).unread then d else d.updCq (d.rd .sqCq [r]) f) :=
    fun _ _ => rowsKept_ite (rowsKept_refl d) (rowsKept_of_eq rfl rfl)
  have hlink : ∀ (l : Nat) (f : Link → Link), d.RowsKept (if (d.lk l).unread then d else d.updLk l f) :=
    fun _ _ => rowsKept_ite (rowsKept_refl d) (rowsKept_of_eq rfl rfl)
  unfold Dev.deferError
  simp only []
  split
  · exact .raise (rowsKept_ite (.wr (.updSq (hring _ _))) (.wr (.updSq (hring _ _))))
  · exact .raise (rowsKept_ite (.wr (.updSq (hring _ _))) (.wr (.updSq (hring _ _))))
  · exact .raise (rowsKept_ite (.wr (.updLk (hlink _ _))) (.wr (.updLk (hlink _ _))))

theorem failWriters_rowsKept (d : Dev) (cls detail : Nat) (ws : List Writer) : d.RowsKept (d.failWriters cls detail ws) := by
  refine rowsKept_foldl (fun d w => ?_) _ _
  refine rowsKept_ite ?_ (rowsKept_ite ?_ ?_)
  · exact .step (finish_rowsKept _ _ _ _ _) (noteFailed_rowsKept d w)
  · exact noteFailed_rowsKept d w
  · exact .trans (.step (deferError_rowsKept _ _ _) (noteFailed_rowsKept d w)) (rowsKept_of_eq rfl rfl)

theorem unqueue_rowsKept (d : Dev) (p id : Nat) : d.RowsKept (d.unqueue p id) := rowsKept_updPk d p _ fun _ => rfl

theorem requeue_rowsKept (d : Dev) (p lane id : Nat) : d.RowsKept (d.requeue p lane id) := rowsKept_updPk d p _ fun _ => rfl

theorem loseBlk_rowsKept (d : Dev) (id cls detail : Nat) : d.RowsKept (d.loseBlk id cls detail) := by
  unfold Dev.loseBlk
  split
  · exact rowsKept_refl d
  · next b _ =>
    simp only []
    refine .step (dropBlk_rowsKept _ _) (.step (failWriters_rowsKept _ _ _ _) ?_)
    have hqueue : ∀ l : List Cmd, d.RowsKept { d.unqueue b.surface id with cmds := l } :=
      fun _ => (unqueue_rowsKept d b.surface id).trans (rowsKept_of_eq rfl rfl)
    have hmap : ∀ (l : List Cmd) (f : Nat → Stripe → Stripe), d.RowsKept (match b.kind, b.pba with
      | .take, some a => ({ d.unqueue b.surface id with cmds := l } : Dev).updStripe b.stripe (f a)
      | .parity, some a => ({ d.unqueue b.surface id with cmds := l } : Dev).updStripe b.stripe (f a)
      | _, _ => { d.unqueue b.surface id with cmds := l }) := by
      intro l f
      split
      · exact (hqueue l).trans (rowsKept_of_eq rfl rfl)
      · exact (hqueue l).trans (rowsKept_of_eq rfl rfl)
      · exact hqueue l
    refine rowsKept_ite (.updTake ?_) ?_
    · exact rowsKept_ite (.updTake (hmap _ _)) (hmap _ _)
    · exact rowsKept_ite (.updTake (hmap _ _)) (hmap _ _)

/-! ### Blocks that leave a lane queue (R269, R395) -/

theorem placeElsewhere_rowsKept (d : Dev) (id detail : Nat) : d.RowsKept (d.placeElsewhere id detail) := by
  unfold Dev.placeElsewhere
  split
  · split
    · exact loseBlk_rowsKept _ _ _ _
    · simp only []
      split
      · exact loseBlk_rowsKept _ _ _ _
      · exact .step (requeue_rowsKept _ _ _ _) ((unqueue_rowsKept d _ id).trans (rowsKept_of_eq rfl rfl))
  · exact loseBlk_rowsKept _ _ _ _

theorem expel_rowsKept (d : Dev) (id cls detTake detRaw : Nat) : d.RowsKept (d.expel id cls detTake detRaw) := by
  unfold Dev.expel
  split
  · exact rowsKept_refl d
  · split
    · exact loseBlk_rowsKept _ _ _ _
    · exact placeElsewhere_rowsKept _ _ _

theorem expelDisabled_rowsKept (d : Dev) (p : Nat) : d.RowsKept (d.expelDisabled p) := by
  unfold Dev.expelDisabled
  refine rowsKept_foldl (fun d i => ?_) _ _
  exact .step (expel_rowsKept _ _ _ _ _) (rowsKept_of_eq rfl rfl)

theorem leaveQueues_rowsKept (d : Dev) (p : Nat) (lanes : List (Nat × Nat)) : d.RowsKept (d.leaveQueues p lanes) := by
  unfold Dev.leaveQueues
  refine rowsKept_foldl (fun d e => ?_) _ _
  exact unqueue_rowsKept d p e.2

/-! ### Records of the catalogue -/

theorem recordStripe_rowsKept (d : Dev) (x : Nat) : d.RowsKept (d.recordStripe x) := by
  have hrecs : ∀ (bodies : List Bytes) (t g : Nat) (y : Dev), y.RowsKept (bodies.foldl (fun d b => d.appendRec t g b) y) := by
    intro bodies t g y
    refine rowsKept_foldl (fun d b => ?_) bodies y
    exact rowsKept_of_eq rfl rfl
  unfold Dev.recordStripe
  split
  · exact rowsKept_refl d
  · simp only []
    have hgroup : d.RowsKept d.newGroup := rowsKept_of_eq rfl rfl
    exact rowsKept_ite (rowsKept_refl d) (.updStripe (.updCat (.step (hrecs _ _ _ _) hgroup)))

theorem memberRow_rowsKept (d : Dev) (b : Blk) (pba : Nat) : d.RowsKept (d.memberRow b pba) := by
  unfold Dev.memberRow
  refine rowsKept_ite (rowsKept_refl d) ?_
  split
  · exact rowsKept_refl d
  · exact rowsKept_refl d
  · exact .step (recordStripe_rowsKept _ _) (rowsKept_of_eq rfl rfl)

theorem catSettle_rowsKept (d : Dev) (p : Nat) (lanes : List Nat) (failed : Option Nat) :
    d.RowsKept (d.catSettle p lanes failed) := by
  have hprogress : ∀ x : Dev, x.RowsKept x.catProgress := by
    intro x
    unfold Dev.catProgress
    split
    · exact rowsKept_refl x
    · simp only []
      split <;> exact rowsKept_of_eq rfl rfl
  unfold Dev.catSettle
  split
  · exact rowsKept_refl d
  · exact .step (hprogress _) (rowsKept_of_eq rfl rfl)

/-! ### Settings of the pickup (R80, R273) -/

theorem settingWrite_rowsKept (d : Dev) (p reg data : Nat) : d.RowsKept (d.settingWrite p reg data) := by
  unfold Dev.settingWrite
  exact rowsKept_ite (.updPk (.updPk (rowsKept_refl d))) (.updPk (rowsKept_refl d))

theorem sendPowers_rowsKept (d : Dev) (p L z : Nat) : d.RowsKept (d.sendPowers p L z) := by
  refine rowsKept_foldl (fun d i => ?_) _ _
  exact rowsKept_ite (rowsKept_refl d) (.step (settingWrite_rowsKept _ _ _ _) (.wr (rowsKept_refl d)))

theorem sendSettings_rowsKept (d : Dev) (p : Nat) : d.RowsKept (d.sendSettings p) := by
  unfold Dev.sendSettings
  simp only []
  refine rowsKept_ite (rowsKept_refl d) ?_
  refine .updPk (rowsKept_foldl (fun d f => ?_) _ d)
  exact .updPk (rowsKept_refl d)

/-! ### Recovered copies (R295, R298) -/

theorem countQueued_rowsKept (d : Dev) (p : Nat) : d.RowsKept (d.countQueued p) := .wr (rowsKept_refl d)

theorem spareEvents_rowsKept (d : Dev) (p L : Nat) : d.RowsKept (d.spareEvents p L) := by
  unfold Dev.spareEvents
  simp only []
  have hlow : d.RowsKept (if 100000 - d.rd .rowSpareNext [p, L] < d.rd .rvSpareLow ∧
        !(tget {} (d.pkS p).realloc L : Realloc).lowPosted then
      (d.updPk p fun k => { k with realloc := tset k.realloc L { tget {} k.realloc L with lowPosted := true } }).raisePk
        p 21 evSpareLow ([L] ++ le 4 (100000 - d.rd .rowSpareNext [p, L]))
    else d) := rowsKept_ite (.raise (.updPk (rowsKept_refl d))) (rowsKept_refl d)
  exact rowsKept_ite (.raise (.updPk hlow)) hlow

end Sys2Proof.Machine
end

section
/-! SUPPORT. The rows of a pickup: their allocation, their start and their end (O52). -/

namespace Sys2Proof.Machine

/-! ### A row is allocated (R250, R251, R271) -/

/-- From d to e row `rw` of pickup p is allocated and counted, and no place for a next row moves. -/
structure Dev.RowTaken (p : Nat) (rw : RowWrite) (d e : Dev) : Prop where
  rows : (e.pkS p).rows = (d.pkS p).rows ++ [rw]
  alloc : e.rd .rowAlloc [p] = (d.rd .rowAlloc [p] + 1) % 2 ^ 32
  inprog : e.rd .rowInprog [p] = (d.rd .rowInprog [p] + 1) % 2 ^ 32
  next : ∀ r ∈ [Row.rowNext, Row.rowSpareNext], ∀ ix, e.rd r ix = d.rd r ix

section
variable {p : Nat} {rw : RowWrite} {d e g : Dev}

theorem Dev.RowTaken.after (h : e.RowTaken p rw g) (h' : d.RowsKept e) : d.RowTaken p rw g := by
  refine ⟨?_, ?_, ?_, fun r hr ix => ?_⟩
  · rw [h.rows, h'.rows]
  · rw [h.alloc, h'.counts _ (by decide)]
  · rw [h.inprog, h'.counts _ (by decide)]
  · rw [h.next r hr, h'.counts r (by revert r; decide)]

theorem Dev.RowTaken.before (h : d.RowTaken p rw e) (h' : e.RowsKept g) : d.RowTaken p rw g := by
  refine ⟨?_, ?_, ?_, fun r hr ix => ?_⟩
  · rw [h'.rows, h.rows]
  · rw [h'.counts _ (by decide), h.alloc]
  · rw [h'.counts _ (by decide), h.inprog]
  · rw [h'.counts r (by revert r; decide), h.next r hr]

end

theorem takeRow_taken (d : Dev) (p : Nat) (rw : RowWrite) : d.RowTaken p rw (d.takeRow p rw) := by
  have hregs : (d.takeRow p rw).regs = ((d.inc .rowAlloc [p]).inc .rowInprog [p]).regs :=
    foldl_kept Dev.regs _ (by exact fun _ _ => rfl) _ _
  have hpk : ((d.takeRow p rw).pkS p).rows = (d.pkS p).rows ++ [rw] := by
    have hkept : (d.takeRow p rw).pk = _ := foldl_kept Dev.pk _ (by exact fun _ _ => rfl) _ _
    rw [Dev.pkS, hkept]
    simp [Dev.updPk, Dev.pkS, Dev.inc, Dev.wr]
  have hrd : ∀ r ix, (d.takeRow p rw).rd r ix = ((d.inc .rowAlloc [p]).inc .rowInprog [p]).rd r ix := fun r ix => by
    rw [Dev.rd, hregs, Dev.rd]
  refine ⟨hpk, ?_, ?_, fun r hr ix => ?_⟩
  · rw [hrd]
    refine (rd_wr _ .rowInprog .rowAlloc _ _ _).trans ((if_neg (by simp)).trans ?_)
    exact (rd_wr _ .rowAlloc .rowAlloc _ _ _).trans (if_pos ⟨rfl, rfl⟩)
  · rw [hrd]
    refine (rd_wr _ .rowInprog .rowInprog _ _ _).trans ((if_pos ⟨rfl, rfl⟩).trans ?_)
    rw [show (d.inc .rowAlloc [p]).rd .rowInprog [p] = d.rd .rowInprog [p] from
      (rd_wr _ .rowAlloc .rowInprog _ _ _).trans (if_neg (by simp))]
    rfl
  · have hne : r ≠ .rowInprog ∧ r ≠ .rowAlloc := by
      revert r
      decide
    rw [hrd]
    refine (rd_wr _ .rowInprog r _ _ _).trans ((if_neg fun h => hne.1 h.1).trans ?_)
    exact (rd_wr _ .rowAlloc r _ _ _).trans (if_neg fun h => hne.2 h.1)

theorem placeRow_taken (d : Dev) (p : Nat) (rw : RowWrite) : d.RowTaken p rw (d.placeRow p rw) :=
  (takeRow_taken _ p rw).after ((sendPowers_rowsKept d p _ _).trans (sendSettings_rowsKept _ p))

/-! ### A user row (R250, R251, R273) -/

/-- User row r of layer L is allocated as `rw`: its blocks leave their queues, and members get their row. -/
def Dev.userAllocated (d : Dev) (p L r : Nat) (rw : RowWrite) : Dev :=
  ((rw.lanes.foldl (fun d e => match d.blk? e.2 with
      | some b => d.memberRow b (pbaOf p L e.1 r)
      | none => d) (((d.placeRow p rw).leaveQueues p rw.lanes).pastRow p L r)).expelDisabled p)

theorem pastRow_rows (d : Dev) (p L r q : Nat) : ((d.pastRow p L r).pkS q).rows = (d.pkS q).rows := rfl

theorem pastRow_rd (d : Dev) (p L r : Nat) (x : Row) (ix : List Nat) (h : x ≠ .rowNext) :
    (d.pastRow p L r).rd x ix = d.rd x ix :=
  (rd_wr d .rowNext x _ ix _).trans (if_neg fun he => h he.1)

theorem pastRow_next (d : Dev) (p L r : Nat) (h : d.rd .rowNext [p, L] ≤ r) (hr : r < 98400) :
    (d.pastRow p L r).rd .rowNext [p, L] = r + 1 := by
  have hmax : max (d.rd .rowNext [p, L]) (r + 1) = r + 1 := by omega
  refine (rd_wr d .rowNext .rowNext _ _ _).trans ((if_pos ⟨rfl, rfl⟩).trans ?_)
  rw [hmax]
  exact Nat.mod_eq_of_lt (lt_of_le_of_lt hr (by decide))

theorem userAllocated_row (d : Dev) (p L r : Nat) (rw : RowWrite) (h : d.rd .rowNext [p, L] ≤ r) (hr : r < 98400) :
    ((d.userAllocated p L r rw).pkS p).rows = (d.pkS p).rows ++ [rw] ∧
    (d.userAllocated p L r rw).rd .rowNext [p, L] = r + 1 ∧
    (d.userAllocated p L r rw).rd .rowAlloc [p] = (d.rd .rowAlloc [p] + 1) % 2 ^ 32 ∧
    (d.userAllocated p L r rw).rd .rowInprog [p] = (d.rd .rowInprog [p] + 1) % 2 ^ 32 := by
  have htaken := (placeRow_taken d p rw).before (leaveQueues_rowsKept _ p rw.lanes)
  have hnext := htaken.next .rowNext (by decide) [p, L]
  have hkept : (((d.placeRow p rw).leaveQueues p rw.lanes).pastRow p L r).RowsKept (d.userAllocated p L r rw) := by
    refine .trans (rowsKept_foldl (fun x e => ?_) _ _) (expelDisabled_rowsKept _ p)
    split
    · exact memberRow_rowsKept _ _ _
    · exact rowsKept_refl _
  refine ⟨?_, ?_, ?_, ?_⟩
  · rw [hkept.rows, pastRow_rows, htaken.rows]
  · rw [hkept.counts _ (by decide), pastRow_next _ _ _ _ (hnext ▸ h) hr]
  · rw [hkept.counts _ (by decide), pastRow_rd _ _ _ _ _ _ (by decide), htaken.alloc]
  · rw [hkept.counts _ (by decide), pastRow_rd _ _ _ _ _ _ (by decide), htaken.inprog]

theorem rowAllocate_user (s : State) (p : Fin 32) (L : Fin 4) (time : Nat) :
    MakesThenRuns (.rowAllocate p L 0 time) s (s.dev.allocUser p time) := rfl
theorem rowAllocate_fixed (s : State) (p : Fin 32) (L : Fin 4) (time : Nat) :
    MakesThenRuns (.rowAllocate p L 1 time) s (s.dev.allocFixed p L time) := rfl
theorem rowAllocate_spare (s : State) (p : Fin 32) (L : Fin 4) (time : Nat) :
    MakesThenRuns (.rowAllocate p L 2 time) s (s.dev.allocSpare p L time) := rfl
theorem rowAllocate_catalogue (s : State) (p : Fin 32) (L : Fin 4) (time : Nat) :
    MakesThenRuns (.rowAllocate p L 3 time) s (s.dev.allocCatalogue p time) := rfl

/-- The row that `allocUser` allocates when it allocates one. -/
def Dev.userRow (d : Dev) (p L time next k r : Nat) (changed : Bool) (lanes : List (Nat × Nat)) : RowWrite :=
  { d.newRow p L r (if (d.pkS p).rows = [] then time + k * d.rowTime p next else time) .user lanes with newValues := changed }

theorem allocUser_eq {d : Dev} {p L time next k r : Nat} {changed : Bool} {lanes : List (Nat × Nat)}
    (hL : d.writeLayer p = some L) (hmay : d.mayAllocate p L = true) (hdrift : d.opcDrift p L = false)
    (hnext : next = d.rd .rowNext [p, L])
    (hjoins : (d.pkS p).rows = [] ∨ ∃ c, (d.pkS p).rows = [c] ∧ c.started = true ∧ c.layer = L ∧ c.row + 1 = next)
    (hchanged : changed = d.needsValues p L (zoneOf (rowBand next)))
    (hk : k = if changed || ((d.pkS p).rows.isEmpty && !d.settled p) then d.passedOver p next time changed else 0)
    (hr : r = next + k) (hlt : r < 98400) (hset : d.setValid p L r = true) (hlanes : lanes = d.rowLanes p)
    (hsome : lanes ≠ []) :
    d.allocUser p time = d.userAllocated p L r (d.userRow p L time next k r changed lanes) := by
  have hgo : ¬ (98400 ≤ r ∨ (!d.setValid p L r) = true) := by
    rw [not_or, Nat.not_le, hset]
    exact ⟨hlt, by simp⟩
  subst hr hk hchanged hlanes hnext
  simp only [Dev.allocUser, hL]
  refine (if_neg (by simp [hmay])).trans ((if_neg (by simp [hdrift])).trans ?_)
  refine (if_neg ?joins).trans ((if_neg hsome).trans ((if_neg hgo).trans rfl))
  case joins =>
    obtain h | ⟨c, h, hstarted, hlayer, hrow⟩ := hjoins
    · simp [h]
    · simp [h, hstarted, hlayer, hrow]

theorem rowAllocate_userRow (s : State) (p : Fin 32) (L : Fin 4) (time next k r : Nat) (changed : Bool)
    (lanes : List (Nat × Nat)) (hL : s.dev.writeLayer p = some L.val) (hmay : s.dev.mayAllocate p L = true)
    (hdrift : s.dev.opcDrift p L = false) (hnext : next = s.dev.rd .rowNext [p.val, L.val])
    (hjoins : (s.dev.pkS p).rows = [] ∨ ∃ c, (s.dev.pkS p).rows = [c] ∧ c.started = true ∧ c.layer = L.val ∧ c.row + 1 = next)
    (hchanged : changed = s.dev.needsValues p L (zoneOf (rowBand next)))
    (hk : k = if changed || ((s.dev.pkS p).rows.isEmpty && !s.dev.settled p) then s.dev.passedOver p next time changed else 0)
    (hr : r = next + k) (hlt : r < 98400) (hset : s.dev.setValid p L r = true) (hlanes : lanes = s.dev.rowLanes p)
    (hsome : lanes ≠ []) :
    ∃ d rw, MakesThenRuns (.rowAllocate p L 0 time) s d ∧ (d.pkS p).rows = (s.dev.pkS p).rows ++ [rw] ∧
      rw.layer = L.val ∧ rw.row = r ∧ rw.kind = .user ∧ rw.lanes = lanes ∧ rw.started = false ∧
      rw.time = (if (s.dev.pkS p).rows = [] then time + k * s.dev.rowTime p next else time) ∧
      rw.zone = zoneOf (rowBand r) ∧ rw.set = s.dev.setOf p L rw.zone ∧
      rw.newValues = changed ∧
      d.rd .rowNext [p.val, L.val] = r + 1 ∧
      d.rd .rowAlloc [p.val] = (s.dev.rd .rowAlloc [p.val] + 1) % 2 ^ 32 ∧
      d.rd .rowInprog [p.val] = (s.dev.rd .rowInprog [p.val] + 1) % 2 ^ 32 := by
  have heq := allocUser_eq hL hmay hdrift hnext hjoins hchanged hk hr hlt hset hlanes hsome
  have hle : s.dev.rd .rowNext [p.val, L.val] ≤ r := by omega
  obtain ⟨hrows, hpast, halloc, hinprog⟩ :=
    userAllocated_row s.dev p L r (s.dev.userRow p L time next k r changed lanes) hle hlt
  exact ⟨_, s.dev.userRow p L time next k r changed lanes, heq ▸ rowAllocate_user s p L time, hrows, rfl, rfl, rfl, rfl, rfl,
    rfl, rfl, rfl, rfl, hpast, halloc, hinprog⟩

end Sys2Proof.Machine
end

section
/-! SUPPORT. Rows of the other kinds, and the start and the end of a row (O52). -/

namespace Sys2Proof.Machine

/-! ### The row of a BLOCK_WRITE (R251, R273) -/

theorem freeTaken_none {d : Dev} {p f : Nat} (h : ∀ k, d.laneTaken p (f / 2 ^ 17) (f % 2 ^ 17) k = false) :
    d.freeTaken p f = d := by
  have hnone : ((d.heads p fun b => b.waitsForRow && b.fixed == some f).filter fun e =>
      d.laneTaken p (f / 2 ^ 17) (f % 2 ^ 17) e.1) = [] := List.filter_eq_nil_iff.2 fun e _ => Bool.eq_false_iff.1 (h e.1)
  unfold Dev.freeTaken
  simp only []
  rw [hnone]
  rfl

theorem blk?_id {d : Dev} {i : Nat} {b : Blk} (h : d.blk? i = some b) : b.id = i := by
  simpa using List.find?_some h

/-- The block at the head of a lane queue is the one its number finds, and passes the test. -/
theorem heads_blk {d : Dev} {p : Nat} {ok : Blk → Bool} {e : Nat × Nat} (h : e ∈ d.heads p ok) :
    ∃ b, d.blk? e.2 = some b ∧ ok b = true ∧ ∀ ok', ok' b = true → e ∈ d.heads p ok' := by
  obtain ⟨q, hq, hhead⟩ := List.mem_filterMap.1 h
  split at hhead
  case h_1 b hfind =>
    obtain ⟨i, _, hi⟩ := List.mem_filterMap.1 (List.mem_of_find?_eq_some hfind)
    split at hhead
    case isTrue hok =>
      obtain ⟨hok, hdis⟩ := Bool.and_eq_true_iff.1 hok
      obtain rfl := Option.some.inj hhead
      refine ⟨b, (blk?_id hi).symm ▸ hi, hok, fun ok' hok' => List.mem_filterMap.2 ⟨q, hq, ?_⟩⟩
      simp only [hfind]
      exact if_pos (by rw [hok', hdis]; rfl)
    case isFalse => cases hhead
  case h_2 => cases hhead

theorem fixedLanes_ne_nil {d : Dev} {p L f : Nat}
    (h : (((d.heads p Blk.waitsForRow).filterMap fun e => (d.blk? e.2).bind Blk.fixed).find? fun f =>
      f / 2 ^ 17 == L) = some f) :
    d.heads p (fun b => b.waitsForRow && b.fixed == some f) ≠ [] := by
  obtain ⟨e, he, hfixed⟩ := List.mem_filterMap.1 (List.mem_of_find?_eq_some h)
  obtain ⟨b, hb, hwaits, hany⟩ := heads_blk he
  rw [hb] at hfixed
  exact List.ne_nil_of_mem (hany _ (by simpa [hwaits] using hfixed))

theorem valuesFirst_settled {d : Dev} {p : Nat} {rw : RowWrite} (h : d.needsValues p rw.layer rw.zone = false)
    (hs : (d.pkS p).settling = none) : d.valuesFirst p rw = d.placeRow p rw := by
  unfold Dev.valuesFirst
  exact (if_neg (by simp [h])).trans (if_neg (by simp [hs]))

/-- The device in which the values of a row have been sent, and are settling. -/
def Dev.valuesSent (d : Dev) (p L z : Nat) : Dev :=
  ((d.sendPowers p L z).sendSettings p).updPk p fun k => { k with
    settling := some (d.time, d.saPending p || ((d.pkS p).settling.map Prod.snd).getD false) }

theorem valuesFirst_sent {d : Dev} {p : Nat} {rw : RowWrite} (h : d.needsValues p rw.layer rw.zone = true) :
    d.valuesFirst p rw = d.valuesSent p rw.layer rw.zone := by
  unfold Dev.valuesFirst
  exact if_pos h

theorem sendSettings_pendingFrames {d : Dev} {p : Nat} (h : (d.pkS p).rows = []) :
    ((d.sendSettings p).pkS p).pendingFrames = [] := by
  unfold Dev.sendSettings
  simp only [h]
  rw [if_neg (by simp), pkS_updPk_self]

theorem valuesSent_pk {d : Dev} {p L z : Nat} (h : (d.pkS p).rows = []) :
    ((d.valuesSent p L z).pkS p).rows = [] ∧ ((d.valuesSent p L z).pkS p).pendingFrames = [] ∧
    ((d.valuesSent p L z).pkS p).settling =
      some (d.time, d.saPending p || ((d.pkS p).settling.map Prod.snd).getD false) := by
  have hsent : ((d.sendPowers p L z).pkS p).rows = [] := by rw [(sendPowers_rowsKept d p L z).rows, h]
  rw [Dev.valuesSent, pkS_updPk_self]
  dsimp only
  have hrows : (((d.sendPowers p L z).sendSettings p).pkS p).rows = [] := by rw [(sendSettings_rowsKept _ p).rows, hsent]
  exact ⟨hrows, sendSettings_pendingFrames hsent, rfl⟩

section
variable {d : Dev} {p L time f : Nat} (hmay : d.mayAllocate p L = true) (hdrift : d.opcDrift p L = false)
  (hrows : (d.pkS p).rows = []) (hf : f / 2 ^ 17 = L)
  (hnamed : (((d.heads p Blk.waitsForRow).filterMap fun e => (d.blk? e.2).bind Blk.fixed).find? fun f =>
      f / 2 ^ 17 == L) = some f)
  (hset : d.setValid p L (f % 2 ^ 17) = true) (hfree : ∀ k, d.laneTaken p L (f % 2 ^ 17) k = false)
include hmay hdrift hrows hf hnamed hset hfree

theorem allocFixed_eq {rw : RowWrite}
    (hrw : rw = d.newRow p L (f % 2 ^ 17) time .fixed (d.heads p fun b => b.waitsForRow && b.fixed == some f)) :
    d.allocFixed p L time = if ((d.valuesFirst p rw).pkS p).rows = [] then d.valuesFirst p rw
      else (((d.valuesFirst p rw).leaveQueues p rw.lanes).pastRow p L (f % 2 ^ 17)).expelDisabled p := by
  subst hrw
  have hkeep : d.freeTaken p f = d := freeTaken_none (by rw [hf]; exact hfree)
  simp only [Dev.allocFixed, hnamed]
  refine (if_neg (by simp [hmay, hrows])).trans ((if_neg (by simp [hdrift])).trans ((if_neg (by rw [hset]; decide)).trans ?_))
  rw [hkeep]
  exact (if_neg (fixedLanes_ne_nil hnamed)).trans rfl

theorem allocFixed_sent (hneeds : d.needsValues p L (zoneOf (rowBand (f % 2 ^ 17))) = true) :
    d.allocFixed p L time = d.valuesSent p L (zoneOf (rowBand (f % 2 ^ 17))) := by
  rw [allocFixed_eq hmay hdrift hrows hf hnamed hset hfree rfl, valuesFirst_sent hneeds]
  exact if_pos (valuesSent_pk hrows).1

theorem allocFixed_placed {rw : RowWrite}
    (hrw : rw = d.newRow p L (f % 2 ^ 17) time .fixed (d.heads p fun b => b.waitsForRow && b.fixed == some f))
    (hneeds : d.needsValues p L (zoneOf (rowBand (f % 2 ^ 17))) = false) (hsettled : (d.pkS p).settling = none) :
    ((d.allocFixed p L time).pkS p).rows = [rw] ∧
    (d.allocFixed p L time).rd .rowAlloc [p] = (d.rd .rowAlloc [p] + 1) % 2 ^ 32 := by
  have hzone : d.needsValues p rw.layer rw.zone = false := by rw [hrw]; exact hneeds
  have htaken := (placeRow_taken d p rw).before (leaveQueues_rowsKept _ p rw.lanes)
  have hone : ((d.placeRow p rw).pkS p).rows ≠ [] := by rw [(placeRow_taken d p rw).rows]; simp
  have hkept := expelDisabled_rowsKept (((d.placeRow p rw).leaveQueues p rw.lanes).pastRow p L (f % 2 ^ 17)) p
  rw [allocFixed_eq hmay hdrift hrows hf hnamed hset hfree hrw, valuesFirst_settled hzone hsettled, if_neg hone]
  constructor
  · rw [hkept.rows, pastRow_rows, htaken.rows, hrows]
    rfl
  · rw [hkept.counts _ (by decide), pastRow_rd _ _ _ _ _ _ (by decide), htaken.alloc]

end

/-! ### A spare row (R295) -/

section
variable {d : Dev} {p L X time : Nat}
  (hready : 7 ≤ ((tget ({} : Realloc) (d.pkS p).realloc L).queue.filter fun b => !d.unitsWait (.copy b)).length)
  (hlanes : ∀ i, i < 7 → d.on .wrLaneDis [p, i] = false) (hX : d.spareLayer p L = some X)
  (hmay : d.mayAllocate p X = true) (hdrift : d.opcDrift p X = false) (hrows : (d.pkS p).rows = [])
  (hset : d.setValid p X (d.rd .rowSpareNext [p, X]) = true)
  (hneeds : d.needsValues p X (zoneOf (rowBand (d.rd .rowSpareNext [p, X]))) = false)
  (hsettled : (d.pkS p).settling = none)

/-- The copies of the queue of layer L that can be written now, and the lanes that may take them. -/
def Dev.spareReady (d : Dev) (p L : Nat) : List Nat :=
  (tget ({} : Realloc) (d.pkS p).realloc L).queue.filter fun i => !d.unitsWait (.copy i)

def Dev.spareLanes (d : Dev) (p L : Nat) : List (Nat × Nat) :=
  (((List.range 7).filter fun i => !d.on .wrLaneDis [p, i]).map (· + 1)).zip (d.spareReady p L)

/-- The row that `allocSpare` allocates when it allocates one. -/
def Dev.spareRow (d : Dev) (p L X time : Nat) : RowWrite :=
  { d.newRow p X (d.rd .rowSpareNext [p, X]) time .spare (d.spareLanes p L) with queue := L }

/-- A spare row of the queue of layer L has been placed: the copies it takes leave the queue, and the next place is r + 1. -/
def Dev.copiesPlaced (d : Dev) (p L X r : Nat) (rest : List Nat) : Dev :=
  ((((d.updPk p fun k => { k with realloc := tset k.realloc L { tget {} k.realloc L with
    queue := rest, due := false, since := d.time } }).wr .rowSpareNext [p, X] (r + 1)).countQueued p).spareEvents p X).expelDisabled p

/-- The copies that stay in the queue of layer L. -/
def Dev.spareRest (d : Dev) (p L : Nat) : List Nat :=
  (tget ({} : Realloc) (d.pkS p).realloc L).queue.filter fun i => !((d.spareLanes p L).map Prod.snd).contains i

include hready hlanes hX hmay hdrift hrows hset hneeds hsettled in
theorem allocSpare_eq : d.allocSpare p L time =
    (d.placeRow p (d.spareRow p L X time)).copiesPlaced p L X (d.rd .rowSpareNext [p, X]) (d.spareRest p L) := by
  have hfree : (List.range 7).filter (fun i => !d.on .wrLaneDis [p, i]) = List.range 7 :=
    List.filter_eq_self.2 fun i hi => by simp [hlanes i (List.mem_range.1 hi)]
  have hsome : d.spareReady p L ≠ [] := List.ne_nil_of_length_pos (lt_of_lt_of_le (by decide) hready)
  have hplaced : d.valuesFirst p (d.spareRow p L X time) = d.placeRow p (d.spareRow p L X time) :=
    valuesFirst_settled hneeds hsettled
  have hone : ((d.placeRow p (d.spareRow p L X time)).pkS p).rows ≠ [] := by
    rw [(placeRow_taken d p _).rows]
    simp
  simp only [Dev.allocSpare, hX]
  refine (if_neg ?asked).trans ((if_neg ?lane).trans ((if_neg (by simp [hmay, hrows])).trans
    ((if_neg (by simp [hdrift])).trans ((if_neg (by simp [hset])).trans ?_))))
  case asked =>
    rw [not_or]
    exact ⟨hsome, by simp [decide_eq_true hready]⟩
  case lane =>
    rw [hfree]
    decide
  rw [← hplaced]
  rw [← hplaced] at hone
  exact (if_neg hone).trans rfl

theorem sparesCounted_rowsKept (d : Dev) (p X : Nat) : d.RowsKept (((d.countQueued p).spareEvents p X).expelDisabled p) :=
  ((countQueued_rowsKept d p).trans (spareEvents_rowsKept _ p X)).trans (expelDisabled_rowsKept _ p)

theorem copiesPlaced_rows (d : Dev) (p L X r : Nat) (rest : List Nat) :
    ((d.copiesPlaced p L X r rest).pkS p).rows = (d.pkS p).rows := by
  rw [Dev.copiesPlaced, (sparesCounted_rowsKept _ p X).rows, pkS_wr, pkS_updPk_self]

theorem copiesPlaced_next (d : Dev) (p L X : Nat) {r : Nat} (rest : List Nat) (h : r < 100000) :
    (d.copiesPlaced p L X r rest).rd .rowSpareNext [p, X] = r + 1 := by
  rw [Dev.copiesPlaced, (sparesCounted_rowsKept _ p X).counts _ (by decide)]
  refine (rd_wr _ .rowSpareNext .rowSpareNext _ _ _).trans ((if_pos ⟨rfl, rfl⟩).trans (Nat.mod_eq_of_lt ?_))
  exact lt_of_le_of_lt h (by decide)

include hX in
theorem spareNext_lt : d.rd .rowSpareNext [p, X] < 100000 := by
  have hpasses := List.find?_some hX
  exact of_decide_eq_true (Bool.and_eq_true_iff.1 hpasses).1

end

/-! ### A row of the catalogue (R70) -/

section
variable {d : Dev} {p time : Nat} {w : CatRow}

/-- The lanes of the open catalogue row that surface p has still to write and may. -/
def Dev.catTodo (d : Dev) (p : Nat) (w : CatRow) : List Nat :=
  ((w.waits.filter fun x => x.1 == p).map Prod.snd).filter fun k =>
    !(((w.waits.filter fun x => x.1 == p).map Prod.snd).filter fun k => d.on .wrLaneDis [p, k - 1]).contains k

theorem catTodo_ne_nil (h : ∃ x ∈ w.waits, x.1 = p ∧ d.on .wrLaneDis [p, x.2 - 1] = false) : d.catTodo p w ≠ [] := by
  obtain ⟨x, hx, rfl, hdis⟩ := h
  have hall : x.2 ∈ (w.waits.filter fun y => y.1 == x.1).map Prod.snd :=
    List.mem_map_of_mem (List.mem_filter.2 ⟨hx, by simp⟩)
  refine List.ne_nil_of_mem (List.mem_filter.2 ⟨hall, ?_⟩)
  simp [hdis]

/-- The row that `allocCatalogue` allocates when it allocates one. -/
def Dev.catRowWrite (d : Dev) (p time : Nat) (w : CatRow) : RowWrite :=
  { d.newRow p (catPosition w.index).1 (catPosition w.index).2 time .catalogue [] with
    lanes := (d.catTodo p w).zipIdx.map fun e => (e.1, d.nextBlk + e.2) }

/-- The blocks of the catalogue row for the lanes of surface p. -/
def Dev.withCatBlocks (d : Dev) (p : Nat) (w : CatRow) : Dev :=
  (d.catTodo p w).foldl (fun d k =>
    let recs := w.lanes.getD (k - 1) []
    d.addBlk { id := d.nextBlk, kind := .catalogue, data := d.catBlock recs, surface := p, lane := k, recs := recs }) d

theorem withCatBlocks_rowsKept (d : Dev) (p : Nat) (w : CatRow) : d.RowsKept (d.withCatBlocks p w) :=
  by
  refine rowsKept_foldl (fun _ _ => ?_) _ d
  exact rowsKept_of_eq rfl rfl

theorem openCatRow_open (h : d.cat.writing = some w) : d.openCatRow = d := by
  unfold Dev.openCatRow
  exact if_pos (by simp [h])

theorem allocCatalogue_row (hw : d.cat.writing = some w) (hcopy : d.cat.copies.contains p = true)
    (hmay : d.mayAllocate p (catPosition w.index).1 = true) (hdrift : d.opcDrift p (catPosition w.index).1 = false)
    (hrows : (d.pkS p).rows = []) (hset : d.setValid p (catPosition w.index).1 (catPosition w.index).2 = true)
    (hneeds : d.needsValues p (catPosition w.index).1 (zoneOf (rowBand (catPosition w.index).2)) = false)
    (hsettled : (d.pkS p).settling = none) (hidle : ∀ b ∈ d.blks, b.kind = .catalogue → b.surface ≠ p)
    (htodo : ∃ x ∈ w.waits, x.1 = p ∧ d.on .wrLaneDis [p, x.2 - 1] = false) :
    ((d.allocCatalogue p time).pkS p).rows = [d.catRowWrite p time w] := by
  have hwaits : w.waits.any (fun x => x.1 == p) = true := by
    obtain ⟨x, hx, hp, _⟩ := htodo
    exact List.any_eq_true.2 ⟨x, hx, by simp [hp]⟩
  have hbusy : ¬ ((d.blks.any fun b => b.kind == .catalogue && b.surface == p) = true ∨
      (!(w.waits.any fun x => x.1 == p)) = true) := by
    rw [hwaits]
    simpa using hidle
  have hplaced := (placeRow_taken (d.withCatBlocks p w) p (d.catRowWrite p time w)).after (withCatBlocks_rowsKept d p w)
  simp only [Dev.allocCatalogue, hw]
  rw [if_neg (by simp only [hcopy, hmay, hrows]; simp), if_neg (by simp [hdrift]), if_neg (by simp [hset]),
    if_neg (by rw [not_or, hsettled]; exact ⟨by simp only [Dev.newRow, hneeds]; simp, by simp⟩), openCatRow_open hw]
  simp only [hw]
  have hsome := catTodo_ne_nil htodo
  unfold Dev.catTodo at hsome
  rw [if_neg hbusy, if_neg hsome]
  refine ((expelDisabled_rowsKept _ p).rows p).trans ?_
  have hrow : (((d.withCatBlocks p w).placeRow p (d.catRowWrite p time w)).pkS p).rows = [d.catRowWrite p time w] := by
    rw [hplaced.rows, hrows]
    rfl
  split
  · exact hrow
  · exact ((catSettle_rowsKept _ _ _ _).rows p).trans hrow

end
end Sys2Proof.Machine
end

section
/-! SUPPORT. The start and the end of a row, and the obligation on rows (O52). -/

namespace Sys2Proof.Machine

/-! ### A row starts (R248, R256, R260) -/

/-- The settings and the shifts of a row's start are in force. -/
def Dev.startSettings (d : Dev) (p : Nat) (rw : RowWrite) : Dev :=
  ((List.range 16).filter fun x => !((d.pkS p).verify.any fun v => v.lane + 7 == x)).foldl
    (fun (d : Dev) x => d.applyShift p x)
    ((d.applyRc p (fun x => rw.lanes.any fun e => e.1 + 7 == x) fun _ => false).setEqualiser p rw.row)

/-- The row rw of pickup p is in progress, and the settings whose frame has not gone out wait for its end. -/
def Dev.rowGoes (d : Dev) (p : Nat) (rw : RowWrite) : Dev :=
  (d.startSettings p rw).updPk p fun k => { k with
    rows := k.rows.map fun r => if r = rw then { r with started := true } else r,
    frames := k.frames.filter (!Frame.setting ·),
    pendingFrames := (k.frames.filter Frame.setting).foldl addFrame k.pendingFrames }

/-- The allocated row rw of pickup p has started: its lanes go out. -/
def Dev.rowStarted (d : Dev) (p : Nat) (rw : RowWrite) : Dev :=
  { d.rowGoes p rw with out := (d.rowGoes p rw).out ++ rw.lanes.filterMap ((d.rowGoes p rw).laneOut p rw) }

/-- From d to e the settings of fields `fs`, and the shifts of the deskews of pickup p, may take effect; no row moves, and
nothing goes out. -/
structure Dev.SettingsOnly (p : Nat) (fs : List Fld) (d e : Dev) : Prop where
  rows : (e.pkS p).rows = (d.pkS p).rows
  out : e.out = d.out
  only : d.OnlyChanges e (fs ++ (List.range 16).map fun i => ⟨.rcDeskew, [p, i]⟩)
    ((.pk, p) :: (List.range 16).map fun i => (.spot, 16 * p + i)) []

theorem applyRc_settingsOnly (d : Dev) (p : Nat) (starts : Nat → Bool) (since : RcWrite → Bool) :
    d.SettingsOnly p ((d.pkS p).rcPending.map RcWrite.fld) (d.applyRc p starts since) := by
  have hwrites : ∀ (l : List RcWrite) (x : Dev),
      (l.foldl (fun (d : Dev) e => d.wr e.fld.row e.fld.ix e.value) x).pk = x.pk ∧
      (l.foldl (fun (d : Dev) e => d.wr e.fld.row e.fld.ix e.value) x).out = x.out := fun l x =>
    ⟨foldl_kept Dev.pk _ (by exact fun _ _ => rfl) l x, foldl_kept Dev.out _ (by exact fun _ _ => rfl) l x⟩
  unfold Dev.applyRc
  simp only []
  split
  · exact ⟨rfl, rfl, onlyChanges_refl d _ _ _⟩
  · refine ⟨?_, (hwrites _ d).2, .trans (onlyChanges_foldl _ _ d fun x e he => ?_) (onlyChanges_updPk _ p _ (by simp))⟩
    · rw [pkS_updPk_self]
      dsimp only
      rw [Dev.pkS, (hwrites _ d).1, Dev.pkS]
    · refine onlyChanges_wr _ _ _ _ (List.mem_append_left _ ?_)
      exact List.mem_map_of_mem (List.mem_of_mem_filter he)

theorem applyShift_settingsOnly (d : Dev) (p x : Nat) {fs : List Fld} (h : x < 16) : d.SettingsOnly p fs (d.applyShift p x) := by
  unfold Dev.applyShift
  simp only []
  split
  · exact ⟨rfl, rfl, onlyChanges_refl d _ _ _⟩
  · refine ⟨rfl, rfl, .trans (onlyChanges_wr _ _ _ _ ?_) (onlyChanges_updSpot _ _ _ _ ?_)⟩
    · exact List.mem_append_right _ (List.mem_map_of_mem (List.mem_range.2 h))
    · exact List.mem_cons_of_mem _ (List.mem_map_of_mem (List.mem_range.2 h))

theorem Dev.SettingsOnly.trans {p : Nat} {fs : List Fld} {d e g : Dev} (h : d.SettingsOnly p fs e)
    (h' : e.SettingsOnly p fs g) : d.SettingsOnly p fs g :=
  ⟨h'.rows.trans h.rows, h'.out.trans h.out, h.only.trans h'.only⟩

theorem settingsOnly_foldl {β : Type} {p : Nat} {fs : List Fld} {f : Dev → β → Dev} (l : List β) (d : Dev)
    (h : ∀ d, ∀ b ∈ l, Dev.SettingsOnly p fs d (f d b)) : d.SettingsOnly p fs (l.foldl f d) := by
  induction l generalizing d with
  | nil => exact ⟨rfl, rfl, onlyChanges_refl d _ _ _⟩
  | cons b l ih => exact (h d b (by simp)).trans (ih _ fun d b' hb' => h d b' (List.mem_cons_of_mem _ hb'))

theorem setEqualiser_settingsOnly (d : Dev) (p r : Nat) {fs : List Fld} : d.SettingsOnly p fs (d.setEqualiser p r) := by
  refine ⟨?_, rfl, onlyChanges_updPk _ p _ (by simp)⟩
  rw [Dev.setEqualiser, pkS_updPk_self]

theorem startSettings_settingsOnly (d : Dev) (p : Nat) (rw : RowWrite) :
    d.SettingsOnly p ((d.pkS p).rcPending.map RcWrite.fld) (d.startSettings p rw) := by
  refine (applyRc_settingsOnly d p (fun x => rw.lanes.any fun e => e.1 + 7 == x) fun _ => false).trans ?_
  refine (setEqualiser_settingsOnly _ p rw.row).trans ?_
  exact settingsOnly_foldl _ _ fun x i hi => applyShift_settingsOnly x p i (List.mem_range.1 (List.mem_of_mem_filter hi))

theorem rowStart_makes {s : State} {p : Fin 32} {rw : RowWrite} (hrows : (s.dev.pkS p).rows = [rw])
    (hstarted : rw.started = false) (hcause : s.dev.startCause p = none) :
    Makes (.rowStart p) s (s.dev.rowStarted p rw) := by
  change execRowStart p s = _
  simp only [execRowStart, act, hrows, List.any_cons, List.any_nil, hstarted, List.head?_cons, hcause]
  rfl

theorem rowStart_abandons {s : State} {p : Fin 32} {rw : RowWrite} {c : Nat} (hrows : (s.dev.pkS p).rows = [rw])
    (hstarted : rw.started = false) (hcause : s.dev.startCause p = some c) :
    Makes (.rowStart p) s (s.dev.abandon p rw c) := by
  change execRowStart p s = _
  simp only [execRowStart, act, hrows, List.any_cons, List.any_nil, hstarted, List.head?_cons, hcause]
  rfl

theorem fetchDeadline_abandons {s : State} {p : Fin 32} {rw : RowWrite} (hrows : (s.dev.pkS p).rows = [rw])
    (hstarted : rw.started = false) : Makes (.fetchDeadline p) s (s.dev.abandon p rw abFetch) := by
  change execFetchDeadline p s = _
  simp only [execFetchDeadline, act, hrows, List.find?_cons, hstarted]
  rfl

/-- What a lane puts out does not depend on what has gone out before. -/
theorem laneOut_out (d : Dev) (o : List Msg) (p : Nat) (rw : RowWrite) :
    ({ d with out := o } : Dev).laneOut p rw = d.laneOut p rw := rfl

theorem rowStarted_row {d : Dev} {p : Nat} {rw : RowWrite} (hrows : (d.pkS p).rows = [rw]) :
    ((d.rowStarted p rw).pkS p).rows = [{ rw with started := true }] ∧
    (d.rowStarted p rw).out = d.out ++ rw.lanes.filterMap ((d.rowStarted p rw).laneOut p rw) ∧
    d.OnlyChanges (d.rowStarted p rw) ((d.pkS p).rcPending.map RcWrite.fld ++ (List.range 16).map fun i => ⟨.rcDeskew, [p, i]⟩)
      ((.pk, p) :: (List.range 16).map fun i => (.spot, 16 * p + i)) [.out] := by
  have hset := startSettings_settingsOnly d p rw
  refine ⟨?_, ?_, ?_⟩
  · change ((d.rowGoes p rw).pkS p).rows = _
    rw [Dev.rowGoes, pkS_updPk_self]
    dsimp only
    rw [hset.rows, hrows]
    simp
  · have hout : (d.rowGoes p rw).out = d.out := hset.out
    have hlane : (d.rowStarted p rw).laneOut p rw = (d.rowGoes p rw).laneOut p rw := laneOut_out _ _ p rw
    rw [hlane, ← hout]
    rfl
  · have hout : ∀ (x : Dev) (o : List Msg) (fs : List Fld) (es : List (Table × Nat)),
        x.OnlyChanges { x with out := o } fs es [.out] := fun x o fs es =>
      ⟨fun _ _ => rfl, fun t _ _ => by cases t <;> rfl, fun q hq => by cases q <;> simp_all [Part.Same]⟩
    refine (hset.only.mono (List.Subset.refl _) (List.Subset.refl _) (List.nil_subset _)).trans ?_
    exact (onlyChanges_updPk _ p _ (by simp)).trans (hout _ _ _ _)

/-! ### The last bit of a row (R263, R271, R241) -/

/-- The verify report due of a block of a row that ended now. -/
def Dev.dueOf (d : Dev) (p : Nat) (rw : RowWrite) (e : Nat × Nat) : VerifyDue :=
  { lane := e.1, block := e.2, pba := pbaOf p rw.layer e.1 rw.row, ended := d.time }

/-- The row in progress is off the pickup, and its verify reports are due. -/
def Dev.rowOff (d : Dev) (p : Nat) (rw : RowWrite) : Dev :=
  ((d.dec .rowInprog [p]).inc .rowWritten [p]).updPk p fun k => { k with
    rows := k.rows.filter (fun r => r != rw), verify := k.verify ++ rw.lanes.map (d.dueOf p rw), passSpots := [] }

/-- A block written keeps the position it has first been written at as its original one. -/
def Blk.placed (b : Blk) : Blk := { b with orig := match b.orig with
  | some o => some o
  | none => b.pba }

/-- The blocks of the row have their original position. -/
def Dev.rowOver (d : Dev) (p : Nat) (rw : RowWrite) : Dev :=
  (rw.lanes.foldl (fun d e => d.updBlk e.2 Blk.placed) (d.rowOff p rw)).sendSettings p

theorem sendSettings_verify (d : Dev) (p : Nat) : ((d.sendSettings p).pkS p).verify = (d.pkS p).verify := by
  unfold Dev.sendSettings
  simp only []
  split
  · rfl
  · rw [pkS_updPk_self]
    refine foldl_kept (fun d : Dev => (d.pkS p).verify) _ (fun d f => ?_) _ d
    rw [Dev.busWrite, pkS_updPk_self]

theorem rowWritten_makes {s : State} {p : Fin 32} {rw : RowWrite} (hrows : (s.dev.pkS p).rows = [rw])
    (hstarted : rw.started = true) : Makes (.rowWritten p) s (s.dev.rowOver p rw) := by
  have hnow : s.dev.rowNow p = some rw := by
    rw [Dev.rowNow, hrows]
    simp [hstarted]
  change execRowWritten p s = _
  simp only [execRowWritten, act, hnow]
  rfl

theorem rowOver_row {d : Dev} {p : Nat} {rw : RowWrite} (hrows : (d.pkS p).rows = [rw]) :
    ((d.rowOver p rw).pkS p).rows = [] ∧ ((d.rowOver p rw).pkS p).verify = (d.pkS p).verify ++ rw.lanes.map (d.dueOf p rw) ∧
    (d.rowOver p rw).rd .rowWritten [p] = (d.rd .rowWritten [p] + 1) % 2 ^ 32 ∧
    (d.rowOver p rw).rd .rowInprog [p] = (d.rd .rowInprog [p] - 1) % 2 ^ 32 := by
  have hoff : ((d.rowOff p rw).pkS p).rows = [] ∧
      ((d.rowOff p rw).pkS p).verify = (d.pkS p).verify ++ rw.lanes.map (d.dueOf p rw) := by
    rw [Dev.rowOff, pkS_updPk_self]
    dsimp only
    exact ⟨by rw [Dev.inc, pkS_wr, Dev.dec, pkS_wr, hrows]; simp, rfl⟩
  have hpk : (rw.lanes.foldl (fun d e => d.updBlk e.2 Blk.placed) (d.rowOff p rw)).pkS p = (d.rowOff p rw).pkS p :=
    foldl_kept (fun d : Dev => d.pkS p) _ (by exact fun _ _ => rfl) _ _
  have hregs : (rw.lanes.foldl (fun d e => d.updBlk e.2 Blk.placed) (d.rowOff p rw)).regs = (d.rowOff p rw).regs :=
    foldl_kept Dev.regs _ (by exact fun _ _ => rfl) _ _
  have hkept := sendSettings_rowsKept (rw.lanes.foldl (fun d e => d.updBlk e.2 Blk.placed) (d.rowOff p rw)) p
  have hrd : ∀ r ∈ rowCountRows, (d.rowOver p rw).rd r [p] = ((d.dec .rowInprog [p]).inc .rowWritten [p]).rd r [p] := by
    intro r hr
    rw [Dev.rowOver, hkept.counts r hr, Dev.rd, hregs]
    rfl
  refine ⟨?_, ?_, ?_, ?_⟩
  · rw [Dev.rowOver, hkept.rows, hpk, hoff.1]
  · rw [Dev.rowOver, sendSettings_verify, hpk, hoff.2]
  · rw [hrd _ (by decide)]
    refine (rd_wr _ .rowWritten .rowWritten _ _ _).trans ((if_pos ⟨rfl, rfl⟩).trans ?_)
    rw [show (d.dec .rowInprog [p]).rd .rowWritten [p] = d.rd .rowWritten [p] from
      (rd_wr _ .rowInprog .rowWritten _ _ _).trans (if_neg (by simp))]
    rfl
  · rw [hrd _ (by decide)]
    refine (rd_wr _ .rowWritten .rowInprog _ _ _).trans ((if_neg (by simp)).trans ?_)
    exact (rd_wr _ .rowInprog .rowInprog _ _ _).trans (if_pos ⟨rfl, rfl⟩)

/-! ### The obligation -/

/-- Settles O52: each kind of row by the equation of its allocation, its start by what the settings leave, its end by what
they leave of the rows. -/
theorem rowsGoFromAllocationToVerify : Obligations.RowsGoFromAllocationToVerify := by
  unfold Obligations.RowsGoFromAllocationToVerify
  refine ⟨rowAllocate_userRow, ?fixed, ?spare, ?catalogue, ?start, ?written⟩
  case fixed =>
    intro s p L time f hmay hdrift hrows hf hnamed hset hfree
    refine ⟨fun hneeds hsettled => ?_, fun hneeds => ?_⟩
    · obtain ⟨hrow, halloc⟩ := allocFixed_placed (time := time) hmay hdrift hrows hf hnamed hset hfree rfl hneeds hsettled
      exact ⟨_, _, rowAllocate_fixed s p L time, hrow, rfl, rfl, rfl, rfl, rfl, halloc⟩
    · have hsent := allocFixed_sent (time := time) hmay hdrift hrows hf hnamed hset hfree hneeds
      exact ⟨_, hsent ▸ rowAllocate_fixed s p L time, valuesSent_pk hrows⟩
  case spare =>
    intro s p L time X hready hlanes hX hmay hdrift hrows hset hneeds hsettled
    have heq := allocSpare_eq (time := time) hready hlanes hX hmay hdrift hrows hset hneeds hsettled
    refine ⟨_, s.dev.spareRow p L X time, heq ▸ rowAllocate_spare s p L time, ?_, rfl, rfl, rfl,
      copiesPlaced_next _ _ _ _ _ (spareNext_lt hX)⟩
    rw [copiesPlaced_rows, (placeRow_taken _ _ _).rows, hrows]
    rfl
  case catalogue =>
    intro s p L time w hw hcopy hmay hdrift hrows hset hneeds hsettled hidle htodo
    exact ⟨_, _, rowAllocate_catalogue s p L time,
      allocCatalogue_row hw hcopy hmay hdrift hrows hset hneeds hsettled hidle htodo, rfl, rfl⟩
  case start =>
    intro s p rw hrows hstarted
    exact ⟨fun hcause => ⟨_, rowStart_makes hrows hstarted hcause, rowStarted_row hrows⟩,
      fun c hcause => rowStart_abandons hrows hstarted hcause, fetchDeadline_abandons hrows hstarted⟩
  case written =>
    intro s p rw hrows hstarted
    exact ⟨_, rowWritten_makes hrows hstarted, rowOver_row hrows⟩

end Sys2Proof.Machine
end

section
/-! SUPPORT. What the work on the commands in flight may do to the gathered blocks and to the writers they name (O60). A write
that failed is reported once, and then no block names it any more (R343, R370); so a block that has lost its writers leaves a
trace in a deferred log. The statement on STRIPE_COMMIT is refuted by a block whose trace tells another cause. -/

namespace Sys2Proof.Machine

/-! ### Blocks, and the trace of a report -/

/-- An operation code that no command that gathers data has. -/
def strayOp : Nat := 99

/-- A log that tells at most of one write with the stray code, failed for want of space. -/
def PlainLog (l : List Deferred) : Prop := l = [] ∨ ∃ e, l = [e] ∧ e.op = strayOp ∧ e.detail = detNoSpace

/-- The stray writes are those of block 196, and block 196 has its writers. -/
def GBlk.Whole (g : GBlk) : Prop :=
  (∀ w ∈ g.writers, w.op = strayOp → g.block = 196) ∧ (g.block = 196 → g.writers ≠ [])

/-- No gathered block is block 196, and none has a stray write. -/
def GBlk.Clear (g : GBlk) : Prop := g.block ≠ 196 ∧ ∀ w ∈ g.writers, w.op ≠ strayOp

/-- The load is over, a second take is there, or a log tells of another failure: nothing undoes it. -/
def Dev.Marked (d : Dev) : Prop :=
  d.volume = none ∨ 2 ≤ d.takes.length ∨ (∃ r, ¬ PlainLog (d.sqS r).deferred) ∨ ∃ l, (d.lk l).deferred ≠ []

def Dev.Gathers (P : GBlk → Prop) (d : Dev) : Prop := ∀ t ∈ d.takes, ∀ g ∈ t.gather, P g

/-- Block 196 has its writers, or the device is marked. -/
def Dev.Accounted (d : Dev) : Prop := d.Marked ∨ d.Gathers GBlk.Whole

/-- From d to e the mark stays, and block 196 loses its writers only where a mark appears. -/
structure Dev.Accounts (d e : Dev) : Prop where
  marked : d.Marked → e.Marked
  whole : d.Gathers GBlk.Whole → e.Accounted

theorem GBlk.Clear.whole {g : GBlk} (h : g.Clear) : g.Whole :=
  ⟨fun w hw hop => absurd hop (h.2 w hw), fun hb => absurd hb h.1⟩

theorem plainLog_of_append {l : List Deferred} {e : Deferred} (h : PlainLog (l ++ [e])) : PlainLog l := by
  obtain h | ⟨x, h, _⟩ := h
  · simp at h
  · exact .inl (by simpa using congrArg List.length h)

section
variable {d e g : Dev}

theorem Dev.Accounts.accounted (h : d.Accounts e) (hd : d.Accounted) : e.Accounted :=
  hd.elim (fun hm => .inl (h.marked hm)) h.whole

theorem accounts_of_marked (h : e.Marked) : d.Accounts e := ⟨fun _ => h, fun _ => .inl h⟩

theorem accounts_of_eq (ht : e.takes = d.takes) (hv : e.volume = d.volume) (hs : e.sq = d.sq) (hl : e.link = d.link) :
    d.Accounts e := by
  refine ⟨fun h => ?_, fun h => .inr ?_⟩
  · simpa only [Dev.Marked, Dev.sqS, Dev.lk, ht, hv, hs, hl] using h
  · simpa only [Dev.Gathers, ht] using h

theorem accounts_refl (d : Dev) : d.Accounts d := accounts_of_eq rfl rfl rfl rfl

theorem Dev.Accounts.trans (h : d.Accounts e) (h' : e.Accounts g) : d.Accounts g :=
  ⟨fun hm => h'.marked (h.marked hm), fun hw => h'.accounted (h.whole hw)⟩

/-- Another step of a chain, by its own lemma. -/
theorem Dev.Accounts.step (h' : e.Accounts g) (h : d.Accounts e) : d.Accounts g := h.trans h'

theorem Dev.Accounts.wr (h : d.Accounts e) {r : Row} {ix : List Nat} {v : Nat} : d.Accounts (e.wr r ix v) :=
  h.trans (accounts_of_eq rfl rfl rfl rfl)
theorem Dev.Accounts.emit (h : d.Accounts e) {m : Msg} : d.Accounts (e.emit m) := h.trans (accounts_of_eq rfl rfl rfl rfl)
theorem Dev.Accounts.raise (h : d.Accounts e) {src code : Nat} {b : Bytes} : d.Accounts (e.raise src code b) :=
  h.trans (accounts_of_eq rfl rfl rfl rfl)
theorem Dev.Accounts.raiseFor (h : d.Accounts e) {os : List Origin} {src code : Nat} {b : Bytes} :
    d.Accounts (e.raiseFor os src code b) := h.trans (accounts_of_eq rfl rfl rfl rfl)
theorem Dev.Accounts.updCq (h : d.Accounts e) {c : Nat} {f : CqState → CqState} : d.Accounts (e.updCq c f) :=
  h.trans (accounts_of_eq rfl rfl rfl rfl)
theorem Dev.Accounts.updBasin (h : d.Accounts e) {f : Basin → Basin} : d.Accounts (e.updBasin f) :=
  h.trans (accounts_of_eq rfl rfl rfl rfl)
theorem Dev.Accounts.updPk (h : d.Accounts e) {p : Nat} {f : Pk → Pk} : d.Accounts (e.updPk p f) :=
  h.trans (accounts_of_eq rfl rfl rfl rfl)
theorem Dev.Accounts.updSled (h : d.Accounts e) {p : Nat} {f : Sled → Sled} : d.Accounts (e.updSled p f) :=
  h.trans (accounts_of_eq rfl rfl rfl rfl)
theorem Dev.Accounts.updSpin (h : d.Accounts e) {n : Nat} {f : Spin → Spin} : d.Accounts (e.updSpin n f) :=
  h.trans (accounts_of_eq rfl rfl rfl rfl)
theorem Dev.Accounts.noSeek (h : d.Accounts e) {p : Nat} : d.Accounts (e.noSeek p) := h.trans (accounts_of_eq rfl rfl rfl rfl)
theorem Dev.Accounts.updCat (h : d.Accounts e) {f : Catalogue → Catalogue} : d.Accounts (e.updCat f) :=
  h.trans (accounts_of_eq rfl rfl rfl rfl)
theorem Dev.Accounts.updStripe (h : d.Accounts e) {x : Nat} {f : Stripe → Stripe} : d.Accounts (e.updStripe x f) :=
  h.trans (accounts_of_eq rfl rfl rfl rfl)
theorem Dev.Accounts.updCmd (h : d.Accounts e) {o : Origin} {f : Cmd → Cmd} : d.Accounts (e.updCmd o f) :=
  h.trans (accounts_of_eq rfl rfl rfl rfl)
theorem Dev.Accounts.cmds (h : d.Accounts e) {l : List Cmd} : d.Accounts { e with cmds := l } :=
  h.trans (accounts_of_eq rfl rfl rfl rfl)

/-- A change of a ring that leaves its deferred log, or lets it grow. -/
theorem Dev.Accounts.updSq (h : d.Accounts e) {r : Nat} {f : SqState → SqState}
    (hf : ∀ q, PlainLog (f q).deferred → PlainLog q.deferred := by exact fun _ hq => hq) : d.Accounts (e.updSq r f) := by
  refine h.trans ⟨fun hm => ?_, fun hw => .inr hw⟩
  obtain hv | ht | ⟨x, hx⟩ | hl := hm
  · exact .inl hv
  · exact .inr (.inl ht)
  · refine .inr (.inr (.inl ⟨x, fun hp => hx ?_⟩))
    by_cases hr : x = r
    · subst hr
      exact hf _ (by simpa [Dev.sqS, Dev.updSq] using hp)
    · simpa [Dev.sqS, Dev.updSq, hr] using hp
  · exact .inr (.inr (.inr hl))

theorem Dev.Accounts.updLk (h : d.Accounts e) {l : Nat} {f : Link → Link}
    (hf : ∀ k, k.deferred ≠ [] → (f k).deferred ≠ [] := by exact fun _ hk => hk) : d.Accounts (e.updLk l f) := by
  refine h.trans ⟨fun hm => ?_, fun hw => .inr hw⟩
  obtain hv | ht | hr | ⟨x, hx⟩ := hm
  · exact .inl hv
  · exact .inr (.inl ht)
  · exact .inr (.inr (.inl hr))
  · refine .inr (.inr (.inr ⟨x, ?_⟩))
    by_cases hl : x = l
    · subst hl
      simpa [Dev.lk, Dev.updLk] using hf _ hx
    · simpa [Dev.lk, Dev.updLk, hl] using hx

/-- The number of the takes is the same, and each block that is gathered was. -/
theorem Dev.Accounts.takes (h : d.Accounts e) {l : List Take} (hlen : l.length = e.takes.length)
    (hl : ∀ t ∈ l, ∀ g ∈ t.gather, ∃ u ∈ e.takes, g ∈ u.gather) : d.Accounts { e with takes := l } := by
  refine h.trans ⟨fun hm => ?_, fun hw => .inr fun t ht g hg => ?_⟩
  · obtain hv | ht | hr | hx := hm
    · exact .inl hv
    · exact .inr (.inl (hlen ▸ ht))
    · exact .inr (.inr (.inl hr))
    · exact .inr (.inr (.inr hx))
  · obtain ⟨u, hu, hg⟩ := hl t ht g hg
    exact hw u hu g hg

/-- A change of a take that gathers nothing. -/
theorem Dev.Accounts.updTake (h : d.Accounts e) {id : Nat} {f : Take → Take}
    (hf : ∀ t ∈ e.takes, ∀ g ∈ (f t).gather, ∃ u ∈ e.takes, g ∈ u.gather := by exact fun t ht g hg => ⟨t, ht, hg⟩) :
    d.Accounts (e.updTake id f) := by
  refine h.takes (List.length_map _) fun t ht g hg => ?_
  obtain ⟨u, hu, rfl⟩ := List.mem_map.1 ht
  split at hg
  · exact hf u hu g hg
  · exact ⟨u, hu, hg⟩

/-- A step taken on a condition only. -/
theorem accounts_ite {c : Prop} [Decidable c] (h : d.Accounts e) (h' : d.Accounts g) : d.Accounts (if c then e else g) := by
  split
  · exact h
  · exact h'

theorem accounts_foldl {β : Type} {f : Dev → β → Dev} (h : ∀ (d : Dev) b, d.Accounts (f d b)) (l : List β) (d : Dev) :
    d.Accounts (l.foldl f d) := by
  induction l generalizing d with
  | nil => exact accounts_refl d
  | cons b l ih => exact (h d b).trans (ih (f d b))

theorem Dev.UnitsOnly.accounts (h : d.UnitsOnly e) : d.Accounts e :=
  accounts_of_eq (by rw [h]) (by rw [h]) (by rw [h]) (by rw [h])

end

/-! ### A write that failed is reported (R343, R370) -/

theorem finish_accounts (d : Dev) (o : Origin) (cls detail result : Nat) : d.Accounts (d.finish o cls detail result) := by
  unfold Dev.finish
  split
  · exact accounts_refl d
  · simp only []
    split
    · exact .updCq (.cmds (accounts_refl d))
    · exact .updLk (.cmds (accounts_refl d))
    · exact .cmds (accounts_refl d)

theorem refuse_accounts (d : Dev) (o : Origin) (cls detail : Nat) : d.Accounts (d.refuse o cls detail) :=
  finish_accounts d o cls detail 0

theorem noteFailed_accounts (d : Dev) (w : Writer) : d.Accounts (d.noteFailed w) := by
  unfold Dev.noteFailed
  split
  · exact .updSq (accounts_refl d)
  · exact accounts_refl d

end Sys2Proof.Machine
end

section
/-! SUPPORT. The report of a write that failed, and the blocks that then no longer name it (R343, R370; O60). -/

namespace Sys2Proof.Machine

/-- The entry of a write that failed in the deferred log of its ring or link. -/
def Writer.error (w : Writer) (detail : Nat) : Deferred :=
  { seq := match w.origin with | .ring _ s => s | .link _ t => t | .past _ s => s,
    cookie := w.cookie, op := w.op, detail := detail, target := w.target, offset := w.offset }

/-- The log after one more entry: a full log loses it (R344). -/
def logged (l : List Deferred) (e : Deferred) : List Deferred := if l.length < 256 then l ++ [e] else l

theorem not_plainLog_logged {l : List Deferred} {e : Deferred} (h : e.op ≠ strayOp ∨ e.detail ≠ detNoSpace) :
    ¬ PlainLog (logged l e) := by
  unfold logged
  split
  · rintro (hnil | ⟨x, hx, hop, hdet⟩)
    · simp at hnil
    · have hl : l = [] := by simpa using congrArg List.length hx
      subst hl
      obtain rfl : e = x := by simpa using hx
      exact h.elim (· hop) (· hdet)
  · next hfull =>
    rintro (rfl | ⟨x, rfl, _⟩)
    · exact hfull (by decide)
    · exact hfull (by simp)

theorem logged_ne_nil (l : List Deferred) (e : Deferred) : logged l e ≠ [] := by
  unfold logged
  split
  · simp
  · next hfull =>
    rintro rfl
    exact hfull (by decide)

/-! ### An entry joins a ring's log, or a link's -/

/-- The completions of ring r up to one go without the flag, while the log is read. -/
def Dev.plainBefore (d : Dev) (r seq : Nat) : Dev :=
  if (d.sqS r).unread then d else d.updCq (d.rd .sqCq [r]) fun q => { q with waiting := plainThrough r seq q.waiting }

def Dev.logOnRing (d : Dev) (r : Nat) (e : Deferred) : Dev :=
  if (d.sqS r).deferred.length < 256 then
    (d.updSq r fun q => { q with deferred := q.deferred ++ [e], unread := true }).inc .sqDeferCount [r]
  else (d.updSq r fun q => { q with unread := true }).inc .sqDeferLost [r]

/-- The STATs of link l up to one go without the flag, while the log is read. -/
def Dev.unflaggedBefore (d : Dev) (l tag : Nat) : Dev :=
  if (d.lk l).unread then d
  else d.updLk l fun q => { q with txq := unflagThrough tag q.txq, resend := unflagThrough tag q.resend }

def Dev.logOnLink (d : Dev) (l : Nat) (e : Deferred) : Dev :=
  if (d.lk l).deferred.length < 256 then
    (d.updLk l fun q => { q with deferred := q.deferred ++ [e], unread := true }).inc .lnDeferCount [l]
  else (d.updLk l fun q => { q with unread := true }).inc .lnDeferLost [l]

section
variable {d : Dev} {w : Writer} {detail : Nat}

theorem deferError_ring {r n : Nat} (h : w.origin = .ring r n ∨ w.origin = .past r n) :
    d.deferError w detail = ((d.plainBefore r n).logOnRing r (w.error detail)).raise (0x500 + r) evDeferredError
      (le 4 n ++ le 4 detail) := by
  obtain h | h := h <;> simp only [Dev.deferError, Writer.error, h] <;> rfl

theorem deferError_link {l n : Nat} (h : w.origin = .link l n) :
    d.deferError w detail = ((d.unflaggedBefore l n).logOnLink l (w.error detail)).raise (0x600 + 16 * l + 1) evDeferredError
      (le 4 n ++ le 4 detail) := by
  simp only [Dev.deferError, Writer.error, h]
  rfl

end

theorem plainBefore_accounts (d : Dev) (r n : Nat) : d.Accounts (d.plainBefore r n) :=
  accounts_ite (accounts_refl d) (.updCq (accounts_refl d))

theorem logOnRing_accounts (d : Dev) (r : Nat) (e : Deferred) : d.Accounts (d.logOnRing r e) :=
  accounts_ite (.wr (.updSq (accounts_refl d) fun _ h => plainLog_of_append h)) (.wr (.updSq (accounts_refl d)))

theorem logOnRing_log (d : Dev) (r : Nat) (e : Deferred) :
    ((d.logOnRing r e).sqS r).deferred = logged (d.sqS r).deferred e := by
  unfold Dev.logOnRing logged
  split <;> simp [Dev.sqS, Dev.updSq, Dev.inc, Dev.wr]

theorem unflaggedBefore_accounts (d : Dev) (l n : Nat) : d.Accounts (d.unflaggedBefore l n) :=
  accounts_ite (accounts_refl d) (.updLk (accounts_refl d))

theorem logOnLink_accounts (d : Dev) (l : Nat) (e : Deferred) : d.Accounts (d.logOnLink l e) :=
  accounts_ite (.wr (.updLk (accounts_refl d) fun _ _ => by simp)) (.wr (.updLk (accounts_refl d)))

theorem logOnLink_log (d : Dev) (l : Nat) (e : Deferred) :
    ((d.logOnLink l e).lk l).deferred = logged (d.lk l).deferred e := by
  unfold Dev.logOnLink logged
  split <;> simp [Dev.lk, Dev.updLk, Dev.inc, Dev.wr]

theorem deferError_accounts (d : Dev) (w : Writer) (detail : Nat) : d.Accounts (d.deferError w detail) := by
  cases h : w.origin with
  | ring r n =>
    rw [deferError_ring (.inl h)]
    exact .raise ((plainBefore_accounts d r n).trans (logOnRing_accounts _ _ _))
  | past r n =>
    rw [deferError_ring (.inr h)]
    exact .raise ((plainBefore_accounts d r n).trans (logOnRing_accounts _ _ _))
  | link l n =>
    rw [deferError_link h]
    exact .raise ((unflaggedBefore_accounts d l n).trans (logOnLink_accounts _ _ _))

/-- The report of a write with another code, or of another cause, leaves its mark. -/
theorem deferError_marks {d : Dev} {w : Writer} {detail : Nat} (h : w.op ≠ strayOp ∨ detail ≠ detNoSpace) :
    (d.deferError w detail).Marked := by
  have hring : ∀ r n, (w.origin = .ring r n ∨ w.origin = .past r n) → (d.deferError w detail).Marked := fun r n ho => by
    refine .inr (.inr (.inl ⟨r, ?_⟩))
    rw [deferError_ring ho]
    change ¬ PlainLog (((d.plainBefore r n).logOnRing r (w.error detail)).sqS r).deferred
    rw [logOnRing_log]
    exact not_plainLog_logged h
  cases ho : w.origin with
  | ring r n => exact hring r n (.inl ho)
  | past r n => exact hring r n (.inr ho)
  | link l n =>
    refine .inr (.inr (.inr ⟨l, ?_⟩))
    rw [deferError_link ho]
    change (((d.unflaggedBefore l n).logOnLink l (w.error detail)).lk l).deferred ≠ []
    rw [logOnLink_log]
    exact logged_ne_nil _ _

theorem deferError_takes (d : Dev) (w : Writer) (detail : Nat) : (d.deferError w detail).takes = d.takes := by
  have hring : ∀ (x : Dev) r n (e : Deferred), ((x.plainBefore r n).logOnRing r e).takes = x.takes := fun x r n e => by
    unfold Dev.logOnRing Dev.plainBefore
    split <;> split <;> rfl
  cases ho : w.origin with
  | ring r n => rw [deferError_ring (.inl ho)]; exact hring d r n _
  | past r n => rw [deferError_ring (.inr ho)]; exact hring d r n _
  | link l n =>
    rw [deferError_link ho]
    change ((d.unflaggedBefore l n).logOnLink l (w.error detail)).takes = d.takes
    unfold Dev.logOnLink Dev.unflaggedBefore
    split <;> split <;> rfl

/-! ### The blocks forget a write that has been reported -/

theorem forgetWriter_marked {d : Dev} (w : Writer) (h : d.Marked) : (d.forgetWriter w).Marked := by
  obtain hv | ht | hr | hl := h
  · exact .inl hv
  · exact .inr (.inl (le_of_le_of_eq ht (List.length_map _).symm))
  · exact .inr (.inr (.inl hr))
  · exact .inr (.inr (.inr hl))

theorem forgetWriter_clear {d : Dev} (w : Writer) (h : d.Gathers GBlk.Clear) : (d.forgetWriter w).Gathers GBlk.Clear := by
  intro t ht g hg
  obtain ⟨u, hu, rfl⟩ := List.mem_map.1 ht
  obtain ⟨b, hb, rfl⟩ := List.mem_map.1 hg
  obtain ⟨hblock, hop⟩ := h u hu b hb
  exact ⟨hblock, fun x hx => hop x (List.mem_of_mem_filter hx)⟩

/-- One write that failed blocks carried ends, or is reported. -/
def Dev.failWriter (cls detail : Nat) (d : Dev) (w : Writer) : Dev :=
  let d := d.noteFailed w
  if d.inFlight w then d.finish w.origin cls detail 0
  else if w.fua then d
  else (d.deferError w detail).forgetWriter w

theorem failWriters_eq (d : Dev) (cls detail : Nat) (ws : List Writer) :
    d.failWriters cls detail ws = (firstFailed ws).foldl (Dev.failWriter cls detail) d := rfl

theorem mem_of_mem_firstFailed {ws : List Writer} {w : Writer} (h : w ∈ firstFailed ws) : w ∈ ws :=
  List.mem_of_mem_filter (List.mem_eraseDups.1 h)

theorem failWriter_marked {d : Dev} (cls detail : Nat) (w : Writer) (h : d.Marked) : (d.failWriter cls detail w).Marked := by
  have hnoted := (noteFailed_accounts d w).marked h
  unfold Dev.failWriter
  simp only []
  split
  · exact (finish_accounts _ _ _ _ _).marked hnoted
  · split
    · exact hnoted
    · exact forgetWriter_marked w ((deferError_accounts _ w detail).marked hnoted)

theorem failWriter_accounts (d : Dev) (cls : Nat) {detail : Nat} {w : Writer} (h : w.op ≠ strayOp ∨ detail ≠ detNoSpace) :
    d.Accounts (d.failWriter cls detail w) := by
  unfold Dev.failWriter
  simp only []
  refine accounts_ite (.step (finish_accounts _ _ _ _ _) (noteFailed_accounts d w)) ?_
  exact accounts_ite (noteFailed_accounts d w) (accounts_of_marked (forgetWriter_marked w (deferError_marks h)))

theorem noteFailed_takes (d : Dev) (w : Writer) : (d.noteFailed w).takes = d.takes := by
  unfold Dev.noteFailed
  split <;> rfl

theorem finish_takes (d : Dev) (o : Origin) (cls detail result : Nat) : (d.finish o cls detail result).takes = d.takes := by
  unfold Dev.finish
  split
  · rfl
  · simp only []
    split <;> rfl

theorem failWriter_clear {d : Dev} (cls detail : Nat) (w : Writer) (h : d.Gathers GBlk.Clear) :
    (d.failWriter cls detail w).Gathers GBlk.Clear := by
  have hsame : ∀ e : Dev, e.takes = d.takes → e.Gathers GBlk.Clear := fun e he => by
    rw [Dev.Gathers, he]
    exact h
  have hnoted := noteFailed_takes d w
  unfold Dev.failWriter
  simp only []
  split
  · exact hsame _ ((finish_takes _ _ _ _ _).trans hnoted)
  · split
    · exact hsame _ hnoted
    · exact forgetWriter_clear w (hsame _ ((deferError_takes _ w detail).trans hnoted))

theorem failWriters_accounts (d : Dev) (cls : Nat) {detail : Nat} {ws : List Writer}
    (h : ∀ w ∈ ws, w.op ≠ strayOp ∨ detail ≠ detNoSpace) : d.Accounts (d.failWriters cls detail ws) := by
  have hall : ∀ w ∈ firstFailed ws, w.op ≠ strayOp ∨ detail ≠ detNoSpace := fun w hw => h w (mem_of_mem_firstFailed hw)
  rw [failWriters_eq]
  generalize firstFailed ws = l at hall
  induction l generalizing d with
  | nil => exact accounts_refl d
  | cons w l ih =>
    exact (failWriter_accounts d cls (hall w (by simp))).trans (ih _ fun x hx => hall x (List.mem_cons_of_mem w hx))

theorem failWriters_marked {d : Dev} (cls detail : Nat) (ws : List Writer) (h : d.Marked) :
    (d.failWriters cls detail ws).Marked := by
  rw [failWriters_eq]
  generalize firstFailed ws = l
  induction l generalizing d with
  | nil => exact h
  | cons w l ih => exact ih (failWriter_marked cls detail w h)

theorem failWriters_clear {d : Dev} (cls detail : Nat) (ws : List Writer) (h : d.Gathers GBlk.Clear) :
    (d.failWriters cls detail ws).Gathers GBlk.Clear := by
  rw [failWriters_eq]
  generalize firstFailed ws = l
  induction l generalizing d with
  | nil => exact h
  | cons w l ih => exact ih (failWriter_clear cls detail w h)

end Sys2Proof.Machine
end

section
/-! SUPPORT. Units, blocks and commits: what they leave of the gathered blocks (R386 to R393, O60). -/

namespace Sys2Proof.Machine

/-! ### Units that are released -/

theorem unitsOnly_foldl {β : Type} {f : Dev → β → Dev} (h : ∀ d b, Dev.UnitsOnly d (f d b)) (l : List β) (d : Dev) :
    d.UnitsOnly (l.foldl f d) := by
  induction l generalizing d with
  | nil => exact unitsOnly_refl d
  | cons b l ih => exact (h d b).trans (ih (f d b))

theorem passWindow_unitsOnly (d : Dev) : d.UnitsOnly d.passWindow := by
  unfold Dev.passWindow
  split <;> exact rfl

theorem releaseUnits_unitsOnly (d : Dev) (o : Owner) : d.UnitsOnly (d.releaseUnits o) := by
  unfold Dev.releaseUnits
  simp only []
  split
  · exact unitsOnly_refl d
  · refine Dev.UnitsOnly.trans ?_ (fillUpdate_unitsOnly _)
    split
    · refine Dev.UnitsOnly.trans ?_ (passWindow_unitsOnly _)
      exact rfl
    · exact rfl

theorem blockGone_unitsOnly (d : Dev) (key : Nat × Nat) : d.UnitsOnly (d.blockGone key) :=
  (unitsOnly_updBasin d _).trans (unitsOnly_foldl releaseUnits_unitsOnly _ _)

theorem dropOwner_unitsOnly (d : Dev) (o : Owner) : d.UnitsOnly (d.dropOwner o) :=
  (unitsOnly_updBasin d _).trans (releaseUnits_unitsOnly _ o)

theorem dropOwner_accounts (d : Dev) (o : Owner) : d.Accounts (d.dropOwner o) := (dropOwner_unitsOnly d o).accounts

/-! ### Blocks that leave -/

theorem dropBlk_accounts (d : Dev) (id : Nat) : d.Accounts (d.dropBlk id) := by
  unfold Dev.dropBlk
  split
  · exact accounts_refl d
  · next b _ =>
    simp only []
    have hgone : ∀ x : Dev, d.Accounts x → d.Accounts (if x.keyGone b.key then x.blockGone b.key else x) := fun x hx =>
      accounts_ite (hx.trans (blockGone_unitsOnly x b.key).accounts) hx
    have hleft := hgone { d with
        blks := d.blks.filter fun x => x.id != id,
        cmds := d.cmds.map fun (c : Cmd) => { c with waits := c.waits.filter fun w => w != id },
        stripes := d.stripes.map fun (s : Stripe) => { s with waits := s.waits.filter fun w => w != id } }
      (accounts_of_eq rfl rfl rfl rfl)
    exact accounts_ite (hleft.trans (releaseUnits_unitsOnly _ _).accounts) hleft

theorem loseBlk_accounts (d : Dev) (id cls : Nat) {detail : Nat} (h : detail ≠ detNoSpace) :
    d.Accounts (d.loseBlk id cls detail) := by
  unfold Dev.loseBlk
  split
  · exact accounts_refl d
  · next b _ =>
    simp only []
    refine .step (dropBlk_accounts _ _) (.step (failWriters_accounts _ _ fun _ _ => .inr h) ?_)
    have hmap : ∀ (l : List Cmd) (f : Nat → Stripe → Stripe), d.Accounts (match b.kind, b.pba with
      | .take, some a => ({ d.unqueue b.surface id with cmds := l } : Dev).updStripe b.stripe (f a)
      | .parity, some a => ({ d.unqueue b.surface id with cmds := l } : Dev).updStripe b.stripe (f a)
      | _, _ => { d.unqueue b.surface id with cmds := l }) := by
      intro l f
      split <;> exact accounts_of_eq rfl rfl rfl rfl
    have hname : ∀ x : Dev, d.Accounts x → d.Accounts (x.updTake b.take fun t =>
        if (tget ({} : TBlk) t.blocks b.offset).stripe = some b.stripe ∧ !(t.gather.any fun g => g.block == b.offset) then
          { t with blocks := tset t.blocks b.offset { tget ({} : TBlk) t.blocks b.offset with held := none, pba := b.pba } }
        else t) := fun x hx => by
      refine hx.updTake fun t ht g hg => ?_
      split at hg <;> exact ⟨t, ht, hg⟩
    refine accounts_ite (hname _ ?_) ?_
    · exact accounts_ite (.updTake (hmap _ _)) (hmap _ _)
    · exact accounts_ite (.updTake (hmap _ _)) (hmap _ _)

/-! ### A range that its group accepts no stripe for (R389) -/

/-- The take once range k is no longer gathered. -/
def Take.without (t : Take) (dd k : Nat) : Take :=
  { t with gather := t.gather.filter (fun b => b.block / (7 * dd) != k), since := tdel t.since k }

/-- Range k leaves the take, and the writes of its blocks fail for want of space. -/
def Dev.rangeRefused (d : Dev) (take : Nat) (t : Take) (dd k : Nat) : Dev :=
  (d.updTake take fun _ => { t.without dd k with lost := true }).failWriters clsMedia detNoSpace
    ((rangeBlocks dd k t.gather).flatMap GBlk.writers).eraseDups

theorem rangeLeaves_accounts {d : Dev} {take : Nat} {t : Take} (ht : d.take? take = some t) {f : Take → Take}
    (hf : ∀ u, (f u).gather ⊆ t.gather) : d.Accounts (d.updTake take f) :=
  .updTake (accounts_refl d) fun u _ _ hg => ⟨t, List.mem_of_find?_eq_some ht, hf u hg⟩

theorem without_subset (t : Take) (dd k : Nat) : (t.without dd k).gather ⊆ t.gather := fun _ hg => List.mem_of_mem_filter hg

/-- A lone take that loses a range with a stray write has no block 196 left, and no stray write. -/
theorem without_clear {t : Take} {dd k : Nat} (hw : ∀ g ∈ t.gather, g.Whole)
    {b : GBlk} (hb : b ∈ rangeBlocks dd k t.gather) {w : Writer} (hbw : w ∈ b.writers) (hop : w.op = strayOp) :
    ∀ g ∈ (t.without dd k).gather, g.Clear := by
  intro g hg
  obtain ⟨hmem, hrange⟩ := List.mem_filter.1 hg
  obtain ⟨hbmem, hbrange⟩ := List.mem_filter.1 hb
  have hblock : b.block = 196 := (hw b hbmem).1 w hbw hop
  have hne : g.block ≠ 196 := fun h => by
    rw [h] at hrange
    rw [hblock] at hbrange
    simp_all
  exact ⟨hne, fun x hx hxop => hne ((hw g hmem).1 x hx hxop)⟩

theorem rangeRefused_accounts {d : Dev} {take : Nat} {t : Take} (dd k : Nat) (ht : d.take? take = some t) :
    d.Accounts (d.rangeRefused take t dd k) := by
  have hleaves : d.Accounts (d.updTake take fun _ => { t.without dd k with lost := true }) :=
    rangeLeaves_accounts ht fun _ => without_subset t dd k
  by_cases hstray : ∃ w ∈ ((rangeBlocks dd k t.gather).flatMap GBlk.writers).eraseDups, w.op = strayOp
  case neg => exact hleaves.trans (failWriters_accounts _ _ fun w hw => .inl fun hop => hstray ⟨w, hw, hop⟩)
  case pos =>
    obtain ⟨w, hw, hop⟩ := hstray
    obtain ⟨b, hb, hbw⟩ := List.mem_flatMap.1 (List.mem_eraseDups.1 hw)
    refine ⟨fun hm => failWriters_marked _ _ _ (hleaves.marked hm), fun hwhole => ?_⟩
    by_cases hone : 2 ≤ d.takes.length
    · exact .inl (failWriters_marked _ _ _ (hleaves.marked (.inr (.inl hone))))
    have hmem : t ∈ d.takes := List.mem_of_find?_eq_some ht
    have htakes : d.takes = [t] := by
      obtain ⟨u, hu⟩ := List.length_eq_one_iff.1 (by
        have hpos := List.length_pos_of_mem hmem
        omega : d.takes.length = 1)
      rw [hu] at hmem ⊢
      rw [List.mem_singleton.1 hmem]
    have hclear := without_clear (hwhole t hmem) hb hbw hop
    have hleft : (d.updTake take fun _ => { t.without dd k with lost := true }).Gathers GBlk.Clear := by
      intro u hu g hg
      have hid : t.id = take := by simpa using List.find?_some ht
      have hu' : u = { t.without dd k with lost := true } := by
        simpa [Dev.updTake, htakes, hid] using hu
      exact hclear g (by rw [hu'] at hg; exact hg)
    exact .inr fun u hu g hg => (failWriters_clear _ _ _ hleft u hu g hg).whole

/-! ### A range that is committed (R386 to R393) -/

theorem needUnits_accounts (d : Dev) (o : Owner) (n : Nat) : d.Accounts (d.needUnits o n) := (needUnits_unitsOnly d o n).accounts

/-- A step that a condition leaves out. -/
theorem accounts_skip {d e g : Dev} {c : Prop} [Decidable c] (h : d.Accounts e) (h' : e.Accounts g) :
    d.Accounts (if c then e else g) := accounts_ite h (h.trans h')

theorem commitRange_accounts (d : Dev) (take k : Nat) (hidden : List Nat) (len : Nat) (os : List Origin) :
    d.Accounts (d.commitRange take k hidden len os) := by
  unfold Dev.commitRange
  split
  case h_2 => exact accounts_refl d
  case h_1 t v ht hv =>
    refine accounts_ite (accounts_refl d) (accounts_ite ?_ ?_)
    · refine (rangeRefused_accounts (geometryD v.geometry) k ht).trans ?_
      exact accounts_foldl (fun x b => accounts_ite (blockGone_unitsOnly x _).accounts (accounts_refl x)) _ _
    · refine .step (accounts_foldl (fun x _ => .raiseFor (accounts_refl x)) _ _) ?_
      refine accounts_skip ?_ (.updBasin (needUnits_accounts _ _ _))
      refine .wr (.wr ?_)
      refine .trans (e := Dev.updTake (List.foldl _ d _) take _) ?_ (accounts_of_eq rfl rfl rfl rfl)
      refine .updTake (accounts_foldl (fun x jp => accounts_foldl (fun y l => ?place) _ x) _ d) fun u _ g hg => ⟨t, ?mem, ?sub⟩
      case place =>
        refine accounts_ite ?_ (accounts_ite (accounts_of_eq rfl rfl rfl rfl) (accounts_refl y))
        split
        · exact accounts_of_eq rfl rfl rfl rfl
        · exact accounts_refl y
      case sub => exact List.mem_of_mem_filter hg
      case mem =>
        refine Eq.mpr (congrArg (t ∈ ·) (foldl_kept Dev.takes _ (fun x jp => ?_) _ d)) ?_
        refine foldl_kept Dev.takes _ (fun y l => ?_) _ x
        · split
          · split <;> rfl
          · split <;> rfl
        · exact List.mem_of_find?_eq_some ht

end Sys2Proof.Machine
end

section
/-! SUPPORT. The commands in flight go on: what their steps leave of the gathered blocks (O60). -/

namespace Sys2Proof.Machine

/-! ### Commits and records of the catalogue -/

theorem commitTake_accounts (d : Dev) (take : Nat) (o : Origin) : d.Accounts (d.commitTake take o) := by
  unfold Dev.commitTake
  split
  · exact accounts_foldl (fun x k => commitRange_accounts x take k [] 0 [o]) _ d
  · exact accounts_refl d

theorem commitAll_accounts (d : Dev) (o : Origin) : d.Accounts (d.commitAll o) := by
  have hall : d.Accounts (d.takes.foldl (fun d t => d.commitTake t.id o) d) :=
    accounts_foldl (fun x (t : Take) => commitTake_accounts x t.id o) _ d
  exact accounts_ite (.updCmd hall) hall

theorem appendRec_accounts (d : Dev) (rtype group : Nat) (body : Bytes) : d.Accounts (d.appendRec rtype group body) :=
  accounts_of_eq rfl rfl rfl rfl

theorem newGroup_accounts (d : Dev) : d.Accounts d.newGroup := accounts_of_eq rfl rfl rfl rfl

theorem recordStripe_accounts (d : Dev) (x : Nat) : d.Accounts (d.recordStripe x) := by
  unfold Dev.recordStripe
  split
  · exact accounts_refl d
  · refine accounts_ite (accounts_refl d) (.updStripe (.updCat ?_))
    exact .step (accounts_foldl (fun y b => appendRec_accounts y _ _ b) _ _) (newGroup_accounts d)

theorem recordStripes_accounts (d : Dev) : d.Accounts d.recordStripes := accounts_foldl recordStripe_accounts _ d

theorem appendAlloc_accounts (d : Dev) : d.Accounts d.appendAlloc := by
  refine .step (accounts_foldl (fun x p => ?_) _ _) (.trans (newGroup_accounts d) (appendRec_accounts _ _ _ _))
  exact accounts_ite (accounts_refl x) (.updPk (accounts_foldl (fun y b => appendRec_accounts y _ _ b) _ x))

theorem takeCounts_accounts (d : Dev) : d.Accounts d.takeCounts := .wr (.wr (accounts_refl d))

/-! ### Data that is delivered -/

theorem sendData_accounts (d : Dev) (l tag off : Nat) (data : Bytes) : d.Accounts (d.sendData l tag off data) :=
  accounts_foldl (fun x _ => .updLk (accounts_refl x)) _ d

theorem deliver_accounts (d : Dev) (o : Origin) (i : Nat) (data : Bytes) : d.Accounts (d.deliver o i data) := by
  unfold Dev.deliver
  split
  · exact accounts_refl d
  · simp only []
    split
    · exact .step (sendData_accounts _ _ _ _ _) (.updCmd (accounts_refl d))
    · split
      · split <;> exact accounts_of_eq rfl rfl rfl rfl
      · exact accounts_of_eq rfl rfl rfl rfl

theorem finishRead_accounts (d : Dev) (o : Origin) : d.Accounts (d.finishRead o) := by
  unfold Dev.finishRead
  split
  · exact accounts_refl d
  · exact .step (finish_accounts _ _ _ _ _) (dropOwner_accounts d _)

theorem freshBytes_accounts (n : Nat) (d : Dev) : d.Accounts (Dev.freshBytes n d).2 := by
  induction n generalizing d with
  | zero => exact accounts_refl d
  | succ n ih => exact .step (ih _) (accounts_of_eq rfl rfl rfl rfl)

theorem peerAligned_accounts (d : Dev) (w : Nat × Bytes) : d.Accounts (d.peerAligned w) :=
  .emit (.step (freshBytes_accounts _ _) (freshBytes_accounts _ d))

theorem readDone_accounts (d : Dev) (o : Origin) : d.Accounts (d.readDone o) := by
  unfold Dev.readDone
  split
  · exact accounts_refl d
  · exact accounts_ite (.emit (.updCmd (accounts_foldl peerAligned_accounts _ d))) (finishRead_accounts d o)

theorem report_accounts (d : Dev) (o : Origin) (cls detail : Nat) (data : Bytes) : d.Accounts (d.report o cls detail data) := by
  unfold Dev.report
  split
  · exact accounts_refl d
  · exact .step (finish_accounts _ _ _ _ _) (accounts_ite (accounts_refl d) (.emit (accounts_refl d)))

theorem sample_accounts (t : Take) (o : Origin) (d : Dev) (i : Nat) : d.Accounts (Dev.sample? t o d i) := by
  unfold Dev.sample?
  split
  · exact deliver_accounts d o i _
  · exact .updCmd (accounts_refl d)
  · exact .updCmd (accounts_refl d)

theorem sampleFreed_accounts (d : Dev) (o : Origin) (c : Cmd) : d.Accounts (d.sampleFreed o c) := by
  unfold Dev.sampleFreed
  split
  · exact accounts_refl d
  · next t _ =>
    refine accounts_ite (accounts_refl d) (.step (accounts_foldl (fun x i => sample_accounts t o x i) _ _) ?_)
    exact .updCmd (accounts_refl d)

theorem advanceRead_accounts (d : Dev) (o : Origin) (c : Cmd) : d.Accounts (d.advanceRead o c) :=
  accounts_ite (accounts_refl d) (accounts_ite (sampleFreed_accounts d o c)
    (accounts_ite (readDone_accounts d o) (accounts_refl d)))

/-! ### Data of a write that is gathered -/

theorem takeUnits_accounts {d e : Dev} {o : Owner} {n : Nat} {reserved : Bool} (h : d.takeUnits o n reserved = some e) :
    d.Accounts e := by
  have hunits := takeUnits_unitsOnly d o n reserved
  rw [h] at hunits
  exact hunits.accounts

theorem askMore_accounts (d : Dev) (o : Origin) : d.Accounts (d.askMore o) := by
  unfold Dev.askMore
  split
  · exact accounts_refl d
  · split
    · exact accounts_refl d
    · refine accounts_ite (accounts_refl d) ?_
      split
      · exact accounts_refl d
      · next e he => exact (takeUnits_accounts he).trans (accounts_of_eq rfl rfl rfl rfl)

theorem writer_op (c : Cmd) (i : Nat) : (c.writer i).op = c.op := rfl

/-- A block that a command gathers has a writer, and no stray one. -/
theorem gatherBlock_accounts (d : Dev) {c : Cmd} (i : Nat) (hop : c.op ≠ strayOp) : d.Accounts (d.gatherBlock c i) := by
  unfold Dev.gatherBlock
  split
  · exact accounts_refl d
  · next t ht =>
    have hmem : t ∈ d.takes := List.mem_of_find?_eq_some ht
    refine ⟨fun hm => ?_, fun hw => .inr fun u hu g hg => ?_⟩
    · obtain hv | hn | hr | hl := hm
      · exact .inl hv
      · exact .inr (.inl (le_of_le_of_eq hn (List.length_map _).symm))
      · exact .inr (.inr (.inl hr))
      · exact .inr (.inr (.inr hl))
    · obtain ⟨x, hx, rfl⟩ := List.mem_map.1 hu
      split at hg
      case isFalse => exact hw x hx g hg
      case isTrue =>
        obtain hold | hnew := List.mem_append.1 hg
        · exact hw x hx g (List.mem_of_mem_filter hold)
        · obtain rfl := List.mem_singleton.1 hnew
          refine ⟨fun w hwr hstray => ?_, fun _ => by simp⟩
          obtain hwr | hwr := List.mem_append.1 hwr
          · cases hfind : t.gather.find? fun g => g.block == i with
            | none => simp [hfind] at hwr
            | some b =>
              have hb : b.block = i := by simpa using List.find?_some hfind
              rw [hfind] at hwr
              exact hb ▸ (hw t hmem b (List.mem_of_find?_eq_some hfind)).1 w hwr hstray
          · rw [List.mem_singleton.1 hwr, writer_op] at hstray
            exact absurd hstray hop

theorem nameBlock_accounts (d : Dev) (take i : Nat) : d.Accounts (d.nameBlock take i) := by
  refine .updTake (accounts_refl d) fun t ht g hg => ⟨t, ht, ?_⟩
  split at hg <;> exact hg

theorem growTake_accounts (d : Dev) (take n : Nat) : d.Accounts (d.growTake take n) := by
  refine .updTake (accounts_refl d) fun t ht g hg => ⟨t, ht, ?_⟩
  split at hg
  · exact hg
  · simp only [] at hg
    split at hg
    · exact hg
    · split at hg <;> exact hg

theorem keepUnits_accounts (d : Dev) (o : Origin) (blocks : List (Nat × Nat)) : d.Accounts (d.keepUnits o blocks) := by
  unfold Dev.keepUnits
  split
  · exact .updBasin (.updBasin (accounts_refl d))
  · exact .updBasin (accounts_refl d)

end Sys2Proof.Machine
end

section
/-! SUPPORT. The commands in flight go on, to the pass over all of them (O60). -/

namespace Sys2Proof.Machine

/-! ### A write takes effect (R328, R390 to R392) -/

/-- Each gathered block that a write changes is gathered anew. -/
theorem gatherBlocks_accounts {c : Cmd} (hop : c.op ≠ strayOp) (bs : List Nat) (d : Dev) :
    d.Accounts (bs.foldl (fun d i => d.gatherBlock c i) d) :=
  accounts_foldl (fun x i => gatherBlock_accounts x i hop) bs d

theorem applyRecord_accounts (d : Dev) (o : Origin) (hop : ∀ c, d.cmd o = some c → c.op ≠ strayOp) :
    d.Accounts (d.applyRecord o) := by
  unfold Dev.applyRecord
  split
  case h_1 => exact accounts_refl d
  case h_2 c hc =>
    have hc := hop c hc
    split
    case h_2 => exact .step (finish_accounts _ _ _ _ _) (dropOwner_accounts d _)
    case h_1 t v ht hv =>
      have hcommit : ∀ (x : Dev) (ok : Take → Bool) (k : Nat), x.Accounts (match x.take? c.take with
          | some t => if ok t then x.commitRange c.take k else x
          | none => x) := fun x ok k => by
        split
        · exact accounts_ite (commitRange_accounts x _ k _ _ _) (accounts_refl x)
        · exact accounts_refl x
      refine accounts_ite (accounts_refl d) (accounts_ite (.step (finish_accounts _ _ _ _ _) (dropOwner_accounts d _)) ?_)
      refine accounts_ite (.updCmd (accounts_refl d)) (accounts_ite ?fua ?plain)
      case fua =>
        refine .updCmd (.step (accounts_foldl (fun x k => commitRange_accounts x _ k _ _ _) _ _) (.updCmd ?_))
        refine .step (keepUnits_accounts _ _ _) (.step (gatherBlocks_accounts hc _ _) ?_)
        exact accounts_foldl (fun x k =>
          hcommit x (fun t => t.gather.any fun g => (blocksOf c.offset c.length).contains g.block) k) _ d
      case plain =>
        refine .step (accounts_foldl (fun x k => hcommit x (fun t => t.rangeComplete (geometryD v.geometry) k) k) _ _) ?_
        refine .step (finish_accounts _ _ _ _ _) (.step (keepUnits_accounts _ _ _) (.step (growTake_accounts _ _ _) ?_))
        exact accounts_foldl (fun x i => (gatherBlock_accounts x i hc).trans (nameBlock_accounts _ _ _)) _ d

theorem applyBlockWrite_accounts (d : Dev) (o : Origin) : d.Accounts (d.applyBlockWrite o) := by
  unfold Dev.applyBlockWrite
  split
  · exact accounts_refl d
  · next c _ =>
    have hqueued : ∀ x : Dev, d.Accounts x → ∀ ids, d.Accounts (if c.fua then
          x.updCmd o fun y => { y with phase := .medium, waits := ids }
        else x.finish o clsOk 0 0) := fun x hx ids => accounts_ite (.updCmd hx) (.step (finish_accounts _ _ _ _ _) hx)
    refine accounts_ite (.step (loseBlk_accounts _ _ _ (by decide)) (hqueued _ ?_ _)) (hqueued _ ?_ _)
    all_goals refine .step (keepUnits_accounts _ _ _) ?_
    all_goals exact accounts_of_eq rfl rfl rfl rfl

theorem publishFua_accounts (d : Dev) (c : Cmd) : d.Accounts (d.publishFua c) := by
  refine .step (growTake_accounts _ _ _) (accounts_foldl (fun x bx => ?_) _ d)
  split
  · exact accounts_refl x
  · exact .updTake (accounts_refl x)

theorem advanceFua_accounts (d : Dev) (o : Origin) (c : Cmd) : d.Accounts (d.advanceFua o c) := by
  have hdone : d.Accounts (if c.thermal then (d.publishFua c).finish o clsThermal 1 c.length
      else (d.publishFua c).finish o clsOk 0 c.length) :=
    accounts_ite (.step (finish_accounts _ _ _ _ _) (publishFua_accounts d c))
      (.step (finish_accounts _ _ _ _ _) (publishFua_accounts d c))
  unfold Dev.advanceFua
  simp only []
  split
  · exact accounts_ite (accounts_refl d) (accounts_ite hdone (.updCmd (accounts_refl d)))
  · exact accounts_ite hdone (accounts_ite (finish_accounts d _ _ _ _) (accounts_refl d))
  · exact accounts_refl d

/-! ### Commands that start -/

theorem startRead_accounts (d : Dev) (o : Origin) : d.Accounts (d.startRead o) := by
  unfold Dev.startRead
  split
  · exact accounts_refl d
  · next c _ =>
    split
    · exact refuse_accounts d _ _ _
    · next t _ =>
      refine accounts_ite (refuse_accounts d _ _ _) (accounts_skip ?_ (needUnits_accounts _ _ _))
      exact .step (accounts_foldl (fun x i => sample_accounts t o x i) _ _)
        (.updCmd (accounts_ite (accounts_refl d) (.emit (accounts_refl d))))

/-- A new take is a second one, or gathers nothing yet. -/
theorem newTake_accounts (d : Dev) {t : Take} (h : t.gather = []) : d.Accounts { d with takes := d.takes ++ [t] } := by
  refine ⟨fun hm => ?_, fun hw => .inr fun u hu g hg => ?_⟩
  · obtain hv | hn | hr | hl := hm
    · exact .inl hv
    · exact .inr (.inl (hn.trans (by simp)))
    · exact .inr (.inr (.inl hr))
    · exact .inr (.inr (.inr hl))
  · obtain hu | hu := List.mem_append.1 hu
    · exact hw u hu g hg
    · rw [List.mem_singleton.1 hu, h] at hg
      cases hg

theorem startOpen_accounts (d : Dev) (o : Origin) : d.Accounts (d.startOpen o) := by
  unfold Dev.startOpen
  split
  · exact accounts_refl d
  · split
    · exact refuse_accounts d _ _ _
    · refine accounts_ite (refuse_accounts d _ _ _) (accounts_ite (refuse_accounts d _ _ _)
        (accounts_ite (refuse_accounts d _ _ _) (accounts_ite (refuse_accounts d _ _ _) ?_)))
      refine .step (finish_accounts _ _ _ _ _) (.step (takeCounts_accounts _) (newTake_accounts d ?_))
      rfl

theorem startClose_accounts (d : Dev) (o : Origin) : d.Accounts (d.startClose o) := by
  unfold Dev.startClose
  split
  · exact accounts_refl d
  · split
    · exact refuse_accounts d _ _ _
    · split
      · exact report_accounts d _ _ _ _
      · exact .updCmd (accounts_refl d)
      · exact .updCmd (.step (takeCounts_accounts _) (.updTake (accounts_refl d)))

theorem startBlockWrite_accounts (d : Dev) (o : Origin) : d.Accounts (d.startBlockWrite o) := by
  unfold Dev.startBlockWrite
  split
  · exact accounts_refl d
  · exact accounts_ite (refuse_accounts d _ _ _) (accounts_ite (refuse_accounts d _ _ _)
      (accounts_ite (refuse_accounts d _ _ _) (.updCmd (accounts_refl d))))

theorem basinHeader_accounts (d : Dev) (pba : Nat) : d.Accounts (d.basinHeader pba).2 := by
  unfold Dev.basinHeader
  split
  · exact accounts_refl d
  · exact freshBytes_accounts 128 d

theorem startBlockRead_accounts (d : Dev) (o : Origin) : d.Accounts (d.startBlockRead o) := by
  unfold Dev.startBlockRead
  split
  · exact accounts_refl d
  · simp only []
    refine accounts_ite (refuse_accounts d _ _ _) ?_
    split
    · refine .step (finish_accounts _ _ _ _ _) (accounts_ite ?_ (.emit (.updCmd (accounts_refl d))))
      exact .emit (.step (basinHeader_accounts _ _) (.emit (.updCmd (accounts_refl d))))
    · exact .step (needUnits_accounts _ _ _) (.updCmd (.updCmd (accounts_refl d)))

theorem startData_accounts (mem : List Host.Cell) (d : Dev) (o : Origin) : d.Accounts (d.startData mem o) := by
  unfold Dev.startData
  split
  · exact accounts_refl d
  · next c _ =>
    have hlist : d.Accounts (if c.sgl = [] then d else d.emit (.hostRead c.addr (16 * c.sgl.length) true)) :=
      accounts_ite (accounts_refl d) (.emit (accounts_refl d))
    simp only []
    split
    · exact accounts_ite (.updCmd hlist) (.updCmd hlist)
    · exact .updCmd hlist

theorem startRange_accounts (mem : List Host.Cell) (d : Dev) (o : Origin) : d.Accounts (d.startRange mem o) := by
  unfold Dev.startRange
  split
  · exact accounts_refl d
  · split
    · split
      · exact refuse_accounts d _ _ _
      · exact startData_accounts mem d o
    · exact startRead_accounts d o
    · exact startRead_accounts d o
    · exact startOpen_accounts d o
    · exact startClose_accounts d o
    · split
      · exact report_accounts d _ _ _ _
      · exact refuse_accounts d _ _ _
    · simp only []
      split
      · exact accounts_ite (.step (startData_accounts _ _ _) (startBlockWrite_accounts d o)) (startBlockWrite_accounts d o)
      · exact startBlockWrite_accounts d o
    · exact startBlockRead_accounts d o
    · exact accounts_refl d

/-! ### The end of a take, of a flush and of a load -/

theorem closeFails_accounts (d : Dev) (take detail : Nat) : d.Accounts (d.closeFails take detail) :=
  .step (accounts_foldl (fun x o => finish_accounts x o _ _ _) _ _)
    (.updCat (.step (takeCounts_accounts _) (.updTake (accounts_refl d))))

theorem closeDone_accounts (d : Dev) (take : Nat) (cert : Bytes) (time : Nat) : d.Accounts (d.closeDone take cert time) :=
  .step (accounts_foldl (fun x o => report_accounts x o _ _ _) _ _) (.step (takeCounts_accounts _) (.updTake (accounts_refl d)))

theorem advanceClose_accounts (d : Dev) (o : Origin) (c : Cmd) : d.Accounts (d.advanceClose o c) := by
  unfold Dev.advanceClose
  split
  · exact accounts_refl d
  · split
    · exact accounts_ite (accounts_refl d) (.updCmd (commitTake_accounts d _ _))
    · refine accounts_ite (accounts_refl d) ?_
      split
      · exact closeFails_accounts d _ _
      · exact accounts_ite (closeFails_accounts d _ _) (accounts_ite (closeFails_accounts d _ _) (.updCmd (accounts_refl d)))
    · refine accounts_ite (accounts_refl d) ?_
      split
      · exact closeFails_accounts d _ _
      · refine accounts_ite (closeFails_accounts d _ _) (.updCmd ?_)
        exact .step (appendRec_accounts _ _ _ _) (.step (newGroup_accounts _)
          (.step (appendAlloc_accounts _) (accounts_of_eq rfl rfl rfl rfl)))
    · exact accounts_ite (closeDone_accounts d _ _ _) (accounts_ite (closeFails_accounts d _ _) (accounts_refl d))
    · exact accounts_refl d

theorem advanceFlush_accounts (d : Dev) (o : Origin) (c : Cmd) : d.Accounts (d.advanceFlush o c) := by
  unfold Dev.advanceFlush
  split
  · exact accounts_ite (accounts_refl d) (.updCmd (appendAlloc_accounts d))
  · refine accounts_ite ?_ (accounts_ite (finish_accounts d _ _ _ _) (accounts_refl d))
    split <;> exact finish_accounts d _ _ _ _
  · exact accounts_refl d

/-- The load that ends leaves its mark. -/
theorem unload_marked (d : Dev) : d.unload.Marked := .inl rfl

theorem advanceUnload_accounts (d : Dev) (o : Origin) (c : Cmd) : d.Accounts (d.advanceUnload o c) := by
  unfold Dev.advanceUnload
  split
  · refine accounts_ite (accounts_refl d) (accounts_ite (.updCmd ?_) (.updCmd (appendAlloc_accounts d)))
    exact (commitAll_accounts d o).trans (accounts_of_eq rfl rfl rfl rfl)
  · exact accounts_ite (.updCmd (accounts_refl d)) (accounts_ite (accounts_refl d)
      (accounts_ite (.updCmd (accounts_refl d)) (accounts_ite (.updCmd (accounts_refl d)) (accounts_refl d))))
  · refine accounts_ite ?_ (accounts_refl d)
    simp only []
    split <;> exact .step (finish_accounts _ _ _ _ _) (accounts_of_marked (unload_marked _))
  · exact accounts_refl d

theorem advanceLoad_accounts (d : Dev) (o : Origin) (c : Cmd) : d.Accounts (d.advanceLoad o c) := by
  unfold Dev.advanceLoad
  refine accounts_ite (accounts_refl d) (accounts_ite (accounts_refl d) ?_)
  split <;> exact .step (finish_accounts _ _ _ _ _) (accounts_of_eq rfl rfl rfl rfl)

/-! ### A pass over the commands -/

theorem cmd_updCmd {d : Dev} {o : Origin} {f : Cmd → Cmd} {c : Cmd} (h : (d.updCmd o f).cmd o = some c)
    (hf : ∀ c, (f c).origin = c.origin) : ∃ b, d.cmd o = some b ∧ c = f b := by
  have hpred : ((fun c : Cmd => c.origin == o) ∘ fun c => if c.origin = o then f c else c) = fun c => c.origin == o := by
    funext c
    by_cases hc : c.origin = o <;> simp [hc, hf]
  rw [Dev.cmd, Dev.updCmd, List.find?_map, hpred] at h
  obtain ⟨b, hb, rfl⟩ := Option.map_eq_some_iff.1 h
  have ho : b.origin = o := by simpa using List.find?_some hb
  exact ⟨b, hb, if_pos ho⟩

theorem advance_accounts (mem : List Host.Cell) (d : Dev) (o : Origin) : d.Accounts (d.advance mem o) := by
  unfold Dev.advance
  split
  case h_1 => exact accounts_refl d
  case h_2 c hc =>
    have hrecord : c.op = 1 → ∀ b, d.cmd o = some b → b.op ≠ strayOp := fun hop b hb => by
      obtain rfl : c = b := by simpa [hc] using hb
      rw [hop]
      decide
    refine accounts_ite (accounts_ite (accounts_refl d) (startRange_accounts mem d o)) ?_
    split
    · next hop =>
      split
      · exact accounts_ite (askMore_accounts d o) (accounts_ite (accounts_refl d) (applyRecord_accounts d o (hrecord hop)))
      · refine accounts_ite (accounts_refl d) ?_
        split
        · exact .step (finish_accounts _ _ _ _ _) (dropOwner_accounts d _)
        · refine .step (applyRecord_accounts _ o fun b hb => ?_) (.updCmd (accounts_refl d))
          obtain ⟨x, hx, rfl⟩ := cmd_updCmd hb fun _ => rfl
          exact hrecord hop x hx
      · exact advanceFua_accounts d o c
    · split
      · exact accounts_ite (applyBlockWrite_accounts d o) (askMore_accounts d o)
      · exact accounts_ite (accounts_refl d) (accounts_ite (.updCmd (accounts_refl d)) (finish_accounts d _ _ _ _))
      · exact accounts_ite (finish_accounts d _ _ _ _) (accounts_ite (finish_accounts d _ _ _ _) (accounts_refl d))
      · exact accounts_refl d
    · exact advanceRead_accounts d o c
    · exact advanceRead_accounts d o c
    · exact accounts_ite (finishRead_accounts d o) (accounts_refl d)
    · exact advanceFlush_accounts d o c
    · exact advanceClose_accounts d o c
    · exact advanceLoad_accounts d o c
    · exact advanceUnload_accounts d o c
    · exact accounts_ite (finish_accounts d _ _ _ _) (accounts_refl d)
    · exact accounts_refl d

theorem settle_accounts (mem : List Host.Cell) (d : Dev) : d.Accounts (d.settle mem) := by
  have honce : ∀ x : Dev, x.Accounts (x.settleOnce mem) := fun x => accounts_foldl (fun y o => advance_accounts mem y o) _ x
  have hpasses : ∀ n (x : Dev), x.Accounts (Dev.settleN mem n x) := fun n => by
    induction n with
    | zero => exact accounts_refl
    | succ n ih => exact fun x => accounts_ite (honce x) ((honce x).trans (ih _))
  exact hpasses _ d

end Sys2Proof.Machine
end

section
/-! SUPPORT. What a MEDIA_UNLOAD does to the deck, and the whole of what follows a command (O60). -/

namespace Sys2Proof.Machine

/-! ### Rows abandoned (R261, R276) -/

theorem sendSettings_accounts (d : Dev) (p : Nat) : d.Accounts (d.sendSettings p) := by
  refine accounts_ite (accounts_refl d) (.updPk (accounts_foldl (fun x f => ?_) _ d))
  exact .updPk (accounts_refl x)

theorem catSettle_accounts (d : Dev) (p : Nat) (lanes : List Nat) (failed : Option Nat) :
    d.Accounts (d.catSettle p lanes failed) := by
  have hprogress : ∀ x : Dev, x.Accounts x.catProgress := fun x => by
    unfold Dev.catProgress
    split
    · exact accounts_refl x
    · exact accounts_ite (.updCat (accounts_refl x)) (.updCat (.updCat (accounts_refl x)))
  unfold Dev.catSettle
  split
  · exact accounts_refl d
  · exact .step (hprogress _) (.updCat (accounts_refl d))

theorem abandon_accounts (d : Dev) (p : Nat) (rw : RowWrite) (cause : Nat) : d.Accounts (d.abandon p rw cause) := by
  have hstop : d.Accounts (if rw.started then d.fresh.2.emit (.wstbLow p) else d) :=
    accounts_ite (accounts_of_eq rfl rfl rfl rfl) (accounts_refl d)
  unfold Dev.abandon
  simp only []
  refine .step (sendSettings_accounts _ p) (.raiseFor (.wr ?_))
  split
  · exact .step (catSettle_accounts _ _ _ _) (.step (accounts_foldl (fun x (e : Nat × Nat) => dropBlk_accounts x e.2) _ _)
      (.wr (.wr (.wr (.wr (.updPk hstop))))))
  · exact .updPk (.wr (.wr (.wr (.wr (.updPk hstop)))))
  · refine .step (accounts_foldl (fun x e => ?_) _ _) (.wr (.wr (.wr (.wr (.updPk hstop)))))
    exact accounts_of_eq rfl rfl rfl rfl

theorem voidTest_accounts (d : Dev) (p : Nat) : d.Accounts (d.voidTest p) :=
  accounts_ite (.updPk (.emit (accounts_refl d))) (accounts_refl d)

theorem abandonAll_accounts (d : Dev) (p cause : Nat) : d.Accounts (d.abandonAll p cause) :=
  .step (voidTest_accounts _ p) (accounts_foldl (fun x rw => abandon_accounts x p rw cause) _ d)

theorem abandonNow_accounts (d : Dev) (p cause : Nat) : d.Accounts (d.abandonNow p cause) := by
  unfold Dev.abandonNow
  split
  · exact abandon_accounts d p _ cause
  · exact voidTest_accounts d p

/-! ### Reads and writes that are given up (R158, R279 to R293) -/

theorem failWriteFor_accounts (d : Dev) {det : Nat} (id : Nat) (h : det ≠ detNoSpace) : d.Accounts (d.failWriteFor det id) := by
  unfold Dev.failWriteFor
  split
  · exact accounts_refl d
  · refine accounts_ite (loseBlk_accounts d id _ h) (accounts_foldl (fun x w => ?_) _ d)
    exact (noteFailed_accounts x w).trans (finish_accounts _ _ _ _ _)

theorem seekLost_accounts (d : Dev) (p : Nat) (k : Seek) : d.Accounts (d.seekLost p k) := by
  refine .step (accounts_foldl (fun x i => failWriteFor_accounts x i (by decide)) _ _) ?_
  exact .cmds (.noSeek (accounts_refl d))

theorem failRead_accounts (pba det : Nat) (d : Dev) (o : Origin) : d.Accounts (Dev.failRead pba det d o) := by
  unfold Dev.failRead
  split
  · exact accounts_refl d
  · refine accounts_ite (.step (finish_accounts _ _ _ _ _) (.step (dropOwner_accounts _ _) (.updCmd (accounts_refl d)))) ?_
    exact .step (accounts_foldl (fun x n => .updCmd (accounts_refl x)) _ _) (.updCmd (accounts_refl d))

theorem leaveLadder_accounts (d : Dev) (pba : Nat) : d.Accounts (d.leaveLadder pba) := by
  unfold Dev.leaveLadder
  split
  · exact accounts_refl d
  · refine .updPk (.step (dropOwner_accounts _ _) (accounts_ite ?_ (.wr ?_)))
    · exact accounts_of_eq rfl rfl rfl rfl
    · exact accounts_of_eq rfl rfl rfl rfl

theorem noteScrub_accounts (d : Dev) (pba : Nat) (weak lost : Bool) : d.Accounts (d.noteScrub pba weak lost) :=
  accounts_ite (accounts_of_eq rfl rfl rfl rfl) (accounts_refl d)

theorem unrecovered_accounts (d : Dev) (pba level det : Nat) : d.Accounts (d.unrecovered pba level det) := by
  have hleft : d.Accounts (((d.leaveLadder pba).gatherMember pba none).noteScrub pba false true) :=
    .step (noteScrub_accounts _ _ _ _) ((leaveLadder_accounts d pba).trans (accounts_of_eq rfl rfl rfl rfl))
  exact .step (accounts_foldl (fun x o => failRead_accounts pba det x o) _ _) (accounts_ite hleft (.raiseFor (.wr hleft)))

theorem enter_accounts (d : Dev) (pba level outcome : Nat) (start : Taps) (seekFirst : Bool) (decoded : Decoded)
    (live : LivePass) : d.Accounts (d.enter pba level outcome start seekFirst decoded live) :=
  accounts_ite (accounts_of_eq rfl rfl rfl rfl) (accounts_of_eq rfl rfl rfl rfl)

theorem blankOrLadder_accounts (d : Dev) (pba outcome : Nat) (start : Taps) (seekFirst : Bool) (decoded : Decoded)
    (live : LivePass) : d.Accounts (d.blankOrLadder pba outcome start seekFirst decoded live) := by
  have hblank : d.Accounts (((d.readers pba).filter fun _ => d.neverAllocated pba).foldl
      (fun d o => Dev.failRead pba (detOutcome 2) d o) d) := accounts_foldl (fun x o => failRead_accounts _ _ x o) _ d
  refine accounts_ite (.step (accounts_ite ?_ ?_) hblank) hblank
  · exact unrecovered_accounts _ _ _ _
  · exact enter_accounts _ _ _ _ _ _ _ _

theorem endRead_accounts (d : Dev) (p : Nat) : d.Accounts (d.endRead p) := by
  refine accounts_ite (accounts_refl d) (.step (accounts_foldl (fun x a => ?_) _ _) ?_)
  · refine .step (blankOrLadder_accounts _ _ _ _ _ _ _) ?_
    exact accounts_of_eq rfl rfl rfl rfl
  · exact accounts_ite (.updPk (accounts_refl d)) (.updPk (.updPk (accounts_refl d)))

/-! ### Sleds and spindles that stop (R160 to R166, R196, R199) -/

theorem unhome_accounts (d : Dev) (p cause : Nat) : d.Accounts (d.unhome p cause) :=
  accounts_skip (accounts_of_eq rfl rfl rfl rfl) (accounts_of_eq rfl rfl rfl rfl)

theorem halt_accounts (d : Dev) (p : Nat) (how : Option Nat) : d.Accounts (d.halt p how) := by
  unfold Dev.halt
  split
  · exact unhome_accounts d p _
  · exact accounts_ite (accounts_refl d) (accounts_of_eq rfl rfl rfl rfl)

theorem seekFails_accounts (d : Dev) (p cause : Nat) : d.Accounts (d.seekFails p cause) := by
  unfold Dev.seekFails
  split
  · exact accounts_refl d
  · exact accounts_ite (accounts_of_eq rfl rfl rfl rfl) (.step (seekLost_accounts _ _ _) (.raiseFor (accounts_refl d)))

theorem homeFails_accounts (d : Dev) (p cause unhomedCause : Nat) : d.Accounts (d.homeFails p cause unhomedCause) := by
  unfold Dev.homeFails
  refine accounts_ite (accounts_refl d) ?_
  have hover : d.Accounts (Dev.homingOver ((Dev.unhome
      (Dev.raiseMotion { d with homing := tdel d.homing p } p 20 evHomeFail [cause]) p unhomedCause).updSled p fun s => { s with homeBlocked := true }) p false) := by
    refine .cmds (.updSled (.step (unhome_accounts _ _ _) ?_))
    exact accounts_of_eq rfl rfl rfl rfl
  simp only []
  split
  · exact .step (seekLost_accounts _ _ _) hover
  · exact hover

theorem stopSled_accounts (d : Dev) (p : Nat) (fault : Bool) : d.Accounts (d.stopSled p fault) := by
  refine .trans (.step (endRead_accounts _ p) (abandonNow_accounts d p abSled)) ?_
  refine accounts_ite (homeFails_accounts _ _ _ _) (accounts_ite ?_ ?_)
  · split
    · exact unhome_accounts _ _ _
    · exact accounts_refl _
  · exact .step (halt_accounts _ _ _) (accounts_ite (seekFails_accounts _ _ _) (accounts_refl _))

theorem leaveRun_accounts (d : Dev) (n : Nat) : d.Accounts (d.leaveRun n) :=
  accounts_ite (accounts_refl d) (.updSpin (.wr (.step (abandonAll_accounts _ _ _) (abandonAll_accounts d _ _))))

theorem beginStop_accounts (d : Dev) (n : Nat) : d.Accounts (d.beginStop n) := by
  refine accounts_ite (accounts_refl d) (accounts_ite ?_ (.wr (accounts_ite (leaveRun_accounts d n) (.wr ?_))))
  · exact .wr (.wr (.updSpin (.updSpin (accounts_refl d))))
  · exact .updSpin (.updSpin (accounts_refl d))

theorem setTarget_accounts (d : Dev) (n t : Nat) : d.Accounts (d.setTarget n t) := by
  have htaken : d.Accounts (if d.rd .spTarget [n] = t then d
      else ((d.wr .spTarget [n] t).wr .spAtspeed [n] 0).updSpin n fun k => { k with ceilingPosted := false }) :=
    accounts_ite (accounts_refl d) (.updSpin (.wr (.wr (accounts_refl d))))
  exact accounts_ite (.step (beginStop_accounts _ n) htaken) htaken

theorem stopDeck_accounts (d : Dev) : d.Accounts d.stopDeck := by
  have hsleds : ∀ (x : Dev) p, x.Accounts (if x.slSt p = slUnhomed then x.noSeek p else (x.stopSled p false).noSeek p) :=
    fun x p => accounts_ite (.noSeek (accounts_refl x)) (.noSeek (stopSled_accounts x p false))
  have hlearned : ∀ x : Dev, x.Accounts { x with
      regs := x.regs.filter fun (r : Fld × Nat) => r.1.row != .spLearned,
      spin := x.spin.map fun e => (e.1, { e.2 with learnOwed := [false, false], learn := [[], []] }) } :=
    fun x => accounts_of_eq rfl rfl rfl rfl
  exact .step (hlearned _) (.step (accounts_foldl (fun x n => setTarget_accounts x n 0) _ _)
    (.step (accounts_foldl hsleds _ _) (.cmds (accounts_refl d))))

/-! ### What follows a command -/

theorem reportUnmapped_accounts (d : Dev) : d.Accounts d.reportUnmapped := by
  refine accounts_ite (accounts_refl d) (.step (accounts_foldl (fun x w => accounts_ite (accounts_refl x) ?_) _ _) ?_)
  · exact accounts_of_marked (forgetWriter_marked w (deferError_marks (.inr (by decide))))
  · exact accounts_of_eq rfl rfl rfl rfl

theorem loseMember_accounts (d : Dev) (pba : Nat) : d.Accounts (d.loseMember pba) :=
  accounts_ite (unrecovered_accounts d _ _ _) (accounts_ite (enter_accounts d _ _ _ _ _ _ _) (unrecovered_accounts d _ _ _))

/-- Whatever the commands in flight do after a command, block 196 loses its writers only where a mark appears. -/
theorem settleDeck_accounts (mem : List Host.Cell) (d : Dev) : d.Accounts (d.settleDeck mem) := by
  have hfirst : d.Accounts ((d.settle mem).recordStripes.settle mem) :=
    .step (settle_accounts mem _) (.step (recordStripes_accounts _) (settle_accounts mem d))
  have hlost : ∀ x : Dev, x.Accounts (if x.lostNeeds = [] then x
      else (x.lostNeeds.foldl Dev.loseMember x).settle mem) := fun x =>
    accounts_ite (accounts_refl x) (.step (settle_accounts mem _) (accounts_foldl loseMember_accounts _ x))
  unfold Dev.settleDeck
  generalize (d.settle mem).recordStripes.settle mem = a at hfirst ⊢
  have hmembers := hfirst.trans (hlost a)
  simp only []
  generalize (if a.lostNeeds = [] then a else (a.lostNeeds.foldl Dev.loseMember a).settle mem) = b at hmembers ⊢
  have hreported := hmembers.trans (reportUnmapped_accounts b)
  exact accounts_ite (.step (settle_accounts mem _) (.step (stopDeck_accounts _) hreported)) hreported

end Sys2Proof.Machine
end

section
/-! SUPPORT. The obligation on raw blocks and the catalogue (O60). It fails where a range is committed that its group accepts no
stripe for (R389): the report of a write that failed takes the write off every gathered block (R343, R370), so off the blocks of
the take's other ranges too, which the statement says stay as they were. -/

namespace Sys2Proof.Machine

/-- A write whose data the take still gathers, with the stray code. -/
def strayWrite (offset : Nat) : Writer :=
  { origin := .ring 0 0, cookie := 0, op := strayOp, fua := false, offset := offset, target := 5 }

/-- Block 0, of range 0. -/
def strayBlock : GBlk := { block := 0, data := [], atoms := [], writers := [strayWrite 0] }

/-- Block 196, of range 1. -/
def keptBlock : GBlk := { block := 196, data := [], atoms := [], writers := [strayWrite (65536 * 196)] }

/-- Block 196 once the write has been reported. -/
def bareBlock : GBlk := { block := 196, data := [], atoms := [] }

/-- The take once range 0 has left it. -/
def bareTake : Take := { id := 5, gather := [bareBlock], lost := true }

/-- One write has gathered a block of range 0 and one of range 1. -/
def strayTake : Take := { id := 5, gather := [strayBlock, keptBlock], since := [(0, 0)] }

def strayVolume : Volume := { id := 1, geometry := 0, groups := 1, members := [], positions := [], serials := [] }

/-- Range 0 of the take has waited its time, and the one surface of the group is not available. -/
def strayState : State :=
  { State.reset with
    dev := { time := 10 ^ 10, volume := some strayVolume, takes := [strayTake], unavailable := [(0xFF, 0)] } }

/-- The device once range 0 has left. -/
def strayEnd : Dev := strayState.dev.commitRange 5 0

theorem strayEnd_takes : strayEnd.takes = [bareTake] := by
  decide +kernel

theorem strayEnd_volume : strayEnd.volume = some strayVolume := by decide +kernel

theorem strayEnd_link : strayEnd.link = [] := by decide +kernel

theorem strayEnd_sq : strayEnd.sq = [(0, { deferred := [(strayWrite 0).error detNoSpace], unread := true, failed := [0] })] := by
  decide +kernel

theorem strayCommit : exec (.stripeCommit 5 0) strayState = .next (strayState.commit strayEnd) := by
  have hdue : strayState.dev.rangeDue 5 0 = true := by decide +kernel
  have hidle : strayEnd.settleDeck strayState.mem = strayEnd :=
    settleDeck_idle _ _ (by decide +kernel) (by decide +kernel) (by decide +kernel)
  change execStripeCommit 5 0 strayState = _
  rw [execStripeCommit, serve_eq, if_pos hdue]
  exact congrArg (fun d => Host.Outcome.next (strayState.commit d)) hidle

theorem strayEnd_not_accounted : ¬ strayEnd.Accounted := by
  rintro ((hv | hn | ⟨r, hr⟩ | ⟨l, hl⟩) | hw)
  · rw [strayEnd_volume] at hv
    cases hv
  · rw [strayEnd_takes] at hn
    exact absurd hn (by decide)
  · refine hr ?_
    rw [Dev.sqS, strayEnd_sq]
    by_cases h : r = 0
    · exact .inr ⟨_, by rw [h]; rfl, rfl, rfl⟩
    · exact .inl (by simp [tget, Ne.symm h])
  · exact hl (by rw [Dev.lk, strayEnd_link]; rfl)
  · rw [Dev.Gathers, strayEnd_takes] at hw
    exact (hw bareTake (by simp) bareBlock (by simp [bareTake])).2 rfl rfl

/-- A device whose first take 5 gathers block 196 alone, with its writer, is accounted for. -/
theorem accounted_of_keptBlock {d : Dev} {t : Take} (ht : d.take? 5 = some t) (hg : t.gather = [keptBlock]) : d.Accounted := by
  by_cases hn : 2 ≤ d.takes.length
  · exact .inl (.inr (.inl hn))
  · refine .inr fun u hu g hgu => ?_
    have hmem : t ∈ d.takes := List.mem_of_find?_eq_some ht
    have hut : u = t := by
      obtain ⟨x, hx⟩ := List.length_eq_one_iff.1 (by
        have hpos := List.length_pos_of_mem hmem
        omega : d.takes.length = 1)
      rw [hx, List.mem_singleton] at hu hmem
      rw [hu, hmem]
    rw [hut, hg, List.mem_singleton] at hgu
    subst hgu
    exact ⟨fun _ _ _ => rfl, fun _ => by simp [keptBlock]⟩

/-- Two devices that come to the same state are accounted for alike. -/
theorem accounts_of_commit {s : State} {d e : Dev} (h : s.commit d = s.commit e) : d.Accounts e :=
  have hdev : s.commit e = s.commit d := h.symm
  accounts_of_eq (congrArg (fun t : State => t.dev.takes) hdev) (congrArg (fun t : State => t.dev.volume) hdev)
    (congrArg (fun t : State => t.dev.sq) hdev) (congrArg (fun t : State => t.dev.link) hdev)

/-- Refutes O60: STRIPE_COMMIT of range 0 of take 5, for which no group has room, takes the failed write off block 196 of
range 1 too, and no other course of the commands in flight does so with this one report. -/
theorem not_rawBlocksAndTheCatalogue : ¬ Obligations.RawBlocksAndTheCatalogue := by
  unfold Obligations.RawBlocksAndTheCatalogue
  rintro ⟨-, -, -, hcommit, -⟩
  obtain ⟨d, t, hmakes, htake, -, hgather, -⟩ := hcommit strayState 5 0 strayTake strayVolume _ rfl rfl Iff.rfl
  have hkept : t.gather = [keptBlock] := by
    refine (hgather (.inr ⟨0, by decide +kernel, by decide +kernel⟩) (by decide +kernel)).trans ?_
    decide +kernel
  have hend : (d.settleDeck strayState.mem).Accounted :=
    (settleDeck_accounts strayState.mem d).accounted (accounted_of_keptBlock htake hkept)
  have hsame : strayState.commit (d.settleDeck strayState.mem) = strayState.commit strayEnd :=
    Host.Outcome.next.inj (hmakes.symm.trans strayCommit)
  exact strayEnd_not_accounted ((accounts_of_commit hsame).accounted hend)

end Sys2Proof.Machine
end

section
/-! SUPPORT. The frames of the pickup bus: which goes out next, and what a response to the frame before it does (O32). -/

namespace Sys2Proof.Machine

/-! ### Work on a pickup with no row being written -/

theorem rowNow_of_rows {d e : Dev} {p : Nat} (h : (e.pkS p).rows = (d.pkS p).rows) : e.rowNow p = d.rowNow p := by
  rw [Dev.rowNow, h]
  rfl

theorem rowNow_updPk (d : Dev) (p : Nat) (f : Pk → Pk) (h : (f (d.pkS p)).rows = (d.pkS p).rows) :
    (d.updPk p f).rowNow p = d.rowNow p :=
  rowNow_of_rows (by rw [pkS_updPk_self, h])

/-- With no row being written a cause of abandonment only voids the test writing of OPC (R276). -/
theorem abandonNow_idle {d : Dev} {p : Nat} (h : d.rowNow p = none) (cause : Nat) : d.abandonNow p cause = d.voidTest p := by
  rw [Dev.abandonNow, h]

theorem raiseFor_nil (d : Dev) (src code : Nat) (b : Bytes) : d.raiseFor [] src code b = d.raise src code b := by
  simp [Dev.raiseFor]

theorem onlyChanges_updTh (d : Dev) (f : Thermal → Thermal) {fs : List Fld} {es : List (Table × Nat)} {ps : List Part}
    (h : .thermal ∈ ps) : d.OnlyChanges (d.updTh f) fs es ps := by
  refine ⟨fun _ _ => rfl, fun t k _ => by cases t <;> rfl, fun p hp => ?_⟩
  cases p
  case thermal => exact absurd h hp
  all_goals simp [Part.Same, Dev.updTh]

section
variable {d e : Dev} {fs : List Fld} {es : List (Table × Nat)} {ps : List Part} (h : d.OnlyChanges e fs es ps)
include h

theorem Dev.OnlyChanges.rd {r : Row} {ix : List Nat} (hr : ⟨r, ix⟩ ∉ fs) : e.rd r ix = d.rd r ix := h.1 ⟨r, ix⟩ hr

theorem Dev.OnlyChanges.on {r : Row} {ix : List Nat} (hr : ⟨r, ix⟩ ∉ fs) : e.on r ix = d.on r ix := by
  rw [Dev.on, h.rd hr]
  rfl

theorem Dev.OnlyChanges.pkS {p : Nat} (hp : (.pk, p) ∉ es) : e.pkS p = d.pkS p := h.2.1 .pk p hp

theorem Dev.OnlyChanges.homingS {p : Nat} (hp : (.homing, p) ∉ es) : e.homingS p = d.homingS p := h.2.1 .homing p hp

theorem Dev.OnlyChanges.raised (hr : .raised ∉ ps) : e.raised = d.raised := h.2.2 .raised hr

end

theorem rd_wr_self (d : Dev) (r : Row) (ix : List Nat) (v : Nat) (h : v < 2 ^ r.spec.width) : (d.wr r ix v).rd r ix = v := by
  rw [rd_wr, if_pos ⟨rfl, rfl⟩, Nat.mod_eq_of_lt h]

/-! ### The next frame (R92) -/

/-- The frames that may go out on a bus, the next one first: the queue, the cyclic reads due, a NOP. -/
def Pk.toSend (k : Pk) : List Frame := k.frames ++ k.polls ++ [{ op := 0 }]

theorem toSend_head (k : Pk) : ∃ f, k.toSend.head? = some f := by
  rw [Pk.toSend, List.head?_append]
  cases (k.frames ++ k.polls).head? <;> exact ⟨_, rfl⟩

theorem toSend_head_of_frames {k : Pk} {f : Frame} {l : List Frame} (h : k.frames = f :: l) : k.toSend.head? = some f := by
  rw [Pk.toSend, h]
  rfl

section
variable (d : Dev) (p : Nat)

/-- The next frame leaves the queue or the reads due, and is then the one whose response is due. -/
theorem nextFrame_eq {f : Frame} (h : (d.pkS p).toSend.head? = some f) : ∃ k : Pk, k.sent = some f ∧
    d.nextFrame p = (d.updPk p fun _ => k).emit (.busFrame p (busFrameBits f.op f.reg f.data)) := by
  unfold Dev.nextFrame
  simp only []
  split
  case h_1 hframes =>
    rw [Pk.toSend, hframes] at h
    cases h
    exact ⟨_, rfl, rfl⟩
  case h_2 hframes hpolls =>
    rw [Pk.toSend, hframes, hpolls] at h
    cases h
    exact ⟨_, rfl, rfl⟩
  case h_3 hframes hpolls =>
    rw [Pk.toSend, hframes, hpolls] at h
    cases h
    exact ⟨_, rfl, rfl⟩

theorem nextFrame_sent {f : Frame} (h : (d.pkS p).toSend.head? = some f) : ((d.nextFrame p).pkS p).sent = some f := by
  obtain ⟨k, hsent, heq⟩ := nextFrame_eq d p h
  rw [heq]
  change ((d.updPk p fun _ => k).pkS p).sent = _
  rwa [pkS_updPk_self]

theorem nextFrame_out {f : Frame} (h : (d.pkS p).toSend.head? = some f) :
    (d.nextFrame p).out = d.out ++ [.busFrame p (busFrameBits f.op f.reg f.data)] := by
  obtain ⟨k, -, heq⟩ := nextFrame_eq d p h
  rw [heq]
  rfl

theorem onlyChanges_nextFrame {fs : List Fld} {es : List (Table × Nat)} {ps : List Part} (h : (.pk, p) ∈ es)
    (ho : .out ∈ ps) : d.OnlyChanges (d.nextFrame p) fs es ps := by
  obtain ⟨f, hf⟩ := toSend_head (d.pkS p)
  obtain ⟨k, -, heq⟩ := nextFrame_eq d p hf
  rw [heq]
  exact (onlyChanges_updPk d p _ h).trans (onlyChanges_emit _ _ ho)

theorem nextFrame_rd (r : Row) (ix : List Nat) : (d.nextFrame p).rd r ix = d.rd r ix :=
  (onlyChanges_nextFrame d p (fs := []) (List.mem_singleton_self _) (List.mem_singleton_self _)).rd (by simp)

end

/-! ### Cyclic reads fall due (R92) -/

/-- The STATUS register and TEMP are read at their turn. -/
theorem pickupBusPoll_reads (s : State) (p : Fin 32) (hp : s.dev.on .pkPresent [p.val] = true) :
    Makes (.pickupBusPoll p 0) s (s.dev.updPk p fun k => { k with polls := k.polls ++ [{ op := 2, reg := 0x09 }] }) ∧
    Makes (.pickupBusPoll p 2) s (s.dev.updPk p fun k => { k with polls := k.polls ++ [{ op := 2, reg := 0x0A }] }) := by
  constructor
  · change execPickupBusPoll p 0 s = _
    simp only [execPickupBusPoll, act_eq, hp]
    rfl
  · change execPickupBusPoll p 2 s = _
    simp only [execPickupBusPoll, act_eq, hp]
    rfl

/-- The MONITOR register of the next enabled spot is read, and the turn goes to the spot after it. -/
theorem pickupBusPoll_monitors (s : State) (p : Fin 32) (sp : Nat) (hp : s.dev.on .pkPresent [p.val] = true)
    (hsp : s.dev.nextMonitor p = some sp) :
    ∃ d, Makes (.pickupBusPoll p 1) s d ∧ (d.pkS p).polls = (s.dev.pkS p).polls ++ [{ op := 2, reg := 0x30 + sp }] ∧
      (d.pkS p).monNext = (sp + 1) % 16 ∧ s.dev.OnlyChanges d [] [(.pk, p.val)] [] := by
  have hmakes : Makes (.pickupBusPoll p 1) s
      ((s.dev.busRead p (0x30 + sp)).updPk p fun k => { k with monNext := (sp + 1) % 16 }) := by
    change execPickupBusPoll p 1 s = _
    simp only [execPickupBusPoll, act_eq, hp, hsp]
    rfl
  refine ⟨_, hmakes, ?polls, ?turn, ?frame⟩
  case polls => simp only [pkS_updPk_self, Dev.busRead]
  case turn => simp only [pkS_updPk_self]
  case frame => exact (onlyChanges_updPk s.dev p _ (by simp)).trans (onlyChanges_updPk _ p _ (by simp))

/-! ### Responses (R90, R94) -/

theorem crc8Bit_lt (crc : Nat) (bit : Bool) : crc8Bit crc bit < 2 ^ 8 := by
  have hshift : crc * 2 % 256 < 2 ^ 8 := Nat.mod_lt _ (by decide)
  unfold crc8Bit
  simp only []
  split
  · exact Nat.xor_lt_two_pow hshift (by decide)
  · exact hshift

theorem foldl_crc8Bit_lt (l : List Bool) (crc : Nat) (h : crc < 2 ^ 8) : l.foldl crc8Bit crc < 2 ^ 8 := by
  induction l generalizing crc with
  | nil => exact h
  | cons b l ih => exact ih _ (crc8Bit_lt crc b)

theorem crc8_lt (n v : Nat) : crc8 n v < 256 := foldl_crc8Bit_lt _ 0 (by decide)

/-- The body of a response, its CRC apart. -/
theorem busResponse_split (status addr data : Nat) (hs : status < 256) (ha : addr < 256) (hd : data < 2 ^ 16) :
    ∃ body, busResponse status addr data / 256 % 2 ^ 32 = body ∧ busResponse status addr data % 256 = crc8 32 body ∧
      body / 2 ^ 24 = status ∧ body / 2 ^ 16 % 256 = addr ∧ body % 65536 = data := by
  have hcrc := crc8_lt 32 (status * 2 ^ 24 + addr * 2 ^ 16 + data)
  have hresponse : busResponse status addr data =
      256 * (status * 2 ^ 24 + addr * 2 ^ 16 + data) + crc8 32 (status * 2 ^ 24 + addr * 2 ^ 16 + data) := rfl
  refine ⟨status * 2 ^ 24 + addr * 2 ^ 16 + data, ?_, ?_, ?_, ?_, ?_⟩ <;> omega

section
variable {s : State} {p : Fin 32} (hp : s.dev.on .pkPresent [p.val] = true)
include hp

/-- With no frame sent before, what arrives is no response. -/
theorem pickupBusFrame_first (response : Nat) (h : (s.dev.pkS p).sent = none) :
    Makes (.pickupBusFrame p response) s (s.dev.nextFrame p) := by
  change execPickupBusFrame p response s = _
  simp only [execPickupBusFrame, act_eq, hp, h]
  rfl

/-- A response with a good CRC that acknowledges the frame and echoes its address. -/
theorem pickupBusFrame_answered {f : Frame} (status data : Nat) (h : (s.dev.pkS p).sent = some f) (hs : status < 256)
    (hr : f.reg < 256) (hd : data < 2 ^ 16) (hans : answered f status f.reg = true) :
    Makes (.pickupBusFrame p (busResponse status f.reg data)) s
      (((s.dev.goodFrame p data f).statusByte p status).nextFrame p) := by
  obtain ⟨body, hbody, hcrc, hstatus, haddr, hdata⟩ := busResponse_split status f.reg data hs hr hd
  change execPickupBusFrame p _ s = _
  simp only [execPickupBusFrame, act_eq, hp, h, hbody, hcrc, hstatus, haddr, hdata, hans, beq_self_eq_true]
  rfl

/-- A response with a wrong CRC says nothing, and the frame has failed. -/
theorem pickupBusFrame_garbled {f : Frame} (response : Nat) (h : (s.dev.pkS p).sent = some f)
    (hcrc : crc8 32 (response / 256 % 2 ^ 32) ≠ response % 256) :
    Makes (.pickupBusFrame p response) s ((s.dev.badFrame p f).nextFrame p) := by
  change execPickupBusFrame p response s = _
  simp only [execPickupBusFrame, act_eq, hp, h, beq_false_of_ne hcrc]
  rfl

end

/-- The first frame of a bus. -/
theorem pickupBusFrame_sends (s : State) (p : Fin 32) (response : Nat) (hp : s.dev.on .pkPresent [p.val] = true)
    (h : (s.dev.pkS p).sent = none) :
    ∃ d f, Makes (.pickupBusFrame p response) s d ∧ (s.dev.pkS p).toSend.head? = some f ∧ (d.pkS p).sent = some f ∧
      d.out = s.dev.out ++ [.busFrame p (busFrameBits f.op f.reg f.data)] ∧
      s.dev.OnlyChanges d [] [(.pk, p.val)] [.out] := by
  obtain ⟨f, hf⟩ := toSend_head (s.dev.pkS p)
  exact ⟨_, f, pickupBusFrame_first hp response h, hf, nextFrame_sent _ _ hf, nextFrame_out _ _ hf,
    onlyChanges_nextFrame _ _ (by simp) (by simp)⟩

/-! ### Good responses (R92, R98) -/

/-- The frame has been acknowledged: the bus works, and a setting that it carried has gone out now. -/
def Dev.acknowledged (d : Dev) (p : Nat) (f : Frame) : Dev :=
  d.updPk p fun k => { k with
    busOk := true, settling := if f.setting then k.settling.map fun x => (d.time, x.2) else k.settling }

theorem goodFrame_eq (d : Dev) (p data : Nat) (f : Frame) : d.goodFrame p data f =
    if f.op = 2 then (d.acknowledged p f).busData p f.reg data else d.acknowledged p f := rfl

theorem acknowledged_sent (d : Dev) (p : Nat) (f : Frame) : ((d.acknowledged p f).pkS p).sent = (d.pkS p).sent := by
  rw [Dev.acknowledged, pkS_updPk_self]

theorem rowNow_acknowledged (d : Dev) (p : Nat) (f : Frame) : (d.acknowledged p f).rowNow p = d.rowNow p := by
  rw [Dev.acknowledged]
  exact rowNow_updPk d p _ rfl

/-- A reading taken during a write hold, with no row being written, changes the write window alone. -/
theorem onlyChanges_newReading (d : Dev) (p which : Nat) {fs : List Fld} {es : List (Table × Nat)} {ps : List Part}
    (hp : d.on .pkPresent [p] = true) (hhold : d.on .thHold [p] = true) (hrow : d.rowNow p = none)
    (hpk : (.pk, p) ∈ es) (ht : .thermal ∈ ps) (ho : .out ∈ ps) : d.OnlyChanges (d.newReading p which) fs es ps := by
  obtain ⟨f, hf⟩ : ∃ f, d.newReading p which =
      if (d.updTh f).inBand p which 0 then d.updTh f else (d.updTh f).abandonNow p abThermal :=
    ⟨_, by simp only [Dev.newReading, hp, hhold]; rfl⟩
  rw [hf, abandonNow_idle (d := d.updTh f) hrow]
  split
  · exact onlyChanges_updTh d f ht
  · exact (onlyChanges_updTh d f ht).trans (onlyChanges_voidTest _ p hpk ho)

theorem statusByte_quiet (d : Dev) (p status : Nat) (h : status.testBit 3 = false) :
    d.statusByte p status = d.wr .pkAlarm [p] 0 := by
  simp [Dev.statusByte, h]

/-- What a TEMP read returns during a write hold is shown. -/
theorem pickupBusFrame_temp (s : State) (p : Fin 32) (data : Nat) (hp : s.dev.on .pkPresent [p.val] = true)
    (hd : data < 2 ^ 16) (hsent : (s.dev.pkS p).sent = some { op := 2, reg := 0x0A })
    (hhold : s.dev.on .thHold [p.val] = true) (hrow : s.dev.rowNow p = none) :
    ∃ d, Makes (.pickupBusFrame p (busResponse 0x80 0x0A data)) s d ∧ d.rd .pkTemp [p.val] = data ∧
      d.rd .pkAlarm [p.val] = 0 ∧
      s.dev.OnlyChanges d [⟨.pkAlarm, [p.val]⟩, ⟨.pkTemp, [p.val]⟩] [(.pk, p.val)] [.thermal, .out] := by
  have hmakes := pickupBusFrame_answered hp 0x80 data hsent (by decide) (by decide) hd (by decide)
  rw [statusByte_quiet _ _ _ (by decide)] at hmakes
  let shown : Dev := (s.dev.acknowledged p { op := 2, reg := 0x0A }).wr .pkTemp [p.val] data
  have hreading (fs : List Fld) : shown.OnlyChanges (shown.newReading p 0) fs [(.pk, p.val)] [.thermal, .out] := by
    have hrow' : shown.rowNow p = none := (rowNow_acknowledged s.dev p _).trans hrow
    have hon : ∀ r, r ≠ .pkTemp → shown.on r [p.val] = s.dev.on r [p.val] := fun r hr => by
      rw [Dev.on, rd_wr, if_neg fun h => hr h.1]
      rfl
    exact onlyChanges_newReading shown p 0 ((hon _ (by decide)).trans hp) ((hon _ (by decide)).trans hhold) hrow'
      (by simp) (by simp) (by simp)
  refine ⟨_, hmakes, ?temp, ?alarm, ?frame⟩
  case temp =>
    rw [nextFrame_rd, rd_wr, if_neg (by simp)]
    exact ((hreading []).rd (by simp)).trans (rd_wr_self _ _ _ _ hd)
  case alarm => rw [nextFrame_rd, rd_wr_self _ _ _ _ (by decide)]
  case frame =>
    exact (onlyChanges_updPk s.dev p _ (by simp)).trans <| (onlyChanges_wr _ .pkTemp _ _ (by simp)).trans <|
      (hreading _).trans <| (onlyChanges_wr _ _ _ _ (by simp)).trans (onlyChanges_nextFrame _ _ (by simp) (by simp))

/-- The frame reads the STATUS register. -/
def Frame.readsStatus (f : Frame) : Bool := f.op == 2 && f.reg == 0x09

/-- A read of the STATUS register goes out next, and no other waits. -/
def Pk.readStatusNext (k : Pk) : Pk :=
  { k with frames := { op := 2, reg := 0x09 } :: k.frames.filter (!·.readsStatus), polls := k.polls.filter (!·.readsStatus) }

theorem statusByte_alarm (d : Dev) (p status : Nat) (f : Frame) (h : status.testBit 3 = true)
    (hsent : (d.pkS p).sent = some f) (hf : f.readsStatus = false) :
    d.statusByte p status = (d.wr .pkAlarm [p] 1).updPk p Pk.readStatusNext := by
  rw [Frame.readsStatus] at hf
  simp only [Dev.statusByte, h, if_true, pkS_wr, hsent, Option.map_some, Option.getD_some, hf]
  rfl

/-- An ALARM bit in the response to a write brings a read of the STATUS register next. -/
theorem pickupBusFrame_alarm (s : State) (p : Fin 32) (f : Frame) (data : Nat) (hp : s.dev.on .pkPresent [p.val] = true)
    (hd : data < 2 ^ 16) (hsent : (s.dev.pkS p).sent = some f) (hop : f.op = 1) (hreg : f.reg < 256) :
    ∃ d, Makes (.pickupBusFrame p (busResponse 0x88 f.reg data)) s d ∧ d.rd .pkAlarm [p.val] = 1 ∧
      (d.pkS p).sent.map (fun g => (g.op, g.reg)) = some (2, 0x09) ∧
      s.dev.OnlyChanges d [⟨.pkAlarm, [p.val]⟩] [(.pk, p.val)] [.out] := by
  have hans : answered f 0x88 f.reg = true := by
    rw [answered, beq_self_eq_true]
    decide
  have hmakes := pickupBusFrame_answered hp 0x88 data hsent (by decide) hreg hd hans
  rw [goodFrame_eq, if_neg (by omega), statusByte_alarm _ _ _ f (by decide) ((acknowledged_sent s.dev p f).trans hsent)
    (by simp [Frame.readsStatus, hop])] at hmakes
  refine ⟨_, hmakes, ?alarm, ?next, ?frame⟩
  case alarm =>
    rw [nextFrame_rd]
    exact rd_wr_self (s.dev.acknowledged p f) _ _ _ (by decide)
  case next =>
    rw [nextFrame_sent _ _ (toSend_head_of_frames (congrArg Pk.frames (pkS_updPk_self _ _ _)))]
    rfl
  case frame =>
    exact (onlyChanges_updPk s.dev p _ (by simp)).trans <| (onlyChanges_wr _ _ _ _ (by simp)).trans <|
      (onlyChanges_updPk _ p _ (by simp)).trans (onlyChanges_nextFrame _ _ (by simp) (by simp))

/-! ### Failed attempts (R94) -/

/-- A frame whose response has a wrong CRC is sent again, up to three times. -/
theorem pickupBusFrame_resends (s : State) (p : Fin 32) (response : Nat) (f : Frame)
    (hp : s.dev.on .pkPresent [p.val] = true) (hcrc : crc8 32 (response / 256 % 2 ^ 32) ≠ response % 256)
    (hsent : (s.dev.pkS p).sent = some f) (hresent : f.resent < 3) :
    ∃ d, Makes (.pickupBusFrame p response) s d ∧ (d.pkS p).sent = some { f with resent := f.resent + 1 } ∧
      d.out = s.dev.out ++ [.busFrame p (busFrameBits f.op f.reg f.data)] ∧
      s.dev.OnlyChanges d [] [(.pk, p.val)] [.out] := by
  have hmakes := pickupBusFrame_garbled hp response hsent hcrc
  rw [Dev.badFrame, if_pos hresent] at hmakes
  have hnext := toSend_head_of_frames (congrArg Pk.frames (pkS_updPk_self s.dev p fun k =>
    { k with frames := { f with resent := f.resent + 1 } :: k.frames }))
  have hout := nextFrame_out _ _ hnext
  exact ⟨_, hmakes, nextFrame_sent _ _ hnext, hout,
    (onlyChanges_updPk s.dev p _ (by simp)).trans (onlyChanges_nextFrame _ _ (by simp) (by simp))⟩

/-- The bus of pickup p has failed: it is in FAIL, and PICKUP_BUS_FAIL is raised. -/
def Dev.busFailed (d : Dev) (p op reg : Nat) : Dev :=
  ((d.updPk p fun k => { k with busOk := false }).wr .pkFail [p] 1).raise (32 * p + 23) evPickupBusFail [reg, op]

theorem busFails_idle (d : Dev) (p op reg : Nat) (h : d.rowNow p = none) :
    d.busFails [] p op reg = (d.busFailed p op reg).voidTest p := by
  have hrow : (d.busFailed p op reg).rowNow p = d.rowNow p := rowNow_updPk d p (fun k => { k with busOk := false }) rfl
  rw [← abandonNow_idle (hrow.trans h) abPbus]
  simp only [Dev.busFails, raiseFor_nil]
  rfl

/-- After the fourth failed attempt the bus is in FAIL. -/
theorem pickupBusFrame_fails (s : State) (p : Fin 32) (response : Nat) (f : Frame)
    (hp : s.dev.on .pkPresent [p.val] = true) (hcrc : crc8 32 (response / 256 % 2 ^ 32) ≠ response % 256)
    (hsent : (s.dev.pkS p).sent = some f) (hresent : f.resent = 3) (hrow : s.dev.rowNow p = none) :
    ∃ d, Makes (.pickupBusFrame p response) s d ∧ d.on .pkFail [p.val] = true ∧
      d.raised = s.dev.raised ++ [⟨32 * p.val + 23, 0x0301, [f.reg, f.op]⟩] ∧
      s.dev.OnlyChanges d [⟨.pkFail, [p.val]⟩] [(.pk, p.val)] [.raised, .out] := by
  have hmakes := pickupBusFrame_garbled hp response hsent hcrc
  rw [Dev.badFrame, if_neg (by omega), busFails_idle _ _ _ _ hrow] at hmakes
  have hrest (fs : List Fld) (ps : List Part) (ho : .out ∈ ps) : (s.dev.busFailed p f.op f.reg).OnlyChanges
      (((s.dev.busFailed p f.op f.reg).voidTest p).nextFrame p) fs [(.pk, p.val)] ps :=
    (onlyChanges_voidTest _ p (by simp) ho).trans (onlyChanges_nextFrame _ _ (by simp) ho)
  refine ⟨_, hmakes, ?fail, ?raised, ?frame⟩
  case fail =>
    have hset : (s.dev.busFailed p f.op f.reg).rd .pkFail [p.val] = 1 :=
      rd_wr_self (s.dev.updPk p fun k => { k with busOk := false }) .pkFail [p.val] 1 (by decide)
    exact beq_iff_eq.2 (((hrest [] [.out] (by simp)).rd (by simp)).trans hset)
  case raised => exact (hrest [] [.out] (by simp)).raised (by simp)
  case frame =>
    exact (onlyChanges_updPk s.dev p _ (by simp)).trans <| (onlyChanges_wr _ _ _ _ (by simp)).trans <|
      (onlyChanges_raise _ _ _ _ (by simp)).trans (hrest _ _ (by simp))

/-- Settles O32: the bus sends in R92's order, shows what it reads, and sends again what fails, a case for each response. -/
theorem pickupBusFrames : Obligations.PickupBusFrames := by
  unfold Obligations.PickupBusFrames
  exact ⟨pickupBusPoll_reads, pickupBusPoll_monitors, pickupBusFrame_sends, pickupBusFrame_temp, pickupBusFrame_alarm,
    pickupBusFrame_resends, pickupBusFrame_fails⟩

end Sys2Proof.Machine
end

section
/-! SUPPORT. The laser-enable masks and LDOFF_n (O33). -/

namespace Sys2Proof.Machine

/-! ### A pickup goes dark (R99, R102) -/

/-- WRITE 0 to register 0x08. -/
def Frame.laserOff : Frame := { op := 1, reg := 0x08 }

/-- The frame in progress and those that wait follow WRITE 0 to register 0x08, but writes of that register and NOPs. -/
def Pk.offFirst (k : Pk) : Pk :=
  { k with frames := .laserOff :: (k.sent.toList ++ k.frames).filter fun f => f.op != 0 && !(f.op == 1 && f.reg == 0x08),
           sent := none }

/-- The mask of pickup p is 0 and its spots are off, with no row being written and no homing in progress. -/
def Dev.dark (d : Dev) (p : Nat) : Dev :=
  (((d.holdReads p).wr .pkLaserMask [p] 0).voidTest p).updPk p Pk.offFirst

/-- No row is being written on pickup p, and its sled is not homing. -/
structure Dev.Quiet (d : Dev) (p : Nat) : Prop where
  row : d.rowNow p = none
  homing : d.homingS p = none

section
variable {d e : Dev} {p : Nat}

theorem quiet_of_idle (hrow : d.rowNow p = none) (hhome : d.homing = []) : d.Quiet p :=
  ⟨hrow, by rw [Dev.homingS, hhome]; rfl⟩

/-- What leaves a pickup's record and its homing alone leaves it quiet. -/
theorem Dev.Quiet.of_onlyChanges (h : d.Quiet p) {fs : List Fld} {es : List (Table × Nat)} {ps : List Part}
    (hc : d.OnlyChanges e fs es ps) (hpk : (.pk, p) ∉ es) (hhome : (.homing, p) ∉ es) : e.Quiet p :=
  ⟨(rowNow_of_rows (congrArg Pk.rows (hc.pkS hpk))).trans h.row, (hc.homingS hhome).trans h.homing⟩

theorem rowNow_holdReads (d : Dev) (p : Nat) : (d.holdReads p).rowNow p = d.rowNow p := by
  obtain ⟨l, hl⟩ := holdReads_pkS d p
  exact rowNow_of_rows (by rw [hl])

theorem railDark_idle (h : d.homingS p = none) : d.railDark p = d := by
  rw [Dev.homingS] at h
  rw [Dev.railDark, thas_eq_isSome, h]
  rfl

theorem onlyChanges_dark {fs : List Fld} {es : List (Table × Nat)} {ps : List Part} (hm : ⟨.pkLaserMask, [p]⟩ ∈ fs)
    (hpk : (.pk, p) ∈ es) (ho : .out ∈ ps) : d.OnlyChanges (d.dark p) fs es ps :=
  (onlyChanges_holdReads d p hpk).trans <| (onlyChanges_wr _ _ _ _ hm).trans <|
    (onlyChanges_voidTest _ p hpk ho).trans (onlyChanges_updPk _ p _ hpk)

theorem dark_mask : (d.dark p).rd .pkLaserMask [p] = 0 := by
  have hrest : ((d.holdReads p).wr .pkLaserMask [p] 0).OnlyChanges (d.dark p) [] [(.pk, p)] [.out] :=
    (onlyChanges_voidTest _ p (by simp) (by simp)).trans (onlyChanges_updPk _ p _ (by simp))
  exact (hrest.rd (by simp)).trans (rd_wr_self _ _ _ _ (by decide))

theorem dark_on (r : Row) (h : r ≠ .pkLaserMask) : (d.dark p).on r [p] = d.on r [p] := by
  have hframe : d.OnlyChanges (d.dark p) [⟨.pkLaserMask, [p]⟩] [(.pk, p)] [.out] :=
    onlyChanges_dark (by simp) (by simp) (by simp)
  exact hframe.on (by simp [h])

theorem darken_eq (h : d.Quiet p) :
    d.darken p = if d.on .pkPresent [p] then (d.dark p).nextFrame p else d.dark p := by
  have hrow : ((d.holdReads p).wr .pkLaserMask [p] 0).rowNow p = none := (rowNow_holdReads d p).trans h.row
  have hframe : d.OnlyChanges (((d.holdReads p).wr .pkLaserMask [p] 0).voidTest p) [⟨.pkLaserMask, [p]⟩] [(.pk, p)] [.out] :=
    (onlyChanges_holdReads d p (by simp)).trans <| (onlyChanges_wr _ _ _ _ (by simp)).trans
      (onlyChanges_voidTest _ p (by simp) (by simp))
  have hhome := (hframe.homingS (by simp)).trans h.homing
  rw [← dark_on .pkPresent (by decide)]
  simp only [Dev.darken, abandonNow_idle hrow, railDark_idle hhome]
  rfl

theorem onlyChanges_darken (h : d.Quiet p) {fs : List Fld} {es : List (Table × Nat)} {ps : List Part}
    (hm : ⟨.pkLaserMask, [p]⟩ ∈ fs) (hpk : (.pk, p) ∈ es) (ho : .out ∈ ps) : d.OnlyChanges (d.darken p) fs es ps := by
  rw [darken_eq h]
  split
  · exact (onlyChanges_dark hm hpk ho).trans (onlyChanges_nextFrame _ p hpk ho)
  · exact onlyChanges_dark hm hpk ho

theorem darken_mask (h : d.Quiet p) : (d.darken p).rd .pkLaserMask [p] = 0 := by
  rw [darken_eq h]
  split
  · rw [nextFrame_rd, dark_mask]
  · exact dark_mask

theorem darken_sent (h : d.Quiet p) (hp : d.on .pkPresent [p] = true) :
    ((d.darken p).pkS p).sent = some .laserOff := by
  rw [darken_eq h, if_pos hp]
  exact nextFrame_sent _ _ (toSend_head_of_frames (congrArg Pk.frames (pkS_updPk_self _ _ _)))

end

/-! ### Every pickup goes dark -/

/-- From d to e the pickups of l have gone dark, and nothing else has changed. -/
structure Dev.Darkened (d e : Dev) (l : List Nat) : Prop where
  masks : ∀ p ∈ l, e.rd .pkLaserMask [p] = 0
  sent : ∀ p ∈ l, d.on .pkPresent [p] = true → (e.pkS p).sent = some .laserOff
  frame : d.OnlyChanges e (l.map fun p => ⟨.pkLaserMask, [p]⟩) (l.map fun p => (.pk, p)) [.out]

theorem foldl_darken (l : List Nat) (d : Dev) (hl : l.Nodup) (h : ∀ p ∈ l, d.Quiet p) :
    d.Darkened (l.foldl Dev.darken d) l := by
  induction l generalizing d with
  | nil => exact ⟨by simp, by simp, onlyChanges_refl d _ _ _⟩
  | cons p l ih =>
    obtain ⟨hp, hl⟩ := List.nodup_cons.1 hl
    have hquiet := h p List.mem_cons_self
    have hfirst : d.OnlyChanges (d.darken p) [⟨.pkLaserMask, [p]⟩] [(.pk, p)] [.out] :=
      onlyChanges_darken hquiet (by simp) (by simp) (by simp)
    have hne : ∀ q ∈ l, q ≠ p := fun q hq he => hp (he ▸ hq)
    obtain ⟨hmasks, hsent, hframe⟩ := ih (d.darken p) hl fun q hq =>
      (h q (List.mem_cons_of_mem p hq)).of_onlyChanges hfirst (by simp [hne q hq]) (by simp)
    rw [List.foldl_cons]
    refine ⟨List.forall_mem_cons.2 ⟨?mask, hmasks⟩,
      List.forall_mem_cons.2 ⟨fun hon => ?sent, fun q hq hon => ?others⟩, ?frame⟩
    case mask => exact (hframe.rd (by simp [hp])).trans (darken_mask hquiet)
    case sent =>
      rw [hframe.pkS (by simp [hp])]
      exact darken_sent hquiet hon
    case others =>
      exact hsent q hq ((hfirst.on (by simp)).trans hon)
    case frame =>
      exact (hfirst.mono (by simp) (by simp) (List.Subset.refl _)).trans
        (hframe.mono (by simp) (by simp) (List.Subset.refl _))

/-- LDOFF_n falls with no row being written and no sled homing. -/
theorem ldoffNFall_darkens (s : State) (hhigh : s.dev.pins.ldoffLow = false) (hrow : ∀ p, s.dev.rowNow p = none)
    (hhome : s.dev.homing = []) :
    ∃ d, Makes .ldoffNFall s d ∧ d.pins.ldoffLow = true ∧ (∀ p, p < 32 → d.rd .pkLaserMask [p] = 0) ∧
      (∀ p, p < 32 → s.dev.on .pkPresent [p] = true → (d.pkS p).sent = some .laserOff) ∧
      (∀ w ∈ d.measureHeld, w.1.row ≠ .pkLaserMask) ∧
      d.raised = s.dev.raised ++ [⟨0x7F0, 0x0303, []⟩] ∧ (∀ r ix, r ≠ .pkLaserMask → d.rd r ix = s.dev.rd r ix) := by
  let low : Dev := (s.dev.updPins fun x => { x with ldoffLow := true }).dropHeldMasks
  have hmakes : Makes .ldoffNFall s (((List.range 32).foldl Dev.darken low).raise globalSrc evLaserOff) := by
    change execLdoffNFall s = _
    simp only [execLdoffNFall, act_eq, hhigh]
    rfl
  have hdark := foldl_darken (List.range 32) low List.nodup_range fun p _ => quiet_of_idle (hrow p) hhome
  generalize (List.range 32).foldl Dev.darken low = e at hmakes hdark
  obtain ⟨hmasks, hsent, hfields, -, hparts⟩ := hdark
  refine ⟨_, hmakes, ?pins, fun p hp => hmasks p (List.mem_range.2 hp), fun p hp => hsent p (List.mem_range.2 hp),
    fun w hw => ?held, ?raised, fun r ix hr => ?fields⟩
  case pins => exact congrArg Pins.ldoffLow (hparts .pins (by simp))
  case held =>
    have hheld : e.measureHeld = low.measureHeld := hparts .measureHeld (by simp)
    have hw' : w ∈ low.measureHeld := hheld ▸ hw
    exact bne_iff_ne.1 (List.mem_filter.1 hw').2
  case raised => exact congrArg (· ++ [_]) (hparts .raised (by simp))
  case fields => exact hfields ⟨r, ix⟩ (by simp [Ne.symm hr])

/-! ### Host writes of a mask (R80, R101) -/

theorem mem_addFrame (l : List Frame) (f : Frame) : f ∈ addFrame l f := by
  unfold addFrame
  split
  case isTrue h =>
    obtain ⟨g, hg, hsame⟩ := List.any_eq_true.1 h
    exact List.mem_map.2 ⟨g, hg, if_pos hsame⟩
  case isFalse => simp

theorem rd_busWrite (d : Dev) (p reg data : Nat) (r : Row) (ix : List Nat) : (d.busWrite p reg data).rd r ix = d.rd r ix := rfl

theorem rowNow_busWrite (d : Dev) (p reg data : Nat) : (d.busWrite p reg data).rowNow p = d.rowNow p := by
  rw [Dev.busWrite]
  exact rowNow_updPk d p _ rfl

/-- The mask of pickup p is as written, and its frame waits for the bus. -/
def Dev.maskWritten (d : Dev) (p mask : Nat) : Dev := ((d.holdReads p).wr .pkLaserMask [p] mask).busWrite p 0x08 mask

/-- The mask clears one of S0 to S14. -/
def Dev.spotLost (d : Dev) (p mask : Nat) : Bool :=
  (List.range 15).any fun s => (d.rd .pkLaserMask [p]).testBit s && !mask.testBit s

section
variable {d : Dev} {p : Nat} {mask : Nat}

theorem onlyChanges_maskWritten {fs : List Fld} {es : List (Table × Nat)} {ps : List Part} (hm : ⟨.pkLaserMask, [p]⟩ ∈ fs)
    (hpk : (.pk, p) ∈ es) : d.OnlyChanges (d.maskWritten p mask) fs es ps :=
  (onlyChanges_holdReads d p hpk).trans <| (onlyChanges_wr _ _ _ _ hm).trans (onlyChanges_updPk _ p _ hpk)

theorem maskWritten_mask (h : mask < 65536) : (d.maskWritten p mask).rd .pkLaserMask [p] = mask := by
  rw [Dev.maskWritten, rd_busWrite]
  exact rd_wr_self _ _ _ _ h

theorem rowNow_maskWritten : (d.maskWritten p mask).rowNow p = d.rowNow p := by
  rw [Dev.maskWritten, rowNow_busWrite]
  exact rowNow_holdReads d p

theorem maskWritten_frames (h : mask < 65536) :
    { op := 1, reg := 0x08, data := mask } ∈ ((d.maskWritten p mask).pkS p).frames := by
  rw [Dev.maskWritten, Dev.busWrite, pkS_updPk_self, Nat.mod_eq_of_lt h]
  exact mem_addFrame _ _

theorem voidTest_frames (d : Dev) (p : Nat) : ((d.voidTest p).pkS p).frames = (d.pkS p).frames := by
  unfold Dev.voidTest
  split
  · rw [pkS_updPk_self]
    rfl
  · rfl

theorem setMask_eq (d : Dev) (p mask : Nat) : d.setMask p mask =
    let e := if d.spotLost p mask then (d.maskWritten p mask).abandonNow p abLaser else d.maskWritten p mask
    if (d.rd .pkLaserMask [p]).testBit 0 ∧ !mask.testBit 0 then e.railDark p else e := rfl

/-- On a quiet pickup a new mask at most voids the test writing of OPC besides (R276). -/
theorem setMask_quiet (h : d.Quiet p) :
    d.setMask p mask = d.maskWritten p mask ∨ d.setMask p mask = (d.maskWritten p mask).voidTest p := by
  have hrow : (d.maskWritten p mask).rowNow p = none := rowNow_maskWritten.trans h.row
  have hframe : d.OnlyChanges (d.maskWritten p mask) [⟨.pkLaserMask, [p]⟩] [(.pk, p)] [.out] :=
    onlyChanges_maskWritten (by simp) (by simp)
  have hhome : (d.maskWritten p mask).homingS p = none := (hframe.homingS (by simp)).trans h.homing
  have hhome' : ((d.maskWritten p mask).voidTest p).homingS p = none :=
    ((onlyChanges_voidTest (fs := []) _ p (List.mem_singleton_self _) (List.mem_singleton_self _)).homingS (by simp)).trans hhome
  rw [setMask_eq, abandonNow_idle hrow]
  cases d.spotLost p mask
  · left
    simp only [Bool.false_eq_true, if_false, railDark_idle hhome, ite_self]
  · right
    simp only [if_true, railDark_idle hhome', ite_self]

end

section
variable (s : State) (p : Fin 32) (mask : Fin 65536) (hready : s.dev.ready = true)
include hready

/-- While LDOFF_n is low a write is discarded. -/
theorem laserMaskWrite_discarded (hlow : s.dev.pins.ldoffLow = true) : Makes (.laserMaskWrite p mask) s s.dev := by
  change execLaserMaskWrite p mask s = _
  rw [execLaserMaskWrite, hostAct_ready _ _ hready, if_pos hlow]

/-- A write that would light a spot under measurement waits. -/
theorem laserMaskWrite_waits (x : Nat) (hhigh : s.dev.pins.ldoffLow = false) (hx : x ∈ s.dev.spotsMeasured p)
    (hbit : mask.val.testBit x = true) :
    Makes (.laserMaskWrite p mask) s
      { s.dev with measureHeld := s.dev.measureHeld ++ [(⟨.pkLaserMask, [p.val]⟩, mask.val)] } := by
  have hany : (s.dev.spotsMeasured p).any (fun x => mask.val.testBit x) = true := List.any_eq_true.2 ⟨x, hx, hbit⟩
  change execLaserMaskWrite p mask s = _
  rw [execLaserMaskWrite, hostAct_ready _ _ hready, if_neg (by simp [hhigh]), if_pos hany]

theorem laserMaskWrite_sets (hmeasured : ∀ x ∈ s.dev.spotsMeasured p, mask.val.testBit x = false)
    (hhigh : s.dev.pins.ldoffLow = false) : Makes (.laserMaskWrite p mask) s (s.dev.setMask p mask) := by
  have hany : (s.dev.spotsMeasured p).any (fun x => mask.val.testBit x) = false :=
    List.any_eq_false.2 fun x hx => by simp [hmeasured x hx]
  change execLaserMaskWrite p mask s = _
  rw [execLaserMaskWrite, hostAct_ready _ _ hready, if_neg (by simp [hhigh]), if_neg (by simp [hany]), Dev.hostMask,
    if_neg (by simp [hhigh])]

/-- Any other write is the mask, and its frame waits for the bus. -/
theorem laserMaskWrite_quiet (hmeasured : ∀ x ∈ s.dev.spotsMeasured p, mask.val.testBit x = false)
    (hhigh : s.dev.pins.ldoffLow = false) (hrow : s.dev.rowNow p = none) (hhome : s.dev.homing = []) :
    ∃ d, Makes (.laserMaskWrite p mask) s d ∧ d.rd .pkLaserMask [p.val] = mask.val ∧
      { op := 1, reg := 0x08, data := mask.val } ∈ (d.pkS p).frames ∧
      s.dev.OnlyChanges d [⟨.pkLaserMask, [p.val]⟩] [(.pk, p.val)] [.out] := by
  have hmakes := laserMaskWrite_sets s p mask hready hmeasured hhigh
  have hframe : s.dev.OnlyChanges (s.dev.maskWritten p mask) [⟨.pkLaserMask, [p.val]⟩] [(.pk, p.val)] [.out] :=
    onlyChanges_maskWritten (by simp) (by simp)
  rcases setMask_quiet (mask := mask) (quiet_of_idle hrow hhome) with heq | heq <;> rw [heq] at hmakes
  · exact ⟨_, hmakes, maskWritten_mask mask.isLt, maskWritten_frames mask.isLt, hframe⟩
  · have hvoid (fs : List Fld) := onlyChanges_voidTest (s.dev.maskWritten p mask) p.val (fs := fs)
      (List.mem_singleton_self (Table.pk, p.val)) (List.mem_singleton_self Part.out)
    refine ⟨_, hmakes, ((hvoid []).rd (by simp)).trans (maskWritten_mask mask.isLt), ?_, hframe.trans (hvoid _)⟩
    rw [voidTest_frames]
    exact maskWritten_frames mask.isLt

end

/-- Settles O33: the fall of LDOFF_n darkens every pickup in turn (`foldl_darken`), and a host write of a mask is discarded,
waits, or is taken. -/
theorem laserMasks : Obligations.LaserMasks := by
  unfold Obligations.LaserMasks
  refine ⟨ldoffNFall_darkens, fun s => rfl, laserMaskWrite_discarded, ?waits, laserMaskWrite_quiet⟩
  case waits => exact fun s p mask x hready hhigh hx hbit => laserMaskWrite_waits s p mask hready x hhigh hx hbit

end Sys2Proof.Machine
end

section
/-! SUPPORT. Axes and traces after an update, as links of a chain of changes, and folds whose steps have each an element of its
own. -/

namespace Sys2Proof.Machine

section
variable {fs : List Fld} {es : List (Table × Nat)} {ps : List Part}

theorem onlyChanges_updAx (d : Dev) (p x : Nat) (f : Ax → Ax) (h : (.ax, axKey p x) ∈ es) :
    d.OnlyChanges (d.updAx p x f) fs es ps := by
  refine ⟨fun _ _ => rfl, fun t k hk => ?_, fun q _ => ?_⟩
  · cases t
    case ax =>
      have hne : k ≠ axKey p x := fun he => hk (he ▸ h)
      simp [Table.Same, Dev.updAx, hne]
    all_goals rfl
  · cases q <;> simp [Part.Same, Dev.updAx]

theorem onlyChanges_setTrace (d : Dev) (e : Nat) (t : Trace) (h : (.trace, e) ∈ es) :
    d.OnlyChanges { d with trace := tset d.trace e t } fs es ps := by
  refine ⟨fun _ _ => rfl, fun t k hk => ?_, fun q _ => ?_⟩
  · cases t
    case trace =>
      have hne : k ≠ e := fun he => hk (he ▸ h)
      simp [Table.Same, hne]
    all_goals rfl
  · cases q <;> simp [Part.Same]

end

theorem axS_updAx (d : Dev) (p x q y : Nat) (f : Ax → Ax) :
    (d.updAx p x f).axS q y = if axKey q y = axKey p x then f (d.axS p x) else d.axS q y := by
  simp [Dev.axS, Dev.updAx]

theorem axS_updAx_self (d : Dev) (p x : Nat) (f : Ax → Ax) : (d.updAx p x f).axS p x = f (d.axS p x) := by
  simp [axS_updAx]

/-- Steps for other elements leave the value at b. -/
theorem foldl_other {α β γ : Type} (P : α → γ) (f : α → β → α) (b : β) (hother : ∀ a c, c ≠ b → P (f a c) = P a)
    (l : List β) (hb : b ∉ l) (a : α) : P (l.foldl f a) = P a := by
  induction l generalizing a with
  | nil => rfl
  | cons c l ih =>
    obtain ⟨hc, hb⟩ := not_or.1 (List.mem_cons.not.1 hb)
    exact (ih hb _).trans (hother a c (Ne.symm hc))

/-- Of the steps of a fold, each for an element of its own, the value at b is that of b's step. -/
theorem foldl_own {α β γ : Type} (P F : α → γ) (f : α → β → α) (b : β)
    (hother : ∀ a c, c ≠ b → P (f a c) = P a ∧ F (f a c) = F a) (hown : ∀ a, P (f a b) = F a)
    (l : List β) (hl : l.Nodup) (hb : b ∈ l) (a : α) : P (l.foldl f a) = F a := by
  induction l generalizing a with
  | nil => cases hb
  | cons c l ih =>
    obtain ⟨hc, hl⟩ := List.nodup_cons.1 hl
    rw [List.foldl_cons]
    by_cases hcb : c = b
    · subst hcb
      exact (foldl_other P f c (fun a x hx => (hother a x hx).1) l hc _).trans (hown a)
    · have hb := (List.mem_cons.1 hb).resolve_left (Ne.symm hcb)
      exact (ih hl hb _).trans (hother a c hcb).2

end Sys2Proof.Machine
end

section
/-! SUPPORT. The arithmetic limits of an axis (O39) and the trace of an engine (O42). -/

namespace Sys2Proof.Machine

/-! ### Limits (R113, R114, R120) -/

/-- R113: an update brings the integrator within its limit from wherever it stood. -/
theorem integrate_within (i ki x lim : Int) (h : 0 ≤ lim) :
    -lim ≤ (integrate i ki x lim).1 ∧ (integrate i ki x lim).1 ≤ lim := by
  unfold integrate
  simp only []
  split_ifs <;> constructor <;> simp only [] <;> omega

/-- A value clamped to a limit lies within it. -/
theorem clamp_within (u lim : Int) (h : 0 ≤ lim) : -lim ≤ min (max u (-lim)) lim ∧ min (max u (-lim)) lim ≤ lim := by
  omega

theorem axisFlags_axS (d : Dev) (p x q y : Nat) (clamp outsat : Bool) :
    (d.axisFlags p x clamp outsat).axS q y = d.axS q y := by
  unfold Dev.axisFlags
  simp only []
  split_ifs <;> rfl

/-- R114: the output of a CLOSED axis is a value clamped to OLIM. -/
theorem closedSample_out (d : Dev) (p x : Nat) (v xs coil : Int) :
    ∃ u, ((d.closedSample p x v xs coil).axS p x).out =
      min (max u (-(d.rdS .cfOlim (d.bankOf (axIx p x))))) (d.rdS .cfOlim (d.bankOf (axIx p x))) := by
  unfold Dev.closedSample
  simp only []
  rw [axisFlags_axS, axS_updAx_self]
  exact ⟨_, rfl⟩

/-- Settles O39: the integrator by the cases of its update, the output as a clamped value (`closedSample_out`). -/
theorem integratorAndOutputStayInTheirLimits : Obligations.IntegratorAndOutputStayInTheirLimits := by
  unfold Obligations.IntegratorAndOutputStayInTheirLimits
  refine ⟨integrate_within, fun d p x v xs coil h => ?_⟩
  obtain ⟨u, hout⟩ := closedSample_out d p x v xs coil
  rw [hout]
  exact clamp_within u _ h

/-! ### A trace from ARM to DONE (R139, R140) -/

section
variable (s : State) (e : Fin 8)

theorem traceArm_fills (hready : s.dev.ready = true) :
    ∃ d, Makes (.traceArm e) s d ∧ d.rd .trState [e.val] = trFilling ∧
      (tget ({} : Trace) d.trace e).records = [] ∧ (tget ({} : Trace) d.trace e).count = 0 ∧
      (tget ({} : Trace) d.trace e).pretrig = s.dev.rd .trPretrig [e.val] ∧
      s.dev.OnlyChanges d [⟨.trState, [e.val]⟩] [(.trace, e.val)] [] := by
  have hmakes : execTraceArm e s = .next (s.commit (s.dev.armTrace e)) := hostAct_ready s _ hready
  refine ⟨s.dev.armTrace e, hmakes, rd_wr_self _ _ _ _ (by decide), ?records, ?count, ?pretrig, ?frame⟩
  case records => simp [Dev.armTrace]
  case count => simp [Dev.armTrace]
  case pretrig => simp [Dev.armTrace]
  case frame => exact (onlyChanges_setTrace _ _ _ (by simp)).trans (onlyChanges_wr _ _ _ _ (by simp))

theorem traceArmed_waits (hstate : s.dev.rd .trState [e.val] = trFilling)
    (hcount : (tget ({} : Trace) s.dev.trace e).pretrig ≤ (tget ({} : Trace) s.dev.trace e).count) :
    ∃ d, Makes (.traceArmed e) s d ∧ d.rd .trState [e.val] = trArmed ∧
      (tget ({} : Trace) d.trace e).records = (tget ({} : Trace) s.dev.trace e).records ∧
      s.dev.OnlyChanges d [⟨.trState, [e.val]⟩] [(.trace, e.val)] [] := by
  refine ⟨_, ?makes, rd_wr_self _ _ _ _ (by decide), ?records,
    (onlyChanges_setTrace _ e { tget ({} : Trace) s.dev.trace e with count := 0, armedHit := none } (by simp)).trans
      (onlyChanges_wr _ _ _ _ (by simp))⟩
  case makes =>
    change execTraceArmed e s = _
    rw [execTraceArmed, act_eq]
    simp only []
    rw [if_pos ⟨hstate, hcount⟩]
  case records => simp

theorem traceForce_hits (hready : s.dev.ready = true) (hstate : s.dev.rd .trState [e.val] = trArmed)
    (hhit : (tget ({} : Trace) s.dev.trace e).armedHit = none) :
    ∃ d, Makes (.traceForce e) s d ∧
      (tget ({} : Trace) d.trace e).armedHit = some (s.dev.rd .trKind [e.val] + 0x80) ∧
      s.dev.OnlyChanges d [] [(.trace, e.val)] [] := by
  refine ⟨_, ?makes, ?hit, onlyChanges_setTrace _ e
    { tget ({} : Trace) s.dev.trace e with armedHit := some (s.dev.rd .trKind [e.val] + 0x80) } (by simp)⟩
  case makes =>
    change execTraceForce e s = _
    rw [execTraceForce, hostAct_ready _ _ hready]
    simp only []
    rw [if_pos ⟨hstate, by rw [hhit]; rfl⟩]
  case hit => simp

/-- R140: a trace that is not ARMED is not forced. -/
theorem traceForce_ignored (hstate : s.dev.rd .trState [e.val] ≠ trArmed) : Makes (.traceForce e) s s.dev := by
  change execTraceForce e s = _
  rw [execTraceForce]
  cases hready : s.dev.ready with
  | false => exact hostAct_not_ready _ _ hready
  | true =>
    rw [hostAct_ready _ _ hready]
    simp only []
    rw [if_neg fun h => hstate h.1]

theorem traceDone_ends (hstate : s.dev.rd .trState [e.val] = trTriggered)
    (hcount : 8191 ≤ (tget ({} : Trace) s.dev.trace e).pretrig + (tget ({} : Trace) s.dev.trace e).count) :
    Makes (.traceDone e) s ((s.dev.wr .trState [e.val] trDone).raise 0x7F0 0x0409 [e.val]) := by
  change execTraceDone e s = _
  rw [execTraceDone, act_eq]
  simp only []
  rw [if_pos ⟨hstate, hcount⟩]
  rfl

end

/-- Settles O42: each command in the state of the trace for which it is meant, and TRACE_FORCE in every other. -/
theorem tracesGoFromArmToDone : Obligations.TracesGoFromArmToDone := by
  unfold Obligations.TracesGoFromArmToDone
  exact ⟨traceArm_fills, traceArmed_waits, traceForce_hits, traceForce_ignored, traceDone_ends⟩

end Sys2Proof.Machine
end

section
/-! SUPPORT. The output edge of a loop engine (O41) and the settings that wait for a sample boundary (O40). -/

namespace Sys2Proof.Machine

/-! ### Outputs at edge 200 (R106, R115, R176) -/

/-- The outputs of pickup p, or none for an absent one (R95). -/
def Dev.pickupWritten (d : Dev) (p : Nat) : Dev := if d.on .pkPresent [p] then d.pickupOut p else d.noOutput p

/-- The outputs of the pickups of engine e. -/
def Dev.pickupsWritten (d : Dev) (e : Nat) : Dev :=
  (List.range 4).foldl (fun (d : Dev) j => d.pickupWritten (4 * e + j)) d

/-- Every output of engine e. -/
def Dev.outputsWritten (d : Dev) (e : Nat) : Dev :=
  (List.range 2).foldl (fun (d : Dev) h => d.spindleOut (2 * e + h)) (d.pickupsWritten e)

/-- The coil set-point that an axis's output gives. -/
def Ax.setCoil (k : Ax) : Int := if k.tripped then 0 else setPoint k.out

/-- One change of every axis of a pickup. -/
theorem axS_updAxes (d : Dev) (p q y : Nat) (f : Ax → Ax) (hy : y < 4) :
    ((List.range 4).foldl (fun (d : Dev) x => d.updAx p x f) d).axS q y = if q = p then f (d.axS p y) else d.axS q y := by
  split
  case isTrue h =>
    subst h
    refine foldl_own (fun d : Dev => d.axS q y) (fun d => f (d.axS q y)) _ y (fun d x hx => ?_) (fun d => ?_) _
      List.nodup_range (List.mem_range.2 hy) d
    · have hne : axKey q y ≠ axKey q x := fun he => hx (by unfold axKey at he; omega)
      simp [axS_updAx, hne]
    · simp [axS_updAx]
  case isFalse h =>
    have hother (d : Dev) (x : Nat) (hx : x < 4) : (d.updAx p x f).axS q y = d.axS q y := by
      have hne : axKey q y ≠ axKey p x := by unfold axKey; omega
      rw [axS_updAx, if_neg hne]
    change (((((d.updAx p 0 f).updAx p 1 f).updAx p 2 f).updAx p 3 f).axS q y) = _
    rw [hother _ 3 (by decide), hother _ 2 (by decide), hother _ 1 (by decide), hother _ 0 (by decide)]

/-- What the axes of all pickups are once those of pickup p are written. -/
theorem pickupWritten_axS (d : Dev) (p q y : Nat) (hy : y < 4) : (d.pickupWritten p).axS q y =
    if q = p then { d.axS p y with coil := if d.on .pkPresent [p] then (d.axS p y).setCoil else 0 } else d.axS q y := by
  unfold Dev.pickupWritten
  cases d.on .pkPresent [p] with
  | true => exact axS_updAxes d p q y (fun k => { k with coil := k.setCoil }) hy
  | false => exact axS_updAxes d p q y (fun k => { k with coil := 0 }) hy

/-- What a pickup's outputs leave alone, besides the axes and the sled. -/
theorem pickupWritten_kept {γ : Type} (P : Dev → γ) (hax : ∀ d a, P { d with ax := a } = P d)
    (hsled : ∀ d a, P { d with sled := a } = P d) (d : Dev) (p : Nat) : P (d.pickupWritten p) = P d := by
  unfold Dev.pickupWritten
  split
  · exact (hsled _ _).trans (foldl_kept P _ (fun d x => hax d _) _ d)
  · exact (hsled _ _).trans (foldl_kept P _ (fun d x => hax d _) _ d)

theorem pickupsWritten_kept {γ : Type} (P : Dev → γ) (hax : ∀ d a, P { d with ax := a } = P d)
    (hsled : ∀ d a, P { d with sled := a } = P d) (d : Dev) (e : Nat) : P (d.pickupsWritten e) = P d :=
  foldl_kept P _ (fun d _ => pickupWritten_kept P hax hsled d _) _ d

/-- What the outputs of the spindles leave alone. -/
theorem outputsWritten_pickups {γ : Type} (P : Dev → γ) (hspin : ∀ d a, P { d with spin := a } = P d) (d : Dev) (e : Nat) :
    P (d.outputsWritten e) = P (d.pickupsWritten e) := foldl_kept P _ (fun d _ => hspin d _) _ _

theorem outputsWritten_regs (d : Dev) (e : Nat) : (d.outputsWritten e).regs = d.regs :=
  (outputsWritten_pickups Dev.regs (fun _ _ => rfl) d e).trans (pickupsWritten_kept Dev.regs (fun _ _ => rfl) (fun _ _ => rfl) d e)

theorem outputsWritten_raised (d : Dev) (e : Nat) : (d.outputsWritten e).raised = d.raised :=
  (outputsWritten_pickups Dev.raised (fun _ _ => rfl) d e).trans
    (pickupsWritten_kept Dev.raised (fun _ _ => rfl) (fun _ _ => rfl) d e)

theorem pickupsWritten_coil (d : Dev) (e j x : Nat) (hj : j < 4) (hx : x < 4) :
    ((d.pickupsWritten e).axS (4 * e + j) x).coil =
      if d.on .pkPresent [4 * e + j] then (d.axS (4 * e + j) x).setCoil else 0 := by
  refine foldl_own (fun d : Dev => (d.axS (4 * e + j) x).coil)
    (fun d => if d.on .pkPresent [4 * e + j] then (d.axS (4 * e + j) x).setCoil else 0) _ j (fun d i hi => ?other)
    (fun d => ?own) _ List.nodup_range (List.mem_range.2 hj) d
  case own => simp [pickupWritten_axS _ _ _ _ hx]
  case other =>
    have hne : ¬ j = i := Ne.symm hi
    have hon : (d.pickupWritten (4 * e + i)).on .pkPresent [4 * e + j] = d.on .pkPresent [4 * e + j] :=
      pickupWritten_kept (fun d => d.on .pkPresent [4 * e + j]) (fun _ _ => rfl) (fun _ _ => rfl) d _
    simp [pickupWritten_axS _ _ _ _ hx, hne, hon]

theorem outputsWritten_coil (d : Dev) (e j x : Nat) (hj : j < 4) (hx : x < 4) (hp : d.on .pkPresent [4 * e + j] = true) :
    ((d.outputsWritten e).axS (4 * e + j) x).coil = (d.axS (4 * e + j) x).setCoil := by
  rw [outputsWritten_pickups (fun d => d.axS (4 * e + j) x) (fun _ _ => rfl), pickupsWritten_coil d e j x hj hx, if_pos hp]

theorem spinS_updSpin (d : Dev) (n m : Nat) (f : Spin → Spin) :
    (d.updSpin n f).spinS m = if m = n then f (d.spinS n) else d.spinS m := by
  simp [Dev.spinS, Dev.updSpin]

theorem outputsWritten_duties (d : Dev) (e h : Nat) (hh : h < 2) :
    ((d.outputsWritten e).spinS (2 * e + h)).written = (d.spinS (2 * e + h)).duties := by
  have hkept : (d.pickupsWritten e).spinS (2 * e + h) = d.spinS (2 * e + h) :=
    pickupsWritten_kept (fun d => d.spinS (2 * e + h)) (fun _ _ => rfl) (fun _ _ => rfl) d e
  rw [← hkept]
  refine foldl_own (fun d : Dev => (d.spinS (2 * e + h)).written) (fun d => (d.spinS (2 * e + h)).duties) _ h
    (fun d i hi => ?other) (fun d => ?own) _ List.nodup_range (List.mem_range.2 hh) _
  case own => simp [Dev.spindleOut, spinS_updSpin]
  case other =>
    have hne : ¬ h = i := Ne.symm hi
    simp [Dev.spindleOut, spinS_updSpin, hne]

theorem loopOutput_makes (s : State) (e : Fin 8) (complete : Bool) : Makes (.loopOutput e complete) s
    (if complete then s.dev.outputsWritten e
      else ((s.dev.outputsWritten e).wr .lpOverrun [e.val] 1).raise globalSrc evLoopOverrun [e.val]) := rfl

theorem loopOutput_writes (s : State) (e : Fin 8) (j x : Nat) (hj : j < 4) (hx : x < 4)
    (hp : s.dev.on .pkPresent [4 * e.val + j] = true) :
    ∃ d, Makes (.loopOutput e true) s d ∧
      (d.axS (4 * e.val + j) x).coil =
        (if (s.dev.axS (4 * e.val + j) x).tripped then 0 else setPoint (s.dev.axS (4 * e.val + j) x).out) ∧
      (d.spinS (2 * e.val)).written = (s.dev.spinS (2 * e.val)).duties ∧
      (d.spinS (2 * e.val + 1)).written = (s.dev.spinS (2 * e.val + 1)).duties ∧
      d.regs = s.dev.regs ∧ d.raised = s.dev.raised :=
  ⟨_, loopOutput_makes s e true, outputsWritten_coil s.dev e j x hj hx hp, outputsWritten_duties s.dev e 0 (by decide),
    outputsWritten_duties s.dev e 1 (by decide),
    outputsWritten_regs s.dev e, outputsWritten_raised s.dev e⟩

theorem loopOutput_overruns (s : State) (e : Fin 8) :
    ∃ d, Makes (.loopOutput e false) s d ∧ d.on .lpOverrun [e.val] = true ∧
      d.raised = s.dev.raised ++ [⟨0x7F0, 0x0401, [e.val]⟩] ∧
      (∀ r ix, r ≠ .lpOverrun → d.rd r ix = s.dev.rd r ix) := by
  have hmakes : Makes (.loopOutput e false) s
    (((s.dev.outputsWritten e).wr .lpOverrun [e.val] 1).raise globalSrc evLoopOverrun [e.val]) := loopOutput_makes s e false
  have hregs := outputsWritten_regs s.dev e
  have hraised := outputsWritten_raised s.dev e
  generalize s.dev.outputsWritten e = d at hmakes hregs hraised
  refine ⟨_, hmakes, ?overrun, congrArg (· ++ [_]) hraised, fun r ix hr => ?kept⟩
  case overrun => exact beq_iff_eq.2 (rd_wr_self d .lpOverrun [e.val] 1 (by decide))
  case kept =>
    refine (rd_wr d .lpOverrun r [e.val] ix 1).trans ?_
    rw [if_neg fun h => hr h.1, Dev.rd, hregs]
    rfl

/-- Settles O41: the sample by the command's own definition, the outputs as folds of which each step has a pickup or a spindle of
its own (`foldl_own`). -/
theorem samplesAndOutputs : Obligations.SamplesAndOutputs := by
  unfold Obligations.SamplesAndOutputs
  exact ⟨fun s e xs ys => rfl, loopOutput_writes, loopOutput_overruns⟩

/-! ### Swaps of banks (R118, R119) -/

/-- R119: writes of one bit each, for the axes of a list: a bit that is set already stays. -/
theorem foldl_request_rd (e a : Nat) (l : List Nat) (d : Dev) :
    (l.foldl (fun (d : Dev) a => d.wr .bankPending [e, a] 1) d).rd .bankPending [e, a] =
      if a ∈ l then 1 else d.rd .bankPending [e, a] := by
  induction l generalizing d with
  | nil => simp
  | cons b l ih =>
    rw [List.foldl_cons, ih, rd_wr]
    by_cases hb : a = b
    · subst hb
      simp [show Row.bankPending.spec.width = 1 from rfl]
    · simp [hb]

theorem bankSwap_requests (s : State) (e : Fin 8) (mask : Nat) (hready : s.dev.ready = true) :
    ∃ d, Makes (.bankSwap e mask) s d ∧
      (∀ a, a < 16 → d.rd .bankPending [e.val, a] = if mask.testBit a then 1 else s.dev.rd .bankPending [e.val, a]) ∧
      (∀ r ix, r ≠ .bankPending → d.rd r ix = s.dev.rd r ix) := by
  have hmakes : execBankSwap e mask s =
      .next (s.commit ((bitsOf mask 16).foldl (fun (d : Dev) a => d.wr .bankPending [e.val, a] 1) s.dev)) :=
    hostAct_ready s _ hready
  refine ⟨_, hmakes, fun a ha => ?_, fun r ix hr => ?_⟩
  · rw [foldl_request_rd]
    simp [bitsOf, ha]
  · refine foldl_kept (fun d : Dev => d.rd r ix) _ (fun d a => ?_) _ s.dev
    exact (rd_wr d .bankPending r [e.val, a] ix 1).trans (if_neg fun h => hr h.1)

/-- The bank in use for an axis and its pending swap, after the boundary. -/
def Dev.swapped (d : Dev) (e a : Nat) : Nat × Nat :=
  if d.on .bankPending [e, a] then ((1 - d.rd .bankActive [e, a]) % 2, 0)
  else (d.rd .bankActive [e, a], d.rd .bankPending [e, a])

/-- R118: at the boundary each axis of the engine is swapped by its own request. -/
theorem applySwaps_rd (d : Dev) (e a : Nat) (ha : a < 16) :
    ((d.applySwaps e).rd .bankActive [e, a], (d.applySwaps e).rd .bankPending [e, a]) = d.swapped e a := by
  refine foldl_own (fun d : Dev => (d.rd .bankActive [e, a], d.rd .bankPending [e, a])) (fun d => d.swapped e a) _ a
    (fun d b hb => ?other) (fun d => ?own) _ List.nodup_range (List.mem_range.2 ha) d
  case own =>
    unfold Dev.swapped
    split
    · simp [rd_wr, show Row.bankActive.spec.width = 1 from rfl]
    · rfl
  case other =>
    have hne : ¬ a = b := Ne.symm hb
    unfold Dev.swapped
    split <;> simp [Dev.on, rd_wr, hne]

theorem applySwaps_swaps (d : Dev) (e a : Nat) (ha : a < 16) :
    (d.on .bankPending [e, a] = true → d.rd .bankActive [e, a] ≤ 1 →
      (d.applySwaps e).rd .bankActive [e, a] = 1 - d.rd .bankActive [e, a] ∧ (d.applySwaps e).rd .bankPending [e, a] = 0) ∧
    (d.on .bankPending [e, a] = false →
      (d.applySwaps e).rd .bankActive [e, a] = d.rd .bankActive [e, a]) := by
  have hrd := applySwaps_rd d e a ha
  refine ⟨fun hon hle => ?_, fun hoff => ?_⟩
  · rw [Dev.swapped, if_pos hon, Nat.mod_eq_of_lt (by omega)] at hrd
    exact Prod.mk.inj hrd
  · rw [Dev.swapped, if_neg (by simp [hoff])] at hrd
    exact (Prod.mk.inj hrd).1

/-! ### MODE and the table of an axis (R116, R131) -/

section
variable (s : State) (e : Fin 8) (a : Fin 16) (hready : s.dev.ready = true)
include hready

theorem axisModeWrite_waits (m : Fin 4) (hmeasured : s.dev.axisMeasured (4 * e.val + a.val / 4) (a.val % 4) = false) :
    Makes (.axisModeWrite e a m) s
      (s.dev.updAx (4 * e.val + a.val / 4) (a.val % 4) fun k => { k with modePending := some m.val }) := by
  change execAxisModeWrite e a m s = _
  rw [execAxisModeWrite, hostAct_ready _ _ hready]
  simp only []
  rw [if_neg (by simp [hmeasured])]

theorem ffClear_requests : Makes (.ffClear e a) s
    (s.dev.updAx (4 * e.val + a.val / 4) (a.val % 4) fun k => { k with clearPending := true }) := by
  change execFfClear e a s = _
  rw [execFfClear, hostAct_ready _ _ hready]

/-- R131: a write of the table of an axis that learns is discarded. -/
theorem rroWrite_makes (w : Fin 384) (v : Nat) : Makes (.rroWrite e a w v) s
    (if s.dev.on .axFfLearn [e.val, a.val] then s.dev else s.dev.wr .axRro [e.val, a.val, w.val] v) := by
  change execRroWrite e a w v s = _
  rw [execRroWrite, hostAct_ready _ _ hready]

end

/-- Settles O40: the requests bit by bit, the boundary's swaps axis by axis (`foldl_own`), and the other writes as they stand. -/
theorem engineSettingsWaitForTheBoundary : Obligations.EngineSettingsWaitForTheBoundary := by
  unfold Obligations.EngineSettingsWaitForTheBoundary
  exact ⟨bankSwap_requests, applySwaps_swaps, fun s e a m hready hmeasured => axisModeWrite_waits s e a hready m hmeasured,
    ffClear_requests, fun s e a w v hready => rroWrite_makes s e a hready w v⟩

end Sys2Proof.Machine
end

section
/-! SUPPORT. SPINDLE_SET and TRACE_READ (O31). -/

namespace Sys2Proof.Machine

/-! ### A command of a ring that starts and ends -/

/-- No command of its origin is in flight once a command of a ring has ended. -/
theorem finish_ring_cmd (d : Dev) (r seq cls det : Nat) : (d.finish (.ring r seq) cls det).cmd (.ring r seq) = none := by
  cases h : d.cmd (.ring r seq) with
  | none => rwa [Dev.finish, h]
  | some c =>
    rw [finish_ring d r seq cls det 0 c h]
    exact List.find?_eq_none.2 fun x hx => by simpa using (List.mem_filter.1 hx).2

theorem finish_ring_rd (d : Dev) (r seq cls det : Nat) (f : Row) (ix : List Nat) :
    (d.finish (.ring r seq) cls det).rd f ix = d.rd f ix := by
  unfold Dev.finish
  split <;> rfl

theorem started_cmd_isSome (d : Dev) (r : Nat) (c : Cmd) : ((d.started r c).cmd (d.nextOrigin r)).isSome = true := by
  rw [Dev.cmd, started_cmds, List.find?_isSome]
  exact ⟨d.startedCmd r c, by simp, beq_iff_eq.2 rfl⟩

/-- A change of a command that keeps its origin leaves it in flight. -/
theorem updCmd_cmd_isSome {d : Dev} {o : Origin} {f : Cmd → Cmd} (hf : ∀ c, (f c).origin = c.origin)
    (h : (d.cmd o).isSome = true) : ((d.updCmd o f).cmd o).isSome = true := by
  obtain ⟨c, hc, ho⟩ := List.find?_isSome.1 h
  refine List.find?_isSome.2 ⟨f c, List.mem_map.2 ⟨c, hc, if_pos (beq_iff_eq.1 ho)⟩, ?_⟩
  rwa [hf]

/-! ### SPINDLE_SET (R185, R186) -/

/-- One spindle of the command takes its target. -/
def Dev.spindleTakes (accel target : Nat) (d : Dev) (n : Nat) : Dev :=
  (if accel = 0 then d else d.wr .spAccel [n] (takenAccel accel)).setTarget n target

/-- What a SPINDLE_SET does once it has started. -/
def Dev.spindleStart (d : Dev) (o : Origin) (wait : Bool) (mask target accel : Nat) : Dev :=
  if (bitsOf mask 16).any fun n => d.rd .spCmdsrc [n] != 0 then d.refuse o clsResource detPinMode
  else
    let e := (bitsOf mask 16).foldl (Dev.spindleTakes accel (takenTarget target)) d
    if wait then e.updCmd o fun c => { c with phase := .running } else e.finish o clsOk 0

theorem spindleSet_starts (s : State) (r : Fin 256) (cookie : Nat) (wait : Bool) (mask target accel : Nat)
    (hs : s.dev.mayStart r) : MakesThenRuns (.spindleSet r cookie wait mask target accel) s
      ((s.dev.started r { origin := .ring r 0, op := 0x1A, cookie := cookie, wait := wait, arg := mask }).spindleStart
        (s.dev.nextOrigin r) wait mask target accel) :=
  makesThenRuns_of_mayStart (k := fun d o => d.spindleStart o wait mask target accel) rfl hs

theorem mem_bitsOf {mask n : Nat} : n ∈ bitsOf mask 16 ↔ n < 16 ∧ mask.testBit n = true := by
  simp [bitsOf]

theorem bitsOf_two_pow (n : Fin 16) : bitsOf (2 ^ n.val) 16 = [n.val] := by
  revert n
  decide

section
variable {d : Dev} {o : Origin} {wait : Bool} {mask target accel : Nat}

/-- R141: one spindle that does not follow the rings refuses the whole command (log entry 89). -/
theorem spindleStart_refused (h : ∃ n, n < 16 ∧ mask.testBit n = true ∧ d.rd .spCmdsrc [n] ≠ 0) :
    d.spindleStart o wait mask target accel = d.finish o clsResource 0x0001 := by
  obtain ⟨n, hn, hbit, hsrc⟩ := h
  exact if_pos (List.any_eq_true.2 ⟨n, mem_bitsOf.2 ⟨hn, hbit⟩, by simpa using hsrc⟩)

theorem spindleStart_taken (h : ∀ n, n < 16 → mask.testBit n = true → d.rd .spCmdsrc [n] = 0) :
    d.spindleStart o wait mask target accel =
      if wait then ((bitsOf mask 16).foldl (Dev.spindleTakes accel (takenTarget target)) d).updCmd o
        fun c => { c with phase := .running }
      else ((bitsOf mask 16).foldl (Dev.spindleTakes accel (takenTarget target)) d).finish o clsOk 0 := by
  refine if_neg fun hany => ?_
  obtain ⟨n, hn, hsrc⟩ := List.any_eq_true.1 hany
  exact bne_iff_ne.1 hsrc (h n (mem_bitsOf.1 hn).1 (mem_bitsOf.1 hn).2)

/-- A target other than 0 is stored, and no spindle stops. -/
theorem setTarget_rd (n m : Nat) (hpos : target ≠ 0) (hlt : target < 2 ^ 14) :
    (d.setTarget m target).rd .spTarget [n] = if n = m then target else d.rd .spTarget [n] := by
  unfold Dev.setTarget
  simp only []
  rw [if_neg hpos]
  split
  case isTrue h =>
    by_cases hn : n = m
    · rw [if_pos hn, hn, h]
    · rw [if_neg hn]
  case isFalse =>
    have hmod : target % 2 ^ Row.spTarget.spec.width = target := Nat.mod_eq_of_lt hlt
    have hstored : ((d.wr .spTarget [m] target).wr .spAtspeed [m] 0).rd .spTarget [n] =
        if n = m then target else d.rd .spTarget [n] := by
      rw [rd_wr, if_neg (by simp), rd_wr, hmod]
      simp
    exact hstored

theorem setTarget_cmds (m : Nat) (hpos : target ≠ 0) : (d.setTarget m target).cmds = d.cmds := by
  unfold Dev.setTarget
  simp only []
  rw [if_neg hpos]
  split <;> rfl

theorem spindleTakes_rd (n m : Nat) (hpos : target ≠ 0) (hlt : target < 2 ^ 14) :
    (d.spindleTakes accel target m).rd .spTarget [n] = if n = m then target else d.rd .spTarget [n] := by
  unfold Dev.spindleTakes
  rw [setTarget_rd n m hpos hlt]
  split
  · rfl
  · split
    · rfl
    · simp [rd_wr]

theorem spindleTakes_cmds (m : Nat) (hpos : target ≠ 0) : (d.spindleTakes accel target m).cmds = d.cmds := by
  unfold Dev.spindleTakes
  rw [setTarget_cmds m hpos]
  split <;> rfl

/-- Every named spindle has the target, whatever the order. -/
theorem foldl_spindleTakes_rd {n : Nat} (hn : n ∈ bitsOf mask 16) (hpos : target ≠ 0) (hlt : target < 2 ^ 14) :
    ((bitsOf mask 16).foldl (Dev.spindleTakes accel target) d).rd .spTarget [n] = target := by
  refine foldl_own (fun d : Dev => d.rd .spTarget [n]) (fun _ => target) _ n (fun d m hm => ⟨?_, rfl⟩) (fun d => ?_) _
    (List.nodup_range.filter _) hn d
  · exact (spindleTakes_rd n m hpos hlt).trans (if_neg (Ne.symm hm))
  · exact (spindleTakes_rd n n hpos hlt).trans (if_pos rfl)

theorem foldl_spindleTakes_cmds (hpos : target ≠ 0) :
    ((bitsOf mask 16).foldl (Dev.spindleTakes accel target) d).cmds = d.cmds :=
  foldl_kept Dev.cmds _ (fun _ m => spindleTakes_cmds m hpos) _ d

end

theorem takenTarget_of_le {target : Nat} (h : 300 ≤ target) : takenTarget target = min target 12000 :=
  if_neg (by omega)

theorem spindleSet_one (s : State) (r : Fin 256) (n : Fin 16) (cookie target : Nat) (e : Dev) (hs : s.dev.mayStart r)
    (he : e = s.dev.started r { origin := .ring r 0, op := 0x1A, cookie := cookie, arg := 2 ^ n.val }) :
    MakesThenRuns (.spindleSet r cookie false (2 ^ n.val) target 0) s
      (if s.dev.rd .spCmdsrc [n.val] = 0 then
        (e.setTarget n (if target < 300 then 0 else min target 12000)).finish (s.dev.nextOrigin r) clsOk 0
      else e.finish (s.dev.nextOrigin r) clsResource 0x0001) := by
  have hmakes := spindleSet_starts s r cookie false (2 ^ n.val) target 0 hs
  have hsrc : e.rd .spCmdsrc [n.val] = s.dev.rd .spCmdsrc [n.val] := he ▸ rfl
  rw [← he] at hmakes
  rw [← hsrc]
  split
  case isTrue h =>
    have hall : ∀ m, m < 16 → (2 ^ n.val).testBit m = true → e.rd .spCmdsrc [m] = 0 := fun m hm hbit => by
      have hmem := mem_bitsOf.2 ⟨hm, hbit⟩
      rw [bitsOf_two_pow, List.mem_singleton] at hmem
      rwa [hmem]
    rwa [spindleStart_taken hall, bitsOf_two_pow] at hmakes
  case isFalse h =>
    rwa [spindleStart_refused ⟨n, n.isLt, Nat.testBit_two_pow_self, h⟩] at hmakes

theorem spindleSet_mask (s : State) (r : Fin 256) (cookie mask target accel : Nat) (wait : Bool) (e : Dev)
    (hs : s.dev.mayStart r)
    (he : e = s.dev.started r { origin := .ring r 0, op := 0x1A, cookie := cookie, wait := wait, arg := mask }) :
    ((∃ n, n < 16 ∧ mask.testBit n = true ∧ s.dev.rd .spCmdsrc [n] ≠ 0) →
      MakesThenRuns (.spindleSet r cookie wait mask target accel) s (e.finish (s.dev.nextOrigin r) clsResource 0x0001)) ∧
    ((∀ n, n < 16 → mask.testBit n = true → s.dev.rd .spCmdsrc [n] = 0) → 300 ≤ target →
      ∃ d, MakesThenRuns (.spindleSet r cookie wait mask target accel) s d ∧
        (∀ n, n < 16 → mask.testBit n = true → d.rd .spTarget [n] = min target 12000) ∧
        (wait = false → d.cmd (s.dev.nextOrigin r) = none) ∧
        (wait = true → (d.cmd (s.dev.nextOrigin r)).isSome = true)) := by
  have hmakes := spindleSet_starts s r cookie wait mask target accel hs
  have hsrc : ∀ n, e.rd .spCmdsrc [n] = s.dev.rd .spCmdsrc [n] := fun n => he ▸ rfl
  have hstarted : (e.cmd (s.dev.nextOrigin r)).isSome = true := he ▸ started_cmd_isSome _ _ _
  rw [← he] at hmakes
  refine ⟨fun ⟨n, hn, hbit, h⟩ => ?refused, fun hall hle => ?taken⟩
  case refused => rwa [spindleStart_refused ⟨n, hn, hbit, (hsrc n).trans_ne h⟩] at hmakes
  case taken =>
    have hpos : min target 12000 ≠ 0 := by omega
    rw [spindleStart_taken fun n hn hbit => (hsrc n).trans (hall n hn hbit), takenTarget_of_le hle] at hmakes
    have hset : ∀ n, n < 16 → mask.testBit n = true →
        ((bitsOf mask 16).foldl (Dev.spindleTakes accel (min target 12000)) e).rd .spTarget [n] = min target 12000 :=
      fun n hn hbit => foldl_spindleTakes_rd (mem_bitsOf.2 ⟨hn, hbit⟩) hpos (by omega)
    have hcmds : ((bitsOf mask 16).foldl (Dev.spindleTakes accel (min target 12000)) e).cmds = e.cmds :=
      foldl_spindleTakes_cmds hpos
    generalize (bitsOf mask 16).foldl (Dev.spindleTakes accel (min target 12000)) e = f at hmakes hset hcmds
    cases wait with
    | false =>
      refine ⟨_, hmakes, fun n hn hbit => ?_, fun _ => finish_ring_cmd f _ _ _ _, fun h => Bool.noConfusion h⟩
      exact (finish_ring_rd f _ _ _ _ _ _).trans (hset n hn hbit)
    | true =>
      refine ⟨_, hmakes, hset, fun h => Bool.noConfusion h, fun _ => updCmd_cmd_isSome (fun _ => rfl) ?_⟩
      rwa [Dev.cmd, hcmds]

/-! ### TRACE_READ (R141, R142) -/

theorem traceRead_makes (s : State) (r : Fin 256) (cookie engine buf : Nat) (e : Dev) (hs : s.dev.mayStart r)
    (he : e = s.dev.started r { origin := .ring r 0, op := 0x28, cookie := cookie, addr := buf, arg := engine }) :
    MakesThenRuns (.traceRead r cookie engine buf) s
      (if s.dev.rd .trState [engine] = trDone then
        (e.emit (.hostWrite buf ((tget ({} : Trace) s.dev.trace engine).image engine) true)).finish (s.dev.nextOrigin r)
          clsOk 0
      else e.finish (s.dev.nextOrigin r) clsResource 0x0002) := by
  refine (makesThenRuns_of_mayStart (i := .traceRead r cookie engine buf) rfl hs).trans ?_
  rw [← he]
  have hstate : e.rd .trState [engine] = s.dev.rd .trState [engine] := he ▸ rfl
  have htrace : e.trace = s.dev.trace := he ▸ rfl
  simp only [hstate, htrace, ne_eq, ite_not]
  rfl

/-- Settles O31: the start of a descriptor, and the named spindles one by one (`foldl_own`). -/
theorem spindleSetAndTraceRead : Obligations.SpindleSetAndTraceRead := by
  unfold Obligations.SpindleSetAndTraceRead
  exact ⟨spindleSet_one, spindleSet_mask, traceRead_makes⟩

end Sys2Proof.Machine
end

section
/-! SUPPORT. The states of the axes (Table 04-5): what it is for the device's own sequences to set an axis, while no row is being
written or the axis closes. -/

namespace Sys2Proof.Machine

section
variable {d e : Dev} {fs : List Fld} {es : List (Table × Nat)} {ps : List Part} (h : d.OnlyChanges e fs es ps)
include h

theorem Dev.OnlyChanges.servoS {p : Nat} (hp : (.servo, p) ∉ es) : e.servoS p = d.servoS p := h.2.1 .servo p hp

theorem Dev.OnlyChanges.axisMeasured {p x : Nat} (hm : .measures ∉ ps) : e.axisMeasured p x = d.axisMeasured p x := by
  rw [Dev.axisMeasured, h.2.2 .measures hm]
  rfl

end

/-- The axis is in its new state, and what it had to give up in the old one is given up. -/
def Dev.axEntered (d : Dev) (p x st : Nat) : Dev :=
  let d := d.wr .axState (axIx p x) st
  if st = axOff ∨ st = axOpen ∨ st = axSearch then
    (d.wr .axInteg (axIx p x) 0).updAx p x fun k =>
      { k with s1 := [0, 0, 0, 0, 0, 0], s2 := [0, 0, 0, 0, 0, 0], x6prev := 0, spoiled := true }
  else d.updAx p x fun k => { k with spoiled := true }

/-- Pickup p may set an axis to the state: no row is being written there, or the axis closes (R117). -/
def Dev.MaySet (d : Dev) (p st : Nat) : Prop := st = axClosed ∨ d.rowNow p = none

/-- The device's own sequences set the axis: its MODE is AUTO (R116) and nothing measures it (R506). -/
def Dev.Auto (d : Dev) (p x : Nat) : Prop := d.axMode p x = 0 ∧ d.axisMeasured p x = false

section
variable {d : Dev} {p x st : Nat}

theorem seqAx_auto (h : d.Auto p x) : d.seqAx p x st = d.setAx p x st := if_pos ⟨h.1, by simp [h.2]⟩

theorem setAx_entered (h : d.axState p x ≠ axClosed ∨ st = axClosed) : d.setAx p x st = d.axEntered p x st := by
  have hstay : ¬ (d.axState p x = axClosed ∧ st ≠ axClosed ∧ x ≤ 1) := fun ⟨hold, hst, _⟩ => h.elim (· hold) hst
  rw [Dev.setAx, if_neg hstay]
  rfl

/-- An axis that is set gives up at most the test writing of OPC (R276). -/
theorem setAx_cases (h : d.MaySet p st) :
    d.setAx p x st = d.axEntered p x st ∨ d.setAx p x st = (d.voidTest p).axEntered p x st := by
  by_cases hleaves : d.axState p x = axClosed ∧ st ≠ axClosed ∧ x ≤ 1
  · right
    rw [Dev.setAx, if_pos hleaves, abandonNow_idle (h.resolve_left hleaves.2.1)]
    rfl
  · left
    rw [Dev.setAx, if_neg hleaves]
    rfl

theorem axEntered_axState (h : st < 8) : (d.axEntered p x st).axState p x = st := by
  have hset : (d.wr .axState (axIx p x) st).rd .axState (axIx p x) = st := rd_wr_self _ _ _ _ h
  unfold Dev.axEntered Dev.axState
  simp only []
  split
  · exact (rd_wr _ _ _ _ _ _).trans ((if_neg fun he => by cases he.1).trans hset)
  · exact hset

theorem axEntered_pk : (d.axEntered p x st).pk = d.pk := by
  unfold Dev.axEntered
  simp only []
  split <;> rfl

theorem onlyChanges_axEntered {fs : List Fld} {es : List (Table × Nat)} {ps : List Part} (hs : ⟨.axState, axIx p x⟩ ∈ fs)
    (hi : st = axOff ∨ st = axOpen ∨ st = axSearch → ⟨.axInteg, axIx p x⟩ ∈ fs) (hx : (.ax, axKey p x) ∈ es) :
    d.OnlyChanges (d.axEntered p x st) fs es ps := by
  refine (onlyChanges_wr d _ _ st hs).trans ?_
  unfold Dev.axEntered
  simp only []
  split
  case isTrue h => exact (onlyChanges_wr _ _ _ _ (hi h)).trans (onlyChanges_updAx _ _ _ _ hx)
  case isFalse => exact onlyChanges_updAx _ _ _ _ hx

theorem onlyChanges_setAx {fs : List Fld} {es : List (Table × Nat)} {ps : List Part} (h : d.MaySet p st)
    (hs : ⟨.axState, axIx p x⟩ ∈ fs) (hi : st = axOff ∨ st = axOpen ∨ st = axSearch → ⟨.axInteg, axIx p x⟩ ∈ fs)
    (hx : (.ax, axKey p x) ∈ es) (hp : (.pk, p) ∈ es) (ho : .out ∈ ps) : d.OnlyChanges (d.setAx p x st) fs es ps := by
  obtain heq | heq := setAx_cases (x := x) h <;> rw [heq]
  · exact onlyChanges_axEntered hs hi hx
  · exact (onlyChanges_voidTest d p hp ho).trans (onlyChanges_axEntered hs hi hx)

theorem setAx_axState (h : d.MaySet p st) (hst : st < 8) : (d.setAx p x st).axState p x = st := by
  obtain heq | heq := setAx_cases (x := x) h <;> rw [heq] <;> exact axEntered_axState hst

theorem voidTest_rows : ((d.voidTest p).pkS p).rows = (d.pkS p).rows := by
  unfold Dev.voidTest
  split
  · rw [pkS_updPk_self]
    rfl
  · rfl

theorem rowNow_setAx (h : d.MaySet p st) : (d.setAx p x st).rowNow p = d.rowNow p := by
  have hentered : ∀ e : Dev, (e.axEntered p x st).rowNow p = e.rowNow p := fun e =>
    rowNow_of_rows (by rw [Dev.pkS, axEntered_pk]; rfl)
  obtain heq | heq := setAx_cases (x := x) h <;> rw [heq, hentered]
  exact rowNow_of_rows voidTest_rows

end

/-! ### Axes that a sequence sets -/

section
variable {d : Dev} {p x st : Nat} (h : d.MaySet p st)
include h

theorem onlyChanges_seqAx : d.OnlyChanges (d.seqAx p x st) [⟨.axState, axIx p x⟩, ⟨.axInteg, axIx p x⟩]
    [(.ax, axKey p x), (.pk, p)] [.out] := by
  unfold Dev.seqAx
  split
  · exact onlyChanges_setAx h (by simp) (fun _ => by simp) (by simp) (by simp) (by simp)
  · exact onlyChanges_refl _ _ _ _

theorem rowNow_seqAx : (d.seqAx p x st).rowNow p = d.rowNow p := by
  unfold Dev.seqAx
  split
  · exact rowNow_setAx h
  · rfl

theorem seqAx_maySet {st' : Nat} (h' : d.MaySet p st') : (d.seqAx p x st).MaySet p st' :=
  h'.imp_right (rowNow_seqAx h).trans

theorem seqAx_keeps_auto {y : Nat} (ha : d.Auto p y) : (d.seqAx p x st).Auto p y :=
  ⟨((onlyChanges_seqAx h).rd (by simp)).trans ha.1, ((onlyChanges_seqAx h).axisMeasured (by simp)).trans ha.2⟩

theorem seqAx_servoS (q : Nat) : (d.seqAx p x st).servoS q = d.servoS q := (onlyChanges_seqAx h).servoS (by simp)

theorem seqAx_axState (ha : d.Auto p x) (hst : st < 8) (y : Nat) :
    (d.seqAx p x st).axState p y = if y = x then st else d.axState p y := by
  by_cases hy : y = x
  · rw [if_pos hy, hy, seqAx_auto ha, setAx_axState h hst]
  · rw [if_neg hy]
    exact (onlyChanges_seqAx h).rd (by simp [axIx, hy])

/-- A sequence sets several axes of a pickup, one after the other. -/
theorem seqAxes_axState (xs : List Nat) (ha : ∀ x ∈ xs, d.Auto p x) (hst : st < 8) (y : Nat) :
    (d.seqAxes p st xs).axState p y = if y ∈ xs then st else d.axState p y := by
  induction xs generalizing d with
  | nil => simp [Dev.seqAxes]
  | cons x xs ih =>
    have hnext := ih (d := d.seqAx p x st) (seqAx_maySet h h) fun z hz =>
      seqAx_keeps_auto h (ha z (List.mem_cons_of_mem x hz))
    refine hnext.trans ?_
    rw [seqAx_axState h (ha x (by simp)) hst]
    by_cases hy : y = x <;> simp [hy]

end

end Sys2Proof.Machine
end

section
/-! SUPPORT. Layer jumps, step by step (O38). -/

namespace Sys2Proof.Machine

/-! ### A jump begins (R135) -/

/-- The one-layer jump from layer L that is next on the way to the target. -/
def nextJump (L target attempt : Nat) : Jump :=
  { origin := L, next := if L < target then L + 1 else L - 1, target := target, attempt := attempt }

section
variable (d : Dev) (p : Nat)

theorem jumpTo_held (L target attempt : Nat) (h : d.rowBusy p = true) : d.jumpTo p L target attempt =
    d.updServo p fun k => { k with jump := some { nextJump L target attempt with step := .held } } := by
  rw [Dev.jumpTo, if_pos h]
  rfl

theorem jumpTo_free (L target attempt : Nat) (h : d.rowBusy p = false) : d.jumpTo p L target attempt =
    (d.sendSa p (nextJump L target attempt).next).updServo p fun k => { k with jump := some (nextJump L target attempt) } := by
  rw [Dev.jumpTo, if_neg (by simp [h])]
  rfl

theorem onlyChanges_sendSa (L : Nat) {fs : List Fld} {es : List (Table × Nat)} {ps : List Part} (h : (.pk, p) ∈ es) :
    d.OnlyChanges (d.sendSa p L) fs es ps := (onlyChanges_updPk d p _ h).trans (onlyChanges_updPk _ p _ h)

theorem sendSa_sa (L : Nat) : ((d.sendSa p L).pkS p).sa = some (d.saOf p L) := by
  rw [Dev.sendSa, pkS_updPk_self]

theorem onlyChanges_jumpTo (L target attempt : Nat) {fs : List Fld} {es : List (Table × Nat)} {ps : List Part}
    (hp : (.pk, p) ∈ es) (hs : (.servo, p) ∈ es) : d.OnlyChanges (d.jumpTo p L target attempt) fs es ps := by
  cases h : d.rowBusy p with
  | true =>
    rw [jumpTo_held d p _ _ _ h]
    exact onlyChanges_updServo _ _ _ hs
  | false =>
    rw [jumpTo_free d p _ _ _ h]
    exact (onlyChanges_sendSa d p _ hp).trans (onlyChanges_updServo _ _ _ hs)

/-- A jump is held while a block row is written or read, and else waits for the corrector's frame. -/
theorem jumpTo_jump (L target attempt : Nat) : ((d.jumpTo p L target attempt).servoS p).jump =
    some { nextJump L target attempt with step := if d.rowBusy p then .held else .corrector } := by
  cases h : d.rowBusy p with
  | true => rw [jumpTo_held d p _ _ _ h, servoS_updServo_self]; rfl
  | false => rw [jumpTo_free d p _ _ _ h, servoS_updServo_self]; rfl

theorem jumpTo_sa (L target attempt : Nat) (h : d.rowBusy p = false) :
    ((d.jumpTo p L target attempt).pkS p).sa = some (d.saOf p (nextJump L target attempt).next) := by
  rw [jumpTo_free d p _ _ _ h]
  exact sendSa_sa d p _

end

theorem nextJump_up {L target : Nat} (h : L < target) (attempt : Nat) : (nextJump L target attempt).next = L + 1 := if_pos h

theorem rowBusy_of_quiet {d : Dev} {p : Nat} (h : d.pickupQuiet p = true) : d.rowBusy p = false := by
  simp only [Dev.pickupQuiet, Bool.and_eq_true, Bool.not_eq_true', Option.isNone_iff_eq_none] at h
  obtain ⟨⟨⟨⟨hrow, hread⟩, -⟩, -⟩, -⟩ := h
  simp [Dev.rowBusy, hrow, hread]

theorem layerJumpStart_jumps (s : State) (p : Fin 32) (layer : Fin 4) (hquiet : s.dev.pickupQuiet p = true)
    (hcap : (s.dev.servoS p).cap = none) (hclosed : s.dev.closed p 0 = true) (hmode : s.dev.axMode p 0 = 0)
    (hlt : (s.dev.pkS p).layer < layer.val) :
    ∃ d j, Makes (.layerJumpStart p layer) s d ∧ (d.servoS p).jump = some j ∧ j.origin = (s.dev.pkS p).layer ∧
      j.next = (s.dev.pkS p).layer + 1 ∧ j.target = layer.val ∧ j.attempt = 1 ∧
      (d.pkS p).sa = some (s.dev.saOf p ((s.dev.pkS p).layer + 1)) ∧
      s.dev.OnlyChanges d [] [(.pk, p.val), (.servo, p.val)] [] := by
  have hmakes : Makes (.layerJumpStart p layer) s (s.dev.jumpTo p (s.dev.pkS p).layer layer 1) := by
    change execLayerJumpStart p layer s = _
    rw [execLayerJumpStart, act_eq]
    simp only []
    rw [if_pos (by simp [hquiet, hcap, hclosed, hmode, Nat.ne_of_lt hlt])]
  have hsa := jumpTo_sa s.dev p (s.dev.pkS p).layer layer 1 (rowBusy_of_quiet hquiet)
  rw [nextJump_up hlt] at hsa
  exact ⟨_, _, hmakes, jumpTo_jump _ _ _ _ _, rfl, nextJump_up hlt 1, rfl, rfl, hsa,
    onlyChanges_jumpTo _ _ _ _ _ (by simp) (by simp)⟩

/-! ### Its steps (R135 to R137) -/

theorem advanceJump_jump (d : Dev) (p : Nat) (j : Jump) (step : JumpStep) :
    ((d.advanceJump p j step).servoS p).jump = some { j with step := step, samples := 0 } := by
  rw [Dev.advanceJump, servoS_updServo_self]

theorem advanceJump_axState (d : Dev) (p : Nat) (j : Jump) (step : JumpStep) (q x : Nat) :
    (d.advanceJump p j step).axState q x = d.axState q x := rfl

section
variable (s : State) (p : Fin 32) (j : Jump) (hj : (s.dev.servoS p).jump = some j)
include hj

/-- The kick: focus jumps, and the other axes hold. -/
theorem layerJumpKick_kicks (hstep : j.step = .corrector) (hsa : s.dev.saWaits p = false)
    (hauto : ∀ x, x < 4 → s.dev.axMode p x = 0 ∧ s.dev.axisMeasured p x = false) (hrow : s.dev.rowNow p = none) :
    ∃ d, Makes (.layerJumpKick p) s d ∧ (d.servoS p).jump = some { j with step := .kick, samples := 0 } ∧
      d.axState p 0 = axJump ∧ d.axState p 1 = axHold ∧ d.axState p 2 = axHold ∧ d.axState p 3 = axHold := by
  have hmakes : Makes (.layerJumpKick p) s
      (((s.dev.seqAx p 0 axJump).seqAxes p axHold [1, 2, 3]).advanceJump p j .kick) := by
    change execLayerJumpKick p s = _
    rw [execLayerJumpKick, act_eq]
    simp only [hj]
    rw [if_pos ⟨hstep, by simp [hsa]⟩]
  have hmay : ∀ st, s.dev.MaySet p st := fun st => .inr hrow
  have hjump := seqAx_axState (hmay axJump) (hauto 0 (by decide)) (by decide)
  have hhold := seqAxes_axState (seqAx_maySet (x := 0) (hmay axJump) (hmay axHold)) [1, 2, 3]
    (fun x hx => seqAx_keeps_auto (hmay axJump) (hauto x (by simp at hx; omega))) (by decide)
  refine ⟨_, hmakes, advanceJump_jump _ _ _ _, ?focus, ?track, ?tilt, ?yaw⟩
  case focus => rw [advanceJump_axState, hhold, if_neg (by decide), hjump, if_pos rfl]
  case track => rw [advanceJump_axState, hhold, if_pos (by decide)]
  case tilt => rw [advanceJump_axState, hhold, if_pos (by decide)]
  case yaw => rw [advanceJump_axState, hhold, if_pos (by decide)]

theorem layerJumpCoast_coasts (hstep : j.step = .kick) (hn : s.dev.rd .jpKickN (pjIx p) ≤ j.samples) :
    Makes (.layerJumpCoast p) s (s.dev.updServo p fun k => { k with jump := some { j with step := .coast, samples := 0 } }) := by
  change execLayerJumpCoast p s = _
  rw [execLayerJumpCoast, act_eq]
  simp only [hj]
  rw [if_pos ⟨hstep, hn⟩]
  rfl

theorem layerJumpBrake_brakes (hstep : j.step = .coast)
    (hn : j.triggered = true ∨ s.dev.rd .jpCoastMax (pjIx p) ≤ j.samples) :
    Makes (.layerJumpBrake p) s (s.dev.updServo p fun k => { k with jump := some { j with step := .brake, samples := 0 } }) := by
  change execLayerJumpBrake p s = _
  rw [execLayerJumpBrake, act_eq]
  simp only [hj]
  rw [if_pos ⟨hstep, hn⟩]
  rfl

theorem layerJumpCapture_closes (hstep : j.step = .brake) (hn : s.dev.rd .jpBrakeN (pjIx p) ≤ j.braked)
    (hmode : s.dev.axMode p 0 = 0) (hmeasured : s.dev.axisMeasured p 0 = false) :
    ∃ d, Makes (.layerJumpCapture p) s d ∧ d.axState p 0 = axClosed ∧
      (d.servoS p).jump = some { j with step := .window, samples := 0, within := 0 } ∧
      s.dev.OnlyChanges d [⟨.axState, axIx p 0⟩] [(.ax, axKey p 0), (.servo, p.val)] [] := by
  have hmakes : Makes (.layerJumpCapture p) s
      ((s.dev.axEntered p 0 axClosed).advanceJump p { j with within := 0 } .window) := by
    change execLayerJumpCapture p s = _
    rw [execLayerJumpCapture, act_eq]
    simp only [hj]
    rw [if_pos ⟨hstep, hn⟩, seqAx_auto ⟨hmode, hmeasured⟩, setAx_entered (.inr rfl)]
  refine ⟨_, hmakes, axEntered_axState (d := s.dev) (by decide), advanceJump_jump _ _ _ _, ?_⟩
  exact (onlyChanges_axEntered (by simp) (fun h => absurd h (by decide)) (by simp)).trans (onlyChanges_updServo _ _ _ (by simp))

theorem layerJumpWindowEnd_closes (hstep : j.step = .window) (hn : s.dev.rd .jpCaptN (pjIx p) ≤ j.samples)
    (hauto : ∀ x, x < 4 → s.dev.axMode p x = 0 ∧ s.dev.axisMeasured p x = false) :
    ∃ d, Makes (.layerJumpWindowEnd p) s d ∧ (d.servoS p).jump = some { j with step := .confirm, samples := 0 } ∧
      d.axState p 1 = axClosed ∧ d.axState p 2 = axClosed ∧ d.axState p 3 = axClosed := by
  have hmakes : Makes (.layerJumpWindowEnd p) s ((s.dev.seqAxes p axClosed [1, 2, 3]).advanceJump p j .confirm) := by
    change execLayerJumpWindowEnd p s = _
    rw [execLayerJumpWindowEnd, act_eq]
    simp only [hj]
    rw [if_pos ⟨hstep, hn⟩]
  have hclose := seqAxes_axState (d := s.dev) (p := p) (.inl rfl) [1, 2, 3] (fun x hx => hauto x (by simp at hx; omega))
    (by decide)
  refine ⟨_, hmakes, advanceJump_jump _ _ _ _, ?track, ?tilt, ?yaw⟩
  case track => rw [advanceJump_axState, hclose, if_pos (by decide)]
  case tilt => rw [advanceJump_axState, hclose, if_pos (by decide)]
  case yaw => rw [advanceJump_axState, hclose, if_pos (by decide)]

/-! ### Its confirmation (R137, R138) -/

theorem layerJumpConfirm_makes (found : Option (Fin 4)) (hstep : j.step = .confirm) :
    MakesThenRuns (.layerJumpConfirm p found) s
      (if j.triggered && decide (40 ≤ j.within) && s.dev.on .pkMtoLock [p.val] && (found.map Fin.val) == some j.next then
        s.dev.jumpDone p j
      else s.dev.jumpFails p j ((found.map Fin.val).getD 0xFF)) := by
  change execLayerJumpConfirm p found s = _
  rw [execLayerJumpConfirm, serve_eq]
  simp only [hj]
  rw [if_neg (by simp [hstep])]

theorem layerJumpConfirm_done (L : Fin 4) (hstep : j.step = .confirm) (htriggered : j.triggered = true)
    (hwithin : 40 ≤ j.within) (hlock : s.dev.on .pkMtoLock [p.val] = true) (hnext : j.next = L.val) :
    MakesThenRuns (.layerJumpConfirm p (some L)) s (s.dev.jumpDone p j) := by
  have hmakes := layerJumpConfirm_makes s p j hj (some L) hstep
  rwa [if_pos (by simp [htriggered, hwithin, hlock, hnext])] at hmakes

theorem layerJumpConfirm_ends (L : Fin 4) (hstep : j.step = .confirm) (htriggered : j.triggered = true)
    (hwithin : 40 ≤ j.within) (hlock : s.dev.on .pkMtoLock [p.val] = true) (hnext : j.next = L.val)
    (htarget : j.target = j.next) (hreturn : (s.dev.servoS p).returnTo = none) (hseek : s.dev.seekS p = none) :
    ∃ d, MakesThenRuns (.layerJumpConfirm p (some L)) s d ∧ (d.pkS p).layer = L.val ∧ (d.servoS p).jump = none ∧
      s.dev.OnlyChanges d [] [(.pk, p.val), (.servo, p.val)] [] := by
  have hmakes := layerJumpConfirm_done s p j hj L hstep htriggered hwithin hlock hnext
  have hdone : s.dev.jumpDone p j = (((s.dev.updPk p fun k => { k with layer := j.next }).updServo p fun q =>
      { q with jump := none }).updServo p fun q => { q with returnTo := none, lastChance := false }) := by
    have hback : (((s.dev.updPk p fun k => { k with layer := j.next }).updServo p fun q =>
      { q with jump := none }).servoS p).returnTo = none := by rw [servoS_updServo_self]; exact hreturn
    unfold Dev.jumpDone
    simp only []
    rw [if_neg (by simp [htarget]), Dev.arrived]
    simp only [hback]
    unfold Dev.seekJumped
    have hnone : ∀ f g h, (((s.dev.updPk p f).updServo p g).updServo p h).seekS p = none := fun _ _ _ => hseek
    rw [hnone]
  rw [hdone] at hmakes
  refine ⟨_, hmakes, ?layer, ?jump, ?frame⟩
  case layer => rw [pkS_updServo, pkS_updServo, pkS_updPk_self, hnext]
  case jump => rw [servoS_updServo_self, servoS_updServo_self]
  case frame =>
    exact (onlyChanges_updPk _ _ _ (by simp)).trans
      ((onlyChanges_updServo _ _ _ (by simp)).trans (onlyChanges_updServo _ _ _ (by simp)))

theorem layerJumpConfirm_goesOn (L : Fin 4) (busy : Bool) (hstep : j.step = .confirm) (htriggered : j.triggered = true)
    (hwithin : 40 ≤ j.within) (hlock : s.dev.on .pkMtoLock [p.val] = true) (hnext : j.next = L.val) (hlt : L.val < j.target)
    (hbusy : busy = (s.dev.updPk p fun k => { k with layer := L.val }).rowBusy p) :
    ∃ d x, MakesThenRuns (.layerJumpConfirm p (some L)) s d ∧ (d.servoS p).jump = some x ∧
      x.origin = L.val ∧ x.next = L.val + 1 ∧ x.target = j.target ∧ x.attempt = 1 ∧
      x.step = (if busy then .held else .corrector) ∧
      (busy = false → (d.pkS p).sa = some (s.dev.saOf p (L.val + 1))) ∧
      s.dev.OnlyChanges d [] [(.pk, p.val), (.servo, p.val)] [] := by
  have hmakes := layerJumpConfirm_done s p j hj L hstep htriggered hwithin hlock hnext
  have hdone : s.dev.jumpDone p j = (s.dev.updPk p fun k => { k with layer := L.val }).jumpTo p L j.target 1 := by
    unfold Dev.jumpDone
    simp only [hnext]
    rw [if_pos (Nat.ne_of_lt hlt)]
  rw [hdone] at hmakes
  refine ⟨_, _, hmakes, jumpTo_jump _ _ _ _ _, rfl, nextJump_up hlt 1, rfl, rfl, by rw [hbusy], fun hfree => ?sa, ?frame⟩
  case sa =>
    have hsa := jumpTo_sa _ p L j.target 1 (hbusy.symm.trans hfree)
    rwa [nextJump_up hlt] at hsa
  case frame => exact (onlyChanges_updPk _ _ _ (by simp)).trans (onlyChanges_jumpTo _ _ _ _ _ (by simp) (by simp))

theorem layerJumpConfirm_retries (found : Option (Fin 4)) (hstep : j.step = .confirm) (htriggered : j.triggered = false)
    (hchance : (s.dev.servoS p).lastChance = false) (hattempt : j.attempt < 3) (hrow : s.dev.rowNow p = none) :
    ∃ d, MakesThenRuns (.layerJumpConfirm p found) s d ∧
      d.raised = s.dev.raised ++ [⟨32 * p.val + 16, 0x0407, [(found.map Fin.val).getD 0xFF, j.target]⟩] ∧
      (d.servoS p).jump = some { j with step := .recapture } := by
  have hmakes := layerJumpConfirm_makes s p j hj found hstep
  rw [if_neg (by simp [htriggered]), Dev.jumpFails, if_neg (by simp [hchance])] at hmakes
  simp only [] at hmakes
  rw [if_pos hattempt] at hmakes
  have hsearch := onlyChanges_seqAx (d := s.dev.raiseMotion p 16 evLayerJumpRetry [(found.map Fin.val).getD 0xFF, j.target])
    (p := p) (x := 0) (st := axSearch) (.inr hrow)
  exact ⟨_, hmakes, hsearch.raised (by simp), by rw [servoS_updServo_self]⟩

end

/-- Settles O38: each step of a jump by the command for it, with the states of the axes that it sets (`seqAxes_axState`), and the
next one-layer jump by `jumpTo_jump`. -/
theorem layerJumpsGoStepByStep : Obligations.LayerJumpsGoStepByStep := by
  unfold Obligations.LayerJumpsGoStepByStep
  refine ⟨layerJumpStart_jumps, layerJumpKick_kicks, layerJumpCoast_coasts, layerJumpBrake_brakes, layerJumpCapture_closes,
    layerJumpWindowEnd_closes, ?ends, ?goesOn, ?retries⟩
  case ends => exact fun s p j L hj => layerJumpConfirm_ends s p j hj L
  case goesOn => exact fun s p j L busy hj => layerJumpConfirm_goesOn s p j hj L busy
  case retries => exact fun s p j found hj => layerJumpConfirm_retries s p j hj found

end Sys2Proof.Machine
end

section
/-! SUPPORT. Which occurrences the work on the commands in flight raises (O37): none of it tells of a write that was lost with
the focus (R134, R343). The statement on the second sweep of a capture is refuted by a write that is lost so. -/

namespace Sys2Proof.Machine

/-! ### Occurrences that tell of a write lost with the focus -/

/-- The report of a deferred error with the detail of a focus loss. -/
def Occ.FocusError (o : Occ) : Prop := o.code = evDeferredError ∧ o.payload.drop 4 = le 4 detFocus

/-- Whatever e tells of a write lost with the focus, d tells too. -/
def Dev.Untold (d e : Dev) : Prop := ∀ o ∈ e.raised, o.FocusError → o ∈ d.raised

section
variable {d e g : Dev}

theorem untold_of_raised (h : e.raised = d.raised) : d.Untold e := fun _ ho _ => h ▸ ho

theorem untold_refl (d : Dev) : d.Untold d := untold_of_raised rfl

theorem Dev.Untold.trans (h : d.Untold e) (h' : e.Untold g) : d.Untold g := fun o ho hf => h o (h' o ho hf) hf

/-- Another step of a chain, by its own lemma. -/
theorem Dev.Untold.step (h' : e.Untold g) (h : d.Untold e) : d.Untold g := h.trans h'

/-- A step that raises nothing. -/
theorem Dev.Untold.same (h : d.Untold e) (hg : g.raised = e.raised := by rfl) : d.Untold g := h.trans (untold_of_raised hg)

theorem Dev.Untold.wr (h : d.Untold e) {r : Row} {ix : List Nat} {v : Nat} : d.Untold (e.wr r ix v) := h.same
theorem Dev.Untold.emit (h : d.Untold e) {m : Msg} : d.Untold (e.emit m) := h.same
theorem Dev.Untold.updCmd (h : d.Untold e) {o : Origin} {f : Cmd → Cmd} : d.Untold (e.updCmd o f) := h.same
theorem Dev.Untold.updTake (h : d.Untold e) {id : Nat} {f : Take → Take} : d.Untold (e.updTake id f) := h.same
theorem Dev.Untold.updPk (h : d.Untold e) {p : Nat} {f : Pk → Pk} : d.Untold (e.updPk p f) := h.same
theorem Dev.Untold.updLk (h : d.Untold e) {l : Nat} {f : Link → Link} : d.Untold (e.updLk l f) := h.same
theorem Dev.Untold.updBasin (h : d.Untold e) {f : Basin → Basin} : d.Untold (e.updBasin f) := h.same
theorem Dev.Untold.updStripe (h : d.Untold e) {x : Nat} {f : Stripe → Stripe} : d.Untold (e.updStripe x f) := h.same
theorem Dev.Untold.updSled (h : d.Untold e) {p : Nat} {f : Sled → Sled} : d.Untold (e.updSled p f) := h.same
theorem Dev.Untold.updSpin (h : d.Untold e) {n : Nat} {f : Spin → Spin} : d.Untold (e.updSpin n f) := h.same
theorem Dev.Untold.updCat (h : d.Untold e) {f : Catalogue → Catalogue} : d.Untold (e.updCat f) := h.same

/-- An occurrence joins those raised, and tells of no write lost with the focus. -/
theorem untold_of_append {o : Occ} (h : e.raised = d.raised ++ [o]) (ho : ¬ o.FocusError) : d.Untold e := fun x hx hf => by
  obtain hx | hx := List.mem_append.1 (h ▸ hx)
  · exact hx
  · exact absurd (List.mem_singleton.1 hx ▸ hf) ho

theorem Dev.Untold.raise (h : d.Untold e) {src code : Nat} {b : Bytes} (hc : code ≠ evDeferredError := by decide) :
    d.Untold (e.raise src code b) := h.trans (untold_of_append rfl fun hf => hc hf.1)

theorem Dev.Untold.raiseFor (h : d.Untold e) {os : List Origin} {src code : Nat} {b : Bytes}
    (hc : code ≠ evDeferredError := by decide) : d.Untold (e.raiseFor os src code b) :=
  h.trans (untold_of_append rfl fun hf => hc hf.1)

/-- A step taken on a condition only. -/
theorem untold_ite {c : Prop} [Decidable c] (h : d.Untold e) (h' : d.Untold g) : d.Untold (if c then e else g) := by
  split
  · exact h
  · exact h'

/-- A step that a condition leaves out. -/
theorem untold_skip {c : Prop} [Decidable c] (h : d.Untold e) (h' : e.Untold g) : d.Untold (if c then e else g) :=
  untold_ite h (h.trans h')

theorem untold_foldl {β : Type} {f : Dev → β → Dev} (h : ∀ (d : Dev) b, d.Untold (f d b)) (l : List β) (d : Dev) :
    d.Untold (l.foldl f d) := by
  induction l generalizing d with
  | nil => exact untold_refl d
  | cons b l ih => exact (h d b).trans (ih (f d b))

end

/-! ### A write that failed is reported (R343, R370) -/

theorem finish_untold (d : Dev) (o : Origin) (cls detail result : Nat) : d.Untold (d.finish o cls detail result) := by
  unfold Dev.finish
  split
  · exact untold_refl d
  · simp only []
    split <;> exact untold_of_raised rfl

theorem refuse_untold (d : Dev) (o : Origin) (cls detail : Nat) : d.Untold (d.refuse o cls detail) :=
  finish_untold d o cls detail 0

theorem noteFailed_raised (d : Dev) (w : Writer) : (d.noteFailed w).raised = d.raised := by
  unfold Dev.noteFailed
  split <;> rfl

theorem plainBefore_raised (d : Dev) (r n : Nat) : (d.plainBefore r n).raised = d.raised := by
  unfold Dev.plainBefore
  split <;> rfl

theorem logOnRing_raised (d : Dev) (r : Nat) (e : Deferred) : (d.logOnRing r e).raised = d.raised := by
  unfold Dev.logOnRing
  split <;> rfl

theorem unflaggedBefore_raised (d : Dev) (l n : Nat) : (d.unflaggedBefore l n).raised = d.raised := by
  unfold Dev.unflaggedBefore
  split <;> rfl

theorem logOnLink_raised (d : Dev) (l : Nat) (e : Deferred) : (d.logOnLink l e).raised = d.raised := by
  unfold Dev.logOnLink
  split <;> rfl

/-- The report of a write that failed for another cause. -/
theorem deferError_untold (d : Dev) (w : Writer) {detail : Nat} (h : le 4 detail ≠ le 4 detFocus) :
    d.Untold (d.deferError w detail) := by
  have hother : ∀ src n, ¬ Occ.FocusError ⟨src, evDeferredError, le 4 n ++ le 4 detail⟩ := fun _ _ hf => h hf.2
  have hring : ∀ r n, (w.origin = .ring r n ∨ w.origin = .past r n) → d.Untold (d.deferError w detail) := fun r n ho => by
    rw [deferError_ring ho]
    exact (untold_of_raised ((logOnRing_raised _ _ _).trans (plainBefore_raised d r n))).trans (untold_of_append rfl (hother _ n))
  cases ho : w.origin with
  | ring r n => exact hring r n (.inl ho)
  | past r n => exact hring r n (.inr ho)
  | link l n =>
    rw [deferError_link ho]
    exact (untold_of_raised ((logOnLink_raised _ _ _).trans (unflaggedBefore_raised d l n))).trans
      (untold_of_append rfl (hother _ n))

theorem failWriters_untold (d : Dev) (cls : Nat) (ws : List Writer) {detail : Nat} (h : le 4 detail ≠ le 4 detFocus) :
    d.Untold (d.failWriters cls detail ws) := by
  refine untold_foldl (fun x w => ?_) _ d
  have hnoted : x.Untold (x.noteFailed w) := untold_of_raised (noteFailed_raised x w)
  exact untold_ite (hnoted.trans (finish_untold _ _ _ _ _)) (untold_ite hnoted (.same (hnoted.trans (deferError_untold _ w h))))

/-! ### Units that are released -/

theorem fillUpdate_untold (d : Dev) : d.Untold d.fillUpdate := by
  refine untold_ite (.raise (untold_of_raised rfl)) (untold_ite (.raise ?_) (untold_of_raised rfl))
  exact untold_ite (untold_of_raised rfl) (untold_of_raised rfl)

theorem takeUnits_untold {d e : Dev} {o : Owner} {n : Nat} {reserved : Bool} (h : d.takeUnits o n reserved = some e) :
    d.Untold e := by
  unfold Dev.takeUnits at h
  simp only [] at h
  split at h
  · cases h
  · rw [← Option.some.inj h]
    exact .step (fillUpdate_untold _) (untold_of_raised rfl)

theorem needUnits_untold (d : Dev) (o : Owner) (n : Nat) : d.Untold (d.needUnits o n) := by
  have htake : ∀ k, d.Untold (if k = 0 then d else (d.takeUnits o k false).getD d) := fun k => by
    refine untold_ite (untold_refl d) ?_
    cases h : d.takeUnits o k false with
    | none => exact untold_refl d
    | some e => exact takeUnits_untold h
  exact untold_ite (htake _) (.same (htake _))

theorem passWindow_untold (d : Dev) : d.Untold d.passWindow := by
  unfold Dev.passWindow
  split <;> exact untold_of_raised rfl

theorem releaseUnits_untold (d : Dev) (o : Owner) : d.Untold (d.releaseUnits o) := by
  refine untold_ite (untold_refl d) (.step (fillUpdate_untold _) ?_)
  exact untold_ite (.step (passWindow_untold _) (untold_of_raised rfl)) (untold_of_raised rfl)

theorem blockGone_untold (d : Dev) (key : Nat × Nat) : d.Untold (d.blockGone key) :=
  .step (untold_foldl releaseUnits_untold _ _) (untold_of_raised rfl)

theorem dropOwner_untold (d : Dev) (o : Owner) : d.Untold (d.dropOwner o) :=
  .step (releaseUnits_untold _ o) (untold_of_raised rfl)

/-! ### Blocks that leave -/

theorem dropBlk_untold (d : Dev) (id : Nat) : d.Untold (d.dropBlk id) := by
  unfold Dev.dropBlk
  split
  · exact untold_refl d
  · simp only []
    refine untold_ite (.step (releaseUnits_untold _ _) ?left) ?left
    exact untold_ite (.step (blockGone_untold _ _) (untold_of_raised rfl)) (untold_of_raised rfl)

theorem loseBlk_untold (d : Dev) (id cls : Nat) {detail : Nat} (h : le 4 detail ≠ le 4 detFocus) :
    d.Untold (d.loseBlk id cls detail) := by
  unfold Dev.loseBlk
  split
  · exact untold_refl d
  · next b _ =>
    simp only []
    refine .step (dropBlk_untold _ _) (.step (failWriters_untold _ _ _ h) ?_)
    refine untold_ite (.updTake (untold_ite (.updTake ?map) ?map)) (untold_ite (.updTake ?map) ?map)
    case map => split <;> exact untold_of_raised rfl

/-! ### A range that is committed (R386 to R393) -/

theorem commitRange_untold (d : Dev) (take k : Nat) (hidden : List Nat) (len : Nat) (os : List Origin) :
    d.Untold (d.commitRange take k hidden len os) := by
  unfold Dev.commitRange
  split
  case h_2 => exact untold_refl d
  case h_1 t v ht hv =>
    refine untold_ite (untold_refl d) (untold_ite ?_ ?_)
    · refine .step (untold_foldl (fun x b => untold_ite (blockGone_untold x _) (untold_refl x)) _ _) ?_
      exact .step (failWriters_untold _ _ _ (by decide)) (untold_of_raised rfl)
    · refine .step (untold_foldl (fun x _ => .raiseFor (untold_refl x)) _ _) (untold_skip ?_ (.updBasin (needUnits_untold _ _ _)))
      refine .wr (.wr ?_)
      refine .trans (e := List.foldl _ d _) ?_ (untold_of_raised rfl)
      refine untold_foldl (fun x jp => untold_foldl (fun y l => ?_) _ x) _ d
      refine untold_ite ?_ (untold_ite (untold_of_raised rfl) (untold_refl y))
      split
      · exact untold_of_raised rfl
      · exact untold_refl y

end Sys2Proof.Machine
end

section
/-! SUPPORT. The commands in flight go on: what their steps raise (O37). -/

namespace Sys2Proof.Machine

/-! ### Commits and records of the catalogue -/

theorem commitTake_untold (d : Dev) (take : Nat) (o : Origin) : d.Untold (d.commitTake take o) := by
  unfold Dev.commitTake
  split
  · exact untold_foldl (fun x k => commitRange_untold x take k [] 0 [o]) _ d
  · exact untold_refl d

theorem commitAll_untold (d : Dev) (o : Origin) : d.Untold (d.commitAll o) := by
  have hall : d.Untold (d.takes.foldl (fun d t => d.commitTake t.id o) d) :=
    untold_foldl (fun x (t : Take) => commitTake_untold x t.id o) _ d
  exact untold_ite (.updCmd hall) hall

theorem appendRec_untold (d : Dev) (rtype group : Nat) (body : Bytes) : d.Untold (d.appendRec rtype group body) :=
  untold_of_raised rfl

theorem newGroup_untold (d : Dev) : d.Untold d.newGroup := untold_of_raised rfl

theorem recordStripe_untold (d : Dev) (x : Nat) : d.Untold (d.recordStripe x) := by
  unfold Dev.recordStripe
  split
  · exact untold_refl d
  · refine untold_ite (untold_refl d) (.updStripe (.updCat ?_))
    exact .step (untold_foldl (fun y b => appendRec_untold y _ _ b) _ _) (newGroup_untold d)

theorem recordStripes_untold (d : Dev) : d.Untold d.recordStripes := untold_foldl recordStripe_untold _ d

theorem appendAlloc_untold (d : Dev) : d.Untold d.appendAlloc := by
  refine .step (untold_foldl (fun x p => ?_) _ _) (.trans (newGroup_untold d) (appendRec_untold _ _ _ _))
  exact untold_ite (untold_refl x) (.updPk (untold_foldl (fun y b => appendRec_untold y _ _ b) _ x))

theorem takeCounts_untold (d : Dev) : d.Untold d.takeCounts := untold_of_raised rfl

/-! ### Data that is delivered -/

theorem sendData_untold (d : Dev) (l tag off : Nat) (data : Bytes) : d.Untold (d.sendData l tag off data) :=
  untold_foldl (fun x _ => .updLk (untold_refl x)) _ d

theorem deliver_untold (d : Dev) (o : Origin) (i : Nat) (data : Bytes) : d.Untold (d.deliver o i data) := by
  unfold Dev.deliver
  split
  · exact untold_refl d
  · simp only []
    split
    · exact .step (sendData_untold _ _ _ _ _) (untold_of_raised rfl)
    · split
      · split <;> exact untold_of_raised rfl
      · exact untold_of_raised rfl

theorem finishRead_untold (d : Dev) (o : Origin) : d.Untold (d.finishRead o) := by
  unfold Dev.finishRead
  split
  · exact untold_refl d
  · exact .step (finish_untold _ _ _ _ _) (dropOwner_untold d _)

theorem freshBytes_untold (n : Nat) (d : Dev) : d.Untold (Dev.freshBytes n d).2 := by
  induction n generalizing d with
  | zero => exact untold_refl d
  | succ n ih => exact .step (ih _) (untold_of_raised rfl)

theorem peerAligned_untold (d : Dev) (w : Nat × Bytes) : d.Untold (d.peerAligned w) :=
  .emit (.step (freshBytes_untold _ _) (freshBytes_untold _ d))

theorem readDone_untold (d : Dev) (o : Origin) : d.Untold (d.readDone o) := by
  unfold Dev.readDone
  split
  · exact untold_refl d
  · exact untold_ite (.emit (.updCmd (untold_foldl peerAligned_untold _ d))) (finishRead_untold d o)

theorem report_untold (d : Dev) (o : Origin) (cls detail : Nat) (data : Bytes) : d.Untold (d.report o cls detail data) := by
  unfold Dev.report
  split
  · exact untold_refl d
  · exact .step (finish_untold _ _ _ _ _) (untold_ite (untold_refl d) (untold_of_raised rfl))

theorem sample_untold (t : Take) (o : Origin) (d : Dev) (i : Nat) : d.Untold (Dev.sample? t o d i) := by
  unfold Dev.sample?
  split
  · exact deliver_untold d o i _
  · exact untold_of_raised rfl
  · exact untold_of_raised rfl

theorem sampleFreed_untold (d : Dev) (o : Origin) (c : Cmd) : d.Untold (d.sampleFreed o c) := by
  unfold Dev.sampleFreed
  split
  · exact untold_refl d
  · next t _ =>
    refine untold_ite (untold_refl d) (.step (untold_foldl (fun x i => sample_untold t o x i) _ _) ?_)
    exact untold_of_raised rfl

theorem advanceRead_untold (d : Dev) (o : Origin) (c : Cmd) : d.Untold (d.advanceRead o c) :=
  untold_ite (untold_refl d) (untold_ite (sampleFreed_untold d o c)
    (untold_ite (readDone_untold d o) (untold_refl d)))

/-! ### Data of a write that is gathered -/

theorem askMore_untold (d : Dev) (o : Origin) : d.Untold (d.askMore o) := by
  unfold Dev.askMore
  split
  · exact untold_refl d
  · split
    · exact untold_refl d
    · refine untold_ite (untold_refl d) ?_
      split
      · exact untold_refl d
      · next e he => exact (takeUnits_untold he).trans (untold_of_raised rfl)

theorem gatherBlock_untold (d : Dev) (c : Cmd) (i : Nat) : d.Untold (d.gatherBlock c i) := by
  unfold Dev.gatherBlock
  split <;> exact untold_of_raised rfl

theorem keepUnits_untold (d : Dev) (o : Origin) (blocks : List (Nat × Nat)) : d.Untold (d.keepUnits o blocks) := by
  unfold Dev.keepUnits
  split
  · exact untold_of_raised rfl
  · exact untold_of_raised rfl

end Sys2Proof.Machine
end

section
/-! SUPPORT. The commands in flight go on, to the pass over all of them: what they raise (O37). -/

namespace Sys2Proof.Machine

/-! ### A write takes effect (R328, R390 to R392) -/

theorem applyRecord_untold (d : Dev) (o : Origin) : d.Untold (d.applyRecord o) := by
  unfold Dev.applyRecord
  split
  case h_1 => exact untold_refl d
  case h_2 c hc =>
    split
    case h_2 => exact .step (finish_untold _ _ _ _ _) (dropOwner_untold d _)
    case h_1 t v ht hv =>
      have hcommit : ∀ (x : Dev) (ok : Take → Bool) (k : Nat), x.Untold (match x.take? c.take with
          | some t => if ok t then x.commitRange c.take k else x
          | none => x) := fun x ok k => by
        split
        · exact untold_ite (commitRange_untold x _ k _ _ _) (untold_refl x)
        · exact untold_refl x
      refine untold_ite (untold_refl d) (untold_ite (.step (finish_untold _ _ _ _ _) (dropOwner_untold d _)) ?_)
      refine untold_ite (untold_of_raised rfl) (untold_ite ?fua ?plain)
      case fua =>
        refine .updCmd (.step (untold_foldl (fun x k => commitRange_untold x _ k _ _ _) _ _) (.updCmd ?_))
        refine .step (keepUnits_untold _ _ _) (.step (untold_foldl (fun x i => gatherBlock_untold x c i) _ _) ?_)
        exact untold_foldl (fun x k =>
          hcommit x (fun t => t.gather.any fun g => (blocksOf c.offset c.length).contains g.block) k) _ d
      case plain =>
        refine .step (untold_foldl (fun x k => hcommit x (fun t => t.rangeComplete (geometryD v.geometry) k) k) _ _) ?_
        refine .step (finish_untold _ _ _ _ _) (.step (keepUnits_untold _ _ _) (.step (untold_of_raised rfl) ?_))
        exact untold_foldl (fun x i => .same (gatherBlock_untold x c i)) _ d

theorem applyBlockWrite_untold (d : Dev) (o : Origin) : d.Untold (d.applyBlockWrite o) := by
  unfold Dev.applyBlockWrite
  split
  · exact untold_refl d
  · next c _ =>
    have hqueued : ∀ x : Dev, d.Untold x → ∀ ids, d.Untold (if c.fua then
          x.updCmd o fun y => { y with phase := .medium, waits := ids }
        else x.finish o clsOk 0 0) := fun x hx ids => untold_ite (.updCmd hx) (.step (finish_untold _ _ _ _ _) hx)
    refine untold_ite (.step (loseBlk_untold _ _ _ (by decide)) (hqueued _ ?_ _)) (hqueued _ ?_ _)
    all_goals refine .step (keepUnits_untold _ _ _) ?_
    all_goals exact untold_of_raised rfl

theorem publishFua_untold (d : Dev) (c : Cmd) : d.Untold (d.publishFua c) := by
  refine .step (untold_of_raised rfl) (untold_foldl (fun x bx => ?_) _ d)
  split
  · exact untold_refl x
  · exact untold_of_raised rfl

theorem advanceFua_untold (d : Dev) (o : Origin) (c : Cmd) : d.Untold (d.advanceFua o c) := by
  have hdone : d.Untold (if c.thermal then (d.publishFua c).finish o clsThermal 1 c.length
      else (d.publishFua c).finish o clsOk 0 c.length) :=
    untold_ite (.step (finish_untold _ _ _ _ _) (publishFua_untold d c))
      (.step (finish_untold _ _ _ _ _) (publishFua_untold d c))
  unfold Dev.advanceFua
  simp only []
  split
  · exact untold_ite (untold_refl d) (untold_ite hdone (untold_of_raised rfl))
  · exact untold_ite hdone (untold_ite (finish_untold d _ _ _ _) (untold_refl d))
  · exact untold_refl d

/-! ### Commands that start -/

theorem startRead_untold (d : Dev) (o : Origin) : d.Untold (d.startRead o) := by
  unfold Dev.startRead
  split
  · exact untold_refl d
  · next c _ =>
    split
    · exact refuse_untold d _ _ _
    · next t _ =>
      refine untold_ite (refuse_untold d _ _ _) (untold_skip ?_ (needUnits_untold _ _ _))
      exact .step (untold_foldl (fun x i => sample_untold t o x i) _ _)
        (.updCmd (untold_ite (untold_refl d) (.emit (untold_refl d))))

theorem startOpen_untold (d : Dev) (o : Origin) : d.Untold (d.startOpen o) := by
  unfold Dev.startOpen
  split
  · exact untold_refl d
  · split
    · exact refuse_untold d _ _ _
    · refine untold_ite (refuse_untold d _ _ _) (untold_ite (refuse_untold d _ _ _)
        (untold_ite (refuse_untold d _ _ _) (untold_ite (refuse_untold d _ _ _) ?_)))
      exact .step (finish_untold _ _ _ _ _) (untold_of_raised rfl)

theorem startClose_untold (d : Dev) (o : Origin) : d.Untold (d.startClose o) := by
  unfold Dev.startClose
  split
  · exact untold_refl d
  · split
    · exact refuse_untold d _ _ _
    · split
      · exact report_untold d _ _ _ _
      · exact untold_of_raised rfl
      · exact untold_of_raised rfl

theorem startBlockWrite_untold (d : Dev) (o : Origin) : d.Untold (d.startBlockWrite o) := by
  unfold Dev.startBlockWrite
  split
  · exact untold_refl d
  · exact untold_ite (refuse_untold d _ _ _) (untold_ite (refuse_untold d _ _ _)
      (untold_ite (refuse_untold d _ _ _) (untold_of_raised rfl)))

theorem basinHeader_untold (d : Dev) (pba : Nat) : d.Untold (d.basinHeader pba).2 := by
  unfold Dev.basinHeader
  split
  · exact untold_refl d
  · exact freshBytes_untold 128 d

theorem startBlockRead_untold (d : Dev) (o : Origin) : d.Untold (d.startBlockRead o) := by
  unfold Dev.startBlockRead
  split
  · exact untold_refl d
  · simp only []
    refine untold_ite (refuse_untold d _ _ _) ?_
    split
    · refine .step (finish_untold _ _ _ _ _) (untold_ite ?_ (untold_of_raised rfl))
      exact .emit (.step (basinHeader_untold _ _) (untold_of_raised rfl))
    · exact .step (needUnits_untold _ _ _) (untold_of_raised rfl)

theorem startData_untold (mem : List Host.Cell) (d : Dev) (o : Origin) : d.Untold (d.startData mem o) := by
  unfold Dev.startData
  split
  · exact untold_refl d
  · next c _ =>
    have hlist : d.Untold (if c.sgl = [] then d else d.emit (.hostRead c.addr (16 * c.sgl.length) true)) :=
      untold_ite (untold_refl d) (untold_of_raised rfl)
    simp only []
    split
    · exact untold_ite (.updCmd hlist) (.updCmd hlist)
    · exact .updCmd hlist

theorem startRange_untold (mem : List Host.Cell) (d : Dev) (o : Origin) : d.Untold (d.startRange mem o) := by
  unfold Dev.startRange
  split
  · exact untold_refl d
  · split
    · split
      · exact refuse_untold d _ _ _
      · exact startData_untold mem d o
    · exact startRead_untold d o
    · exact startRead_untold d o
    · exact startOpen_untold d o
    · exact startClose_untold d o
    · split
      · exact report_untold d _ _ _ _
      · exact refuse_untold d _ _ _
    · simp only []
      split
      · exact untold_ite (.step (startData_untold _ _ _) (startBlockWrite_untold d o)) (startBlockWrite_untold d o)
      · exact startBlockWrite_untold d o
    · exact startBlockRead_untold d o
    · exact untold_refl d

/-! ### The end of a take, of a flush and of a load -/

theorem closeFails_untold (d : Dev) (take detail : Nat) : d.Untold (d.closeFails take detail) :=
  .step (untold_foldl (fun x o => finish_untold x o _ _ _) _ _) (untold_of_raised rfl)

theorem closeDone_untold (d : Dev) (take : Nat) (cert : Bytes) (time : Nat) : d.Untold (d.closeDone take cert time) :=
  .step (untold_foldl (fun x o => report_untold x o _ _ _) _ _) (.step (takeCounts_untold _) (untold_of_raised rfl))

theorem advanceClose_untold (d : Dev) (o : Origin) (c : Cmd) : d.Untold (d.advanceClose o c) := by
  unfold Dev.advanceClose
  split
  · exact untold_refl d
  · split
    · exact untold_ite (untold_refl d) (.updCmd (commitTake_untold d _ _))
    · refine untold_ite (untold_refl d) ?_
      split
      · exact closeFails_untold d _ _
      · exact untold_ite (closeFails_untold d _ _) (untold_ite (closeFails_untold d _ _) (untold_of_raised rfl))
    · refine untold_ite (untold_refl d) ?_
      split
      · exact closeFails_untold d _ _
      · refine untold_ite (closeFails_untold d _ _) (.updCmd ?_)
        exact .step (appendRec_untold _ _ _ _) (.step (newGroup_untold _)
          (.step (appendAlloc_untold _) (untold_of_raised rfl)))
    · exact untold_ite (closeDone_untold d _ _ _) (untold_ite (closeFails_untold d _ _) (untold_refl d))
    · exact untold_refl d

theorem advanceFlush_untold (d : Dev) (o : Origin) (c : Cmd) : d.Untold (d.advanceFlush o c) := by
  unfold Dev.advanceFlush
  split
  · exact untold_ite (untold_refl d) (.updCmd (appendAlloc_untold d))
  · refine untold_ite ?_ (untold_ite (finish_untold d _ _ _ _) (untold_refl d))
    split <;> exact finish_untold d _ _ _ _
  · exact untold_refl d

theorem unload_untold (d : Dev) : d.Untold d.unload := by
  refine .trans (e := List.foldl Dev.dropOwner (d.wr .rvActive [] 0) _) ?_ (untold_of_raised rfl)
  exact .step (untold_foldl dropOwner_untold _ _) (untold_of_raised rfl)

theorem endOfLoad_untold (d : Dev) : d.Untold d.endOfLoad :=
  .step (untold_foldl (fun x (c : Cmd) => refuse_untold x c.origin _ _) _ _)
    (untold_foldl (fun x (b : Blk) => failWriters_untold x _ b.writers (by decide)) _ d)

theorem advanceUnload_untold (d : Dev) (o : Origin) (c : Cmd) : d.Untold (d.advanceUnload o c) := by
  unfold Dev.advanceUnload
  split
  · refine untold_ite (untold_refl d) (untold_ite (.updCmd ?_) (.updCmd (appendAlloc_untold d)))
    exact (commitAll_untold d o).trans (untold_of_raised rfl)
  · exact untold_ite (untold_of_raised rfl) (untold_ite (untold_refl d)
      (untold_ite (untold_of_raised rfl) (untold_ite (untold_of_raised rfl) (untold_refl d))))
  · refine untold_ite ?_ (untold_refl d)
    simp only []
    split <;> exact .step (finish_untold _ _ _ _ _) (.step (unload_untold _) (endOfLoad_untold d))
  · exact untold_refl d

theorem advanceLoad_untold (d : Dev) (o : Origin) (c : Cmd) : d.Untold (d.advanceLoad o c) := by
  unfold Dev.advanceLoad
  refine untold_ite (untold_refl d) (untold_ite (untold_refl d) ?_)
  split <;> exact .step (finish_untold _ _ _ _ _) (untold_of_raised rfl)

/-! ### A pass over the commands -/

theorem advance_untold (mem : List Host.Cell) (d : Dev) (o : Origin) : d.Untold (d.advance mem o) := by
  unfold Dev.advance
  split
  case h_1 => exact untold_refl d
  case h_2 c hc =>
    refine untold_ite (untold_ite (untold_refl d) (startRange_untold mem d o)) ?_
    split
    · split
      · exact untold_ite (askMore_untold d o) (untold_ite (untold_refl d) (applyRecord_untold d o))
      · refine untold_ite (untold_refl d) ?_
        split
        · exact .step (finish_untold _ _ _ _ _) (dropOwner_untold d _)
        · exact .step (applyRecord_untold _ o) (untold_of_raised rfl)
      · exact advanceFua_untold d o c
    · split
      · exact untold_ite (applyBlockWrite_untold d o) (askMore_untold d o)
      · exact untold_ite (untold_refl d) (untold_ite (untold_of_raised rfl) (finish_untold d _ _ _ _))
      · exact untold_ite (finish_untold d _ _ _ _) (untold_ite (finish_untold d _ _ _ _) (untold_refl d))
      · exact untold_refl d
    · exact advanceRead_untold d o c
    · exact advanceRead_untold d o c
    · exact untold_ite (finishRead_untold d o) (untold_refl d)
    · exact advanceFlush_untold d o c
    · exact advanceClose_untold d o c
    · exact advanceLoad_untold d o c
    · exact advanceUnload_untold d o c
    · exact untold_ite (finish_untold d _ _ _ _) (untold_refl d)
    · exact untold_refl d

theorem settle_untold (mem : List Host.Cell) (d : Dev) : d.Untold (d.settle mem) := by
  have honce : ∀ x : Dev, x.Untold (x.settleOnce mem) := fun x => untold_foldl (fun y o => advance_untold mem y o) _ x
  have hpasses : ∀ n (x : Dev), x.Untold (Dev.settleN mem n x) := fun n => by
    induction n with
    | zero => exact untold_refl
    | succ n ih => exact fun x => untold_ite (honce x) ((honce x).trans (ih _))
  exact hpasses _ d

end Sys2Proof.Machine
end

section
/-! SUPPORT. What stopping the deck raises, and the whole of what follows a command (O37). -/

namespace Sys2Proof.Machine

/-! ### Rows abandoned (R261, R276) -/

theorem sendSettings_untold (d : Dev) (p : Nat) : d.Untold (d.sendSettings p) := by
  refine untold_ite (untold_refl d) (.updPk (untold_foldl (fun x f => ?_) _ d))
  exact untold_of_raised rfl

theorem catSettle_untold (d : Dev) (p : Nat) (lanes : List Nat) (failed : Option Nat) :
    d.Untold (d.catSettle p lanes failed) := by
  have hprogress : ∀ x : Dev, x.Untold x.catProgress := fun x => by
    unfold Dev.catProgress
    split
    · exact untold_refl x
    · exact untold_ite (untold_of_raised rfl) (untold_of_raised rfl)
  unfold Dev.catSettle
  split
  · exact untold_refl d
  · exact .step (hprogress _) (untold_of_raised rfl)

theorem abandon_untold (d : Dev) (p : Nat) (rw : RowWrite) (cause : Nat) : d.Untold (d.abandon p rw cause) := by
  have hstop : d.Untold (if rw.started then d.fresh.2.emit (.wstbLow p) else d) :=
    untold_ite (untold_of_raised rfl) (untold_refl d)
  unfold Dev.abandon
  simp only []
  refine .step (sendSettings_untold _ p) (.raiseFor (.wr ?_))
  split
  · exact .step (catSettle_untold _ _ _ _) (.step (untold_foldl (fun x (e : Nat × Nat) => dropBlk_untold x e.2) _ _)
      (.wr (.wr (.wr (.wr (.updPk hstop))))))
  · exact .updPk (.wr (.wr (.wr (.wr (.updPk hstop)))))
  · refine .step (untold_foldl (fun x e => ?_) _ _) (.wr (.wr (.wr (.wr (.updPk hstop)))))
    exact untold_of_raised rfl

theorem voidTest_untold (d : Dev) (p : Nat) : d.Untold (d.voidTest p) :=
  untold_ite (untold_of_raised rfl) (untold_refl d)

theorem abandonAll_untold (d : Dev) (p cause : Nat) : d.Untold (d.abandonAll p cause) :=
  .step (voidTest_untold _ p) (untold_foldl (fun x rw => abandon_untold x p rw cause) _ d)

theorem abandonNow_untold (d : Dev) (p cause : Nat) : d.Untold (d.abandonNow p cause) := by
  unfold Dev.abandonNow
  split
  · exact abandon_untold d p _ cause
  · exact voidTest_untold d p

/-! ### Reads and writes that are given up (R158, R279 to R293) -/

theorem failWriteFor_untold (d : Dev) {det : Nat} (id : Nat) (h : le 4 det ≠ le 4 detFocus) : d.Untold (d.failWriteFor det id) := by
  unfold Dev.failWriteFor
  split
  · exact untold_refl d
  · refine untold_ite (loseBlk_untold d id _ h) (untold_foldl (fun x w => ?_) _ d)
    exact .step (finish_untold _ _ _ _ _) (untold_of_raised (noteFailed_raised x w))

theorem seekLost_untold (d : Dev) (p : Nat) (k : Seek) : d.Untold (d.seekLost p k) := by
  refine .step (untold_foldl (fun x i => failWriteFor_untold x i (by decide)) _ _) ?_
  exact untold_of_raised rfl

theorem failRead_untold (pba det : Nat) (d : Dev) (o : Origin) : d.Untold (Dev.failRead pba det d o) := by
  unfold Dev.failRead
  split
  · exact untold_refl d
  · refine untold_ite (.step (finish_untold _ _ _ _ _) (.step (dropOwner_untold _ _) (untold_of_raised rfl))) ?_
    exact .step (untold_foldl (fun x n => .updCmd (untold_refl x)) _ _) (untold_of_raised rfl)

theorem leaveLadder_untold (d : Dev) (pba : Nat) : d.Untold (d.leaveLadder pba) := by
  unfold Dev.leaveLadder
  split
  · exact untold_refl d
  · refine .updPk (.step (dropOwner_untold _ _) (untold_ite ?_ (.wr ?_)))
    all_goals exact untold_of_raised rfl

theorem noteScrub_untold (d : Dev) (pba : Nat) (weak lost : Bool) : d.Untold (d.noteScrub pba weak lost) :=
  untold_ite (untold_of_raised rfl) (untold_refl d)

theorem unrecovered_untold (d : Dev) (pba level det : Nat) : d.Untold (d.unrecovered pba level det) := by
  have hleft : d.Untold (((d.leaveLadder pba).gatherMember pba none).noteScrub pba false true) :=
    .step (noteScrub_untold _ _ _ _) ((leaveLadder_untold d pba).trans (untold_of_raised rfl))
  exact .step (untold_foldl (fun x o => failRead_untold pba det x o) _ _) (untold_ite hleft (.raiseFor (.wr hleft)))

theorem enter_untold (d : Dev) (pba level outcome : Nat) (start : Taps) (seekFirst : Bool) (decoded : Decoded)
    (live : LivePass) : d.Untold (d.enter pba level outcome start seekFirst decoded live) :=
  untold_ite (untold_of_raised rfl) (untold_of_raised rfl)

theorem blankOrLadder_untold (d : Dev) (pba outcome : Nat) (start : Taps) (seekFirst : Bool) (decoded : Decoded)
    (live : LivePass) : d.Untold (d.blankOrLadder pba outcome start seekFirst decoded live) := by
  have hblank : d.Untold (((d.readers pba).filter fun _ => d.neverAllocated pba).foldl
      (fun d o => Dev.failRead pba (detOutcome 2) d o) d) := untold_foldl (fun x o => failRead_untold _ _ x o) _ d
  refine untold_ite (.step (untold_ite ?_ ?_) hblank) hblank
  · exact unrecovered_untold _ _ _ _
  · exact enter_untold _ _ _ _ _ _ _ _

theorem endRead_untold (d : Dev) (p : Nat) : d.Untold (d.endRead p) := by
  refine untold_ite (untold_refl d) (.step (untold_foldl (fun x a => ?_) _ _) ?_)
  · refine .step (blankOrLadder_untold _ _ _ _ _ _ _) ?_
    exact untold_of_raised rfl
  · exact untold_ite (untold_of_raised rfl) (untold_of_raised rfl)

/-! ### Sleds and spindles that stop (R160 to R166, R196, R199) -/

theorem unhome_untold (d : Dev) (p cause : Nat) : d.Untold (d.unhome p cause) :=
  untold_ite (untold_of_raised rfl) (.raise (untold_of_raised rfl))

theorem halt_untold (d : Dev) (p : Nat) (how : Option Nat) : d.Untold (d.halt p how) := by
  unfold Dev.halt
  split
  · exact unhome_untold d p _
  · exact untold_ite (untold_refl d) (untold_of_raised rfl)

theorem raiseMotion_untold (d : Dev) (p sub : Nat) {code : Nat} (b : Bytes) (h : code ≠ evDeferredError) :
    d.Untold (d.raiseMotion p sub code b) := .raiseFor (untold_refl d) h

theorem homingOver_untold (d : Dev) (p : Nat) (ok : Bool) : d.Untold (d.homingOver p ok) := untold_of_raised rfl

theorem seekFails_untold (d : Dev) (p cause : Nat) : d.Untold (d.seekFails p cause) := by
  unfold Dev.seekFails
  split
  · exact untold_refl d
  · have hraised := fun b => raiseMotion_untold d p 20 (code := evSeekFail) b (by decide)
    exact untold_ite ((hraised _).trans (untold_of_raised rfl)) ((hraised _).trans (seekLost_untold _ _ _))

theorem homeFails_untold (d : Dev) (p cause unhomedCause : Nat) : d.Untold (d.homeFails p cause unhomedCause) := by
  unfold Dev.homeFails
  refine untold_ite (untold_refl d) ?_
  have hover : d.Untold ((((({ d with homing := tdel d.homing p } : Dev).raiseMotion p 20 evHomeFail [cause]).unhome p
      unhomedCause).updSled p fun s => { s with homeBlocked := true }).homingOver p false) := by
    refine .step (homingOver_untold _ _ _) (.updSled (.step (unhome_untold _ _ _) ?_))
    exact .step (raiseMotion_untold _ _ _ _ (by decide)) (untold_of_raised rfl)
  simp only []
  split
  · exact .step (seekLost_untold _ _ _) hover
  · exact hover

theorem stopSled_untold (d : Dev) (p : Nat) (fault : Bool) : d.Untold (d.stopSled p fault) := by
  refine .trans (.step (endRead_untold _ p) (abandonNow_untold d p abSled)) ?_
  refine untold_ite (homeFails_untold _ _ _ _) (untold_ite ?_ ?_)
  · split
    · exact unhome_untold _ _ _
    · exact untold_refl _
  · exact .step (halt_untold _ _ _) (untold_ite (seekFails_untold _ _ _) (untold_refl _))

theorem leaveRun_untold (d : Dev) (n : Nat) : d.Untold (d.leaveRun n) :=
  untold_ite (untold_refl d) (.updSpin (.wr (.step (abandonAll_untold _ _ _) (abandonAll_untold d _ _))))

theorem beginStop_untold (d : Dev) (n : Nat) : d.Untold (d.beginStop n) := by
  refine untold_ite (untold_refl d) (untold_ite (untold_of_raised rfl) (.wr ?_))
  exact untold_ite (leaveRun_untold d n) (untold_of_raised rfl)

theorem setTarget_untold (d : Dev) (n t : Nat) : d.Untold (d.setTarget n t) := by
  have htaken : d.Untold (if d.rd .spTarget [n] = t then d
      else ((d.wr .spTarget [n] t).wr .spAtspeed [n] 0).updSpin n fun k => { k with ceilingPosted := false }) :=
    untold_ite (untold_refl d) (untold_of_raised rfl)
  exact untold_ite (.step (beginStop_untold _ n) htaken) htaken

theorem stopDeck_untold (d : Dev) : d.Untold d.stopDeck := by
  have hsleds : ∀ (x : Dev) p, x.Untold (if x.slSt p = slUnhomed then x.noSeek p else (x.stopSled p false).noSeek p) :=
    fun x p => untold_ite (untold_of_raised rfl) (.same (stopSled_untold x p false))
  have hlearned : ∀ x : Dev, x.Untold { x with
      regs := x.regs.filter fun (r : Fld × Nat) => r.1.row != .spLearned,
      spin := x.spin.map fun e => (e.1, { e.2 with learnOwed := [false, false], learn := [[], []] }) } :=
    fun x => untold_of_raised rfl
  exact .step (hlearned _) (.step (untold_foldl (fun x n => setTarget_untold x n 0) _ _)
    (.step (untold_foldl hsleds _ _) (untold_of_raised rfl)))

/-! ### What follows a command -/

theorem reportUnmapped_untold (d : Dev) : d.Untold d.reportUnmapped := by
  refine untold_ite (untold_refl d) (.step (untold_foldl (fun x w => untold_ite (untold_refl x) ?_) _ _) ?_)
  · exact .same (.step (deferError_untold _ w (detail := detCatalogFull) (by decide)) (untold_of_raised (noteFailed_raised x w)))
  · exact untold_of_raised rfl

theorem loseMember_untold (d : Dev) (pba : Nat) : d.Untold (d.loseMember pba) :=
  untold_ite (unrecovered_untold d _ _ _) (untold_ite (enter_untold d _ _ _ _ _ _ _) (unrecovered_untold d _ _ _))

/-- Whatever follows a command, no write that is then lost is lost with the focus. -/
theorem settleDeck_untold (mem : List Host.Cell) (d : Dev) : d.Untold (d.settleDeck mem) := by
  have hfirst : d.Untold ((d.settle mem).recordStripes.settle mem) :=
    .step (settle_untold mem _) (.step (recordStripes_untold _) (settle_untold mem d))
  have hlost : ∀ x : Dev, x.Untold (if x.lostNeeds = [] then x
      else (x.lostNeeds.foldl Dev.loseMember x).settle mem) := fun x =>
    untold_ite (untold_refl x) (.step (settle_untold mem _) (untold_foldl loseMember_untold _ x))
  unfold Dev.settleDeck
  generalize (d.settle mem).recordStripes.settle mem = a at hfirst ⊢
  have hmembers := hfirst.trans (hlost a)
  simp only []
  generalize (if a.lostNeeds = [] then a else (a.lostNeeds.foldl Dev.loseMember a).settle mem) = b at hmembers ⊢
  have hreported := hmembers.trans (reportUnmapped_untold b)
  exact untold_ite (.step (settle_untold mem _) (.step (stopDeck_untold _) hreported)) hreported

end Sys2Proof.Machine
end

section
/-! SUPPORT. The obligation on focus and track loss (O37). It fails where the second sweep of a capture finds nothing while a
BLOCK_WRITE waits for a row of the pickup's layer: the pickup cannot carry out motion (R134), so the write is lost with the
focus, and its deferred error is posted (R343) after FOCUS_FAIL, which the statement says is all that is raised. -/

namespace Sys2Proof.Machine

/-! ### What the sources keep of a report -/

/-- The source's last occurrence tells of a write lost with the focus. -/
def Src.FocusError (x : Src) : Prop := x.code = evDeferredError ∧ x.payload.drop 4 = le 4 detFocus

theorem occur_focusError (x : Src) (time : Nat) (o : Occ) :
    (x.occur time o.code o.payload).FocusError ↔ o.FocusError := by
  unfold Src.occur
  split <;> exact Iff.rfl

/-- A source whose last occurrence tells of such a write told of it before, or it was raised. -/
theorem countRaised_focusError {time k : Nat} {l : List Occ} {ev : Tab Src}
    (h : (tget {} (countRaised time l ev) k).FocusError) : (tget {} ev k).FocusError ∨ ∃ o ∈ l, o.FocusError := by
  induction l generalizing ev with
  | nil => exact .inl h
  | cons o l ih =>
    obtain hev | ⟨x, hx, hf⟩ := ih h
    · rw [tget_tset] at hev
      split at hev
      · exact .inr ⟨o, List.mem_cons_self, (occur_focusError _ _ o).1 hev⟩
      · exact .inl hev
    · exact .inr ⟨x, List.mem_cons_of_mem o hx, hf⟩

theorem commit_focusError {s : State} {d : Dev} {k : Nat} (h : (tget {} (s.commit d).ev k).FocusError) :
    (tget {} s.ev k).FocusError ∨ ∃ o ∈ d.raised, o.FocusError :=
  countRaised_focusError (time := d.time) h

/-! ### A write that waits while the second sweep ends -/

/-- The write of the raw block: it completed when its data was in the basin. -/
def waitingWriter : Writer := { origin := .ring 0 0, cookie := 0, op := 9, fua := false, offset := 0, target := 0 }

/-- A raw block for row 0 of layer 0. -/
def waitingBlock : Blk :=
  { id := 7, kind := .raw, data := [], surface := 0, lane := 1, fixed := some 0, writers := [waitingWriter] }

/-- The second sweep of a capture, whose time is over: FOCUS.SEARCH_T is 100 ms, of 400 samples each. -/
def sweepOver : FocusCap := { step := .sweep, sweep := 2, samples := 40000 }

/-- Pickup 0 searches focus in its second sweep, whose time is over, and the block waits in its first lane. -/
def sweepState : State :=
  { State.reset with
    dev := { regs := [(⟨.axState, [0, 0]⟩, axSearch)],
             servo := [(0, { cap := some sweepOver })], blks := [waitingBlock], pk := [(0, { queues := [[7], [], [], [], [], [], []] })] } }

/-- The device once the capture has failed. -/
def sweepEnd : Dev :=
  (((sweepState.dev.raiseMotion 0 16 evFocusFail).seqAx 0 0 axOff).motionLost 0 detFocus).homeFails 0 2 5

theorem sweepEnd_raised : sweepEnd.raised = [⟨16, evFocusFail, []⟩, ⟨0x500, evDeferredError, le 4 0 ++ le 4 detFocus⟩] := by
  decide +kernel

theorem focusSweepEnd_fails : exec (.focusSweepEnd 0) sweepState = .next (sweepState.commit sweepEnd) := by
  have hidle : sweepEnd.settleDeck sweepState.mem = sweepEnd :=
    settleDeck_idle _ _ (by decide +kernel) (by decide +kernel) (by decide +kernel)
  exact congrArg (fun d => Host.Outcome.next (sweepState.commit d)) hidle

theorem sweepEnd_tells : (tget {} (sweepState.commit sweepEnd).ev 0x500).FocusError := by
  unfold Src.FocusError State.commit
  rw [sweepEnd_raised]
  decide

/-- Refutes O37: in the second sweep of pickup 0 the focus is lost with a write that waits for the pickup, and its deferred error
follows FOCUS_FAIL; a device that has raised FOCUS_FAIL alone comes to no such report (`settleDeck_untold`). -/
theorem not_focusIsSoughtAndLost : ¬ Obligations.FocusIsSoughtAndLost := by
  unfold Obligations.FocusIsSoughtAndLost
  rintro ⟨-, -, hsecond, -⟩
  obtain ⟨d, hmakes, -, -, hraised⟩ := hsecond sweepState 0 sweepOver rfl rfl rfl (by decide) (by decide) (by decide) (by decide) rfl
  have hsame : sweepState.commit (d.settleDeck sweepState.mem) = sweepState.commit sweepEnd :=
    Host.Outcome.next.inj (hmakes.symm.trans focusSweepEnd_fails)
  have htells : (tget {} (sweepState.commit (d.settleDeck sweepState.mem)).ev 0x500).FocusError := by
    rw [hsame]
    exact sweepEnd_tells
  obtain hbefore | ⟨o, ho, hf⟩ := commit_focusError htells
  · exact absurd hbefore.1 (by decide)
  · have htold := settleDeck_untold sweepState.mem d o ho hf
    rw [hraised] at htold
    obtain rfl : o = _ := List.mem_singleton.1 htold
    exact absurd hf.1 (by decide)

end Sys2Proof.Machine
end

section
/-! SUPPORT. The records of sleds, seeks and homings after an update, as links of a chain of changes; signed fields and rounded
quotients; and what a motion reports. -/

namespace Sys2Proof.Machine

/-! ### Links -/

section
variable (d : Dev) (p : Nat) {fs : List Fld} {es : List (Table × Nat)} {ps : List Part}

theorem onlyChanges_wrS (r : Row) (ix : List Nat) (v : Int) (h : ⟨r, ix⟩ ∈ fs) : d.OnlyChanges (d.wrS r ix v) fs es ps :=
  onlyChanges_wr d r ix _ h

theorem onlyChanges_updSled (f : Sled → Sled) (h : (.sled, p) ∈ es) : d.OnlyChanges (d.updSled p f) fs es ps := by
  refine ⟨fun _ _ => rfl, fun t k hk => ?_, fun q _ => ?_⟩
  · cases t
    case sled =>
      have hne : k ≠ p := fun he => hk (he ▸ h)
      simp [Table.Same, Dev.sledS, Dev.updSled, hne]
    all_goals rfl
  · cases q <;> simp [Part.Same, Dev.updSled]

theorem onlyChanges_setSeek (k : Seek) (h : (.seek, p) ∈ es) : d.OnlyChanges (d.setSeek p k) fs es ps := by
  refine ⟨fun _ _ => rfl, fun t q hq => ?_, fun q _ => ?_⟩
  · cases t
    case seek =>
      have hne : q ≠ p := fun he => hq (he ▸ h)
      simp [Table.Same, Dev.seekS, Dev.setSeek, hne]
    all_goals rfl
  · cases q <;> simp [Part.Same, Dev.setSeek]

theorem onlyChanges_homing (l : Tab Homing) (hl : ∀ q, q ≠ p → tfind l q = tfind d.homing q) (h : (.homing, p) ∈ es) :
    d.OnlyChanges { d with homing := l } fs es ps := by
  refine ⟨fun _ _ => rfl, fun t k hk => ?_, fun q _ => ?_⟩
  · cases t
    case homing => exact hl k fun he => hk (he ▸ h)
    all_goals rfl
  · cases q <;> simp [Part.Same]

theorem onlyChanges_setHoming (k : Homing) (h : (.homing, p) ∈ es) : d.OnlyChanges (d.setHoming p k) fs es ps :=
  onlyChanges_homing d p _ (fun q hq => by simp [hq]) h

theorem onlyChanges_homingDone (h : (.homing, p) ∈ es) : d.OnlyChanges { d with homing := tdel d.homing p } fs es ps :=
  onlyChanges_homing d p _ (fun q hq => by simp [hq]) h

theorem onlyChanges_homingOver (ok : Bool) (h : .cmds ∈ ps) : d.OnlyChanges (d.homingOver p ok) fs es ps :=
  onlyChanges_cmds d _ d.nextSerial h

theorem onlyChanges_ladder (l : List Ladder) (h : .ladder ∈ ps) : d.OnlyChanges { d with ladder := l } fs es ps := by
  refine ⟨fun _ _ => rfl, fun t k _ => by cases t <;> rfl, fun q hq => ?_⟩
  cases q
  case ladder => exact absurd h hq
  all_goals simp [Part.Same]

/-- An event of a motion is raised, and the commands that the motion serves are its causes (R573). -/
theorem onlyChanges_raiseMotion (sub code : Nat) (b : Bytes) (hr : .raised ∈ ps) (hc : .caused ∈ ps) :
    d.OnlyChanges (d.raiseMotion p sub code b) fs es ps := by
  refine ⟨fun _ _ => rfl, fun t k _ => by cases t <;> rfl, fun q hq => ?_⟩
  cases q
  case raised => exact absurd hr hq
  case caused => exact absurd hc hq
  all_goals simp [Part.Same, Dev.raiseMotion, Dev.raiseFor, Dev.raise]

theorem raised_raiseMotion (sub code : Nat) (b : Bytes) :
    (d.raiseMotion p sub code b).raised = d.raised ++ [⟨32 * p + sub, code, b⟩] := rfl

end

/-! ### What a chain of changes keeps -/

section
variable {d e : Dev} {p : Nat} {fs : List Fld} {es : List (Table × Nat)} {ps : List Part} (h : d.OnlyChanges e fs es ps)
include h

theorem Dev.OnlyChanges.sledS (hp : (.sled, p) ∉ es) : e.sledS p = d.sledS p := h.2.1 .sled p hp

theorem Dev.OnlyChanges.seekS (hp : (.seek, p) ∉ es) : e.seekS p = d.seekS p := h.2.1 .seek p hp

theorem Dev.OnlyChanges.slSt (hp : ⟨.slState, [p]⟩ ∉ fs) : e.slSt p = d.slSt p := h.rd hp

theorem Dev.OnlyChanges.rdS {r : Row} {ix : List Nat} (hr : ⟨r, ix⟩ ∉ fs) : e.rdS r ix = d.rdS r ix := by
  rw [Dev.rdS, h.rd hr]
  rfl

theorem Dev.OnlyChanges.slP (hp : ⟨.slPos, [p]⟩ ∉ fs) : e.slP p = d.slP p := h.rdS hp

theorem Dev.OnlyChanges.sledOut80 (hs : (.sled, p) ∉ es) (hp : ⟨.slPos, [p]⟩ ∉ fs) : e.sledOut80 p = d.sledOut80 p := by
  rw [Dev.sledOut80, h.sledS hs, h.slP hp]
  rfl

end

/-! ### The records of one pickup -/

section
variable (d : Dev) (p : Nat)

theorem sledS_updSled_self (f : Sled → Sled) : (d.updSled p f).sledS p = f (d.sledS p) := by simp [Dev.sledS, Dev.updSled]

theorem seekS_setSeek_self (k : Seek) : (d.setSeek p k).seekS p = some k := by simp [Dev.seekS, Dev.setSeek]

theorem seekS_noSeek_self : (d.noSeek p).seekS p = none := by simp [Dev.seekS, Dev.noSeek]

theorem homingS_setHoming_self (k : Homing) : (d.setHoming p k).homingS p = some k := by simp [Dev.homingS, Dev.setHoming]

theorem homingS_homingDone : ({ d with homing := tdel d.homing p } : Dev).homingS p = none := by simp [Dev.homingS]

theorem slSt_setSl_self {st : Nat} (h : st < 8) : (d.setSl p st).slSt p = st := rd_wr_self _ _ _ _ h

end

theorem thas_seek (d : Dev) (p : Nat) : thas d.seek p = (d.seekS p).isSome := thas_eq_isSome _ _

theorem thas_homing (d : Dev) (p : Nat) : thas d.homing p = (d.homingS p).isSome := thas_eq_isSome _ _

theorem homingS_of_nil {d : Dev} (h : d.homing = []) (p : Nat) : d.homingS p = none := by
  rw [Dev.homingS, h]
  rfl

/-! ### Signed fields and rounded quotients -/

/-- A signed number of w + 1 bits reads back from two's complement (R539). -/
theorem ofTwos_toTwos (w : Nat) (v : Int) (hlo : -2 ^ w ≤ v) (hhi : v < 2 ^ w) : ofTwos (w + 1) (toTwos (w + 1) v) = v := by
  have hlt := toTwos_lt (w + 1) v
  have hpow : (2 : Int) ^ (w + 1) = 2 * 2 ^ w := by ring
  have hval : (toTwos (w + 1) v : Int) = if 0 ≤ v then v else v + 2 * 2 ^ w := by
    rw [toTwos, hpow, Int.toNat_of_nonneg (Int.emod_nonneg _ (by positivity))]
    split
    · exact Int.emod_eq_of_lt ‹_› (by omega)
    · rw [← Int.add_emod_right, Int.emod_eq_of_lt (by omega) (by omega)]
  have hhalf : toTwos (w + 1) v < 2 ^ w ↔ (toTwos (w + 1) v : Int) < 2 ^ w := by exact_mod_cast Iff.rfl
  rw [ofTwos, Nat.mod_eq_of_lt hlt, Nat.add_sub_cancel, hpow]
  simp only [hhalf, hval]
  split_ifs <;> omega

/-- What a write of a signed 32-bit field leaves to read. -/
theorem rdS_wrS_self (d : Dev) (r : Row) (ix : List Nat) (v : Int) (hw : r.spec.width = 32) (hlo : -2147483648 ≤ v)
    (hhi : v < 2147483648) : (d.wrS r ix v).rdS r ix = v := by
  rw [Dev.rdS, rd_wrS, if_pos ⟨rfl, rfl⟩, hw]
  exact ofTwos_toTwos 31 v hlo hhi

/-- The rounded quotient of a number that is not negative. -/
theorem roundDiv_of_nonneg {a b : Int} (ha : 0 ≤ a) (hb : 0 < b) : roundDiv a b = (2 * a + b) / (2 * b) := by
  have hsign : ¬ ((a < 0 ∧ 0 < b) ∨ (0 < a ∧ b < 0)) := by omega
  rw [roundDiv, if_neg hb.ne']
  simp only [if_neg hsign]
  push_cast
  rw [abs_of_nonneg ha, abs_of_pos hb]

end Sys2Proof.Machine
end

section
/-! SUPPORT. The reads of block rows on a pickup depend on a part of its record only: the test writing of OPC and the values that
settle there change none of them. -/

namespace Sys2Proof.Machine

/-- The two records of a pickup give its reads alike. -/
structure Pk.ReadsAlike (k k' : Pk) : Prop where
  queues : k'.queues = k.queues
  rows : k'.rows = k.rows
  loaded : k'.loaded = k.loaded
  formatted : k'.formatted = k.formatted
  deadAll : k'.deadAll = k.deadAll
  lastMark : k'.lastMark = k.lastMark

section
variable {d : Dev} {p : Nat} {f : Pk → Pk} (hf : ∀ k : Pk, k.ReadsAlike (f k))
include hf

theorem pkS_updPk_readsAlike (q : Nat) : (d.pkS q).ReadsAlike ((d.updPk p f).pkS q) := by
  rw [pkS_updPk]
  split
  · next h => exact h ▸ hf _
  · exact ⟨rfl, rfl, rfl, rfl, rfl, rfl⟩

theorem rowNow_updPk_readsAlike (q : Nat) : (d.updPk p f).rowNow q = d.rowNow q :=
  rowNow_of_rows (pkS_updPk_readsAlike hf q).rows

theorem rowUnder_updPk (q : Nat) : (d.updPk p f).rowUnder q = d.rowUnder q := by
  simp only [Dev.rowUnder, Dev.place, (pkS_updPk_readsAlike hf q).lastMark]
  rfl

theorem surfaceOk_updPk (q : Nat) : (d.updPk p f).surfaceOk q = d.surfaceOk q := by
  simp only [Dev.surfaceOk, (pkS_updPk_readsAlike hf q).loaded, (pkS_updPk_readsAlike hf q).formatted]
  rfl

theorem reachable_updPk (q : Nat) : (d.updPk p f).reachable q = d.reachable q := by
  simp only [Dev.reachable, surfaceOk_updPk hf]
  rfl

theorem needsPickup_updPk (q : Nat) : (d.updPk p f).needsPickup q = d.needsPickup q := by
  simp only [Dev.needsPickup, (pkS_updPk_readsAlike hf q).queues, (pkS_updPk_readsAlike hf q).rows]
  rfl

theorem stripeBlocks_updPk (x : Stripe) : (d.updPk p f).stripeBlocks x = d.stripeBlocks x := by
  simp only [Dev.stripeBlocks, reachable_updPk hf]
  rfl

theorem scrubWants_updPk : (d.updPk p f).scrubWants = d.scrubWants := by
  simp only [Dev.scrubWants, stripeBlocks_updPk hf, needsPickup_updPk hf]
  rfl

theorem memberLost_updPk (e : Ladder) (x : Stripe) (l t : Nat) :
    (d.updPk p f).memberLost e x l t = d.memberLost e x l t := by
  simp only [Dev.memberLost, (pkS_updPk_readsAlike hf _).deadAll, reachable_updPk hf]
  rfl

theorem levelSixWants_updPk (e : Ladder) : (d.updPk p f).levelSixWants e = d.levelSixWants e := by
  simp only [Dev.levelSixWants, memberLost_updPk hf, surfaceOk_updPk hf]
  rfl

theorem wanted_updPk (q : Nat) : (d.updPk p f).wanted q = d.wanted q := by
  simp only [Dev.wanted, levelSixWants_updPk hf]
  rfl

/-- The same block row is being read. -/
theorem rowRead_updPk (q : Nat) : (d.updPk p f).rowRead q = d.rowRead q := by
  simp only [Dev.rowRead, wanted_updPk hf, scrubWants_updPk hf, rowUnder_updPk hf]
  rfl

theorem rowBusy_updPk (q : Nat) : (d.updPk p f).rowBusy q = d.rowBusy q := by
  rw [Dev.rowBusy, rowNow_updPk_readsAlike hf, rowRead_updPk hf]
  rfl

end

theorem rowRead_emit (d : Dev) (m : Msg) (q : Nat) : (d.emit m).rowRead q = d.rowRead q := rfl

theorem rowRead_voidTest (d : Dev) (p q : Nat) : (d.voidTest p).rowRead q = d.rowRead q := by
  unfold Dev.voidTest
  split
  · rw [rowRead_updPk, rowRead_emit]
    exact fun _ => ⟨rfl, rfl, rfl, rfl, rfl, rfl⟩
  · rfl

theorem rowNow_voidTest (d : Dev) (p : Nat) : (d.voidTest p).rowNow p = d.rowNow p := rowNow_of_rows voidTest_rows

/-- A sled that does not follow the spiral reads no block row. -/
theorem rowRead_of_slSt {d : Dev} {p : Nat} (h : d.slSt p ≠ slFollow) : d.rowRead p = false := by
  simp [Dev.rowRead, h]

/-- A seek that is set leaves the reads under way as they are. -/
theorem rowBusy_setSeek (d : Dev) (p q : Nat) (k : Seek) : (d.setSeek p k).rowBusy q = d.rowBusy q := rfl

end Sys2Proof.Machine
end

section
/-! SUPPORT. What the motions of a sled share: the axes that they set, moves and seeks that begin, stops, and homings that begin,
fail and succeed (R152 to R168). -/

namespace Sys2Proof.Machine

/-! ### The axes that a motion sets -/

/-- The fields and the records that it takes to set some axes of pickup p. -/
def axFields (p : Nat) (xs : List Nat) : List Fld := xs.flatMap fun x => [⟨.axState, axIx p x⟩, ⟨.axInteg, axIx p x⟩]
def axEntries (p : Nat) (xs : List Nat) : List (Table × Nat) := (.pk, p) :: xs.map fun x => (.ax, axKey p x)

theorem sled_notMem_axFields {r : Row} (hs : r ≠ .axState) (hi : r ≠ .axInteg) (ix : List Nat) (p : Nat) (xs : List Nat) :
    ⟨r, ix⟩ ∉ axFields p xs := by
  simp [axFields, hs, hi]

section
variable {d : Dev} {p st : Nat} (h : d.MaySet p st)
include h

theorem onlyChanges_seqAx_mem {x : Nat} {xs : List Nat} (hx : x ∈ xs) :
    d.OnlyChanges (d.seqAx p x st) (axFields p xs) (axEntries p xs) [.out] := by
  refine (onlyChanges_seqAx h).mono ?_ ?_ (List.Subset.refl _)
  · exact fun f hf => List.mem_flatMap.2 ⟨x, hx, hf⟩
  · intro e he
    simp only [List.mem_cons, List.not_mem_nil, or_false] at he
    obtain rfl | rfl := he
    · exact List.mem_cons_of_mem _ (List.mem_map.2 ⟨x, hx, rfl⟩)
    · exact List.mem_cons_self

theorem onlyChanges_seqAxes {xs ys : List Nat} (hxs : xs ⊆ ys) :
    d.OnlyChanges (d.seqAxes p st xs) (axFields p ys) (axEntries p ys) [.out] := by
  induction xs generalizing d with
  | nil => exact onlyChanges_refl _ _ _ _
  | cons x xs ih =>
    obtain ⟨hx, hxs⟩ := List.cons_subset.1 hxs
    exact (onlyChanges_seqAx_mem h hx).trans (ih (seqAx_maySet h h) hxs)

theorem rowNow_seqAxes (xs : List Nat) : (d.seqAxes p st xs).rowNow p = d.rowNow p := by
  induction xs generalizing d with
  | nil => rfl
  | cons x xs ih => exact (ih (seqAx_maySet h h)).trans (rowNow_seqAx h)

end

/-- A motion sets tracking OFF, and tilt and yaw HOLD (R155, R165). -/
def Dev.axesForSeek (d : Dev) (p : Nat) : Dev := (d.seqAx p 1 axOff).seqAxes p axHold [2, 3]
def Dev.axesForHoming (d : Dev) (p : Nat) : Dev := (d.seqAxes p axHold [2, 3]).seqAx p 1 axOff

section
variable {d : Dev} {p : Nat} (h : d.rowNow p = none)
include h

theorem onlyChanges_axesForSeek : d.OnlyChanges (d.axesForSeek p) (axFields p [1, 2, 3]) (axEntries p [1, 2, 3]) [.out] :=
  (onlyChanges_seqAx_mem (.inr h) (by simp)).trans (onlyChanges_seqAxes (.inr ((rowNow_seqAx (.inr h)).trans h)) (by simp))

theorem onlyChanges_axesForHoming : d.OnlyChanges (d.axesForHoming p) (axFields p [1, 2, 3]) (axEntries p [1, 2, 3]) [.out] :=
  (onlyChanges_seqAxes (.inr h) (by simp)).trans (onlyChanges_seqAx_mem (.inr ((rowNow_seqAxes (.inr h) _).trans h)) (by simp))

theorem axesForSeek_tracking (ha : d.Auto p 1) : (d.axesForSeek p).axState p 1 = axOff := by
  have hhold : (d.seqAx p 1 axOff).OnlyChanges (d.axesForSeek p) (axFields p [2, 3]) (axEntries p [2, 3]) [.out] :=
    onlyChanges_seqAxes (.inr ((rowNow_seqAx (.inr h)).trans h)) (List.Subset.refl _)
  have hkept : (d.axesForSeek p).axState p 1 = (d.seqAx p 1 axOff).axState p 1 := hhold.rd (by simp [axFields, axIx])
  rw [hkept, seqAx_axState (.inr h) ha (by decide), if_pos rfl]

end

/-! ### Moves (R152, R153) -/

/-- The move to the target that starts now. -/
def Dev.moveTo (d : Dev) (p : Nat) (target : Int) (accel speed : Nat) : Move :=
  { start := d.slP p, target := target, jerk := d.rd .slJerk [p], accel := accel, speed := speed,
    scale := d.rd .slScale [p], began := d.time }

section
variable (d : Dev) (p : Nat)

theorem startMove_move (target : Int) (accel speed : Nat) :
    ((d.startMove p target accel speed).sledS p).move = some (d.moveTo p target accel speed) := by
  rw [Dev.startMove, sledS_updSled_self]
  rfl

theorem onlyChanges_startMove (target : Int) (accel speed : Nat) {fs : List Fld} {es : List (Table × Nat)} {ps : List Part}
    (h : (.sled, p) ∈ es) : d.OnlyChanges (d.startMove p target accel speed) fs es ps := onlyChanges_updSled _ _ _ h

theorem onlyChanges_clampTarget (want : Int) {fs : List Fld} {es : List (Table × Nat)} {ps : List Part} (h : .raised ∈ ps) :
    d.OnlyChanges (d.clampTarget p want).2 fs es ps := by
  unfold Dev.clampTarget
  simp only []
  split
  · exact onlyChanges_refl _ _ _ _
  · exact onlyChanges_raise _ _ _ _ h

theorem raised_clampTarget (want : Int) : (d.clampTarget p want).2.raised = d.raised ++
    if (d.clampTarget p want).1 = want then []
    else [⟨32 * p + 20, evSledLimit, leI 4 want ++ leI 4 (d.clampTarget p want).1⟩] := by
  unfold Dev.clampTarget
  simp only []
  split
  · exact (List.append_nil _).symm
  · rfl

end

theorem posAt_congr {d e : Dev} {p : Nat} {fs : List Fld} {es : List (Table × Nat)} {ps : List Part}
    (h : d.OnlyChanges e fs es ps) (ho : ⟨.slOrigin, [p]⟩ ∉ fs) (hs : ⟨.slScale, [p]⟩ ∉ fs) (r8 : Int) :
    e.posAt p r8 = d.posAt p r8 := by
  rw [Dev.posAt, h.rdS ho, h.rd hs]
  rfl

/-- The clamped target depends on the radius model and the soft limits alone. -/
theorem clampTarget_congr {d e : Dev} {p : Nat} {fs : List Fld} {es : List (Table × Nat)} {ps : List Part}
    (h : d.OnlyChanges e fs es ps) (hfs : ∀ r ∈ [Row.slOrigin, .slScale, .slLimitIn, .slLimitOut], ⟨r, [p]⟩ ∉ fs) (want : Int) :
    (e.clampTarget p want).1 = (d.clampTarget p want).1 := by
  have ho := h.rdS (hfs .slOrigin (by simp))
  have hs := h.rd (hfs .slScale (by simp))
  have hin := h.rd (hfs .slLimitIn (by simp))
  have hout := h.rd (hfs .slLimitOut (by simp))
  simp only [Dev.clampTarget, Dev.limitP, ho, hs, hin, hout]

/-- A move depends on P, the jerk limit, the scale and the time, besides its target and the limits that it is given. -/
theorem moveTo_congr {d e : Dev} {p : Nat} {fs : List Fld} {es : List (Table × Nat)} {ps : List Part}
    (h : d.OnlyChanges e fs es ps) (hfs : ∀ r ∈ [Row.slPos, .slJerk, .slScale], ⟨r, [p]⟩ ∉ fs) (ht : .time ∉ ps) (target : Int)
    (accel speed : Nat) : e.moveTo p target accel speed = d.moveTo p target accel speed := by
  have htime : e.time = d.time := h.2.2 .time ht
  rw [Dev.moveTo, h.slP (hfs .slPos (by simp)), h.rd (hfs .slJerk (by simp)), h.rd (hfs .slScale (by simp)), htime]
  rfl

/-! ### Seeks that begin (R154, R155) -/

/-- The aim of a seek toward a band: the rail one band before it, at angle index 1,536. -/
def Dev.seekAim (d : Dev) (p band : Nat) : Int := d.posAt p (bandRadius band 1536 - 15360)

/-- A seek is in motion, its target clamped and no axis set yet. -/
def Dev.seekMoving (d : Dev) (p : Nat) (k : Seek) : Dev :=
  ((d.clampTarget p (d.seekAim p k.band)).2.setSeek p { k with step := .moving }).setSl p slSeek

theorem launchSeek_eq (d : Dev) (p : Nat) (k : Seek) : d.launchSeek p k =
    let e := (d.seekMoving p k).axesForSeek p
    e.startMove p (d.clampTarget p (d.seekAim p k.band)).1 (e.rd .slAccel [p]) (e.rd .slSpeed [p]) := rfl

theorem onlyChanges_seekMoving (d : Dev) (p : Nat) (k : Seek) :
    d.OnlyChanges (d.seekMoving p k) [⟨.slState, [p]⟩] [(.seek, p)] [.raised] :=
  (onlyChanges_clampTarget d p _ (by simp)).trans <| (onlyChanges_setSeek _ p _ (by simp)).trans (onlyChanges_wr _ _ _ _ (by simp))

theorem rowNow_seekMoving (d : Dev) (p : Nat) (k : Seek) : (d.seekMoving p k).rowNow p = d.rowNow p :=
  rowNow_of_rows (congrArg Pk.rows ((onlyChanges_seekMoving d p k).pkS (by simp)))

section
variable {d : Dev} {p : Nat} (k : Seek) (h : d.rowNow p = none)
include h

theorem onlyChanges_launchSeek_axes : (d.seekMoving p k).OnlyChanges (d.launchSeek p k) (axFields p [1, 2, 3])
    ((.sled, p) :: axEntries p [1, 2, 3]) [.out] :=
  ((onlyChanges_axesForSeek ((rowNow_seekMoving d p k).trans h)).mono (List.Subset.refl _) (List.subset_cons_self _ _)
    (List.Subset.refl _)).trans (onlyChanges_startMove _ _ _ _ _ (by simp))

theorem launchSeek_slSt : (d.launchSeek p k).slSt p = slSeek :=
  ((onlyChanges_launchSeek_axes k h).slSt (sled_notMem_axFields (by decide) (by decide) _ _ _)).trans
    (slSt_setSl_self _ _ (by decide))

theorem launchSeek_seekS : (d.launchSeek p k).seekS p = some { k with step := .moving } :=
  ((onlyChanges_launchSeek_axes k h).seekS (by simp [axEntries])).trans (seekS_setSeek_self _ _ _)

theorem launchSeek_tracking (ha : d.Auto p 1) : (d.launchSeek p k).axState p 1 = axOff := by
  have hframe := onlyChanges_seekMoving d p k
  have hmove : ∀ (e : Dev) (t : Int) (a v : Nat), (e.startMove p t a v).axState p 1 = e.axState p 1 := fun e t a v =>
    (onlyChanges_startMove e p t a v (fs := []) (ps := []) (List.mem_singleton_self _)).rd (by simp)
  rw [launchSeek_eq]
  simp only []
  rw [hmove]
  exact axesForSeek_tracking ((rowNow_seekMoving d p k).trans h)
    ⟨(hframe.rd (by simp)).trans ha.1, (hframe.axisMeasured (by simp)).trans ha.2⟩

theorem onlyChanges_seekReady : d.OnlyChanges ((d.seekMoving p k).axesForSeek p) (⟨.slState, [p]⟩ :: axFields p [1, 2, 3])
    ((.seek, p) :: axEntries p [1, 2, 3]) [.raised, .out] :=
  ((onlyChanges_seekMoving d p k).mono (by simp) (by simp) (by simp)).trans
    ((onlyChanges_axesForSeek ((rowNow_seekMoving d p k).trans h)).mono (by simp) (by simp) (by simp))

/-- The profile of a seek: from P to the clamped aim, with the limits in force. -/
theorem launchSeek_move : ((d.launchSeek p k).sledS p).move =
    some (d.moveTo p (d.clampTarget p (d.seekAim p k.band)).1 (d.rd .slAccel [p]) (d.rd .slSpeed [p])) := by
  have hframe := onlyChanges_seekReady k h
  have hother : ∀ r : Row, r ≠ .slState → r ≠ .axState → r ≠ .axInteg →
      ⟨r, [p]⟩ ∉ (⟨.slState, [p]⟩ :: axFields p [1, 2, 3] : List Fld) := fun r hst hs hi =>
    List.not_mem_cons_of_ne_of_not_mem (by simp [hst]) (sled_notMem_axFields hs hi _ _ _)
  rw [launchSeek_eq, startMove_move, moveTo_congr hframe (by simp [axFields]) (by simp),
    hframe.rd (hother .slAccel (by decide) (by decide) (by decide)),
    hframe.rd (hother .slSpeed (by decide) (by decide) (by decide))]

end

/-- A seek that waits is launched: in AUTO, without a fault, at rest or following, with no row written or read, on its layer. -/
theorem trySeek_launches {d : Dev} {p : Nat} {k : Seek} (hk : d.seekS p = some k) (hstep : k.step = .waiting)
    (hauto : d.sledAuto p = true) (hfault : d.on .slFault [p] = false) (hst : d.slSt p = slHold ∨ d.slSt p = slFollow)
    (hbusy : d.rowBusy p = false) (hlayer : (d.pkS p).layer = k.layer) : d.trySeek p = d.launchSeek p k := by
  have hhomed : d.slSt p ≠ slUnhomed := by rcases hst with h | h <;> rw [h] <;> decide
  have hrest : ¬ (d.slSt p ≠ slHold ∧ d.slSt p ≠ slFollow) := fun ⟨h1, h2⟩ => hst.elim h1 h2
  simp only [Dev.trySeek, hk]
  rw [if_neg (by simp [hstep]), if_neg (by simp [hauto, hfault]), if_neg hhomed, if_neg hrest, if_neg (by simp [hbusy]),
    if_neg (by simp [hlayer])]

theorem trySeek_none {d : Dev} {p : Nat} (h : d.seekS p = none) : d.trySeek p = d := by
  rw [Dev.trySeek, h]

/-- A seek waits for a sled that is stopping. -/
theorem trySeek_stopping {d : Dev} {p : Nat} {k : Seek} (hk : d.seekS p = some k) (hstep : k.step = .waiting)
    (hauto : d.sledAuto p = true) (hfault : d.on .slFault [p] = false) (hst : d.slSt p = slStopping) : d.trySeek p = d := by
  simp only [Dev.trySeek, hk]
  rw [if_neg (by simp [hstep]), if_neg (by simp [hauto, hfault]), if_neg (by rw [hst]; decide), if_pos (by rw [hst]; decide)]

end Sys2Proof.Machine
end

section
/-! SUPPORT. How a sled comes to a stop (R160 to R163). -/

namespace Sys2Proof.Machine

/-! ### The kind of stop (R160) -/

/-- No self-test, no homing and no recovery motion uses pickup p, whose sled has been homed. -/
structure Dev.StopsAsSet (d : Dev) (p : Nat) : Prop where
  state : d.slSt p ≠ slHoming
  homed : (d.sledS p).homed = true
  selftest : d.selftest = none
  homing : d.homingS p = none
  seek : ∀ k, d.seekS p = some k → k.recovery = false

section
variable {d e : Dev} {p : Nat}

/-- STOPMODE alone then decides between a ramp and an immediate stop. -/
theorem immediate_stopmode (h : d.StopsAsSet p) : d.immediate p false = if d.on .slStopmode [p] then some 0 else none := by
  obtain ⟨hst, hhomed, htest, hhoming, hseek⟩ := h
  have huses : d.selftestUses p = false := by simp [Dev.selftestUses, htest]
  have hrecovers : ((d.seekS p).map Seek.recovering).getD false = false := by
    cases hk : d.seekS p with
    | none => rfl
    | some k => simp [Seek.recovering, hseek k hk]
  simp [Dev.immediate, hst, hhomed, huses, hrecovers, hhoming]

theorem Dev.StopsAsSet.of_onlyChanges (h : d.StopsAsSet p) {fs : List Fld} {es : List (Table × Nat)} {ps : List Part}
    (hc : d.OnlyChanges e fs es ps) (hst : ⟨.slState, [p]⟩ ∉ fs) (hsled : (.sled, p) ∉ es) (hseek : (.seek, p) ∉ es)
    (hhoming : (.homing, p) ∉ es) (htest : .selftest ∉ ps) : e.StopsAsSet p where
  state := by rw [hc.slSt hst]; exact h.state
  homed := by rw [hc.sledS hsled]; exact h.homed
  selftest := Eq.trans (hc.2.2 .selftest htest) h.selftest
  homing := (hc.homingS hhoming).trans h.homing
  seek := by rw [hc.seekS hseek]; exact h.seek

end

/-! ### A ramp, or UNHOMED at once -/

section
variable (d : Dev) (p : Nat)

/-- The sled decelerates from what it does now, with the profile's J and A. -/
def Dev.rampDown (d : Dev) (p : Nat) : Dev := d.beginRamp p (d.rampFrom p (d.rd .slAccel [p]))

theorem onlyChanges_rampDown : d.OnlyChanges (d.rampDown p) [⟨.slState, [p]⟩] [(.sled, p)] [] :=
  (onlyChanges_updSled _ _ _ (by simp)).trans (onlyChanges_wr _ _ _ _ (by simp))

theorem rampDown_slSt : (d.rampDown p).slSt p = slStopping := slSt_setSl_self _ _ (by decide)

theorem rampDown_sledS : (d.rampDown p).sledS p =
    { d.sledS p with move := none, ramp := some (d.rampFrom p (d.rd .slAccel [p])) } :=
  sledS_updSled_self d p fun s => { s with move := none, ramp := some (d.rampFrom p (d.rd .slAccel [p])) }

theorem halt_ramps {d : Dev} {p : Nat} (h : d.slSt p = slSeek) : d.halt p none = d.rampDown p := by
  simp only [Dev.halt]
  rw [if_neg (by rw [h]; decide)]
  rfl

/-- SLED_UNHOMED, unless the sled was UNHOMED (R162). -/
def unhomedReport (p st cause : Nat) : List Occ := if st = slUnhomed then [] else [⟨32 * p + 20, evSledUnhomed, [cause]⟩]

/-- The sled with its output frozen and its move given up, UNHOMED. -/
def Dev.frozenSled (d : Dev) (p : Nat) : Dev :=
  (d.updSled p fun s => { s with frozen := some (d.sledOut80 p), move := none, ramp := none }).setSl p slUnhomed

theorem unhome_eq (cause : Nat) : d.unhome p cause =
    if d.slSt p = slUnhomed then d.frozenSled p else (d.frozenSled p).raisePk p 20 evSledUnhomed [cause] := rfl

theorem onlyChanges_unhome (cause : Nat) {fs : List Fld} {es : List (Table × Nat)} {ps : List Part} (hf : ⟨.slState, [p]⟩ ∈ fs)
    (he : (.sled, p) ∈ es) (hp : .raised ∈ ps) : d.OnlyChanges (d.unhome p cause) fs es ps := by
  have hfrozen : d.OnlyChanges (d.frozenSled p) fs es ps := (onlyChanges_updSled _ _ _ he).trans (onlyChanges_wr _ _ _ _ hf)
  rw [unhome_eq]
  split
  · exact hfrozen
  · exact hfrozen.trans (onlyChanges_raise _ _ _ _ hp)

theorem unhome_slSt (cause : Nat) : (d.unhome p cause).slSt p = slUnhomed := by
  have hfrozen : (d.frozenSled p).slSt p = slUnhomed := slSt_setSl_self _ _ (by decide)
  rw [unhome_eq]
  split <;> exact hfrozen

theorem unhome_frozen (cause : Nat) : ((d.unhome p cause).sledS p).frozen = some (d.sledOut80 p) := by
  have hfrozen : ((d.frozenSled p).sledS p).frozen = some (d.sledOut80 p) := 
    congrArg Sled.frozen (sledS_updSled_self d p fun s => { s with frozen := some (d.sledOut80 p), move := none, ramp := none })
  rw [unhome_eq]
  split <;> exact hfrozen

theorem unhome_raised (cause : Nat) : (d.unhome p cause).raised = d.raised ++ unhomedReport p (d.slSt p) cause := by
  rw [unhome_eq, unhomedReport]
  split
  · exact (List.append_nil _).symm
  · rfl

theorem coilCur_unhomed {d : Dev} {p : Nat} (h : d.slSt p = slUnhomed) : d.coilCur p = 0 := if_pos (.inl h)

end

theorem onlyChanges_halt (d : Dev) (p : Nat) (how : Option Nat) :
    d.OnlyChanges (d.halt p how) [⟨.slState, [p]⟩] [(.sled, p)] [.raised] := by
  cases how with
  | some c => exact onlyChanges_unhome _ _ _ (by simp) (by simp) (by simp)
  | none =>
    simp only [Dev.halt]
    split
    · exact onlyChanges_refl _ _ _ _
    · exact (onlyChanges_rampDown _ _).mono (by simp) (by simp) (by simp)

/-! ### A stop with no seek and no homing in progress -/

section
variable {d : Dev} {p : Nat}

theorem onlyChanges_stopVoid (d : Dev) (p : Nat) (fs : List Fld) : d.OnlyChanges (d.voidTest p) fs [(.pk, p)] [.out] :=
  onlyChanges_voidTest d p (by simp) (by simp)

/-- With no row being written or read a stop voids the test writing of OPC and halts the sled. -/
theorem stopSled_halts (hrow : d.rowNow p = none) (hread : d.rowRead p = false) (hhoming : d.homingS p = none)
    (hseek : d.seekS p = none) (fault : Bool) :
    d.stopSled p fault = (d.voidTest p).halt p ((d.voidTest p).immediate p fault) := by
  have hframe := onlyChanges_stopVoid d p []
  have hend : (d.voidTest p).endRead p = d.voidTest p := by rw [Dev.endRead, if_pos (by simp [rowRead_voidTest, hread])]
  have hhome : thas (d.voidTest p).homing p = false := by rw [thas_homing, hframe.homingS (by simp), hhoming]; rfl
  have hnone : (d.voidTest p).seekS p = none := (hframe.seekS (by simp)).trans hseek
  simp only [Dev.stopSled, abandonNow_idle hrow, hend, hhome, hnone]
  simp only [Bool.false_eq_true, if_false]
  split
  · next hst =>
    cases (d.voidTest p).immediate p fault with
    | some c => rfl
    | none => rw [Dev.halt, if_pos (.inr (.inr hst))]
  · rfl

/-- A fault unhomes the sled at once. -/
theorem stopSled_fault (hrow : d.rowNow p = none) (hread : d.rowRead p = false) (hhoming : d.homingS p = none)
    (hseek : d.seekS p = none) : d.stopSled p true = (d.voidTest p).unhome p 1 :=
  (stopSled_halts hrow hread hhoming hseek true).trans rfl

end

end Sys2Proof.Machine
end

section
/-! SUPPORT. Moves in MANUAL, and the two kinds of stop (O44). -/

namespace Sys2Proof.Machine

/-! ### GOTO (R152, R153) -/

/-- The target of a GOTO is stored, and the test writing of OPC voided. -/
def Dev.gotoWritten (d : Dev) (p : Nat) (target : Int) : Dev := (d.wrS .slGoto [p] target).voidTest p

/-- The target is clamped, and the sled in motion. -/
def Dev.gotoTaken (d : Dev) (p : Nat) (target : Int) : Dev := ((d.gotoWritten p target).clampTarget p target).2.setSl p slSeek

theorem onlyChanges_gotoWritten (d : Dev) (p : Nat) (target : Int) :
    d.OnlyChanges (d.gotoWritten p target) [⟨.slGoto, [p]⟩] [(.pk, p)] [.out] :=
  (onlyChanges_wrS _ _ _ _ (by simp)).trans (onlyChanges_stopVoid _ _ _)

theorem onlyChanges_gotoTaken (d : Dev) (p : Nat) (target : Int) :
    d.OnlyChanges (d.gotoTaken p target) [⟨.slGoto, [p]⟩, ⟨.slState, [p]⟩] [(.pk, p)] [.raised, .out] :=
  ((onlyChanges_gotoWritten d p target).mono (by simp) (by simp) (by simp)).trans <|
    (onlyChanges_clampTarget _ _ _ (by simp)).trans (onlyChanges_wr _ _ _ _ (by simp))

section
variable (s : State) (p : Fin 32) (target : Int) (hready : s.dev.ready = true)
include hready

theorem sledGoto_moves (clamped : Int) (hmode : s.dev.rd .slMode [p.val] = 2) (hfault : s.dev.on .slFault [p.val] = false)
    (hst : s.dev.slSt p = slHold ∨ s.dev.slSt p = slFollow) (hrow : s.dev.rowNow p = none) (hlo : -2147483648 ≤ target)
    (hhi : target < 2147483648) (hclamped : clamped = (s.dev.clampTarget p target).1) :
    ∃ d m, Makes (.sledGoto p target) s d ∧ d.slSt p = slSeek ∧ (d.sledS p).move = some m ∧ m.target = clamped ∧
      m.start = s.dev.slP p ∧
      d.raised = s.dev.raised ++ (if clamped = target then [] else [⟨32 * p.val + 20, evSledLimit, leI 4 target ++ leI 4 clamped⟩]) ∧
      s.dev.OnlyChanges d [⟨.slGoto, [p.val]⟩, ⟨.slState, [p.val]⟩] [(.sled, p.val), (.pk, p.val)] [.raised, .out] := by
  have hwritten := onlyChanges_gotoWritten s.dev p target
  have hclamp : clamped = ((s.dev.gotoWritten p target).clampTarget p target).1 :=
    hclamped.trans (clampTarget_congr hwritten (by simp) target).symm
  have hwant : ofTwos 32 (toTwos 32 target) = target := ofTwos_toTwos 31 target hlo hhi
  have hmakes : Makes (.sledGoto p target) s ((s.dev.gotoTaken p target).startMove p clamped
      (((s.dev.gotoWritten p target).clampTarget p target).2.rd .slAccel [p.val])
      (((s.dev.gotoWritten p target).clampTarget p target).2.rd .slSpeed [p.val])) := by
    have hstored : s.dev.OnlyChanges (s.dev.wrS .slGoto [p.val] target) [⟨.slGoto, [p.val]⟩] [] [] :=
      onlyChanges_wrS _ _ _ _ (by simp)
    have hrow' : (s.dev.wrS .slGoto [p.val] target).rowNow p = none := hrow
    change execSledGoto p target s = _
    rw [execSledGoto, hostAct_ready _ _ hready]
    simp only [hwant]
    rw [if_pos ⟨(hstored.rd (by simp)).trans hmode, by simp [hstored.on, hfault], hst⟩, abandonNow_idle hrow', hclamp]
    rfl
  have hframe := onlyChanges_gotoTaken s.dev p target
  have hmove : ∀ accel speed, (s.dev.gotoTaken p target).OnlyChanges ((s.dev.gotoTaken p target).startMove p clamped accel speed)
      [] [(.sled, p.val)] [] := fun accel speed => onlyChanges_startMove _ _ _ _ _ (by simp)
  have htaken : (s.dev.gotoTaken p target).raised = s.dev.raised ++
      (if clamped = target then [] else [⟨32 * p.val + 20, evSledLimit, leI 4 target ++ leI 4 clamped⟩]) := by
    rw [hclamp, ← hwritten.raised (by simp)]
    exact raised_clampTarget _ _ _
  exact ⟨_, _, hmakes, ((hmove _ _).slSt (by simp)).trans (slSt_setSl_self _ _ (by decide)), startMove_move _ _ _ _ _, rfl,
    hframe.slP (by simp), ((hmove _ _).raised (by simp)).trans htaken,
    (hframe.mono (by simp) (by simp) (by simp)).trans ((hmove _ _).mono (by simp) (by simp) (by simp))⟩

/-- Out of MANUAL a GOTO is only stored. -/
theorem sledGoto_stores (hmode : s.dev.rd .slMode [p.val] ≠ 2) :
    ∃ d, Makes (.sledGoto p target) s d ∧ s.dev.OnlyChanges d [⟨.slGoto, [p.val]⟩] [] [] := by
  have hframe : s.dev.OnlyChanges (s.dev.wrS .slGoto [p.val] (ofTwos 32 (toTwos 32 target))) [⟨.slGoto, [p.val]⟩] [] [] :=
    onlyChanges_wrS _ _ _ _ (by simp)
  refine ⟨_, ?_, hframe⟩
  change execSledGoto p target s = _
  rw [execSledGoto, hostAct_ready _ _ hready]
  simp only []
  rw [if_neg fun h => hmode ((hframe.rd (by simp)).symm.trans h.1)]

/-! ### STOP (R160, R161) -/

theorem sledStop_halts (hst : s.dev.slSt p = slSeek) (hseek : s.dev.seekS p = none) (hstops : s.dev.StopsAsSet p)
    (hrow : s.dev.rowNow p = none) : MakesThenRuns (.sledStop p) s
      ((s.dev.voidTest p).halt p (if s.dev.on .slStopmode [p.val] then some 0 else none)) := by
  have hframe := onlyChanges_stopVoid s.dev p []
  have hread : s.dev.rowRead p = false := rowRead_of_slSt (by rw [hst]; decide)
  have hhalt : s.dev.stopSled p false = (s.dev.voidTest p).halt p (if s.dev.on .slStopmode [p.val] then some 0 else none) := by
    rw [stopSled_halts hrow hread hstops.homing hseek,
      immediate_stopmode (hstops.of_onlyChanges hframe (by simp) (by simp) (by simp) (by simp) (by simp)), hframe.on (by simp)]
  have hnone : (s.dev.stopSled p false).seekS p = none := by
    rw [hhalt, (onlyChanges_halt _ _ _).seekS (by simp), hframe.seekS (by simp), hseek]
  change execSledStop p s = _
  rw [execSledStop, serve_eq, if_pos hready, Dev.stopAndRetry, trySeek_none hnone, hhalt]

end

theorem sledStop_ramps (s : State) (p : Fin 32) (hready : s.dev.ready = true) (hst : s.dev.slSt p = slSeek)
    (hseek : s.dev.seekS p = none) (hstops : s.dev.StopsAsSet p) (hrow : s.dev.rowNow p = none)
    (hmode : s.dev.on .slStopmode [p.val] = false) :
    ∃ d, MakesThenRuns (.sledStop p) s d ∧ d.slSt p = slStopping ∧ (d.sledS p).ramp.isSome = true ∧
      (d.sledS p).move = none ∧ s.dev.OnlyChanges d [⟨.slState, [p.val]⟩] [(.sled, p.val), (.pk, p.val)] [.out] := by
  have hframe := onlyChanges_stopVoid s.dev p [⟨.slState, [p.val]⟩]
  have hmakes := sledStop_halts s p hready hst hseek hstops hrow
  rw [hmode, if_neg (by decide), halt_ramps (((onlyChanges_stopVoid s.dev p []).slSt (by simp)).trans hst)] at hmakes
  refine ⟨_, hmakes, rampDown_slSt _ _, ?ramp, ?move,
    (hframe.mono (by simp) (by simp) (by simp)).trans ((onlyChanges_rampDown _ _).mono (by simp) (by simp) (by simp))⟩
  case ramp => rw [rampDown_sledS]; rfl
  case move => rw [rampDown_sledS]

theorem sledStop_unhomes (s : State) (p : Fin 32) (hready : s.dev.ready = true) (hst : s.dev.slSt p = slSeek)
    (hseek : s.dev.seekS p = none) (hstops : s.dev.StopsAsSet p) (hrow : s.dev.rowNow p = none)
    (hmode : s.dev.on .slStopmode [p.val] = true) :
    ∃ d, MakesThenRuns (.sledStop p) s d ∧ d.slSt p = slUnhomed ∧ d.slP p = s.dev.slP p ∧
      (d.sledS p).frozen = some (s.dev.sledOut80 p) ∧ d.coilCur p = 0 ∧
      d.raised = s.dev.raised ++ [⟨32 * p.val + 20, evSledUnhomed, [0]⟩] := by
  have hframe := onlyChanges_stopVoid s.dev p []
  have hunhome : (s.dev.voidTest p).OnlyChanges ((s.dev.voidTest p).unhome p 0) [⟨.slState, [p.val]⟩] [(.sled, p.val)] [.raised] :=
    onlyChanges_unhome _ _ _ (by simp) (by simp) (by simp)
  have hmakes := sledStop_halts s p hready hst hseek hstops hrow
  rw [hmode, if_pos rfl] at hmakes
  refine ⟨_, hmakes, unhome_slSt _ _ _, (hunhome.slP (by simp)).trans (hframe.slP (by simp)), ?frozen,
    coilCur_unhomed (unhome_slSt _ _ _), ?raised⟩
  case frozen => exact (unhome_frozen _ _ _).trans (congrArg some (hframe.sledOut80 (by simp) (by simp)))
  case raised =>
    refine (unhome_raised _ _ _).trans ?_
    rw [hframe.raised (by simp), hframe.slSt (by simp), hst]
    rfl

/-- The ramp has come to rest: the sled holds. -/
theorem stopRampEnd_holds (s : State) (p : Fin 32) (hst : s.dev.slSt p = slStopping)
    (hend : (s.dev.sledS p).ramp = none ∨ s.dev.moveEnded p = true) (hseek : s.dev.seekS p = none) :
    MakesThenRuns (.stopRampEnd p) s ((s.dev.updSled p fun k => { k with ramp := none }).setSl p slHold) := by
  have hnone : ((s.dev.updSled p fun k => { k with ramp := none }).setSl p slHold).seekS p = none := hseek
  change execStopRampEnd p s = _
  rw [execStopRampEnd, serve_eq, if_pos ⟨hst, hend.imp_left fun h => by rw [h]; rfl⟩, trySeek_none hnone]

/-- Settles O44: a GOTO in MANUAL and out of it, the stop by STOPMODE (`sledStop_halts`), and the end of its ramp. -/
theorem manualMovesAndStops : Obligations.ManualMovesAndStops := by
  unfold Obligations.ManualMovesAndStops
  refine ⟨?goto, sledGoto_stores, ?stop, stopRampEnd_holds⟩
  case goto =>
    exact fun s p target clamped hready hmode hfault hst hrow hlo hhi hclamped =>
      sledGoto_moves s p target hready clamped hmode hfault hst hrow hlo hhi hclamped
  case stop =>
    intro s p hready hst hseek hhoming hhomed htest hrow
    have hstops : s.dev.StopsAsSet p := {
      state := by rw [hst]; decide
      homed := hhomed
      selftest := htest
      homing := homingS_of_nil hhoming p
      seek := by simp [hseek] }
    exact ⟨sledStop_ramps s p hready hst hseek hstops hrow, sledStop_unhomes s p hready hst hseek hstops hrow⟩

end Sys2Proof.Machine
end

section
/-! SUPPORT. Seeks: their start, their landing and their failure (O43). -/

namespace Sys2Proof.Machine

/-! ### The idle current (R149) -/

theorem sledIdleCurrent_holds (s : State) (p : Fin 32) (hstill : 40000 ≤ (s.dev.sledS p).still) (hst : s.dev.slSt p ≠ slUnhomed)
    (hmode : s.dev.rd .slMode [p.val] ≠ 1) :
    ∃ d, Makes (.sledIdleCurrent p) s d ∧ d.coilCur p = s.dev.rd .slIhold [p.val] ∧
      s.dev.OnlyChanges d [] [(.sled, p.val)] [] := by
  have hframe : s.dev.OnlyChanges (s.dev.updSled p fun k => { k with idle := true }) [] [(.sled, p.val)] [] :=
    onlyChanges_updSled _ _ _ (by simp)
  refine ⟨_, ?makes, ?current, hframe⟩
  case makes =>
    change execSledIdleCurrent p s = _
    rw [execSledIdleCurrent, act_eq, if_pos hstill]
  case current =>
    have hdriven : ¬ (s.dev.slSt p = slUnhomed ∨ s.dev.rd .slMode [p.val] = 1) := fun h => h.elim hst hmode
    rw [Dev.coilCur, hframe.slSt (by simp), hframe.rd (by simp), if_neg hdriven, sledS_updSled_self, if_pos rfl,
      hframe.rd (by simp)]

/-! ### The start of a seek (R154, R155, R273) -/

/-- The values sent for the row of the seek count as settled once they are (R273). -/
def Dev.valuesSettled (d : Dev) (p : Nat) : Dev :=
  if d.settled p then d.updPk p fun k => { k with settling := none } else d

theorem valuesSettled_pkS (d : Dev) (p : Nat) : ∃ x, (d.valuesSettled p).pkS p = { d.pkS p with settling := x } := by
  unfold Dev.valuesSettled
  split
  · exact ⟨none, pkS_updPk_self _ _ _⟩
  · exact ⟨_, rfl⟩

theorem onlyChanges_valuesSettled (d : Dev) (p : Nat) : d.OnlyChanges (d.valuesSettled p) [] [(.pk, p)] [] := by
  unfold Dev.valuesSettled
  split
  · exact onlyChanges_updPk _ _ _ (by simp)
  · exact onlyChanges_refl _ _ _ _

theorem rowBusy_valuesSettled (d : Dev) (p : Nat) : (d.valuesSettled p).rowBusy p = d.rowBusy p := by
  unfold Dev.valuesSettled
  split
  · rw [rowBusy_updPk]
    exact fun _ => ⟨rfl, rfl, rfl, rfl, rfl, rfl⟩
  · rfl

theorem rowNow_of_rows_nil {d : Dev} {p : Nat} (h : (d.pkS p).rows = []) : d.rowNow p = none := by
  rw [Dev.rowNow, h]
  rfl

/-- A seek as a command asks for it. -/
def Seek.asked (band angle layer : Nat) : Seek := { band := band, angle := angle, layer := layer }

/-- The seek has been asked for, and waits. -/
def Dev.seekAsked (d : Dev) (p : Nat) (k : Seek) : Dev := (d.valuesSettled p).setSeek p k

section
variable (d : Dev) (p : Nat) (k : Seek)

theorem onlyChanges_seekAsked : d.OnlyChanges (d.seekAsked p k) [] [(.pk, p), (.seek, p)] [] :=
  ((onlyChanges_valuesSettled _ _).mono (by simp) (by simp) (by simp)).trans (onlyChanges_setSeek _ _ _ (by simp))

theorem seekAsked_seekS : (d.seekAsked p k).seekS p = some k := seekS_setSeek_self _ p k

theorem seekAsked_pkS : ∃ x, (d.seekAsked p k).pkS p = { d.pkS p with settling := x } := valuesSettled_pkS d p

theorem rowBusy_seekAsked : (d.seekAsked p k).rowBusy p = d.rowBusy p := by
  rw [Dev.seekAsked, rowBusy_setSeek, rowBusy_valuesSettled]

theorem rowNow_seekAsked : (d.seekAsked p k).rowNow p = d.rowNow p := by
  obtain ⟨x, hx⟩ := seekAsked_pkS d p k
  exact rowNow_of_rows (by rw [hx])

end

section
variable (s : State) (p : Fin 32) (band : Fin 65536) (angle : Fin 3072) (layer : Fin 4) (hauto : s.dev.sledAuto p = true)
  (hfault : s.dev.on .slFault [p.val] = false) (hpresent : s.dev.on .pkPresent [p.val] = true)
  (hquiet : s.dev.pickupQuiet p = true) (hrows : (s.dev.pkS p).rows = []) (hcap : (s.dev.servoS p).cap = none)
  (hlayer : (s.dev.pkS p).layer = layer.val) (hst : s.dev.slSt p = slHold ∨ s.dev.slSt p = slFollow)
include hauto hfault hpresent hquiet hrows hcap hlayer hst

theorem seekStart_launches : MakesThenRuns (.seekStart p band angle layer) s
    ((s.dev.seekAsked p (.asked band angle layer)).launchSeek p (.asked band angle layer)) := by
  have hframe := onlyChanges_seekAsked s.dev p (.asked band angle layer)
  have hauto' : (s.dev.seekAsked p (.asked band angle layer)).sledAuto p = true :=
    beq_iff_eq.2 ((hframe.rd (by simp)).trans (beq_iff_eq.1 hauto))
  have hsame : ((s.dev.seekAsked p (.asked band angle layer)).pkS p).layer = layer.val := by
    obtain ⟨x, hx⟩ := seekAsked_pkS s.dev p (.asked band angle layer)
    exact (congrArg Pk.layer hx).trans hlayer
  have hlaunch := trySeek_launches (seekAsked_seekS _ _ _) rfl hauto' ((hframe.on (by simp)).trans hfault)
    (by rwa [hframe.slSt (by simp)]) ((rowBusy_seekAsked _ _ _).trans (rowBusy_of_quiet hquiet)) hsame
  have hstart : s.dev.slSt p = slHold ∨ s.dev.slSt p = slFollow ∨ s.dev.slSt p = slUnhomed := hst.imp_right .inl
  change execSeekStart p band angle layer s = _
  rw [execSeekStart, serve_eq]
  simp only []
  rw [if_pos (by simp [hauto, hpresent, hquiet, hrows, hcap, hstart]), ← hlaunch]
  rfl

theorem seekStart_moves :
    ∃ d m, MakesThenRuns (.seekStart p band angle layer) s d ∧ d.slSt p = slSeek ∧
      d.seekS p = some { band := band, angle := angle, layer := layer, step := .moving } ∧
      (d.sledS p).move = some m ∧ m.start = s.dev.slP p ∧ m.began = s.dev.time ∧
      m.target = (s.dev.clampTarget p (s.dev.posAt p (bandRadius band 1536 - 15360))).1 ∧
      m.jerk = s.dev.rd .slJerk [p.val] ∧ m.accel = s.dev.rd .slAccel [p.val] ∧ m.speed = s.dev.rd .slSpeed [p.val] ∧
      (s.dev.axMode p 1 = 0 → s.dev.axisMeasured p 1 = false → d.axState p 1 = axOff) := by
  have hframe := onlyChanges_seekAsked s.dev p (.asked band angle layer)
  have hrow := (rowNow_seekAsked s.dev p (.asked band angle layer)).trans (rowNow_of_rows_nil hrows)
  have htime : (s.dev.seekAsked p (.asked band angle layer)).time = s.dev.time := hframe.2.2 .time (by simp)
  refine ⟨_, _, seekStart_launches s p band angle layer hauto hfault hpresent hquiet hrows hcap hlayer hst,
    launchSeek_slSt _ hrow, launchSeek_seekS _ hrow, launchSeek_move _ hrow, hframe.slP (by simp), htime, ?target,
    hframe.rd (by simp), hframe.rd (by simp), hframe.rd (by simp), fun hmode hmeasured => ?tracking⟩
  case target =>
    exact (clampTarget_congr hframe (by simp) _).trans (by rw [Dev.seekAim, posAt_congr hframe (by simp) (by simp)]; rfl)
  case tracking =>
    exact launchSeek_tracking _ hrow ⟨(hframe.rd (by simp)).trans hmode, (hframe.axisMeasured (by simp)).trans hmeasured⟩

end

/-! ### The end of the profile (R155) -/

theorem seekProfileEnd_lands (s : State) (p : Fin 32) (k : Seek) (hk : s.dev.seekS p = some k) (hstep : k.step = .moving)
    (hend : s.dev.moveEnded p = true) : Makes (.seekProfileEnd p) s (s.dev.setSeek p { k with step := .landing }) := by
  change execSeekProfileEnd p s = _
  rw [execSeekProfileEnd, act_eq]
  simp only [hk]
  rw [if_pos ⟨hstep, hend⟩]

/-- Tracking closes in the first sample in which |x_tpp| is below 0.2. -/
theorem landTracking_closes (d : Dev) (p : Nat) (k : Seek) (x : Int) (hk : d.seekS p = some k) (hstep : k.step = .landing)
    (hmode : d.axMode p 1 = 0) (hmeasured : d.axisMeasured p 1 = false) (hoff : d.axState p 1 = axOff) :
    (d.landTracking p x).axState p 1 = if 5 * (x.natAbs : Int) < one29 then axClosed else axOff := by
  have hlanding : (d.seekS p).map Seek.step = some .landing := by rw [hk, Option.map_some, hstep]
  by_cases hnear : 5 * (x.natAbs : Int) < one29
  · rw [Dev.landTracking, if_pos ⟨hlanding, hoff, hnear⟩, if_pos hnear, seqAx_axState (.inl rfl) ⟨hmode, hmeasured⟩ (by decide),
      if_pos rfl]
  · rw [Dev.landTracking, if_neg fun h => hnear h.2.2, if_neg hnear, hoff]

/-! ### The landing (R155 to R157) -/

/-- The radius model is corrected by the bands between the landing band and the model's. -/
def Dev.modelCorrected (d : Dev) (p b : Nat) (delta : Int) : Dev :=
  ((d.wrS .slOrigin [p] (d.rdS .slOrigin [p] + 1920 * delta)).wr .slLastBand [p] b).wrS .slLastDelta [p] delta

/-- SLED_SLIP, when the error exceeds SLIP_MAX (R157). -/
def Dev.slipReport (d : Dev) (p b : Nat) (delta : Int) : List Occ :=
  if d.rd .slSlipMax [p] < delta.natAbs then [⟨32 * p + 20, evSledSlip, le 2 b ++ leI 4 (b - delta)⟩] else []

/-- The bands between the landing band and the one that the model places there. -/
def Dev.bandError (d : Dev) (p b angle : Nat) : Int := (b : Int) - nearestBand b (d.radiusAt p (d.slP p)) angle

section
variable (d : Dev) (p b angle : Nat)

theorem landing_eq : d.landing p b angle =
    let e := d.modelCorrected p b (d.bandError p b angle)
    if e.rd .slSlipMax [p] < (d.bandError p b angle).natAbs then
      e.raisePk p 20 evSledSlip (le 2 b ++ leI 4 (nearestBand b (d.radiusAt p (d.slP p)) angle)) else e := rfl

theorem onlyChanges_modelCorrected (delta : Int) :
    d.OnlyChanges (d.modelCorrected p b delta) [⟨.slOrigin, [p]⟩, ⟨.slLastBand, [p]⟩, ⟨.slLastDelta, [p]⟩] [] [] :=
  (onlyChanges_wrS _ _ _ _ (by simp)).trans <| (onlyChanges_wr _ _ _ _ (by simp)).trans (onlyChanges_wrS _ _ _ _ (by simp))

theorem onlyChanges_landing :
    d.OnlyChanges (d.landing p b angle) [⟨.slOrigin, [p]⟩, ⟨.slLastBand, [p]⟩, ⟨.slLastDelta, [p]⟩] [] [.raised] := by
  have hcorrected := (onlyChanges_modelCorrected d p b (d.bandError p b angle)).mono (List.Subset.refl _) (List.Subset.refl _)
    (List.nil_subset [.raised])
  rw [landing_eq]
  simp only []
  split
  · exact hcorrected.trans (onlyChanges_raise _ _ _ _ (by simp))
  · exact hcorrected

theorem landing_rd (r : Row) (ix : List Nat) :
    (d.landing p b angle).rd r ix = (d.modelCorrected p b (d.bandError p b angle)).rd r ix := by
  rw [landing_eq]
  simp only []
  split <;> rfl

theorem landing_origin : (d.landing p b angle).rd .slOrigin [p] =
    toTwos 32 (d.rdS .slOrigin [p] + 1920 * d.bandError p b angle) := by
  rw [landing_rd, Dev.modelCorrected, rd_wrS, if_neg (by simp), rd_wr, if_neg (by simp), rd_wrS, if_pos ⟨rfl, rfl⟩]
  rfl

theorem landing_lastBand : (d.landing p b angle).rd .slLastBand [p] = b % 2 ^ 16 := by
  rw [landing_rd, Dev.modelCorrected, rd_wrS, if_neg (by simp), rd_wr, if_pos ⟨rfl, rfl⟩]
  rfl

theorem landing_lastDelta : (d.landing p b angle).rd .slLastDelta [p] = toTwos 16 (d.bandError p b angle) := by
  rw [landing_rd, Dev.modelCorrected, rd_wrS, if_pos ⟨rfl, rfl⟩]
  rfl

theorem landing_raised : (d.landing p b angle).raised = d.raised ++ d.slipReport p b (d.bandError p b angle) := by
  have hframe := onlyChanges_modelCorrected d p b (d.bandError p b angle)
  have hmodel : (b : Int) - d.bandError p b angle = nearestBand b (d.radiusAt p (d.slP p)) angle := Int.sub_sub_self _ _
  rw [landing_eq, Dev.slipReport, hmodel]
  simp only [hframe.rd (r := .slSlipMax) (ix := [p]) (by simp)]
  split
  · rfl
  · exact (List.append_nil _).symm

end

/-- The seek is over, the sled follows, and tilt and yaw close again. -/
def Dev.followAgain (d : Dev) (p band : Nat) : Dev := (((d.noSeek p).setSl p slFollow).seqAxes p axClosed [2, 3]).rowSought p band

section
variable (d : Dev) (p band : Nat)

theorem onlyChanges_followAgain_axes : ((d.noSeek p).setSl p slFollow).OnlyChanges (d.followAgain p band) (axFields p [2, 3])
    (axEntries p [2, 3]) [.out, .ladder] :=
  ((onlyChanges_seqAxes (.inl rfl) (List.Subset.refl _)).mono (List.Subset.refl _) (List.Subset.refl _) (by simp)).trans
    (onlyChanges_ladder _ _ (by simp))

theorem followAgain_slSt : (d.followAgain p band).slSt p = slFollow :=
  ((onlyChanges_followAgain_axes d p band).slSt (sled_notMem_axFields (by decide) (by decide) _ _ _)).trans
    (slSt_setSl_self _ _ (by decide))

theorem followAgain_seekS : (d.followAgain p band).seekS p = none :=
  ((onlyChanges_followAgain_axes d p band).seekS (by simp [axEntries])).trans (seekS_noSeek_self _ _)

theorem followAgain_rd {r : Row} (hst : r ≠ .slState) (hs : r ≠ .axState) (hi : r ≠ .axInteg) (ix : List Nat) :
    (d.followAgain p band).rd r ix = d.rd r ix :=
  ((onlyChanges_followAgain_axes d p band).rd (sled_notMem_axFields hs hi _ _ _)).trans
    ((rd_wr _ _ _ _ _ _).trans (if_neg fun h => hst h.1))

theorem followAgain_raised : (d.followAgain p band).raised = d.raised :=
  (onlyChanges_followAgain_axes d p band).raised (by simp)

end

section
variable (s : State) (p : Fin 32) (k : Seek) (field b : Nat) (angle : Fin 3072) (hk : s.dev.seekS p = some k)
  (hstep : k.step = .landing) (hclosed : s.dev.closed p 1 = true) (hfollowed : 16 ≤ (s.dev.servoS p).followed)
  (hfield : bandField field = some b)
include hk hstep hclosed hfollowed hfield

/-- A landing, once tracking has been CLOSED for 16 samples. -/
theorem seekLanding_eq : MakesThenRuns (.seekLanding p field angle) s
    (if s.dev.bandCheck p k b angle then (s.dev.landing p b angle).followAgain p k.band
    else if k.corrections < (s.dev.landing p b angle).rd .slCorrMax [p.val] then
      (s.dev.landing p b angle).launchSeek p { k with corrections := k.corrections + 1 }
    else (s.dev.landing p b angle).endSeek p 2) := by
  have hlands : ¬ (k.step ≠ .landing ∨ (!s.dev.closed p 1) = true ∨ (s.dev.servoS p).followed < 16) := by
    simp [hstep, hclosed, hfollowed]
  change execSeekLanding p field angle s = _
  rw [execSeekLanding, serve_eq]
  simp only [hk, hfield]
  rw [if_neg hlands]
  rfl

theorem seekLanding_follows (delta : Int) (hpass : s.dev.bandCheck p k b angle = true)
    (hdelta : delta = (b : Int) - nearestBand b (s.dev.radiusAt p (s.dev.slP p)) angle) :
    ∃ d, MakesThenRuns (.seekLanding p field angle) s d ∧ d.seekS p = none ∧ d.slSt p = slFollow ∧
      d.rd .slOrigin [p.val] = toTwos 32 (s.dev.rdS .slOrigin [p.val] + 1920 * delta) ∧
      d.rd .slLastBand [p.val] = b % 2 ^ 16 ∧ d.rd .slLastDelta [p.val] = toTwos 16 delta ∧
      d.raised = s.dev.raised ++ (if s.dev.rd .slSlipMax [p.val] < delta.natAbs then
        [⟨32 * p.val + 20, evSledSlip, le 2 b ++ leI 4 (b - delta)⟩] else []) := by
  have hmakes := seekLanding_eq s p k field b angle hk hstep hclosed hfollowed hfield
  rw [if_pos hpass] at hmakes
  have herror : s.dev.bandError p b angle = delta := hdelta.symm
  refine ⟨_, hmakes, followAgain_seekS _ _ _, followAgain_slSt _ _ _, ?origin, ?band, ?delta, ?raised⟩
  case origin => rw [followAgain_rd _ _ _ (by decide) (by decide) (by decide), landing_origin, herror]
  case band => rw [followAgain_rd _ _ _ (by decide) (by decide) (by decide), landing_lastBand]
  case delta => rw [followAgain_rd _ _ _ (by decide) (by decide) (by decide), landing_lastDelta, herror]
  case raised => rw [followAgain_raised, landing_raised, herror, Dev.slipReport]

theorem seekLanding_corrects (hfail : s.dev.bandCheck p k b angle = false)
    (hcorr : k.corrections < s.dev.rd .slCorrMax [p.val]) (hrow : s.dev.rowNow p = none) :
    ∃ d, MakesThenRuns (.seekLanding p field angle) s d ∧ d.slSt p = slSeek ∧
      d.seekS p = some { k with step := .moving, corrections := k.corrections + 1 } := by
  have hframe := onlyChanges_landing s.dev p b angle
  have hmakes := seekLanding_eq s p k field b angle hk hstep hclosed hfollowed hfield
  rw [if_neg (by simp [hfail]), if_pos (by rwa [hframe.rd (by simp)])] at hmakes
  have hrow' : (s.dev.landing p b angle).rowNow p = none :=
    (rowNow_of_rows (congrArg Pk.rows (hframe.pkS (by simp)))).trans hrow
  exact ⟨_, hmakes, launchSeek_slSt _ hrow', launchSeek_seekS _ hrow'⟩

end

/-! ### The timeout (R158) -/

/-- A seek that has failed and is tried again. -/
def Seek.retried (k : Seek) : Seek := { k with step := .waiting, retries := k.retries + 1, corrections := 0, recovery := true }

/-- SEEK_FAIL is raised with its cause and the last P, the test writing of OPC is void, and the seek waits to be tried again. -/
def Dev.seekToRetry (d : Dev) (p cause : Nat) (k : Seek) : Dev :=
  ((d.voidTest p).raiseMotion p 20 evSeekFail ([cause] ++ leI 4 ((d.voidTest p).slP p))).setSeek p k.retried

section
variable {d : Dev} {p : Nat} {k : Seek} (cause : Nat)

theorem onlyChanges_seekToRetry :
    d.OnlyChanges (d.seekToRetry p cause k) [] [(.pk, p), (.seek, p)] [.out, .raised, .caused] :=
  (onlyChanges_voidTest _ _ (by simp) (by simp)).trans <| (onlyChanges_raiseMotion _ _ _ _ _ (by simp) (by simp)).trans
    (onlyChanges_setSeek _ _ _ (by simp))

theorem seekToRetry_raised : (d.seekToRetry p cause k).raised =
    d.raised ++ [⟨32 * p + 20, evSeekFail, [cause] ++ leI 4 (d.slP p)⟩] := by
  have hvoid := onlyChanges_stopVoid d p []
  simp only [Dev.seekToRetry, setSeek_frame, raised_raiseMotion, hvoid.raised (by simp), hvoid.slP (p := p) (by simp)]

theorem seekFails_retried (hk : d.seekS p = some k) (h : k.retries < d.rd .slSeekRetry [p]) :
    (d.voidTest p).seekFails p cause = d.seekToRetry p cause k := by
  have hvoid := onlyChanges_stopVoid d p []
  have hvoided : (d.voidTest p).seekS p = some k := (hvoid.seekS (by simp)).trans hk
  simp only [Dev.seekFails, hvoided]
  exact if_pos ((hvoid.rd (by simp)).symm ▸ h)

/-- A seek in motion that fails and may be retried stops the sled with a ramp, and waits for its end. -/
theorem endSeek_ramps (hk : d.seekS p = some k) (hretry : k.retries < d.rd .slSeekRetry [p]) (hst : d.slSt p = slSeek)
    (hstops : d.StopsAsSet p) (hmode : d.on .slStopmode [p] = false) (hauto : d.sledAuto p = true)
    (hfault : d.on .slFault [p] = false) (hrow : d.rowNow p = none) :
    d.endSeek p cause = (d.seekToRetry p cause k).rampDown p := by
  have hframe := onlyChanges_seekToRetry (d := d) (p := p) (k := k) cause
  have hramp := onlyChanges_rampDown (d.seekToRetry p cause k) p
  have hseek : ((d.seekToRetry p cause k).rampDown p).seekS p = some k.retried :=
    (hramp.seekS (by simp)).trans (seekS_setSeek_self _ _ _)
  have hauto' : ((d.seekToRetry p cause k).rampDown p).sledAuto p = true :=
    beq_iff_eq.2 ((hramp.rd (by simp)).trans ((hframe.rd (by simp)).trans (beq_iff_eq.1 hauto)))
  have hfault' : ((d.seekToRetry p cause k).rampDown p).on .slFault [p] = false :=
    (hramp.on (by simp)).trans ((hframe.on (by simp)).trans hfault)
  simp only [Dev.endSeek]
  rw [abandonNow_idle hrow, seekFails_retried cause hk hretry, immediate_stopmode hstops, hmode, if_neg (by decide),
    halt_ramps ((hframe.slSt (by simp)).trans hst), trySeek_stopping hseek rfl hauto' hfault' (rampDown_slSt _ _)]

end

theorem seekTimeout_retries (s : State) (p : Fin 32) (k : Seek) (hk : s.dev.seekS p = some k)
    (hstep : k.step = .moving ∨ k.step = .landing) (hretry : k.retries < s.dev.rd .slSeekRetry [p.val])
    (hst : s.dev.slSt p = slSeek) (hstops : s.dev.StopsAsSet p) (hmode : s.dev.on .slStopmode [p.val] = false)
    (hauto : s.dev.sledAuto p = true) (hfault : s.dev.on .slFault [p.val] = false) (hrow : s.dev.rowNow p = none) :
    ∃ d, MakesThenRuns (.seekTimeout p) s d ∧ d.slSt p = slStopping ∧ (d.sledS p).ramp.isSome = true ∧
      d.seekS p = some { k with step := .waiting, retries := k.retries + 1, corrections := 0, recovery := true } ∧
      d.raised = s.dev.raised ++ [⟨32 * p.val + 20, evSeekFail, 0 :: leI 4 (s.dev.slP p)⟩] := by
  have hramp := onlyChanges_rampDown (s.dev.seekToRetry p 0 k) p
  have hmakes : MakesThenRuns (.seekTimeout p) s ((s.dev.seekToRetry p 0 k).rampDown p) := by
    change execSeekTimeout p s = _
    rw [execSeekTimeout, serve_eq]
    simp only [hk]
    rw [if_pos hstep, endSeek_ramps 0 hk hretry hst hstops hmode hauto hfault hrow]
  refine ⟨_, hmakes, rampDown_slSt _ _, ?ramp, (hramp.seekS (by simp)).trans (seekS_setSeek_self _ _ _),
    (hramp.raised (by simp)).trans (seekToRetry_raised 0)⟩
  case ramp => rw [rampDown_sledS]; rfl

/-- Settles O43: a seek that starts is launched (`launchSeek_move`), its landing corrects the model (`landing_origin`), and its
timeout ends it with a ramp (`endSeek_ramps`). -/
theorem seeksMoveLandAndFail : Obligations.SeeksMoveLandAndFail := by
  unfold Obligations.SeeksMoveLandAndFail
  refine ⟨sledIdleCurrent_holds, seekStart_moves, seekProfileEnd_lands, landTracking_closes, ?follows, ?corrects, ?fails⟩
  case follows =>
    exact fun s p k field b angle delta hk hstep hclosed hfollowed hfield =>
      seekLanding_follows s p k field b angle hk hstep hclosed hfollowed hfield delta
  case corrects => exact seekLanding_corrects
  case fails =>
    intro s p k hk hstep hretry hrecovery hst hhomed htest hhoming hmode hauto hfault hrow
    have hstops : s.dev.StopsAsSet p := {
      state := by rw [hst]; decide
      homed := hhomed
      selftest := htest
      homing := homingS_of_nil hhoming p
      seek := by simp [hk, hrecovery] }
    exact seekTimeout_retries s p k hk hstep hretry hst hstops hmode hauto hfault hrow

end Sys2Proof.Machine
end

section
/-! SUPPORT. Homings that begin, fail and succeed (R164 to R168). -/

namespace Sys2Proof.Machine

/-! ### A homing begins (R164, R165) -/

section
variable (d : Dev) (p : Nat)

theorem onlyChanges_beginCapture {fs : List Fld} {es : List (Table × Nat)} {ps : List Part} (hp : (.pk, p) ∈ es)
    (hs : (.servo, p) ∈ es) : d.OnlyChanges (d.beginCapture p) fs es ps :=
  (onlyChanges_sendSa d p 0 hp).trans (onlyChanges_updServo _ _ _ hs)

theorem beginCapture_cap : ((d.beginCapture p).servoS p).cap = some {} := by rw [Dev.beginCapture, servoS_updServo_self]

/-- The sled is HOMING, its move given up and its output free again. -/
def Dev.homingStarted (d : Dev) (p : Nat) (recovery : Bool) : Dev :=
  ((d.setHoming p { recovery := recovery }).setSl p slHoming).updSled p fun s =>
    { s with homeBlocked := false, move := none, ramp := none, frozen := none }

theorem beginHoming_free (recovery : Bool) (h : d.homeBlocker p = none) :
    d.beginHoming p recovery = ((d.homingStarted p recovery).axesForHoming p).beginCapture p := by
  have hsame : (d.setHoming p { recovery := recovery }).homeBlocker p = none := h
  simp only [Dev.beginHoming, hsame]
  rfl

theorem beginHoming_blocked (recovery : Bool) {c : Nat} (h : d.homeBlocker p = some c) :
    d.beginHoming p recovery = (d.setHoming p { recovery := recovery }).homeFails p c 5 := by
  have hsame : (d.setHoming p { recovery := recovery }).homeBlocker p = some c := h
  simp only [Dev.beginHoming, hsame]

theorem onlyChanges_homingStarted (recovery : Bool) :
    d.OnlyChanges (d.homingStarted p recovery) [⟨.slState, [p]⟩] [(.homing, p), (.sled, p)] [] :=
  (onlyChanges_setHoming _ _ _ (by simp)).trans <| (onlyChanges_wr _ _ _ _ (by simp)).trans (onlyChanges_updSled _ _ _ (by simp))

end

/-- From d to e a homing of sled p has begun, and focus is being captured. -/
structure Dev.HomingBegun (d e : Dev) (p : Nat) (recovery : Bool) : Prop where
  state : e.slSt p = slHoming
  homing : e.homingS p = some { recovery := recovery }
  capture : (e.servoS p).cap = some {}
  position : e.slP p = d.slP p
  free : (e.sledS p).homeBlocked = false
  raised : e.raised = d.raised

theorem beginHoming_begins {d : Dev} {p : Nat} (recovery : Bool) (hblock : d.homeBlocker p = none) (hrow : d.rowNow p = none) :
    d.HomingBegun (d.beginHoming p recovery) p recovery := by
  have hstart := onlyChanges_homingStarted d p recovery
  have hrow' : (d.homingStarted p recovery).rowNow p = none :=
    (rowNow_of_rows (congrArg Pk.rows (hstart.pkS (by simp)))).trans hrow
  have hrest : (d.homingStarted p recovery).OnlyChanges (d.beginHoming p recovery) (axFields p [1, 2, 3])
      ((.servo, p) :: axEntries p [1, 2, 3]) [.out] := by
    rw [beginHoming_free d p recovery hblock]
    exact ((onlyChanges_axesForHoming hrow').mono (List.Subset.refl _) (List.subset_cons_self _ _) (List.Subset.refl _)).trans
      (onlyChanges_beginCapture _ _ (by simp [axEntries]) (by simp))
  exact {
    state := (hrest.slSt (sled_notMem_axFields (by decide) (by decide) _ _ _)).trans (slSt_setSl_self _ _ (by decide))
    homing := (hrest.homingS (by simp [axEntries])).trans (homingS_setHoming_self d p _)
    capture := by rw [beginHoming_free d p recovery hblock]; exact beginCapture_cap _ _
    position := (hrest.slP (sled_notMem_axFields (by decide) (by decide) _ _ _)).trans (hstart.slP (by simp))
    free := by rw [hrest.sledS (by simp [axEntries]), Dev.homingStarted, sledS_updSled_self]
    raised := (hrest.raised (by simp)).trans (hstart.raised (by simp)) }

/-! ### A homing fails (R166) -/

/-- HOME_FAIL is raised, and the homing given up. -/
def Dev.homingReported (d : Dev) (p cause : Nat) : Dev :=
  ({ d with homing := tdel d.homing p } : Dev).raiseMotion p 20 evHomeFail [cause]

/-- The sled is UNHOMED at once, and the homing that a MEDIA_LOAD waited for over. -/
def Dev.homingLost (d : Dev) (p cause unhomedCause : Nat) : Dev :=
  (((d.homingReported p cause).unhome p unhomedCause).updSled p fun s => { s with homeBlocked := true }).homingOver p false

theorem onlyChanges_homingReported (d : Dev) (p cause : Nat) :
    d.OnlyChanges (d.homingReported p cause) [] [(.homing, p)] [.raised, .caused] :=
  (onlyChanges_homingDone _ _ (by simp)).trans (onlyChanges_raiseMotion _ _ _ _ _ (by simp) (by simp))

theorem onlyChanges_homingLost (d : Dev) (p cause unhomedCause : Nat) :
    ((d.homingReported p cause).unhome p unhomedCause).OnlyChanges (d.homingLost p cause unhomedCause) [] [(.sled, p)] [.cmds] :=
  (onlyChanges_updSled _ _ _ (by simp)).trans (onlyChanges_homingOver _ _ _ (by simp))

theorem onlyChanges_homingUnhomed (d : Dev) (p cause unhomedCause : Nat) :
    (d.homingReported p cause).OnlyChanges ((d.homingReported p cause).unhome p unhomedCause) [⟨.slState, [p]⟩] [(.sled, p)]
      [.raised] := onlyChanges_unhome _ _ _ (by simp) (by simp) (by simp)

theorem homeFails_lost {d : Dev} {p : Nat} {h : Homing} (cause unhomedCause : Nat) (hh : d.homingS p = some h)
    (hseek : d.seekS p = none) : d.homeFails p cause unhomedCause = d.homingLost p cause unhomedCause := by
  have hhome : ¬ (!thas d.homing p) = true := by simp [thas_homing, hh]
  have hnone : (d.homingLost p cause unhomedCause).seekS p = none :=
    ((onlyChanges_homingLost _ _ _ _).seekS (by simp)).trans <| ((onlyChanges_homingUnhomed _ _ _ _).seekS (by simp)).trans <|
      ((onlyChanges_homingReported _ _ _).seekS (by simp)).trans hseek
  rw [Dev.homeFails, if_neg hhome]
  change (match (d.homingLost p cause unhomedCause).seekS p with
    | some k => (d.homingLost p cause unhomedCause).seekLost p k
    | none => d.homingLost p cause unhomedCause) = _
  simp only [hnone]

/-- From d to e a homing of sled p has failed with its cause: the sled is UNHOMED, and makes no further attempt by itself. -/
structure Dev.HomingFailed (d e : Dev) (p cause : Nat) : Prop where
  state : e.slSt p = slUnhomed
  homing : e.homingS p = none
  blocked : (e.sledS p).homeBlocked = true
  raised : e.raised = d.raised ++ ⟨32 * p + 20, evHomeFail, [cause]⟩ :: unhomedReport p (d.slSt p) 5

theorem homeFails_fails {d : Dev} {p : Nat} {h : Homing} (cause : Nat) (hh : d.homingS p = some h) (hseek : d.seekS p = none) :
    d.HomingFailed (d.homeFails p cause 5) p cause := by
  have hreport := onlyChanges_homingReported d p cause
  have hunhome := onlyChanges_homingUnhomed d p cause 5
  have hend := onlyChanges_homingLost d p cause 5
  rw [homeFails_lost cause 5 hh hseek]
  exact {
    state := (hend.slSt (by simp)).trans (unhome_slSt _ _ _)
    homing := (hend.homingS (by simp)).trans <| (hunhome.homingS (by simp)).trans (homingS_homingDone d p)
    blocked := congrArg Sled.homeBlocked
      (sledS_updSled_self ((d.homingReported p cause).unhome p 5) p fun s => { s with homeBlocked := true })
    raised := by
      rw [hend.raised (by simp), unhome_raised, hreport.slSt (by simp), Dev.homingReported, raised_raiseMotion, List.append_assoc]
      rfl }

/-- A failed homing of a sled that was HOMING reports both. -/
theorem Dev.HomingFailed.raised_homing {d e : Dev} {p cause : Nat} (h : d.HomingFailed e p cause) (hst : d.slSt p = slHoming) :
    e.raised = d.raised ++ [⟨32 * p + 20, evHomeFail, [cause]⟩, ⟨32 * p + 20, evSledUnhomed, [5]⟩] := by
  rw [h.raised, hst]
  rfl

/-- Of a sled that was UNHOMED already it reports the failure alone. -/
theorem Dev.HomingFailed.raised_unhomed {d e : Dev} {p cause : Nat} (h : d.HomingFailed e p cause) (hst : d.slSt p = slUnhomed) :
    e.raised = d.raised ++ [⟨32 * p + 20, evHomeFail, [cause]⟩] := by
  rw [h.raised, hst]
  rfl

/-! ### A homing succeeds (R165 step 5, R168) -/

/-- The radius model as a homing sets it. -/
def Dev.modelSet (d : Dev) (p coarse scale : Nat) (origin : Int) : Dev :=
  ((d.wr .slScale [p] scale).wrS .slOrigin [p] origin).wr .slCoarse [p] coarse

/-- The model is set and the homing over: the sled is homed and holds. -/
def Dev.homedSled (d : Dev) (p coarse scale : Nat) (origin : Int) : Dev :=
  ((({ d.modelSet p coarse scale origin with homing := tdel (d.modelSet p coarse scale origin).homing p } : Dev).updSled p
    fun k => { k with homed := true, homeBlocked := false, move := none, ramp := none }).setSl p slHold).homingOver p true

section
variable {d : Dev} {p : Nat} (coarse scale : Nat) (origin : Int) (hseek : d.seekS p = none)
include hseek

theorem homedNow_eq : d.homedNow p coarse scale origin = (d.homedSled p coarse scale origin).raisePk p 20 evSledHomed
    ([coarse] ++ le 4 scale ++ leI 4 ((d.modelSet p coarse scale origin).rdS .slOrigin [p])) := by
  have hnone : ((d.homedSled p coarse scale origin).raisePk p 20 evSledHomed
    ([coarse] ++ le 4 scale ++ leI 4 ((d.modelSet p coarse scale origin).rdS .slOrigin [p]))).seekS p = none := hseek
  exact trySeek_none hnone

end

section
variable (d : Dev) (p coarse scale : Nat) (origin : Int)

theorem onlyChanges_homedSled_model :
    (d.modelSet p coarse scale origin).OnlyChanges (d.homedSled p coarse scale origin) [⟨.slState, [p]⟩]
      [(.homing, p), (.sled, p)] [.cmds] :=
  (onlyChanges_homingDone _ _ (by simp)).trans <| (onlyChanges_updSled _ _ _ (by simp)).trans <|
    (onlyChanges_wr _ _ _ _ (by simp)).trans (onlyChanges_homingOver _ _ _ (by simp))

theorem homedSled_scale (h : scale < 2 ^ 32) : (d.homedSled p coarse scale origin).rd .slScale [p] = scale := by
  rw [(onlyChanges_homedSled_model d p coarse scale origin).rd (by simp), Dev.modelSet, rd_wr, if_neg (by simp), rd_wrS,
    if_neg (by simp)]
  exact rd_wr_self _ _ _ _ h

theorem modelSet_origin (hlo : -2147483648 ≤ origin) (hhi : origin < 2147483648) :
    (d.modelSet p coarse scale origin).rdS .slOrigin [p] = origin := by
  have hcoarse : ((d.wr .slScale [p] scale).wrS .slOrigin [p] origin).OnlyChanges (d.modelSet p coarse scale origin)
      [⟨.slCoarse, [p]⟩] [] [] := onlyChanges_wr _ _ _ _ (by simp)
  rw [hcoarse.rdS (by simp)]
  exact rdS_wrS_self _ _ _ _ rfl hlo hhi

theorem homedSled_origin (hlo : -2147483648 ≤ origin) (hhi : origin < 2147483648) :
    (d.homedSled p coarse scale origin).rdS .slOrigin [p] = origin := by
  rw [(onlyChanges_homedSled_model d p coarse scale origin).rdS (by simp)]
  exact modelSet_origin d p coarse scale origin hlo hhi

theorem homedSled_coarse (h : coarse < 2) : (d.homedSled p coarse scale origin).rd .slCoarse [p] = coarse := by
  rw [(onlyChanges_homedSled_model d p coarse scale origin).rd (by simp)]
  exact rd_wr_self _ _ _ _ h

theorem homedSled_slSt : (d.homedSled p coarse scale origin).slSt p = slHold :=
  ((onlyChanges_homingOver _ p true (fs := []) (es := []) (List.mem_singleton_self _)).slSt (by simp)).trans
    (slSt_setSl_self _ _ (by decide))

theorem homedSled_homingS : (d.homedSled p coarse scale origin).homingS p = none := homingS_homingDone _ p

theorem homedSled_homed : ((d.homedSled p coarse scale origin).sledS p).homed = true := by
  have hhomed := sledS_updSled_self
    ({ d.modelSet p coarse scale origin with homing := tdel (d.modelSet p coarse scale origin).homing p } : Dev) p
    fun k => { k with homed := true, homeBlocked := false, move := none, ramp := none }
  exact congrArg Sled.homed hhomed

theorem homedSled_raised : (d.homedSled p coarse scale origin).raised = d.raised := rfl

end

/-- Sled p has been homed, with its scale, on the switch alone or not, and holds. -/
structure Dev.Homed (e : Dev) (p coarse scale : Nat) : Prop where
  scale : e.rd .slScale [p] = scale
  coarse : e.rd .slCoarse [p] = coarse
  state : e.slSt p = slHold
  homing : e.homingS p = none
  homed : (e.sledS p).homed = true

section
variable {d : Dev} {p coarse scale : Nat} (origin : Int) (hseek : d.seekS p = none)
include hseek

theorem onlyChanges_homedNow :
    (d.homedSled p coarse scale origin).OnlyChanges (d.homedNow p coarse scale origin) [] [] [.raised] := by
  rw [homedNow_eq coarse scale origin hseek]
  exact onlyChanges_raise _ _ _ _ (by simp)

theorem homedNow_homed (hcoarse : coarse < 2) (hscale : scale < 2 ^ 32) :
    (d.homedNow p coarse scale origin).Homed p coarse scale where
  scale := ((onlyChanges_homedNow origin hseek).rd (by simp)).trans (homedSled_scale d p coarse scale origin hscale)
  coarse := ((onlyChanges_homedNow origin hseek).rd (by simp)).trans (homedSled_coarse d p coarse scale origin hcoarse)
  state := ((onlyChanges_homedNow origin hseek).slSt (by simp)).trans (homedSled_slSt d p coarse scale origin)
  homing := ((onlyChanges_homedNow origin hseek).homingS (by simp)).trans (homedSled_homingS d p coarse scale origin)
  homed := by
    rw [(onlyChanges_homedNow origin hseek).sledS (by simp)]
    exact homedSled_homed d p coarse scale origin

theorem homedNow_origin (hlo : -2147483648 ≤ origin) (hhi : origin < 2147483648) :
    (d.homedNow p coarse scale origin).rdS .slOrigin [p] = origin :=
  ((onlyChanges_homedNow origin hseek).rdS (by simp)).trans (homedSled_origin d p coarse scale origin hlo hhi)

theorem homedNow_raised (hlo : -2147483648 ≤ origin) (hhi : origin < 2147483648) :
    (d.homedNow p coarse scale origin).raised =
      d.raised ++ [⟨32 * p + 20, evSledHomed, [coarse] ++ le 4 scale ++ leI 4 origin⟩] := by
  rw [homedNow_eq coarse scale origin hseek, raised_raisePk, homedSled_raised, modelSet_origin d p coarse scale origin hlo hhi]

end

end Sys2Proof.Machine
end

section
/-! SUPPORT. The steps of a homing, its ends, and the coil bridges (O45). -/

namespace Sys2Proof.Machine

/-! ### The start (R164, R165) -/

theorem sledHome_begins (s : State) (p : Fin 32) (hready : s.dev.ready = true) (hmode : s.dev.rd .slMode [p.val] ≠ 1)
    (hfault : s.dev.on .slFault [p.val] = false) (hpresent : s.dev.on .pkPresent [p.val] = true)
    (hseek : thas s.dev.seek p = false) (hhoming : thas s.dev.homing p = false) (hrow : s.dev.rowNow p = none)
    (hst : s.dev.slSt p ≠ slStopping) (hblock : s.dev.homeBlocker p = none) :
    ∃ d, MakesThenRuns (.sledHome p) s d ∧ d.slSt p = slHoming ∧ d.homingS p = some {} ∧
      (d.servoS p).cap = some {} ∧ d.slP p = s.dev.slP p ∧ (d.sledS p).homeBlocked = false ∧ d.raised = s.dev.raised := by
  have hvoid := onlyChanges_stopVoid s.dev p []
  have hblock' : (s.dev.voidTest p).homeBlocker p = none := by
    rw [Dev.homeBlocker, hvoid.rdS (by simp), Dev.spotOn, hvoid.rd (by simp)]
    exact hblock
  have hbegun := beginHoming_begins false hblock' ((rowNow_voidTest _ _).trans hrow)
  have hmakes : MakesThenRuns (.sledHome p) s ((s.dev.voidTest p).beginHoming p false) := by
    change execSledHome p s = _
    rw [execSledHome, serve_eq, if_pos (by simp [hready, hmode, hfault, hpresent, hseek, hhoming, hst]), abandonNow_idle hrow]
  exact ⟨_, hmakes, hbegun.state, hbegun.homing, hbegun.capture, hbegun.position.trans (hvoid.slP (by simp)), hbegun.free,
    hbegun.raised.trans (hvoid.raised (by simp))⟩

section
variable (s : State) (p : Fin 32) (hauto : s.dev.sledAuto p = true) (hpresent : s.dev.on .pkPresent [p.val] = true)
  (hfault : s.dev.on .slFault [p.val] = false) (hfree : (s.dev.sledS p).homeBlocked = false)
  (hquiet : s.dev.pickupQuiet p = true) (hrows : (s.dev.pkS p).rows = []) (hst : s.dev.slSt p = slUnhomed)
include hauto hpresent hfault hfree hquiet hrows hst

theorem homingStart_begins : MakesThenRuns (.homingStart p) s (s.dev.beginHoming p false) := by
  change execHomingStart p s = _
  rw [execHomingStart, serve_eq]
  simp only []
  rw [if_pos (by simp [hauto, hpresent, hfault, hfree, hquiet, hrows, hst])]

theorem homingStart_homes (hblock : s.dev.homeBlocker p = none) :
    ∃ d, MakesThenRuns (.homingStart p) s d ∧ d.slSt p = slHoming ∧ d.homingS p = some {} ∧ (d.servoS p).cap = some {} ∧
      d.slP p = s.dev.slP p := by
  have hbegun := beginHoming_begins false hblock (rowNow_of_rows_nil hrows)
  exact ⟨_, homingStart_begins s p hauto hpresent hfault hfree hquiet hrows hst, hbegun.state, hbegun.homing, hbegun.capture,
    hbegun.position⟩

/-- Blocked by the spindle's speed or a dark S0, it fails at once (log entry 78). -/
theorem homingStart_fails (c : Nat) (hblock : s.dev.homeBlocker p = some c) :
    ∃ d, MakesThenRuns (.homingStart p) s d ∧ d.slSt p = slUnhomed ∧ (d.sledS p).homeBlocked = true ∧
      d.raised = s.dev.raised ++ [⟨32 * p.val + 20, evHomeFail, [c]⟩] := by
  have hseek : s.dev.seekS p = none := by
    simp only [Dev.pickupQuiet, thas_seek, Bool.and_eq_true, Bool.not_eq_true', Option.isSome_eq_false_iff,
      Option.isNone_iff_eq_none] at hquiet
    obtain ⟨⟨⟨-, hseek⟩, -⟩, -⟩ := hquiet
    exact hseek
  have hmakes := homingStart_begins s p hauto hpresent hfault hfree hquiet hrows hst
  rw [beginHoming_blocked _ _ _ hblock] at hmakes
  have hfailed := homeFails_fails (d := s.dev.setHoming p {}) c (homingS_setHoming_self _ _ _) hseek
  exact ⟨_, hmakes, hfailed.state, hfailed.blocked, hfailed.raised_unhomed hst⟩

end

/-! ### The pattern and the switch (R165 to R167) -/

section
variable (d : Dev) (p : Nat) (h : Homing)

theorem homingRamp_homingS : (d.homingRamp p h).homingS p = some h := homingS_setHoming_self d p h

theorem homingRamp_sledS : (d.homingRamp p h).sledS p =
    { d.sledS p with move := none, ramp := some (d.rampFrom p (d.rd .slHomeAccel [p])) } :=
  sledS_updSled_self (d.setHoming p h) p fun k => { k with move := none, ramp := some (d.rampFrom p (d.rd .slHomeAccel [p])) }

theorem onlyChanges_homingRamp : d.OnlyChanges (d.homingRamp p h) [] [(.homing, p), (.sled, p)] [] :=
  (onlyChanges_setHoming _ _ _ (by simp)).trans (onlyChanges_updSled _ _ _ (by simp))

end

theorem homingPatternSeen_ramps (s : State) (p : Fin 32) (h : Homing) (frames : List (Nat × Nat)) (place : Int)
    (hh : s.dev.homingS p = some h) (hstep : h.step = .inward ∨ h.step = .fromSwitch) (hlen : 8 ≤ (chevrons frames).length)
    (hseen : ∀ c ∈ (chevrons frames).take 8, chevronSeen c = true)
    (hplace : place = s.dev.sledOut p + s.dev.stepsOf p (22300000 - chevronRadius (((chevrons frames).take 8).drop 7))) :
    ∃ d, Makes (.homingPatternSeen p frames) s d ∧ d.homingS p = some { h with step := .ramp, first := place } ∧
      (d.sledS p).ramp.isSome = true ∧ (d.sledS p).move = none ∧
      s.dev.OnlyChanges d [] [(.homing, p.val), (.sled, p.val)] [] := by
  have hmakes : Makes (.homingPatternSeen p frames) s (s.dev.homingRamp p { h with step := .ramp, first := place }) := by
    change execHomingPatternSeen p frames s = _
    rw [execHomingPatternSeen, act_eq]
    simp only [hh]
    rw [if_pos ⟨hstep, List.length_take_of_le hlen, List.all_eq_true.2 hseen⟩, ← hplace]
  refine ⟨_, hmakes, homingRamp_homingS _ _ _, ?ramp, ?move, onlyChanges_homingRamp _ _ _⟩
  case ramp => rw [homingRamp_sledS]; rfl
  case move => rw [homingRamp_sledS]

theorem homeNLow_ramps (s : State) (p : Fin 32) (h : Homing) (hh : s.dev.homingS p = some h) (hstep : h.step = .inward) :
    ∃ d, Makes (.homeNLow p) s d ∧ d.homingS p = some { h with step := .switchRamp, home := some (s.dev.sledOut p) } ∧
      (d.sledS p).ramp.isSome = true ∧ s.dev.OnlyChanges d [] [(.homing, p.val), (.sled, p.val)] [] := by
  have hmakes : Makes (.homeNLow p) s (s.dev.homingRamp p { h with step := .switchRamp, home := some (s.dev.sledOut p) }) := by
    change execHomeNLow p s = _
    rw [execHomeNLow, act_eq]
    simp only [hh]
    rw [if_pos hstep]
  refine ⟨_, hmakes, homingRamp_homingS _ _ _, ?ramp, onlyChanges_homingRamp _ _ _⟩
  case ramp => rw [homingRamp_sledS]; rfl

/-- 20 ms at rest have passed: the read of the radius begins. -/
theorem homingSettleEnd_reads (s : State) (p : Fin 32) (h : Homing) (hh : s.dev.homingS p = some h) :
    (h.step = .settleFirst → Makes (.homingSettleEnd p) s (s.dev.setHoming p { h with step := .readFirst })) ∧
    (h.step = .settleSecond → Makes (.homingSettleEnd p) s (s.dev.setHoming p { h with step := .readSecond })) := by
  constructor <;> intro hstep
  all_goals
    change execHomingSettleEnd p s = _
    rw [execHomingSettleEnd, act_eq]
    simp only [hh, hstep]

/-! ### The two radii (R165, R166) -/

section
variable (s : State) (p : Fin 32) (h : Homing) (frames : List (Nat × Nat)) (radius : Int) (hh : s.dev.homingS p = some h)
  (hlen : 384 ≤ (chevrons frames).length) (hradius : radius = chevronRadius ((chevrons frames).take 384))
include hh hlen hradius

theorem homingRadiusRead_first (hstep : h.step = .readFirst) :
    ∃ d m, MakesThenRuns (.homingRadiusRead p frames) s d ∧
      d.homingS p = some { h with r1 := radius, p1 := s.dev.slP p, step := .toSecond } ∧ (d.sledS p).move = some m ∧
      m.target = s.dev.slP p + 262144 ∧ s.dev.OnlyChanges d [] [(.homing, p.val), (.sled, p.val)] [] := by
  have hread : ¬ ((chevrons frames).take 384).length < 384 := by simp [hlen]
  have hmakes : MakesThenRuns (.homingRadiusRead p frames) s
      (s.dev.homingGo p { h with r1 := radius, p1 := s.dev.slP p } .toSecond (s.dev.slP p + 262144)) := by
    change execHomingRadiusRead p frames s = _
    rw [execHomingRadiusRead, serve_eq]
    simp only [hh, hstep]
    rw [if_neg hread, ← hradius]
  exact ⟨_, _, hmakes, homingS_setHoming_self _ _ _, startMove_move _ _ _ _ _, rfl,
    (onlyChanges_setHoming _ _ _ (by simp)).trans (onlyChanges_startMove _ _ _ _ _ (by simp))⟩

theorem homingRadiusRead_second (hstep : h.step = .readSecond) :
    MakesThenRuns (.homingRadiusRead p frames) s (s.dev.secondRadius p h radius) := by
  have hread : ¬ ((chevrons frames).take 384).length < 384 := by simp [hlen]
  change execHomingRadiusRead p frames s = _
  rw [execHomingRadiusRead, serve_eq]
  simp only [hh, hstep]
  rw [if_neg hread, ← hradius]

/-- A scale within 1 % of nominal ends the homing well. -/
theorem homingRadiusRead_homes (diff scale origin : Int) (hstep : h.step = .readSecond) (hseek : s.dev.seekS p = none)
    (hdiff : diff = radius - h.r1) (hscale : scale = roundDiv (diff * 2 ^ 14) 1000)
    (horigin : origin = h.r1 - roundDiv (scale * h.p1 * 1000) (2 ^ 32)) (hlo : -2147483648 ≤ origin) (hhi : origin < 2147483648)
    (hmin : 593920 ≤ diff) (hmax : diff ≤ 606208) :
    ∃ d, MakesThenRuns (.homingRadiusRead p frames) s d ∧ (d.rd .slScale [p.val] : Int) = scale ∧
      d.rdS .slOrigin [p.val] = origin ∧ d.rd .slCoarse [p.val] = 0 ∧ d.slSt p = slHold ∧ d.homingS p = none ∧
      (d.sledS p).homed = true ∧
      d.raised = s.dev.raised ++ [⟨32 * p.val + 20, evSledHomed, 0 :: le 4 scale.toNat ++ leI 4 origin⟩] := by
  have hquot : scale = (2 * (diff * 16384) + 1000) / 2000 := hscale.trans (roundDiv_of_nonneg (by omega) (by omega))
  have hwidth : scale.toNat < 2 ^ 32 := by omega
  have hnonneg : (scale.toNat : Int) = scale := Int.toNat_of_nonneg (by omega)
  have hsecond : s.dev.secondRadius p h radius = s.dev.homedNow p 0 scale.toNat origin := by
    rw [Dev.secondRadius, ← hdiff]
    simp only []
    rw [if_neg (by omega), ← hscale, ← horigin]
  have hmakes := homingRadiusRead_second s p h frames radius hh hlen hradius hstep
  rw [hsecond] at hmakes
  have hhomed := homedNow_homed origin hseek (coarse := 0) (by decide) hwidth
  exact ⟨_, hmakes, (congrArg Nat.cast hhomed.scale).trans hnonneg, homedNow_origin origin hseek hlo hhi, hhomed.coarse,
    hhomed.state, hhomed.homing, hhomed.homed, homedNow_raised origin hseek hlo hhi⟩

/-- Any other scale fails it. -/
theorem homingRadiusRead_fails (diff : Int) (hstep : h.step = .readSecond) (hseek : s.dev.seekS p = none)
    (hdiff : diff = radius - h.r1) (hout : diff < 593920 ∨ 606208 < diff) (hst : s.dev.slSt p = slHoming) :
    ∃ d, MakesThenRuns (.homingRadiusRead p frames) s d ∧ d.slSt p = slUnhomed ∧ d.homingS p = none ∧
      d.raised = s.dev.raised ++ [⟨32 * p.val + 20, evHomeFail, [1]⟩, ⟨32 * p.val + 20, evSledUnhomed, [5]⟩] := by
  have hsecond : s.dev.secondRadius p h radius = s.dev.homeFails p 1 5 := by
    rw [Dev.secondRadius, ← hdiff]
    exact if_pos hout
  have hfailed := homeFails_fails 1 hh hseek
  exact ⟨_, hsecond ▸ homingRadiusRead_second s p h frames radius hh hlen hradius hstep, hfailed.state, hfailed.homing,
    hfailed.raised_homing hst⟩

end

/-! ### The switch alone, and the failures (R166, R168) -/

theorem homingSwitchSearchEnd_homes (s : State) (p : Fin 32) (h : Homing) (hh : s.dev.homingS p = some h)
    (hstep : h.step = .fromSwitch) (hend : s.dev.moveEnded p = true) (hseek : s.dev.seekS p = none) :
    ∃ d, MakesThenRuns (.homingSwitchSearchEnd p) s d ∧ d.rd .slCoarse [p.val] = 1 ∧ d.rd .slScale [p.val] = 9830400 ∧
      d.slSt p = slHold ∧ d.homingS p = none := by
  have hmakes : MakesThenRuns (.homingSwitchSearchEnd p) s
      (s.dev.homedNow p 1 9830400 (21500000 - roundDiv (9830400 * h.home.getD 0 * 1000) (2 ^ 32))) := by
    change execHomingSwitchSearchEnd p s = _
    rw [execHomingSwitchSearchEnd, serve_eq]
    simp only [hh]
    rw [if_pos ⟨hstep, hend⟩]
  have hhomed := homedNow_homed (21500000 - roundDiv (9830400 * h.home.getD 0 * 1000) (2 ^ 32)) hseek (coarse := 1)
    (scale := 9830400) (by decide) (by decide)
  exact ⟨_, hmakes, hhomed.coarse, hhomed.scale, hhomed.state, hhomed.homing⟩

section
variable (s : State) (p : Fin 32) (h : Homing) (hh : s.dev.homingS p = some h)
include hh

theorem homingTravelEnd_eq (hstep : h.step = .inward) (hend : s.dev.moveEnded p = true) :
    MakesThenRuns (.homingTravelEnd p) s (s.dev.homeFails p 0 5) := by
  change execHomingTravelEnd p s = _
  rw [execHomingTravelEnd, serve_eq]
  simp only [hh]
  rw [if_pos ⟨hstep, hend⟩]

theorem homingReadTimeout_eq (hstep : h.step = .readFirst ∨ h.step = .readSecond) :
    MakesThenRuns (.homingReadTimeout p) s (s.dev.homeFails p 2 5) := by
  change execHomingReadTimeout p s = _
  rw [execHomingReadTimeout, serve_eq]
  simp only [hh]
  rw [if_pos hstep]

/-- What fails the homing of a HOMING sled unhomes it, and both are reported. -/
theorem homing_fails {i : Instr} (cause : Nat) (hmakes : MakesThenRuns i s (s.dev.homeFails p cause 5))
    (hst : s.dev.slSt p = slHoming) (hseek : s.dev.seekS p = none) :
    ∃ d, MakesThenRuns i s d ∧ d.slSt p = slUnhomed ∧ d.homingS p = none ∧
      d.raised = s.dev.raised ++ [⟨32 * p.val + 20, evHomeFail, [cause]⟩, ⟨32 * p.val + 20, evSledUnhomed, [5]⟩] :=
  have hfailed := homeFails_fails cause hh hseek
  ⟨_, hmakes, hfailed.state, hfailed.homing, hfailed.raised_homing hst⟩

end

/-! ### Bridges (R169, R555) -/

section
variable (s : State) (p : Fin 32) (coil : Fin 7)

theorem coilOvercurrent_axis (hcoil : coil.val < 4) (htripped : (s.dev.axS p coil).tripped = false) :
    ∃ d, MakesThenRuns (.coilOvercurrent p coil) s d ∧ (d.axS p coil).tripped = true ∧ (d.axS p coil).coil = 0 ∧
      d.raised = s.dev.raised ++ [⟨32 * p.val + (16 + coil.val), evAxisFault, [coil.val]⟩] ∧
      s.dev.OnlyChanges d [] [(.ax, axKey p coil)] [.raised] := by
  have hax : ((s.dev.updAx p coil fun k => { k with tripped := true, coil := 0 }).raisePk p (16 + coil.val) evAxisFault
      [coil.val]).axS p coil = { s.dev.axS p coil with tripped := true, coil := 0 } :=
    axS_updAx_self s.dev p coil fun k => { k with tripped := true, coil := 0 }
  refine ⟨_, ?makes, congrArg Ax.tripped hax, congrArg Ax.coil hax, raised_raisePk _ _ _ _ _,
    (onlyChanges_updAx _ _ _ _ (by simp)).trans (onlyChanges_raise _ _ _ _ (by simp))⟩
  case makes =>
    change execCoilOvercurrent p coil s = _
    rw [execCoilOvercurrent, serve_eq, if_pos hcoil, if_neg (by simp [htripped])]

theorem coilOvercurrent_sled (hcoil : 4 ≤ coil.val) (hfault : s.dev.on .slFault [p.val] = false)
    (hst : s.dev.slSt p ≠ slUnhomed) (hhoming : s.dev.homing = []) (hseek : s.dev.seekS p = none)
    (hrow : s.dev.rowNow p = none) (hread : s.dev.rowRead p = false) :
    ∃ d, MakesThenRuns (.coilOvercurrent p coil) s d ∧ d.on .slFault [p.val] = true ∧ d.slSt p = slUnhomed ∧
      d.raised = s.dev.raised ++
        [⟨32 * p.val + 20, evSledUnhomed, [1]⟩, ⟨32 * p.val + 20, evSledFault, [coil.val - 4]⟩] := by
  have hvoid := onlyChanges_stopVoid s.dev p []
  have hunhome : (s.dev.voidTest p).OnlyChanges ((s.dev.voidTest p).unhome p 1) [⟨.slState, [p.val]⟩] [(.sled, p.val)] [.raised] :=
    onlyChanges_unhome _ _ _ (by simp) (by simp) (by simp)
  have hwr : ((s.dev.voidTest p).unhome p 1).OnlyChanges (((s.dev.voidTest p).unhome p 1).wr .slFault [p.val] 1)
    [⟨.slFault, [p.val]⟩] [] [] := onlyChanges_wr _ _ _ _ (by simp)
  have hnone : ((((s.dev.voidTest p).unhome p 1).wr .slFault [p.val] 1).raisePk p 20 evSledFault [coil.val - 4]).seekS p = none :=
    (hwr.seekS (by simp)).trans <| (hunhome.seekS (by simp)).trans <| (hvoid.seekS (by simp)).trans hseek
  have hmakes : MakesThenRuns (.coilOvercurrent p coil) s
      ((((s.dev.voidTest p).unhome p 1).wr .slFault [p.val] 1).raisePk p 20 evSledFault [coil.val - 4]) := by
    change execCoilOvercurrent p coil s = _
    rw [execCoilOvercurrent, serve_eq, if_neg (by omega), if_neg (by simp [hfault])]
    simp only []
    rw [stopSled_fault hrow hread (homingS_of_nil hhoming p) hseek, trySeek_none hnone]
  refine ⟨_, hmakes, ?fault, (hwr.slSt (by simp)).trans (unhome_slSt _ _ _), ?raised⟩
  case fault =>
    rw [on_raisePk, Dev.on, rd_wr_self _ _ _ _ (by decide)]
    rfl
  case raised =>
    rw [raised_raisePk, hwr.raised (by simp), unhome_raised, hvoid.raised (by simp), hvoid.slSt (by simp), unhomedReport, if_neg hst,
      List.append_assoc]
    rfl

end

/-- Settles O45: a homing begins (`beginHoming_begins`) or fails at once, each step follows the one before, and every failure is
one of `homeFails_fails`. -/
theorem homingGoesStepByStep : Obligations.HomingGoesStepByStep := by
  unfold Obligations.HomingGoesStepByStep
  refine ⟨sledHome_begins, ?start, homingPatternSeen_ramps, homingSettleEnd_reads, ?first, ?second, homeNLow_ramps,
    homingSwitchSearchEnd_homes, ?fails, fun s p coil => ⟨coilOvercurrent_axis s p coil, coilOvercurrent_sled s p coil⟩⟩
  case start =>
    exact fun s p hauto hpresent hfault hfree hquiet hrows hst =>
      ⟨homingStart_homes s p hauto hpresent hfault hfree hquiet hrows hst,
        homingStart_fails s p hauto hpresent hfault hfree hquiet hrows hst⟩
  case first =>
    exact fun s p h frames radius hh hstep hlen hradius => homingRadiusRead_first s p h frames radius hh hlen hradius hstep
  case second =>
    exact fun s p h frames radius diff scale origin hh hstep hlen hradius hseek hdiff hscale horigin hlo hhi =>
      ⟨homingRadiusRead_homes s p h frames radius hh hlen hradius diff scale origin hstep hseek hdiff hscale horigin hlo hhi,
        homingRadiusRead_fails s p h frames radius hh hlen hradius diff hstep hseek hdiff⟩
  case fails =>
    exact fun s p h hh hst hseek =>
      ⟨fun hstep hend => homing_fails s p h hh 0 (homingTravelEnd_eq s p h hh hstep hend) hst hseek,
        fun hstep => homing_fails s p h hh 2 (homingReadTimeout_eq s p h hh hstep) hst hseek⟩

end Sys2Proof.Machine
end

section
/-! SUPPORT. The record and the registers of a spindle after an update, and what the starts and the ends of its motion share
(R193, R194, R196, R198, R199). -/

namespace Sys2Proof.Machine

theorem makes_of_eq {i : Instr} {s : State} {d e : Dev} (hi : exec i s = .next (s.commit e)) (h : e = d) : Makes i s d :=
  h ▸ hi

theorem makesThenRuns_of_eq {i : Instr} {s : State} {d e : Dev} (hi : exec i s = .next (s.commit (e.settleDeck s.mem)))
    (h : e = d) : MakesThenRuns i s d :=
  h ▸ hi

/-! ### The spindle's record -/

section
variable (d : Dev) (n : Nat)

@[simp] theorem spinS_updSpin_self (f : Spin → Spin) : (d.updSpin n f).spinS n = f (d.spinS n) := by simp [spinS_updSpin]

@[simp] theorem spinS_wr (r : Row) (ix : List Nat) (v m : Nat) : (d.wr r ix v).spinS m = d.spinS m := rfl

@[simp] theorem spinS_wrS (r : Row) (ix : List Nat) (v : Int) (m : Nat) : (d.wrS r ix v).spinS m = d.spinS m := rfl

@[simp] theorem spinS_setSp (st m : Nat) : (d.setSp n st).spinS m = d.spinS m := rfl

@[simp] theorem spinS_raise (src code : Nat) (b : Bytes) (m : Nat) : (d.raise src code b).spinS m = d.spinS m := rfl

@[simp] theorem spinS_setUnavailable (p cause : Nat) (on : Bool) (m : Nat) :
    (d.setUnavailable p cause on).spinS m = d.spinS m := rfl

@[simp] theorem spinS_gatesOff : (d.gatesOff n).spinS n = { d.spinS n with
    gates := false, braking := false, lowSide := false, duties := [0, 0, 0], vd := 0, vq := 0 } := by
  simp [Dev.gatesOff]

@[simp] theorem spinS_gatesCut : (d.gatesCut n).spinS n = { (d.gatesOff n).spinS n with
    driven := false, written := [0, 0, 0], inForce := [0, 0, 0], gateEdges := [{}, {}, {}] } := by
  simp [Dev.gatesCut]

@[simp] theorem spinS_beginBrake : (d.beginBrake n).spinS n =
    { (d.gatesOff n).spinS n with braking := true, signs := [], riseAt := none } := by
  simp [Dev.beginBrake]

@[simp] theorem spinS_gatesOn (source : Nat) : (d.gatesOn n source).spinS n = { d.spinS n with
    gates := true, braking := false, lowSide := false, ref := 0, idRef := 0, iqRef := 0, intD := 0, intQ := 0, intS := 0,
    openAngle := 0 } := by
  simp [Dev.gatesOn]

@[simp] theorem spinS_beginCatch : (d.beginCatch n).spinS n = { (d.gatesCut n).spinS n with obsGood := 0, obsBad := 0 } := by
  simp [Dev.beginCatch]

@[simp] theorem spinS_enterRun :
    (d.enterRun n).spinS n = { d.spinS n with outSince := none, replaced := false } := by
  simp [Dev.enterRun]

@[simp] theorem spinS_spindleOff_gates : ((d.spindleOff n).spinS n).gates = false := by simp [Dev.spindleOff]

@[simp] theorem spinS_spindleOff_braking : ((d.spindleOff n).spinS n).braking = false := by simp [Dev.spindleOff]

/-! ### The spindle's registers -/

theorem spSt_setSp_self {st : Nat} (h : st < 16) : (d.setSp n st).spSt n = st := rd_wr_self _ _ _ _ h

theorem on_wr_one {r : Row} (ix : List Nat) (h : 1 < 2 ^ r.spec.width) : (d.wr r ix 1).on r ix = true := by
  rw [Dev.on, rd_wr_self _ _ _ _ h]
  rfl

theorem on_wr_zero (r : Row) (ix : List Nat) : (d.wr r ix 0).on r ix = false := by
  rw [Dev.on, rd_wr_self _ _ _ _ (by positivity)]
  rfl

theorem rd_wrS_self (r : Row) (ix : List Nat) (v : Int) : (d.wrS r ix v).rd r ix = toTwos r.spec.width v := by
  rw [rd_wrS, if_pos ⟨rfl, rfl⟩]

end

/-! ### Links -/

section
variable (d : Dev) (n : Nat) {fs : List Fld} {es : List (Table × Nat)} {ps : List Part}

theorem onlyChanges_updSpin (f : Spin → Spin) (h : (.spin, n) ∈ es) : d.OnlyChanges (d.updSpin n f) fs es ps := by
  refine ⟨fun _ _ => rfl, fun t k hk => ?_, fun q _ => ?_⟩
  · cases t
    case spin =>
      have hne : k ≠ n := fun he => hk (he ▸ h)
      simp [Table.Same, spinS_updSpin, hne]
    all_goals rfl
  · cases q <;> simp [Part.Same, Dev.updSpin]

theorem onlyChanges_setSp (st : Nat) (h : ⟨.spState, [n]⟩ ∈ fs) : d.OnlyChanges (d.setSp n st) fs es ps :=
  onlyChanges_wr d _ _ _ h

theorem onlyChanges_setUnavailable (p cause : Nat) (on : Bool) (h : .unavailable ∈ ps) :
    d.OnlyChanges (d.setUnavailable p cause on) fs es ps := by
  refine ⟨fun _ _ => rfl, fun t k _ => by cases t <;> rfl, fun q hq => ?_⟩
  cases q
  case unavailable => exact absurd h hq
  all_goals simp [Part.Same, Dev.setUnavailable]

theorem onlyChanges_gatesOff (h : (.spin, n) ∈ es) : d.OnlyChanges (d.gatesOff n) fs es ps := onlyChanges_updSpin d n _ h

theorem onlyChanges_gatesCut (h : (.spin, n) ∈ es) : d.OnlyChanges (d.gatesCut n) fs es ps :=
  (onlyChanges_gatesOff d n h).trans (onlyChanges_updSpin _ n _ h)

theorem onlyChanges_beginBrake (h : (.spin, n) ∈ es) : d.OnlyChanges (d.beginBrake n) fs es ps :=
  (onlyChanges_gatesOff d n h).trans (onlyChanges_updSpin _ n _ h)

theorem onlyChanges_gatesOn (source : Nat) (hf : ⟨.spSource, [n]⟩ ∈ fs) (h : (.spin, n) ∈ es) :
    d.OnlyChanges (d.gatesOn n source) fs es ps :=
  (onlyChanges_wr d _ _ _ hf).trans (onlyChanges_updSpin _ n _ h)

theorem onlyChanges_beginCatch : d.OnlyChanges (d.beginCatch n)
    [⟨.spState, [n]⟩, ⟨.spSource, [n]⟩, ⟨.spObslock, [n]⟩] [(.spin, n)] [] :=
  (onlyChanges_gatesCut d n (by simp)).trans <| (onlyChanges_wr _ _ _ _ (by simp)).trans <|
    (onlyChanges_wr _ _ _ _ (by simp)).trans <| (onlyChanges_updSpin _ n _ (by simp)).trans (onlyChanges_setSp _ n _ (by simp))

end

/-! ### A start in progress (R193) -/

section
variable (d : Dev) (n : Nat)

theorem spSt_beginCatch : (d.beginCatch n).spSt n = spCatch := spSt_setSp_self _ _ (by decide)

theorem obslock_beginCatch : (d.beginCatch n).on .spObslock [n] = false := by
  have hset : (((d.gatesCut n).wr .spSource [n] 0).wr .spObslock [n] 0).OnlyChanges (d.beginCatch n) [⟨.spState, [n]⟩]
      [(.spin, n)] [] :=
    (onlyChanges_updSpin _ n _ (by simp)).trans (onlyChanges_setSp _ n _ (by simp))
  exact (hset.on (by simp)).trans (on_wr_zero _ _ _)

theorem spSt_enterRun : (d.enterRun n).spSt n = spRun := spSt_setSp_self _ _ (by decide)

theorem source_enterRun : (d.enterRun n).rd .spSource [n] = 2 := by
  have hset := onlyChanges_setSp (fs := [⟨.spState, [n]⟩]) (es := []) (ps := [])
    ((((d.setUnavailable (2 * n) unSpindle false).setUnavailable (2 * n + 1) unSpindle false).updSpin n fun k =>
      { k with outSince := none, replaced := false }).wr .spSource [n] 2) n spRun (by simp)
  exact (hset.rd (by simp)).trans (rd_wr_self _ _ _ _ (by decide))

/-- R394: the surfaces of a spindle in RUN are not held off for it. -/
theorem enterRun_available :
    (2 * n, unSpindle) ∉ (d.enterRun n).unavailable ∧ (2 * n + 1, unSpindle) ∉ (d.enterRun n).unavailable := by
  simp [Dev.enterRun, Dev.setUnavailable, Dev.setSp]

end

/-! ### A spindle leaves RUN or goes OFF (R198 to R200) -/

theorem abandonAll_keeps (d : Dev) (p cause : Nat) : Dev.Keeps busFailRows d (d.abandonAll p cause) :=
  .step (voidTest_keeps _ p) (keeps_foldl _ (fun d rw => abandon_keeps d p rw cause) _ d)

theorem Dev.Keeps.updSpin {rows : List Row} {d e : Dev} (h : Dev.Keeps rows d e) {n : Nat} {f : Spin → Spin} :
    Dev.Keeps rows d (e.updSpin n f) :=
  h.trans (keeps_of_eq rfl rfl rfl)

/-- The rows that leaving RUN and entering OFF write. -/
def spindleOffRows : List Row := .spState :: .spSource :: .spAtspeed :: busFailRows

theorem leaveRun_keeps (d : Dev) (n : Nat) : Dev.Keeps spindleOffRows d (d.leaveRun n) := by
  unfold Dev.leaveRun
  split
  · exact keeps_refl d
  · exact .updSpin (.wr (.mono (.step (abandonAll_keeps _ _ _) (abandonAll_keeps d _ _)) (by decide)))

theorem spindleOff_keeps (d : Dev) (n : Nat) : Dev.Keeps spindleOffRows d (d.spindleOff n) :=
  .wr (.updSpin (.wr (.updSpin (.updSpin (leaveRun_keeps d n)))))

theorem leaveRun_of_not_run {d : Dev} {n : Nat} (h : d.spSt n ≠ spRun) : d.leaveRun n = d := if_pos h

theorem spSt_spindleOff (d : Dev) (n : Nat) : (d.spindleOff n).spSt n = spOff := spSt_setSp_self _ _ (by decide)

/-- Leaving RUN raises nothing but what it does to the rows in progress. -/
theorem spindleOff_raised (d : Dev) (n : Nat) : (d.spindleOff n).raised = (d.leaveRun n).raised := by
  simp [Dev.spindleOff, Dev.gatesCut, Dev.gatesOff, Dev.setSp]

end Sys2Proof.Machine
end

section
/-! SUPPORT. The starts and the stops of a spindle, command by command (O46). -/

namespace Sys2Proof.Machine

/-! ### Starts and catches (R193, R576) -/

theorem spindleStart_catches (s : State) (n : Fin 16) (hrun : s.dev.running = true) (hst : s.dev.spSt n = spOff)
    (hen : s.dev.on .spEn [n.val] = true) (htarget : s.dev.rd .spTarget [n.val] ≠ 0)
    (hfault : s.dev.on .spFault [n.val] = false) :
    ∃ d, Makes (.spindleStart n) s d ∧ d.spSt n = spCatch ∧ (d.spinS n).attempt = 1 ∧ (d.spinS n).gates = false ∧
      d.on .spObslock [n.val] = false ∧
      s.dev.OnlyChanges d [⟨.spState, [n.val]⟩, ⟨.spSource, [n.val]⟩, ⟨.spObslock, [n.val]⟩] [(.spin, n.val)] [] := by
  have hmakes : Makes (.spindleStart n) s ((s.dev.updSpin n fun k => { k with attempt := 1, lost := false }).beginCatch n) :=
    makes_of_eq rfl (if_pos ⟨hrun, hst, hen, htarget, by simp [hfault]⟩)
  exact ⟨_, hmakes, spSt_beginCatch _ _, by simp, by simp, obslock_beginCatch _ _,
    (onlyChanges_updSpin _ n.val _ (by simp)).trans (onlyChanges_beginCatch _ _)⟩

theorem waitEnd_catches (s : State) (n : Fin 16) (hst : s.dev.spSt n = spWait) :
    ∃ d, Makes (.waitEnd n) s d ∧ d.spSt n = spCatch ∧ (d.spinS n).attempt = (s.dev.spinS n).attempt + 1 := by
  have hmakes : Makes (.waitEnd n) s ((s.dev.updSpin n fun k => { k with attempt := k.attempt + 1 }).beginCatch n) :=
    makes_of_eq rfl (if_pos hst)
  exact ⟨_, hmakes, spSt_beginCatch _ _, by simp⟩

/-- A catch has found a speed. -/
def Dev.caughtAt (d : Dev) (n : Nat) (speed : Int) : Dev :=
  (d.wrS .spSpeed [n] speed).updSpin n fun k => { k with caught := speed }

/-- What a start does at the speed found: forward it goes on to RUN, backward it brakes, and near rest it aligns. -/
def Dev.afterCatch (d : Dev) (n : Nat) (speed : Int) (angle : Nat) : Dev :=
  if 300 ≤ speed then
    ((d.caughtAt n speed).updSpin n fun k => { k with obsSpeed := speed, obsAngle := angle % 65536 }).gatesOn n 2
  else if speed ≤ -300 then ((d.caughtAt n speed).beginBrake n).setSp n spBrake
  else ((d.caughtAt n speed).gatesOn n 1).setSp n spAlign

section
variable {d : Dev} {n : Nat} {speed : Int} {angle : Nat}

theorem onlyChanges_afterCatch : (d.caughtAt n speed).OnlyChanges (d.afterCatch n speed angle)
    [⟨.spState, [n]⟩, ⟨.spSource, [n]⟩] [(.spin, n)] [] := by
  unfold Dev.afterCatch
  split
  · exact (onlyChanges_updSpin _ n _ (by simp)).trans (onlyChanges_gatesOn _ n _ (by simp) (by simp))
  · split
    · exact (onlyChanges_beginBrake _ n (by simp)).trans (onlyChanges_setSp _ n _ (by simp))
    · exact (onlyChanges_gatesOn _ n _ (by simp) (by simp)).trans (onlyChanges_setSp _ n _ (by simp))

theorem afterCatch_speed : (d.afterCatch n speed angle).rd .spSpeed [n] = toTwos 16 speed :=
  (onlyChanges_afterCatch.rd (by simp)).trans (rd_wrS_self d .spSpeed [n] speed)

theorem afterCatch_caught : ((d.afterCatch n speed angle).spinS n).caught = speed := by
  unfold Dev.afterCatch
  split
  · simp [Dev.caughtAt]
  · split <;> simp [Dev.caughtAt]

theorem afterCatch_forward (h : 300 ≤ speed) : ((d.afterCatch n speed angle).spinS n).gates = true ∧
    (d.afterCatch n speed angle).spSt n = d.spSt n ∧ ((d.afterCatch n speed angle).spinS n).obsSpeed = speed ∧
    ((d.afterCatch n speed angle).spinS n).obsAngle = angle % 65536 := by
  have hframe : d.OnlyChanges (((d.caughtAt n speed).updSpin n fun k =>
      { k with obsSpeed := speed, obsAngle := angle % 65536 }).gatesOn n 2) [⟨.spSource, [n]⟩, ⟨.spSpeed, [n]⟩] [(.spin, n)] [] :=
    (onlyChanges_wrS d _ _ _ (by simp)).trans <| (onlyChanges_updSpin _ n _ (by simp)).trans <|
      (onlyChanges_updSpin _ n _ (by simp)).trans (onlyChanges_gatesOn _ n _ (by simp) (by simp))
  rw [Dev.afterCatch, if_pos h]
  exact ⟨by simp, hframe.rd (by simp), by simp, by simp⟩

theorem afterCatch_backward (h : speed ≤ -300) :
    ((d.afterCatch n speed angle).spinS n).braking = true ∧ (d.afterCatch n speed angle).spSt n = spBrake := by
  rw [Dev.afterCatch, if_neg (by omega), if_pos h]
  exact ⟨by simp, spSt_setSp_self _ _ (by decide)⟩

theorem afterCatch_near_rest (hlo : -300 < speed) (hhi : speed < 300) :
    ((d.afterCatch n speed angle).spinS n).gates = true ∧ (d.afterCatch n speed angle).spSt n = spAlign := by
  rw [Dev.afterCatch, if_neg (by omega), if_neg (by omega)]
  exact ⟨by simp, spSt_setSp_self _ _ (by decide)⟩

end

theorem catchEnd_decides (s : State) (n : Fin 16) (period angle : Nat) (uvw : Bool) (speed : Int)
    (hst : s.dev.spSt n = spCatch) (hgates : (s.dev.spinS n).gates = false) (hspeed : speed = catchSpeed period uvw) :
    ∃ d, Makes (.catchEnd n period uvw angle) s d ∧ d.rd .spSpeed [n.val] = toTwos 16 speed ∧ (d.spinS n).caught = speed ∧
      (300 ≤ speed → (d.spinS n).gates = true ∧ d.spSt n = spCatch ∧ (d.spinS n).obsSpeed = speed ∧
        (d.spinS n).obsAngle = angle % 65536) ∧
      (speed ≤ -300 → (d.spinS n).braking = true ∧ d.spSt n = spBrake) ∧
      (-300 < speed → speed < 300 → (d.spinS n).gates = true ∧ d.spSt n = spAlign) ∧
      s.dev.OnlyChanges d [⟨.spState, [n.val]⟩, ⟨.spSource, [n.val]⟩, ⟨.spSpeed, [n.val]⟩] [(.spin, n.val)] [] := by
  subst hspeed
  have hmakes : Makes (.catchEnd n period uvw angle) s (s.dev.afterCatch n (catchSpeed period uvw) angle) := by
    refine makes_of_eq rfl ?_
    exact if_neg (by simp [hst, hgates])
  refine ⟨_, hmakes, afterCatch_speed, afterCatch_caught, fun h => hst ▸ afterCatch_forward h, afterCatch_backward,
    afterCatch_near_rest, ?frame⟩
  case frame =>
    exact (onlyChanges_wrS _ _ _ _ (by simp)).trans <| (onlyChanges_updSpin _ n.val _ (by simp)).trans <|
      onlyChanges_afterCatch.mono (by simp) (by simp) (by simp)

/-! ### From the brake to RUN (R193) -/

theorem brakeEnd_aligns (s : State) (n : Fin 16) (hst : s.dev.spSt n = spBrake)
    (hslow : (s.dev.rdS .spSpeed [n.val]).natAbs < 300) :
    ∃ d, Makes (.brakeEnd n) s d ∧ d.spSt n = spAlign ∧ (d.spinS n).gates = true ∧ (d.spinS n).braking = false := by
  have hmakes : Makes (.brakeEnd n) s (((s.dev.gatesOff n).gatesOn n 1).setSp n spAlign) :=
    makes_of_eq rfl (if_pos ⟨hst, hslow⟩)
  exact ⟨_, hmakes, spSt_setSp_self _ _ (by decide), by simp, by simp⟩

theorem alignEnd_ramps (s : State) (n : Fin 16) (hst : s.dev.spSt n = spAlign) :
    ∃ d, Makes (.alignEnd n) s d ∧ d.spSt n = spRamp ∧ (d.spinS n).ref = 0 ∧
      s.dev.OnlyChanges d [⟨.spState, [n.val]⟩] [(.spin, n.val)] [] := by
  have hmakes : Makes (.alignEnd n) s ((s.dev.updSpin n fun k => { k with ref := 0, openAngle := 0 }).setSp n spRamp) :=
    makes_of_eq rfl (if_pos hst)
  exact ⟨_, hmakes, spSt_setSp_self _ _ (by decide), by simp,
    (onlyChanges_updSpin _ n.val _ (by simp)).trans (onlyChanges_setSp _ _ _ (by simp))⟩

theorem runEntry_runs (s : State) (n : Fin 16) (hlock : s.dev.on .spObslock [n.val] = true)
    (h : (s.dev.spSt n = spCatch ∧ (s.dev.spinS n).gates = true) ∨
      (s.dev.spSt n = spRamp ∧ 65536 * (s.dev.rd .spRampEnd [n.val] : Int) ≤ (s.dev.spinS n).ref)) :
    ∃ d, Makes (.runEntry n) s d ∧ d.spSt n = spRun ∧ d.rd .spSource [n.val] = 2 ∧ (d.spinS n).outSince = none ∧
      (s.dev.spSt n = spCatch → (d.spinS n).ref = 65536 * s.dev.rdS .spSpeed [n.val]) ∧
      (s.dev.spSt n = spRamp → (d.spinS n).ref = (s.dev.spinS n).ref) ∧
      (2 * n.val, unSpindle) ∉ d.unavailable ∧ (2 * n.val + 1, unSpindle) ∉ d.unavailable := by
  have hunlocked : ¬ (!s.dev.on .spObslock [n.val]) = true := by simp [hlock]
  have hne : spCatch ≠ spRamp := by decide
  rcases h with ⟨hst, hgates⟩ | ⟨hst, href⟩
  case inl =>
    have hmakes : Makes (.runEntry n) s ((s.dev.updSpin n fun k =>
        { k with ref := 65536 * s.dev.rdS .spSpeed [n.val], iqRef := 0, intS := 0 }).enterRun n) := by
      refine makes_of_eq rfl ?_
      exact (if_neg hunlocked).trans (if_pos ⟨hst, hgates⟩)
    exact ⟨_, hmakes, spSt_enterRun _ _, source_enterRun _ _, by simp, fun _ => by simp,
      fun hramp => absurd (hst.symm.trans hramp) hne, enterRun_available _ _⟩
  case inr =>
    have hmakes : Makes (.runEntry n) s ((s.dev.updSpin n fun k => { k with iqRef := 0, intS := 0 }).enterRun n) := by
      refine makes_of_eq rfl ?_
      exact (if_neg hunlocked).trans <| (if_neg fun hc => hne (hc.1.symm.trans hst)).trans (if_pos ⟨hst, href⟩)
    exact ⟨_, hmakes, spSt_enterRun _ _, source_enterRun _ _, by simp,
      fun hcatch => absurd (hcatch.symm.trans hst) hne, fun _ => by simp, enterRun_available _ _⟩

/-! ### Attempts without OBSLOCK (R194) -/

/-- An attempt is over: the gates are cut, and no angle commutes the motor. -/
def Dev.attemptOver (d : Dev) (n : Nat) : Dev := (d.gatesCut n).wr .spSource [n] 0

theorem onlyChanges_attemptOver (d : Dev) (n : Nat) :
    d.OnlyChanges (d.attemptOver n) [⟨.spSource, [n]⟩] [(.spin, n)] [] :=
  (onlyChanges_gatesCut d n (by simp)).trans (onlyChanges_wr _ _ _ _ (by simp))

theorem attempts_attemptOver (d : Dev) (n : Nat) : (d.attemptOver n).attempts n = d.attempts n := by
  have hframe := onlyChanges_attemptOver d n
  have hlost : ((d.attemptOver n).spinS n).lost = (d.spinS n).lost := by simp [Dev.attemptOver]
  rw [Dev.attempts, hlost, hframe.rd (by simp), hframe.rd (by simp)]
  rfl

theorem startTimeout_waits_or_fails (s : State) (n : Fin 16) (hlock : s.dev.on .spObslock [n.val] = false)
    (hst : s.dev.spSt n = spAlign ∨ s.dev.spSt n = spRamp ∨ (s.dev.spSt n = spCatch ∧ (s.dev.spinS n).gates = true)) :
    ∃ d dir, Makes (.startTimeout n) s d ∧ (d.spinS n).gates = false ∧
      ((s.dev.spinS n).attempt < s.dev.attempts n → d.spSt n = spWait ∧ d.raised = s.dev.raised) ∧
      (s.dev.attempts n ≤ (s.dev.spinS n).attempt → d.spSt n = spFailed ∧
        d.raised = s.dev.raised ++ [⟨0x400 + 16 * n.val, evSpindleStartFail,
          le 4 (s.dev.spinS n).attempt ++ leI 2 (s.dev.spinS n).caught ++ [dir]⟩]) := by
  have hover : ¬ (s.dev.on .spObslock [n.val] = true ∨ (!decide (s.dev.spSt n = spAlign ∨ s.dev.spSt n = spRamp ∨
      (s.dev.spSt n = spCatch ∧ (s.dev.spinS n).gates = true))) = true) := by simp [hlock, hst]
  have hattempts := attempts_attemptOver s.dev n
  by_cases hmore : (s.dev.spinS n).attempt < s.dev.attempts n
  case pos =>
    have hmakes : Makes (.startTimeout n) s ((s.dev.attemptOver n).setSp n spWait) := by
      refine makes_of_eq rfl ?_
      exact (if_neg hover).trans (if_pos (hmore.trans_eq hattempts.symm))
    exact ⟨_, 0, hmakes, by simp [Dev.attemptOver], fun _ => ⟨spSt_setSp_self _ _ (by decide), rfl⟩,
      fun hlast => absurd hmore (by omega)⟩
  case neg =>
    have hmakes : Makes (.startTimeout n) s (((s.dev.attemptOver n).setSp n spFailed).raise (spSrc n 0) evSpindleStartFail
        (le 4 (s.dev.spinS n).attempt ++ leI 2 (s.dev.spinS n).caught ++
          [Config.directionCode (decide (0 ≤ (s.dev.spinS n).caught)) % 256])) := by
      refine makes_of_eq rfl ?_
      exact (if_neg hover).trans (if_neg (hattempts ▸ hmore))
    exact ⟨_, _, hmakes, by simp [Dev.attemptOver], fun h => absurd h hmore,
      fun _ => ⟨spSt_setSp_self (s.dev.attemptOver n) n (st := spFailed) (by decide), rfl⟩⟩

/-! ### Stops and enables (R189, R196, R198) -/

theorem spindleStopped_off (s : State) (n : Fin 16) (hst : s.dev.spSt n = spStopping)
    (hbraking : (s.dev.spinS n).braking = true) :
    ∃ d, MakesThenRuns (.spindleStopped n) s d ∧ d.spSt n = spOff ∧ d.rd .spSpeed [n.val] = 0 ∧
      (d.spinS n).gates = false ∧ (d.spinS n).braking = false ∧
      d.raised = s.dev.raised ++ [⟨0x400 + 16 * n.val, evSpindleStopped, []⟩] := by
  have hmakes : MakesThenRuns (.spindleStopped n) s
      (((s.dev.spindleOff n).wrS .spSpeed [n.val] 0).raise (spSrc n 0) evSpindleStopped) :=
    makesThenRuns_of_eq rfl (if_pos ⟨hst, hbraking⟩)
  have hspeed : (s.dev.spindleOff n).OnlyChanges ((s.dev.spindleOff n).wrS .spSpeed [n.val] 0) [⟨.spSpeed, [n.val]⟩] [] [] :=
    onlyChanges_wrS _ _ _ _ (by simp)
  have hraised : (s.dev.spindleOff n).raised = s.dev.raised := by
    rw [spindleOff_raised, leaveRun_of_not_run (by rw [hst]; decide)]
  exact ⟨_, hmakes, (hspeed.rd (by simp)).trans (spSt_spindleOff _ _), rd_wrS_self _ .spSpeed _ 0, by simp, by simp,
    congrArg (· ++ [_]) hraised⟩

theorem spindleEnWrite_stores (s : State) (n : Fin 16) (hready : s.dev.ready = true) :
    Makes (.spindleEnWrite n false) s ((s.dev.wr .spEn [n.val] 0).updSpin n fun k => { k with enOff := true }) ∧
    (s.dev.on .spEn [n.val] = true ∨ s.dev.rd .spClass ≠ 0 ∨ s.dev.enabledSpindles < 8 →
      Makes (.spindleEnWrite n true) s (s.dev.wr .spEn [n.val] 1)) := by
  refine ⟨?off, fun hallowed => ?on⟩
  case off => exact (if_neg (by simp)).trans (hostAct_ready s _ hready)
  case on =>
    have hok : ¬ (s.dev.ready = true ∧ true = true ∧ (!s.dev.on .spEn [n.val]) = true ∧ s.dev.rd .spClass = 0 ∧
        8 ≤ s.dev.enabledSpindles) := by
      rintro ⟨-, -, hoff, hclass, hmany⟩
      rcases hallowed with hen | hne | hfew
      · simp [hen] at hoff
      · exact hne hclass
      · omega
    exact (if_neg hok).trans (hostAct_ready s _ hready)

theorem classWrite_stores (s : State) (c : Fin 2) (hready : s.dev.ready = true)
    (hallowed : c.val = 1 ∨ s.dev.enabledSpindles ≤ 8) : Makes (.classWrite c) s (s.dev.wr .spClass [] c.val) := by
  have hok : ¬ (s.dev.ready = true ∧ c.val = 0 ∧ 8 < s.dev.enabledSpindles) := by omega
  exact (if_neg hok).trans (hostAct_ready s _ hready)

/-! ### EN written 0 (R198) -/

/-- In e spindle n is OFF and neither switches nor brakes, with the target that it has in d. -/
structure Dev.Coasts (d e : Dev) (n : Nat) : Prop where
  off : e.spSt n = spOff
  gates : (e.spinS n).gates = false
  braking : (e.spinS n).braking = false
  target : e.rd .spTarget [n] = d.rd .spTarget [n]

section
variable {d e : Dev} {n : Nat}

theorem spindleOff_coasts (d : Dev) (n : Nat) : d.Coasts (d.spindleOff n) n :=
  ⟨spSt_spindleOff d n, spinS_spindleOff_gates d n, spinS_spindleOff_braking d n, (spindleOff_keeps d n).rd _ _ (by decide)⟩

theorem Dev.Coasts.updSpin (h : d.Coasts e n) {f : Spin → Spin} (hg : (f (e.spinS n)).gates = (e.spinS n).gates := by rfl)
    (hb : (f (e.spinS n)).braking = (e.spinS n).braking := by rfl) : d.Coasts (e.updSpin n f) n := by
  refine ⟨h.off, ?gates, ?braking, h.target⟩
  case gates => rw [spinS_updSpin_self, hg, h.gates]
  case braking => rw [spinS_updSpin_self, hb, h.braking]

theorem Dev.Coasts.periodStart (h : d.Coasts e n) : d.Coasts (e.periodStart n) n := by
  unfold Dev.periodStart
  exact h.updSpin

theorem Dev.Coasts.observerSample (h : d.Coasts e n) (x : SpindleIn) : d.Coasts (e.observerSample n x) n := h.updSpin

theorem Dev.Coasts.learnSample (h : d.Coasts e n) (side rail : Nat) : d.Coasts (e.learnSample n side rail) n := by
  unfold Dev.learnSample
  simp only []
  split
  · exact h
  · split
    · split <;> exact h.updSpin
    · exact h.updSpin

theorem Dev.Coasts.vlimit (h : d.Coasts e n) (v : Nat) : d.Coasts (e.wr .spVlimit [n] v) n := by
  have hframe := onlyChanges_wr (fs := [⟨.spVlimit, [n]⟩]) (es := []) (ps := []) e .spVlimit [n] v (by simp)
  exact ⟨(hframe.rd (by simp)).trans h.off, h.gates, h.braking, (hframe.rd (by simp)).trans h.target⟩

theorem busSample_enOff (d : Dev) (n code : Nat) : ((d.busSample n code).spinS n).enOff = (d.spinS n).enOff := by
  unfold Dev.busSample
  simp only []
  split <;> split <;> simp

theorem busSample_target (d : Dev) (n code : Nat) : (d.busSample n code).rd .spTarget [n] = d.rd .spTarget [n] := by
  have hkept : ∀ v, (d.wr .spVbus [n] v).rd .spTarget [n] = d.rd .spTarget [n] := fun v => by simp
  unfold Dev.busSample
  simp only []
  split
  · split <;> exact hkept _
  · split <;> rfl

/-- The sample that begins the PWM period after the write turns the spindle OFF and only measures it. -/
theorem currentSample_coasts (x : SpindleIn) (rails : List Nat) (h : (d.spinS n).enOff = true) :
    (d.busSample n x.bus).Coasts (d.currentSample n x rails) n := by
  unfold Dev.currentSample
  lift_lets
  extract_lets bus off seen learned media latched i st sourced k
  have hoff : off = bus.spindleOff n := if_pos ((busSample_enOff d n x.bus).trans h)
  have hcoasts : bus.Coasts off n := by
    rw [hoff]
    exact spindleOff_coasts bus n
  have hlearned : bus.Coasts learned n := ((hcoasts.periodStart.observerSample x).learnSample 0 _).learnSample 1 _
  have hlatched : bus.Coasts latched n := hlearned.updSpin
  have hsourced : sourced = latched := if_neg (by
    change ¬ (latched.spSt n = spRun ∨ (latched.spSt n = spStopping ∧ (!(latched.spinS n).braking) = true))
    rw [hlatched.off, hlatched.braking]
    decide)
  have hk : k = latched.spinS n := congrArg (Dev.spinS · n) hsourced
  rw [hk, hlatched.braking, if_neg Bool.false_ne_true, hlatched.gates, if_neg Bool.false_ne_true, hsourced]
  exact hlatched.vlimit 0

theorem currentSample_off (d : Dev) (n : Nat) (x : SpindleIn) (rails : List Nat) (h : (d.spinS n).enOff = true) :
    (d.currentSample n x rails).spSt n = spOff ∧ ((d.currentSample n x rails).spinS n).gates = false ∧
      (d.currentSample n x rails).rd .spTarget [n] = d.rd .spTarget [n] := by
  have hcoasts := currentSample_coasts x rails h
  exact ⟨hcoasts.off, hcoasts.gates, hcoasts.target.trans (busSample_target d n x.bus)⟩

end

/-- Settles O46, command by command: the steps of a start, its attempts, and stops; a spindle whose EN was written 0 coasts from its
next current sample on (`currentSample_coasts`). -/
theorem spindlesStartAndStop : Obligations.SpindlesStartAndStop := by
  unfold Obligations.SpindlesStartAndStop
  exact ⟨spindleStart_catches, fun s n period angle uvw speed => catchEnd_decides s n period angle uvw speed, brakeEnd_aligns,
    alignEnd_ramps, runEntry_runs, startTimeout_waits_or_fails, waitEnd_catches, spindleStopped_off, spindleEnWrite_stores,
    currentSample_off, classWrite_stores⟩

end Sys2Proof.Machine
end

section
/-! SUPPORT. What a turning spindle reports, command by command (O47). -/

namespace Sys2Proof.Machine

theorem raised_raise (d : Dev) (src code : Nat) (b : Bytes) : (d.raise src code b).raised = d.raised ++ [⟨src, code, b⟩] := rfl

theorem rd_raise (d : Dev) (src code : Nat) (b : Bytes) (r : Row) (ix : List Nat) : (d.raise src code b).rd r ix = d.rd r ix := rfl

/-! ### The observer and the media angle (R177, R179, R180, R183) -/

theorem obslockSet_sets (s : State) (n : Fin 16) (h : 64 ≤ (s.dev.spinS n).obsGood) :
    Makes (.obslockSet n) s (s.dev.wr .spObslock [n.val] 1) :=
  makes_of_eq rfl (if_pos h)

theorem obslockClear_clears (s : State) (n : Fin 16) (hlock : s.dev.on .spObslock [n.val] = true)
    (hlost : 16 ≤ (s.dev.spinS n).obsBad ∨ (s.dev.spinS n).obsSpeed.natAbs < 200) :
    Makes (.obslockClear n) s
      (if 3 ≤ s.dev.rd .spSource [n.val] then
        (s.dev.wr .spObslock [n.val] 0).raise (0x400 + 16 * n.val + 1) evObserverLoss
          (leI 2 (s.dev.rdS .spSpeed [n.val]) ++ [s.dev.rd .spSource [n.val]])
      else s.dev.wr .spObslock [n.val] 0) := by
  have hframe : s.dev.OnlyChanges (s.dev.wr .spObslock [n.val] 0) [⟨.spObslock, [n.val]⟩] [] [] :=
    onlyChanges_wr _ _ _ _ (by simp)
  have hkept : ¬ ((!s.dev.on .spObslock [n.val]) = true ∨
      ((s.dev.spinS n).obsBad < 16 ∧ 200 ≤ (s.dev.spinS n).obsSpeed.natAbs)) := by
    rw [hlock]
    simp only [Bool.not_true, Bool.false_eq_true, false_or]
    omega
  rw [← hframe.rd (r := .spSource) (ix := [n.val]) (by simp), ← hframe.rdS (r := .spSpeed) (ix := [n.val]) (by simp)]
  refine makes_of_eq rfl ?_
  exact if_neg hkept

/-- A side's offset is the mean found, and media angle is tried again. -/
def Dev.offsetStored (d : Dev) (n side v : Nat) : Dev :=
  ((d.wr .spOffset [n, side] v).wr .spLearned [n, side] 1).updSpin n fun k => { k with
    learn := k.learn.set side [], learnOwed := k.learnOwed.set side false, trying := true, mismatchPosted := false }

theorem onlyChanges_offsetStored (d : Dev) (n side v : Nat) {ps : List Part} :
    d.OnlyChanges (d.offsetStored n side v) [⟨.spOffset, [n, side]⟩, ⟨.spLearned, [n, side]⟩] [(.spin, n)] ps :=
  (onlyChanges_wr _ _ _ _ (by simp)).trans <| (onlyChanges_wr _ _ _ _ (by simp)).trans (onlyChanges_updSpin _ n _ (by simp))

theorem getD_set_self {α : Type} (l : List α) (i : Nat) (v : α) : (l.set i v).getD i v = v := by
  simp only [List.getD_eq_getElem?_getD, List.getElem?_set]
  split_ifs <;> rfl

theorem offsetLearned_stores (s : State) (n : Fin 16) (side : Fin 2) (v : Nat)
    (howed : (s.dev.spinS n).learnOwed.getD side.val false = true)
    (hlen : 256 ≤ ((s.dev.spinS n).learn.getD side []).length)
    (hv : v = circularMean ((s.dev.spinS n).learn.getD side [])) :
    ∃ d, Makes (.offsetLearned n side) s d ∧ d.on .spLearned [n.val, side.val] = true ∧
      d.rd .spOffset [n.val, side.val] = v % 2 ^ 16 ∧ (d.spinS n).trying = true ∧
      (d.spinS n).learnOwed.getD side.val false = false ∧
      d.raised = s.dev.raised ++ [⟨0x400 + 16 * n.val + 1, evOffsetLearned, side.val :: le 2 v⟩] ∧
      s.dev.OnlyChanges d [⟨.spOffset, [n.val, side.val]⟩, ⟨.spLearned, [n.val, side.val]⟩] [(.spin, n.val)] [.raised] := by
  subst hv
  have hdue : ¬ ((!(s.dev.spinS n).learnOwed.getD side.val false) = true ∨
      ((s.dev.spinS n).learn.getD side.val []).length < 256) := by
    rw [howed]
    simpa using hlen
  generalize hv : circularMean ((s.dev.spinS n).learn.getD side.val []) = v
  have hmakes : Makes (.offsetLearned n side) s
      ((s.dev.offsetStored n side v).raise (spSrc n 1) evOffsetLearned ([side.val] ++ le 2 v)) := by
    rw [← hv]
    refine makes_of_eq rfl ?_
    exact if_neg hdue
  have hoffset : (s.dev.offsetStored n side v).rd .spOffset [n.val, side.val] = v % 2 ^ 16 := by
    have hlearned : (s.dev.wr .spOffset [n.val, side.val] v).OnlyChanges (s.dev.offsetStored n side v)
        [⟨.spLearned, [n.val, side.val]⟩] [(.spin, n.val)] [] :=
      (onlyChanges_wr _ _ _ _ (by simp)).trans (onlyChanges_updSpin _ n.val _ (by simp))
    rw [hlearned.rd (by simp), rd_wr, if_pos ⟨rfl, rfl⟩]
    rfl
  refine ⟨_, hmakes, on_wr_one (s.dev.wr .spOffset [n.val, side.val] v) _ (by decide), hoffset, by simp [Dev.offsetStored], ?owed,
    congrArg (· ++ [_]) ((onlyChanges_offsetStored s.dev n side v (ps := [])).raised (by simp)),
    (onlyChanges_offsetStored _ _ _ _).trans (onlyChanges_raise _ _ _ _ (by simp))⟩
  case owed =>
    rw [spinS_raise, Dev.offsetStored, spinS_updSpin_self]
    exact getD_set_self _ _ _

theorem angleMismatch_reports (s : State) (n : Fin 16) (side a : Nat) (hmedia : (s.dev.spinS n).media = some (side, a))
    (hsrc : s.dev.rd .spAnglesrc [n.val] = 0) (hobs : s.dev.rd .spSource [n.val] = 2)
    (htrying : (s.dev.spinS n).trying = true) (hposted : (s.dev.spinS n).mismatchPosted = false) :
    ∃ d, Makes (.angleMismatch n) s d ∧ (d.spinS n).trying = false ∧
      d.raised = s.dev.raised ++
        [⟨0x400 + 16 * n.val + 1, evAngleMismatch, side :: leI 4 (angleDiff a (s.dev.spinS n).obsAngle)⟩] ∧
      s.dev.OnlyChanges d [] [(.spin, n.val)] [.raised] := by
  have hmakes : Makes (.angleMismatch n) s ((s.dev.updSpin n fun k => { k with trying := false, mismatchPosted := true }).raise
      (spSrc n 1) evAngleMismatch ([side] ++ leI 4 (angleDiff a (s.dev.spinS n).obsAngle))) := by
    change execAngleMismatch n s = _
    simp only [execAngleMismatch, act_eq, hmedia]
    rw [if_neg (by simp [hsrc, hobs, htrying, hposted])]
  exact ⟨_, hmakes, by simp, rfl, (onlyChanges_updSpin _ n.val _ (by simp)).trans (onlyChanges_raise _ _ _ _ (by simp))⟩

/-! ### The speed (R192, R195) -/

theorem spindleAtSpeed_reports (s : State) (n : Fin 16) (t v : Int) (ht : t = s.dev.rd .spTarget [n.val])
    (hv : v = s.dev.rdS .spSpeed [n.val]) (hst : s.dev.spSt n = spRun) (hat : s.dev.on .spAtspeed [n.val] = false)
    (hpos : t ≠ 0) (hlo : -t ≤ 200 * (v - t)) (hhi : 200 * (v - t) ≤ t) :
    Makes (.spindleAtSpeed n) s
      ((s.dev.wr .spAtspeed [n.val] 1).raise (0x400 + 16 * n.val) evSpindleAtSpeed (leI 2 v)) := by
  have hnear : ((200 * (v - t)).natAbs : Int) ≤ t := by omega
  subst ht hv
  have hdue : s.dev.spSt n = spRun ∧ (!s.dev.on .spAtspeed [n.val]) = true ∧ (s.dev.rd .spTarget [n.val] : Int) ≠ 0 ∧
      ((200 * (s.dev.rdS .spSpeed [n.val] - s.dev.rd .spTarget [n.val])).natAbs : Int) ≤ s.dev.rd .spTarget [n.val] :=
    ⟨hst, by simp [hat], hpos, hnear⟩
  exact makes_of_eq rfl (if_pos hdue)

/-- SPEED_CEILING is posted for the present target. -/
def Dev.ceilingReached (d : Dev) (n : Nat) : Dev :=
  (d.updSpin n fun k => { k with ceilingPosted := true }).raise (spSrc n 3) evSpeedCeiling
    (d.speedBytes n ++ le 2 (d.rd .spVbus [n]))

theorem speedCeiling_reports (s : State) (n : Fin 16) (t v : Int) (ht : t = s.dev.rd .spTarget [n.val])
    (hv : v = s.dev.rdS .spSpeed [n.val]) (hst : s.dev.spSt n = spRun) (hlimit : s.dev.on .spVlimit [n.val] = true)
    (hposted : (s.dev.spinS n).ceilingPosted = false) (hoff : 200 * (v - t) < -t ∨ t < 200 * (v - t)) :
    ∃ d, Makes (.speedCeiling n) s d ∧ (d.spinS n).ceilingPosted = true ∧ d.on .spAtspeed [n.val] = true ∧
      d.raised = s.dev.raised ++
        ⟨0x400 + 16 * n.val + 3, evSpeedCeiling, leI 2 v ++ le 2 (s.dev.rd .spVbus [n.val])⟩ ::
          (if s.dev.on .spAtspeed [n.val] then [] else [⟨0x400 + 16 * n.val, evSpindleAtSpeed, leI 2 v⟩]) := by
  have hfar : t < ((200 * (v - t)).natAbs : Int) := by omega
  subst ht hv
  have hmakes : Makes (.speedCeiling n) s (if s.dev.on .spAtspeed [n.val] then s.dev.ceilingReached n
      else ((s.dev.ceilingReached n).wr .spAtspeed [n.val] 1).raise (spSrc n 0) evSpindleAtSpeed
        (s.dev.speedBytes n)) := by
    have hdue : s.dev.spSt n = spRun ∧ s.dev.on .spVlimit [n.val] = true ∧ (!(s.dev.spinS n).ceilingPosted) = true ∧
        (s.dev.rd .spTarget [n.val] : Int) < (200 * (s.dev.rdS .spSpeed [n.val] - s.dev.rd .spTarget [n.val])).natAbs :=
      ⟨hst, hlimit, by simp [hposted], hfar⟩
    exact makes_of_eq rfl (if_pos hdue)
  refine ⟨_, hmakes, ?_⟩
  cases hat : s.dev.on .spAtspeed [n.val] with
  | true => exact ⟨by simp [Dev.ceilingReached], hat, rfl⟩
  | false =>
    exact ⟨by simp [Dev.ceilingReached], on_wr_one _ _ (by decide), List.append_assoc _ [_] [_]⟩

/-! ### The command pin (R187) -/

theorem cmdsrcWrite_waits (s : State) (n : Fin 16) (src : Fin 4) (hready : s.dev.ready = true) :
    Makes (.cmdsrcWrite n src) s (s.dev.updSpin n fun k => { k with cmdsrcPending := some src.val }) :=
  hostAct_ready s (fun d => d.updSpin n fun k => { k with cmdsrcPending := some src.val }) hready

/-- The target of a spindle that is OFF becomes 0: nothing has to stop. -/
theorem setTarget_zero_off {d : Dev} {n : Nat} (hst : d.spSt n = spOff) : (d.setTarget n 0).rd .spTarget [n] = 0 ∧
    d.OnlyChanges (d.setTarget n 0) [⟨.spTarget, [n]⟩, ⟨.spAtspeed, [n]⟩] [(.spin, n)] [] ∧
    ((d.setTarget n 0).spinS n).pinLost = (d.spinS n).pinLost := by
  have hidle : ∀ e : Dev, e.spSt n = spOff → e.beginStop n = e := fun e he => if_pos (.inl he)
  unfold Dev.setTarget
  simp only []
  rw [if_pos trivial]
  split
  case isTrue h =>
    rw [hidle d hst]
    exact ⟨h, onlyChanges_refl _ _ _ _, rfl⟩
  case isFalse =>
    have hframe : d.OnlyChanges (((d.wr .spTarget [n] 0).wr .spAtspeed [n] 0).updSpin n fun k =>
        { k with ceilingPosted := false }) [⟨.spTarget, [n]⟩, ⟨.spAtspeed, [n]⟩] [(.spin, n)] [] :=
      (onlyChanges_wr _ _ _ _ (by simp)).trans <| (onlyChanges_wr _ _ _ _ (by simp)).trans (onlyChanges_updSpin _ n _ (by simp))
    have hat : (d.wr .spTarget [n] 0).OnlyChanges (((d.wr .spTarget [n] 0).wr .spAtspeed [n] 0).updSpin n fun k =>
        { k with ceilingPosted := false }) [⟨.spAtspeed, [n]⟩] [(.spin, n)] [] :=
      (onlyChanges_wr _ _ _ _ (by simp)).trans (onlyChanges_updSpin _ n _ (by simp))
    rw [hidle _ ((hframe.rd (by simp)).trans hst)]
    exact ⟨(hat.rd (by simp)).trans (rd_wr_self _ _ _ _ (by decide)), hframe, by simp⟩

theorem pinCmdLost_reports (s : State) (n : Fin 16) (hsrc : 2 ≤ s.dev.rd .spCmdsrc [n.val])
    (hlost : (s.dev.spinS n).pinLost = false) (hst : s.dev.spSt n = spOff) :
    ∃ d, Makes (.pinCmdLost n) s d ∧ d.rd .spPinValue [n.val] = 0 ∧ d.rd .spTarget [n.val] = 0 ∧
      (d.spinS n).pinLost = true ∧
      d.raised = s.dev.raised ++ [⟨0x400 + 16 * n.val + 3, evPinCmdLost, [s.dev.rd .spCmdsrc [n.val]]⟩] := by
  have hpin : s.dev.OnlyChanges ((s.dev.updSpin n fun k => { k with pinLost := true }).wr .spPinValue [n.val] 0)
      [⟨.spPinValue, [n.val]⟩] [(.spin, n.val)] [] :=
    (onlyChanges_updSpin _ n.val _ (by simp)).trans (onlyChanges_wr _ _ _ _ (by simp))
  obtain ⟨htarget, hframe, hkept⟩ := setTarget_zero_off ((hpin.rd (r := .spState) (by simp)).trans hst)
  have hmakes : Makes (.pinCmdLost n) s ((((s.dev.updSpin n fun k => { k with pinLost := true }).wr .spPinValue [n.val]
      0).setTarget n 0).raise (spSrc n 3) evPinCmdLost [s.dev.rd .spCmdsrc [n.val]]) := by
    have hdue : ¬ (s.dev.rd .spCmdsrc [n.val] < 2 ∨ (s.dev.spinS n).pinLost = true) := by
      rw [hlost]
      simp only [Bool.false_eq_true, or_false]
      omega
    exact makes_of_eq rfl (if_neg hdue)
  refine ⟨_, hmakes, ?value, by rw [rd_raise, htarget], by rw [spinS_raise, hkept]; simp, ?raised⟩
  case value => rw [rd_raise, hframe.rd (by simp), rd_wr_self _ _ _ _ (by decide)]
  case raised =>
    rw [raised_raise, hframe.raised (by simp), hpin.raised (by simp)]
    rfl

/-! ### Gate faults (R201) -/

/-- With no row in progress on its pickups a spindle leaves RUN without a report. -/
theorem leaveRun_raised {d : Dev} {n : Nat} (heven : (d.pkS (2 * n)).rows = []) (hodd : (d.pkS (2 * n + 1)).rows = []) :
    (d.leaveRun n).raised = d.raised := by
  have hvoid : ∀ (e : Dev) (p : Nat), (e.pkS p).rows = [] → e.abandonAll p abSpindle = e.voidTest p := fun e p h => by
    rw [Dev.abandonAll, h]
    rfl
  have hfirst := onlyChanges_voidTest (fs := []) (es := [(.pk, 2 * n)]) (ps := [.out]) d (2 * n) (by simp) (by simp)
  unfold Dev.leaveRun
  split
  · rfl
  · rw [hvoid d _ heven, hvoid _ _ (by rw [hfirst.pkS (by simp), hodd])]
    exact (voidTest_kept _ _).2.1.trans (voidTest_kept _ _).2.1

theorem gateFault_cuts (s : State) (n : Fin 16) (phase : Fin 3) (current : Nat)
    (hover : s.dev.rd .spOcLimit [n.val] < current) (heven : (s.dev.pkS (2 * n)).rows = [])
    (hodd : (s.dev.pkS (2 * n + 1)).rows = []) :
    ∃ d, Makes (.gateFault n phase current) s d ∧ d.on .spFault [n.val] = true ∧ d.spSt n = spOff ∧
      (d.spinS n).gates = false ∧
      d.raised = s.dev.raised ++ [⟨0x400 + 16 * n.val + 2, evGateFault, phase.val :: le 4 current⟩] := by
  have hmakes : Makes (.gateFault n phase current) s (((s.dev.spindleOff n).wr .spFault [n.val] 1).raise (spSrc n 2) evGateFault
      ([phase.val] ++ le 4 current)) := by
    refine makes_of_eq rfl ?_
    exact if_neg (by omega)
  have hfault : (s.dev.spindleOff n).OnlyChanges ((s.dev.spindleOff n).wr .spFault [n.val] 1) [⟨.spFault, [n.val]⟩] [] [] :=
    onlyChanges_wr _ _ _ _ (by simp)
  refine ⟨_, hmakes, on_wr_one (s.dev.spindleOff n) _ (by decide), (hfault.rd (by simp)).trans (spSt_spindleOff _ _), by simp,
    ?raised⟩
  case raised =>
    rw [raised_raise, hfault.raised (by simp), spindleOff_raised, leaveRun_raised heven hodd]
    rfl

theorem gateFault_none (s : State) (n : Fin 16) (phase : Fin 3) (current : Nat)
    (h : current ≤ s.dev.rd .spOcLimit [n.val]) : Makes (.gateFault n phase current) s s.dev :=
  makes_of_eq rfl (if_pos h)

/-! ### Out of RUN too long (R394) -/

theorem replaceHeld_idle {d : Dev} {p : Nat} (h : (d.pkS p).queues.flatten = []) : d.replaceHeld p = d := by
  simp [Dev.replaceHeld, h]

/-- The surfaces of spindle n are held off for it. -/
def Dev.surfacesOut (d : Dev) (n : Nat) : Dev :=
  ((d.updSpin n fun k => { k with replaced := true }).setUnavailable (2 * n) unSpindle true).setUnavailable (2 * n + 1)
    unSpindle true

theorem replaceTimeout_holds_off (s : State) (n : Fin 16) (hst : s.dev.spSt n ≠ spRun)
    (hreplaced : (s.dev.spinS n).replaced = false) (hout : (s.dev.spinS n).outSince.isSome = true)
    (heven : (s.dev.pkS (2 * n)).queues.flatten = []) (hodd : (s.dev.pkS (2 * n + 1)).queues.flatten = []) :
    ∃ d, MakesThenRuns (.replaceTimeout n) s d ∧ (d.spinS n).replaced = true ∧
      (2 * n.val, unSpindle) ∈ d.unavailable ∧ (2 * n.val + 1, unSpindle) ∈ d.unavailable ∧
      s.dev.OnlyChanges d [] [(.spin, n.val)] [.unavailable] := by
  have hframe : s.dev.OnlyChanges (s.dev.surfacesOut n) [] [(.spin, n.val)] [.unavailable] :=
    (onlyChanges_updSpin _ n.val _ (by simp)).trans <| (onlyChanges_setUnavailable _ _ _ _ (by simp)).trans
      (onlyChanges_setUnavailable _ _ _ _ (by simp))
  have hidle : ((s.dev.surfacesOut n).replaceHeld (2 * n)).replaceHeld (2 * n + 1) = s.dev.surfacesOut n := by
    have hsame : ∀ p, (s.dev.surfacesOut n).pkS p = s.dev.pkS p := fun p => hframe.pkS (by simp)
    rw [replaceHeld_idle (p := 2 * n.val) (by rw [hsame, heven]), replaceHeld_idle (by rw [hsame, hodd])]
  have hmakes : MakesThenRuns (.replaceTimeout n) s (s.dev.surfacesOut n) := by
    refine makesThenRuns_of_eq rfl ?_
    exact (if_neg (by simp [hst, hreplaced, Option.isSome_iff_ne_none.1 hout])).trans hidle
  exact ⟨_, hmakes, by simp [Dev.surfacesOut], by simp [Dev.surfacesOut, Dev.setUnavailable],
    by simp [Dev.surfacesOut, Dev.setUnavailable], hframe⟩

/-- Settles O47, command by command: each report's occurrence, the fields that it sets, and what it leaves. -/
theorem spindlesReportWhatTheyFind : Obligations.SpindlesReportWhatTheyFind := by
  unfold Obligations.SpindlesReportWhatTheyFind
  exact ⟨obslockSet_sets, obslockClear_clears, offsetLearned_stores, angleMismatch_reports, spindleAtSpeed_reports,
    speedCeiling_reports, cmdsrcWrite_waits, pinCmdLost_reports, gateFault_cuts, gateFault_none, replaceTimeout_holds_off⟩

end Sys2Proof.Machine
end

section
/-! SUPPORT. What the work on units, blocks, commands and records leaves: the counts of reads and of checks, the ladder and the
blocks that wait for the rail, verify reads and dead positions (O53, O54). -/

namespace Sys2Proof.Machine

/-- The counts of reads and of checks, and the taps that a read leaves (R215, R243, R264, R293). -/
def readCountRows : List Row :=
  [.rcFirTap, .rcFirSaved, .rcLaneBlocks, .rcLaneFails, .recovOk, .recovFail, .recovRevs, .mordChecked, .mordFailed,
    .mordLastMaxCw, .mordLastTotal, .mordLastFly, .mordLastCause]

/-- From d to e the counts of reads and of checks stay, and so do the ladder, the blocks that wait for the rail, the verify reads
and the dead positions. -/
structure Dev.ReadsKept (d e : Dev) : Prop where
  counts : ∀ r ∈ readCountRows, ∀ ix, e.rd r ix = d.rd r ix
  ladder : e.ladder = d.ladder
  railWait : e.railWait = d.railWait
  verify : ∀ p, (e.pkS p).verify = (d.pkS p).verify
  deadAll : ∀ p, (e.pkS p).deadAll = (d.pkS p).deadAll

section
variable {d e g : Dev}

theorem readsKept_of_eq (hr : e.regs = d.regs) (hp : e.pk = d.pk) (hl : e.ladder = d.ladder)
    (hw : e.railWait = d.railWait) : d.ReadsKept e :=
  ⟨fun _ _ _ => by rw [Dev.rd, hr, Dev.rd], hl, hw, fun _ => by rw [Dev.pkS, hp, Dev.pkS],
    fun _ => by rw [Dev.pkS, hp, Dev.pkS]⟩

theorem readsKept_refl (d : Dev) : d.ReadsKept d := readsKept_of_eq rfl rfl rfl rfl

theorem Dev.ReadsKept.trans (h : d.ReadsKept e) (h' : e.ReadsKept g) : d.ReadsKept g :=
  ⟨fun r hr ix => (h'.counts r hr ix).trans (h.counts r hr ix), h'.ladder.trans h.ladder, h'.railWait.trans h.railWait,
    fun p => (h'.verify p).trans (h.verify p), fun p => (h'.deadAll p).trans (h.deadAll p)⟩

/-- Another step of a chain, by its own lemma. -/
theorem Dev.ReadsKept.step (h' : e.ReadsKept g) (h : d.ReadsKept e) : d.ReadsKept g := h.trans h'

/-- An update of other records than the registers and those of the pickups. -/
theorem Dev.ReadsKept.other (h : d.ReadsKept e) (hr : g.regs = e.regs := by rfl) (hp : g.pk = e.pk := by rfl)
    (hl : g.ladder = e.ladder := by rfl) (hw : g.railWait = e.railWait := by rfl) : d.ReadsKept g :=
  h.trans (readsKept_of_eq hr hp hl hw)

theorem Dev.ReadsKept.raise (h : d.ReadsKept e) {src code : Nat} {b : Bytes} : d.ReadsKept (e.raise src code b) := h.other

theorem Dev.ReadsKept.updSq (h : d.ReadsKept e) {r : Nat} {f : SqState → SqState} : d.ReadsKept (e.updSq r f) := h.other

theorem Dev.ReadsKept.updLk (h : d.ReadsKept e) {l : Nat} {f : Link → Link} : d.ReadsKept (e.updLk l f) := h.other

/-- A write of a field that is none of the counts. -/
theorem Dev.ReadsKept.wr (h : d.ReadsKept e) {r : Row} {ix : List Nat} {v : Nat} (hr : r ∉ readCountRows := by decide) :
    d.ReadsKept (e.wr r ix v) := by
  refine h.trans ⟨fun r' hr' ix' => (rd_wr e r r' ix ix' v).trans (if_neg fun he => hr ?_), rfl, rfl, fun _ => rfl, fun _ => rfl⟩
  rw [← he.1]
  exact hr'

/-- An update of a pickup that leaves its verify reads and its dead positions. -/
theorem Dev.ReadsKept.updPk (h : d.ReadsKept e) {p : Nat} {f : Pk → Pk} (hv : ∀ k, (f k).verify = k.verify := by exact fun _ => rfl)
    (hd : ∀ k, (f k).deadAll = k.deadAll := by exact fun _ => rfl) : d.ReadsKept (e.updPk p f) := by
  refine h.trans ⟨fun _ _ _ => rfl, rfl, rfl, fun q => ?_, fun q => ?_⟩
  · rw [pkS_updPk]
    split
    · next hq => rw [hq]; exact hv _
    · rfl
  · rw [pkS_updPk]
    split
    · next hq => rw [hq]; exact hd _
    · rfl

/-- A step taken on a condition only. -/
theorem readsKept_ite {c : Prop} [Decidable c] (h : d.ReadsKept e) (h' : d.ReadsKept g) : d.ReadsKept (if c then e else g) := by
  split
  · exact h
  · exact h'

theorem readsKept_foldl {β : Type} {f : Dev → β → Dev} (h : ∀ (d : Dev) b, d.ReadsKept (f d b)) (l : List β) (d : Dev) :
    d.ReadsKept (l.foldl f d) := by
  induction l generalizing d with
  | nil => exact readsKept_refl d
  | cons b l ih => exact (h d b).trans (ih (f d b))

/-- The work of the basin's units writes counts of units only. -/
theorem readsKept_of_units (h : d.UnitsOnly e) (h' : Dev.Keeps busFailRows d e) : d.ReadsKept e :=
  ⟨fun r hr ix => h'.rd r ix (by revert r; decide), by rw [h], by rw [h], fun p => by rw [h]; rfl, fun p => by rw [h]; rfl⟩

end

/-! ### Units (R283, R579) -/

theorem takeUnits_keeps (d : Dev) (o : Owner) (n : Nat) (reserved : Bool) :
    Dev.Keeps busFailRows d ((d.takeUnits o n reserved).getD d) := by
  unfold Dev.takeUnits
  simp only []
  split
  · exact keeps_refl d
  · refine .step (fillUpdate_keeps _) ?_
    cases reserved <;> exact .wr (.wr (.updBasin (keeps_refl d)))

theorem releaseUnits_readsKept (d : Dev) (o : Owner) : d.ReadsKept (d.releaseUnits o) :=
  readsKept_of_units (releaseUnits_unitsOnly d o) (releaseUnits_keeps d o)

theorem blockGone_readsKept (d : Dev) (key : Nat × Nat) : d.ReadsKept (d.blockGone key) :=
  readsKept_of_units (blockGone_unitsOnly d key) (blockGone_keeps d key)

theorem dropOwner_readsKept (d : Dev) (o : Owner) : d.ReadsKept (d.dropOwner o) :=
  .step (releaseUnits_readsKept _ o) (.other (readsKept_refl d))

theorem needUnits_readsKept (d : Dev) (o : Owner) (n : Nat) : d.ReadsKept (d.needUnits o n) := by
  have htake : ∀ k, d.ReadsKept (if k = 0 then d else (d.takeUnits o k false).getD d) := fun k =>
    readsKept_ite (readsKept_refl d) (readsKept_of_units (takeUnits_unitsOnly d o k false) (takeUnits_keeps d o k false))
  exact readsKept_ite (htake _) (.other (htake _))

/-! ### Blocks that leave the basin, and writes that fail (R269, R343, R370, R395) -/

theorem dropBlk_readsKept (d : Dev) (id : Nat) : d.ReadsKept (d.dropBlk id) := by
  unfold Dev.dropBlk
  split
  · exact readsKept_refl d
  · next b _ =>
    simp only []
    have hgone : ∀ x : Dev, d.ReadsKept x → d.ReadsKept (if x.keyGone b.key then x.blockGone b.key else x) := fun x hx =>
      readsKept_ite (.step (blockGone_readsKept _ _) hx) hx
    refine readsKept_ite (.step (releaseUnits_readsKept _ _) (hgone _ ?_)) (hgone _ ?_)
    · exact .other (readsKept_refl d)
    · exact .other (readsKept_refl d)

theorem finish_readsKept (d : Dev) (o : Origin) (cls det res : Nat) : d.ReadsKept (d.finish o cls det res) := by
  unfold Dev.finish
  split
  · exact readsKept_refl d
  · split <;> exact .other (readsKept_refl d)

theorem noteFailed_readsKept (d : Dev) (w : Writer) : d.ReadsKept (d.noteFailed w) := by
  unfold Dev.noteFailed
  split <;> exact .other (readsKept_refl d)

theorem deferError_readsKept (d : Dev) (w : Writer) (detail : Nat) : d.ReadsKept (d.deferError w detail) := by
  have hring : ∀ (r : Nat) (f : CqState → CqState), d.ReadsKept (if (d.sqS r).unread then d else d.updCq (d.rd .sqCq [r]) f) :=
    fun _ _ => readsKept_ite (readsKept_refl d) (.other (readsKept_refl d))
  have hlink : ∀ (l : Nat) (f : Link → Link), d.ReadsKept (if (d.lk l).unread then d else d.updLk l f) :=
    fun _ _ => readsKept_ite (readsKept_refl d) (.other (readsKept_refl d))
  unfold Dev.deferError
  simp only []
  split
  · exact .raise (readsKept_ite (.wr (.updSq (hring _ _))) (.wr (.updSq (hring _ _))))
  · exact .raise (readsKept_ite (.wr (.updSq (hring _ _))) (.wr (.updSq (hring _ _))))
  · exact .raise (readsKept_ite (.wr (.updLk (hlink _ _))) (.wr (.updLk (hlink _ _))))

theorem failWriters_readsKept (d : Dev) (cls detail : Nat) (ws : List Writer) : d.ReadsKept (d.failWriters cls detail ws) := by
  refine readsKept_foldl (fun d w => ?_) _ _
  have hnoted := noteFailed_readsKept d w
  exact readsKept_ite (.step (finish_readsKept _ _ _ _ _) hnoted)
    (readsKept_ite hnoted (.other (.step (deferError_readsKept _ _ _) hnoted)))

theorem loseBlk_readsKept (d : Dev) (id cls detail : Nat) : d.ReadsKept (d.loseBlk id cls detail) := by
  unfold Dev.loseBlk
  split
  · exact readsKept_refl d
  · next b _ =>
    simp only []
    refine .step (dropBlk_readsKept _ _) (.step (failWriters_readsKept _ _ _ _) ?_)
    have hqueue : d.ReadsKept (d.unqueue b.surface id) := .updPk (readsKept_refl d)
    have hmap : ∀ (l : List Cmd) (f : Nat → Stripe → Stripe), d.ReadsKept (match b.kind, b.pba with
      | .take, some a => ({ d.unqueue b.surface id with cmds := l } : Dev).updStripe b.stripe (f a)
      | .parity, some a => ({ d.unqueue b.surface id with cmds := l } : Dev).updStripe b.stripe (f a)
      | _, _ => { d.unqueue b.surface id with cmds := l }) := by
      intro l f
      split <;> exact .other hqueue
    have hlost : ∀ (x : Dev) (c : Prop) [Decidable c] (f : Take → Take), d.ReadsKept x →
        d.ReadsKept (if c then x.updTake b.take f else x) := fun x c _ f hx => readsKept_ite (.other hx) hx
    exact hlost _ _ _ (hlost _ _ _ (hmap _ _))

theorem placeElsewhere_readsKept (d : Dev) (id detail : Nat) : d.ReadsKept (d.placeElsewhere id detail) := by
  have hqueue : ∀ p, d.ReadsKept (d.unqueue p id) := fun _ => .updPk (readsKept_refl d)
  unfold Dev.placeElsewhere
  split
  · split
    · exact loseBlk_readsKept _ _ _ _
    · simp only []
      split
      · exact loseBlk_readsKept _ _ _ _
      · exact .updPk (.other (hqueue _))
  · exact loseBlk_readsKept _ _ _ _

theorem expel_readsKept (d : Dev) (id cls detTake detRaw : Nat) : d.ReadsKept (d.expel id cls detTake detRaw) := by
  unfold Dev.expel
  split
  · exact readsKept_refl d
  · split
    · exact loseBlk_readsKept _ _ _ _
    · exact placeElsewhere_readsKept _ _ _

/-! ### Records, maps and copies (R266, R270, R295) -/

theorem catSettle_readsKept (d : Dev) (p : Nat) (lanes : List Nat) (failed : Option Nat) :
    d.ReadsKept (d.catSettle p lanes failed) := by
  have hprogress : ∀ x : Dev, x.ReadsKept x.catProgress := by
    intro x
    unfold Dev.catProgress
    split
    · exact readsKept_refl x
    · exact readsKept_ite (.other (readsKept_refl x)) (.other (readsKept_refl x))
  unfold Dev.catSettle
  split
  · exact readsKept_refl d
  · exact .step (hprogress _) (.other (readsKept_refl d))

theorem mapBlock_readsKept (d : Dev) (b : Blk) (pba : Nat) : d.ReadsKept (d.mapBlock b pba) := by
  unfold Dev.mapBlock
  split <;> exact .other (readsKept_refl d)

theorem countQueued_readsKept (d : Dev) (p : Nat) : d.ReadsKept (d.countQueued p) := .wr (readsKept_refl d)

theorem dropCopies_readsKept (d : Dev) (p L : Nat) : d.ReadsKept (d.dropCopies p L) :=
  .step (countQueued_readsKept _ p) (.step (readsKept_foldl dropBlk_readsKept _ _) (.updPk (readsKept_refl d)))

theorem queueCopy_readsKept (d : Dev) (pba level : Nat) (header data : Bytes) :
    d.ReadsKept (d.queueCopy pba level header data).1 := by
  unfold Dev.queueCopy
  simp only []
  split
  · exact readsKept_refl d
  · have hqueued : ∀ (b : Blk) (f : Pk → Pk) (o : Owner), (∀ k, (f k).verify = k.verify) → (∀ k, (f k).deadAll = k.deadAll) →
        d.ReadsKept ((((d.addBlk b).updPk (pbaSurface pba) f).countQueued (pbaSurface pba)).needUnits o 1) := fun b f o hv hd =>
      .step (needUnits_readsKept _ _ _) (.step (countQueued_readsKept _ _) (.updPk (.other (readsKept_refl d)) hv hd))
    refine readsKept_ite (.step (dropCopies_readsKept _ _ _) (hqueued _ _ _ ?_ ?_)) (hqueued _ _ _ ?_ ?_)
    all_goals exact fun _ => rfl

theorem wantOpc_readsKept (d : Dev) (p L : Nat) : d.ReadsKept (d.wantOpc p L) := by
  refine .step (readsKept_foldl (fun x _ => ?_) _ _) (.updPk (readsKept_refl d))
  exact .wr (readsKept_refl x)

/-! ### Commands that take a block (R292, R406) -/

theorem deliver_readsKept (d : Dev) (o : Origin) (i : Nat) (data : Bytes) : d.ReadsKept (d.deliver o i data) := by
  unfold Dev.deliver
  split
  · exact readsKept_refl d
  · simp only []
    split
    · refine .step (readsKept_foldl (fun x _ => ?_) _ _) (.other (readsKept_refl d))
      exact .other (readsKept_refl x)
    · refine readsKept_ite (readsKept_ite ?_ ?_) ?_
      all_goals exact .other (readsKept_refl d)

theorem failRead_readsKept (pba det : Nat) (d : Dev) (o : Origin) : d.ReadsKept (Dev.failRead pba det d o) := by
  unfold Dev.failRead
  split
  · exact readsKept_refl d
  · refine readsKept_ite (.step (finish_readsKept _ _ _ _ _) (.step (dropOwner_readsKept _ _) (.other (readsKept_refl d)))) ?_
    refine .step (readsKept_foldl (fun x _ => ?_) _ _) (.other (readsKept_refl d))
    exact .other (readsKept_refl x)

theorem serveRead_readsKept (pba : Nat) (header data : Bytes) (level : Nat) (realloc : Bool) (d : Dev) (o : Origin) :
    d.ReadsKept (Dev.serveRead pba header data level realloc d o) := by
  unfold Dev.serveRead
  split
  · exact readsKept_refl d
  · next c _ =>
    simp only []
    split
    · refine .step (finish_readsKept _ _ _ _ _) (.step (dropOwner_readsKept _ _) (readsKept_ite ?_ ?_))
      · exact .other (.other (.other (readsKept_refl d)))
      · exact .other (.other (readsKept_refl d))
    · refine .step (readsKept_foldl (fun x n => ?_) _ _) (.other (readsKept_refl d))
      split
      · exact readsKept_refl x
      · refine readsKept_ite (.other (readsKept_refl x)) (readsKept_ite (readsKept_ite (readsKept_refl x) ?_) ?_)
        · exact .other (readsKept_refl x)
        · exact readsKept_ite (.other (readsKept_refl x)) (deliver_readsKept _ _ _ _)

theorem noteKnown_readsKept (d : Dev) (pba : Nat) (v : Option Bytes) : d.ReadsKept (d.noteKnown pba v) := by
  unfold Dev.noteKnown
  exact .updPk (readsKept_refl d)

theorem noteScrub_readsKept (d : Dev) (pba : Nat) (weak lost : Bool) : d.ReadsKept (d.noteScrub pba weak lost) :=
  readsKept_ite (.other (readsKept_refl d)) (readsKept_refl d)

end Sys2Proof.Machine
end

section
/-! SUPPORT. What a pass of the read channel leaves (R202 to R218, R244 to R248): its settings and figures, the records of the
spots and of the pass, and what it raises are all that it changes; the taps of a spot that it does not read stay (O53, O54). -/

namespace Sys2Proof.Machine

/-- The fields that a pass may change: the settings of RC, and the figures of spots. -/
def passField (r : Row) : Bool :=
  isRc r || [Row.rcGain, .rcClips, .rcEye, .rcSamMean, .rcSamSnr, .rcDcr, .rcHist].contains r

/-- The record of a pickup without the pass that its spots make. -/
def Pk.withoutPass (k : Pk) : Pk :=
  { k with boost := 0, peak := 0, passRow := none, passLanes := [], passSpots := [], reading := [], readOut := [] }

/-- The fields that a pass keeps in which spot `own` keeps its taps: those that no pass changes, the taps of the spot, and
whether they adapt. -/
def passKeeps (own : Option Nat) (f : Fld) : Prop :=
  passField f.row = false ∨ ∃ k, own = some k ∧ (f.row = .rcFirAdapt ∨ (f.row = .rcFirTap ∧ f.ix.getD 1 0 = k))

/-- From d to e spots pass over rows; spot `own`, where there is one, keeps its taps. -/
structure Dev.Samples (own : Option Nat) (d e : Dev) : Prop where
  regs : ∀ f : Fld, passKeeps own f → regGet e.regs f = regGet d.regs f
  parts : ∀ x, x ∉ [Part.raised, .freeTick] → x.Same d e
  pk : ∀ q, (e.pkS q).withoutPass = (d.pkS q).withoutPass

section
variable {own : Option Nat} {d e g : Dev}

theorem Dev.Samples.trans (h : Dev.Samples own d e) (h' : Dev.Samples own e g) : Dev.Samples own d g :=
  ⟨fun f hf => (h'.regs f hf).trans (h.regs f hf), fun x hx => (h.parts x hx).trans (h'.parts x hx),
    fun q => (h'.pk q).trans (h.pk q)⟩

theorem samples_refl (d : Dev) : Dev.Samples own d d := ⟨fun _ _ => rfl, fun x _ => .refl x d, fun _ => rfl⟩

/-- Another step of a chain, by its own lemma. -/
theorem Dev.Samples.step (h' : Dev.Samples own e g) (h : Dev.Samples own d e) : Dev.Samples own d g := h.trans h'

/-- A change of records that no pass is told apart by. -/
theorem samples_of_onlyChanges {es : List (Table × Nat)} (h : d.OnlyChanges e [] es [.raised, .freeTick])
    (hes : ∀ q, (.pk, q) ∉ es) : Dev.Samples own d e :=
  ⟨fun f _ => h.1 f (by simp), h.2.2, fun q => congrArg Pk.withoutPass (h.2.1 .pk q (hes q))⟩

/-- A write of a field of a pass, which is no tap of a spot whose taps stay. -/
theorem Dev.Samples.wr (h : Dev.Samples own d e) {r : Row} {ix : List Nat} {v : Nat} (hr : passField r = true := by decide)
    (hown : ∀ k, own = some k → r ≠ .rcFirAdapt ∧ (r = .rcFirTap → ix.getD 1 0 ≠ k) := by simp) :
    Dev.Samples own d (e.wr r ix v) := by
  refine h.trans ⟨fun f hf => ?_, fun x _ => ?_, fun _ => rfl⟩
  · have hne : f ≠ ⟨r, ix⟩ := by
      rintro rfl
      obtain hp | ⟨k, hk, ha | ⟨ht, hik⟩⟩ := hf
      · rw [hr] at hp; cases hp
      · exact (hown k hk).1 ha
      · exact (hown k hk).2 ht hik
    exact (regGet_wr e r ix v f).trans (if_neg hne)
  · exact (onlyChanges_wr (fs := [⟨r, ix⟩]) (es := []) (ps := []) e r ix v (by simp)).2.2 x (by simp)

theorem Dev.Samples.raisePk (h : Dev.Samples own d e) {p sub code : Nat} {b : Bytes} :
    Dev.Samples own d (e.raisePk p sub code b) :=
  h.trans (samples_of_onlyChanges (es := []) (onlyChanges_raise _ _ _ _ (by simp)) (by simp))

theorem Dev.Samples.updSpot (h : Dev.Samples own d e) {p s : Nat} {f : Spot → Spot} : Dev.Samples own d (e.updSpot p s f) :=
  h.trans (samples_of_onlyChanges (onlyChanges_updSpot _ _ _ _ (List.mem_singleton_self (Table.spot, 16 * p + s))) (by simp))

theorem Dev.Samples.fresh (h : Dev.Samples own d e) : Dev.Samples own d e.fresh.2 :=
  h.trans ⟨fun _ _ => rfl, fun x hx => by cases x <;> simp_all [Part.Same, Dev.fresh], fun _ => rfl⟩

/-- A change of the pass that the record of a pickup holds. -/
theorem Dev.Samples.updPk (h : Dev.Samples own d e) {p : Nat} {f : Pk → Pk}
    (hf : ∀ k, (f k).withoutPass = k.withoutPass := by exact fun _ => rfl) : Dev.Samples own d (e.updPk p f) := by
  refine h.trans ⟨fun _ _ => rfl, fun x _ => ?_, fun q => ?_⟩
  · exact (onlyChanges_updPk (fs := []) (es := [(.pk, p)]) (ps := []) e p f (by simp)).2.2 x (by simp)
  · rw [pkS_updPk]
    split
    · next hq => rw [hq]; exact hf _
    · rfl

/-- A step taken on a condition only. -/
theorem samples_ite {c : Prop} [Decidable c] (h : Dev.Samples own d e) (h' : Dev.Samples own d g) :
    Dev.Samples own d (if c then e else g) := by
  split
  · exact h
  · exact h'

theorem samples_foldl {β : Type} {f : Dev → β → Dev} (l : List β) (h : ∀ (d : Dev), ∀ b ∈ l, Dev.Samples own d (f d b)) (d : Dev) :
    Dev.Samples own d (l.foldl f d) := by
  induction l generalizing d with
  | nil => exact samples_refl d
  | cons b l ih => exact (h d b (by simp)).trans (ih (fun d c hc => h d c (by simp [hc])) (f d b))

/-! ### What such a change keeps -/

section
variable (h : Dev.Samples own d e)
include h

theorem Dev.Samples.rd {r : Row} (hr : passField r = false) (ix : List Nat) : e.rd r ix = d.rd r ix := h.regs ⟨r, ix⟩ (.inl hr)

theorem Dev.Samples.tap {k : Nat} (hk : own = some k) (p i : Nat) : e.rd .rcFirTap [p, k, i] = d.rd .rcFirTap [p, k, i] :=
  h.regs ⟨.rcFirTap, [p, k, i]⟩ (.inr ⟨k, hk, .inr ⟨rfl, rfl⟩⟩)

theorem Dev.Samples.adapt {k : Nat} (hk : own = some k) (p : Nat) : e.on .rcFirAdapt [p] = d.on .rcFirAdapt [p] := by
  have hreg : e.rd .rcFirAdapt [p] = d.rd .rcFirAdapt [p] := h.regs ⟨.rcFirAdapt, [p]⟩ (.inr ⟨k, hk, .inl rfl⟩)
  rw [Dev.on, Dev.on, hreg]

theorem Dev.Samples.cmds : e.cmds = d.cmds := (h.parts .cmds (by decide)).1
theorem Dev.Samples.ladder : e.ladder = d.ladder := h.parts .ladder (by decide)
theorem Dev.Samples.railWait : e.railWait = d.railWait := h.parts .railWait (by decide)
theorem Dev.Samples.blks : e.blks = d.blks := (h.parts .blks (by decide)).1
theorem Dev.Samples.occupied (q : Nat) : (e.pkS q).occupied = (d.pkS q).occupied := (congrArg Pk.occupied (h.pk q) :)
theorem Dev.Samples.verify (q : Nat) : (e.pkS q).verify = (d.pkS q).verify := (congrArg Pk.verify (h.pk q) :)
theorem Dev.Samples.deadAll (q : Nat) : (e.pkS q).deadAll = (d.pkS q).deadAll := (congrArg Pk.deadAll (h.pk q) :)

theorem Dev.Samples.readers (pba : Nat) : e.readers pba = d.readers pba := by rw [Dev.readers, h.cmds]; rfl

theorem Dev.Samples.blk? (id : Nat) : e.blk? id = d.blk? id := by rw [Dev.blk?, h.blks]; rfl

theorem Dev.Samples.neverAllocated (pba : Nat) : e.neverAllocated pba = d.neverAllocated pba := by
  simp only [Dev.neverAllocated, h.rd (r := .rowNext) (by decide), h.rd (r := .rowSpareNext) (by decide), h.occupied]

end

/-! ### Settings of the start of a read (R203, R215, R248) -/

/-- Settings of RC, each put at its value of a list or of a device. -/
theorem settings_samples {old : List (Fld × Nat)} (h : own = none ∨ old = []) (v : Fld × Nat → Nat) (d : Dev) :
    Dev.Samples own d ((old.filter fun o => isRc o.1.row).foldl (fun x o => x.wr o.1.row o.1.ix (v o)) d) := by
  obtain rfl | rfl := h
  · refine samples_foldl _ (fun x o ho => ?_) d
    obtain ⟨_, hrc⟩ := List.mem_filter.1 ho
    exact .wr (samples_refl x) (by simp [passField, hrc]) (by simp)
  · exact samples_refl d

theorem asBegun_samples (d : Dev) {old : List (Fld × Nat)} (h : own = none ∨ old = []) : Dev.Samples own d (d.asBegun old) :=
  settings_samples h Prod.snd d

theorem asNow_samples (u d : Dev) {old : List (Fld × Nat)} (h : own = none ∨ old = []) : Dev.Samples own u (u.asNow d old) :=
  settings_samples h (fun o => d.rd o.1.row o.1.ix) u

theorem setEqualiser_samples (d : Dev) (p r : Nat) : Dev.Samples own d (d.setEqualiser p r) := by
  unfold Dev.setEqualiser
  exact .updPk (samples_refl d)

/-- With no setting waiting, none takes effect. -/
theorem applyRc_none {d : Dev} {p : Nat} (h : (d.pkS p).rcPending = []) (starts : Nat → Bool) (since : RcWrite → Bool) :
    d.applyRc p starts since = d := by
  simp [Dev.applyRc, h]

theorem lateStart_samples {d : Dev} {pba : Nat} (h : (d.pkS (pbaSurface pba)).rcPending = []) :
    Dev.Samples own d (d.lateStart pba) := by
  unfold Dev.lateStart
  simp only []
  rw [applyRc_none h]
  exact samples_ite (samples_refl d) (setEqualiser_samples d _ _)

theorem beginPass_samples (d : Dev) (pba : Nat) (again : Bool) : Dev.Samples own d (d.beginPass pba again) := by
  refine .step (samples_foldl _ (fun x s _ => ?_) _) (.updPk (samples_refl d))
  exact .updSpot (samples_refl x)

theorem loadTaps_samples {d : Dev} {p s L : Nat} (h : (d.spotS p s).lastLayer = some L ∨ own ≠ some s) :
    Dev.Samples own d (d.loadTaps p s L) := by
  unfold Dev.loadTaps
  split
  · exact samples_refl d
  · next hne =>
    refine .step (samples_foldl _ (fun x i _ => ?_) _) (.updSpot (samples_refl d))
    exact .wr (samples_refl x) (by decide) fun k hk =>
      ⟨by decide, fun _ hik => h.resolve_left hne (hk.trans (congrArg some hik.symm))⟩

/-! ### Gain, clips, deskew and taps of a spot (R204, R206, R210 to R215) -/

theorem gainEnd_samples (d : Dev) (p s gain clips : Nat) : Dev.Samples own d (d.gainEnd p s gain clips) :=
  .wr (.wr (.updSpot (samples_refl d)))

theorem betweenBlocks_samples (d : Dev) (p s : Nat) (runs : List SpotRun) (x : Int) :
    Dev.Samples own d (d.betweenBlocks p s runs x) := by
  unfold Dev.betweenBlocks
  split
  · exact samples_refl d
  · exact samples_ite (samples_refl d) (gainEnd_samples d _ _ _ _)

theorem applyShift_samples (d : Dev) (p s : Nat) : Dev.Samples own d (d.applyShift p s) :=
  samples_ite (samples_refl d) (.updSpot (.wr (samples_refl d)))

theorem setTaps_samples (d : Dev) {r : Row} {ix : List Nat} (n : Nat) (v : List Int) (hr : passField r = true)
    (hadapt : r ≠ .rcFirAdapt) (hown : r = .rcFirTap → 2 ≤ ix.length ∧ own ≠ some (ix.getD 1 0)) :
    Dev.Samples own d (d.setTaps r ix n v) := by
  refine samples_foldl _ (fun x e _ => .wr (samples_refl x) hr fun k hk => ⟨hadapt, fun ht hik => ?_⟩) d
  obtain ⟨hlen, hne⟩ := hown ht
  rw [List.getD_append _ _ _ _ (by omega)] at hik
  exact hne (hk.trans (congrArg some hik.symm))

theorem tapsEnd_samples (d : Dev) {p s : Nat} (verify : Bool) (taps : Taps) (h : own ≠ some s) :
    Dev.Samples own d (d.tapsEnd p s verify taps) := by
  have hfir := setTaps_samples d (r := .rcFirTap) (ix := [p, s]) (own := own) (if verify then 4 else 0) taps.fir (by decide)
    (by decide) fun _ => ⟨by simp, h⟩
  refine samples_ite (samples_refl d) (samples_ite hfir ?_)
  refine .step (setTaps_samples _ _ _ (by decide) (by decide) (by simp)) (.step ?_ hfir)
  exact setTaps_samples _ _ _ (by decide) (by decide) (by simp)

/-- What the end of a pass changes after the taps of its spot. -/
theorem spotEnd_afterTaps (d : Dev) (p s : Nat) (verify : Bool) (e : PassEnd) :
    Dev.Samples own (d.tapsEnd p s verify e.taps) (d.spotEnd p s verify e) := by
  have hgain := gainEnd_samples (own := own) (d.tapsEnd p s verify e.taps) p s e.gain e.clips
  unfold Dev.spotEnd
  simp only []
  split
  · exact .raisePk (.step (applyShift_samples _ _ _) (.updSpot (.wr hgain)))
  · exact .step (applyShift_samples _ _ _) (.updSpot (.wr hgain))

theorem spotEnd_samples (d : Dev) {p s : Nat} (verify : Bool) (e : PassEnd) (h : own ≠ some s) :
    Dev.Samples own d (d.spotEnd p s verify e) :=
  .step (spotEnd_afterTaps _ _ _ _ _) (tapsEnd_samples d verify e.taps h)

/-- The device in which a spot has saved its taps for a layer (R215). -/
def Dev.tapsSaved (d : Dev) (p s L : Nat) : Dev :=
  (List.range 15).foldl (fun d i => d.wr .rcFirSaved [p, s, L, i] (d.rd .rcFirTap [p, s, i])) d

theorem tapsSaved_samples (d : Dev) (p s L : Nat) : Dev.Samples own d (d.tapsSaved p s L) :=
  samples_foldl _ (fun x _ _ => .wr (samples_refl x)) _

/-- What the end of a block changes after the taps saved per layer: EYE, and AGC_LIMIT (R244, R249). -/
theorem passEnd_afterSave (d : Dev) (p s L : Nat) (verify save : Bool) (e : PassEnd) :
    Dev.Samples own (if save then (d.spotEnd p s verify e).tapsSaved p s L else d.spotEnd p s verify e)
      (d.passEnd p s L verify save e) := by
  unfold Dev.passEnd
  cases e.agc with
  | none => exact .wr (.fresh (samples_refl _))
  | some g => exact .raisePk (.wr (.fresh (samples_refl _)))

theorem passEnd_samples (d : Dev) {p s : Nat} (L : Nat) (verify save : Bool) (e : PassEnd) (h : own ≠ some s) :
    Dev.Samples own d (d.passEnd p s L verify save e) := by
  have hspot := spotEnd_samples d (p := p) verify e h
  exact .step (passEnd_afterSave _ _ _ _ _ _ _) (samples_ite (.step (tapsSaved_samples _ _ _ _) hspot) hspot)

/-! ### The other spots of a pass (R202) -/

theorem spotsTaken_samples (d : Dev) (p : Nat) (l : List Nat) : Dev.Samples own d (d.spotsTaken p l) := .updPk (samples_refl d)

theorem sampleOthers_samples (d : Dev) (p row : Nat) (runs : List SpotRun) (skip : Nat → Bool) :
    Dev.Samples own d (d.sampleOthers p row runs skip) := by
  refine samples_foldl _ (fun x s _ => ?_) d
  exact .updPk (.step (applyShift_samples _ _ _) (.step (gainEnd_samples _ _ _ _ _) (betweenBlocks_samples x p s runs _)))

theorem mem_idleSpots {d : Dev} {p s : Nat} {runs : List SpotRun} {keep : Nat → Bool} (h : s ∈ d.idleSpots p runs keep) :
    keep s = true := by
  obtain ⟨_, hs⟩ := List.mem_filter.1 h
  simp only [Bool.and_eq_true] at hs
  exact hs.1.2

theorem otherLanes_samples (d : Dev) (pba : Nat) {done : List Nat} (runs : List SpotRun) (h : ∀ s, s ∉ done → own ≠ some s) :
    Dev.Samples own d (d.otherLanes pba done runs) := by
  unfold Dev.otherLanes
  simp only []
  refine .step (spotsTaken_samples _ _ _) (.step (samples_foldl _ (fun x e he => ?_) _) (.step (sampleOthers_samples _ _ _ _ _)
    (samples_foldl _ (fun x s _ => betweenBlocks_samples x _ s runs _) d)))
  obtain ⟨s, hs, rfl⟩ := List.mem_map.1 he
  have hkeep := mem_idleSpots hs
  simp only [Bool.and_eq_true, Bool.not_eq_true', List.contains_eq_mem, decide_eq_false_iff_not] at hkeep
  exact spotEnd_samples x false _ (h s hkeep.1.2)

/-! ### Figures (R245 to R247) -/

theorem countWords_samples (d : Dev) (p s : Nat) (cws : List (Option Nat)) : Dev.Samples own d (d.countWords p s cws) := by
  refine samples_foldl _ (fun x e _ => ?_) d
  exact .wr (samples_refl x)

theorem qualityFigures_samples (d : Dev) (p s : Nat) (rel : List Nat) : Dev.Samples own d (d.qualityFigures p s rel) :=
  .wr (.wr (.wr (.fresh (samples_refl d))))

theorem dropsUsed_samples (d : Dev) (p s : Nat) (spans : List Span) : Dev.Samples own d (d.dropsUsed p s spans) := by
  unfold Dev.dropsUsed
  exact .updSpot (samples_refl d)

end

end Sys2Proof.Machine
end

section
/-! SUPPORT. The mordant check (O53; R240 to R243, R264 to R270). -/

namespace Sys2Proof.Machine

/-! ### What the judgement of a block leaves -/

theorem append1_readsKept (d : Dev) (rtype : Nat) (body : Bytes) : d.ReadsKept (d.append1 rtype body) := .other (readsKept_refl d)

theorem sickCount_readsKept (d : Dev) (p lane L : Nat) (failed : Bool) : d.ReadsKept (d.sickCount p lane L failed) := by
  have hput : ∀ q : Sick, d.ReadsKept (d.updPk p fun k => { k with sick := tset k.sick lane q }) := fun q =>
    .updPk (readsKept_refl d)
  unfold Dev.sickCount
  simp only []
  refine readsKept_ite (readsKept_refl d) ?_
  split
  · exact readsKept_ite (.step (wantOpc_readsKept _ _ _) (hput _)) (hput _)
  · exact readsKept_ite (.raise (.wr (hput _))) (hput _)

/-- The device in which position `pba` of surface p is dead (R265). -/
def Dev.positionDead (d : Dev) (p pba : Nat) : Dev :=
  d.updPk p fun x => { x with dead := x.dead ++ [pba], deadAll := x.deadAll ++ [pba] }

theorem failBlock_readsKept (d : Dev) (p k : Nat) (b : Blk) (pba cause maxCw total fly : Nat) :
    (d.positionDead p pba).ReadsKept (d.failBlock p k b pba cause maxCw total fly) := by
  have hcount : (d.positionDead p pba).ReadsKept ((d.positionDead p pba).inc .defectDead [p]) := .wr (readsKept_refl _)
  unfold Dev.failBlock
  simp only []
  refine readsKept_ite (.step (catSettle_readsKept _ _ _ _) (.step (dropBlk_readsKept _ _) (.other hcount))) (readsKept_ite ?_ ?_)
  · split
    · exact .updPk (.other hcount)
    · exact .step (countQueued_readsKept _ _) (.updPk (.other hcount))
  · exact readsKept_ite (.step (dropBlk_readsKept _ _) (.other hcount)) (.step (expel_readsKept _ _ _ _ _) (.other hcount))

theorem passCopy_readsKept (d : Dev) (p : Nat) (b : Blk) (old level pba : Nat) : d.ReadsKept (d.passCopy p b old level pba) := by
  unfold Dev.passCopy
  simp only []
  refine .raise (.step (dropBlk_readsKept _ _) (readsKept_ite ?_ (readsKept_refl d)))
  refine .step (mapBlock_readsKept _ _ _) (.wr (.step (append1_readsKept _ _ _) (.other (readsKept_refl d))))

theorem passBlock_readsKept (d : Dev) (b : Blk) (pba : Nat) : d.ReadsKept (d.passBlock b pba) := by
  unfold Dev.passBlock
  simp only []
  refine .step (dropBlk_readsKept _ _) (.step (mapBlock_readsKept _ _ _) ?_)
  split
  · exact .other (readsKept_refl d)
  · split <;> exact .other (readsKept_refl d)

/-! ### A block that leaves the basin is in it no more -/

theorem dropBlk_gone (d : Dev) (id : Nat) : (d.dropBlk id).blk? id = none := by
  unfold Dev.dropBlk
  split
  · next h => exact h
  · next b _ =>
    simp only []
    have hunits : ∀ x y : Dev, x.UnitsOnly y → x.blk? id = none → y.blk? id = none := fun x y h hx => by rw [h]; exact hx
    have hgone : ∀ x : Dev, x.blk? id = none → (if x.keyGone b.key then x.blockGone b.key else x).blk? id = none := fun x hx => by
      split
      · exact hunits _ _ (blockGone_unitsOnly _ _) hx
      · exact hx
    have hfilter : (d.blks.filter fun x => x.id != id).find? (fun b => b.id == id) = none := by simp
    split
    · exact hunits _ _ (releaseUnits_unitsOnly _ _) (hgone _ hfilter)
    · exact hgone _ hfilter

theorem catSettle_blks (d : Dev) (p : Nat) (lanes : List Nat) (failed : Option Nat) :
    (d.catSettle p lanes failed).blks = d.blks := by
  have hprogress : ∀ x : Dev, x.catProgress.blks = x.blks := by
    intro x
    unfold Dev.catProgress
    split
    · rfl
    · simp only []
      split <;> rfl
  unfold Dev.catSettle
  split
  · rfl
  · exact hprogress _

/-- The last step of a mordant check, by its cause and the kind of the block (R265, R270, R297, R70). -/
def Dev.judged (d : Dev) (p k : Nat) (b : Blk) (pba cause : Nat) (x : Decoded) : Dev :=
  if cause ≠ 0 then d.failBlock p k b pba cause x.maxCw x.total x.fly
  else if b.kind = .catalogue then (d.dropBlk b.id).catSettle p [k] none
  else match b.copyOf with
    | some (old, level) => d.passCopy p b old level pba
    | none => d.passBlock b pba

theorem judged_failed (d : Dev) (p k : Nat) (b : Blk) (pba : Nat) {cause : Nat} (x : Decoded) (h : cause ≠ 0) :
    (d.positionDead p pba).ReadsKept (d.judged p k b pba cause x) := by
  rw [Dev.judged, if_pos h]
  exact failBlock_readsKept _ _ _ _ _ _ _ _ _

theorem judged_passed (d : Dev) (p k : Nat) (b : Blk) (pba : Nat) (x : Decoded) :
    d.ReadsKept (d.judged p k b pba 0 x) ∧ (d.judged p k b pba 0 x).blk? b.id = none := by
  unfold Dev.judged
  rw [if_neg (by simp)]
  split
  · refine ⟨.step (catSettle_readsKept _ _ _ _) (dropBlk_readsKept _ _), ?_⟩
    rw [Dev.blk?, catSettle_blks]
    exact dropBlk_gone d b.id
  · split
    · exact ⟨passCopy_readsKept _ _ _ _ _ _, dropBlk_gone _ _⟩
    · exact ⟨passBlock_readsKept _ _ _, dropBlk_gone _ _⟩

/-! ### The check, step by step -/

/-- The device in which the verify read of a written block of lane k has ended, with the settings in force now (R242, R248). -/
def Dev.verified (d : Dev) (p k : Nat) (e : VerifyDue) (runs : List SpotRun) : Dev :=
  let u := (d.asBegun e.old).verifyStart p k e runs
  let read := u.verifyDecode p k e runs
  let u := (u.dropsUsed p (k + 7) (rowSpans (pbaRow e.pba))).countWords p (k + 7) read.1.codewords
  let u := ((u.wr .rcSamMean [p, k + 7] 0).wr .rcSamSnr [p, k + 7] 0).wr .rcDcr [p, k + 7] 0
  (u.passEnd p (k + 7) (pbaLayer e.pba) true true read.2).asNow d e.old

/-- A check is counted, and its figures shown (R243, R264). -/
def Dev.checkShown (d : Dev) (p lane : Nat) (e : VerifyDue) (x : Decoded) (cause : Nat) : Dev :=
  let d := d.updPk p fun k => { k with verify := k.verify.erase e }
  let d := (d.inc .mordChecked [p, lane]).wr .mordLastMaxCw [p, lane] x.maxCw
  let d := ((d.wr .mordLastTotal [p, lane] x.total).wr .mordLastFly [p, lane] x.fly).wr .mordLastCause [p, lane] cause
  if cause = 0 then d else d.inc .mordFailed [p, lane]

theorem idleVerify_samples (d : Dev) (p row : Nat) (runs : List SpotRun) (busy : Nat → Bool) :
    Dev.Samples none d (d.idleVerify p row runs busy) := by
  refine .step (spotsTaken_samples _ _ _) (samples_foldl _ (fun x s _ => ?_) d)
  exact .step (spotEnd_samples _ _ _ (by simp)) (betweenBlocks_samples x p s runs _)

theorem verifyStart_samples (d : Dev) (p k : Nat) (e : VerifyDue) (runs : List SpotRun) :
    Dev.Samples none d (d.verifyStart p k e runs) :=
  .step (spotsTaken_samples _ _ _) <| .step (idleVerify_samples _ _ _ _ _) <| .step (sampleOthers_samples _ _ _ _ _) <|
    .step (betweenBlocks_samples _ _ _ _ _) (loadTaps_samples (.inr (by simp)))

theorem verified_samples (d : Dev) (p k : Nat) (e : VerifyDue) (runs : List SpotRun) :
    Dev.Samples none d (d.verified p k e runs) := by
  refine .step (asNow_samples _ _ (.inl rfl)) (.step (passEnd_samples _ _ _ _ _ (by simp)) ?_)
  refine .wr (.wr (.wr (.step (countWords_samples _ _ _ _) (.step (dropsUsed_samples _ _ _ _) ?_))))
  exact .step (verifyStart_samples _ _ _ _ _) (asBegun_samples d (.inl rfl))

theorem mordantCause_congr {d e : Dev} (h : Dev.Samples none d e) (outcome maxCw total fly : Nat) :
    e.mordantCause outcome maxCw total fly = d.mordantCause outcome maxCw total fly := by
  simp only [Dev.mordantCause, h.rd (r := .mdMaxfly) (by decide), h.rd (r := .mdMaxcw) (by decide),
    h.rd (r := .mdMaxtot) (by decide)]

/-- The check of verify read e, decoded as x, once it has been judged. -/
def Dev.mordantEnd (d : Dev) (p lane : Nat) (e : VerifyDue) (x : Decoded) (cause : Nat) : Dev :=
  match d.blk? e.block with
  | none => d
  | some b => (d.sickCount p lane (pbaLayer e.pba) (cause != 0)).judged p (lane + 1) b e.pba cause x

/-- The whole check of verify read e. -/
def Dev.mordantChecked (d : Dev) (p lane : Nat) (e : VerifyDue) (runs : List SpotRun) : Dev :=
  let u := (d.asBegun e.old).verifyStart p (lane + 1) e runs
  let x := (u.verifyDecode p (lane + 1) e runs).1
  let v := d.verified p (lane + 1) e runs
  let cause := v.mordantCause x.outcome x.maxCw x.total x.fly
  (v.checkShown p lane e x cause).mordantEnd p lane e x cause

theorem mordantCheck_of_due {s : State} {p : Fin 32} {lane : Fin 7} {runs : List SpotRun} {e : VerifyDue}
    (he : ((s.dev.pkS p).verify.find? fun v => v.lane == lane.val + 1) = some e) :
    MakesThenRuns (.mordantCheck p lane runs) s (s.dev.mordantChecked p lane e runs) := by
  refine makesThenRuns_of_eq rfl ?_
  simp only [he]
  rfl

theorem checkShown_blks (d : Dev) (p lane : Nat) (e : VerifyDue) (x : Decoded) (cause : Nat) :
    (d.checkShown p lane e x cause).blks = d.blks := by
  unfold Dev.checkShown
  simp only []
  split <;> rfl

/-- The counts and the figures of a check (R243, R264). -/
theorem checkShown_rd (d : Dev) (p lane : Nat) (e : VerifyDue) (x : Decoded) (cause : Nat) :
    (d.checkShown p lane e x cause).rd .mordChecked [p, lane] = (d.rd .mordChecked [p, lane] + 1) % 2 ^ 32 ∧
    (d.checkShown p lane e x cause).rd .mordLastCause [p, lane] = cause % 2 ^ Row.mordLastCause.spec.width ∧
    (d.checkShown p lane e x cause).rd .mordLastMaxCw [p, lane] = x.maxCw % 2 ^ Row.mordLastMaxCw.spec.width ∧
    (d.checkShown p lane e x cause).rd .mordLastTotal [p, lane] = x.total % 2 ^ Row.mordLastTotal.spec.width ∧
    (d.checkShown p lane e x cause).rd .mordLastFly [p, lane] = x.fly % 2 ^ Row.mordLastFly.spec.width ∧
    (d.checkShown p lane e x cause).rd .mordFailed [p, lane] =
      if cause = 0 then d.rd .mordFailed [p, lane] else (d.rd .mordFailed [p, lane] + 1) % 2 ^ 32 := by
  have hupd : ∀ (f : Pk → Pk) r ix, (d.updPk p f).rd r ix = d.rd r ix := fun _ _ _ => rfl
  by_cases h : cause = 0
  · simp [Dev.checkShown, Dev.inc, h, hupd, Row.spec]
  · simp [Dev.checkShown, Dev.inc, h, hupd, Row.spec]

theorem checkShown_verify (d : Dev) (p lane : Nat) (e : VerifyDue) (x : Decoded) (cause : Nat) :
    ((d.checkShown p lane e x cause).pkS p).verify = (d.pkS p).verify.erase e ∧
    ((d.checkShown p lane e x cause).pkS p).deadAll = (d.pkS p).deadAll := by
  have hpk : (d.checkShown p lane e x cause).pkS p = { d.pkS p with verify := (d.pkS p).verify.erase e } := by
    refine Eq.trans ?_ (pkS_updPk_self d p fun k => { k with verify := k.verify.erase e })
    unfold Dev.checkShown
    simp only []
    split <;> rfl
  rw [hpk]
  exact ⟨rfl, rfl⟩

/-- The judgement leaves the counts of the check and the verify reads that are left; a failed block leaves its position dead, and
one that passed leaves the basin. -/
theorem mordantEnd_kept (d : Dev) (p lane : Nat) (e : VerifyDue) (x : Decoded) (cause : Nat) :
    (∀ r ∈ readCountRows, ∀ ix, (d.mordantEnd p lane e x cause).rd r ix = d.rd r ix) ∧
    ((d.mordantEnd p lane e x cause).pkS p).verify = (d.pkS p).verify ∧
    ∀ b, d.blk? e.block = some b →
      (cause ≠ 0 → ((d.mordantEnd p lane e x cause).pkS p).deadAll = (d.pkS p).deadAll ++ [e.pba]) ∧
      (cause = 0 → (d.mordantEnd p lane e x cause).blk? b.id = none) := by
  unfold Dev.mordantEnd
  split
  · next h => exact ⟨fun _ _ _ => rfl, rfl, fun b hb => by rw [h] at hb; cases hb⟩
  · next b h =>
    have hsick := sickCount_readsKept d p lane (pbaLayer e.pba) (cause != 0)
    generalize d.sickCount p lane (pbaLayer e.pba) (cause != 0) = u at hsick ⊢
    by_cases hc : cause = 0
    · subst hc
      obtain ⟨hkept, hgone⟩ := judged_passed u p (lane + 1) b e.pba x
      refine ⟨(hsick.trans hkept).counts, (hsick.trans hkept).verify p, fun b' hb => ⟨fun h0 => absurd rfl h0, fun _ => ?_⟩⟩
      rw [← Option.some.inj (h.symm.trans hb)]
      exact hgone
    · have hkept := judged_failed u p (lane + 1) b e.pba x hc
      have hdead := pkS_updPk_self u p fun k => { k with dead := k.dead ++ [e.pba], deadAll := k.deadAll ++ [e.pba] }
      refine ⟨fun r hr ix => (hkept.counts r hr ix).trans (hsick.counts r hr ix), ?_,
        fun b' _ => ⟨fun _ => ?_, fun h0 => absurd h0 hc⟩⟩
      · rw [hkept.verify, Dev.positionDead, hdead]
        exact hsick.verify p
      · rw [hkept.deadAll, Dev.positionDead, hdead]
        exact congrArg (· ++ [e.pba]) (hsick.deadAll p)

/-- A verify read that was lost with the rail fails with cause RAIL (R240, R264). -/
theorem mordantCause_lost (d u : Dev) (p k : Nat) (e : VerifyDue) (runs : List SpotRun) (maxCw total fly : Nat)
    (h : e.lost = true) :
    d.mordantCause (u.verifyDecode p k e runs).1.outcome maxCw total fly = 1 := by
  simp [Dev.verifyDecode, h, Dev.mordantCause]

theorem mordantCheck_counts (s : State) (p : Fin 32) (lane : Fin 7) (runs : List SpotRun) (e : VerifyDue) (x : Decoded)
    (cause : Nat) (he : ((s.dev.pkS p).verify.find? fun v => v.lane == lane.val + 1) = some e)
    (hx : x = (((s.dev.asBegun e.old).verifyStart p (lane.val + 1) e runs).verifyDecode p (lane.val + 1) e runs).1)
    (hcause : cause = s.dev.mordantCause x.outcome x.maxCw x.total x.fly) :
    ∃ d, MakesThenRuns (.mordantCheck p lane runs) s d ∧
      d.rd .mordChecked [p.val, lane.val] = (s.dev.rd .mordChecked [p.val, lane.val] + 1) % 2 ^ 32 ∧
      d.rd .mordLastCause [p.val, lane.val] = cause % 2 ^ Row.mordLastCause.spec.width ∧
      d.rd .mordLastMaxCw [p.val, lane.val] = x.maxCw % 2 ^ Row.mordLastMaxCw.spec.width ∧
      d.rd .mordLastTotal [p.val, lane.val] = x.total % 2 ^ Row.mordLastTotal.spec.width ∧
      d.rd .mordLastFly [p.val, lane.val] = x.fly % 2 ^ Row.mordLastFly.spec.width ∧
      (cause = 0 → d.rd .mordFailed [p.val, lane.val] = s.dev.rd .mordFailed [p.val, lane.val]) ∧
      (cause ≠ 0 → d.rd .mordFailed [p.val, lane.val] = (s.dev.rd .mordFailed [p.val, lane.val] + 1) % 2 ^ 32) ∧
      (e.lost = true → cause = 1) ∧ (d.pkS p).verify = (s.dev.pkS p).verify.erase e ∧
      (∀ b, s.dev.blk? e.block = some b → (cause ≠ 0 → (d.pkS p).deadAll = (s.dev.pkS p).deadAll ++ [e.pba]) ∧
        (cause = 0 → d.blk? b.id = none)) := by
  have hpass := verified_samples s.dev p (lane.val + 1) e runs
  have hmakes := mordantCheck_of_due (runs := runs) he
  have hlost : e.lost = true → cause = 1 := fun h => by rw [hcause, hx]; exact mordantCause_lost _ _ _ _ _ _ _ _ _ h
  simp only [Dev.mordantChecked, ← hx, mordantCause_congr hpass, ← hcause] at hmakes
  have hshown := checkShown_rd (s.dev.verified p (lane.val + 1) e runs) p lane e x cause
  obtain ⟨hverify, hdead⟩ := checkShown_verify (s.dev.verified p (lane.val + 1) e runs) p lane e x cause
  have hblk : ((s.dev.verified p (lane.val + 1) e runs).checkShown p lane e x cause).blk? e.block = s.dev.blk? e.block := by
    rw [Dev.blk?, checkShown_blks, hpass.blks]
    rfl
  rw [hpass.rd (r := .mordChecked) (by decide), hpass.rd (r := .mordFailed) (by decide)] at hshown
  rw [hpass.verify] at hverify
  rw [hpass.deadAll] at hdead
  generalize (s.dev.verified p (lane.val + 1) e runs).checkShown p lane e x cause = u at *
  obtain ⟨hchecked, hlast, hmaxCw, htotal, hfly, hfailed⟩ := hshown
  obtain ⟨hcounts, hverify', hend⟩ := mordantEnd_kept u p lane e x cause
  refine ⟨_, hmakes, ?_, ?_, ?_, ?_, ?_, fun h => ?_, fun h => ?_, hlost, hverify'.trans hverify, fun b hb => ?_⟩
  · rw [hcounts _ (by decide), hchecked]
  · rw [hcounts _ (by decide), hlast]
  · rw [hcounts _ (by decide), hmaxCw]
  · rw [hcounts _ (by decide), htotal]
  · rw [hcounts _ (by decide), hfly]
  · rw [hcounts _ (by decide), hfailed, if_pos h]
  · rw [hcounts _ (by decide), hfailed, if_neg h]
  · obtain ⟨hfails, hpasses⟩ := hend b (hblk.trans hb)
    exact ⟨fun h => (hfails h).trans (congrArg (· ++ [e.pba]) hdead), hpasses⟩

end Sys2Proof.Machine
end

section
/-! SUPPORT. Optimum power calibration (O53; R275 to R278). -/

namespace Sys2Proof.Machine

/-! ### The record of a run -/

theorem opcS_updOpc (d : Dev) (p L M : Nat) (f : Opc → Opc) :
    (d.updOpc p L f).opcS p M = if M = L then f (d.opcS p L) else d.opcS p M := by
  rw [Dev.opcS, Dev.updOpc, pkS_updPk_self]
  exact tget_tset _ _ _ _ _

theorem opcS_updOpc_self (d : Dev) (p L : Nat) (f : Opc → Opc) : (d.updOpc p L f).opcS p L = f (d.opcS p L) :=
  (opcS_updOpc d p L L f).trans (if_pos rfl)

theorem onlyChanges_updOpc (d : Dev) (p L : Nat) (f : Opc → Opc) (fs : List Fld) (ps : List Part) :
    d.OnlyChanges (d.updOpc p L f) fs [(.pk, p)] ps := onlyChanges_updPk d p _ (by simp)

theorem testBand_congr {d e : Dev} {p L : Nat} {outer : Bool} (hin : e.rd .opcBandIn [p, L] = d.rd .opcBandIn [p, L])
    (hout : e.rd .opcBandOut [p, L] = d.rd .opcBandOut [p, L]) (hused : (e.opcS p L).innerUsed = (d.opcS p L).innerUsed) :
    e.testBand p L outer = d.testBand p L outer := by
  simp only [Dev.testBand, hin, hout, hused]

theorem testBand_inner {d : Dev} {p L band : Nat} (h : d.testBand p L false = some band) :
    d.rd .opcBandIn [p, L] = band ∧ (d.opcS p L).innerUsed = false := by
  simp only [Dev.testBand, Bool.false_eq_true, if_false] at h
  split at h
  · cases h
  · next hused =>
    split at h
    · exact ⟨Option.some.inj h, by simpa using hused⟩
    · cases h

theorem testBand_outer {d : Dev} {p L band : Nat} (h : d.testBand p L true = some band) :
    d.rd .opcBandOut [p, L] = band ∧ 18229 ≤ band := by
  simp only [Dev.testBand, if_true] at h
  split at h
  · next hb =>
    cases h
    exact ⟨rfl, hb.1⟩
  · cases h

/-! ### What test writing asks for does not depend on the run (R276) -/

/-- The fields that a run writes before its end. -/
def testRows : List Row := [.opcStatus, .opcBandIn, .opcBandOut, .pkWritePwr]

/-- The conditions for test writing are alike in two devices. -/
structure Dev.TestsAlike (d e : Dev) : Prop where
  rd : ∀ r ∉ testRows, ∀ ix, e.rd r ix = d.rd r ix
  pins : e.pins = d.pins
  thermal : e.thermal = d.thermal
  pk : ∀ p, (e.pkS p).lastMark = (d.pkS p).lastMark ∧ (e.pkS p).busOk = (d.pkS p).busOk ∧
    (e.pkS p).goodFocus = (d.pkS p).goodFocus

section
variable {d e g : Dev}

theorem Dev.TestsAlike.trans (h : d.TestsAlike e) (h' : e.TestsAlike g) : d.TestsAlike g :=
  ⟨fun r hr ix => (h'.rd r hr ix).trans (h.rd r hr ix), h'.pins.trans h.pins, h'.thermal.trans h.thermal,
    fun p => ⟨(h'.pk p).1.trans (h.pk p).1, (h'.pk p).2.1.trans (h.pk p).2.1, (h'.pk p).2.2.trans (h.pk p).2.2⟩⟩

theorem testsAlike_of_eq (hr : e.regs = d.regs) (hp : e.pk = d.pk) (hpins : e.pins = d.pins) (ht : e.thermal = d.thermal) :
    d.TestsAlike e := by
  refine ⟨fun r _ ix => by rw [Dev.rd, hr, Dev.rd], hpins, ht, fun p => ?_⟩
  have hpk : e.pkS p = d.pkS p := by rw [Dev.pkS, hp, Dev.pkS]
  rw [hpk]
  exact ⟨rfl, rfl, rfl⟩

theorem testsAlike_wr (d : Dev) {r : Row} (ix : List Nat) (v : Nat) (hr : r ∈ testRows) : d.TestsAlike (d.wr r ix v) :=
  ⟨fun r' hr' ix' => (rd_wr d r r' ix ix' v).trans (if_neg fun he => hr' (by rw [he.1]; exact hr)), rfl, rfl,
    fun _ => ⟨rfl, rfl, rfl⟩⟩

theorem testsAlike_updPk (d : Dev) (p : Nat) {f : Pk → Pk}
    (hf : ∀ k, (f k).lastMark = k.lastMark ∧ (f k).busOk = k.busOk ∧ (f k).goodFocus = k.goodFocus) :
    d.TestsAlike (d.updPk p f) := by
  refine ⟨fun _ _ _ => rfl, rfl, rfl, fun q => ?_⟩
  rw [pkS_updPk]
  split
  · next h => rw [h]; exact hf _
  · exact ⟨rfl, rfl, rfl⟩

theorem testsAlike_updOpc (d : Dev) (p L : Nat) (f : Opc → Opc) : d.TestsAlike (d.updOpc p L f) :=
  testsAlike_updPk d p fun _ => ⟨rfl, rfl, rfl⟩

theorem Dev.TestsAlike.on (h : d.TestsAlike e) {r : Row} (hr : r ∉ testRows) (ix : List Nat) : e.on r ix = d.on r ix := by
  rw [Dev.on, h.rd r hr, Dev.on]

theorem Dev.TestsAlike.rdS (h : d.TestsAlike e) {r : Row} (hr : r ∉ testRows) (ix : List Nat) : e.rdS r ix = d.rdS r ix := by
  rw [Dev.rdS, h.rd r hr, Dev.rdS]

theorem Dev.TestsAlike.channelRuns (h : d.TestsAlike e) (p : Nat) : e.channelRuns p = d.channelRuns p := by
  rw [Dev.channelRuns, Dev.channelRate, h.rdS (r := .spSpeed) (by decide), (h.pk p).1]
  rfl

theorem Dev.TestsAlike.closed (h : d.TestsAlike e) (p x : Nat) : e.closed p x = d.closed p x := by
  rw [Dev.closed, Dev.axState, h.rd .axState (by decide)]
  rfl

theorem Dev.TestsAlike.inWindowAll (h : d.TestsAlike e) (p : Nat) : e.inWindowAll p = d.inWindowAll p := by
  simp only [Dev.inWindowAll, Dev.inBand, Dev.reading, h.thermal, h.on (r := .thAmbEn) (by decide),
    h.rdS (r := .pkTemp) (by decide), h.rdS (r := .thAmb) (by decide), h.rdS (r := .thDie) (by decide)]

theorem Dev.TestsAlike.rowCause (h : d.TestsAlike e) (p : Nat) : e.rowCause p = d.rowCause p := by
  obtain ⟨_, hbus, hfocus⟩ := h.pk p
  unfold Dev.rowCause Dev.spSt Dev.slSt
  rw [h.on (r := .pkMtoLock) (by decide), h.channelRuns, h.rd .spState (by decide), h.rd .pkLaserMask (by decide), h.pins,
    h.closed, h.closed, h.rd .slState (by decide), h.on (r := .pkFail) (by decide), hbus, h.inWindowAll,
    h.on (r := .wgOpen) (by decide), hfocus]

theorem Dev.TestsAlike.mayTest (h : d.TestsAlike e) (p : Nat) : e.mayTest p = d.mayTest p := by
  rw [Dev.mayTest, h.rowCause, h.on (r := .spAtspeed) (by decide), Dev.mayTest]

end

/-! ### A run starts (R275) -/

theorem beginBand_running {d : Dev} {p L : Nat} (h : (d.opcS p L).running = true) :
    d.beginBand p L = d.updOpc p L fun x => { x with void := false, begun := d.mayTest p } := if_pos h

/-- The device in which the run of layer L has started. -/
def Dev.opcRuns (d : Dev) (p L : Nat) : Dev :=
  (d.updOpc p L fun o => { running := true, innerUsed := o.innerUsed, temp := o.temp }).wr .opcStatus [p, L] 1

theorem opcRuns_opcS (d : Dev) (p L : Nat) :
    (d.opcRuns p L).opcS p L = { running := true, innerUsed := (d.opcS p L).innerUsed, temp := (d.opcS p L).temp } :=
  opcS_updOpc_self d p L fun o => { running := true, innerUsed := o.innerUsed, temp := o.temp }

theorem opcRuns_testBand (d : Dev) (p L : Nat) (outer : Bool) : (d.opcRuns p L).testBand p L outer = d.testBand p L outer := by
  refine testBand_congr ?_ ?_ (by rw [opcRuns_opcS])
  · exact (rd_wr _ .opcStatus .opcBandIn _ _ _).trans (if_neg (by simp))
  · exact (rd_wr _ .opcStatus .opcBandOut _ _ _).trans (if_neg (by simp))

theorem opcStart_runs (s : State) (p : Fin 32) (L : Fin 4) (band : Nat) (hpending : (s.dev.opcS p L).pending = true)
    (hrows : (s.dev.pkS p).rows = []) (hidle : ∀ e ∈ (s.dev.pkS p).opc, e.2.running = false) (hok : s.dev.surfaceOk p = true)
    (hfree : s.dev.pickupTaken p = false) (hhoming : ∀ c ∈ s.dev.cmds, c.homing.contains p.val = false)
    (hfail : s.dev.on .pkFail [p.val] = false) (hbus : (s.dev.pkS p).busOk = true) (hspin : s.dev.spSt (spindleOf p) = spRun)
    (hband : s.dev.testBand p L false = some band) :
    ∃ d, MakesThenRuns (.opcStart p L) s d ∧ (d.opcS p L).running = true ∧ (d.opcS p L).pending = false ∧
      (d.opcS p L).begun = s.dev.mayTest p ∧ d.rd .opcStatus [p.val, L.val] = 1 ∧ d.testBand p L false = some band ∧
      s.dev.OnlyChanges d [⟨.opcStatus, [p.val, L.val]⟩] [(.pk, p.val)] [] := by
  have hopc := opcRuns_opcS s.dev p L
  have hbegin := beginBand_running (d := s.dev.opcRuns p L) (p := p) (L := L) (by rw [hopc])
  have htest : (s.dev.opcRuns p L).mayTest p = s.dev.mayTest p :=
    ((testsAlike_updOpc s.dev p L _).trans (testsAlike_wr _ _ _ (by decide))).mayTest p
  have hbegun : ((s.dev.opcRuns p L).beginBand p L).opcS p L =
      { (s.dev.opcRuns p L).opcS p L with void := false, begun := s.dev.mayTest p } := by
    rw [hbegin, opcS_updOpc_self, htest]
  have hquiet : ¬((s.dev.pkS p).opc.any (fun e => e.2.running) = true) := by simpa using hidle
  have hhomed : ¬(s.dev.cmds.any (fun c => c.homing.contains p.val) = true) := by simpa using hhoming
  have hmakes : MakesThenRuns (.opcStart p L) s ((s.dev.opcRuns p L).beginBand p L) := by
    refine makesThenRuns_of_eq rfl ?_
    refine (if_neg ?_).trans (if_pos ?_)
    · simp only [hpending, hrows, hquiet, hok, hfree, hhomed, hfail, hbus, hspin]
      simp
    · exact (congrArg Option.isSome ((opcRuns_testBand s.dev p L false).trans hband)).trans rfl
  refine ⟨_, hmakes, ?_, ?_, ?_, ?_, ?_, ?_⟩
  · rw [hbegun, hopc]
  · rw [hbegun, hopc]
  · rw [hbegun]
  · rw [hbegin]
    exact rd_wr_self _ .opcStatus _ 1 (by decide)
  · refine (testBand_congr ?_ ?_ ?_).trans ((opcRuns_testBand s.dev p L false).trans hband)
    · rw [hbegin]; rfl
    · rw [hbegin]; rfl
    · rw [hbegun]
  · rw [hbegin]
    refine (onlyChanges_updOpc _ _ _ _ _ _).trans ((onlyChanges_wr _ _ _ _ ?_).trans (onlyChanges_updOpc _ _ _ _ _ _))
    simp

/-! ### A run is asked for (R275, Table 08-11) -/

theorem wantOpc_opcS (d : Dev) (p L : Nat) (M : Nat) : (d.wantOpc p L).opcS p M =
    if M = L then (if (d.opcS p L).running then d.opcS p L else { d.opcS p L with pending := true }) else d.opcS p M := by
  have hkept : (d.wantOpc p L).opcS p M = (d.updOpc p L fun o => if o.running then o else { o with pending := true }).opcS p M :=
    foldl_kept (fun x : Dev => x.opcS p M) _ (by exact fun _ _ => rfl) _ _
  rw [hkept, opcS_updOpc]

theorem wantOpc_rd (d : Dev) (p L : Nat) {r : Row} (h : r ≠ .wsValid) (ix : List Nat) : (d.wantOpc p L).rd r ix = d.rd r ix :=
  foldl_kept (fun x : Dev => x.rd r ix) _ (fun x _ => (rd_wr x .wsValid r _ _ _).trans (if_neg fun he => h he.1)) _ _

theorem wantOpc_wsValid (d : Dev) (p L M z : Nat) (hz : z < 8) : (d.wantOpc p L).rd .wsValid [p, M, z] =
    if M = L then 0 else d.rd .wsValid [p, M, z] := by
  by_cases hM : M = L
  · subst hM
    rw [if_pos rfl]
    refine foldl_own (fun x : Dev => x.rd .wsValid [p, M, z]) (fun _ => 0) _ z (fun a c hc => ⟨?_, rfl⟩) (fun a => ?_) _
      List.nodup_range (List.mem_range.2 hz) _
    · exact (rd_wr _ _ _ _ _ _).trans (if_neg (by simp [Ne.symm hc]))
    · exact (rd_wr _ _ _ _ _ _).trans (if_pos ⟨rfl, rfl⟩)
  · rw [if_neg hM]
    refine foldl_kept (fun x : Dev => x.rd .wsValid [p, M, z]) _ (fun a c => ?_) _ _
    exact (rd_wr _ _ _ _ _ _).trans (if_neg (by simp [hM]))

theorem opcReq_asks (s : State) (p : Fin 32) (hready : s.dev.ready = true) :
    ∃ d, Makes (.opcReq p) s d ∧
      (∀ L, L < 4 → (s.dev.opcS p L).running = false → (d.opcS p L).pending = true) ∧
      (∀ L z, L < 4 → z < 8 → d.rd .wsValid [p, L, z] = 0) ∧
      (∀ r ix, r ≠ .wsValid → d.rd r ix = s.dev.rd r ix) := by
  have hmakes : Makes (.opcReq p) s ((List.range 4).foldl (fun (d : Dev) L => d.wantOpc p L) s.dev) :=
    hostAct_ready s (fun d => (List.range 4).foldl (fun (d : Dev) L => d.wantOpc p L) d) hready
  refine ⟨_, hmakes, fun L hL hrun => ?_, fun L z hL hz => ?_, fun r ix hr => ?_⟩
  · have hown := foldl_own (fun x : Dev => x.opcS p L)
      (fun x => if (x.opcS p L).running then x.opcS p L else { x.opcS p L with pending := true })
      (fun (x : Dev) M => x.wantOpc p M) L (fun a c hc => ?_) (fun a => (wantOpc_opcS a p L L).trans (if_pos rfl))
      (List.range 4) List.nodup_range (List.mem_range.2 hL) s.dev
    · rw [hown, if_neg (by simp [hrun])]
    · have hkept : (a.wantOpc p c).opcS p L = a.opcS p L := (wantOpc_opcS a p c L).trans (if_neg (Ne.symm hc))
      exact ⟨hkept, by rw [hkept]⟩
  · refine foldl_own (fun x : Dev => x.rd .wsValid [p.val, L, z]) (fun _ => 0) (fun (x : Dev) M => x.wantOpc p M) L
      (fun a c hc => ⟨?_, rfl⟩) (fun a => (wantOpc_wsValid a p L L z hz).trans (if_pos rfl)) _ List.nodup_range
      (List.mem_range.2 hL) _
    exact (wantOpc_wsValid a p c L z hz).trans (if_neg (Ne.symm hc))
  · exact foldl_kept (fun x : Dev => x.rd r ix) _ (fun a M => wantOpc_rd a p M hr ix) _ _

end Sys2Proof.Machine
end

section
/-! SUPPORT. The test bands of an optimum power calibration, its end, and the obligation (O53; R276 to R278, R295). -/

namespace Sys2Proof.Machine

/-! ### A band that shows marks (R276) -/

/-- The device in which a band of the outer end that shows marks has been passed over. -/
def Dev.outerBandMarked (d : Dev) (p L band : Nat) : Dev := (d.fresh.2.useBand p L true).opcUse p L true 2 band [] 0

theorem outerBandMarked_testsAlike (d : Dev) (p L band : Nat) : d.TestsAlike (d.outerBandMarked p L band) :=
  (testsAlike_of_eq rfl rfl rfl rfl : d.TestsAlike d.fresh.2).trans <|
    (testsAlike_wr d.fresh.2 (r := .opcBandOut) [p, L] _ (by decide)).trans (testsAlike_of_eq rfl rfl rfl rfl)

theorem outerBandMarked_opcS (d : Dev) (p L band : Nat) : (d.outerBandMarked p L band).opcS p L = d.opcS p L := rfl

theorem outerBandMarked_rd {d : Dev} {p L band : Nat} (h : d.rd .opcBandOut [p, L] = band) (hlt : band < 18488) :
    (d.outerBandMarked p L band).rd .opcBandOut [p, L] = band + 1 := by
  refine (rd_wr_self d.fresh.2 .opcBandOut [p, L] (d.rd .opcBandOut [p, L] + 1) ?_).trans (by rw [h])
  rw [h]
  exact lt_of_lt_of_le (by omega : band + 1 < 18489) (by decide)

theorem opcBandDone_marked (s : State) (p : Fin 32) (L : Fin 4) (band : Nat) (samples errors : List (List (List Int)))
    (hrun : (s.dev.opcS p L).running = true) (houter : (s.dev.opcS p L).outer = true)
    (hband : s.dev.testBand p L true = some band) (hlt : band < 18488) :
    ∃ d, MakesThenRuns (.opcBandDone p L true samples errors) s d ∧
      d.rd .opcBandOut [p.val, L.val] = band + 1 ∧
      d.opcS p L = { s.dev.opcS p L with void := false, begun := s.dev.mayTest p } := by
  obtain ⟨hout, hlow⟩ := testBand_outer hband
  have hrd := outerBandMarked_rd hout hlt
  have hopc := outerBandMarked_opcS s.dev p L band
  have hleft : ((s.dev.outerBandMarked p L band).testBand p L true).isSome = true := by
    simp only [Dev.testBand, if_true, hrd]
    rw [if_pos (by omega)]
    rfl
  have hbegin : (s.dev.outerBandMarked p L band).beginBand p L = (s.dev.outerBandMarked p L band).updOpc p L fun x =>
      { x with void := false, begun := s.dev.mayTest p } := by
    rw [beginBand_running (hopc.symm ▸ hrun), (outerBandMarked_testsAlike s.dev p L band).mayTest]
  refine ⟨(s.dev.outerBandMarked p L band).beginBand p L, makesThenRuns_of_eq rfl ?_, ?_, ?_⟩
  · refine (if_neg (by simp [hrun])).trans ?_
    simp only [houter, hband, if_true]
    exact if_pos hleft
  · rw [hbegin]
    exact hrd
  · rw [hbegin, opcS_updOpc_self, hopc]

/-! ### A run that waits for the conditions for writing (R276, log entry 158) -/

theorem opcBandDone_waits (s : State) (p : Fin 32) (L : Fin 4) (samples errors : List (List (List Int)))
    (hbegun : (s.dev.opcS p L).begun = false) (hmay : s.dev.mayTest p = false) :
    MakesThenRuns (.opcBandDone p L false samples errors) s s.dev :=
  makesThenRuns_of_eq rfl (if_pos (.inr (by simp [hbegun, hmay])))

/-! ### The band of the inner end that gives its result (R276) -/

theorem settingWrite_opcS (d : Dev) (p reg data q L : Nat) : (d.settingWrite p reg data).opcS q L = d.opcS q L := by
  have hopc : ∀ (x : Dev) (f : Pk → Pk), (∀ k, (f k).opc = k.opc) → (x.updPk p f).opcS q L = x.opcS q L := fun x f hf => by
    simp only [Dev.opcS, pkS_updPk]
    split
    · next h => rw [hf, h]
    · rfl
  unfold Dev.settingWrite
  split
  · rw [hopc, Dev.busWrite, hopc] <;> exact fun _ => rfl
  · rw [hopc]
    exact fun _ => rfl

theorem settingWrite_out (d : Dev) (p reg data : Nat) : (d.settingWrite p reg data).out = d.out := by
  unfold Dev.settingWrite
  split <;> rfl

theorem settingWrite_rd (d : Dev) (p reg data : Nat) (r : Row) (ix : List Nat) :
    (d.settingWrite p reg data).rd r ix = d.rd r ix := by
  unfold Dev.settingWrite
  split <;> rfl

/-- The device in which the write powers have gone to the pickup (R276). -/
def Dev.powersSent (d : Dev) (p : Nat) (powers : List Nat) : Dev :=
  (List.range 7).foldl (fun (d : Dev) i =>
    (d.wr .pkWritePwr [p, i] (powers.getD i 0)).settingWrite p (0x21 + i) (powers.getD i 0)) d

section
variable (d : Dev) (p : Nat) (powers : List Nat)

theorem powersSent_opcS (L : Nat) : (d.powersSent p powers).opcS p L = d.opcS p L :=
  foldl_kept (fun x : Dev => x.opcS p L) _ (fun x i => settingWrite_opcS (x.wr .pkWritePwr [p, i] (powers.getD i 0)) p _ _ p L) _ d

theorem powersSent_rd {r : Row} (h : r ≠ .pkWritePwr) (ix : List Nat) : (d.powersSent p powers).rd r ix = d.rd r ix :=
  foldl_kept (fun x : Dev => x.rd r ix) _
    (fun _ _ => (settingWrite_rd _ p _ _ r ix).trans ((rd_wr _ _ _ _ _ _).trans (if_neg fun he => h he.1))) _ d

theorem powersSent_out : (d.powersSent p powers).out = d.out :=
  foldl_kept Dev.out _ (fun x i => settingWrite_out (x.wr .pkWritePwr [p, i] (powers.getD i 0)) p _ _) _ d

theorem powersSent_power {i : Nat} (hi : i < 7) (hlt : powers.getD i 0 < 2 ^ 16) :
    (d.powersSent p powers).rd .pkWritePwr [p, i] = powers.getD i 0 := by
  refine foldl_own (fun x : Dev => x.rd .pkWritePwr [p, i]) (fun _ => powers.getD i 0) _ i (fun a c hc => ⟨?_, rfl⟩) (fun a => ?_) _
    List.nodup_range (List.mem_range.2 hi) d
  · exact (settingWrite_rd _ p _ _ _ _).trans ((rd_wr _ _ _ _ _ _).trans (if_neg (by simp [Ne.symm hc])))
  · exact (settingWrite_rd _ p _ _ _ _).trans (rd_wr_self _ .pkWritePwr _ _ hlt)

end

/-- Sectors 0 to 10 of a band of the inner end are written, and the band is used (R276). -/
def Dev.sweepWritten (d : Dev) (p L band : Nat) : Dev :=
  (d.fresh.2.emit (.testBand p L band (d.sweepSectors p L))).inc .opcBandIn [p, L]

/-- Sectors 11 to 15 are written, and the result of the inner end is noted (R276). -/
def Dev.resultNoted (d : Dev) (p L band : Nat) (powers : List Nat) (h : Int) : Dev :=
  ((d.emit (.testBand p L band ((List.range 5).map fun i => (powers, (i : Int) - 2)))).opcUse p L false 0 band powers h).updOpc p L
    fun x => { x with inner := some (powers, h, band) }

/-- A band of the inner end has given the powers and the shift h. -/
def Dev.innerFound (d : Dev) (p L band : Nat) (powers : List Nat) (h : Int) : Dev :=
  ((d.sweepWritten p L band).powersSent p powers).resultNoted p L band powers h

section
variable (d : Dev) (p L band : Nat) (powers : List Nat) (h : Int)

theorem resultNoted_opcS : (d.resultNoted p L band powers h).opcS p L = { d.opcS p L with inner := some (powers, h, band) } :=
  opcS_updOpc_self _ p L fun x => { x with inner := some (powers, h, band) }

theorem resultNoted_rd (r : Row) (ix : List Nat) : (d.resultNoted p L band powers h).rd r ix = d.rd r ix := rfl

theorem resultNoted_out : (d.resultNoted p L band powers h).out =
    d.out ++ [.testBand p L band ((List.range 5).map fun i => (powers, (i : Int) - 2))] := rfl

theorem sweepWritten_opcS : (d.sweepWritten p L band).opcS p L = d.opcS p L := rfl

theorem sweepWritten_rd {r : Row} (hr : r ≠ .opcBandIn) (ix : List Nat) : (d.sweepWritten p L band).rd r ix = d.rd r ix :=
  (rd_wr _ .opcBandIn r _ _ _).trans (if_neg fun he => hr he.1)

theorem sweepWritten_band (hband : d.rd .opcBandIn [p, L] = band) (hlt : band < 65535) :
    (d.sweepWritten p L band).rd .opcBandIn [p, L] = band + 1 := by
  refine (rd_wr_self _ .opcBandIn _ (d.rd .opcBandIn [p, L] + 1) ?_).trans (by rw [hband])
  rw [hband]
  exact lt_of_lt_of_le (by omega : band + 1 < 65536) (by decide)

theorem sweepWritten_out : (d.sweepWritten p L band).out = d.out ++ [.testBand p L band (d.sweepSectors p L)] := rfl

theorem innerFound_opcS : (d.innerFound p L band powers h).opcS p L = { d.opcS p L with inner := some (powers, h, band) } := by
  rw [Dev.innerFound, resultNoted_opcS, powersSent_opcS, sweepWritten_opcS]

theorem innerFound_rd {r : Row} (hr : r ≠ .pkWritePwr) (hr' : r ≠ .opcBandIn) (ix : List Nat) :
    (d.innerFound p L band powers h).rd r ix = d.rd r ix := by
  rw [Dev.innerFound, resultNoted_rd, powersSent_rd _ p powers hr, sweepWritten_rd d p L band hr']

theorem innerFound_band (hband : d.rd .opcBandIn [p, L] = band) (hlt : band < 65535) :
    (d.innerFound p L band powers h).rd .opcBandIn [p, L] = band + 1 := by
  rw [Dev.innerFound, resultNoted_rd, powersSent_rd _ p powers (by decide), sweepWritten_band d p L band hband hlt]

theorem innerFound_power {i : Nat} (hi : i < 7) (hlt : powers.getD i 0 < 2 ^ 16) :
    (d.innerFound p L band powers h).rd .pkWritePwr [p, i] = powers.getD i 0 := by
  rw [Dev.innerFound, resultNoted_rd, powersSent_power _ p powers hi hlt]

theorem innerFound_out : (d.innerFound p L band powers h).out = d.out ++ [.testBand p L band (d.sweepSectors p L),
    .testBand p L band ((List.range 5).map fun i => (powers, (i : Int) - 2))] := by
  rw [Dev.innerFound, resultNoted_out, powersSent_out, sweepWritten_out, List.append_assoc, List.singleton_append]

end

theorem rd_emit (d : Dev) (m : Msg) (r : Row) (ix : List Nat) : (d.emit m).rd r ix = d.rd r ix := rfl

theorem rd_fresh (d : Dev) (r : Row) (ix : List Nat) : d.fresh.2.rd r ix = d.rd r ix := rfl

theorem testBand_outer_congr {d e : Dev} {p L : Nat} (h : e.rd .opcBandOut [p, L] = d.rd .opcBandOut [p, L]) :
    e.testBand p L true = d.testBand p L true := by
  simp only [Dev.testBand, h, if_true]

theorem beginBand_eq (d : Dev) (p L : Nat) :
    d.beginBand p L = d ∨ d.beginBand p L = d.updOpc p L fun x => { x with void := false, begun := d.mayTest p } := by
  unfold Dev.beginBand
  split
  · exact .inr rfl
  · exact .inl rfl

/-- Whether or not a band begins, its run goes on as it was. -/
theorem beginBand_kept (d : Dev) (p L : Nat) : (∀ r ix, (d.beginBand p L).rd r ix = d.rd r ix) ∧ (d.beginBand p L).out = d.out ∧
    ((d.beginBand p L).opcS p L).inner = (d.opcS p L).inner ∧ ((d.beginBand p L).opcS p L).outer = (d.opcS p L).outer := by
  obtain h | h := beginBand_eq d p L
  · rw [h]
    exact ⟨fun _ _ => rfl, rfl, rfl, rfl⟩
  · rw [h, opcS_updOpc_self]
    exact ⟨fun _ _ => rfl, rfl, rfl, rfl⟩

/-- The outer end follows the inner one (R276). -/
def Dev.outerNext (d : Dev) (p L : Nat) : Dev := (d.updOpc p L fun x => { x with outer := true, tried := 0 }).beginBand p L

theorem nextEnd_outer {d : Dev} {p L : Nat} (hin : (d.opcS p L).outer = false) (hband : (d.testBand p L true).isSome = true) :
    (d.nextEnd p L).beginBand p L = d.outerNext p L := by
  have hsome : ((d.updOpc p L fun x => { x with outer := true, tried := 0 }).testBand p L true).isSome = true :=
    (congrArg Option.isSome (testBand_outer_congr rfl)).trans hband
  unfold Dev.nextEnd
  simp only [hin]
  rw [if_neg (by simp), if_pos hsome]
  rfl

section
variable {s : State} {p : Fin 32} {L : Fin 4} {band : Nat} {samples errors : List (List (List Int))} {powers : List Nat}

theorem opcBandDone_found (hrun : (s.dev.opcS p L).running = true) (hin : (s.dev.opcS p L).outer = false)
    (hvoid : (s.dev.opcS p L).void = false) (hmay : s.dev.mayTest p = true) (hband : s.dev.testBand p L false = some band)
    (hnext : (s.dev.testBand p L true).isSome = true) (hlt : band < 65535)
    (hpowers : powers.map some = (List.range 7).map fun i =>
      optimumPower (s.dev.rd .opcPcenter [p.val, L.val]) (1000 * s.dev.rdS .opcBetaTgt [p.val]) 0
        (((samples.getD i []).take 11).map (betaOf (ofTwos 32 s.dev.fresh.1))))
    (hrange : ∀ x ∈ powers, 4000 ≤ x ∧ x ≤ 20000) :
    MakesThenRuns (.opcBandDone p L false samples errors) s ((s.dev.innerFound p L band powers
      (bestShift ((errors.take 7).map fun l => l.map (sectorEye s.dev.fresh.1)))).outerNext p L) := by
  obtain ⟨hbandIn, _⟩ := testBand_inner hband
  have hmay' : s.dev.fresh.2.mayTest p = true := hmay
  have hcause : powers.any (fun x => decide (x < 4000 ∨ 20000 < x)) = false := by
    rw [List.any_eq_false]
    intro x hx
    have := hrange x hx
    simp
    omega
  refine makesThenRuns_of_eq rfl ((if_neg (by simp [hrun, hmay])).trans ?_)
  have hpks : ((List.range 7).map fun i => optimumPower (s.dev.fresh.2.rd .opcPcenter [p.val, L.val])
      (1000 * s.dev.fresh.2.rdS .opcBetaTgt [p.val]) 0 (((samples.getD i []).take 11).map (betaOf (ofTwos 32 s.dev.fresh.1)))) =
      powers.map some := hpowers.symm
  have hnone : (powers.map some).any Option.isNone = false := by simp
  have hget : (powers.map some).map (fun x => x.getD 0) = powers := by simp
  have huse : (s.dev.fresh.2.emit (.testBand p L band (s.dev.fresh.2.sweepSectors p L))).useBand p L false =
      s.dev.sweepWritten p L band := (if_neg (by simp)).trans (if_neg (by rw [rd_emit, rd_fresh]; omega))
  simp only [hin, hband, Bool.false_eq_true, if_false, hvoid, hmay', Bool.not_true, Bool.or_false, hpks, hnone, hget, hcause, huse]
  refine nextEnd_outer (d := s.dev.innerFound p L band powers _) ?_ ?_
  · rw [innerFound_opcS]
    exact hin
  · rw [testBand_outer_congr (innerFound_rd _ _ _ _ _ _ (by decide) (by decide) _)]
    exact hnext

end

theorem opcBandDone_innerResult (s : State) (p : Fin 32) (L : Fin 4) (band : Nat) (samples errors : List (List (List Int)))
    (powers : List Nat) (hrun : (s.dev.opcS p L).running = true) (hin : (s.dev.opcS p L).outer = false)
    (hvoid : (s.dev.opcS p L).void = false) (hmay : s.dev.mayTest p = true) (hband : s.dev.testBand p L false = some band)
    (hnext : (s.dev.testBand p L true).isSome = true) (hlt : band < 65535)
    (hpowers : powers.map some = (List.range 7).map fun i =>
      optimumPower (s.dev.rd .opcPcenter [p.val, L.val]) (1000 * s.dev.rdS .opcBetaTgt [p.val]) 0
        (((samples.getD i []).take 11).map (betaOf (ofTwos 32 s.dev.fresh.1))))
    (hrange : ∀ x ∈ powers, 4000 ≤ x ∧ x ≤ 20000) :
    ∃ d, MakesThenRuns (.opcBandDone p L false samples errors) s d ∧
      (d.opcS p L).inner = some (powers, bestShift ((errors.take 7).map fun l => l.map (sectorEye s.dev.fresh.1)), band) ∧
      (d.opcS p L).outer = true ∧ d.rd .opcBandIn [p.val, L.val] = band + 1 ∧
      (∃ more, d.out = s.dev.out ++ .testBand p L band ((List.range 11).map fun i =>
        (List.replicate 7 (roundDiv ((s.dev.rd .opcPcenter [p.val, L.val] : Int) * (70 + 6 * (i : Int))) 100).toNat, 0)) :: more) ∧
      ∀ i, i < 7 → d.rd .pkWritePwr [p.val, i] = powers.getD i 0 := by
  have hmakes := opcBandDone_found (errors := errors) hrun hin hvoid hmay hband hnext hlt hpowers hrange
  generalize bestShift ((errors.take 7).map fun l => l.map (sectorEye s.dev.fresh.1)) = h at hmakes ⊢
  have hpower : ∀ i, powers.getD i 0 < 2 ^ 16 := fun i => by
    rw [List.getD_eq_getElem?_getD]
    cases hi : powers[i]? with
    | none => simp
    | some x =>
      have hx := (hrange x (List.mem_of_getElem? hi)).2
      rw [Option.getD_some]
      omega
  have hopc := innerFound_opcS s.dev p L band powers h
  have hbandIn := innerFound_band s.dev p L band powers h (testBand_inner hband).1 hlt
  have hpowers := fun i hi => innerFound_power s.dev p L band powers h (i := i) hi (hpower i)
  have hout := innerFound_out s.dev p L band powers h
  generalize s.dev.innerFound p L band powers h = e at *
  obtain ⟨hrd, hout', hinner, houter⟩ := beginBand_kept (e.updOpc p L fun x => { x with outer := true, tried := 0 }) p L
  rw [opcS_updOpc_self] at hinner houter
  refine ⟨_, hmakes, ?_, houter, ?_, ⟨_, hout'.trans hout⟩, fun i hi => ?_⟩
  · rw [Dev.outerNext, hinner, hopc]
  · exact (hrd _ _).trans hbandIn
  · exact (hrd _ _).trans (hpowers i hi)

end Sys2Proof.Machine
end

section
/-! SUPPORT. The end of an optimum power calibration, and the obligation on checks and calibrations (O53; R240, R277, R278,
R295). -/

namespace Sys2Proof.Machine

/-! ### The sets that a run fills (R277) -/

/-- The set of zone z holds the powers, the shift h and the base values of the layer. -/
def Dev.setStored (d : Dev) (p L z : Nat) (power : Nat → Nat) (h : Int) : Dev :=
  let clamp := fun (v : Int) => max (-16) (min 15 v)
  let d := (List.range 7).foldl (fun d i => d.wr .wsPwr [p, L, z, i] (power i)) d
  let d := (List.range 4).foldl (fun d m =>
    (d.wrS .wsDttop0 [p, L, z, m] (clamp (d.rdS .baseDttop0 [p, L, m] + h))).wrS .wsDttop1 [p, L, z, m]
      (clamp (d.rdS .baseDttop1 [p, L, m] + h))) d
  let d := (List.range 3).foldl (fun d m =>
    (d.wr .wsTtop [p, L, z, m] (d.rd .baseTtop [p, L, m])).wr .wsTlp [p, L, z, m] (d.rd .baseTlp [p, L, m])) d
  let d := (List.range 4).foldl (fun d m => d.wr .wsTcl [p, L, z, m] (d.rd .baseTcl [p, L, m])) d
  d.wr .wsTmp [p, L, z] (d.rd .baseTmp [p, L])

/-- What a write of no VALID bit leaves, the storing of a set leaves. -/
theorem setStored_kept {γ : Type} (P : Dev → γ) (hP : ∀ (d : Dev) r ix v, r ≠ .wsValid → P (d.wr r ix v) = P d)
    (d : Dev) (p L z : Nat) (power : Nat → Nat) (h : Int) : P (d.setStored p L z power h) = P d := by
  refine (hP _ _ _ _ (by decide)).trans ?_
  refine (foldl_kept P _ (fun x m => hP _ _ _ _ (by decide)) _ _).trans ?_
  refine (foldl_kept P _ (fun x m => (hP _ _ _ _ (by decide)).trans (hP _ _ _ _ (by decide))) _ _).trans ?_
  refine (foldl_kept P _ (fun x m => (hP _ _ _ _ (by decide)).trans (hP _ _ _ _ (by decide))) _ _).trans ?_
  exact foldl_kept P _ (fun x m => hP _ _ _ _ (by decide)) _ _

/-- The set of zone z is stored, and valid. -/
def Dev.setFilled (d : Dev) (p L z : Nat) (power : Nat → Nat) (h : Int) : Dev :=
  (d.setStored p L z power h).wr .wsValid [p, L, z] 1

theorem setFilled_wsValid (d : Dev) (p L z : Nat) (power : Nat → Nat) (h : Int) (y : Nat) :
    (d.setFilled p L z power h).rd .wsValid [p, L, y] = if y = z then 1 else d.rd .wsValid [p, L, y] := by
  by_cases hy : y = z
  · rw [if_pos hy, hy]
    exact rd_wr_self _ .wsValid _ 1 (by decide)
  · rw [if_neg hy]
    refine ((rd_wr _ _ _ _ _ _).trans (if_neg (by simp [hy]))).trans ?_
    exact setStored_kept (fun x => x.rd .wsValid [p, L, y])
      (fun x r ix v hr => (rd_wr _ _ _ _ _ _).trans (if_neg fun he => hr he.1.symm)) d p L z power h

/-- A value of a zone between those of the two ends (R277). -/
def opcBlend (inn out : List Nat × Int × Nat) (single : Bool) (z : Nat) (a b : Int) : Int :=
  if single then a
  else a + roundDiv ((b - a) * (zoneRadius z - testRadius inn.2.2)) (testRadius out.2.2 - testRadius inn.2.2)

theorem fillSets_eq (d : Dev) (p L : Nat) (inn out : List Nat × Int × Nat) (single : Bool) :
    d.fillSets p L inn out single = (List.range 8).foldl (fun d z => d.setFilled p L z
      (fun i => (opcBlend inn out single z (inn.1.getD i 0) (out.1.getD i 0)).toNat)
      (opcBlend inn out single z inn.2.1 out.2.1)) d := rfl

theorem fillSets_valid (d : Dev) (p L : Nat) (inn out : List Nat × Int × Nat) (single : Bool) {z : Nat} (hz : z < 8) :
    (d.fillSets p L inn out single).rd .wsValid [p, L, z] = 1 := by
  rw [fillSets_eq]
  refine foldl_own (fun x : Dev => x.rd .wsValid [p, L, z]) (fun _ => 1) _ z (fun a c hc => ⟨?_, rfl⟩) (fun a => ?_) _
    List.nodup_range (List.mem_range.2 hz) d
  · exact (setFilled_wsValid _ _ _ _ _ _ _).trans (if_neg (Ne.symm hc))
  · exact (setFilled_wsValid _ _ _ _ _ _ _).trans (if_pos rfl)

/-- The sets are registers only. -/
theorem fillSets_kept {γ : Type} (P : Dev → γ) (hP : ∀ (d : Dev) r ix v, P (d.wr r ix v) = P d) (d : Dev) (p L : Nat)
    (inn out : List Nat × Int × Nat) (single : Bool) : P (d.fillSets p L inn out single) = P d := by
  rw [fillSets_eq]
  exact foldl_kept P _ (fun x z => (hP _ _ _ _).trans (setStored_kept P (fun _ _ _ _ _ => hP _ _ _ _) _ _ _ _ _ _)) _ d

/-! ### A run with a result of each end (R277, R278) -/

/-- The device in which the run of layer L is over, and its temperature kept (R275). -/
def Dev.runOver (d : Dev) (p L : Nat) : Dev :=
  (d.updOpc p L fun x => { pending := x.pending, innerUsed := x.innerUsed, temp := some (d.rdS .pkTemp [p]) }).afterOpc p L

theorem runOver_running (d : Dev) (p L : Nat) : ((d.runOver p L).opcS p L).running = false := by
  have hsick : ∀ x : Dev, (x.afterOpc p L).opcS p L = x.opcS p L := fun x => by
    rw [Dev.opcS, Dev.afterOpc, pkS_updPk_self]
    rfl
  rw [Dev.runOver, hsick, opcS_updOpc_self]

/-- The temperature t of a run is kept, and its status shown (R275, R277). -/
def Dev.runShown (d : Dev) (p L : Nat) (t : Int) : Dev := (d.wrS .opcTempLast [p, L] t).wr .opcStatus [p, L] 2

section
variable (d : Dev) (p L : Nat) (t : Int)

theorem runShown_status : (d.runShown p L t).rd .opcStatus [p, L] = 2 := rd_wr_self _ .opcStatus _ 2 (by decide)

theorem runShown_wsValid (ix : List Nat) : (d.runShown p L t).rd .wsValid ix = d.rd .wsValid ix :=
  ((rd_wr _ _ _ _ _ _).trans (if_neg (by simp))).trans ((rd_wrS _ _ _ _ _ _).trans (if_neg (by simp)))

theorem runShown_raiseFor (os : List Origin) (src code : Nat) (b : Bytes) :
    ((d.runShown p L t).raiseFor os src code b).rd .opcStatus [p, L] = 2 ∧
    ((d.runShown p L t).raiseFor os src code b).opcS p L = d.opcS p L ∧
    (∀ ix, ((d.runShown p L t).raiseFor os src code b).rd .wsValid ix = d.rd .wsValid ix) ∧
    ((d.runShown p L t).raiseFor os src code b).raised = d.raised ++ [⟨src, code, b⟩] :=
  ⟨runShown_status d p L t, rfl, runShown_wsValid d p L t, rfl⟩

end

/-- The device in which a run with the results a and b has filled its sets, before it is reported. -/
def Dev.opcFilled (d : Dev) (p L : Nat) (a b : List Nat × Int × Nat) : Dev :=
  ((d.runOver p L).fillSets p L a b false).runShown p L ((d.runOver p L).rdS .pkTemp [p])

theorem opcEnd_both {d : Dev} {p L : Nat} {a b : List Nat × Int × Nat} (ha : (d.opcS p L).inner = some a)
    (hb : (d.opcS p L).outerResult = some b) :
    d.opcEnd p L = (d.opcFilled p L a b).raiseFor (((d.opcFilled p L a b).cmds.filter fun c => c.op == 0x18).map Cmd.origin)
      (32 * p + 21) evOpcDone
      (L :: (((List.range 7).flatMap fun i => le 2 (a.1.getD i 0)) ++ (List.range 7).flatMap fun i => le 2 (b.1.getD i 0))) := by
  unfold Dev.opcEnd
  simp only [ha, hb]
  rfl

theorem opcEnd_reports (d : Dev) (p L : Nat) (a b : List Nat × Int × Nat) (ha : (d.opcS p L).inner = some a)
    (hb : (d.opcS p L).outerResult = some b) :
    (d.opcEnd p L).rd .opcStatus [p, L] = 2 ∧ ((d.opcEnd p L).opcS p L).running = false ∧
    (∀ z, z < 8 → (d.opcEnd p L).rd .wsValid [p, L, z] = 1) ∧
    (d.opcEnd p L).raised = d.raised ++ [⟨32 * p + 21, evOpcDone,
      L :: (((List.range 7).flatMap fun i => le 2 (a.1.getD i 0)) ++ (List.range 7).flatMap fun i => le 2 (b.1.getD i 0))⟩] := by
  have hopc : ((d.runOver p L).fillSets p L a b false).opcS p L = (d.runOver p L).opcS p L :=
    fillSets_kept (fun x : Dev => x.opcS p L) (fun _ _ _ _ => rfl) (d.runOver p L) p L a b false
  have hraised : ((d.runOver p L).fillSets p L a b false).raised = d.raised :=
    fillSets_kept Dev.raised (fun _ _ _ _ => rfl) (d.runOver p L) p L a b false
  rw [opcEnd_both ha hb, Dev.opcFilled]
  obtain ⟨hstatus, hrun, hvalid, hadded⟩ := runShown_raiseFor ((d.runOver p L).fillSets p L a b false) p L
    ((d.runOver p L).rdS .pkTemp [p]) (((d.opcFilled p L a b).cmds.filter fun c => c.op == 0x18).map Cmd.origin) (32 * p + 21)
    evOpcDone (L :: (((List.range 7).flatMap fun i => le 2 (a.1.getD i 0)) ++ (List.range 7).flatMap fun i => le 2 (b.1.getD i 0)))
  rw [hopc] at hrun
  rw [hraised] at hadded
  refine ⟨hstatus, ?_, fun z hz => (hvalid _).trans (fillSets_valid _ p L a b false hz), hadded⟩
  exact (congrArg Opc.running hrun).trans (runOver_running d p L)

/-! ### Copies that have waited (R295) -/

theorem reallocWaitExpiry_due (s : State) (p : Fin 32) (L : Fin 4)
    (h : (tget ({} : Realloc) (s.dev.pkS p).realloc L).queue ≠ []) :
    ∃ d, Makes (.reallocWaitExpiry p L) s d ∧ (tget ({} : Realloc) (d.pkS p).realloc L).due = true ∧
      s.dev.OnlyChanges d [] [(.pk, p.val)] [] := by
  refine ⟨_, makes_of_eq rfl (if_neg h), ?_, onlyChanges_updPk _ _ _ (by simp)⟩
  rw [pkS_updPk_self]
  simp

/-- Settles O53: the check by the chain of its pass, its figures and its judgement (`mordantCheck_counts`), and one lemma per step
of a calibration. -/
theorem checksAndPowerCalibrations : Obligations.ChecksAndPowerCalibrations := by
  unfold Obligations.ChecksAndPowerCalibrations
  exact ⟨mordantCheck_counts, opcStart_runs, opcReq_asks, opcBandDone_marked, opcBandDone_waits, opcBandDone_innerResult,
    opcEnd_reports, reallocWaitExpiry_due⟩

end Sys2Proof.Machine
end

section
/-! SUPPORT. Blocks that enter and leave the ladder, and blocks that wait for the rail (O54; R279, R280, R289 to R293, R300). -/

namespace Sys2Proof.Machine

theorem find_of_singleton {α : Type} {p : α → Bool} {e : α} (h : p e = true) : [e].find? p = some e := by simp [h]

theorem rd_inc_self (d : Dev) (r : Row) (ix : List Nat) : (d.inc r ix).rd r ix = (d.rd r ix + 1) % 2 ^ r.spec.width :=
  (rd_wr d r r ix ix _).trans (if_pos ⟨rfl, rfl⟩)

/-! ### Entries that leave -/

section
variable (d : Dev) (pba : Nat)

/-- The device in which a position is off the ladder. -/
def Dev.offLadder : Dev := { d with ladder := d.ladder.filter fun x => x.pba != pba }

/-- The entry of a position has left with the bytes v, or without, and the entries that want them and the scrub know it
(R283, R304, R410). -/
def Dev.leftWith (v : Option Bytes) (weak lost : Bool) : Dev := ((d.leaveLadder pba).gatherMember pba v).noteScrub pba weak lost

theorem Dev.ReadsKept.withLadder {d e : Dev} (h : d.ReadsKept e) (l : List Ladder) :
    ({ d with ladder := l } : Dev).ReadsKept { e with ladder := l } := ⟨h.counts, rfl, h.railWait, h.verify, h.deadAll⟩

theorem reserve_readsKept (p : Nat) : d.ReadsKept (d.reserve p) := .updPk (readsKept_refl d)

theorem raiseFor_readsKept (os : List Origin) (src code : Nat) (b : Bytes) : d.ReadsKept (d.raiseFor os src code b) :=
  readsKept_of_eq rfl rfl rfl rfl

theorem leaveLadder_readsKept : (d.offLadder pba).ReadsKept (d.leaveLadder pba) := by
  unfold Dev.leaveLadder
  split
  · next h =>
    have hall : d.ladder.filter (fun x => x.pba != pba) = d.ladder := List.filter_eq_self.2 (by simpa using h)
    exact readsKept_of_eq rfl rfl hall.symm rfl
  · refine .step (reserve_readsKept _ _) (.step (dropOwner_readsKept _ _) (readsKept_ite (readsKept_refl _) ?_))
    exact .wr (readsKept_refl _)

theorem leftWith_readsKept (v : Option Bytes) (weak lost : Bool) :
    ({ d with ladder := ((d.leaveLadder pba).gatherMember pba v).ladder } : Dev).ReadsKept (d.leftWith pba v weak lost) :=
  .step (noteScrub_readsKept _ _ _ _) ((leaveLadder_readsKept d pba).withLadder _)

theorem leftWith_counts (v : Option Bytes) (weak lost : Bool) {r : Row} (hr : r ∈ readCountRows) (ix : List Nat) :
    (d.leftWith pba v weak lost).rd r ix = d.rd r ix := (leftWith_readsKept d pba v weak lost).counts r hr ix

theorem leftWith_railWait (v : Option Bytes) (weak lost : Bool) : (d.leftWith pba v weak lost).railWait = d.railWait :=
  (leftWith_readsKept d pba v weak lost).railWait

/-- The only entry of a ladder leaves none. -/
theorem leaveLadder_alone {e : Ladder} (h : d.ladder = [e]) (he : e.pba = pba) : (d.leaveLadder pba).ladder = [] := by
  rw [(leaveLadder_readsKept d pba).ladder, Dev.offLadder, h]
  simp [he]

theorem leftWith_alone {e : Ladder} (h : d.ladder = [e]) (he : e.pba = pba) (v : Option Bytes) (weak lost : Bool) :
    (d.leftWith pba v weak lost).ladder = [] := by
  rw [(leftWith_readsKept d pba v weak lost).ladder]
  simp [Dev.gatherMember, leaveLadder_alone d pba h he]

/-- A block that something needs left the ladder failed: counted, and its reads failed (R293). -/
theorem unrecovered_kept {level det : Nat} (h : d.stillNeeded pba = true) :
    ((d.leftWith pba none false true).inc .recovFail [pbaSurface pba]).ReadsKept (d.unrecovered pba level det) := by
  unfold Dev.unrecovered
  simp only []
  rw [if_neg (by simp [h])]
  exact .step (readsKept_foldl (fun x o => failRead_readsKept _ _ x o) _ _) (raiseFor_readsKept _ _ _ _ _)

theorem unrecovered_railWait (level det : Nat) : (d.unrecovered pba level det).railWait = d.railWait := by
  unfold Dev.unrecovered
  simp only []
  rw [(readsKept_foldl (fun x o => failRead_readsKept _ _ x o) _ _).railWait]
  split <;> exact leftWith_railWait d pba none false true

/-- A block that something needs passed at a level: counted, and taken by its reads (R292, R293). -/
theorem recovered_kept {level : Nat} (header data : Bytes) (h : d.stillNeeded pba = true) :
    ((d.leftWith pba (some (header ++ data)) true false).inc .recovOk [pbaSurface pba, level - 1]).ReadsKept
      (d.recovered pba level header data) := by
  unfold Dev.recovered
  simp only []
  rw [if_neg (by simp [h])]
  refine .step (noteKnown_readsKept _ _ _) (.step (readsKept_foldl (fun x o => serveRead_readsKept _ _ _ _ _ x o) _ _) ?_)
  exact .step (queueCopy_readsKept _ _ _ _ _) (raiseFor_readsKept _ _ _ _ _)

theorem unrecovered_alone {e : Ladder} (level det : Nat) (hl : d.ladder = [e]) (he : e.pba = pba) (h : d.stillNeeded pba = true) :
    (d.unrecovered pba level det).ladder = [] ∧ (d.unrecovered pba level det).rd .recovFail [pbaSurface pba] =
      (d.rd .recovFail [pbaSurface pba] + 1) % 2 ^ 32 := by
  have hkept := unrecovered_kept d pba (level := level) (det := det) h
  refine ⟨hkept.ladder.trans (leftWith_alone d pba hl he none false true), (hkept.counts _ (by decide) _).trans ?_⟩
  rw [rd_inc_self, leftWith_counts d pba none false true (by decide)]
  rfl

theorem recovered_alone {e : Ladder} (level : Nat) (header data : Bytes) (hl : d.ladder = [e]) (he : e.pba = pba)
    (h : d.stillNeeded pba = true) :
    (d.recovered pba level header data).ladder = [] ∧ (d.recovered pba level header data).rd .recovOk [pbaSurface pba, level - 1] =
      (d.rd .recovOk [pbaSurface pba, level - 1] + 1) % 2 ^ 32 := by
  have hkept := recovered_kept d pba (level := level) header data h
  refine ⟨hkept.ladder.trans (leftWith_alone d pba hl he _ true false), (hkept.counts _ (by decide) _).trans ?_⟩
  rw [rd_inc_self, leftWith_counts d pba _ true false (by decide)]
  rfl

/-! ### Entries that enter -/

theorem stillNeeded_of_readers {d : Dev} {pba : Nat} (h : d.readers pba ≠ []) : d.stillNeeded pba = true := by
  simp [Dev.stillNeeded, h]

/-- A block enters behind those on the ladder (R290). -/
theorem enter_ladder (level outcome : Nat) (start : Taps) (seekFirst : Bool) (decoded : Decoded) (live : LivePass) :
    (d.enter pba level outcome start seekFirst decoded live).ladder = d.ladder ++
      [{ pba := pba, level := level, outcome := outcome, start := start, seekFirst := seekFirst,
         waiting := decide (d.rd .rvMaxActive ≤ d.rd .rvActive) || d.ladder.any Ladder.waiting, rereading := level == 1,
         decoded := decoded, live := live }] := by
  unfold Dev.enter
  simp only []
  split <;> rfl

theorem enter_counts (level outcome : Nat) (start : Taps) (seekFirst : Bool) (decoded : Decoded) (live : LivePass) {r : Row}
    (hr : r ∈ readCountRows) (ix : List Nat) :
    (d.enter pba level outcome start seekFirst decoded live).rd r ix = d.rd r ix := by
  have hne : ¬ (r = .rvActive ∧ ix = []) := by
    rintro ⟨rfl, -⟩
    exact absurd hr (by decide)
  unfold Dev.enter
  simp only []
  split
  · rfl
  · exact (rd_wr _ _ _ _ _ _).trans (if_neg hne)

theorem enter_railWait (level outcome : Nat) (start : Taps) (seekFirst : Bool) (decoded : Decoded) (live : LivePass) :
    (d.enter pba level outcome start seekFirst decoded live).railWait = d.railWait := by
  unfold Dev.enter
  simp only []
  split <;> rfl

/-! ### Blocks that wait for the rail (R280) -/

theorem railLost_railWait : ∀ w ∈ (d.railLost pba).railWait, w.pba ≠ pba := by
  have hfilter : ∀ w ∈ d.railWait.filter (fun w => w.pba != pba), w.pba ≠ pba := by simp
  unfold Dev.railLost
  simp only []
  split
  · exact hfilter
  · split
    · rw [enter_railWait]
      exact hfilter
    · rw [unrecovered_railWait]
      exact hfilter

theorem railLost_sixth (hsix : d.levelSix pba = true) (hmax : 6 ≤ d.rd .rvMaxlevel) (h : d.readers pba ≠ []) :
    ∃ e, (d.railLost pba).ladder = d.ladder ++ [e] ∧ e.pba = pba ∧ e.level = 6 ∧ e.outcome = 1 := by
  have hneeded : ({ d with railWait := d.railWait.filter fun w => w.pba != pba } : Dev).stillNeeded pba = true :=
    stillNeeded_of_readers h
  unfold Dev.railLost
  simp only []
  rw [if_neg (by simp [hneeded]), if_pos ⟨hsix, hmax, .inl h⟩, enter_ladder]
  exact ⟨_, rfl, rfl, rfl, rfl⟩

theorem railFailed_waits (d : Dev) (pba : Nat) :
    (d.railWait.find? (fun w => w.pba == pba) = none → d.rd .rvRailRetry ≠ 0 →
      (d.railFailed pba).railWait = d.railWait ++ [{ pba := pba, repeats := 0 }]) ∧
    (∀ w, d.railWait.find? (fun w => w.pba == pba) = some w → w.repeats + 1 < d.rd .rvRailRetry →
      (d.railFailed pba).railWait = d.railWait.map fun x => if x.pba = pba then { x with repeats := x.repeats + 1 } else x) ∧
    (∀ w, d.railWait.find? (fun w => w.pba == pba) = some w → d.rd .rvRailRetry ≤ w.repeats + 1 →
      ∀ x ∈ (d.railFailed pba).railWait, x.pba ≠ pba) := by
  unfold Dev.railFailed
  refine ⟨fun h hretry => ?_, fun w h hretry => ?_, fun w h hretry => ?_⟩
  · simp only [h]
    rw [if_neg hretry]
  · simp only [h]
    rw [if_neg (by omega)]
  · simp only [h]
    rw [if_pos hretry]
    exact railLost_railWait d pba

end

theorem railWaitExpiry_lost (s : State) (pba : Nat) (hw : ∃ w ∈ s.dev.railWait, w.pba = pba)
    (hlock : s.dev.on .pkMtoLock [pbaSurface pba] = false) :
    ∃ d, MakesThenRuns (.railWaitExpiry pba) s d ∧ (∀ w ∈ d.railWait, w.pba ≠ pba) ∧
      (s.dev.levelSix pba = true → 6 ≤ s.dev.rd .rvMaxlevel → s.dev.readers pba ≠ [] →
        ∃ e, d.ladder = s.dev.ladder ++ [e] ∧ e.pba = pba ∧ e.level = 6 ∧ e.outcome = 1) := by
  have hwaits : (s.dev.railWait.any fun w => w.pba == pba) = true := by simpa using hw
  exact ⟨_, makesThenRuns_of_eq rfl (if_pos (by simp [hwaits, hlock])), railLost_railWait _ _, railLost_sixth _ _⟩

/-! ### A place that is free (R290, R300) -/

theorem ladderPlaceFree_lets_go (s : State) (e : Ladder) (hl : s.dev.ladder = [e]) (hw : e.waiting = true)
    (hn : s.dev.stillNeeded e.pba = false) : ∃ d, MakesThenRuns .ladderPlaceFree s d ∧ d.ladder = [] := by
  have hgone := leaveLadder_alone s.dev e.pba hl rfl
  refine ⟨s.dev.leaveLadder e.pba, makesThenRuns_of_eq rfl ?_, hgone⟩
  simp only [hl, List.filter_cons, hw, hn, Bool.not_false, Bool.and_self, if_true, List.filter_nil, List.map_cons, List.map_nil,
    List.foldl_cons, List.foldl_nil, hgone, List.find?_nil]

theorem ladderPlaceFree_gives (s : State) (e : Ladder) (hl : s.dev.ladder = [e]) (hw : e.waiting = true)
    (hn : s.dev.stillNeeded e.pba = true) (hactive : s.dev.rd .rvActive < s.dev.rd .rvMaxActive) :
    ∃ d, MakesThenRuns .ladderPlaceFree s d ∧ d.ladder = [{ e with waiting := false }] ∧
      s.dev.OnlyChanges d [⟨.rvActive, []⟩] [(.pk, pbaSurface e.pba)] [.ladder] := by
  refine ⟨({ s.dev.inc .rvActive [] with ladder := [{ e with waiting := false }] } : Dev).reserve (pbaSurface e.pba),
    makesThenRuns_of_eq rfl ?_, rfl, ?_⟩
  · simp only [hl, List.filter_cons, hw, hn, Bool.not_true, Bool.and_false, Bool.false_eq_true, if_false, List.filter_nil,
      List.map_nil, List.foldl_nil, find_of_singleton hw, List.map_cons, if_true]
    exact if_neg (by omega)
  · exact ((onlyChanges_wr _ _ _ _ (by simp)).trans (onlyChanges_ladder _ _ (by simp))).trans (onlyChanges_updPk _ _ _ (by simp))

end Sys2Proof.Machine
end

section
/-! SUPPORT. The decode of a level of the ladder (O54; R281 to R288, R293, R304 to R306). -/

namespace Sys2Proof.Machine

/-! ### The next level -/

section
variable {own : Option Nat} {d e : Dev}

theorem stripeOf_samples (h : Dev.Samples own d e) (pba : Nat) : e.stripeOf pba = d.stripeOf pba := by
  have hstripes : e.stripes = d.stripes := (h.parts .stripes (by decide)).1
  have hmoved : e.moved = d.moved := h.parts .moved (by decide)
  simp only [Dev.stripeOf, Dev.resolve, hstripes, hmoved]

theorem nextLevel_samples (h : Dev.Samples own d e) {x : Ladder} (hr : d.readers x.pba ≠ []) : e.nextLevel x = d.nextLevel x := by
  have hsix : e.levelSix x.pba = d.levelSix x.pba := by simp only [Dev.levelSix, Dev.hasParity, stripeOf_samples h]
  have hown : (d.readers x.pba != []) = true := by simpa using hr
  simp only [Dev.nextLevel, h.readers, hown, Bool.true_or, hsix, h.rd (r := .rvMaxlevel) (by decide),
    h.rd (r := .rvSoftRevs) (by decide)]

end

/-- The device in which the codewords of a level-1 decode have been counted (R245). -/
def Dev.levelCounted (d : Dev) (e : Ladder) : Dev :=
  if e.level = 1 then d.countWords (pbaSurface e.pba) (pbaLane e.pba) (d.ladderDecode e).codewords else d

theorem levelCounted_samples (d : Dev) (e : Ladder) : Dev.Samples none d (d.levelCounted e) :=
  samples_ite (countWords_samples d _ _ _) (samples_refl d)

/-- An entry whose level has failed goes on at level n with what the level made of its block (R281). -/
def Ladder.toLevel (e : Ladder) (n : Nat) (reread : Bool) (x : Decoded) : Ladder :=
  { e with level := n, rereading := reread, outcome := x.outcome, decoded := x }

/-! ### Below level 6 -/

section
variable {s : State} {e : Ladder} (hl : s.dev.ladder = [e]) (hread : e.rereading = false) (hwait : e.waiting = false)
include hl hread hwait

theorem ladder_finds : (s.dev.ladder.find? fun x => x.pba == e.pba && !x.waiting && !x.rereading) = some e := by
  rw [hl]
  exact find_of_singleton (by simp [hread, hwait])

theorem ladderLevelDecoded_passes (h6 : e.level ≠ 6) (hr : s.dev.readers e.pba ≠ []) (hout : (s.dev.ladderDecode e).outcome = 0) :
    ∃ d, MakesThenRuns (.ladderLevelDecoded e.pba) s d ∧ d.ladder = [] ∧ d.rd .recovOk [pbaSurface e.pba, e.level - 1] =
      (s.dev.rd .recovOk [pbaSurface e.pba, e.level - 1] + 1) % 2 ^ 32 := by
  have hcounted := levelCounted_samples s.dev e
  refine ⟨(s.dev.levelCounted e).recovered e.pba e.level (s.dev.ladderDecode e).header (s.dev.ladderDecode e).user,
    makesThenRuns_of_eq rfl ?_, ?_⟩
  · simp only [ladder_finds hl hread hwait, if_neg h6, hout, if_true]
    rfl
  · rw [← hcounted.rd (r := .recovOk) (by decide)]
    exact recovered_alone _ _ _ _ _ (hcounted.ladder.trans hl) rfl (stillNeeded_of_readers (by rwa [hcounted.readers]))

theorem ladderLevelDecoded_climbs (h6 : e.level ≠ 6) (hr : s.dev.readers e.pba ≠ []) (hout : (s.dev.ladderDecode e).outcome ≠ 0)
    {n : Nat} {r : Bool} (hnext : s.dev.nextLevel e = some (n, r)) :
    ∃ d, MakesThenRuns (.ladderLevelDecoded e.pba) s d ∧ d.ladder = [e.toLevel n r (s.dev.ladderDecode e)] := by
  have hcounted := levelCounted_samples s.dev e
  have hneeded : (s.dev.levelCounted e).stillNeeded e.pba = true := stillNeeded_of_readers (by rwa [hcounted.readers])
  refine ⟨({ s.dev.levelCounted e with ladder := [e.toLevel n r (s.dev.ladderDecode e)] } : Dev).reserve (pbaSurface e.pba),
    makesThenRuns_of_eq rfl ?_, rfl⟩
  have hladder := hcounted.ladder.trans hl
  have hgoes := (nextLevel_samples hcounted hr).trans hnext
  unfold Dev.levelCounted at hladder hgoes hneeded ⊢
  simp only [ladder_finds hl hread hwait, if_neg h6, if_neg hout, hgoes, hneeded, hladder, Bool.not_true, Bool.false_eq_true,
    false_and, if_false, List.map_cons, List.map_nil, if_true, Ladder.toLevel]

theorem ladderLevelDecoded_ends (h6 : e.level ≠ 6) (hr : s.dev.readers e.pba ≠ []) (hout : (s.dev.ladderDecode e).outcome ≠ 0)
    (hnext : s.dev.nextLevel e = none) :
    ∃ d, MakesThenRuns (.ladderLevelDecoded e.pba) s d ∧ d.ladder = [] ∧
      d.rd .recovFail [pbaSurface e.pba] = (s.dev.rd .recovFail [pbaSurface e.pba] + 1) % 2 ^ 32 := by
  have hcounted := levelCounted_samples s.dev e
  have hneeded : (s.dev.levelCounted e).stillNeeded e.pba = true := stillNeeded_of_readers (by rwa [hcounted.readers])
  refine ⟨(s.dev.levelCounted e).unrecovered e.pba e.level (if e.level = 5 ∧ !(s.dev.levelCounted e).hasParity e.pba ∧
    !catalogPba e.pba then detNoStripe else detOutcome (s.dev.ladderDecode e).outcome), makesThenRuns_of_eq rfl ?_, ?_⟩
  · have hgoes := (nextLevel_samples hcounted hr).trans hnext
    unfold Dev.levelCounted at hgoes hneeded ⊢
    simp only [ladder_finds hl hread hwait, if_neg h6, if_neg hout, hgoes, hneeded, Bool.not_true, Bool.false_eq_true,
      false_and, if_false]
  · rw [← hcounted.rd (r := .recovFail) (by decide)]
    exact unrecovered_alone _ _ _ _ (hcounted.ladder.trans hl) rfl hneeded

/-! ### Level 6 -/

theorem ladderLevelDecoded_sixth (h6 : e.level = 6) : MakesThenRuns (.ladderLevelDecoded e.pba) s
    (if s.dev.levelSixWants e = [] then s.dev.levelSixEnd e else s.dev) := by
  refine makesThenRuns_of_eq rfl ?_
  simp only [ladder_finds hl hread hwait, if_pos h6]

end

section
variable {d : Dev} {e : Ladder} (hl : d.ladder = [e]) (hr : d.readers e.pba ≠ [])
include hl hr

theorem sixEnds_some (v : Bytes × Bytes) : (d.sixEnds e.pba (some v)).ladder = [] ∧
    (d.sixEnds e.pba (some v)).rd .recovOk [pbaSurface e.pba, 5] = (d.rd .recovOk [pbaSurface e.pba, 5] + 1) % 2 ^ 32 := by
  simp only [Dev.sixEnds, hl, List.any_cons, beq_self_eq_true, Bool.true_or, if_true]
  exact recovered_alone d e.pba 6 _ _ hl rfl (stillNeeded_of_readers hr)

theorem sixEnds_none : (d.sixEnds e.pba none).ladder = [] ∧
    (d.sixEnds e.pba none).rd .recovFail [pbaSurface e.pba] = (d.rd .recovFail [pbaSurface e.pba] + 1) % 2 ^ 32 := by
  simp only [Dev.sixEnds, hl, List.any_cons, beq_self_eq_true, Bool.true_or, if_true]
  exact unrecovered_alone d e.pba 6 _ hl rfl (stillNeeded_of_readers hr)

end

theorem levelSixEnd_copy {d : Dev} {e : Ladder} (h : d.stripeOf e.pba = none) :
    d.levelSixEnd e = d.sixEnds e.pba ((e.gather.findSome? Prod.snd).map fun b => (slice b 0 128, slice b 128 65536)) := by
  simp only [Dev.levelSixEnd, h]

theorem filter_range_eq {n i : Nat} (h : i < n) : ((List.range n).filter fun t => decide (t = i)) = [i] := by
  have hcount : (List.range n).count i = 1 := List.count_eq_one_of_mem List.nodup_range (List.mem_range.2 h)
  simpa [hcount] using List.filter_eq i (l := List.range n)

/-- The only lost member of its lane is rebuilt (R304, R305). -/
theorem levelSixEnd_stripe {d : Dev} {e : Ladder} {t : Stripe} {key : Nat} (h : d.stripeOf e.pba = some (t, key))
    (hpba : d.memberPba t (key % 7) (key / 7) = some e.pba) (hmem : key / 7 < geometryD t.geometry + geometryM t.geometry)
    (hlost : ∀ i, d.memberLost e t (key % 7) i = decide (i = key / 7)) :
    d.levelSixEnd e = d.sixEnds e.pba
      ((Dev.rebuild t key (d.survivors e t (key % 7))).map fun b => (d.rebuiltHeader t key e.pba, b)) := by
  simp only [Dev.levelSixEnd, h, hlost, filter_range_eq hmem, List.filterMap_cons, List.filterMap_nil, hpba, Option.map_some,
    List.foldl_cons, List.foldl_nil, Nat.div_add_mod]

theorem ladderLevelDecoded_steps (s : State) (pba p : Nat) (e : Ladder) (x : Decoded) (hl : s.dev.ladder = [e]) (he : e.pba = pba)
    (hread : e.rereading = false) (hwait : e.waiting = false) (hr : s.dev.readers pba ≠ []) (hp : p = pbaSurface pba)
    (hx : x = s.dev.ladderDecode e) :
    ∃ d, MakesThenRuns (.ladderLevelDecoded pba) s d ∧
      (e.level < 6 → x.outcome = 0 → d.ladder = [] ∧
        d.rd .recovOk [p, e.level - 1] = (s.dev.rd .recovOk [p, e.level - 1] + 1) % 2 ^ 32) ∧
      (e.level < 6 → x.outcome ≠ 0 → ∀ n r, s.dev.nextLevel e = some (n, r) →
        d.ladder = [{ e with level := n, rereading := r, outcome := x.outcome, decoded := x }]) ∧
      (e.level < 6 → x.outcome ≠ 0 → s.dev.nextLevel e = none → d.ladder = [] ∧
        d.rd .recovFail [p] = (s.dev.rd .recovFail [p] + 1) % 2 ^ 32) ∧
      (e.level = 6 → s.dev.levelSixWants e ≠ [] → d = s.dev) ∧
      (e.level = 6 → s.dev.levelSixWants e = [] → s.dev.stripeOf pba = none →
        (∀ b, e.gather.findSome? Prod.snd = some b → d.ladder = [] ∧
          d.rd .recovOk [p, 5] = (s.dev.rd .recovOk [p, 5] + 1) % 2 ^ 32) ∧
        (e.gather.findSome? Prod.snd = none → d.ladder = [] ∧
          d.rd .recovFail [p] = (s.dev.rd .recovFail [p] + 1) % 2 ^ 32)) ∧
      (∀ t key, e.level = 6 → s.dev.levelSixWants e = [] → s.dev.stripeOf pba = some (t, key) →
        s.dev.memberPba t (key % 7) (key / 7) = some pba → key / 7 < geometryD t.geometry + geometryM t.geometry →
        (∀ i, s.dev.memberLost e t (key % 7) i = decide (i = key / 7)) →
        ((Dev.rebuild t key (s.dev.survivors e t (key % 7))).isSome = true → d.ladder = [] ∧
          d.rd .recovOk [p, 5] = (s.dev.rd .recovOk [p, 5] + 1) % 2 ^ 32) ∧
        (Dev.rebuild t key (s.dev.survivors e t (key % 7)) = none → d.ladder = [] ∧
          d.rd .recovFail [p] = (s.dev.rd .recovFail [p] + 1) % 2 ^ 32)) := by
  subst he hp hx
  by_cases h6 : e.level = 6
  · have hmakes := ladderLevelDecoded_sixth hl hread hwait h6
    refine ⟨_, hmakes, fun h => by omega, fun h => by omega, fun h => by omega, fun _ hw => if_neg hw, fun _ hw hs => ?_,
      fun t key _ hw hs hpba hmem hlost => ?_⟩
    · rw [if_pos hw, levelSixEnd_copy hs]
      refine ⟨fun b hb => ?_, fun hb => ?_⟩
      · rw [hb]
        exact sixEnds_some hl hr _
      · rw [hb]
        exact sixEnds_none hl hr
    · rw [if_pos hw, levelSixEnd_stripe hs hpba hmem hlost]
      refine ⟨fun hb => ?_, fun hb => ?_⟩
      · obtain ⟨b, hb⟩ := Option.isSome_iff_exists.1 hb
        rw [hb]
        exact sixEnds_some hl hr _
      · rw [hb]
        exact sixEnds_none hl hr
  · by_cases hout : (s.dev.ladderDecode e).outcome = 0
    · obtain ⟨d, hmakes, hpasses⟩ := ladderLevelDecoded_passes hl hread hwait h6 hr hout
      exact ⟨d, hmakes, fun _ _ => hpasses, fun _ h => absurd hout h, fun _ h => absurd hout h, fun h => absurd h h6,
        fun h => absurd h h6, fun _ _ h => absurd h h6⟩
    · cases hnext : s.dev.nextLevel e with
      | some v =>
        obtain ⟨d, hmakes, hclimbs⟩ := ladderLevelDecoded_climbs hl hread hwait h6 hr hout hnext
        refine ⟨d, hmakes, fun _ h => absurd h hout, fun _ _ n r h => ?_, fun _ _ h => absurd h (by simp), fun h => absurd h h6,
          fun h => absurd h h6, fun _ _ h => absurd h h6⟩
        obtain rfl : v = (n, r) := Option.some.inj h
        exact hclimbs
      | none =>
        obtain ⟨d, hmakes, hends⟩ := ladderLevelDecoded_ends hl hread hwait h6 hr hout hnext
        exact ⟨d, hmakes, fun _ h => absurd h hout, fun _ _ _ _ h => absurd h (by simp), fun _ _ _ => hends, fun h => absurd h h6,
          fun h => absurd h h6, fun _ _ h => absurd h h6⟩

end Sys2Proof.Machine
end

section
/-! SUPPORT. The re-read of a row for the ladder (O54; R282 to R284, R579). -/

namespace Sys2Proof.Machine

/-! ### The units of a record (R283, R579) -/

theorem fillUpdate_waiting (d : Dev) : d.fillUpdate.basin.waiting = d.basin.waiting := by
  unfold Dev.fillUpdate
  simp only []
  split
  · rfl
  · split
    · split <;> rfl
    · rfl

theorem takeUnits_waiting (d : Dev) (o : Owner) (n : Nat) (reserved : Bool) :
    ((d.takeUnits o n reserved).getD d).basin.waiting = d.basin.waiting := by
  unfold Dev.takeUnits
  simp only []
  split
  · rfl
  · exact fillUpdate_waiting _

/-- With all units there and none waiting, work that needs them does not wait. -/
theorem needUnits_waiting {d : Dev} {o : Owner} {n : Nat} (hw : d.basin.waiting = []) (hn : d.couldTake n = n) :
    (d.needUnits o n).basin.waiting = [] := by
  unfold Dev.needUnits
  simp only [hw, ne_eq, not_true_eq_false, if_false, hn, le_refl, if_true]
  split
  · exact hw
  · exact (takeUnits_waiting _ _ _ _).trans hw

/-- What the next record of an entry lacks in units, at most `keep` records being kept. -/
def Dev.recordLacks (d : Dev) (keep : Nat) (e : Ladder) : Nat :=
  unitsFor (recordBytes * min keep (e.records.length + 1)) - d.unitsOwned (.ladder e.pba)

/-- The device in which the next record of an entry has asked for its units. -/
def Dev.recordUnits (d : Dev) (keep : Nat) (e : Ladder) : Dev :=
  if d.recordLacks keep e = 0 ∨ d.unitsWait (.ladder e.pba) then d else d.needUnits (.ladder e.pba) (d.recordLacks keep e)

theorem recordUnits_unitsOnly (d : Dev) (keep : Nat) (e : Ladder) : d.UnitsOnly (d.recordUnits keep e) := by
  unfold Dev.recordUnits
  split
  · exact unitsOnly_refl d
  · exact needUnits_unitsOnly _ _ _

theorem Dev.UnitsOnly.pkS {d e : Dev} (h : d.UnitsOnly e) (q : Nat) : e.pkS q = d.pkS q := by
  rw [h]
  rfl

theorem recordUnits_readsKept (d : Dev) (keep : Nat) (e : Ladder) : d.ReadsKept (d.recordUnits keep e) :=
  readsKept_ite (readsKept_refl d) (needUnits_readsKept _ _ _)

theorem recordUnits_noWait {d : Dev} {keep : Nat} {e : Ladder} (hw : d.unitsWait (.ladder e.pba) = false)
    (h : d.recordLacks keep e = 0 ∨ (d.basin.waiting = [] ∧ d.couldTake (d.recordLacks keep e) = d.recordLacks keep e)) :
    (d.recordUnits keep e).unitsWait (.ladder e.pba) = false := by
  unfold Dev.recordUnits
  by_cases hlacks : d.recordLacks keep e = 0
  · rw [if_pos (.inl hlacks)]
    exact hw
  · obtain ⟨hnone, hall⟩ := h.resolve_left hlacks
    rw [if_neg (by simp [hlacks, hw]), Dev.unitsWait, needUnits_waiting hnone hall]
    rfl

/-! ### The record of a re-read (R283, R284) -/

/-- The device in which the samples of a re-read have come, before its record is stored. -/
def Dev.rereadStart (d : Dev) (reads : List (Nat × SpotRead)) (e : Ladder) : Dev :=
  let old := ((d.readBegun e.pba).map ReadDue.old).getD []
  let u := (((d.asBegun old).lateStart e.pba).loadTaps (pbaSurface e.pba) (pbaLane e.pba) (pbaLayer e.pba)).updPk (pbaSurface e.pba)
    fun q => { q with reading := q.reading.filter fun r => r.pba != e.pba }
  u.betweenBlocks (pbaSurface e.pba) (pbaLane e.pba) (tget {} reads e.pba : SpotRead).runs (rowPlace (rowSpans (pbaRow e.pba))).1

/-- An entry with the record of a re-read, of which `keep` are kept. -/
def Ladder.reread (e : Ladder) (keep : Nat) (live : LivePass) (r : ReadRec) : Ladder :=
  { e with rereading := false, stepped := false, live := live, records := (r :: e.records).take keep }

theorem rereadStart_samples {d : Dev} (reads : List (Nat × SpotRead)) {e : Ladder}
    (h : (d.pkS (pbaSurface e.pba)).rcPending = []) : Dev.Samples none d (d.rereadStart reads e) := by
  have hbegun := asBegun_samples (own := none) d (old := ((d.readBegun e.pba).map ReadDue.old).getD []) (.inl rfl)
  have hpending := (congrArg Pk.rcPending (hbegun.pk (pbaSurface e.pba)) :).trans h
  exact .step (betweenBlocks_samples _ _ _ _ _) (.updPk (.step (loadTaps_samples (.inr (by simp)))
    (.step (lateStart_samples hpending) hbegun)))

/-- A re-read that ends stores a record in the only entry, and besides it is a pass (R283). -/
theorem storeReread_alone {d : Dev} {keep : Nat} (reads : List (Nat × SpotRead)) {e : Ladder} (hl : d.ladder = [e])
    (h : (d.pkS (pbaSurface e.pba)).rcPending = []) :
    ∃ live r, Dev.Samples none ({ d.rereadStart reads e with ladder := [e.reread keep live r] } : Dev)
      (Dev.storeReread keep reads d e) := by
  have hladder := (rereadStart_samples reads h).ladder.trans hl
  unfold Dev.storeReread
  simp only []
  change ∃ live r, Dev.Samples none _ (Dev.asNow (Dev.passEnd (Dev.qualityFigures
    { d.rereadStart reads e with ladder := (d.rereadStart reads e).ladder.map _ } _ _ _) _ _ _ _ _ _) _ _)
  rw [hladder, List.map_cons, List.map_nil, if_pos rfl]
  exact ⟨_, _, .step (asNow_samples _ _ (.inl rfl)) (.step (passEnd_samples _ _ _ _ _ (by simp)) (qualityFigures_samples _ _ _ _))⟩

/-! ### The end of a re-read -/

/-- The device in which the re-read of a row is counted and begins (R203, R293). -/
def Dev.rereadCounted (d : Dev) (pba : Nat) : Dev :=
  ((d.inc .recovRevs [pbaSurface pba]).setEqualiser (pbaSurface pba) (pbaRow pba)).beginPass pba true

theorem rereadCounted_samples (d : Dev) (pba : Nat) :
    Dev.Samples none (d.inc .recovRevs [pbaSurface pba]) (d.rereadCounted pba) :=
  .step (beginPass_samples _ _ _) (setEqualiser_samples _ _ _)

/-- The re-read for the only entry, its units being there. -/
def Dev.rereadAlone (d : Dev) (keep : Nat) (reads : List (Nat × SpotRead)) (e : Ladder) : Dev :=
  (Dev.storeReread keep reads (d.rereadCounted e.pba) e).otherLanes e.pba [pbaLane e.pba] (tget {} reads e.pba : SpotRead).runs

section
variable {d : Dev} {e : Ladder} (keep : Nat) (reads : List (Nat × SpotRead)) (hl : d.ladder = [e])
  (h : (d.pkS (pbaSurface e.pba)).rcPending = [])
include hl h

/-- The samples and the record of a re-read leave the count of revolutions (R283, R293). -/
theorem rereadAlone_samples : ∃ live r, Dev.Samples none
    ({ (d.rereadCounted e.pba).rereadStart reads e with ladder := [e.reread keep live r] } : Dev) (d.rereadAlone keep reads e) ∧
    Dev.Samples none (d.inc .recovRevs [pbaSurface e.pba]) ((d.rereadCounted e.pba).rereadStart reads e) := by
  have hcounted := rereadCounted_samples d e.pba
  have hpending := (congrArg Pk.rcPending (hcounted.pk (pbaSurface e.pba)) :).trans h
  obtain ⟨live, r, hstored⟩ := storeReread_alone (keep := keep) reads (hcounted.ladder.trans hl) hpending
  exact ⟨live, r, .step (otherLanes_samples _ _ _ (by simp)) hstored, .step (rereadStart_samples reads hpending) hcounted⟩

theorem rereadAlone_stores :
    (d.rereadAlone keep reads e).rd .recovRevs [pbaSurface e.pba] = (d.rd .recovRevs [pbaSurface e.pba] + 1) % 2 ^ 32 ∧
    ∃ live r, (d.rereadAlone keep reads e).ladder = [e.reread keep live r] := by
  obtain ⟨live, r, hstored, hread⟩ := rereadAlone_samples keep reads hl h
  refine ⟨?_, live, r, hstored.ladder⟩
  rw [hstored.rd (by decide)]
  exact (hread.rd (by decide) _).trans (rd_inc_self _ _ _)

end

/-- The re-read of a row for the entries `hit`, of which each keeps `keep` records (R283, R579). -/
def Dev.rereadHit (d : Dev) (pba keep : Nat) (reads : List (Nat × SpotRead)) (hit : List Ladder) : Dev :=
  let u := hit.foldl (fun (d : Dev) e => d.recordUnits keep e) d
  if hit.any fun e => u.unitsWait (.ladder e.pba) then u
  else (hit.foldl (Dev.storeReread keep reads) (u.rereadCounted pba)).otherLanes pba (hit.map fun e => pbaLane e.pba)
    (tget {} reads pba : SpotRead).runs

theorem rereadHit_alone {d : Dev} {keep : Nat} (reads : List (Nat × SpotRead)) {e : Ladder}
    (h : (d.recordUnits keep e).unitsWait (.ladder e.pba) = false) :
    d.rereadHit e.pba keep reads [e] = (d.recordUnits keep e).rereadAlone keep reads e := by
  rw [Dev.rereadHit, List.foldl_cons, List.foldl_nil, List.foldl_cons, List.foldl_nil, List.map_cons, List.map_nil]
  exact if_neg (by simp [h])

/-- The entries whose re-read ends with that of a position (R282). -/
def Dev.rereadEntries (d : Dev) (pba : Nat) : List Ladder :=
  d.ladder.filter fun e => e.rereading && !e.waiting && pbaSurface e.pba == pbaSurface pba && pbaLayer e.pba == pbaLayer pba &&
    pbaRow e.pba == pbaRow pba

theorem ladderRereadEnd_eq (s : State) (pba : Nat) (reads : List (Nat × SpotRead))
    (h : ¬ ((!((s.dev.rereadEntries pba).any fun e => e.pba == pba)) = true ∨
      (!((s.dev.rereadEntries pba).all fun e => s.dev.mayRead (pbaSurface pba) (pbaLane e.pba) && !e.seekFirst)) = true ∨
      (s.dev.pkS (pbaSurface pba)).rows ≠ [])) :
    Makes (.ladderRereadEnd pba reads) s
      (s.dev.rereadHit pba (max 1 (s.dev.rd .rvSoftRevs)) reads (s.dev.rereadEntries pba)) :=
  makes_of_eq rfl (if_neg h)

theorem ladderRereadEnd_reads (s : State) (pba lacks : Nat) (reads : List (Nat × SpotRead)) (e : Ladder)
    (hl : s.dev.ladder = [e]) (he : e.pba = pba)
    (hlacks : lacks = unitsFor (recordBytes * min (max 1 (s.dev.rd .rvSoftRevs)) (e.records.length + 1)) -
      s.dev.unitsOwned (.ladder pba))
    (hw : s.dev.unitsWait (.ladder pba) = false)
    (hunits : lacks = 0 ∨ (s.dev.basin.waiting = [] ∧ s.dev.couldTake lacks = lacks)) (hread : e.rereading = true)
    (hwait : e.waiting = false) (hseek : e.seekFirst = false) (hpending : (s.dev.pkS (pbaSurface pba)).rcPending = [])
    (hrows : (s.dev.pkS (pbaSurface pba)).rows = []) (hmay : s.dev.mayRead (pbaSurface pba) (pbaLane pba) = true) :
    ∃ d e', Makes (.ladderRereadEnd pba reads) s d ∧
      d.rd .recovRevs [pbaSurface pba] = (s.dev.rd .recovRevs [pbaSurface pba] + 1) % 2 ^ 32 ∧ d.ladder = [e'] ∧
      e'.pba = pba ∧ e'.level = e.level ∧ e'.rereading = false ∧ e'.stepped = false ∧
      e'.records.length = min (max 1 (s.dev.rd .rvSoftRevs)) (e.records.length + 1) := by
  subst he hlacks
  have hnoWait := recordUnits_noWait (keep := max 1 (s.dev.rd .rvSoftRevs)) hw hunits
  have hkept := recordUnits_readsKept s.dev (max 1 (s.dev.rd .rvSoftRevs)) e
  have hpending' : ((s.dev.recordUnits (max 1 (s.dev.rd .rvSoftRevs)) e).pkS (pbaSurface e.pba)).rcPending = [] := by
    rw [(recordUnits_unitsOnly s.dev _ e).pkS]
    exact hpending
  obtain ⟨hrevs, live, r, hladder⟩ := rereadAlone_stores (max 1 (s.dev.rd .rvSoftRevs)) reads (hkept.ladder.trans hl) hpending'
  rw [hkept.counts _ (by decide)] at hrevs
  have hhit : s.dev.rereadEntries e.pba = [e] := by
    rw [Dev.rereadEntries, hl]
    simp [hread, hwait]
  have hmakes := ladderRereadEnd_eq s e.pba reads (by simp [hhit, hmay, hseek, hrows])
  rw [hhit, rereadHit_alone reads hnoWait] at hmakes
  exact ⟨_, _, hmakes, hrevs, hladder, rfl, rfl, rfl, rfl, by simp [Ladder.reread]⟩

end Sys2Proof.Machine
end

section
/-! SUPPORT. The taps of a spot through a pass over a row (O54; R212 to R216): the centre tap of the FIR stays, and without
adaptation every tap does. -/

namespace Sys2Proof.Machine

/-! ### The FIR of a pass -/

/-- From x to y the number of taps of a FIR and its centre stay. -/
def SameCentre (x y : List Int) : Prop := y.length = x.length ∧ y[x.length / 2]? = x[x.length / 2]?

theorem sameCentre_refl (x : List Int) : SameCentre x x := ⟨rfl, rfl⟩

theorem SameCentre.trans {x y z : List Int} (h : SameCentre x y) (h' : SameCentre y z) : SameCentre x z := by
  obtain ⟨hlen, hmid⟩ := h
  obtain ⟨hlen', hmid'⟩ := h'
  rw [hlen] at hmid'
  exact ⟨hlen'.trans hlen, hmid'.trans hmid⟩

theorem bendTaps_sameCentre (lo hi : Int) (mu : Nat) (err : Int) (taps xs : List Int) :
    SameCentre taps (bendTaps lo hi (some (taps.length / 2)) mu err taps xs).1 := by
  refine ⟨by simp [bendTaps], ?_⟩
  simp only [bendTaps, List.map_map, List.getElem?_map, List.getElem?_zipIdx, Option.map_map, Nat.zero_add]
  cases taps[taps.length / 2]? <;> simp

theorem adapted_sameCentre (c : TapCfg) (less : Nat) (u : TapPast) (t : Int) (s : TapState) :
    SameCentre s.taps.fir (s.adapted c less u t).taps.fir := bendTaps_sameCentre _ _ _ _ _ _

theorem tapStep_sameCentre (tie : Nat → Bool) (c : TapCfg) (s : TapState) (i : TapIn) :
    SameCentre s.taps.fir (tapStep tie c s i).1.taps.fir := by
  unfold tapStep
  simp only []
  split
  · exact sameCentre_refl _
  · split
    · exact adapted_sameCentre _ _ _ _ _
    · exact sameCentre_refl _

theorem tapRun_sameCentre (tie : Nat → Bool) (c : TapCfg) (s : TapState) (l : List TapIn) :
    SameCentre s.taps.fir (tapRun tie c s l).2.taps.fir := by
  induction l generalizing s with
  | nil => exact sameCentre_refl _
  | cons i l ih => exact (tapStep_sameCentre tie c s i).trans (ih _)

/-- The bits left at the end of a pass are judged, and adapt nothing. -/
theorem tapFlush_taps (tie : Nat → Bool) (c : TapCfg) (n : Nat) (s : TapState) (l : List TapPast) :
    (tapFlush tie c n s l).taps = s.taps := by
  induction l generalizing n s with
  | nil => rfl
  | cons u l ih => exact ih _ _

theorem tapPass_sameCentre (tie : Nat → Bool) (c : TapCfg) (s : TapState) (l : List TapIn) :
    SameCentre s.taps.fir (tapPass tie c s l).2.taps.fir := by
  rw [tapPass, tapFlush_taps]
  exact tapRun_sameCentre tie c s l

/-- Between registers and a pass the taps are scaled, and back. -/
theorem whole_sameCentre {x y : Taps} (h : SameCentre x.fine.fir y.fir) : SameCentre x.fir y.whole.fir := by
  obtain ⟨hlen, hmid⟩ := h
  have hunit : tapUnit ≠ 0 := by decide
  rw [Taps.fine, List.length_map] at hlen hmid
  refine ⟨by simp [Taps.whole, hlen], ?_⟩
  rw [Taps.whole, List.getElem?_map, hmid, List.getElem?_map, Option.map_map]
  cases x.fir[x.fir.length / 2]? with
  | none => rfl
  | some v => exact congrArg some (Int.mul_ediv_cancel v hunit)

theorem equalise_sameCentre (d : Dev) (p s row h : Nat) (again : Bool) (start : Taps) (x inner outer : List Int) :
    SameCentre start.fir (d.equalise p s row h again start x inner outer).2.taps.fir :=
  whole_sameCentre (tapPass_sameCentre _ _ _ _)

theorem livePass_sameCentre (d : Dev) (pba : Nat) (again fifth : Bool) (start : Taps) (r : SpotRead) :
    SameCentre start.fir (d.livePass pba again fifth start r).2.taps.fir :=
  equalise_sameCentre _ _ _ _ _ _ _ _ _ _

/-! ### The registers of the taps -/

theorem toTwos_ofTwos (w v : Nat) : toTwos w (ofTwos w v) = v % 2 ^ w := by
  have hmod : ((v : Int) % 2 ^ w) % 2 ^ w = (v : Int) % 2 ^ w := Int.emod_emod_of_dvd _ dvd_rfl
  have hval : (ofTwos w v) % 2 ^ w = (v : Int) % 2 ^ w := by
    unfold ofTwos
    split <;> simp
  rw [toTwos, hval]
  exact_mod_cast Int.toNat_natCast (v % 2 ^ w)

/-- Values stored in consecutive places are there. -/
theorem setTaps_rd (d : Dev) (r : Row) (ix : List Nat) (n : Nat) (v : List Int) {i : Nat} (hi : i < v.length) :
    (d.setTaps r ix n v).rd r (ix ++ [n + i]) = toTwos r.spec.width v[i] := by
  have hzip : v.zipIdx = (List.range v.length).map fun j => (v.getD j 0, j) := by
    refine List.ext_getElem (by simp) fun j hj _ => ?_
    have hlt : j < v.length := by simpa using hj
    simp [hlt]
  rw [Dev.setTaps, hzip, List.foldl_map]
  refine foldl_own (fun x : Dev => x.rd r (ix ++ [n + i])) (fun _ => toTwos r.spec.width v[i])
    (fun (x : Dev) j => x.wrS r (ix ++ [n + j]) (v.getD j 0)) i (fun x j hj => ⟨?_, rfl⟩)
    (fun x => ?_) _ List.nodup_range (List.mem_range.2 hi) d
  · exact (rd_wrS _ _ _ _ _ _).trans (if_neg (by simpa using Ne.symm hj))
  · simp [hi, rd_wrS]

theorem setTaps_other (d : Dev) {r r' : Row} (h : r' ≠ r) (ix ix' : List Nat) (n : Nat) (v : List Int) :
    (d.setTaps r ix n v).rd r' ix' = d.rd r' ix' :=
  foldl_kept (fun x : Dev => x.rd r' ix') (fun (x : Dev) (e : Int × Nat) => x.wrS r (ix ++ [n + e.2]) e.1)
    (fun _ _ => (rd_wrS _ _ _ _ _ _).trans (if_neg fun he => h he.1)) _ d

theorem tapsEnd_off (d : Dev) {p : Nat} (s : Nat) (verify : Bool) (taps : Taps) (h : d.on .rcFirAdapt [p] = false) :
    d.tapsEnd p s verify taps = d := if_pos (by simp [h])

theorem tapsEnd_on (d : Dev) {p : Nat} (s : Nat) (taps : Taps) (h : d.on .rcFirAdapt [p] = true) {i : Nat}
    (hi : i < taps.fir.length) :
    (d.tapsEnd p s false taps).rd .rcFirTap [p, s, i] = toTwos 12 taps.fir[i] := by
  have hset : (d.setTaps .rcFirTap [p, s] 0 taps.fir).rd .rcFirTap [p, s, i] = toTwos 12 taps.fir[i] := by
    have hrd := setTaps_rd d .rcFirTap [p, s] 0 taps.fir hi
    rwa [Nat.zero_add] at hrd
  unfold Dev.tapsEnd
  rw [if_neg (by simp [h])]
  simp only [Bool.false_eq_true, if_false]
  split
  · exact hset
  · rw [setTaps_other _ (by decide), setTaps_other _ (by decide)]
    exact hset

/-- A pass whose FIR has 15 taps with that of the register at their centre leaves that register (R213). -/
theorem tapsEnd_centre (d : Dev) {p s : Nat} (taps : Taps) (h : SameCentre (d.firTaps p s 7) taps.fir)
    (hlt : d.rd .rcFirTap [p, s, 7] < 2 ^ 12) : (d.tapsEnd p s false taps).rd .rcFirTap [p, s, 7] = d.rd .rcFirTap [p, s, 7] := by
  obtain ⟨hlen, hmid⟩ := h
  have hcentre : (d.firTaps p s 7)[7]? = some (d.rdS .rcFirTap [p, s, 7]) := by simp [Dev.firTaps]
  have hfifteen : (d.firTaps p s 7).length = 15 := by simp [Dev.firTaps]
  have hi : 7 < taps.fir.length := by omega
  rw [hfifteen, hcentre, List.getElem?_eq_getElem hi] at hmid
  cases hadapt : d.on .rcFirAdapt [p] with
  | false => rw [tapsEnd_off d s false taps hadapt]
  | true =>
    rw [tapsEnd_on d s taps hadapt hi, Option.some.inj hmid]
    exact (toTwos_ofTwos 12 _).trans (Nat.mod_eq_of_lt hlt)

/-! ### The end of a block -/

theorem tap_wr_saved (d : Dev) (ix ix' : List Nat) (v : Nat) : (d.wr .rcFirSaved ix v).rd .rcFirTap ix' = d.rd .rcFirTap ix' := by
  simp

theorem tapsSaved_rd (d : Dev) (p s L : Nat) {i : Nat} (hi : i < 15) :
    (d.tapsSaved p s L).rd .rcFirSaved [p, s, L, i] = d.rd .rcFirTap [p, s, i] % 2 ^ 12 := by
  refine foldl_own (fun x : Dev => x.rd .rcFirSaved [p, s, L, i]) (fun x => x.rd .rcFirTap [p, s, i] % 2 ^ 12)
    (fun (x : Dev) j => x.wr .rcFirSaved [p, s, L, j] (x.rd .rcFirTap [p, s, j])) i (fun x j hj => ⟨?_, ?_⟩) (fun x => ?_) _
    List.nodup_range (List.mem_range.2 hi) d
  · exact (rd_wr _ _ _ _ _ _).trans (if_neg (by simpa using Ne.symm hj))
  · exact congrArg (· % 2 ^ 12) (tap_wr_saved _ _ _ _)
  · exact (rd_wr _ _ _ _ _ _).trans (if_pos ⟨rfl, rfl⟩)

theorem tapsSaved_tap (d : Dev) (p s L : Nat) (ix : List Nat) : (d.tapsSaved p s L).rd .rcFirTap ix = d.rd .rcFirTap ix :=
  foldl_kept (fun x : Dev => x.rd .rcFirTap ix) (fun (x : Dev) j => x.wr .rcFirSaved [p, s, L, j] (x.rd .rcFirTap [p, s, j]))
    (fun _ _ => tap_wr_saved _ _ _ _) _ d

theorem rd_raisePk (d : Dev) (p sub code : Nat) (b : Bytes) (r : Row) (ix : List Nat) :
    (d.raisePk p sub code b).rd r ix = d.rd r ix := rfl

/-- After the taps are saved, the end of a block writes EYE alone (R244, R249). -/
theorem passEnd_rd (d : Dev) (p s L : Nat) (e : PassEnd) {r : Row} (h : r ≠ .rcEye) (ix : List Nat) :
    (d.passEnd p s L false true e).rd r ix = ((d.spotEnd p s false e).tapsSaved p s L).rd r ix := by
  have heye : ∀ (x : Dev) (v : Nat), (x.fresh.2.wr .rcEye [p, s] v).rd r ix = x.rd r ix := fun x v => by
    rw [rd_wr, if_neg fun he => h he.1, rd_fresh]
  unfold Dev.passEnd
  simp only [if_true]
  cases e.agc with
  | none => exact heye _ _
  | some g => exact (rd_raisePk _ _ _ _ _ _ _).trans (heye _ _)

/-- The taps after a block are those after its pass (R213). -/
theorem passEnd_tap (d : Dev) (p s L : Nat) (e : PassEnd) (i : Nat) :
    (d.passEnd p s L false true e).rd .rcFirTap [p, s, i] = (d.tapsEnd p s false e.taps).rd .rcFirTap [p, s, i] := by
  rw [passEnd_rd d p s L e (by decide), tapsSaved_tap]
  exact (spotEnd_afterTaps d p s false e).tap (own := some s) rfl p i

/-- The taps after a block are saved for its layer (R215). -/
theorem passEnd_saved (d : Dev) (p s L : Nat) (e : PassEnd) {i : Nat} (hi : i < 15) :
    (d.passEnd p s L false true e).rd .rcFirSaved [p, s, L, i] =
      (d.passEnd p s L false true e).rd .rcFirTap [p, s, i] % 2 ^ 12 := by
  rw [passEnd_rd d p s L e (by decide), passEnd_rd d p s L e (by decide), tapsSaved_tap]
  exact tapsSaved_rd _ p s L hi

end Sys2Proof.Machine
end

section
/-! SUPPORT. The read of a block at level 0 (O54; R202, R209, R213, R215, R240, R279 to R281). -/

namespace Sys2Proof.Machine

/-! ### The start of the read (R202, R203, R215) -/

theorem updSpot_lastLayer (d : Dev) (p s q t : Nat) {f : Spot → Spot} (hf : ∀ x, (f x).lastLayer = x.lastLayer) :
    ((d.updSpot p s f).spotS q t).lastLayer = (d.spotS q t).lastLayer := by
  by_cases h : 16 * q + t = 16 * p + s
  · simp [Dev.spotS, Dev.updSpot, h, hf]
  · simp [Dev.spotS, Dev.updSpot, h]

theorem beginPass_lastLayer (d : Dev) (pba : Nat) (again : Bool) (q t : Nat) :
    ((d.beginPass pba again).spotS q t).lastLayer = (d.spotS q t).lastLayer := by
  unfold Dev.beginPass
  refine (foldl_kept (fun x : Dev => (x.spotS q t).lastLayer) _ (fun x s => ?_) (List.range 8) _).trans rfl
  exact updSpot_lastLayer x _ _ q t fun _ => rfl

theorem lateStart_spotS {d : Dev} {pba : Nat} (h : (d.pkS (pbaSurface pba)).rcPending = []) (q t : Nat) :
    (d.lateStart pba).spotS q t = d.spotS q t := by
  unfold Dev.lateStart
  simp only []
  rw [applyRc_none h]
  split <;> rfl

/-- A read starts and its samples come; where its spot last read the same layer, its taps stay (R215). -/
theorem readStart_samples {d : Dev} {pba : Nat} {own : Option Nat} (read : SpotRead)
    (hpending : (d.pkS (pbaSurface pba)).rcPending = [])
    (hown : own = none ∨ own = some (pbaLane pba) ∧
      (d.spotS (pbaSurface pba) (pbaLane pba)).lastLayer = some (pbaLayer pba)) :
    Dev.Samples own d (d.readStart pba read) := by
  have hload : (((d.lateStart pba).beginPass pba false).spotS (pbaSurface pba) (pbaLane pba)).lastLayer = some (pbaLayer pba) ∨
      own ≠ some (pbaLane pba) := by
    obtain rfl | ⟨-, hlayer⟩ := hown
    · exact .inr (by simp)
    · rw [beginPass_lastLayer, lateStart_spotS hpending]
      exact .inl hlayer
  have hothers : ∀ t, t ∉ [pbaLane pba] → own ≠ some t := fun t ht ho => by
    obtain rfl | ⟨rfl, -⟩ := hown
    · cases ho
    · exact ht (by simp [Option.some.inj ho])
  refine .step (otherLanes_samples _ _ _ hothers) (.step (betweenBlocks_samples _ _ _ _ _) (.updPk ?_))
  exact .step (loadTaps_samples hload) (.step (beginPass_samples _ _ _) (lateStart_samples hpending))

/-! ### The counts of a block (R243) -/

/-- The counts of the blocks of a lane. -/
def laneCountRows : List Row := [.rcLaneBlocks, .rcLaneFlywheels, .rcLaneSyncShifted, .rcLaneFails]

section
variable (d : Dev) (pba : Nat) (x : Decoded)

theorem countBlock_regs : d.countBlock pba x = { d with regs := (d.countBlock pba x).regs } := by
  unfold Dev.countBlock
  simp only []
  split <;> rfl

theorem countBlock_other {r : Row} (hr : r ∉ laneCountRows) (ix : List Nat) : (d.countBlock pba x).rd r ix = d.rd r ix := by
  simp only [laneCountRows, List.mem_cons, List.not_mem_nil, or_false, not_or] at hr
  obtain ⟨hblocks, hfly, hshifted, hfails⟩ := hr
  unfold Dev.countBlock
  simp only []
  split <;> simp [Dev.inc, hblocks, hfly, hshifted, hfails]

theorem countBlock_blocks : (d.countBlock pba x).rd .rcLaneBlocks [pbaSurface pba, pbaLane pba - 1] =
    (d.rd .rcLaneBlocks [pbaSurface pba, pbaLane pba - 1] + 1) % 2 ^ 32 := by
  unfold Dev.countBlock
  simp only []
  split <;> simp [Dev.inc, Row.spec]

theorem countBlock_fails : (d.countBlock pba x).rd .rcLaneFails [pbaSurface pba, pbaLane pba - 1] =
    if x.outcome = 0 then d.rd .rcLaneFails [pbaSurface pba, pbaLane pba - 1]
    else (d.rd .rcLaneFails [pbaSurface pba, pbaLane pba - 1] + 1) % 2 ^ 32 := by
  unfold Dev.countBlock
  simp only []
  split <;> simp [Dev.inc, Row.spec]

end

/-! ### A block that passed (R241, R291) -/

/-- The last step of a block that passed. -/
def Dev.blockPassed (d : Dev) (pba : Nat) (x : Decoded) : Dev :=
  let d := d.noteKnown pba (some x.data)
  let d := (d.gatherMember pba (some x.data)).noteScrub pba (decide (d.rd .svWeakCw < x.maxCw)) false
  let d := d.emit (.portData 3 pba x.data)
  (d.readers pba).foldl (fun d o => Dev.serveRead pba x.header x.user 0 false d o) d

theorem gather_pba (ws : List (Nat × Nat)) (pba : Nat) (v : Option Bytes) (e : Ladder) :
    (ws.foldl (fun (x : Ladder) w => if w.2 = pba then { x with gather := tset x.gather w.1 v } else x) e).pba = e.pba :=
  foldl_kept Ladder.pba _ (fun x w => by split <;> rfl) ws e

theorem gatherMember_pba {d : Dev} {pba a : Nat} (v : Option Bytes) (h : ∀ e ∈ d.ladder, e.pba ≠ a) :
    ∀ e ∈ (d.gatherMember pba v).ladder, e.pba ≠ a := by
  intro e he
  obtain ⟨x, hx, rfl⟩ := List.mem_map.1 he
  rw [gather_pba]
  exact h x hx

theorem blockPassed_kept (d : Dev) (pba : Nat) (x : Decoded) :
    ({ d with ladder := ((d.noteKnown pba (some x.data)).gatherMember pba (some x.data)).ladder } : Dev).ReadsKept
      (d.blockPassed pba x) := by
  refine .step (readsKept_foldl (fun d o => serveRead_readsKept _ _ _ _ _ d o) _ _)
    (.other (.step (noteScrub_readsKept _ _ _ _) ?_))
  exact (noteKnown_readsKept d pba (some x.data)).withLadder _

/-! ### A block that failed (R279) -/

section
variable (d : Dev) (pba : Nat)

theorem unrecovered_counts {r : Row} (hr : r ∈ readCountRows) (hne : r ≠ .recovFail) (level det : Nat) (ix : List Nat) :
    (d.unrecovered pba level det).rd r ix = d.rd r ix := by
  have hinc : ∀ u : Dev, (u.inc .recovFail [pbaSurface pba]).rd r ix = u.rd r ix := fun u =>
    (rd_wr _ _ _ _ _ _).trans (if_neg fun he => hne he.1)
  unfold Dev.unrecovered
  simp only []
  rw [(readsKept_foldl (fun x o => failRead_readsKept _ _ x o) _ _).counts r hr]
  split
  · exact leftWith_counts d pba none false true hr ix
  · exact ((raiseFor_readsKept _ _ _ _ _).counts r hr ix).trans ((hinc _).trans (leftWith_counts d pba none false true hr ix))

theorem toLadder_counts {r : Row} (hr : r ∈ readCountRows) (hne : r ≠ .recovFail) (outcome : Nat) (start : Taps)
    (seekFirst : Bool) (x : Decoded) (live : LivePass) (ix : List Nat) :
    (d.toLadder pba outcome start seekFirst x live).rd r ix = d.rd r ix := by
  unfold Dev.toLadder
  split
  · exact unrecovered_counts d pba hr hne _ _ ix
  · exact enter_counts d pba _ _ _ _ _ _ hr ix

theorem toLadder_railWait (outcome : Nat) (start : Taps) (seekFirst : Bool) (x : Decoded) (live : LivePass) :
    (d.toLadder pba outcome start seekFirst x live).railWait = d.railWait := by
  unfold Dev.toLadder
  split
  · exact unrecovered_railWait d pba _ _
  · exact enter_railWait d pba _ _ _ _ _ _

/-- The last step of a block that failed at level 0. -/
def Dev.blockFailed (x : Decoded) (start : Taps) (seekFirst : Bool) (live : LivePass) : Dev :=
  (if x.outcome = 2 then d.noteKnown pba none else d).blankOrLadder pba x.outcome start seekFirst x live

variable (x : Decoded) (start : Taps) (seekFirst : Bool) (live : LivePass)

theorem blankOrLadder_kept (outcome : Nat) :
    (∀ r ∈ readCountRows, r ≠ .recovFail → ∀ ix, (d.blankOrLadder pba outcome start seekFirst x live).rd r ix = d.rd r ix) ∧
    (d.blankOrLadder pba outcome start seekFirst x live).railWait = d.railWait := by
  have hblank := readsKept_foldl (fun d o => failRead_readsKept pba (detOutcome 2) d o)
    ((d.readers pba).filter fun _ => d.neverAllocated pba) d
  unfold Dev.blankOrLadder
  simp only []
  split
  · exact ⟨fun r hr hne ix => (toLadder_counts _ pba hr hne _ _ _ _ _ ix).trans (hblank.counts r hr ix),
      (toLadder_railWait _ pba _ _ _ _ _).trans hblank.railWait⟩
  · exact ⟨fun r hr _ ix => hblank.counts r hr ix, hblank.railWait⟩

theorem noteBlank_kept : d.ReadsKept (if x.outcome = 2 then d.noteKnown pba none else d) :=
  readsKept_ite (noteKnown_readsKept _ _ _) (readsKept_refl d)

theorem blockFailed_kept :
    (∀ r ∈ readCountRows, r ≠ .recovFail → ∀ ix, (d.blockFailed pba x start seekFirst live).rd r ix = d.rd r ix) ∧
    (d.blockFailed pba x start seekFirst live).railWait = d.railWait := by
  have hnoted := noteBlank_kept d pba x
  obtain ⟨hcounts, hwait⟩ := blankOrLadder_kept (if x.outcome = 2 then d.noteKnown pba none else d) pba x start seekFirst live
    x.outcome
  exact ⟨fun r hr hne ix => (hcounts r hr hne ix).trans (hnoted.counts r hr ix), hwait.trans hnoted.railWait⟩

/-- A block that something reads, at a position once allocated, enters the ladder (R279, R290). -/
theorem blankOrLadder_enters (outcome : Nat) (hr : d.readers pba ≠ []) (hnew : d.neverAllocated pba = false)
    (hmax : d.rd .rvMaxlevel ≠ 0) :
    d.blankOrLadder pba outcome start seekFirst x live = d.enter pba 1 outcome start seekFirst x live := by
  have hneeded := stillNeeded_of_readers hr
  unfold Dev.blankOrLadder
  simp only [hnew, List.filter_false, List.foldl_nil, hneeded, if_true]
  exact if_neg hmax

theorem neverAllocated_noteKnown (v : Option Bytes) (a : Nat) : (d.noteKnown pba v).neverAllocated a = d.neverAllocated a := by
  have hocc : ((d.noteKnown pba v).pkS (pbaSurface a)).occupied = (d.pkS (pbaSurface a)).occupied := by
    rw [Dev.noteKnown, pkS_updPk]
    split
    · next h => rw [h]
    · rfl
  simp only [Dev.neverAllocated, hocc]
  rfl

theorem blockFailed_ladder (hr : d.readers pba ≠ []) (hnew : d.neverAllocated pba = false) (hmax : d.rd .rvMaxlevel ≠ 0)
    (hactive : d.rd .rvActive < d.rd .rvMaxActive) (hwaiting : ∀ e ∈ d.ladder, e.waiting = false) :
    (d.blockFailed pba x start seekFirst live).ladder = d.ladder ++
      [{ pba := pba, outcome := x.outcome, decoded := x, start := start, seekFirst := seekFirst, rereading := true,
         live := live }] := by
  have hnone : d.ladder.any Ladder.waiting = false := by simpa using hwaiting
  have henter : ∀ u : Dev, u.readers pba ≠ [] → u.neverAllocated pba = false → u.rd .rvMaxlevel ≠ 0 →
      u.rd .rvActive < u.rd .rvMaxActive → u.ladder = d.ladder →
      (u.blankOrLadder pba x.outcome start seekFirst x live).ladder = d.ladder ++
        [{ pba := pba, outcome := x.outcome, decoded := x, start := start, seekFirst := seekFirst, rereading := true,
           live := live }] := by
    intro u hur hunew humax huactive hul
    rw [blankOrLadder_enters u pba x start seekFirst live _ hur hunew humax, enter_ladder, hul, hnone,
      decide_eq_false (by omega)]
    rfl
  unfold Dev.blockFailed
  split
  · exact henter _ hr ((neverAllocated_noteKnown d pba none pba).trans hnew) hmax hactive rfl
  · exact henter d hr hnew hmax hactive rfl

end

end Sys2Proof.Machine
end

section
/-! SUPPORT. The whole read of a block at level 0, and O54 (R209, R213, R215, R240, R279 to R281). -/

namespace Sys2Proof.Machine

/-- The device in which a block that was read has its figures, and its pass has ended (R244 to R247). -/
def Dev.blockSampled (u : Dev) (pba : Nat) (pass : LivePass × PassEnd) (x : Decoded) : Dev :=
  ((u.countWords (pbaSurface pba) (pbaLane pba) x.codewords).qualityFigures (pbaSurface pba) (pbaLane pba) pass.1.rel).passEnd
    (pbaSurface pba) (pbaLane pba) (pbaLayer pba) false true pass.2

/-- The device v, in which the pass of a block has ended, once the block is counted, the settings in force in d are back, and the
block waits for the rail no more (R240, R243, R248). -/
def Dev.blockCounted (v d : Dev) (pba : Nat) (old : List (Fld × Nat)) (x : Decoded) : Dev :=
  let w := (v.countBlock pba x).asNow d old
  { w with railWait := w.railWait.filter fun w => w.pba != pba }

/-- The last step of a block read at level 0. -/
def Dev.blockOutcome (d : Dev) (pba : Nat) (x : Decoded) (start : Taps) (seekFirst : Bool) (live : LivePass) : Dev :=
  if x.outcome = 0 then d.blockPassed pba x else d.blockFailed pba x start seekFirst live

/-- The whole read of a block, from the device u in which its read has started. -/
def Dev.blockRead (d u : Dev) (pba : Nat) (read : SpotRead) (old : List (Fld × Nat)) : Dev :=
  let start := u.laneTaps (pbaSurface pba) (pbaLane pba)
  let pass := u.livePass pba false false start read
  let x := u.decodePass (pbaSurface pba) pba true pass.1
  ((u.blockSampled pba pass x).blockCounted d pba old x).blockOutcome pba x start (wrongBand pba x.outcome read.fields) pass.1

theorem blockDecoded_of_needed {s : State} {pba : Nat} (read : SpotRead) (hneed : s.dev.neededNow pba = true)
    (hladder : ∀ e ∈ s.dev.ladder, e.pba ≠ pba) (hk : pbaLane pba ≠ 0)
    (hmay : s.dev.mayRead (pbaSurface pba) (pbaLane pba) = true) :
    MakesThenRuns (.blockDecoded pba read) s
      (s.dev.blockRead ((s.dev.asBegun (((s.dev.readBegun pba).map ReadDue.old).getD [])).readStart pba read) pba read
        (((s.dev.readBegun pba).map ReadDue.old).getD [])) := by
  refine makesThenRuns_of_eq rfl ((if_neg ?_).trans rfl)
  simp only [hneed, hmay, hk, Bool.not_true, Bool.false_eq_true, false_and, false_or, or_false]
  simpa using hladder

/-! ### What the counts and the figures of the read leave -/

section
variable (u : Dev) (pba : Nat) (pass : LivePass × PassEnd) (x : Decoded)

theorem blockSampled_samples : Dev.Samples none u (u.blockSampled pba pass x) :=
  .step (passEnd_samples _ _ _ _ _ (by simp)) (.step (qualityFigures_samples _ _ _ _) (countWords_samples _ _ _ _))

variable (v d : Dev) (old : List (Fld × Nat))

theorem blockCounted_samples : Dev.Samples none { v.countBlock pba x with railWait := v.railWait.filter fun w => w.pba != pba }
    (v.blockCounted d pba old x) := by
  have hnow := asNow_samples (own := none) (v.countBlock pba x) d (old := old) (.inl rfl)
  have hwait : (v.countBlock pba x).railWait = v.railWait := by rw [countBlock_regs]
  refine ⟨hnow.regs, fun y hy => ?_, hnow.pk⟩
  cases y
  case railWait => exact congrArg (List.filter fun w : RailWait => w.pba != pba) (hnow.railWait.trans hwait)
  all_goals exact hnow.parts _ hy

end

/-- From d to w a block was read: its counts, its wait for the rail and its pass are all that has changed. -/
structure Dev.BlockRead (d w : Dev) (pba : Nat) (x : Decoded) : Prop where
  rd : ∀ r, passField r = false → r ∉ laneCountRows → ∀ ix, w.rd r ix = d.rd r ix
  blocks : w.rd .rcLaneBlocks [pbaSurface pba, pbaLane pba - 1] =
    (d.rd .rcLaneBlocks [pbaSurface pba, pbaLane pba - 1] + 1) % 2 ^ 32
  fails : w.rd .rcLaneFails [pbaSurface pba, pbaLane pba - 1] =
    if x.outcome = 0 then d.rd .rcLaneFails [pbaSurface pba, pbaLane pba - 1]
    else (d.rd .rcLaneFails [pbaSurface pba, pbaLane pba - 1] + 1) % 2 ^ 32
  cmds : w.cmds = d.cmds
  ladder : w.ladder = d.ladder
  railWait : ∀ e ∈ w.railWait, e.pba ≠ pba
  occupied : ∀ q, (w.pkS q).occupied = (d.pkS q).occupied

theorem blockRead_of_samples {d v : Dev} (h : Dev.Samples none d v) (e : Dev) (pba : Nat) (old : List (Fld × Nat)) (x : Decoded) :
    d.BlockRead (v.blockCounted e pba old x) pba x := by
  have hw := blockCounted_samples pba x v e old
  have hregs := countBlock_regs v pba x
  generalize v.blockCounted e pba old x = w at hw ⊢
  have hpk : ∀ q, (v.countBlock pba x).pkS q = v.pkS q := fun q => by rw [hregs]; rfl
  exact {
    rd := fun r hr hlane ix => (hw.rd hr ix).trans ((countBlock_other v pba x hlane ix).trans (h.rd hr ix))
    blocks := by
      rw [hw.rd (by decide), ← h.rd (r := .rcLaneBlocks) (by decide)]
      exact countBlock_blocks v pba x
    fails := by
      rw [hw.rd (by decide), ← h.rd (r := .rcLaneFails) (by decide)]
      exact countBlock_fails v pba x
    cmds := hw.cmds.trans (Eq.trans (by rw [hregs]) h.cmds)
    ladder := hw.ladder.trans (Eq.trans (by rw [hregs]) h.ladder)
    railWait := by
      rw [hw.railWait]
      simp
    occupied := fun q => (hw.occupied q).trans ((congrArg Pk.occupied (hpk q)).trans (h.occupied q)) }

theorem Dev.BlockRead.readers {d w : Dev} {pba : Nat} {x : Decoded} (h : d.BlockRead w pba x) (a : Nat) :
    w.readers a = d.readers a := by
  rw [Dev.readers, h.cmds]
  rfl

theorem Dev.BlockRead.neverAllocated {d w : Dev} {pba : Nat} {x : Decoded} (h : d.BlockRead w pba x) (a : Nat) :
    w.neverAllocated a = d.neverAllocated a := by
  simp only [Dev.neverAllocated, h.rd .rowNext (by decide) (by decide), h.rd .rowSpareNext (by decide) (by decide), h.occupied]

/-! ### The last step -/

section
variable (w : Dev) (pba : Nat) (x : Decoded) (start : Taps) (seekFirst : Bool) (live : LivePass)

/-- What a read counts and the taps it leaves stay to its end, and so do the blocks that wait for the rail. -/
theorem blockOutcome_kept :
    (∀ r ∈ readCountRows, r ≠ .recovFail → ∀ ix, (w.blockOutcome pba x start seekFirst live).rd r ix = w.rd r ix) ∧
    (w.blockOutcome pba x start seekFirst live).railWait = w.railWait := by
  unfold Dev.blockOutcome
  split
  · have hkept := blockPassed_kept w pba x
    exact ⟨fun r hr _ ix => hkept.counts r hr ix, hkept.railWait⟩
  · exact blockFailed_kept w pba x start seekFirst live

theorem blockOutcome_passed (hout : x.outcome = 0) (h : ∀ e ∈ w.ladder, e.pba ≠ pba) :
    ∀ e ∈ (w.blockOutcome pba x start seekFirst live).ladder, e.pba ≠ pba := by
  rw [Dev.blockOutcome, if_pos hout, (blockPassed_kept w pba x).ladder]
  exact gatherMember_pba (d := w.noteKnown pba (some x.data)) (some x.data) h

theorem blockOutcome_failed (hout : x.outcome ≠ 0) (hr : w.readers pba ≠ []) (hnew : w.neverAllocated pba = false)
    (hmax : w.rd .rvMaxlevel ≠ 0) (hactive : w.rd .rvActive < w.rd .rvMaxActive) (hwaiting : ∀ e ∈ w.ladder, e.waiting = false) :
    (w.blockOutcome pba x start seekFirst live).ladder = w.ladder ++
      [{ pba := pba, outcome := x.outcome, decoded := x, start := start, seekFirst := seekFirst, rereading := true,
         live := live }] := by
  rw [Dev.blockOutcome, if_neg hout]
  exact blockFailed_ladder w pba x start seekFirst live hr hnew hmax hactive hwaiting

end

/-! ### The taps (R213, R215) -/

section
variable {d u : Dev} {p k : Nat}

theorem firTaps_samples (h : Dev.Samples (some k) d u) : u.firTaps p k 7 = d.firTaps p k 7 := by
  simp only [Dev.firTaps, Dev.rdS, h.tap rfl]

end

section
variable (u : Dev) (pba : Nat) (pass : LivePass × PassEnd) (x : Decoded)

/-- With no settings of its start kept, the taps at the end of a read are those after its pass. -/
theorem blockOutcome_taps (v d : Dev) (start : Taps) (seekFirst : Bool) (live : LivePass) {r : Row}
    (hr : r ∈ [Row.rcFirTap, .rcFirSaved]) (ix : List Nat) :
    ((v.blockCounted d pba [] x).blockOutcome pba x start seekFirst live).rd r ix = v.rd r ix := by
  obtain ⟨hcounts, -⟩ := blockOutcome_kept (v.blockCounted d pba [] x) pba x start seekFirst live
  rw [hcounts r (by revert r; decide) (by revert r; decide)]
  exact countBlock_other v pba x (by revert r; decide) ix

theorem figures_samples (own : Option Nat) : Dev.Samples own u
    ((u.countWords (pbaSurface pba) (pbaLane pba) x.codewords).qualityFigures (pbaSurface pba) (pbaLane pba) pass.1.rel) :=
  .step (qualityFigures_samples _ _ _ _) (countWords_samples _ _ _ _)

theorem blockSampled_saved {i : Nat} (hi : i < 15) :
    (u.blockSampled pba pass x).rd .rcFirSaved [pbaSurface pba, pbaLane pba, pbaLayer pba, i] =
      (u.blockSampled pba pass x).rd .rcFirTap [pbaSurface pba, pbaLane pba, i] % 2 ^ 12 :=
  passEnd_saved _ _ _ _ _ hi

theorem blockSampled_adaptOff (h : u.on .rcFirAdapt [pbaSurface pba] = false) (i : Nat) :
    (u.blockSampled pba pass x).rd .rcFirTap [pbaSurface pba, pbaLane pba, i] =
      u.rd .rcFirTap [pbaSurface pba, pbaLane pba, i] := by
  have hfig := figures_samples u pba pass x (some (pbaLane pba))
  rw [Dev.blockSampled, passEnd_tap, tapsEnd_off _ _ _ _ ((hfig.adapt rfl _).trans h)]
  exact hfig.tap rfl _ _

theorem blockSampled_centre (hlt : u.rd .rcFirTap [pbaSurface pba, pbaLane pba, 7] < 2 ^ 12)
    (h : SameCentre (u.firTaps (pbaSurface pba) (pbaLane pba) 7) pass.2.taps.fir) :
    (u.blockSampled pba pass x).rd .rcFirTap [pbaSurface pba, pbaLane pba, 7] =
      u.rd .rcFirTap [pbaSurface pba, pbaLane pba, 7] := by
  have hfig := figures_samples u pba pass x (some (pbaLane pba))
  have htap := hfig.tap (k := pbaLane pba) rfl (pbaSurface pba) 7
  rw [← firTaps_samples hfig] at h
  rw [← htap] at hlt ⊢
  rw [Dev.blockSampled, passEnd_tap]
  exact tapsEnd_centre _ _ h hlt

end

theorem blockDecoded_reads (s : State) (pba p k : Nat) (read : SpotRead) (old : List (Fld × Nat)) (d0 : Dev) (live : LivePass)
    (x : Decoded) (hp : p = pbaSurface pba) (hpk : k = pbaLane pba) (hk : k ≠ 0) (hr : s.dev.readers pba ≠ [])
    (hneed : s.dev.neededNow pba = true) (hladder : ∀ e ∈ s.dev.ladder, e.pba ≠ pba) (hpending : (s.dev.pkS p).rcPending = [])
    (hmay : s.dev.mayRead p k = true) (hold : old = ((s.dev.readBegun pba).map ReadDue.old).getD [])
    (hd0 : d0 = (s.dev.asBegun old).readStart pba read) (hlive : live = (d0.livePass pba false false (d0.laneTaps p k) read).1)
    (hx : x = d0.decodePass p pba true live) :
    ∃ d, MakesThenRuns (.blockDecoded pba read) s d ∧
      (old = [] → (s.dev.spotS p k).lastLayer = some (pbaLayer pba) → s.dev.rd .rcFirTap [p, k, 7] < 2 ^ 12 →
        d.rd .rcFirTap [p, k, 7] = s.dev.rd .rcFirTap [p, k, 7]) ∧
      (old = [] → (s.dev.spotS p k).lastLayer = some (pbaLayer pba) → s.dev.on .rcFirAdapt [p] = false →
        ∀ i, i < 15 → d.rd .rcFirTap [p, k, i] = s.dev.rd .rcFirTap [p, k, i]) ∧
      (old = [] → ∀ i, i < 15 → d.rd .rcFirSaved [p, k, pbaLayer pba, i] = d.rd .rcFirTap [p, k, i] % 2 ^ 12) ∧
      d.rd .rcLaneBlocks [p, k - 1] = (s.dev.rd .rcLaneBlocks [p, k - 1] + 1) % 2 ^ 32 ∧
      (∀ w ∈ d.railWait, w.pba ≠ pba) ∧
      (x.outcome = 0 → d.rd .rcLaneFails [p, k - 1] = s.dev.rd .rcLaneFails [p, k - 1] ∧ ∀ e ∈ d.ladder, e.pba ≠ pba) ∧
      (x.outcome ≠ 0 → d.rd .rcLaneFails [p, k - 1] = (s.dev.rd .rcLaneFails [p, k - 1] + 1) % 2 ^ 32) ∧
      (x.outcome ≠ 0 → s.dev.neverAllocated pba = false → s.dev.rd .rvMaxlevel ≠ 0 →
        s.dev.rd .rvActive < s.dev.rd .rvMaxActive → (∀ e ∈ s.dev.ladder, e.waiting = false) →
        d.ladder = s.dev.ladder ++
          [{ pba := pba, outcome := x.outcome, decoded := x, start := d0.laneTaps p k,
             seekFirst := wrongBand pba x.outcome read.fields, rereading := true, live := live }]) := by
  subst hp hpk
  have hmakes := blockDecoded_of_needed read hneed hladder hk hmay
  have hbegun := asBegun_samples (own := none) s.dev (old := old) (.inl rfl)
  have hstart : Dev.Samples none s.dev d0 := by
    rw [hd0]
    exact .step (readStart_samples read ((congrArg Pk.rcPending (hbegun.pk (pbaSurface pba)) :).trans hpending) (.inl rfl)) hbegun
  have htaps : old = [] → (s.dev.spotS (pbaSurface pba) (pbaLane pba)).lastLayer = some (pbaLayer pba) →
      Dev.Samples (some (pbaLane pba)) s.dev d0 := fun ho hlayer => by
    rw [hd0, ho]
    exact readStart_samples (d := s.dev) read hpending (.inr ⟨rfl, hlayer⟩)
  rw [← hold, ← hd0, Dev.blockRead] at hmakes
  simp only [← hlive, ← hx] at hmakes
  have hcentre := livePass_sameCentre d0 pba false false (d0.laneTaps (pbaSurface pba) (pbaLane pba)) read
  generalize d0.livePass pba false false (d0.laneTaps (pbaSurface pba) (pbaLane pba)) read = pass at hmakes hcentre
  have hread := blockRead_of_samples (hstart.trans (blockSampled_samples d0 pba pass x)) s.dev pba old x
  obtain ⟨hcounts, hwait⟩ := blockOutcome_kept ((d0.blockSampled pba pass x).blockCounted s.dev pba old x) pba x
    (d0.laneTaps (pbaSurface pba) (pbaLane pba)) (wrongBand pba x.outcome read.fields) live
  refine ⟨_, hmakes, fun ho hlayer hlt => ?_, fun ho hlayer hoff i hi => ?_, fun ho i hi => ?_, ?_, ?_, fun hout => ⟨?_, ?_⟩,
    fun hout => ?_, fun hout hnew hmax hactive hwaiting => ?_⟩
  · have htap := (htaps ho hlayer).tap rfl (pbaSurface pba) 7
    rw [ho, blockOutcome_taps _ _ _ _ _ _ _ (by simp), ← htap]
    exact blockSampled_centre d0 pba pass x (htap ▸ hlt) hcentre
  · rw [ho, blockOutcome_taps _ _ _ _ _ _ _ (by simp), ← (htaps ho hlayer).tap rfl]
    exact blockSampled_adaptOff d0 pba pass x (((htaps ho hlayer).adapt rfl _).trans hoff) i
  · rw [ho, blockOutcome_taps _ _ _ _ _ _ _ (by simp), blockOutcome_taps _ _ _ _ _ _ _ (by simp)]
    exact blockSampled_saved d0 pba pass x hi
  · rw [hcounts _ (by decide) (by decide), hread.blocks]
  · rw [hwait]
    exact hread.railWait
  · rw [hcounts _ (by decide) (by decide), hread.fails, if_pos hout]
  · exact blockOutcome_passed _ pba x _ _ _ hout (by rwa [hread.ladder])
  · rw [hcounts _ (by decide) (by decide), hread.fails, if_neg hout]
  · have hrd : ∀ r ∈ [Row.rvMaxlevel, .rvActive, .rvMaxActive], ∀ ix,
        ((d0.blockSampled pba pass x).blockCounted s.dev pba old x).rd r ix = s.dev.rd r ix := fun r hr =>
      hread.rd r (by revert r; decide) (by revert r; decide)
    rw [← hread.ladder] at hwaiting
    rw [blockOutcome_failed _ pba x _ _ _ hout (by rwa [hread.readers]) ((hread.neverAllocated pba).trans hnew)
      (by rwa [hrd _ (by simp)]) (by rwa [hrd _ (by simp), hrd _ (by simp)]) hwaiting, hread.ladder]

/-- Settles O54: the read of a block by its start, its pass and its last step (`blockDecoded_reads`), and one lemma per step of the
ladder. -/
theorem blocksClimbTheLadder : Obligations.BlocksClimbTheLadder := by
  unfold Obligations.BlocksClimbTheLadder
  exact ⟨blockDecoded_reads, railFailed_waits, ladderRereadEnd_reads, ladderLevelDecoded_steps, railWaitExpiry_lost,
    ladderPlaceFree_lets_go, ladderPlaceFree_gives⟩

end Sys2Proof.Machine
end

section
/-! SUPPORT. A row abandoned while it is written, and the test writing of OPC voided (O34; R259, R261, R271, R276). -/

namespace Sys2Proof.Machine

/-! ### A started row of user blocks is abandoned, part by part (R261) -/

/-- The WSTB outputs of pickup p are low, and the row rw is in progress no more: its position is one of those abandoned. -/
def Dev.rowStopped (d : Dev) (p : Nat) (rw : RowWrite) : Dev :=
  (d.fresh.2.emit (.wstbLow p)).updPk p fun k => { k with
    rows := k.rows.filter fun r => r != rw, abandoned := k.abandoned ++ [(rw.layer, rw.row)],
    occupied := tset k.occupied (2 ^ 17 * rw.layer + rw.row) [] }

/-- The abandonment is counted (R271), by its cause and in the defect list. -/
def Dev.abandonCounted (d : Dev) (p cause : Nat) : Dev :=
  (((d.dec .rowInprog [p]).inc .rowAbandoned [p]).inc .pkAbandon [p, cause - 1]).inc .defectAbandoned [p]

/-- A block of the row rw as it goes back to its queue: that of a BLOCK_WRITE has failed at its position (R67). -/
def Blk.offRow (p : Nat) (rw : RowWrite) (lane : Nat) (b : Blk) : Blk :=
  if b.kind = .raw then { b with failedAt := b.failedAt ++ [pbaOf p rw.layer lane rw.row] } else b

/-- The blocks of the row rw are back at the heads of their queues. -/
def Dev.rowRequeued (d : Dev) (p : Nat) (rw : RowWrite) : Dev :=
  rw.lanes.foldl (fun (d : Dev) (e : Nat × Nat) => (d.updBlk e.2 (Blk.offRow p rw e.1)).requeue p e.1 e.2) d

/-- The bits that a row stopped now has emitted (log entry 59). -/
def Dev.bitsEmitted (d : Dev) : Nat := d.fresh.1 % 920641

/-- The device in which the started user row rw is off pickup p, counted, and its blocks are queued again. -/
def Dev.rowGivenUp (d : Dev) (p : Nat) (rw : RowWrite) (cause : Nat) : Dev :=
  ((d.rowStopped p rw).abandonCounted p cause).rowRequeued p rw

theorem abandon_user {d : Dev} {p : Nat} {rw : RowWrite} (hstarted : rw.started = true) (hkind : rw.kind = .user) (cause : Nat) :
    d.abandon p rw cause =
      (((d.rowGivenUp p rw cause).countQueued p).raiseFor (d.causedBy (rw.lanes.map Prod.snd)) (32 * p + 21) evRowAbandoned
        ([rw.layer] ++ le 4 rw.row ++ [cause] ++ le 4 d.bitsEmitted)).sendSettings p := by
  simp only [Dev.abandon, hstarted, if_true, hkind]
  rfl

/-! ### What the device shows -/

/-- What is seen of a device from outside: its registers, what it has put out and the events it has raised. -/
def Dev.shown (d : Dev) : List (Fld × Nat) × List Msg × List Occ := (d.regs, d.out, d.raised)

theorem sendSettings_shown (d : Dev) (p : Nat) : (d.sendSettings p).shown = d.shown := by
  unfold Dev.sendSettings
  simp only []
  split
  · rfl
  · exact foldl_kept Dev.shown (fun (d : Dev) (f : Frame) => d.busWrite p f.reg f.data) (fun _ _ => rfl) _ d

theorem rowRequeued_shown (d : Dev) (p : Nat) (rw : RowWrite) : (d.rowRequeued p rw).shown = d.shown :=
  foldl_kept Dev.shown _ (by exact fun _ _ => rfl) rw.lanes d

theorem abandonCounted_counts (d : Dev) (p cause : Nat) :
    (d.abandonCounted p cause).rd .rowInprog [p] = (d.rd .rowInprog [p] - 1) % 2 ^ 32 ∧
    (d.abandonCounted p cause).rd .rowAbandoned [p] = (d.rd .rowAbandoned [p] + 1) % 2 ^ 32 ∧
    (d.abandonCounted p cause).rd .pkAbandon [p, cause - 1] = (d.rd .pkAbandon [p, cause - 1] + 1) % 2 ^ 32 ∧
    (d.abandonCounted p cause).rd .defectAbandoned [p] = (d.rd .defectAbandoned [p] + 1) % 2 ^ 32 := by
  refine ⟨?_, ?_, ?_, ?_⟩ <;> simp [Dev.abandonCounted, Dev.inc, Dev.dec] <;> rfl

section
variable {d : Dev} {p : Nat} {rw : RowWrite} (hstarted : rw.started = true) (hkind : rw.kind = .user) (cause : Nat)
include hstarted hkind

/-- An abandoned row shows its counts, the WSTB outputs going low and ROW_ABANDONED; what follows on the pickup shows nothing. -/
theorem abandon_user_shown : (d.abandon p rw cause).shown =
    (((d.rowGivenUp p rw cause).countQueued p).regs, d.out ++ [.wstbLow p],
      d.raised ++ [⟨32 * p + 21, evRowAbandoned, [rw.layer] ++ le 4 rw.row ++ [cause] ++ le 4 d.bitsEmitted⟩]) := by
  have hgiven := rowRequeued_shown ((d.rowStopped p rw).abandonCounted p cause) p rw
  obtain ⟨-, hout, hraised⟩ := by simpa only [Dev.shown, Prod.mk.injEq] using hgiven
  rw [abandon_user hstarted hkind, sendSettings_shown]
  exact Prod.ext rfl (Prod.ext hout (congrArg (· ++ [_]) hraised))

/-- Of the registers the abandonment writes its counts, and beside them the number of recovered copies that wait. -/
theorem abandon_user_rd {r : Row} (hr : r ≠ .recovQueued) (ix : List Nat) :
    (d.abandon p rw cause).rd r ix = ((d.rowStopped p rw).abandonCounted p cause).rd r ix := by
  have hregs := congrArg Prod.fst (abandon_user_shown (p := p) (d := d) hstarted hkind cause)
  have hgiven := congrArg Prod.fst (rowRequeued_shown ((d.rowStopped p rw).abandonCounted p cause) p rw)
  calc (d.abandon p rw cause).rd r ix
      = ((d.rowGivenUp p rw cause).countQueued p).rd r ix := congrArg (regGet · ⟨r, ix⟩) hregs
    _ = (d.rowGivenUp p rw cause).rd r ix := (rd_wr _ _ _ _ _ _).trans (if_neg fun h => hr h.1)
    _ = ((d.rowStopped p rw).abandonCounted p cause).rd r ix := congrArg (regGet · ⟨r, ix⟩) hgiven

end

/-- A row being written is abandoned. -/
theorem abandonNow_writing {d : Dev} {p : Nat} {rw : RowWrite} (h : d.rowNow p = some rw) (cause : Nat) :
    d.abandonNow p cause = d.abandon p rw cause := by
  rw [Dev.abandonNow, h]

theorem started_of_rowNow {d : Dev} {p : Nat} {rw : RowWrite} (h : d.rowNow p = some rw) : rw.started = true :=
  List.find?_some h

theorem abandonNow_user (d : Dev) (p cause : Nat) (rw : RowWrite) (hrow : d.rowNow p = some rw) (hkind : rw.kind = .user) :
    ∃ bits, (d.abandonNow p cause).raised =
        d.raised ++ [⟨32 * p + 21, 0x0801, [rw.layer] ++ le 4 rw.row ++ [cause] ++ le 4 bits⟩] ∧
      (d.abandonNow p cause).out = d.out ++ [.wstbLow p] ∧
      (d.abandonNow p cause).rd .rowInprog [p] = (d.rd .rowInprog [p] - 1) % 2 ^ 32 ∧
      (d.abandonNow p cause).rd .rowAbandoned [p] = (d.rd .rowAbandoned [p] + 1) % 2 ^ 32 ∧
      (d.abandonNow p cause).rd .pkAbandon [p, cause - 1] = (d.rd .pkAbandon [p, cause - 1] + 1) % 2 ^ 32 ∧
      (d.abandonNow p cause).rd .defectAbandoned [p] = (d.rd .defectAbandoned [p] + 1) % 2 ^ 32 := by
  have hstarted := started_of_rowNow hrow
  have hshown := abandon_user_shown (d := d) (p := p) hstarted hkind cause
  have hrd : ∀ r ≠ Row.recovQueued, ∀ ix, (d.abandon p rw cause).rd r ix = ((d.rowStopped p rw).abandonCounted p cause).rd r ix :=
    fun r hr => abandon_user_rd hstarted hkind cause hr
  rw [abandonNow_writing hrow, hrd .rowInprog (by decide), hrd .rowAbandoned (by decide), hrd .pkAbandon (by decide),
    hrd .defectAbandoned (by decide)]
  exact ⟨d.bitsEmitted, congrArg (·.2.2) hshown, congrArg (·.2.1) hshown, abandonCounted_counts (d.rowStopped p rw) p cause⟩

/-! ### No row is being written: the test writing of OPC (R276) -/

theorem voidTest_not_running {d : Dev} {p : Nat} (h : ((d.pkS p).opc.any fun e => e.2.running) = false) : d.voidTest p = d := by
  refine if_neg fun hvoid => ?_
  obtain ⟨e, he, hruns⟩ := List.any_eq_true.1 hvoid
  obtain ⟨⟨hrunning, -⟩, -⟩ : (e.2.running = true ∧ e.2.begun = true) ∧ e.2.void = false := by simpa using hruns
  exact List.any_eq_false.1 h e he hrunning

theorem voidTest_running {d : Dev} {p L : Nat} {o : Opc} (hopc : (d.pkS p).opc = [(L, o)]) (hrunning : o.running = true)
    (hbegun : o.begun = true) (hvoid : o.void = false) :
    (d.voidTest p).out = d.out ++ [.wstbLow p] ∧ ((d.voidTest p).pkS p).opc = [(L, { o with void := true })] := by
  have hruns : ((d.pkS p).opc.any fun e => e.2.running && e.2.begun && !e.2.void) = true := by
    simp [hopc, hrunning, hbegun, hvoid]
  rw [Dev.voidTest, if_pos hruns]
  refine ⟨rfl, ?_⟩
  have hkept : (d.emit (.wstbLow p)).pkS p = d.pkS p := rfl
  rw [pkS_updPk_self, hkept]
  simp [hopc, hrunning, hbegun]

/-- Settles O34: by the row being written (`abandonNow_user`), or with none by the run of OPC that `Dev.voidTest` meets. -/
theorem abandonedRowsAreCounted : Obligations.AbandonedRowsAreCounted := by
  unfold Obligations.AbandonedRowsAreCounted
  refine ⟨abandonNow_user, fun d p cause hrow hopc => ?_, fun d p cause L o hrow hopc hrunning hbegun hvoid => ?_⟩
  · rw [abandonNow_idle hrow, voidTest_not_running hopc]
  · obtain ⟨hout, hvoided⟩ := voidTest_running hopc hrunning hbegun hvoid
    rw [abandonNow_idle hrow]
    exact ⟨hout, hvoided, onlyChanges_voidTest d p (by simp) (by simp)⟩

end Sys2Proof.Machine
end
section
/-! SUPPORT. Index words (O7, O8): the records of the three kinds of ring, and what a read of an index word that is
issued, asked for or come back changes (R315 to R318).

The lemmas of one layer of a development stand in a `mutual` block. None of them uses another of its block: the block
is there because Lean stores the terms that its lemmas share only once, without which this text does not fit the memory
of the check. -/

namespace Sys2Proof.Machine

/-! ### Registers, records and the ring that a number picks (R315) -/

mutual

theorem tget_tset_self {α : Type} (x : α) (t : Tab α) (k : Nat) (v : α) : tget x (tset t k v) k = v :=
  (tget_tset x t k k v).trans (if_pos rfl)

theorem rd_wr_ne (d : Dev) {r f : Row} (ix jx : List Nat) (v : Nat) (h : f ≠ r) : (d.wr r ix v).rd f jx = d.rd f jx :=
  (rd_wr ..).trans (if_neg fun e => h e.1)

theorem rd_wr_same (d : Dev) (r : Row) (ix : List Nat) (v : Nat) : (d.wr r ix v).rd r ix = v % 2 ^ r.spec.width :=
  (rd_wr ..).trans (if_pos ⟨rfl, rfl⟩)

theorem onlyChanges_updEq (d : Dev) (q : Nat) (f : EqState → EqState) {fs : List Fld} {es : List (Table × Nat)}
    {ps : List Part} (h : (.eq, q) ∈ es) : d.OnlyChanges (d.updEq q f) fs es ps := by
  have htables (t : Table) (k : Nat) (hk : (t, k) ∉ es) : t.Same d (d.updEq q f) k := by
    have hsame := (onlyChanges_refl d [] [] []).2.1 t k List.not_mem_nil
    have hq : t = .eq → k ≠ q := fun ht hkq => hk (ht ▸ hkq ▸ h)
    clear hk h
    induction t
    case eq => exact (tget_tset ..).trans (if_neg (hq rfl))
    all_goals exact hsame
  have hparts (p : Part) (hsame : p.Same d d) : p.Same d (d.updEq q f) := by
    induction p
    all_goals exact hsame
  exact ⟨fun _ _ => rfl, htables, fun p _ => hparts p ((onlyChanges_refl d [] [] []).2.2 p List.not_mem_nil)⟩

/-- What holds of the records of a submission ring, of a completion ring and of an event ring holds of the one that the
number of a ring picks (R315). -/
theorem byRing (sel : Nat) {P : (∀ α : Type, α → α → α → α) → Prop} (hs : sel < 256 → P fun _ a _ _ => a)
    (hc : 256 ≤ sel → sel < 512 → P fun _ _ a _ => a) (he : 512 ≤ sel → P fun _ _ _ a => a) :
    P fun _ a b c => if sel < 256 then a else if sel < 512 then b else c := by
  cases Nat.decLt sel 256 with
  | isTrue h => exact hs h
  | isFalse h =>
    cases Nat.decLt sel 512 with
    | isTrue h' => exact hc (Nat.le_of_not_lt h) h'
    | isFalse h' => exact he (Nat.le_of_not_lt h')

end

/-- The number of the ring of a record. -/
noncomputable def ringNumber (e : Table × Nat) : Nat :=
  if e.1 = .sq then e.2 else if e.1 = .cq then e.2 + 256 else e.2 + 512

mutual

theorem rd_inc_ne (d : Dev) {r f : Row} (ix jx : List Nat) (n : Nat) (h : f ≠ r) : (d.inc r ix n).rd f jx = d.rd f jx :=
  rd_wr_ne _ _ _ _ h

theorem ringNumber_ringEntry (x : Nat) : ringNumber (ringEntry x) = x :=
  byRing x (P := fun pick => ringNumber (pick _ (.sq, x) (.cq, x - 256) (.eq, x - 512)) = x) (fun _ => rfl)
    (fun h _ => Nat.sub_add_cancel h) fun h => Nat.sub_add_cancel h

/-- A ring whose record stays keeps its read of the index word. -/
theorem readIssued_of_same {d e : Dev} {x : Nat} (h : (ringEntry x).1.Same d e (ringEntry x).2) :
    e.readIssued x = d.readIssued x :=
  byRing x (P := fun pick => let r := pick _ (Table.sq, x) (.cq, x - 256) (.eq, x - 512)
      let flag (d : Dev) := pick _ (d.sqS x).readIssued (d.cqS (x - 256)).readIssued (d.eqS (x - 512)).readIssued
      r.1.Same d e r.2 → flag e = flag d)
    (fun _ => congrArg SqState.readIssued) (fun _ _ => congrArg CqState.readIssued) (fun _ => congrArg EqState.readIssued) h

/-- An update of a ring's record leaves the registers, the commands and the occurrences. -/
theorem updRing_keeps (d : Dev) (sel : Nat) (f : SqState → SqState) (g : CqState → CqState) (k : EqState → EqState)
    (e : Dev)
    (he : e = if sel < 256 then d.updSq sel f else if sel < 512 then d.updCq (sel - 256) g else d.updEq (sel - 512) k) :
    (e.regs, e.cmds, e.raised) = (d.regs, d.cmds, d.raised) :=
  byRing sel (P := fun pick => e = pick _ (d.updSq sel f) (d.updCq (sel - 256) g) (d.updEq (sel - 512) k) →
    (e.regs, e.cmds, e.raised) = (d.regs, d.cmds, d.raised)) (fun _ h => h ▸ rfl) (fun _ _ h => h ▸ rfl)
      (fun _ h => h ▸ rfl) he

/-- An update of the record of a ring, by the ring's kind. -/
theorem onlyChanges_updRing (d : Dev) (sel : Nat) (f : SqState → SqState) (g : CqState → CqState)
    (k : EqState → EqState) {fs : List Fld}
    {es : List (Table × Nat)} {ps : List Part} : ringEntry sel ∈ es → d.OnlyChanges (if sel < 256 then d.updSq sel f
      else if sel < 512 then d.updCq (sel - 256) g else d.updEq (sel - 512) k) fs es ps :=
  byRing sel (P := fun pick => pick _ (.sq, sel) (.cq, sel - 256) (.eq, sel - 512) ∈ es →
      d.OnlyChanges (pick _ (d.updSq sel f) (d.updCq (sel - 256) g) (d.updEq (sel - 512) k)) fs es ps)
    (fun _ => onlyChanges_updSq d _ _) (fun _ _ => onlyChanges_updCq d _ _) fun _ => onlyChanges_updEq d _ _

/-- What an update of the record of a ring makes of what is read in it, by the ring's kind. -/
theorem read_updRing (d : Dev) (sel : Nat) (f : SqState → SqState) (g : CqState → CqState) (k : EqState → EqState)
    (u : SqState → Bool)
    (v : CqState → Bool) (w : EqState → Bool) (e : Dev) (he : e = if sel < 256 then d.updSq sel f
      else if sel < 512 then d.updCq (sel - 256) g else d.updEq (sel - 512) k) :
    (if sel < 256 then u (e.sqS sel) else if sel < 512 then v (e.cqS (sel - 256)) else w (e.eqS (sel - 512))) =
    if sel < 256 then u (f (d.sqS sel)) else if sel < 512 then v (g (d.cqS (sel - 256))) else w (k (d.eqS (sel - 512))) :=
  byRing sel (P := fun pick => e = pick _ (d.updSq sel f) (d.updCq (sel - 256) g) (d.updEq (sel - 512) k) →
      pick _ (u (e.sqS sel)) (v (e.cqS (sel - 256))) (w (e.eqS (sel - 512))) = pick _ _ _ _)
    (fun _ h => congrArg u (h ▸ tget_tset_self ..)) (fun _ _ h => congrArg v (h ▸ tget_tset_self ..))
    (fun _ h => congrArg w (h ▸ tget_tset_self ..)) he

end

/-! ### The flags of a read of an index word (R316) -/

mutual

theorem ringEntry_injective : Function.Injective ringEntry := Function.LeftInverse.injective ringNumber_ringEntry

theorem readOwed_setOwed (d : Dev) (sel : Nat) (b : Bool) : (d.setOwed sel b).readOwed sel = b :=
  (read_updRing d sel _ _ _ SqState.readOwed CqState.readOwed EqState.readOwed (d.setOwed sel b) rfl).trans
    (byRing sel (P := fun pick => pick _ b b b = b) (fun _ => rfl) (fun _ _ => rfl) fun _ => rfl)

theorem readIssued_setIssued (d : Dev) (sel : Nat) (b : Bool) : (d.setIssued sel b).readIssued sel = b :=
  (read_updRing d sel _ _ _ SqState.readIssued CqState.readIssued EqState.readIssued (d.setIssued sel b) rfl).trans
    (byRing sel (P := fun pick => pick _ b b b = b) (fun _ => rfl) (fun _ _ => rfl) fun _ => rfl)

theorem readOwed_setIssued (d : Dev) (sel : Nat) (b : Bool) : (d.setIssued sel b).readOwed sel = d.readOwed sel :=
  (read_updRing d sel _ _ _ SqState.readOwed CqState.readOwed EqState.readOwed (d.setIssued sel b) rfl).trans rfl

theorem onlyChanges_setOwed (d : Dev) (sel : Nat) (b : Bool) {fs : List Fld} {es : List (Table × Nat)}
    {ps : List Part} (h : ringEntry sel ∈ es) : d.OnlyChanges (d.setOwed sel b) fs es ps :=
  onlyChanges_updRing d sel _ _ _ h

theorem onlyChanges_setIssued (d : Dev) (sel : Nat) (b : Bool) {fs : List Fld} {es : List (Table × Nat)}
    {ps : List Part} (h : ringEntry sel ∈ es) : d.OnlyChanges (d.setIssued sel b) fs es ps :=
  onlyChanges_updRing d sel _ _ _ h

/-- A read of an index word that is issued leaves the registers, the commands and the occurrences. -/
theorem issueIndex_keeps (d : Dev) (sel : Nat) :
    ((d.issueIndex sel).regs, (d.issueIndex sel).cmds, (d.issueIndex sel).raised) = (d.regs, d.cmds, d.raised) :=
  (updRing_keeps _ sel _ _ _ _ rfl).trans (updRing_keeps d sel _ _ _ _ rfl)

end

/-! ### A read of an index word is issued (R316) -/

mutual

theorem issueIndex_readIssued (d : Dev) (sel : Nat) : (d.issueIndex sel).readIssued sel = true :=
  readIssued_setIssued _ sel true

theorem issueIndex_readOwed (d : Dev) (sel : Nat) : (d.issueIndex sel).readOwed sel = false :=
  (readOwed_setIssued _ sel true).trans (readOwed_setOwed d sel false)

theorem onlyChanges_flags (d : Dev) (sel : Nat) (b : Bool) {fs : List Fld} {es : List (Table × Nat)} {ps : List Part}
    (a : Bool) (h : ringEntry sel ∈ es) :
    d.OnlyChanges ((d.setOwed sel a).setIssued sel b) fs es ps :=
  (onlyChanges_setOwed d sel a h).trans (onlyChanges_setIssued _ sel b h)

theorem issueIndex_rd (d : Dev) (sel : Nat) (f : Row) (ix : List Nat) : (d.issueIndex sel).rd f ix = d.rd f ix :=
  congrArg (fun k : _ × List Cmd × List Occ => regGet k.1 ⟨f, ix⟩) (issueIndex_keeps d sel)

end

mutual

theorem issueIndex_out (d : Dev) (sel : Nat) : (d.issueIndex sel).out = d.out ++ [.hostRead (d.indexAddr sel) 8 false] :=
  congrArg (· ++ _) ((onlyChanges_flags (fs := []) (ps := []) d sel true false (List.mem_singleton_self _)).2.2 .out
    List.not_mem_nil)

theorem onlyChanges_issueIndex (d : Dev) (sel : Nat) {fs : List Fld} {es : List (Table × Nat)} {ps : List Part}
    (h : ringEntry sel ∈ es) (ho : .out ∈ ps) : d.OnlyChanges (d.issueIndex sel) fs es ps :=
  (onlyChanges_flags d sel true false h).trans (onlyChanges_emit _ _ ho)

end

/-! ### Polls of index words (R317, R322) -/

theorem pollIndex_spec (d : Dev) (sel : Nat) {fs : List Fld} {es : List (Table × Nat)} {ps : List Part}
    (h : ringEntry sel ∈ es) (ho : .out ∈ ps) : (d.pollIndex sel).readIssued sel = true ∧
    (d.pollIndex sel).out = d.out ++ (if d.readIssued sel then [] else [.hostRead (d.indexAddr sel) 8 false]) ∧
    d.OnlyChanges (d.pollIndex sel) fs es ps := by
  by_cases hi : d.readIssued sel = true
  · rw [Dev.pollIndex, if_pos hi, if_pos hi]
    exact ⟨hi, (List.append_nil _).symm, onlyChanges_refl d _ _ _⟩
  · rw [Dev.pollIndex, if_neg hi, if_neg hi]
    exact ⟨issueIndex_readIssued d sel, issueIndex_out d sel, onlyChanges_issueIndex d sel h ho⟩

/-- A poll leaves the reads that are on their way. -/
theorem pollIndex_keeps_issued (d : Dev) (sel : Nat) {x : Nat} (h : d.readIssued x = true) :
    (d.pollIndex sel).readIssued x = true := by
  obtain ⟨hown, -, hframe⟩ := pollIndex_spec (fs := []) d sel (List.mem_singleton_self _) (List.mem_singleton_self _)
  by_cases hx : x = sel
  · exact hx ▸ hown
  · exact (readIssued_of_same (hframe.2.1 _ _ fun hm => hx (ringEntry_injective (List.mem_singleton.1 hm)))).trans h

/-- Every index word polled is being read afterwards. -/
theorem foldl_pollIndex_readIssued (d : Dev) {x : Nat} (l : List Nat) (h : d.readIssued x = true ∨ x ∈ l) :
    (l.foldl Dev.pollIndex d).readIssued x = true := by
  induction l generalizing d with
  | nil => exact h.resolve_right List.not_mem_nil
  | cons y l ih =>
    refine ih _ (h.elim (fun h => .inl (pollIndex_keeps_issued d y h)) fun h => (List.mem_cons.1 h).imp_left fun hx => ?_)
    exact hx ▸ (pollIndex_spec (fs := []) d x (List.mem_singleton_self _) (List.mem_singleton_self _)).1

end Sys2Proof.Machine
end
section
/-! SUPPORT. Wellhead writes and polls (O7; R315 to R317, R322). -/

namespace Sys2Proof.Machine

mutual

/-- A wellhead write that selects an index word of an enabled ring asks for it (R315). -/
theorem wellheadWrite_asks {s : State} {v : Nat} (hr : s.dev.ready = true) (hv : v < 0x240)
    (he : s.dev.indexEnabled v = true) : Makes (.wellheadWrite 0 v) s (s.dev.askIndex v) :=
  makes_of_eq rfl (if_pos (Bool.and_eq_true_iff.2 ⟨Bool.and_eq_true_iff.2
    ⟨Bool.and_eq_true_iff.2 ⟨hr, rfl⟩, decide_eq_true hv⟩, he⟩))

/-- Other offsets and values, and rings that are disabled, are ignored (R315). -/
theorem wellheadWrite_ignored (s : State) (o v : Nat) (h : o ≠ 0 ∨ 0x240 ≤ v ∨ s.dev.indexEnabled v = false) :
    Makes (.wellheadWrite o v) s s.dev := by
  refine makes_of_eq rfl (if_neg fun hc => ?_)
  obtain ⟨hc, he⟩ := Bool.and_eq_true_iff.1 hc
  obtain ⟨hc, hv⟩ := Bool.and_eq_true_iff.1 hc
  obtain ⟨-, ho⟩ := Bool.and_eq_true_iff.1 hc
  rcases h with h | h | h
  · exact h (beq_iff_eq.1 ho)
  · exact Nat.not_lt.2 h (of_decide_eq_true hv)
  · exact Bool.false_ne_true (h.symm.trans he)

/-- The head word of a completion or event ring that is full is read again (R322, R484). -/
theorem fullRingReread_polls {s : State} {x : Fin 576} (hx : 256 ≤ x.val) (he : s.dev.indexEnabled x = true)
    (hc : x.val < 512 → s.dev.cqFull (x.val - 256) = true)
    (hq : 512 ≤ x.val → s.dev.eqFull (x.val - 512) = true ∨ s.dev.eventWaits s.ev (x.val - 512) = true) :
    Makes (.fullRingReread x) s (s.dev.pollIndex x) :=
  makes_of_eq rfl (if_pos (byRing x (P := fun pick => pick _ (s.dev.on .sqEn [x.val]) (s.dev.on .cqEn [x.val - 256])
        (s.dev.on .eqEn [x.val - 512]) = true → pick _ false (s.dev.on .cqEn [x.val - 256] && s.dev.cqFull (x.val - 256))
        (s.dev.on .eqEn [x.val - 512] && (s.dev.eqFull (x.val - 512) || s.dev.eventWaits s.ev (x.val - 512))) = true)
    (fun h => absurd hx (Nat.not_le.2 h)) (fun _ h he => Bool.and_eq_true_iff.2 ⟨he, hc h⟩)
    (fun h he => Bool.and_eq_true_iff.2 ⟨he, Bool.or_eq_true_iff.2 (hq h)⟩) he))

theorem pollIndex_keeps (d : Dev) (sel : Nat) :
    ((d.pollIndex sel).regs, (d.pollIndex sel).cmds, (d.pollIndex sel).raised) = (d.regs, d.cmds, d.raised) := by
  by_cases hi : d.readIssued sel = true
  · rw [Dev.pollIndex, if_pos hi]
  · rw [Dev.pollIndex, if_neg hi]
    exact issueIndex_keeps d sel

end

end Sys2Proof.Machine
end
section
/-! SUPPORT. A queue reset of a ring with nothing in flight (O11; R338, R339). -/

namespace Sys2Proof.Machine

/-- The completions that go leave those that wait, `inflight` commands of ring t are in flight no more, and they and the `unread`
descriptors that have not been consumed are counted as aborted (R338 steps 2, 3). -/
noncomputable def Dev.resetCounted (d : Dev) (t : Nat) (goes : List Compl) (inflight unread : Nat) : Dev :=
  (((d.updCq (d.rd .sqCq [t]) fun q => { q with waiting := q.waiting.filter fun k => !goes.contains k }).dec .sqInflight [t]
    inflight).inc .sqAborted [t] (inflight + unread)).inc .sqConsumed [t] unread

/-- What a QUEUE_RESET makes of ring t when the commands `mine` of the ring go, `waiting` are the completions that wait for its
completion ring, and `unstarted` and `unread` of its descriptors have not started and have not been consumed. -/
noncomputable def Dev.resetRing (d : Dev) (t tail seq : Nat) (mine : List Cmd) (waiting : List Compl)
    (unstarted unread : Nat) :
    Dev :=
  let goes : List Compl := (waiting.filter fun k => k.ring == t && !k.marker).filter fun k =>
    !([0x01, 0x08, 0x09, 0x10, 0x18, 0x19, 0x1A, 0x20, 0x29, 0x2A, 0x31, 0x39].contains k.op)
  let first : Nat := if goes.isEmpty && mine.isEmpty && unstarted + unread == 0 then tail
    else
      let seqs : List Nat := goes.map Compl.seq
        ++ (mine.filterMap fun c => match c.origin with | .ring _ q => some q | _ => none)
        ++ (if unstarted + unread = 0 then [] else [(d.sqS t).started])
      let age := fun (q : Nat) => (tail + 2 ^ 32 - q) % 2 ^ 32
      seqs.foldl (fun a q => if age a < age q then q else a) (seqs.headD tail)
  let inflight := mine.length + unstarted + goes.length
  (((mine.foldl (fun d c => d.abort c.origin) d).resetCounted t goes inflight unread).updSq t fun q => { q with
    tail := tail, started := tail,
    resetting := q.resetting ++ [(seq, inflight + unread, first, (tail + 2 ^ 32 - 1) % 2 ^ 32)] }).issueIndex t

/-- The descriptor of a QUEUE_RESET of ring t. -/
noncomputable def resetCmd (cookie t : Nat) : Cmd := { origin := .ring 0 0, op := 0x38, cookie := cookie, arg := t }

mutual

/-- The record of a submission ring that is updated and whose tail word is then read. -/
theorem updSq_issueIndex_sqS {d e : Dev} {t : Nat} {f : SqState → SqState} (ht : t < 256)
    (he : e = (d.updSq t f).issueIndex t) : e.sqS t = { f (d.sqS t) with readOwed := false, readIssued := true } :=
  (congrArg (Dev.sqS · t) (he.trans (congrArg (Dev.emit · _) ((if_pos ht).trans (congrArg (Dev.updSq · t _) (if_pos ht)) :
    ((d.updSq t f).setOwed t false).setIssued t true = ((d.updSq t f).updSq t _).updSq t _)))).trans
      ((tget_tset_self ..).trans
      (congrArg (fun q : SqState => { q with readIssued := true }) ((tget_tset_self ..).trans
        (congrArg (fun q : SqState => { q with readOwed := false }) (tget_tset_self ..)))))

/-- The oldest of the sequence numbers that go, when only descriptors that have not been consumed go: that of the next one. -/
theorem first_of_placed {n tail next next' : Nat} {age : Nat → Nat} (hn : next' = next) :
    (if (0 + n == 0) = true then tail else (if 0 + n = 0 then [] else [next']).foldl
      (fun a q => if age a < age q then q else a)
        ((if 0 + n = 0 then [] else [next']).headD tail)) = if n = 0 then tail else next := by
  rw [hn, Nat.zero_add]
  cases n with
  | zero => rfl
  | succ n => exact ite_self _

theorem resetCounted_kept {d : Dev} {t n : Nat} {goes : List Compl} {a : Nat} (f : Row)
    (h : f ≠ .sqInflight ∧ f ≠ .sqAborted ∧ f ≠ .sqConsumed) :
    (d.resetCounted t goes a n).rd f [t] = d.rd f [t] :=
  (rd_inc_ne _ _ _ _ h.2.2).trans ((rd_inc_ne _ _ _ _ h.2.1).trans (rd_wr_ne _ _ _ _ h.1))

theorem resetCounted_consumed {d : Dev} {t n : Nat} {goes : List Compl} {a : Nat} :
    (d.resetCounted t goes a n).rd .sqConsumed [t] = (d.rd .sqConsumed [t] + n) % 2 ^ 32 :=
  (rd_wr_same ..).trans (congrArg (fun x => (x + n) % 2 ^ 32)
    ((rd_inc_ne _ _ _ _ (by decide)).trans (rd_wr_ne _ _ _ _ (by decide))))

theorem resetCounted_aborted {d : Dev} {t n : Nat} {goes : List Compl} :
    (d.resetCounted t goes 0 n).rd .sqAborted [t] = (d.rd .sqAborted [t] + n) % 2 ^ 32 :=
  (rd_inc_ne _ _ _ _ (by decide)).trans ((rd_wr_same ..).trans
    (congrArg₂ (fun x y => (x + y) % 2 ^ 32) (rd_wr_ne _ _ _ _ (by decide)) (Nat.zero_add n)))

theorem resetCounted_inflight {d : Dev} {t n : Nat} {goes : List Compl} (h : d.rd .sqInflight [t] ≤ 4096) :
    (d.resetCounted t goes 0 n).rd .sqInflight [t] = d.rd .sqInflight [t] :=
  (rd_inc_ne _ _ _ _ (by decide)).trans ((rd_inc_ne _ _ _ _ (by decide)).trans
    ((rd_wr_same ..).trans (Nat.mod_eq_of_lt (Nat.lt_of_le_of_lt h (by decide)))))

theorem no_distance {a b : Nat} (h : b = a) : (a + 2 ^ 32 - b) % 2 ^ 32 = 0 := by
  rw [h, Nat.add_sub_cancel_left, Nat.mod_self]

theorem resetRing_congr {d : Dev} {t tail tail' seq unstarted n n' : Nat} {mine : List Cmd} {waiting : List Compl}
    (hm : mine = []) (hw : waiting = []) (hu : unstarted = 0) (ht : tail' = tail) (hn : n' = n) :
    d.resetRing t tail' seq mine waiting unstarted n' = d.resetRing t tail seq [] [] 0 n := by
  rw [hm, hw, hu, ht, hn]

end

mutual

/-- With none of ring t in flight, its n placed descriptors are counted as consumed and aborted, and the ring restarts at its tail
word and asks for it. -/
theorem resetRing_idle {d D : Dev} {t n tail seq : Nat} {l : List (Nat × Nat × Nat × Nat)} (ht : t < 256)
    (hst : (d.sqS t).started = d.rd .sqConsumed [t]) (hl : (d.sqS t).resetting = l)
    (hD : D = d.resetRing t tail seq [] [] 0 n) :
    D.rd .sqConsumed [t] = (d.rd .sqConsumed [t] + n) % 2 ^ 32 ∧ D.rd .sqAborted [t] = (d.rd .sqAborted [t] + n) % 2 ^ 32 ∧
      (d.rd .sqInflight [t] ≤ 4096 → D.rd .sqInflight [t] = d.rd .sqInflight [t]) ∧
      (D.sqS t).tail = tail ∧ (D.sqS t).started = tail ∧
      (D.sqS t).resetting = l ++ [(seq, n, if n = 0 then tail else d.rd .sqConsumed [t], (tail + 2 ^ 32 - 1) % 2 ^ 32)] ∧
      D.out = d.out ++ [.hostRead (d.rd64 .sqTailLo .sqTailHi [t]) 8 false] := by
  have hrd (f : Row) : D.rd f [t] = (d.resetCounted t [] 0 n).rd f [t] :=
    (congrArg (Dev.rd · f [t]) hD).trans (issueIndex_rd _ t f [t])
  have hrecord := updSq_issueIndex_sqS ht hD
  refine ⟨(hrd _).trans resetCounted_consumed, (hrd _).trans resetCounted_aborted,
    fun h => (hrd _).trans (resetCounted_inflight h), congrArg SqState.tail hrecord, congrArg SqState.started hrecord,
    (congrArg SqState.resetting hrecord).trans
      (congrArg₂ (· ++ [·]) hl (congrArg₂ (fun k x => (seq, k, x, (tail + 2 ^ 32 - 1) % 2 ^ 32)) (Nat.zero_add n)
        (first_of_placed hst))),
    (congrArg Dev.out hD).trans ((issueIndex_out _ t).trans (congrArg (fun x => d.out ++ [Msg.hostRead x 8 false])
      ((if_pos ht).trans (congrArg₂ (fun x y => x + 2 ^ 32 * y) (resetCounted_kept _ (by decide))
        (resetCounted_kept _ (by decide))))))⟩

/-- A QUEUE_RESET of a ring with nothing in flight, no completion waiting and every consumed descriptor started finds only what the
host has placed. -/
theorem queueReset_idle {s : State} {cookie t tail : Nat} (hs : s.dev.mayStart 0) (ht : 0 < t) (hlt : t < 256)
    (hc : s.dev.cmds = []) (hw : (s.dev.cqS (s.dev.rd .sqCq [t])).waiting = []) (htail : tail < 2 ^ 32)
    (hst : ((s.dev.started 0 (resetCmd cookie t)).sqS t).started = s.dev.rd .sqConsumed [t]) :
    MakesThenRuns (.queueReset 0 cookie t tail) s
      ((s.dev.started 0 (resetCmd cookie t)).resetRing t tail (s.dev.sqS 0).started
      [] [] 0 ((tail + 2 ^ 32 - s.dev.rd .sqConsumed [t]) % 2 ^ 32)) := by
  have hmine {p : Cmd → Bool} :
      ((s.dev.started 0 (resetCmd cookie t)).cmds.filter fun c => c.origin.sameQueue (.ring t 0) && p c) = [] := by
    rw [started_alone hc]
    exact List.filter_cons_of_neg fun h => ht.ne (beq_iff_eq.1 (Bool.and_eq_true_iff.1 h).1)
  have hbad : ¬((0 : Fin 256).val ≠ 0 ∨ t = 0 ∨ 255 < t) :=
    fun h => h.elim (fun h => h rfl) fun h => h.elim ht.ne' (Nat.not_lt.2 (Nat.le_of_lt_succ hlt))
  have hmod := Nat.mod_eq_of_lt htail
  exact makesThenRuns_of_eq (makesThenRuns_of_mayStart (c := resetCmd cookie t) (k := fun d o =>
    if (0 : Fin 256).val ≠ 0 ∨ t = 0 ∨ 255 < t then d.refuse o clsDevice detAdminOnly
    else d.resetRing t (tail % 2 ^ 32) (match o with | .ring _ q => q | _ => 0)
      (d.cmds.filter fun c => c.origin.sameQueue (.ring t 0) && !c.runsOn) (d.cqS (d.rd .sqCq [t])).waiting
      ((d.rd .sqConsumed [t] + 2 ^ 32 - (d.sqS t).started) % 2 ^ 32)
        ((tail % 2 ^ 32 + 2 ^ 32 - d.rd .sqConsumed [t]) % 2 ^ 32))
    rfl hs) ((if_neg hbad).trans (resetRing_congr hmine hw (no_distance hst) hmod
      (congrArg (fun x => (x + 2 ^ 32 - _) % 2 ^ 32) hmod)))

end

end Sys2Proof.Machine
end
section
/-! SUPPORT. Index words that come back (O8): the flags of their ring, and what a tail word lets the ring consume (R316
to R320, R345). -/

namespace Sys2Proof.Machine

/-- The device to which the index word of ring x has come back: a wellhead write that came meanwhile makes it read the word
again. -/
noncomputable def Dev.indexBack (d : Dev) (x : Nat) : Dev :=
  if (d.setIssued x false).readOwed x then (d.setIssued x false).issueIndex x else d.setIssued x false

mutual

/-- What is picked for completion ring c. -/
theorem pick_cq {α : Type} {a e : α} (b : Nat → α) {c : Nat} (hc : c < 256) :
    (if 256 + c < 256 then a else if 256 + c < 512 then b (256 + c - 256) else e) = b c :=
  (if_neg (Nat.not_lt.2 (Nat.le_add_right 256 c))).trans ((if_pos (Nat.add_lt_add_left hc 256)).trans
    (congrArg b (Nat.add_sub_cancel_left ..)))

/-- What is picked for event ring q. -/
theorem pick_eq {α : Type} {a b : α} (e : Nat → α) (q : Nat) :
    (if 512 + q < 256 then a else if 512 + q < 512 then b else e (512 + q - 512)) = e q :=
  (if_neg (Nat.not_lt.2 (Nat.le_add_right_of_le (by decide)))).trans ((if_neg (Nat.not_lt.2 (Nat.le_add_right 512 q))).trans
    (congrArg e (Nat.add_sub_cancel_left ..)))

/-- The record of ring x after its index word has come back: a record `G owed issued` that owed a read has it issued. -/
theorem indexBack_record {ρ : Type} {get : Dev → ρ} {G : ρ → Bool → Bool → ρ} {owed issued : ρ → Bool} {d : Dev} {x : Nat}
    (hr : ∀ d, d.readOwed x = owed (get d)) (hI : ∀ d b, get (d.setIssued x b) = G (get d) (owed (get d)) b)
    (hO : ∀ d b, get (d.setOwed x b) = G (get d) b (issued (get d))) (he : ∀ d m, get (Dev.emit d m) = get d)
    (hG : ∀ q o i o' i', G (G q o i) o' i' = G q o' i') (ho : ∀ q o i, owed (G q o i) = o) :
    get (d.indexBack x) = G (get d) false (owed (get d)) := by
  refine (apply_ite get _ _ _).trans ?_
  rw [readOwed_setIssued, hr, Dev.issueIndex, he, hI, hO, hI, hG, ho, hG]
  cases owed (get d) <;> rfl

theorem onlyChanges_indexBack {d : Dev} {x : Nat} {e : Table × Nat} (h : ringEntry x = e) :
    d.OnlyChanges (d.indexBack x) [] [e] [.out] :=
  iteInduction (motive := fun k => d.OnlyChanges k [] [e] [.out])
    (fun _ => (onlyChanges_setIssued d x false (List.mem_singleton.2 h)).trans
      (onlyChanges_issueIndex _ x (List.mem_singleton.2 h) (List.mem_singleton_self _)))
    fun _ => onlyChanges_setIssued d x false (List.mem_singleton.2 h)

/-- A wellhead write that came meanwhile makes the device read the tail word again. -/
theorem indexBack_out {d : Dev} {r : Nat} (hr : r < 256) :
    (d.indexBack r).out = d.out ++ if (d.sqS r).readOwed then [.hostRead (d.indexAddr r) 8 false] else [] := by
  have hframe := onlyChanges_setIssued (fs := []) (ps := []) d r false (List.mem_singleton_self _)
  have hout : (d.setIssued r false).out = d.out := hframe.2.2 .out List.not_mem_nil
  have haddr : (d.setIssued r false).indexAddr r = d.indexAddr r := (if_pos hr).trans
    ((congrArg₂ (fun x y => x + 2 ^ 32 * y) (hframe.rd List.not_mem_nil) (hframe.rd List.not_mem_nil)).trans
      (if_pos hr).symm)
  exact (apply_ite Dev.out _ _ _).trans ((if_congr (Bool.eq_iff_iff.1 ((readOwed_setIssued d r false).trans (if_pos hr)))
    ((issueIndex_out _ r).trans (congrArg₂ (fun o a => o ++ [Msg.hostRead a 8 false]) hout haddr))
    (hout.trans (List.append_nil _).symm)).trans (apply_ite (d.out ++ ·) _ _ _).symm)

theorem onlyChanges_out {d e : Dev} (h : d.OnlyChanges e [] [] [.msix, .out]) (hm : Part.msix.Same d e) :
    d.OnlyChanges e [] [] [.out] := by
  refine ⟨h.1, h.2.1, fun p hp => ?_⟩
  by_cases hx : p = .msix
  · exact hx ▸ hm
  · exact h.2.2 p fun hp' => (List.mem_cons.1 hp').elim hx hp

/-- The register that counts the commands in flight has room for as many as a ring may have (R319). -/
theorem inflight_lt {i n : Nat} (hn : n ≠ 0) (h : n ≤ 4096 - i) : i + n < 2 ^ 13 :=
  Nat.lt_of_le_of_lt (Nat.add_le_of_le_sub'
    (Nat.le_of_lt (Nat.lt_of_sub_pos (Nat.lt_of_lt_of_le (Nat.pos_of_ne_zero hn) h))) h) (by decide)

/-- What a ring may consume that is open, when its record and messages alone have changed from d to e. -/
theorem consumable_open {d e : Dev} {r v : Nat} (hframe : d.OnlyChanges e [] [(.sq, r)] [.out]) (hv : (e.sqS r).tail = v)
    (hreset : (e.sqS r).resetting = []) (hen : d.on .sqEn [r] = true)
    (hroom : (d.cqS (d.rd .sqCq [r])).waiting.length < 4096) :
    e.consumable r = min ((v + 2 ^ 32 - d.rd .sqConsumed [r]) % 2 ^ 32) (4096 - d.rd .sqInflight [r]) := by
  have hrd (f : Row) : e.rd f [r] = d.rd f [r] := hframe.rd List.not_mem_nil
  have hcq : e.cqS (e.rd .sqCq [r]) = d.cqS (d.rd .sqCq [r]) :=
    (congrArg e.cqS (hrd _)).trans
      (hframe.2.1 .cq _ fun h => Table.noConfusion (congrArg Prod.fst (List.mem_singleton.1 h)))
  refine (if_neg fun h => ?_).trans (congrArg₂ min (congrArg₂ (fun x y => (x + 2 ^ 32 - y) % 2 ^ 32) hv (hrd _))
    (congrArg (4096 - ·) (hrd _)))
  rw [(hframe.on List.not_mem_nil).trans hen, hreset, hcq] at h
  exact Nat.not_le.2 hroom (of_decide_eq_true h)

/-- The word of an enabled ring that is not faulty clears or renews its read and is kept. -/
theorem indexWordRead_makes {s : State} {x : Fin 576} {v : Nat} {d : Dev} (hen : s.dev.indexEnabled x = true)
    (hbad : (decide (x.val < 256) && s.dev.tailBad x (v % 2 ^ 32)) = false)
    (hd : (if x.val < 256 then ((s.dev.indexBack x).updSq x fun q => { q with tail := v % 2 ^ 32 }).consume x
      else if x.val < 512 then (s.dev.indexBack x).updCq (x.val - 256) fun q => { q with head := v % 2 ^ 32 }
      else (s.dev.indexBack x).updEq (x.val - 512) fun q => { q with head := v % 2 ^ 32 }) = d) :
    MakesThenRuns (.indexWordRead x v) s d :=
  makesThenRuns_of_eq ((if_neg fun h => Bool.false_ne_true ((congrArg not hen).symm.trans h)).trans
    (if_neg fun h => Bool.false_ne_true (hbad.symm.trans h))) hd

end

mutual

theorem indexBack_sqS {d : Dev} {r : Nat} (hr : r < 256) :
    (d.indexBack r).sqS r = { d.sqS r with readOwed := false, readIssued := (d.sqS r).readOwed } :=
  indexBack_record (get := (Dev.sqS · r)) (G := fun q o i => { q with readOwed := o, readIssued := i })
    (owed := SqState.readOwed) (issued := SqState.readIssued) (fun _ => if_pos hr)
    (fun _ _ => (congrArg (Dev.sqS · r) (if_pos hr)).trans (tget_tset_self ..))
    (fun _ _ => (congrArg (Dev.sqS · r) (if_pos hr)).trans (tget_tset_self ..))
    (fun _ _ => rfl) (fun _ _ _ _ _ => rfl) fun _ _ _ => rfl

theorem indexBack_cqS {d : Dev} {c : Nat} (hc : c < 256) :
    (d.indexBack (256 + c)).cqS c = { d.cqS c with readOwed := false, readIssued := (d.cqS c).readOwed } :=
  indexBack_record (get := (Dev.cqS · c)) (G := fun q o i => { q with readOwed := o, readIssued := i })
    (owed := CqState.readOwed) (issued := CqState.readIssued) (fun d => pick_cq (fun k => (d.cqS k).readOwed) hc)
    (fun d _ => (congrArg (Dev.cqS · c) (pick_cq (Dev.updCq d · _) hc)).trans (tget_tset_self ..))
    (fun d _ => (congrArg (Dev.cqS · c) (pick_cq (Dev.updCq d · _) hc)).trans (tget_tset_self ..))
    (fun _ _ => rfl) (fun _ _ _ _ _ => rfl) fun _ _ _ => rfl

theorem indexBack_eqS {d : Dev} (q : Nat) :
    (d.indexBack (512 + q)).eqS q = { d.eqS q with readOwed := false, readIssued := (d.eqS q).readOwed } :=
  indexBack_record (get := (Dev.eqS · q)) (G := fun q o i => { q with readOwed := o, readIssued := i })
    (owed := EqState.readOwed) (issued := EqState.readIssued) (fun d => pick_eq (fun k => (d.eqS k).readOwed) q)
    (fun d _ => (congrArg (Dev.eqS · q) (pick_eq (Dev.updEq d · _) q)).trans (tget_tset_self ..))
    (fun d _ => (congrArg (Dev.eqS · q) (pick_eq (Dev.updEq d · _) q)).trans (tget_tset_self ..))
    (fun _ _ => rfl) (fun _ _ _ _ _ => rfl) fun _ _ _ => rfl

/-- What a ring that consumes its next n descriptors has changed since d, when its record and messages alone had changed
from d to e. A ring has at most 4,096 descriptors in flight, and its count of them has room for that number (R319). -/
theorem consumeN_spec {d e : Dev} {r n : Nat} {q : SqState} {o : List Msg} (hframe : d.OnlyChanges e [] [(.sq, r)] [.out])
    (hq : e.sqS r = q) (ho : e.out = o) (h : n ≤ 4096 - d.rd .sqInflight [r]) :
    (e.consumeN r n).rd .sqConsumed [r] % 2 ^ 32 = (d.rd .sqConsumed [r] + n) % 2 ^ 32 ∧
    (e.consumeN r n).rd .sqInflight [r] = d.rd .sqInflight [r] + n ∧ (e.consumeN r n).sqS r = q ∧
    (e.consumeN r n).out = o ++ ((List.range n).map fun i => .hostRead (d.rd64 .sqBaseLo .sqBaseHi [r] +
      64 * ((d.rd .sqConsumed [r] + i) % 2 ^ d.rd .sqSize [r])) 64 false) ∧
    d.OnlyChanges (e.consumeN r n) [⟨.sqConsumed, [r]⟩, ⟨.sqInflight, [r]⟩] [(.sq, r)] [.out] := by
  have hrd (f : Row) : e.rd f [r] = d.rd f [r] := hframe.rd List.not_mem_nil
  have hframe' := hframe.mono (List.nil_subset [⟨.sqConsumed, [r]⟩, ⟨.sqInflight, [r]⟩]) (List.Subset.refl _)
    (List.Subset.refl _)
  induction n with
  | zero => exact ⟨congrArg (· % 2 ^ 32) (hrd _), hrd _, hq, ho.trans (List.append_nil _).symm, hframe'⟩
  | succ n =>
    have hregs : (e.consumeN r (n + 1)).regs = ((e.inc .sqConsumed [r] (n + 1)).inc .sqInflight [r] (n + 1)).regs := rfl
    have hrd' (f : Row) : (e.consumeN r (n + 1)).rd f [r] =
        ((e.inc .sqConsumed [r] (n + 1)).inc .sqInflight [r] (n + 1)).rd f [r] :=
      congrArg (regGet · ⟨f, [r]⟩) hregs
    have hsent : ((e.inc .sqConsumed [r] (n + 1)).inc .sqInflight [r] (n + 1)).OnlyChanges
        (e.consumeN r (n + 1)) [] [] [.out] :=
      onlyChanges_out (onlyChanges_msix_out _ _ (e.consumeN r (n + 1)).out _)
        ⟨@rfl _ e.msix, @rfl _ e.msixPending, @rfl _ e.pcie⟩
    refine ⟨?consumed, ?inflight, Eq.trans (hsent.2.1 .sq r List.not_mem_nil) hq, ?out, ((hframe'.trans
      (onlyChanges_wr e _ _ _ (List.mem_cons_self ..))).trans (onlyChanges_wr _ _ _ _ (List.mem_cons_of_mem _
        (List.mem_singleton_self _)))).trans (hsent.mono (List.nil_subset _) (List.nil_subset _) (List.Subset.refl _))⟩
    case consumed =>
      exact (congrArg (· % 2 ^ 32) ((hrd' _).trans ((rd_inc_ne _ _ _ _ (by decide)).trans (rd_wr_same ..)))).trans
        ((Nat.mod_mod ..).trans (congrArg (fun x => (x + (n + 1)) % 2 ^ 32) (hrd _)))
    case inflight =>
      exact (hrd' _).trans ((rd_wr_same ..).trans ((congrArg (fun x => (x + (n + 1)) % 2 ^ 13)
        ((rd_inc_ne _ _ _ _ (by decide)).trans (hrd _))).trans (Nat.mod_eq_of_lt (inflight_lt (Nat.succ_ne_zero n) h))))
    case out =>
      exact congrArg₂ (fun (o : List Msg) (g : Row → Nat) => o ++ (List.range (n + 1)).map fun i =>
        Msg.hostRead (g .sqBaseLo + 2 ^ 32 * g .sqBaseHi + 64 * ((g .sqConsumed + i) % 2 ^ g .sqSize)) 64 false)
        ho (funext hrd)

end

end Sys2Proof.Machine
end
section
/-! SUPPORT. Data that comes back, and host reads that fail (O8; R330, R336). -/

namespace Sys2Proof.Machine

mutual

/-- A command that is updated is found as its update. -/
theorem cmd_updCmd_some {d : Dev} {o : Origin} {c : Cmd} {f : Cmd → Cmd} (hc : d.cmd o = some c)
    (hf : ∀ x, (f x).origin = x.origin) : (d.updCmd o f).cmd o = some (f c) := by
  obtain ⟨x, hx⟩ := Option.isSome_iff_exists.1 (updCmd_cmd_isSome hf (congrArg Option.isSome hc))
  obtain ⟨b, hb, he⟩ := cmd_updCmd hx hf
  exact hx.trans (congrArg some (he.trans (congrArg f (Option.some.inj (hb.symm.trans hc)))))

/-- What a read of host memory for a command that gathers data makes of the device: the data joins what the command has, or the
command ends. -/
theorem hostReadCompletion_makes {s : State} {r : Fin 256} {seq : Nat} {data : Bytes} {ok : Bool} {c : Cmd} {d : Dev}
    (hc : s.dev.cmd (.ring r seq) = some c) (hop : c.op = 0x01 ∨ c.op = 0x10) (hphase : c.phase = .gathering)
    (hmore : c.delivered < c.arg)
    (hd : (if (!ok) = true then s.dev.hostMemory (.ring r seq) else
      ((s.dev.arriveUnits (.write (.ring r seq)) (unitsFor (c.delivered + (data.take (c.arg - c.delivered)).length) -
        unitsFor c.delivered)).noteIngress (data.take (c.arg - c.delivered)).length).updCmd (.ring r seq) fun x =>
          x.receive x.delivered (data.take (c.arg - c.delivered))) = d) :
    MakesThenRuns (.hostReadCompletion r seq data ok) s d := by
  refine makesThenRuns_of_eq rfl ?_
  dsimp only
  rw [hc]
  exact (if_neg fun h => absurd (hphase.symm.trans h.2) (by decide)).trans
    ((if_neg fun h => absurd (hphase.symm.trans h.2.2.1) (by decide)).trans ((if_pos ⟨hop, hphase, .inl hmore⟩).trans hd))

theorem dropOwner_keeps (d : Dev) (o : Owner) : Dev.Keeps busFailRows d (d.dropOwner o) :=
  (keeps_of_eq (d := d) (e := d.updBasin _) rfl rfl rfl).trans (releaseUnits_keeps _ o)

theorem Dev.UnitsOnly.cqS {d e : Dev} (h : d.UnitsOnly e) (c : Nat) : e.cqS c = d.cqS c := by
  rw [h]
  rfl

end

/-- The command is over, and its completion with class DEVICE waits for the ring's completion ring. -/
theorem hostMemory_waits {d : Dev} {r seq : Nat} {c : Cmd} (hc : d.cmd (.ring r seq) = some c) :
    ((d.hostMemory (.ring r seq)).cqS (d.rd .sqCq [r])).waiting = (d.cqS (d.rd .sqCq [r])).waiting ++
      [{ ring := r, seq := seq, cookie := c.cookie, cls := clsDevice, detail := detHostMemory,
          op := c.op, result := 0 }] := by
  have hleft := (dropOwner_unitsOnly (d.leaveLadders (.ring r seq)) (.delivery (.ring r seq))).trans
    (dropOwner_unitsOnly _ (.write (.ring r seq)))
  have hend := finish_ring _ r seq clsDevice detHostMemory 0 c ((congrArg (List.find? _) hleft.cmds).trans hc)
  have hrd : (((d.leaveLadders (.ring r seq)).dropOwner (.delivery (.ring r seq))).dropOwner
      (.write (.ring r seq))).rd .sqCq [r] = d.rd .sqCq [r] :=
    ((dropOwner_keeps _ _).rd _ _ (by decide)).trans ((dropOwner_keeps _ _).rd _ _ (by decide))
  exact (congrArg₂ (fun (e : Dev) k => (e.cqS k).waiting) hend hrd.symm).trans
    ((congrArg CqState.waiting (tget_tset_self ..)).trans
      (congrArg (fun q : CqState => q.waiting ++ _) ((congrArg (Dev.cqS _) hrd).trans (hleft.cqS _))))

end Sys2Proof.Machine
end
section
/-! SUPPORT. Rings that are enabled and disabled (O9; R314). -/

namespace Sys2Proof.Machine

/-! ### What a write of EN makes -/

/-- Every count of submission ring r is 0 and its record starts anew. -/
noncomputable def Dev.sqCleared (d : Dev) (r : Nat) : Dev :=
  ([Row.sqConsumed, .sqCompleted, .sqAborted, .sqInflight].foldl (fun d f => d.wr f [r] 0) d).updSq r fun q =>
    { q with tail := 0, readOwed := false, readIssued := false, started := 0, failed := [], resetting := [] }

/-- Every count of completion ring c is 0 and its record starts anew. -/
noncomputable def Dev.cqCleared (d : Dev) (c : Nat) : Dev :=
  (d.wr .cqPosted [c] 0).updCq c fun q => { q with head := 0, readOwed := false, readIssued := false, unsignalled := 0 }

/-- The device in which EN of ring x has been written: a ring that is enabled starts from counts of 0. -/
noncomputable def Dev.switched (d : Dev) (x : Nat) (en : Bool) : Dev :=
  if x < 256 then (if en then (d.forget x).sqCleared x else d).wr .sqEn [x] (if en then 1 else 0)
  else if x < 512 then (if en then d.cqCleared (x - 256) else d).wr .cqEn [x - 256] (if en then 1 else 0)
  else (if en then d.updEq (x - 512) fun _ => {} else d).wr .eqEn [x - 512] (if en then 1 else 0)

mutual

theorem ringEnable_makes {s : State} {x : Fin 576} {en : Bool} {d : Dev} (hr : s.dev.ready = true)
    (he : s.dev.indexEnabled x = !en)
    (hready : (en && !s.dev.ringReady x) = false) (hd : s.dev.switched x en = d) : Makes (.ringEnable x en) s d :=
  makes_of_eq ((if_neg (ne_true_of_eq_false (congrArg not hr))).trans
    ((if_neg fun h => Bool.not_ne_self en (he.symm.trans h)).trans (if_neg (ne_true_of_eq_false hready)))) hd

theorem foldl_wr_zero (l : List Row) (d : Dev) (ix : List Nat) {f : Row} (h : f ∈ l ∨ d.rd f ix = 0) :
    (l.foldl (fun d f => d.wr f ix 0) d).rd f ix = 0 := by
  induction l generalizing d with
  | nil => exact h.resolve_left List.not_mem_nil
  | cons g l ih =>
    refine ih _ ?_
    by_cases hg : f = g
    · exact .inr (hg ▸ (rd_wr_same ..).trans (Nat.zero_mod _))
    · exact h.imp (fun h => (List.mem_cons.1 h).resolve_left hg) fun h => (rd_wr_ne _ _ _ _ hg).trans h

theorem onlyChanges_foldl_wr (l : List Row) (d : Dev) (ix : List Nat) {fs : List Fld} {es : List (Table × Nat)}
    {ps : List Part} (h : ∀ f ∈ l, ⟨f, ix⟩ ∈ fs) : d.OnlyChanges (l.foldl (fun d f => d.wr f ix 0) d) fs es ps := by
  induction l generalizing d with
  | nil => exact onlyChanges_refl d _ _ _
  | cons g l ih =>
    exact (onlyChanges_wr d g ix 0 (h g (List.mem_cons_self ..))).trans (ih _ fun f hf => h f (List.mem_cons_of_mem g hf))

theorem onlyChanges_cqCleared (d : Dev) (c : Nat) : d.OnlyChanges ((d.cqCleared c).wr .cqEn [c] 1)
    [⟨.cqEn, [c]⟩, ⟨.cqPosted, [c]⟩] [(.cq, c)] [] :=
  ((onlyChanges_wr d _ _ _ (List.mem_cons_of_mem _ (List.mem_singleton_self _))).trans
    (onlyChanges_updCq _ c _ (List.mem_singleton_self _))).trans (onlyChanges_wr _ _ _ _ (List.mem_cons_self ..))

theorem forget_idle {d : Dev} {r : Nat} (h : d.ringBusy r = false) : d.forget r = d := if_pos (congrArg not h)

/-- A descriptor of the ring that is named becomes one of its past life, and one of another ring is no descriptor of it. -/
theorem sameQueue_retire (live : List Origin) (o : Origin) (r : Nat) (h : o.sameQueue (.ring r 0) = true → o ∈ live) :
    ¬ (o.retire fun x => live.contains x).sameQueue (.ring r 0) = true := by
  induction o with
  | ring a q =>
    exact iteInduction (motive := fun o : Origin => ¬ o.sameQueue (.ring r 0) = true) (fun _ => Bool.false_ne_true)
      fun hlive hs => hlive (List.contains_iff_mem.2 (h hs))
  | link a q => exact Bool.false_ne_true
  | past a q => exact Bool.false_ne_true

/-- No completion waits for the ring after those of the ring were dropped. -/
theorem forgotten_not_waiting (l : List (Nat × CqState)) (f : Nat × CqState → Nat × CqState) (r : Nat)
    (hf : ∀ e, (f e).2.waiting = e.2.waiting.filter fun k => k.marker || k.ring != r) :
    ((l.map f).any fun e => e.2.waiting.any fun k => k.ring == r && !k.marker) = false := by
  refine List.any_eq_false.2 fun e he => ?_
  obtain ⟨b, -, rfl⟩ := List.mem_map.1 he
  refine fun h => ?_
  obtain ⟨k, hk, hring⟩ := List.any_eq_true.1 h
  obtain ⟨heq, hmarker⟩ := Bool.and_eq_true_iff.1 hring
  obtain ⟨-, hkept⟩ := List.mem_filter.1 (hf b ▸ hk : k ∈ b.2.waiting.filter fun k => k.marker || k.ring != r)
  exact (Bool.or_eq_true_iff.1 hkept).elim (fun hm => Bool.false_ne_true ((congrArg not hm).symm.trans hmarker))
    fun hne => Bool.false_ne_true ((congrArg not heq).symm.trans hne)

theorem ringBusy_congr {d e : Dev} (hc : e.cmds = d.cmds) (hq : e.cq = d.cq) (r : Nat) : e.ringBusy r = d.ringBusy r :=
  congrArg₂ (fun (l : List Cmd) (k : Tab CqState) => (l.any fun c => c.origin.sameQueue (.ring r 0)) ||
    k.any fun e => e.2.waiting.any fun k => k.ring == r && !k.marker) hc hq

end

mutual

theorem onlyChanges_sqCleared (d : Dev) (r : Nat) : d.OnlyChanges ((d.sqCleared r).wr .sqEn [r] 1)
    [⟨.sqEn, [r]⟩, ⟨.sqConsumed, [r]⟩, ⟨.sqCompleted, [r]⟩, ⟨.sqAborted, [r]⟩, ⟨.sqInflight, [r]⟩] [(.sq, r)] [] :=
  ((onlyChanges_foldl_wr _ d [r] fun _ h => List.mem_cons_of_mem _
    (List.mem_map_of_mem (f := fun f : Row => (⟨f, [r]⟩ : Fld)) h)).trans
    (onlyChanges_updSq _ r _ (List.mem_singleton_self _))).trans (onlyChanges_wr _ _ _ _ (List.mem_cons_self ..))

/-- No command is one of the ring's after those of the ring became ones of its past life. -/
theorem retired_not_inFlight (l : List Cmd) (f : Cmd → Cmd) (r : Nat) (hf : ∀ c, (f c).origin =
    c.origin.retire fun x => ((l.map Cmd.origin).filter fun o => o.sameQueue (.ring r 0)).contains x) :
    ((l.map f).any fun c => c.origin.sameQueue (.ring r 0)) = false := by
  refine List.any_eq_false.2 fun c hc => ?_
  obtain ⟨b, hb, rfl⟩ := List.mem_map.1 hc
  exact (hf b).symm ▸ sameQueue_retire _ b.origin r fun hs => List.mem_filter.2 ⟨List.mem_map_of_mem hb, hs⟩

end

theorem forget_not_busy (d : Dev) (r : Nat) : (d.forget r).ringBusy r = false :=
  iteInduction (motive := fun e : Dev => e.ringBusy r = false) (fun h => (Bool.not_inj h : d.ringBusy r = false)) fun _ =>
    congrArg₂ or (retired_not_inFlight d.cmds _ r fun _ => rfl) (forgotten_not_waiting d.cq _ r fun _ => rfl)

end Sys2Proof.Machine
end
section
/-! SUPPORT. Words that a channel issues (O15): what leaves the queues, what a write stores, and what the check makes of
a read (R310, R428 to R435). -/

namespace Sys2Proof.Machine

/-- The device in which channel m has issued the entry. -/
noncomputable def Dev.issued (d : Dev) (m : Nat) (e : QEntry) : Dev :=
  (d.leaveQueue m e).emit (.dram m (e.data != []) e.word
    (if e.data = [] then [] else burstBeats (chipEncode e.data e.word)))

/-- An uncorrectable word is counted in UE of its subchannel unit and posted. -/
noncomputable def Dev.uncorrected (d : Dev) (e : QEntry) (kind : Nat) : Dev :=
  (d.inc .bsUe [(d.wordAddr e.word).u]).raise (bsSrc (d.wordAddr e.word).u 1) evBasinUe
    (le 8 (64 * e.word) ++ [kind, e.port])

/-- The rows that a block that leaves the ladder writes: the count of active blocks, and those of the units that come free. -/
def ladderRows : List Row := .rvActive :: busFailRows

mutual

theorem memGet_memWrite_off (b : Bytes) (m : List Host.Cell) (a j : Nat) (hm : Memory.wf m = true)
    (h : j < a ∨ a + b.length ≤ j) : memGet (memWrite m a b) j = memGet m j := by
  induction b generalizing m a with
  | nil => rfl
  | cons x b ih =>
    have hne : j ≠ a := h.elim Nat.ne_of_lt fun h => Nat.ne_of_gt
      (Nat.lt_of_lt_of_le (Nat.lt_add_of_pos_right (Nat.succ_pos _)) h)
    exact (ih _ _ (memSet_wf m a _ hm) (h.imp Nat.lt_succ_of_lt fun h => (Nat.succ_add_eq_add_succ ..).trans_le h)).trans
      ((memGet_memSet m a j _ none hm).trans (if_neg hne))

/-- What no channel tells stays when the entry that is chosen, if any, moves in its channel. -/
theorem chosen_keeps {β : Type} {K : Dev → β} (hchan : ∀ d m f, K (d.updChan m f) = K d) {d : Dev} {m : Nat}
    (o : Option QEntry) (f : QEntry → Chan → Chan) :
    K (match o with | some x => d.updChan m (f x) | none => d) = K d := by
  induction o with
  | none => rfl
  | some x => exact hchan d m (f x)

/-- The subchannel unit of a word does not depend on the counts of late words. -/
theorem unit_inc_late (d : Dev) (p w : Nat) : ((d.inc .bsPortLate [p]).wordAddr w).u = (d.wordAddr w).u :=
  congrArg (fun x : Nat => w % 8 ^^^ (if x = 2 then _ else _) % 8) (rd_inc_ne d _ _ _ (by decide))

/-- The value of a match on an entry that is chosen. -/
theorem match_entry {β : Type} {o : Option QEntry} {a : QEntry} (h : o = some a) (n : β) (f : QEntry → β) :
    (match (generalizing := false) o with | none => n | some x => f x) = f a :=
  h ▸ rfl

/-- A read of a word whose contents are known has the effect of what the check finds (R430). -/
theorem readIssues_checked {mem : List Host.Cell} {d : Dev} {e : QEntry} {error : List (Nat × Nat)} {address : Nat}
    {r : ChipResult} (hdet : d.determinate e.word = true) (h : readCheck mem e.word error address = r) :
    (∀ data, r = .good data → Dev.readIssues mem d e error address = (d.bar2Data e data false).cacheWord e (some data)) ∧
    ∀ kind, r = .uncorrectable kind → Dev.readIssues mem d e error address =
      if e.want.isSome then (d.uncorrected e kind).bar2Data e (zeros 64) true
      else ((d.uncorrected e kind).cacheWord e none).portFails e.port e.use := by
  delta Dev.readIssues
  rw [if_pos hdet, h]
  exact ⟨fun data hr => hr ▸ rfl, fun kind hr => hr ▸ rfl⟩

theorem cacheWord_keeps (d : Dev) (e : QEntry) (v : Option Bytes) :
    ((d.cacheWord e v).regs, (d.cacheWord e v).raised) = (d.regs, d.raised) := by
  induction e with
  | mk word port data seq deadline want bar2 cache use =>
    induction cache with
    | none => rfl
    | some k => rfl

/-- The value of a match on a range read that is found. -/
theorem match_barRead {β : Type} {o q : Option BarRead} (h : o = q) (n : β) (f : BarRead → β) :
    (match (generalizing := false) o with | none => n | some x => f x) =
      match (generalizing := false) q with | none => n | some x => f x :=
  h ▸ rfl

/-- A range within one word has that word alone. -/
theorem wordsOf_single {a n w : Nat} (hn : 0 < n) (ha : a / 64 = w) (hb : (a + n - 1) / 64 = w) : wordsOf a n = [w] :=
  (if_neg (Nat.ne_of_gt hn)).trans ((congrArg₂ (fun x y => (List.range (x - y + 1)).map (y + ·)) hb ha).trans
    (congrArg (fun k => (List.range (k + 1)).map (w + ·)) (Nat.sub_self w)))

/-- What holds of both cases of a match on a block of the ladder. -/
theorem match_ladder {P : Dev → Prop} {o : Option Ladder} {n : Dev} {f : Ladder → Dev} (hn : P n) (hf : ∀ x, P (f x)) :
    P (match o with | none => n | some x => f x) := by
  induction o with
  | none => exact hn
  | some x => exact hf x

theorem offLadder_keeps (d : Dev) (pba : Nat) : Dev.Keeps ladderRows d (d.offLadder pba) := keeps_of_eq rfl rfl rfl

theorem reserve_keeps (d : Dev) (p : Nat) : Dev.Keeps ladderRows d (d.reserve p) := keeps_of_eq rfl rfl rfl

end

mutual

theorem memGet_memWrite_at (b : Bytes) (m : List Host.Cell) (a i : Nat) (hm : Memory.wf m = true) (hi : i < b.length) :
    memGet (memWrite m a b) (a + i) = BitVec.ofNat 8 (b.getD i 0) := by
  induction b generalizing m a i with
  | nil => exact absurd hi (Nat.not_lt_zero i)
  | cons x b ih =>
    have hm' := memSet_wf m a (BitVec.ofNat 8 x) hm
    induction i with
    | zero =>
      exact (memGet_memWrite_off b _ _ a hm' (.inl (Nat.lt_succ_self a))).trans
        ((memGet_memSet m a a _ none hm).trans (if_pos rfl))
    | succ i =>
      exact (congrArg (memGet _) (Nat.succ_add_eq_add_succ a i).symm).trans
        (ih _ _ i hm' (Nat.lt_of_succ_lt_succ hi))

theorem admitWords_keeps {β : Type} {K : Dev → β} (hchan : ∀ d m f, K (d.updChan m f) = K d) {d : Dev} {m : Nat} :
    K (d.admitWords m) = K d :=
  (iteInduction (motive := fun e => K e = K _) (fun _ => chosen_keeps hchan _ _) fun _ => rfl).trans
    (iteInduction (motive := fun e => K e = K d) (fun _ => chosen_keeps hchan _ _) fun _ => rfl)

/-- What a read that is issued makes, and what a write that is not the patrol's: it is stored, and the word's contents are known
from then on (log entry 12). -/
theorem basinCommandIssue_makes {s : State} {m : Fin 4} {e : QEntry} (error : List (Nat × Nat)) (address : Nat)
    (he : s.dev.nextIssue m = some e) : (e.data = [] → MakesThenRuns (.basinCommandIssue m error address) s
      (Dev.readIssues s.mem (s.dev.issued m e) e error address)) ∧
    (e.data ≠ [] → e.port ≠ 8 → ∃ t, exec (.basinCommandIssue m error address) s = .next t ∧
      t.mem = memWrite s.mem (64 * e.word) e.data ∧ t.dev.out = (s.dev.issued m e).out ∧ t.pending = s.pending) := by
  have hissue : execBasinCommandIssue m error address s = _ := match_entry he _ _
  exact ⟨fun hdata => hissue.trans (if_pos hdata),
    fun hdata hport => ⟨_, hissue.trans (if_neg hdata), if_neg fun h => hport h.1,
    iteInduction (motive := fun d => Dev.out d = _) (fun _ => rfl) fun _ => rfl, rfl⟩⟩

/-- A read that is no read of a BAR2 range sends nothing; the word of a range within one word goes to the host as the bytes of the
range (R310). -/
theorem bar2Data_sends (d : Dev) (e : QEntry) (data : Bytes) (poisoned : Bool) :
    (e.want = none → d.bar2Data e data poisoned = d) ∧
    ∀ id a n, e.want = some id → d.basin.barReads = [⟨id, a, n, []⟩] → wordsOf a n = [e.word] →
      (d.bar2Data e data poisoned).out = d.out ++ [.barRead (slice data (a % 64) n) poisoned] ∧
      (d.bar2Data e data poisoned).basin.barReads = [] := by
  have hgo {q} (h : (d.basin.barReads.find? fun r => some r.id == e.want) = q) : d.bar2Data e data poisoned = _ :=
    match_barRead h d _
  refine ⟨fun hw => hgo (List.find?_eq_none.2 fun r _ => hw ▸ Bool.false_ne_true), fun id a n hw hreads hwords => ?_⟩
  have hfound := (congrArg (List.find? _) hreads).trans
    (find_of_singleton (e := BarRead.mk id a n []) (p := fun r => some r.id == e.want) (beq_iff_eq.2 hw.symm))
  have hgot : (wordsOf a n).map (tget ([], false) (tset [] e.word (data, poisoned))) = [(data, poisoned)] :=
    (congrArg (List.map _) hwords).trans (congrArg (fun x => [x]) (tget_tset_self ..))
  have hall : ((wordsOf a n).all (thas (tset [] e.word (data, poisoned)))) = true :=
    (congrArg (List.all · _) hwords).trans (Bool.and_eq_true_iff.2 ⟨Bool.or_eq_true_iff.2 (.inl (beq_self_eq_true _)), rfl⟩)
  have hsent := (hgo hfound).trans (if_pos hall)
  refine ⟨(congrArg Dev.out hsent).trans ((congrArg (fun l : List (Bytes × Bool) =>
    d.out ++ [.barRead (slice (l.flatMap Prod.fst) (a % 64) n) (l.any Prod.snd)]) hgot).trans
    (congrArg₂ (fun b q => d.out ++ [.barRead (slice b (a % 64) n) q]) (List.append_nil data)
      (Bool.or_false poisoned))), ?_⟩
  exact (congrArg (·.basin.barReads) hsent).trans ((congrArg (List.filter _) hreads).trans
    (List.filter_cons_of_neg (ne_true_of_eq_false (bne_self_eq_false id))))

theorem leaveLadder_keeps (d : Dev) (pba : Nat) : Dev.Keeps ladderRows d (d.leaveLadder pba) := by
  refine match_ladder (P := Dev.Keeps ladderRows d) (f := fun e => ((if e.waiting then d.offLadder pba
      else (d.offLadder pba).dec .rvActive []).dropOwner (.ladder pba)).reserve (pbaSurface pba)) (keeps_refl d) fun e => ?_
  refine .step (reserve_keeps _ _) (.step ((dropOwner_keeps _ _).mono (List.subset_cons_self ..)) ?_)
  exact iteInduction (motive := Dev.Keeps ladderRows d) (fun _ => offLadder_keeps d pba) fun _ =>
    .wr (offLadder_keeps d pba) (List.mem_cons_self ..)

end

mutual

/-- What neither the queues of channels nor the counts of late words tell stays when an entry leaves. -/
theorem leaveQueue_keeps {β : Type} {K : Dev → β} (hchan : ∀ d m f, K (d.updChan m f) = K d) {d : Dev} {m : Nat}
    (x : QEntry) (hlate : K (d.inc .bsPortLate [x.port]) = K d) : K (d.leaveQueue m x) = K d :=
  (admitWords_keeps hchan).trans ((hchan ..).trans (iteInduction (motive := fun e => K e = K d) (fun _ => hlate)
    fun _ => rfl))

/-- A word of P3 that is uncorrectable ends no more than a block of the ladder. -/
theorem portFails_keeps (d : Dev) (use : WordUse) : Dev.Keeps ladderRows d (d.portFails 3 use) := by
  induction use with
  | position pba => exact (leaveLadder_keeps d pba).trans (keeps_of_eq rfl rfl rfl)
  | _ => exact keeps_refl d

/-- A read of a BAR2 range within one word comes back, poisoned and as zeros when the word is uncorrectable (R310). -/
theorem readIssues_returns {mem : List Host.Cell} {d : Dev} {e : QEntry} {error : List (Nat × Nat)} {address : Nat}
    (hdet : d.determinate e.word = true) {id a n : Nat} {l : List Msg} {x : Msg} (hwant : e.want = some id)
    (hcache : e.cache = none)
    (hreads : d.basin.barReads = [⟨id, a, n, []⟩]) (hwords : wordsOf a n = [e.word]) (hout : d.out = l ++ [x]) :
    (∀ data, readCheck mem e.word error address = .good data →
      (Dev.readIssues mem d e error address).out = l ++ [x, .barRead (slice data (a % 64) n) false] ∧
      (Dev.readIssues mem d e error address).basin.barReads = []) ∧
    ∀ kind, readCheck mem e.word error address = .uncorrectable kind →
      (Dev.readIssues mem d e error address).out = l ++ [x, .barRead (slice (zeros 64) (a % 64) n) true] ∧
      (Dev.readIssues mem d e error address).basin.barReads = [] := by
  refine ⟨fun data hgood => ?good, fun kind hkind => ?uncorrectable⟩
  case good =>
    have hgo := ((readIssues_checked hdet hgood).1 data rfl).trans (if_pos (congrArg Option.isNone hcache))
    have hsent := (bar2Data_sends d e data false).2 id a n hwant hreads hwords
    exact ⟨(congrArg Dev.out hgo).trans (hsent.1.trans ((congrArg (· ++ _) hout).trans (List.append_assoc ..))),
      (congrArg (·.basin.barReads) hgo).trans hsent.2⟩
  case uncorrectable =>
    have hgo := ((readIssues_checked hdet hkind).2 kind rfl).trans (if_pos (congrArg Option.isSome hwant))
    have hsent := (bar2Data_sends (d.uncorrected e kind) e (zeros 64) true).2 id a n hwant hreads hwords
    exact ⟨(congrArg Dev.out hgo).trans (hsent.1.trans ((congrArg (· ++ _) hout).trans (List.append_assoc ..))),
      (congrArg (·.basin.barReads) hgo).trans hsent.2⟩

end

mutual

/-- What the queues, the counts of late words and what is sent do not tell stays when an entry is issued. -/
theorem issued_keeps {β : Type} (K : Dev → β) {d : Dev} {m : Nat} {e : QEntry} (hchan : ∀ d m f, K (d.updChan m f) = K d)
    (hemit : ∀ d x, K (Dev.emit d x) = K d) (hlate : K (d.inc .bsPortLate [e.port]) = K d) : K (d.issued m e) = K d :=
  (hemit ..).trans (leaveQueue_keeps hchan e hlate)

theorem issued_out (d : Dev) (m : Nat) (e : QEntry) : (d.issued m e).out =
    d.out ++ [.dram m (e.data != []) e.word (if e.data = [] then [] else burstBeats (chipEncode e.data e.word))] :=
  congrArg (· ++ _) (leaveQueue_keeps (K := Dev.out) (fun _ _ _ => rfl) e rfl)

/-- A read of P3 of the basin's own: counted and posted when uncorrectable, and neither when good (R430). -/
theorem readIssues_counts {mem : List Host.Cell} {d : Dev} {e : QEntry} {error : List (Nat × Nat)} {address : Nat}
    (hdet : d.determinate e.word = true) {n : Nat → Nat} {l : List Occ} {u : Nat} (hwant : e.want = none)
    (hport : e.port = 3)
    (hn : ∀ v, d.rd .bsUe [v] = n v) (hl : d.raised = l) (hu : (d.wordAddr e.word).u = u) :
    (∀ kind, readCheck mem e.word error address = .uncorrectable kind →
      (Dev.readIssues mem d e error address).rd .bsUe [u] = (n u + 1) % 2 ^ 32 ∧
      ∃ more, (Dev.readIssues mem d e error address).raised =
        l ++ ⟨0x680 + 4 * u + 1, 0x1302, le 8 (64 * e.word) ++ [kind, 3]⟩ :: more) ∧
    ∀ data, readCheck mem e.word error address = .good data →
      (∀ v, (Dev.readIssues mem d e error address).rd .bsUe [v] = n v) ∧
        (Dev.readIssues mem d e error address).raised = l := by
  refine ⟨fun kind hkind => ?uncorrectable, fun data hgood => ?good⟩
  case uncorrectable =>
    have hgo := ((readIssues_checked hdet hkind).2 kind rfl).trans
      (if_neg (ne_true_of_eq_false (congrArg Option.isSome hwant)))
    have hkept : Dev.Keeps ladderRows ((d.uncorrected e kind).cacheWord e none) (Dev.readIssues mem d e error address) := by
      rw [hgo, hport]
      exact portFails_keeps _ e.use
    have hcached := cacheWord_keeps (d.uncorrected e kind) e none
    obtain ⟨more, hmore⟩ := hkept.raised
    subst hu
    refine ⟨(hkept.rd .bsUe _ (by decide)).trans ((congrArg (fun k : _ × List Occ => regGet k.1 ⟨.bsUe, _⟩) hcached).trans
      ((rd_inc_self d .bsUe _).trans (congrArg (fun x => (x + 1) % 2 ^ 32) (hn _)))), more, hmore.symm.trans ?_⟩
    exact (congrArg (· ++ more) (congrArg Prod.snd hcached)).trans ((List.append_assoc ..).trans
      (congrArg₂ (fun l p => l ++ ⟨_, _, le 8 (64 * e.word) ++ [kind, p]⟩ :: more) hl hport))
  case good =>
    have hgo := (((readIssues_checked hdet hgood).1 data rfl).trans
      (congrArg (Dev.cacheWord · e (some data)) ((bar2Data_sends ..).1 hwant)))
    have hk := (congrArg (fun d : Dev => (d.regs, d.raised)) hgo).trans (cacheWord_keeps ..)
    exact ⟨fun v => (congrArg (fun k : _ × List Occ => regGet k.1 ⟨.bsUe, [v]⟩) hk).trans (hn v),
      (congrArg Prod.snd hk).trans hl⟩

end

end Sys2Proof.Machine
end
section
/-! The obligations of the host rings: what each turns on stands in the sections before. -/

namespace Sys2Proof.Machine

mutual

/-- Settles O7: what is asked for is read at once or owed (`Dev.askIndex`), and a poll reads each of the words it names. -/
theorem indexWordsAreAskedFor : Obligations.IndexWordsAreAskedFor := by
  refine ⟨fun s v hr hv he hi => ?asks, fun s v hr hv he hi => ?owes, wellheadWrite_ignored, fun _ => rfl,
    fun s x hx he hc hq => ?full, fun s hp hr => ?poll, fun s hp => makes_of_eq rfl (if_pos (.inl hp))⟩
  case asks =>
    have hask : s.dev.askIndex v = s.dev.issueIndex v := if_neg (hi ▸ Bool.false_ne_true)
    exact ⟨_, hask ▸ wellheadWrite_asks hr hv he, issueIndex_readIssued _ v, issueIndex_readOwed _ v, issueIndex_out _ v,
      onlyChanges_issueIndex _ v (List.mem_singleton_self _) (List.mem_singleton_self _)⟩
  case owes =>
    have hask : s.dev.askIndex v = s.dev.setOwed v true := if_pos hi
    exact ⟨_, hask ▸ wellheadWrite_asks hr hv he, readOwed_setOwed _ v true,
      onlyChanges_setOwed _ v true (List.mem_singleton_self _)⟩
  case full =>
    exact ⟨_, fullRingReread_polls hx he hc hq, pollIndex_spec _ _ (List.mem_singleton_self _) (List.mem_singleton_self _)⟩
  case poll =>
    have hread {x : Nat} (l : List Nat) (h : x ∈ l) := foldl_pollIndex_readIssued s.dev l (.inr h)
    have hkept (l : List Nat) := foldl_kept (fun d : Dev => (d.regs, d.cmds, d.raised)) _ pollIndex_keeps l s.dev
    refine ⟨_, makes_of_eq rfl (if_neg (not_or.2 ⟨hp, fun h => Bool.false_ne_true ((congrArg not hr).symm.trans h)⟩)),
      fun r h he h' => hread _ ?_, fun c h he h' => hread _ ?_, fun q h he h' => hread _ ?_, congrArg Prod.fst (hkept _),
      congrArg (·.2.1) (hkept _), congrArg (·.2.2) (hkept _)⟩
    · exact List.mem_append_left _ (List.mem_append_left _
        (List.mem_filter.2 ⟨List.mem_range.2 h, Bool.and_eq_true_iff.2 ⟨he, h'⟩⟩))
    · exact List.mem_append_left _ (List.mem_append_right _
        (List.mem_map_of_mem (List.mem_filter.2 ⟨List.mem_range.2 h, Bool.and_eq_true_iff.2 ⟨he, h'⟩⟩)))
    · exact List.mem_append_right _ (List.mem_map_of_mem
        (List.mem_filter.2 ⟨List.mem_range.2 h, Bool.and_eq_true_iff.2 ⟨he, Bool.or_eq_true_iff.2 h'⟩⟩))

/-- Settles O8: a word that comes back clears or renews its read (`Dev.indexBack`), and a tail word lets its ring consume; data
joins what the command has, and an error ends it. -/
theorem hostReadsComeBack : Obligations.HostReadsComeBack := by
  refine ⟨fun s r v hen hbad hreset hroom => ?tail, fun s c v hen => ?completion, fun s q v hen => ?event,
    fun s r seq data c hc hop hphase hmore =>
      ⟨⟨_, hostReadCompletion_makes hc hop hphase hmore (if_neg Bool.false_ne_true),
          cmd_updCmd_some (f := fun x => x.receive x.delivered _) hc fun _ => rfl⟩,
        ⟨_, hostReadCompletion_makes hc hop hphase hmore (if_pos rfl), finish_ring_cmd _ r seq _ _, hostMemory_waits hc⟩⟩⟩
  case tail =>
    have hframe := (onlyChanges_indexBack (d := s.dev) (if_pos r.isLt)).trans
      (onlyChanges_updSq _ r.val (fun q => { q with tail := v % 2 ^ 32 }) (List.mem_singleton_self _))
    have hrecord : ((s.dev.indexBack r).updSq r fun q => { q with tail := v % 2 ^ 32 }).sqS r = _ :=
      (tget_tset_self ..).trans (congrArg (fun q : SqState => { q with tail := v % 2 ^ 32 }) (indexBack_sqS r.isLt))
    have hcons := consumable_open hframe (congrArg SqState.tail hrecord)
      ((congrArg SqState.resetting hrecord).trans hreset) hen hroom
    exact ⟨_, _, indexWordRead_makes ((if_pos r.isLt).trans hen) ((congrArg _ hbad).trans (Bool.and_false _))
      ((if_pos r.isLt).trans (congrArg (Dev.consumeN _ r) hcons)), rfl,
      consumeN_spec hframe hrecord (indexBack_out r.isLt) (min_le_right _ _)⟩
  case completion =>
    exact ⟨_, indexWordRead_makes ((pick_cq (fun k => s.dev.on .cqEn [k]) c.isLt).trans hen)
      (congrArg (· && s.dev.tailBad (256 + c) (v % 2 ^ 32)) (decide_eq_false (Nat.not_lt.2 (Nat.le_add_right ..))))
      (pick_cq (fun k => (s.dev.indexBack (256 + c)).updCq k fun q => { q with head := v % 2 ^ 32 }) c.isLt),
      (tget_tset_self ..).trans (congrArg (fun q : CqState => { q with head := v % 2 ^ 32 }) (indexBack_cqS c.isLt)),
      (onlyChanges_indexBack (pick_cq (fun k => (Table.cq, k)) c.isLt)).trans
        (onlyChanges_updCq _ _ _ (List.mem_singleton_self _))⟩
  case event =>
    exact ⟨_, indexWordRead_makes ((pick_eq (fun k => s.dev.on .eqEn [k]) q).trans hen)
      (congrArg (· && s.dev.tailBad (512 + q) (v % 2 ^ 32))
        (decide_eq_false (Nat.not_lt.2 (Nat.le_add_right_of_le (by decide)))))
      (pick_eq (fun k => (s.dev.indexBack (512 + q)).updEq k fun q => { q with head := v % 2 ^ 32 }) q),
      (tget_tset_self ..).trans (congrArg (fun q : EqState => { q with head := v % 2 ^ 32 }) (indexBack_eqS q)),
      (onlyChanges_indexBack (pick_eq (fun k => (Table.eq, k)) q)).trans
        (onlyChanges_updEq _ _ _ (List.mem_singleton_self _))⟩

/-- Settles O9: a ring that is enabled is cleared (`Dev.switched`); a submission ring first forgets its life before. -/
theorem enablingARingClearsItsCounts : Obligations.EnablingARingClearsItsCounts := by
  refine ⟨fun s r hr he hready => ?submission, fun s c hr he hready => ?completion, fun s q hr he hready => ?event,
    fun s x en hr he => (if_neg (ne_true_of_eq_false (congrArg not hr))).trans (if_pos he), fun s x hr he => ?disable⟩
  case submission =>
    have hcount {d : Dev} {f : Row} (hf : f ∈ [Row.sqConsumed, .sqCompleted, .sqAborted, .sqInflight]) (hne : f ≠ .sqEn) :
        ((d.sqCleared r).wr .sqEn [r.val] 1).rd f [r.val] = 0 :=
      (rd_wr_ne _ _ _ _ hne).trans (foldl_wr_zero _ d [r.val] (.inl hf))
    exact ⟨((s.dev.forget r).sqCleared r).wr .sqEn [r.val] 1,
      ringEnable_makes hr ((if_pos r.isLt).trans he) (congrArg not hready) (if_pos r.isLt), on_wr_one _ _ (by decide),
      hcount (by decide) (by decide), hcount (by decide) (by decide), hcount (by decide) (by decide),
      hcount (by decide) (by decide), congrArg SqState.tail (tget_tset_self ..),
      congrArg SqState.started (tget_tset_self ..),
      (ringBusy_congr rfl rfl r).trans (forget_not_busy s.dev r),
      fun hidle => (forget_idle hidle).symm ▸ onlyChanges_sqCleared s.dev r⟩
  case completion =>
    exact ⟨_, ringEnable_makes hr ((pick_cq (fun k => s.dev.on .cqEn [k]) c.isLt).trans he) (congrArg not hready)
      (pick_cq (fun k => (s.dev.cqCleared k).wr .cqEn [k] 1) c.isLt), on_wr_one _ _ (by decide),
      (rd_wr_ne _ _ _ _ (by decide)).trans (rd_wr_same s.dev .cqPosted [c.val] 0),
      congrArg CqState.head (tget_tset_self ..),
      onlyChanges_cqCleared s.dev c⟩
  case event =>
    exact ⟨_, ringEnable_makes hr ((pick_eq (fun k => s.dev.on .eqEn [k]) q.val).trans he) (congrArg not hready)
      (pick_eq (fun k => (s.dev.updEq k fun _ => {}).wr .eqEn [k] 1) q.val), on_wr_one _ _ (by decide),
      congrArg EqState.posted (tget_tset_self ..), congrArg EqState.head (tget_tset_self ..),
      (onlyChanges_updEq s.dev q _ (List.mem_singleton_self _)).trans (onlyChanges_wr _ _ _ _ (List.mem_singleton_self _))⟩
  case disable =>
    refine ⟨_, ringEnable_makes hr he rfl rfl, ?_⟩
    exact byRing x.val (P := fun pick =>
      let d := pick _ (s.dev.wr .sqEn [x.val] 0) (s.dev.wr .cqEn [x.val - 256] 0) (s.dev.wr .eqEn [x.val - 512] 0)
      pick _ (d.on .sqEn [x.val]) (d.on .cqEn [x.val - 256]) (d.on .eqEn [x.val - 512]) = false ∧
      s.dev.OnlyChanges d [pick _ ⟨.sqEn, [x.val]⟩ ⟨.cqEn, [x.val - 256]⟩ ⟨.eqEn, [x.val - 512]⟩] [] [])
      (fun _ => ⟨on_wr_zero .., onlyChanges_wr _ _ _ _ (List.mem_singleton_self _)⟩)
      (fun _ _ => ⟨on_wr_zero .., onlyChanges_wr _ _ _ _ (List.mem_singleton_self _)⟩)
      (fun _ => ⟨on_wr_zero .., onlyChanges_wr _ _ _ _ (List.mem_singleton_self _)⟩)

/-- Settles O11: a QUEUE_RESET of an idle ring makes `Dev.resetRing`, and its marker then joins the ring's completions. -/
theorem queueResetAbortsWhatIsPlaced : Obligations.QueueResetAbortsWhatIsPlaced := by
  refine ⟨fun s cookie t tail hs ht hlt hc hw hst htail => ?reset,
    fun s t seq n first last c rest hcq hreset hnone hquiet => ?marker⟩
  case reset =>
    have hother : (s.dev.started 0 (resetCmd cookie t)).sqS t = s.dev.sqS t := (tget_tset ..).trans (if_neg ht.ne')
    have hstarted := (congrArg SqState.started hother).trans hst
    exact ⟨_, _, queueReset_idle hs ht hlt hc hw htail hstarted, rfl,
      resetRing_idle (d := s.dev.started 0 (resetCmd cookie t)) hlt hstarted (congrArg SqState.resetting hother) rfl⟩
  case marker =>
    refine ⟨?device, makesThenRuns_of_eq rfl ?makes, ?frame, ?waits⟩
    case makes =>
      beta_reduce
      rewrite [hreset, ← hcq]
      refine if_neg ?_
      rintro (h | h)
      · obtain ⟨k, hk, hmark⟩ := List.any_eq_true.1 h
        exact hnone k hk ((Bool.and_eq_true_iff.1 hmark).imp_right beq_iff_eq.1)
      · obtain ⟨x, hx, hsame⟩ := List.any_eq_true.1 h
        exact Bool.false_ne_true ((hquiet x hx).symm.trans hsame)
    case frame => exact onlyChanges_updCq _ _ _ (List.mem_singleton_self _)
    case waits => exact congrArg CqState.waiting (tget_tset_self ..)

/-- Settles O15: what a channel issues leaves its queue (`Dev.issued`); a write is stored by `memGet_memWrite_at`, and a read has the
effect of what the check finds. -/
theorem issuedWordsAreStoredAndChecked : Obligations.IssuedWordsAreStoredAndChecked := by
  refine ⟨fun s m error address e hwf he hlen hport => ?write,
    fun s m error address u e he hdata hwant hport hdet hu => ?read,
    fun s m error address a n id e he hdata hwant hcache _ hdet hreads hn ha hb => ?range⟩
  case write =>
    have hdata : e.data ≠ [] := List.ne_nil_of_length_pos (Nat.lt_of_lt_of_eq (by decide) hlen.symm)
    obtain ⟨t, ht, hmem, hout, hpending⟩ := (basinCommandIssue_makes error address he).2 hdata (Nat.ne_of_lt hport)
    refine ⟨t, ht, fun i hi => ?_, fun j hj => ?_, (hout.trans (issued_out s.dev m e)).trans ?_, hpending⟩
    · exact (congrArg (memGet · _) hmem).trans (memGet_memWrite_at e.data _ _ i hwf (Nat.lt_of_lt_of_eq hi hlen.symm))
    · exact (congrArg (memGet · j) hmem).trans (memGet_memWrite_off e.data _ _ j hwf (hlen.symm ▸ hj))
    · exact congrArg₂ (fun b l => s.dev.out ++ [Msg.dram m b e.word l]) (bne_iff_ne.2 hdata) (if_neg hdata)
  case read =>
    have hcounts := readIssues_counts (mem := s.mem) (d := s.dev.issued m e) (error := error) (address := address)
      ((issued_keeps (m := m) (Dev.determinate · e.word) (fun _ _ _ => rfl) (fun _ _ => rfl) rfl).trans hdet) hwant hport
      (fun v => issued_keeps (Dev.rd · .bsUe [v]) (fun _ _ _ => rfl) (fun _ _ => rfl) (rd_inc_ne s.dev _ _ _ (by decide)))
      (issued_keeps Dev.raised (d := s.dev) (fun _ _ _ => rfl) (fun _ _ => rfl) rfl)
      ((issued_keeps (fun d => (d.wordAddr e.word).u) (fun _ _ _ => rfl) (fun _ _ => rfl) (unit_inc_late ..)).trans hu)
    exact ⟨_, (basinCommandIssue_makes error address he).1 hdata, hcounts⟩
  case range =>
    have hsent := (issued_out s.dev m e).trans (congrArg (fun b : Bytes => s.dev.out ++
      [Msg.dram m (b != []) e.word (if b = [] then [] else burstBeats (chipEncode b e.word))]) hdata)
    have hreturns := readIssues_returns (mem := s.mem) (d := s.dev.issued m e) (error := error) (address := address)
      ((issued_keeps (m := m) (Dev.determinate · e.word) (fun _ _ _ => rfl) (fun _ _ => rfl) rfl).trans hdet) hwant hcache
      ((issued_keeps (·.basin.barReads) (fun _ _ _ => rfl) (fun _ _ => rfl) rfl).trans hreads)
        (wordsOf_single hn ha hb) hsent
    exact ⟨_, (basinCommandIssue_makes error address he).1 hdata, hreturns⟩

end

end Sys2Proof.Machine
end
